-- ==== Sys2Proof/Word.lean ====
section
/-! DEFINITION. The word types of the machine and the operand shapes of its instructions
(R9, R22, R23, R46, R72, R94, R153, R181, R187, R220, R241, R273, R313). -/

namespace Sys2Proof

/-- A 32-bit register or memory word (R9). -/
abbrev Word := BitVec 32

/-- One byte of storage (R6). -/
abbrev Byte := BitVec 8

/-- A 16-bit instruction word (R22). -/
abbrev Half := BitVec 16

/-- A 128-bit segment descriptor (R64). -/
abbrev Desc := BitVec 128

/-- A general register number after XG (R23). -/
abbrev Reg := BitVec 7

/-- A vector register number, v0 to v7 (R23). -/
abbrev VReg := BitVec 3

/-- A flag number, f0 to f31 (R23). -/
abbrev Flg := BitVec 5

/-- A number of a class of four: queue registers, tiles, sections, precision words, amax registers (R23). -/
abbrev Four := BitVec 2

/-- What the XG word of a chain gives beside register bits: whether it stands there, and the guard (R27). -/
structure Pfx where
  xg : Bool
  guard : BitVec 5
deriving DecidableEq, Repr

/-- The payload of an XT word whose C is a general register (R29). -/
structure Xt where
  c : Reg
  sb : Bool
  sc : Bool
deriving DecidableEq, Repr

/-- The payload of an XT word whose C is a vector register (R94). -/
structure XtV where
  c : VReg
  sb : Bool
  sc : Bool
deriving DecidableEq, Repr

/-- An immediate: the number of XI words and the gathered bits, not extended (R26). -/
structure Imm where
  k : Nat
  raw : BitVec 32
deriving DecidableEq, Repr

/-- Shape T: `op gA, gB, gC`; without XT, C is A (R46, R24). -/
structure ShT where
  p : Pfx
  a : Reg
  b : Reg
  xt : Option Xt
deriving DecidableEq, Repr

/-- Shape U: `op gA, gB`; `sb` is the sync bit of an XT word when there is one (R46). -/
structure ShU where
  p : Pfx
  a : Reg
  b : Reg
  sb : Option Bool
deriving DecidableEq, Repr

/-- Shape I: `op gA, imm` (R46). -/
structure ShI where
  p : Pfx
  a : Reg
  imm : Imm
deriving DecidableEq, Repr

/-- Shape K: `op fA, gB, gC`; without XT, C has the flag's number (R46, R54). -/
structure ShK where
  p : Pfx
  fa : Flg
  b : Reg
  xt : Option Xt
deriving DecidableEq, Repr

/-- Shape L: `op fA, fB, fC` (R46). -/
structure ShL where
  p : Pfx
  fa : Flg
  fb : Flg
  fc : Option Flg
deriving DecidableEq, Repr

/-- FNOT: `fnot fA, fB` (R56). -/
structure ShFF where
  p : Pfx
  fa : Flg
  fb : Flg
deriving DecidableEq, Repr

/-- Format J: `op target` (R26, R59). -/
structure ShJ where
  p : Pfx
  imm : Imm
deriving DecidableEq, Repr

/-- Format FB: `op fN, target` (R26, R59). -/
structure ShFB where
  p : Pfx
  f : Flg
  imm : Imm
deriving DecidableEq, Repr

/-- One general register in field A (MFF, EXIT, CHBLK, CHUNB, CEXIT). -/
structure ShA where
  p : Pfx
  a : Reg
deriving DecidableEq, Repr

/-- One general register in field B, no XT (WAITALL, TAGCLR). -/
structure ShB where
  p : Pfx
  b : Reg
deriving DecidableEq, Repr

/-- JR: `jr gB`, with an XT word that can synchronise gB (R60). -/
structure ShBU where
  p : Pfx
  b : Reg
  sb : Option Bool
deriving DecidableEq, Repr

/-- Two general registers, no XT (SEND, CHSET, TLBINV, WAITANY, TAGFF). -/
structure ShAB where
  p : Pfx
  a : Reg
  b : Reg
deriving DecidableEq, Repr

/-- No operand (TRIGGER, WAIT, ERET). -/
structure ShZ where
  p : Pfx
deriving DecidableEq, Repr

/-- Format M with a general data register and RLX (R72, R181). -/
structure ShM where
  p : Pfx
  a : Reg
  b : Reg
  xt : Option Xt
  imm : Imm
  rlx : Option (BitVec 3)
deriving DecidableEq, Repr

/-- Format M with a general data register and no RLX (TAGRD, RSV, RLS; R181). -/
structure ShMN where
  p : Pfx
  a : Reg
  b : Reg
  xt : Option Xt
  imm : Imm
deriving DecidableEq, Repr

/-- Format M with field A zero (WATCH, UNWATCH; R181). -/
structure ShMZ where
  p : Pfx
  b : Reg
  xt : Option Xt
  imm : Imm
deriving DecidableEq, Repr

/-- Format M with a vector data register (LDV, STV; R72). -/
structure ShMV where
  p : Pfx
  a : VReg
  b : Reg
  xt : Option Xt
  imm : Imm
  rlx : Option (BitVec 3)
deriving DecidableEq, Repr

/-- Format M with a vector data register and a vector index; XT stands always (VGATH, VSCAT; R102). -/
structure ShVG where
  p : Pfx
  a : VReg
  b : Reg
  c : VReg
  sb : Bool
  sc : Bool
  imm : Imm
  rlx : Option (BitVec 3)
deriving DecidableEq, Repr

/-- Shape VV: `op vA, vB, vC` (R94). -/
structure ShVV where
  p : Pfx
  a : VReg
  b : VReg
  xt : Option XtV
deriving DecidableEq, Repr

/-- Shape VU: `op vA, vB` (R94). -/
structure ShVU where
  p : Pfx
  a : VReg
  b : VReg
  sb : Option Bool
deriving DecidableEq, Repr

/-- Shape VS: `op vA, gB` (R94). -/
structure ShVS where
  p : Pfx
  a : VReg
  b : Reg
  sb : Option Bool
deriving DecidableEq, Repr

/-- Shape SV: `op gA, vB` (R94). -/
structure ShSV where
  p : Pfx
  a : Reg
  b : VReg
  sb : Option Bool
deriving DecidableEq, Repr

/-- Shape SVV: `op gA, vB, vC` (R94). -/
structure ShSVV where
  p : Pfx
  a : Reg
  b : VReg
  xt : Option XtV
deriving DecidableEq, Repr

/-- Shape SVS: `op gA, vB, gC` (R94). -/
structure ShSVS where
  p : Pfx
  a : Reg
  b : VReg
  xt : Option Xt
deriving DecidableEq, Repr

/-- Shape VSS: `op vA, gB, gC` (R94). -/
structure ShVSS where
  p : Pfx
  a : VReg
  b : Reg
  xt : Option Xt
deriving DecidableEq, Repr

/-- Shape VVS: `op vA, vB, gC` (R94). -/
structure ShVVS where
  p : Pfx
  a : VReg
  b : VReg
  xt : Option Xt
deriving DecidableEq, Repr

/-- Shape MV: `op amA, vB` (R94). -/
structure ShAmV where
  p : Pfx
  a : Four
  b : VReg
  sb : Option Bool
deriving DecidableEq, Repr

/-- FENCE and BAR: a scope code, 0 to 5 (R39). -/
structure ShSc where
  p : Pfx
  scope : BitVec 3
deriving DecidableEq, Repr

/-- BIND: `bind qA, gB, gC`; XT stands always (R188). -/
structure ShBind where
  p : Pfx
  q : Four
  b : Reg
  c : Reg
  sb : Bool
  sc : Bool
deriving DecidableEq, Repr

/-- UNBIND: `unbind qN`, with `k` XI words that leave N as it is (R24, R190). -/
structure ShQ where
  p : Pfx
  q : Four
  k : Nat
deriving DecidableEq, Repr

/-- MFS, MTS, MFSP, MTSP: a general register, the bank and the number (R119, R273). -/
structure ShSp where
  p : Pfx
  a : Reg
  bank : BitVec 2
  num : BitVec 5
deriving DecidableEq, Repr

/-- MCNT, MFM, MTM: a general register and the class, M or MD (R153). -/
structure ShMan where
  p : Pfx
  a : Reg
  md : Bool
deriving DecidableEq, Repr

/-- A class of four in field A and a general register in field B, no XT (PREC, DUPSET; R241). -/
structure ShFB4 where
  p : Pfx
  t : Four
  b : Reg
deriving DecidableEq, Repr

/-- A class of four in field A, a general register in B and in C; XT stands always (WLD, ACCWR; R241). -/
structure ShF4 where
  p : Pfx
  t : Four
  b : Reg
  c : Reg
  sb : Bool
  sc : Bool
deriving DecidableEq, Repr

/-- MMA: tile, transposes, control register, address register (R241). -/
structure ShMma where
  p : Pfx
  t : Four
  ta : Bool
  tb : Bool
  b : Reg
  c : Reg
  sb : Bool
  sc : Bool
deriving DecidableEq, Repr

/-- CVTST: tile, transpose, control register, destination register (R241). -/
structure ShCvt where
  p : Pfx
  t : Four
  tr : Bool
  b : Reg
  c : Reg
  sb : Bool
  sc : Bool
deriving DecidableEq, Repr

/-- A class of four alone (ACCZ, AMAXCLR; R241). -/
structure ShT4 where
  p : Pfx
  t : Four
deriving DecidableEq, Repr

/-- ACCRD: `accrd gA, aB, gC`; XT stands always (R241). -/
structure ShArd where
  p : Pfx
  a : Reg
  t : Four
  c : Reg
  sc : Bool
deriving DecidableEq, Repr

/-- AMAXRD: `amaxrd gA, amB` (R241). -/
structure ShA4 where
  p : Pfx
  a : Reg
  t : Four
deriving DecidableEq, Repr

/-- Three general registers; XT stands always (OSPLIT, RELOC; R241, R313). -/
structure ShR3 where
  p : Pfx
  a : Reg
  b : Reg
  c : Reg
  sb : Bool
  sc : Bool
deriving DecidableEq, Repr

/-- SWEEP: three general registers, C nonzero, gB never synchronised (R313). -/
structure ShSw where
  p : Pfx
  a : Reg
  b : Reg
  c : Reg
  sc : Bool
deriving DecidableEq, Repr

/-- TRAP, SYS, BRK: an immediate alone (R273). -/
structure ShImm where
  p : Pfx
  imm : Imm
deriving DecidableEq, Repr

/-- SEGSET: `segset sgA, gB` (R273). -/
structure ShSeg where
  p : Pfx
  sg : BitVec 3
  b : Reg
deriving DecidableEq, Repr

/-- Which outstanding access a MEMORY_ACCESS_PERFORM event concerns: an access by its identifier and the scope it
performs at (R195), one word of a running copy operation (R217), or the next word of a slot's SWEEP (R315). -/
inductive AccessRef where
  | thread (id scope : Nat)
  | copy (core op word : Nat)
  | sweep (core slot : Nat)
deriving DecidableEq, Repr

/-- The storage a soft error strikes (R168, R293): a stored word by its flat address, a thread's own state, or an
engine's storage by core and tile. -/
inductive ErrPlace where
  | word (addr : Nat)
  | thread (core slot : Nat)
  | tile (core tile : Nat)
  | control
  | packageWide
deriving DecidableEq, Repr

/-- A frame that a network port receives, as far as R340 reads it. -/
structure Frame where
  port : Nat
  ipv6 : Bool
  udp : Bool
  dport : Nat
  payload : List Byte
deriving DecidableEq, Repr

/-- What a thread of another package asks of a bank (R334): `release` is the forced release that its core sends as its
reservation runs out (R332). -/
inductive PeerOp where
  | load (n : Nat)
  | store (bytes : List Byte)
  | amo (op : Nat) (data : Word)
  | cas (old new : Word)
  | rsv
  | rls (data : Word)
  | release
deriving DecidableEq, Repr

/-- A request that arrives over a device link (R333, R334): the package, core and slot that made it, the package and the
die that it is for, the die-local address, and what it asks. -/
structure PeerReq where
  src : Nat
  core : Nat
  slot : Nat
  pkg : Nat
  die : Nat
  addr : Nat
  op : PeerOp
deriving DecidableEq, Repr

/-- What the address of a host processor's access counts in: a die's memory through the HDM window, BAR0, or the host's own
memory (R336 to R338, R350). -/
inductive HostSpace where
  | hdm (die : Nat)
  | bar0
  | memory
deriving DecidableEq, Repr

/-- Whose register a write is for: BAR0 by the host; by the control complex an entry of the service table or of the pod
barrier table, a queue's overflow ring, a core's breakpoint, or an address space's root table (R123, R257, R335, R339,
R350, R366); its requests to a core's runtime to save threads, and to move the tile of an address to another (R271, R318);
the start of a replay (R367); and the next instruction of a control core (R348). -/
inductive RegUnit where
  | bar0
  | service (entry : Nat)
  | podBar (entry : Nat)
  | ring (queue : Nat)
  | breakpoint (core number : Nat)
  | root (asn : Nat)
  | runtime (core : Nat)
  | move (core asn dst : Nat)
  | replay
  | ctl (core : Nat)
deriving DecidableEq, Repr

/-- A register by its unit and its offset there. -/
structure UnitReg where
  unit : RegUnit
  offset : Nat
deriving DecidableEq, Repr

/-- What a start finds (R359): the steps and variants that fail, the dies with a failing link and with a failing stack, the
control cores and the physical cores that fail, the kernel frames, whether the host negotiates CXL, and where the HDM
window begins. -/
structure Found where
  failing : List (Nat × Nat)
  badLinks : BitVec 4
  badStacks : BitVec 4
  badControls : BitVec 16
  badCores : List Nat
  kernel : List Nat
  cxl : Bool
  hdm : Option Nat
deriving DecidableEq, Repr

/-- A start that finds everything in order. -/
def Found.plain : Found := ⟨[], 0, 0, 0, [], [], false, none⟩

end Sys2Proof
end

