-- ==== Sys2Proof/Syntax.lean ====
section
/-! DEFINITION. The instructions of the Voxgil set and the events of the part: one constructor for each row of
the opcode table (R37; 95_what_each_step_holds). An event has no encoding. Its arguments are what the spec leaves to
another agent, to the outside world or to timing. -/

namespace Sys2Proof

/-- One step of the part: an instruction with its operands, or an event. -/
inductive Instr where
  /-- ADD (R49): Adds two general registers modulo 2^32. -/
  | add (o : ShT)
  /-- SUB (R49): Subtracts gC from gB modulo 2^32. -/
  | sub (o : ShT)
  /-- AND (R49): Bitwise AND of two registers. -/
  | and (o : ShT)
  /-- OR (R49): Bitwise OR of two registers. -/
  | or (o : ShT)
  /-- XOR (R49): Bitwise XOR of two registers. -/
  | xor (o : ShT)
  /-- ANDN (R49): gB AND NOT gC. -/
  | andn (o : ShT)
  /-- SHL (R49): Shifts left by the low five bits of gC. -/
  | shl (o : ShT)
  /-- SHR (R49): Logical shift right by the low five bits of gC. -/
  | shr (o : ShT)
  /-- SRA (R49): Arithmetic shift right by the low five bits of gC. -/
  | sra (o : ShT)
  /-- MUL (R49): Low 32 bits of the product. -/
  | mul (o : ShT)
  /-- MOV (R49): Copies gB to gA. -/
  | mov (o : ShU)
  /-- ADDI (R50): Adds a signed immediate to gA. -/
  | addi (o : ShI)
  /-- MOVI (R50): Writes a signed immediate to gA without reading it. -/
  | movi (o : ShI)
  /-- ANDI (R50): ANDs gA with a signed immediate. -/
  | andi (o : ShI)
  /-- SHLI (R50): Shifts gA left by an immediate. -/
  | shli (o : ShI)
  /-- SHRI (R50): Logical shift right of gA by an immediate. -/
  | shri (o : ShI)
  /-- SRAI (R50): Arithmetic shift right of gA by an immediate. -/
  | srai (o : ShI)
  /-- CEQ (R54): Sets flag fA when gB equals gC. -/
  | ceq (o : ShK)
  /-- CNE (R54): Sets flag fA when gB differs from gC. -/
  | cne (o : ShK)
  /-- CLT (R54): Sets fA on signed less-than. -/
  | clt (o : ShK)
  /-- CLTU (R54): Sets fA on unsigned less-than. -/
  | cltu (o : ShK)
  /-- CLE (R54): Sets fA on signed less-or-equal. -/
  | cle (o : ShK)
  /-- CLEU (R54): Sets fA on unsigned less-or-equal. -/
  | cleu (o : ShK)
  /-- CEQI (R55): Sets f1 when gA equals an immediate. -/
  | ceqi (o : ShI)
  /-- CLTI (R55): Sets f1 when gA is signed-less than an immediate. -/
  | clti (o : ShI)
  /-- LDB (R73): Loads a zero-extended byte. -/
  | ldb (o : ShM)
  /-- LDBS (R73): Loads a sign-extended byte. -/
  | ldbs (o : ShM)
  /-- LDH (R73): Loads a zero-extended halfword. -/
  | ldh (o : ShM)
  /-- LDHS (R73): Loads a sign-extended halfword. -/
  | ldhs (o : ShM)
  /-- LDW (R73): Loads a word. -/
  | ldw (o : ShM)
  /-- STB (R73): Stores a byte. -/
  | stb (o : ShM)
  /-- STH (R73): Stores a halfword. -/
  | sth (o : ShM)
  /-- STW (R73): Stores a word. -/
  | stw (o : ShM)
  /-- LDV (R73): Loads 64 bytes into the enabled lanes of a vector. -/
  | ldv (o : ShMV)
  /-- STV (R73): Stores the enabled lanes of a vector to 64 bytes. -/
  | stv (o : ShMV)
  /-- BR (R59): Branches PC-relative. -/
  | br (o : ShJ)
  /-- BF (R59): Branches when flag fN is 1. -/
  | bf (o : ShFB)
  /-- BNF (R59): Branches when flag fN is 0. -/
  | bnf (o : ShFB)
  /-- CALL (R59): Writes the return address to g7 and branches. -/
  | call (o : ShJ)
  /-- JR (R60): Jumps to the address in gB. -/
  | jr (o : ShBU)
  /-- JALR (R60): Jumps to gB and writes the return address to gA. -/
  | jalr (o : ShU)
  /-- DIV (R51): Signed quotient, with defined results for zero and overflow. -/
  | div (o : ShT)
  /-- DIVU (R51): Unsigned quotient. -/
  | divu (o : ShT)
  /-- REM (R51): Signed remainder. -/
  | rem (o : ShT)
  /-- REMU (R51): Unsigned remainder. -/
  | remu (o : ShT)
  /-- MULH (R51): High word of the signed product. -/
  | mulh (o : ShT)
  /-- MULHU (R51): High word of the unsigned product. -/
  | mulhu (o : ShT)
  /-- MIN (R51): Signed minimum. -/
  | min (o : ShT)
  /-- MAX (R51): Signed maximum. -/
  | max (o : ShT)
  /-- MINU (R51): Unsigned minimum. -/
  | minu (o : ShT)
  /-- MAXU (R51): Unsigned maximum. -/
  | maxu (o : ShT)
  /-- CLZ (R52): Counts leading zeros. -/
  | clz (o : ShU)
  /-- CTZ (R52): Counts trailing zeros. -/
  | ctz (o : ShU)
  /-- POPC (R52): Counts one bits. -/
  | popc (o : ShU)
  /-- BREV (R52): Reverses the bit order. -/
  | brev (o : ShU)
  /-- ROT (R52): Rotates left by the low five bits of gC. -/
  | rot (o : ShT)
  /-- SEXT (R53): Sign-extends gA from a given width. -/
  | sext (o : ShI)
  /-- ZEXT (R53): Zero-extends gA from a given width. -/
  | zext (o : ShI)
  /-- SEL (R58): Selects gB or gC by flag f1. -/
  | sel (o : ShT)
  /-- FAND (R56): ANDs two flags. -/
  | fAnd (o : ShL)
  /-- FOR (R56): ORs two flags. -/
  | fOr (o : ShL)
  /-- FXOR (R56): XORs two flags. -/
  | fXor (o : ShL)
  /-- FNOT (R56): Inverts a flag. -/
  | fNot (o : ShFF)
  /-- MFF (R57): Copies the flag word to gA. -/
  | mff (o : ShA)
  /-- MTF (R57): Writes masked bits of the flag word. -/
  | mtf (o : ShU)
  /-- LOOP (R62): Decrements a counter and branches while it is nonzero. -/
  | loop (o : ShI)
  /-- VADD (R97): Lane-wise wrapping add. -/
  | vadd (o : ShVV)
  /-- VSUB (R97): Lane-wise wrapping subtract. -/
  | vsub (o : ShVV)
  /-- VMUL (R97): Lane-wise low product. -/
  | vmul (o : ShVV)
  /-- VMIN (R97): Lane-wise signed minimum. -/
  | vmin (o : ShVV)
  /-- VMAX (R97): Lane-wise signed maximum. -/
  | vmax (o : ShVV)
  /-- VAND (R97): Lane-wise AND. -/
  | vand (o : ShVV)
  /-- VOR (R97): Lane-wise OR. -/
  | vor (o : ShVV)
  /-- VXOR (R97): Lane-wise XOR. -/
  | vxor (o : ShVV)
  /-- VSHL (R97): Lane-wise shift left. -/
  | vshl (o : ShVV)
  /-- VSHR (R97): Lane-wise logical shift right. -/
  | vshr (o : ShVV)
  /-- VSRA (R97): Lane-wise arithmetic shift right. -/
  | vsra (o : ShVV)
  /-- VCEQ (R98): Writes a lane bitmap of equal lanes to gA. -/
  | vceq (o : ShSVV)
  /-- VCLT (R98): Writes a lane bitmap of signed less-than lanes to gA. -/
  | vclt (o : ShSVV)
  /-- VSEL (R99): Selects every lane from vB or vC by the lane mask. -/
  | vsel (o : ShVV)
  /-- VBCAST (R100): Broadcasts gB into the enabled lanes. -/
  | vbcast (o : ShVS)
  /-- VEXT (R100): Extracts one lane into gA. -/
  | vext (o : ShSVS)
  /-- VINS (R100): Inserts gB into one lane. -/
  | vins (o : ShVSS)
  /-- VPERM (R97): Permutes lanes by index. -/
  | vperm (o : ShVV)
  /-- VSCAN (R101): Inclusive integer prefix sum over the enabled lanes. -/
  | vscan (o : ShVU)
  /-- VREDADD (R101): Wrapping sum of the enabled lanes. -/
  | vredadd (o : ShSV)
  /-- VREDMIN (R101): Signed minimum of the enabled lanes. -/
  | vredmin (o : ShSV)
  /-- VREDMAX (R101): Signed maximum of the enabled lanes. -/
  | vredmax (o : ShSV)
  /-- VGATH (R102): Gathers words by an index vector into the enabled lanes. -/
  | vgath (o : ShVG)
  /-- VSCAT (R102): Scatters the enabled lanes to words by an index vector. -/
  | vscat (o : ShVG)
  /-- VFADD (R104): Lane-wise FP32 add. -/
  | vfadd (o : ShVV)
  /-- VFSUB (R104): Lane-wise FP32 subtract. -/
  | vfsub (o : ShVV)
  /-- VFMUL (R104): Lane-wise FP32 multiply. -/
  | vfmul (o : ShVV)
  /-- VFMA (R104): Lane-wise fused multiply-add. -/
  | vfma (o : ShVV)
  /-- VFMIN (R104): Lane-wise FP32 minimum. -/
  | vfmin (o : ShVV)
  /-- VFMAX (R104): Lane-wise FP32 maximum. -/
  | vfmax (o : ShVV)
  /-- VFABS (R104): Lane-wise FP32 absolute value. -/
  | vfabs (o : ShVU)
  /-- VFCLT (R98): Lane bitmap of FP32 less-than. -/
  | vfclt (o : ShSVV)
  /-- VFCEQ (R98): Lane bitmap of FP32 equality. -/
  | vfceq (o : ShSVV)
  /-- VFRED (R106): FP32 sum of the enabled lanes in a fixed pairwise tree. -/
  | vfred (o : ShSV)
  /-- VFSCAN (R107): FP32 inclusive prefix sum in a fixed step order. -/
  | vfscan (o : ShVU)
  /-- VCVTIF (R109): Converts scaled integer lanes to FP32. -/
  | vcvtif (o : ShVVS)
  /-- VCVTFI (R109): Converts scaled FP32 lanes to integers. -/
  | vcvtfi (o : ShVVS)
  /-- VCVT (R110): Narrows FP32 lanes to packed codes or widens them back. -/
  | vcvt (o : ShVVS)
  /-- VAMAX (R112): Updates an amax register from the enabled lanes atomically. -/
  | vamax (o : ShAmV)
  /-- VRCP (R104): Lane-wise FP32 reciprocal. -/
  | vrcp (o : ShVU)
  /-- VRSQ (R104): Lane-wise FP32 reciprocal square root. -/
  | vrsq (o : ShVU)
  /-- LDE (R182): Loads a tagged word once it is full. -/
  | lde (o : ShM)
  /-- LDT (R182): Takes a tagged word once served and leaves it empty. -/
  | ldt (o : ShM)
  /-- STF (R182): Stores a tagged word and sets it full. -/
  | stf (o : ShM)
  /-- STE (R182): Stores a tagged word and sets it empty. -/
  | ste (o : ShM)
  /-- TAGRD (R182): Reads a word's tag bits. -/
  | tagrd (o : ShMN)
  /-- WATCH (R183): Arms a 64-byte line in a watch register. -/
  | watch (o : ShMZ)
  /-- UNWATCH (R183): Disarms a watched line. -/
  | unwatch (o : ShMZ)
  /-- WAIT (R183): Parks the thread until WAKE, a message or WLIM. -/
  | wait (o : ShZ)
  /-- AMOADD (R184): Atomic add under the word's reservation. -/
  | amoadd (o : ShM)
  /-- AMOMIN (R184): Atomic signed minimum. -/
  | amomin (o : ShM)
  /-- AMOMAX (R184): Atomic signed maximum. -/
  | amomax (o : ShM)
  /-- AMOAND (R184): Atomic AND. -/
  | amoand (o : ShM)
  /-- AMOOR (R184): Atomic OR. -/
  | amoor (o : ShM)
  /-- AMOXOR (R184): Atomic XOR. -/
  | amoxor (o : ShM)
  /-- AMOSWP (R184): Atomic swap. -/
  | amoswp (o : ShM)
  /-- AMOCAS (R184): Atomic compare-and-swap setting f1 on a match. -/
  | amocas (o : ShM)
  /-- RSV (R185): Takes a word's reservation and returns its value. -/
  | rsv (o : ShMN)
  /-- RLS (R185): Writes and releases a held reservation, or sets f3. -/
  | rls (o : ShMN)
  /-- FENCE (R186): Waits until earlier relaxed and stream accesses have performed at a scope. -/
  | fence (o : ShSc)
  /-- BAR (R141): Arrives at the barrier of a scope and waits for the episode. -/
  | bar (o : ShSc)
  /-- SPAWN (R136): Creates a thread from a spawn record in slot 0. -/
  | spawn (o : ShU)
  /-- REAP (R137): Collects an EXITED slot's exit word. -/
  | reap (o : ShU)
  /-- EXIT (R138): Ends the thread with an exit code. -/
  | exit (o : ShA)
  /-- TRIGGER (R139): Marks the thread triggered after package-scope performance. -/
  | trigger (o : ShZ)
  /-- LAUNCH (R140): Enqueues a launch descriptor on a queue and returns a status. -/
  | launch (o : ShT)
  /-- SEND (R187): Sends a 32-byte message to a core on a channel. -/
  | send (o : ShAB)
  /-- CHSET (R187): Writes a channel-table entry and returns the old one. -/
  | chset (o : ShAB)
  /-- CHBLK (R187): Blocks dispatch on a channel. -/
  | chblk (o : ShA)
  /-- CHUNB (R187): Unblocks a channel. -/
  | chunb (o : ShA)
  /-- BIND (R188): Binds a queue register to a general register with a stream descriptor. -/
  | bind (o : ShBind)
  /-- UNBIND (R190): Ends a queue binding. -/
  | unbind (o : ShQ)
  /-- MFS (R119): Reads a special or shared register. -/
  | mfs (o : ShSp)
  /-- MTS (R119): Writes a special or shared register. -/
  | mts (o : ShSp)
  /-- CVY (R159): Converts the thread into a convoy or creates one from a record. -/
  | cvy (o : ShU)
  /-- JOIN (R155): Meets other convoys at a node in the joint table. -/
  | join (o : ShI)
  /-- SPLIT (R158): Splits a convoy by a test on a record word against gB. -/
  | split (o : ShU)
  /-- SPLITI (R158): Splits a convoy by a test against an immediate. -/
  | spliti (o : ShI)
  /-- MPOP (R160): Finds the next member at or above an identifier. -/
  | mpop (o : ShU)
  /-- MCNT (R160): Counts the bits of M or MD. -/
  | mcnt (o : ShMan)
  /-- MFM (R160): Copies M or MD into eight registers. -/
  | mfm (o : ShMan)
  /-- MTM (R160): Writes M or MD from eight registers. -/
  | mtm (o : ShMan)
  /-- QLD (R161): Loads a word of a member's query record. -/
  | qld (o : ShM)
  /-- QST (R161): Stores a word of a member's query record. -/
  | qst (o : ShM)
  /-- QADD (R161): Atomically adds to a word of a member's query record. -/
  | qadd (o : ShM)
  /-- CEXIT (R162): Ends the convoy. -/
  | cexit (o : ShA)
  /-- CPY (R221): Issues a linear copy to the copy engine. -/
  | cpy (o : ShU)
  /-- CPY2 (R221): Issues a two-dimensional copy. -/
  | cpy2 (o : ShU)
  /-- GTH (R221): Issues an indexed gather. -/
  | gth (o : ShU)
  /-- SCT (R221): Issues an indexed scatter. -/
  | sct (o : ShU)
  /-- COLL (R222): Issues a collective reduction over a scope. -/
  | coll (o : ShU)
  /-- WAITANY (R223): Waits until any masked tag is set. -/
  | waitany (o : ShAB)
  /-- WAITALL (R223): Waits until all masked tags are set. -/
  | waitall (o : ShB)
  /-- TAGFF (R223): Finds the lowest set masked tag. -/
  | tagff (o : ShAB)
  /-- TAGCLR (R223): Clears masked tag bits. -/
  | tagclr (o : ShB)
  /-- PREC (R242): Writes or drops a precision-word override. -/
  | prec (o : ShFB4)
  /-- WLD (R243): Loads bytes into a weight-buffer section. -/
  | wld (o : ShF4)
  /-- MMA (R244): Issues a bit-serial matrix multiply-accumulate into a tile. -/
  | mma (o : ShMma)
  /-- ACCZ (R245): Zeros a tile and its status. -/
  | accz (o : ShT4)
  /-- ACCRD (R245): Reads an accumulator element or the tile status. -/
  | accrd (o : ShArd)
  /-- ACCWR (R245): Writes an accumulator element or the tile status. -/
  | accwr (o : ShF4)
  /-- CVTST (R246): Converts a tile and stores it, updating amax. -/
  | cvtst (o : ShCvt)
  /-- AMAXRD (R247): Reads an amax register. -/
  | amaxrd (o : ShA4)
  /-- AMAXCLR (R247): Clears an amax register. -/
  | amaxclr (o : ShT4)
  /-- DUPSET (R248): Sets or clears duplication-map entries. -/
  | dupset (o : ShFB4)
  /-- OSPLIT (R249): Splits an outlier channel into two halves. -/
  | osplit (o : ShR3)
  /-- TRAP (R274): Raises the vectored TRAP cause. -/
  | trap (o : ShImm)
  /-- SYS (R274): Raises SYS to slot 0. -/
  | sys (o : ShImm)
  /-- BRK (R274): Raises the vectored BRK cause. -/
  | brk (o : ShImm)
  /-- ERET (R275): Returns from a trap to TPC. -/
  | eret (o : ShZ)
  /-- MFSP (R277): Privileged read of special or privileged registers. -/
  | mfsp (o : ShSp)
  /-- MTSP (R277): Privileged write including trap-state fields. -/
  | mtsp (o : ShSp)
  /-- SEGSET (R278): Writes a segment descriptor. -/
  | segset (o : ShSeg)
  /-- TLBINV (R280): Performs a translation shootdown. -/
  | tlbinv (o : ShAB)
  /-- RELOC (R314): Requests the jig to move a tile or free a mark. -/
  | reloc (o : ShR3)
  /-- SWEEP (R315): Rewrites stale addresses through moved-to marks. -/
  | sweep (o : ShSw)
  /-- WEARRD (R316): Reads a lifetime-record word or live gauge. -/
  | wearrd (o : ShU)
  /-- CTXSV (R282): Saves a stopped thread to a context frame. -/
  | ctxsv (o : ShU)
  /-- CTXLD (R283): Restores a context frame into a slot. -/
  | ctxld (o : ShU)
  /-- RESUME (R276): Restores PC, flags and one register from a resume frame. -/
  | resume (o : ShU)
  /-- PARK (R281): Stops, releases or ends a slot's thread. -/
  | park (o : ShU)
  /-- MEMORY_ACCESS_PERFORM (R169): An outstanding access performs: load value bound, store arrived, atomic written back. -/
  | memoryAccessPerform (which : AccessRef)
  /-- RESERVATION_GRANT (R179): A bank grants a word's reservation to the head requester with its value. -/
  | reservationGrant (word : Nat)
  /-- RESERVATION_TIMEOUT (R180): 64 cycles after a grant the reservation is released by force and f3 set. -/
  | reservationTimeout (core slot : Nat)
  /-- WAITLIM_EXPIRY (R178): A wait's cycle count reaches WLIM and the instruction traps WAITLIM. -/
  | waitlimExpiry (core slot : Nat)
  /-- WITHDRAWAL_ANSWER (R178): The owner's answer to a withdrawn remote tagged load arrives. -/
  | withdrawalAnswer (core slot : Nat)
  /-- REMOTE_REPLY (R171): A channel-1 reply completes a REMOTE access at the source. -/
  | remoteReply (id : Nat)
  /-- MESSAGE_ARRIVAL (R173): A message arrives at a core's inbox or is refused. -/
  | messageArrival (n : Nat)
  /-- HANDLER_DISPATCH (R174): A HANDLER message is dispatched as a thread in slot 15. -/
  | handlerDispatch (core : Nat)
  /-- FRESH_DISPATCH (R174): A FRESH message becomes a thread in a work slot. -/
  | freshDispatch (core : Nat)
  /-- STREAM_LOAD_FILL (R189): A load stream writes its next word into an empty bound register. -/
  | streamLoadFill (core slot queue : Nat)
  /-- STREAM_STORE_TAKE (R189): A store stream takes a full bound register and writes it out. -/
  | streamStoreTake (core slot : Nat)
  /-- Q3_DELIVERY (R189): The next word of a held message is written into the q3-bound register. -/
  | q3Delivery (core slot : Nat)
  /-- PAGE_NOTICE (R266): The control complex's page notice is held for the faulting slot. -/
  | pageNotice (n : Nat)
  /-- PAGE_REQUEST (R265): The control complex services a page request sent by the memory port. -/
  | pageRequest (n : Nat) (writes : List (Nat × BitVec 64)) (mapped : Bool)
  /-- TRANSLATION_WALK (R259): A walk ends and fills the translation buffer or reports a fault. -/
  | translationWalk (quad n : Nat)
  /-- SHOOTDOWN_COMPLETE (R261): A shootdown completes once old walks and accesses are done. -/
  | shootdownComplete
  /-- STOP_EFFECT (R267): A requested stop takes effect at the thread's next boundary. -/
  | stopEffect (core slot : Nat)
  /-- OVERFLOW_REFILL (R123): A record returns from the overflow ring as a queue place frees. -/
  | overflowRefill (queue : Nat)
  /-- LAUNCH_START (R122): The front end checks and starts a ready head record. -/
  | launchStart (queue : Nat)
  /-- TASK_PLACE (R125): The next task is placed on an eligible core when a slot is free. -/
  | taskPlace (lid : Nat)
  /-- PLACING_OVER_NOTICE (R128): A core receives the notice that all tasks have been placed. -/
  | placingOverNotice (lid core : Nat)
  /-- DONE_MESSAGE (R128): A core sends its combined done status to its parent. -/
  | doneMessage (lid core : Nat)
  /-- LAUNCH_COMPLETE (R130): The root's message completes the launch and writes the completion record. -/
  | launchComplete (lid : Nat)
  /-- BAR_EPISODE_OPEN (R133): A barrier episode opens once the notice and all participants have arrived. -/
  | barEpisodeOpen (core slot : Nat)
  /-- CONVOY_ARRIVAL (R151): A migrated, forked or created convoy enters the arrival queue. -/
  | convoyArrival (n : Nat)
  /-- ARRIVAL_SLOT_GRANT (R151): A VACANT work slot goes to the oldest unparked queued convoy. -/
  | arrivalSlotGrant (core : Nat)
  /-- PLACE_REQUEST (R152): A destination grants or refuses an arrival-queue place. -/
  | placeRequest (core slot : Nat)
  /-- QUEUED_JOIN_LOOKUP (R156): The joint table serves the lookup of a queued convoy's JOIN. -/
  | queuedJoinLookup (core : Nat)
  /-- JOIN_EXPIRY (R156): A joint-table entry expires and its holder continues. -/
  | joinExpiry (core entry : Nat)
  /-- COPY_START (R207): The copy engine takes a command from its queue. -/
  | copyStart (core : Nat)
  /-- COPY_COMPLETE (R215): A copy operation completes, sets its tag and posts any message. -/
  | copyComplete (core op : Nat)
  /-- COLL_COMBINE (R222): The engine combines a collective once all participants have issued. -/
  | collCombine (core op : Nat) (order : List Nat)
  /-- MATRIX_START (R233): The matrix engine starts the queued command of least ECOST. -/
  | matrixStart (core : Nat)
  /-- MATRIX_COMPLETE (R239): A matrix command completes, charges its cost and may clear the lock. -/
  | matrixComplete (core : Nat)
  /-- COMMIT_POINT (R288): A redundant pair compares state and releases its stores. -/
  | commitPoint (core slot : Nat)
  /-- THREAD_KILL (R293): A thread consuming an uncorrectable error in its own state is killed. -/
  | threadKill (core slot : Nat)
  /-- KILL_SCRUB_COMPLETE (R293): The killed thread's window is rewritten and the slot becomes VACANT. -/
  | killScrubComplete (core slot : Nat)
  /-- DRAIN_START (R303): A quad drain begins by holding placements and moving threads. -/
  | drainStart (core : Nat) (cause : Nat)
  /-- DRAIN_COMPLETE (R303): The logical-to-physical map switches once everything has moved. -/
  | drainComplete (quad : Nat)
  /-- REQUEST_BOUNCE (R272): A request reaching a physical core that no longer holds it is bounced. -/
  | requestBounce (n : Nat)
  /-- JIG_START (R314): The jig starts a RELOC request on the current state. -/
  | jigStart (die : Nat)
  /-- JIG_COMMIT (R308): The move commits: mark written, MARKED set, shootdown begun. -/
  | jigCommit (die : Nat)
  /-- RING_RECORD_TAKE (R353): The control complex takes one ring record and enqueues its descriptor. -/
  | ringRecordTake (queue : Nat)
  /-- OBS_SNAPSHOT_READY (R363): The snapshot completes and READY is set. -/
  | obsSnapshotReady
  /-- TRACE_SAMPLE (R364): At each sample period a sample record is written. -/
  | traceSample (core : Nat)
  /-- BREAKPOINT_HOLD (R366): A thread whose next instruction matches a breakpoint is held. -/
  | breakpointHold (core slot : Nat)
  /-- STARTUP (R359): At reset the package runs its start-up steps. -/
  | startup (found : Found)
  /-- CORE_CYCLE (R362): Each core cycle is classed by its slot, and at each rotation boundary HIST and ROT are counted, whether or not anything issues. -/
  | coreCycle (core : Nat)
  /-- REGISTER_WRITE (R350): A write to a BAR0 register with no behaviour of its own. -/
  | registerWrite (reg : UnitReg) (size : Nat) (value : BitVec 64)
  /-- HOST_WRITE (R338): A host write to device memory reaches its bank in port order. -/
  | hostWrite (space : HostSpace) (addr : Nat) (bytes : List Byte)
  /-- HOST_READ (R338): A host read is served at a bank. -/
  | hostRead (space : HostSpace) (addr len : Nat)
  /-- HOST_SNOOP (R336): A host snoop is answered with no data. -/
  | hostSnoop (addr : Nat)
  /-- NETWORK_FRAME (R340): A received frame matching the service table becomes a launch. -/
  | networkFrame (frame : Frame)
  /-- CHECKPOINT (R342): A checkpoint command quiesces, stages and streams the package. -/
  | checkpoint (resume : Bool)
  /-- CHECKPOINT_TIMEOUT (R343): An unacknowledged chunk ends the checkpoint without a manifest. -/
  | checkpointTimeout
  /-- CHECKPOINT_RESTORE (R343): A restore verifies the manifest and reverses the checkpoint. -/
  | checkpointRestore (verified : Bool)
  /-- DOORBELL (R352): A host write of TAIL announces new ring records. -/
  | doorbell (queue : Nat) (tail : BitVec 16)
  /-- RING_ENABLE (R352): A write of ENABLE starts or stops taking, refused on bad ORDER or RBASE. -/
  | ringEnable (queue : Nat) (value : Word)
  /-- RING_RESTART (R352): RESTART clears a halt and resumes at HEAD. -/
  | ringRestart (queue : Nat)
  /-- RING_SKIP (R354): SKIP advances HEAD by one and restarts. -/
  | ringSkip (queue : Nat)
  /-- ERROR_RING_ENABLE (R355): A write of the error ring's ENABLE, refused on bad ORDER or EBASE. -/
  | errorRingEnable (value : Word)
  /-- OBSSEL_WRITE (R363): Writing OBSSEL starts a snapshot of a core's counters. -/
  | obsselWrite (value : Word)
  /-- PRECISE_STOP (R366): The control complex holds one thread at its next boundary. -/
  | preciseStop (core slot : Nat)
  /-- DEBUG_HOLD_LIFT (R366): The control complex lifts a debug hold. -/
  | debugHoldLift (core slot : Nat)
  /-- SIDEBAND_DUMP (R368): A side-band request returns up to 48 bytes of a dump region. -/
  | sidebandDump (region offset len : Nat)
  /-- POWER_SAMPLE (R369): Every 100 µs package power is sampled. -/
  | powerSample (milliwatts : Nat)
  /-- POWER_TICK (R369): Each millisecond clocks and withheld eighths are adjusted. -/
  | powerTick (hot : List Nat)
  /-- FIRMWARE_UPDATE (R361): Firmware is replaced through PLDM over MCTP on the side-band port. -/
  | firmwareUpdate (image : Nat)
  /-- SOFT_ERROR (R168): A bit flips in a bank, register file or engine storage, leaving a corrected or an uncorrectable error to be met later. -/
  | softError (place : ErrPlace) (correctable : Bool)
  /-- POWER_LOSS (R297): The package loses power, and only the lifetime-record entries of the last complete hour stand. -/
  | powerLoss
  /-- PEER_REQUEST (R333): A request from another package arrives over a device link and is served at a bank here or forwarded by the route table. -/
  | peerRequest (req : PeerReq)
  /-- CORE_PRESENCE_END (R303): At the control complex's choice, a drained quad's logical cores stop being present, after which convoy, SPREAD and CORE-space accesses to them fault. -/
  | corePresenceEnd (quad : Nat)
  /-- RETRY_REQUEST (R360): The management controller asks that the next start run every start-up step from variant 0. -/
  | retryRequest
  /-- STRESS_TICK (R296): Each millisecond a core reads temperature and sets its stress factor. -/
  | stressTick (core temp mv : Nat)
  /-- LIFETIME_WRITE (R297): Hourly the package writes core entries and die summaries. -/
  | lifetimeWrite
  /-- LINK_FLIT_RETRY (R323): A flit with a bad CRC is sent again. -/
  | linkFlitRetry (a b : Nat)
  /-- LINK_FAILURE (R323): A die-to-die flit undelivered within 1 ms stops the package. -/
  | linkFailure (a b : Nat)
  /-- ROUTE_FAILURE (R333): A device-link request undelivered within 1 ms is answered as uncorrectable. -/
  | routeFailure (id : Nat)
  /-- ROUTE_CHANGE (R333): The control complex changes a route after old requests perform. -/
  | routeChange (pkg link : Nat)
deriving DecidableEq, Repr

end Sys2Proof
end

