-- ==== Sys2Proof/WellFormed.lean ====
section
/-! DEFINITION. Which instructions are well formed: the operands and prefix words that some chain of at most four
prefix words can carry (R22 to R32, and the tables of shapes). -/

namespace Sys2Proof

/-- R27: without an XG word there is no guard and no register number above 31. -/
def Pfx.carries (p : Pfx) (regs : List Reg) : Bool :=
  p.xg || (p.guard == 0 && regs.all fun r => r.toNat < 32)

/-- R26: a value of `w` base bits and `k` XI words, `k` at most `m`. -/
def Imm.fits (i : Imm) (w m : Nat) : Bool :=
  i.k ≤ m && i.raw.toNat < 2 ^ (w + 9 * i.k)

/-- R31: at most four prefix words. -/
def atMostFour (paged : Bool) (p : Pfx) (xt rlx : Bool) (k : Nat) : Bool :=
  paged.toNat + p.xg.toNat + xt.toNat + rlx.toNat + k ≤ 4

def ShT.wf (paged : Bool) (o : ShT) : Bool :=
  o.p.carries [o.a, o.b] && atMostFour paged o.p o.xt.isSome false 0

def ShU.wf (paged : Bool) (o : ShU) : Bool :=
  o.p.carries [o.a, o.b] && atMostFour paged o.p o.sb.isSome false 0

/-- R57: an XT word on MTF has bit 1 set. -/
def ShU.wfMtf (o : ShU) : Bool := o.wf true && o.sb != some false

/-- A shape-I instruction whose immediate takes at most `m` XI words (R50, R53, R55, R62, R153). -/
def ShI.wf (paged : Bool) (m : Nat) (o : ShI) : Bool :=
  o.p.carries [o.a] && o.imm.fits 5 m && atMostFour paged o.p false false o.imm.k

def ShK.wf (paged : Bool) (o : ShK) : Bool :=
  o.p.carries [o.b] && atMostFour paged o.p o.xt.isSome false 0

def ShL.wf (o : ShL) : Bool := o.p.carries []
def ShFF.wf (o : ShFF) : Bool := o.p.carries []

def ShJ.wf (o : ShJ) : Bool :=
  o.p.carries [] && o.imm.fits 10 2 && atMostFour false o.p false false o.imm.k

def ShFB.wf (o : ShFB) : Bool :=
  o.p.carries [] && o.imm.fits 5 2 && atMostFour false o.p false false o.imm.k

def ShA.wf (o : ShA) : Bool := o.p.carries [o.a]
def ShB.wf (o : ShB) : Bool := o.p.carries [o.b]
/-- R220: the mask register is even and not g0. -/
def ShB.wfEven (o : ShB) : Bool := o.wf && o.b.toNat % 2 == 0 && o.b != 0
def ShBU.wf (o : ShBU) : Bool := o.p.carries [o.b]
def ShAB.wf (o : ShAB) : Bool := o.p.carries [o.a, o.b]
/-- R220. -/
def ShAB.wfEven (o : ShAB) : Bool := o.wf && o.b.toNat % 2 == 0 && o.b != 0
/-- R187: SEND's payload group is 0 or a multiple of 8. -/
def ShAB.wfSend (o : ShAB) : Bool := o.wf && o.b.toNat % 8 == 0
def ShZ.wf (o : ShZ) : Bool := o.p.carries []

def ShM.wf (paged : Bool) (o : ShM) : Bool :=
  o.p.carries [o.a, o.b] && o.imm.fits 0 3 &&
    atMostFour paged o.p o.xt.isSome o.rlx.isSome o.imm.k
/-- R181: AMOCAS takes an even register from 2 to 126. -/
def ShM.wfCas (o : ShM) : Bool := o.wf true && o.a.toNat % 2 == 0 && o.a != 0
def ShMN.wf (o : ShMN) : Bool :=
  o.p.carries [o.a, o.b] && o.imm.fits 0 3 && atMostFour true o.p o.xt.isSome false o.imm.k
def ShMZ.wf (o : ShMZ) : Bool :=
  o.p.carries [o.b] && o.imm.fits 0 3 && atMostFour true o.p o.xt.isSome false o.imm.k
def ShMV.wf (o : ShMV) : Bool :=
  o.p.carries [o.b] && o.imm.fits 0 3 && atMostFour false o.p o.xt.isSome o.rlx.isSome o.imm.k
/-- R102: XP and XT stand always, so at most two further prefix words. -/
def ShVG.wf (o : ShVG) : Bool :=
  o.p.carries [o.b] && o.imm.fits 0 3 && atMostFour true o.p true o.rlx.isSome o.imm.k

def ShVV.wf (o : ShVV) : Bool := o.p.carries []
def ShVU.wf (o : ShVU) : Bool := o.p.carries []
def ShVS.wf (o : ShVS) : Bool := o.p.carries [o.b]
def ShSV.wf (o : ShSV) : Bool := o.p.carries [o.a]
/-- R94: without XT, A's number is C's and must name a vector register. -/
def ShSVV.wf (o : ShSVV) : Bool := o.p.carries [o.a] && (o.xt.isSome || o.a.toNat < 8)
def ShSVS.wf (o : ShSVS) : Bool := o.p.carries [o.a]
def ShVSS.wf (o : ShVSS) : Bool := o.p.carries [o.b]
def ShVVS.wf (o : ShVVS) : Bool := o.p.carries []
def ShAmV.wf (o : ShAmV) : Bool := o.p.carries []

/-- R39: the codes 6 and 7 are no scope. -/
def ShSc.wf (o : ShSc) : Bool := o.p.carries [] && o.scope.toNat < 6
/-- R188: g0 cannot be bound. -/
def ShBind.wf (o : ShBind) : Bool := o.p.carries [o.b] && o.b != 0
def ShQ.wf (o : ShQ) : Bool := o.p.carries [] && o.k ≤ 3 && atMostFour true o.p false false o.k
/-- R119, R40: bank 00 names 0 to 24, bank 01 names 0 to 7, bank 10 names 0 and 1; bank bits need XG. -/
def ShSp.wf (o : ShSp) : Bool :=
  o.p.carries [o.a] && (o.p.xg || o.bank == 0) &&
    (match o.bank.toNat with
     | 0 => o.num.toNat < 25
     | 1 => o.num.toNat < 8
     | 2 => o.num.toNat < 2
     | _ => false)
def ShMan.wf (o : ShMan) : Bool := o.p.carries [o.a]
/-- R153: MFM and MTM take a multiple of 8 from 8 to 120. -/
def ShMan.wf8 (o : ShMan) : Bool := o.wf && o.a.toNat % 8 == 0 && o.a != 0
def ShFB4.wf (o : ShFB4) : Bool := o.p.carries [o.b]
def ShF4.wf (o : ShF4) : Bool := o.p.carries [o.b]
def ShMma.wf (o : ShMma) : Bool := o.p.carries [o.b]
def ShCvt.wf (o : ShCvt) : Bool := o.p.carries [o.b]
def ShT4.wf (o : ShT4) : Bool := o.p.carries []
def ShArd.wf (o : ShArd) : Bool := o.p.carries [o.a]
def ShA4.wf (o : ShA4) : Bool := o.p.carries [o.a]
def ShR3.wf (o : ShR3) : Bool := o.p.carries [o.a, o.b]
/-- R313: SWEEP's C is not 0. -/
def ShSw.wf (o : ShSw) : Bool := o.p.carries [o.a, o.b] && o.c != 0
def ShImm.wf (o : ShImm) : Bool :=
  o.p.carries [] && o.imm.fits 5 3 && atMostFour true o.p false false o.imm.k
/-- R273: SEGSET's group starts at a multiple of 4 from 4 to 124. -/
def ShSeg.wf (o : ShSeg) : Bool := o.p.carries [o.b] && o.b.toNat % 4 == 0 && o.b != 0

/-- R37: the opcode page and value of an instruction; an event has none. -/
def Instr.opcode : Instr → Option (Nat × Nat)
  | .add _ => some (0, 0)
  | .sub _ => some (0, 1)
  | .and _ => some (0, 2)
  | .or _ => some (0, 3)
  | .xor _ => some (0, 4)
  | .andn _ => some (0, 5)
  | .shl _ => some (0, 6)
  | .shr _ => some (0, 7)
  | .sra _ => some (0, 8)
  | .mul _ => some (0, 9)
  | .mov _ => some (0, 10)
  | .addi _ => some (0, 11)
  | .movi _ => some (0, 12)
  | .andi _ => some (0, 13)
  | .shli _ => some (0, 14)
  | .shri _ => some (0, 15)
  | .srai _ => some (0, 16)
  | .ceq _ => some (0, 17)
  | .cne _ => some (0, 18)
  | .clt _ => some (0, 19)
  | .cltu _ => some (0, 20)
  | .cle _ => some (0, 21)
  | .cleu _ => some (0, 22)
  | .ceqi _ => some (0, 23)
  | .clti _ => some (0, 24)
  | .ldb _ => some (0, 25)
  | .ldbs _ => some (0, 26)
  | .ldh _ => some (0, 27)
  | .ldhs _ => some (0, 28)
  | .ldw _ => some (0, 29)
  | .stb _ => some (0, 30)
  | .sth _ => some (0, 31)
  | .stw _ => some (0, 32)
  | .ldv _ => some (0, 33)
  | .stv _ => some (0, 34)
  | .br _ => some (0, 35)
  | .bf _ => some (0, 36)
  | .bnf _ => some (0, 37)
  | .call _ => some (0, 38)
  | .jr _ => some (0, 39)
  | .jalr _ => some (0, 40)
  | .div _ => some (1, 0)
  | .divu _ => some (1, 1)
  | .rem _ => some (1, 2)
  | .remu _ => some (1, 3)
  | .mulh _ => some (1, 4)
  | .mulhu _ => some (1, 5)
  | .min _ => some (1, 6)
  | .max _ => some (1, 7)
  | .minu _ => some (1, 8)
  | .maxu _ => some (1, 9)
  | .clz _ => some (1, 10)
  | .ctz _ => some (1, 11)
  | .popc _ => some (1, 12)
  | .brev _ => some (1, 13)
  | .rot _ => some (1, 14)
  | .sext _ => some (1, 15)
  | .zext _ => some (1, 16)
  | .sel _ => some (1, 17)
  | .fAnd _ => some (1, 18)
  | .fOr _ => some (1, 19)
  | .fXor _ => some (1, 20)
  | .fNot _ => some (1, 21)
  | .mff _ => some (1, 22)
  | .mtf _ => some (1, 23)
  | .loop _ => some (1, 24)
  | .vadd _ => some (2, 0)
  | .vsub _ => some (2, 1)
  | .vmul _ => some (2, 2)
  | .vmin _ => some (2, 3)
  | .vmax _ => some (2, 4)
  | .vand _ => some (2, 5)
  | .vor _ => some (2, 6)
  | .vxor _ => some (2, 7)
  | .vshl _ => some (2, 8)
  | .vshr _ => some (2, 9)
  | .vsra _ => some (2, 10)
  | .vceq _ => some (2, 11)
  | .vclt _ => some (2, 12)
  | .vsel _ => some (2, 13)
  | .vbcast _ => some (2, 14)
  | .vext _ => some (2, 15)
  | .vins _ => some (2, 16)
  | .vperm _ => some (2, 17)
  | .vscan _ => some (2, 18)
  | .vredadd _ => some (2, 19)
  | .vredmin _ => some (2, 20)
  | .vredmax _ => some (2, 21)
  | .vgath _ => some (2, 22)
  | .vscat _ => some (2, 23)
  | .vfadd _ => some (3, 0)
  | .vfsub _ => some (3, 1)
  | .vfmul _ => some (3, 2)
  | .vfma _ => some (3, 3)
  | .vfmin _ => some (3, 4)
  | .vfmax _ => some (3, 5)
  | .vfabs _ => some (3, 6)
  | .vfclt _ => some (3, 7)
  | .vfceq _ => some (3, 8)
  | .vfred _ => some (3, 9)
  | .vfscan _ => some (3, 10)
  | .vcvtif _ => some (3, 11)
  | .vcvtfi _ => some (3, 12)
  | .vcvt _ => some (3, 13)
  | .vamax _ => some (3, 14)
  | .vrcp _ => some (3, 15)
  | .vrsq _ => some (3, 16)
  | .lde _ => some (4, 0)
  | .ldt _ => some (4, 1)
  | .stf _ => some (4, 2)
  | .ste _ => some (4, 3)
  | .tagrd _ => some (4, 4)
  | .watch _ => some (4, 5)
  | .unwatch _ => some (4, 6)
  | .wait _ => some (4, 7)
  | .amoadd _ => some (4, 8)
  | .amomin _ => some (4, 9)
  | .amomax _ => some (4, 10)
  | .amoand _ => some (4, 11)
  | .amoor _ => some (4, 12)
  | .amoxor _ => some (4, 13)
  | .amoswp _ => some (4, 14)
  | .amocas _ => some (4, 15)
  | .rsv _ => some (4, 16)
  | .rls _ => some (4, 17)
  | .fence _ => some (4, 18)
  | .bar _ => some (4, 19)
  | .spawn _ => some (5, 0)
  | .reap _ => some (5, 1)
  | .exit _ => some (5, 2)
  | .trigger _ => some (5, 3)
  | .launch _ => some (5, 4)
  | .send _ => some (5, 5)
  | .chset _ => some (5, 6)
  | .chblk _ => some (5, 7)
  | .chunb _ => some (5, 8)
  | .bind _ => some (5, 9)
  | .unbind _ => some (5, 10)
  | .mfs _ => some (5, 11)
  | .mts _ => some (5, 12)
  | .cvy _ => some (6, 0)
  | .join _ => some (6, 1)
  | .split _ => some (6, 2)
  | .spliti _ => some (6, 3)
  | .mpop _ => some (6, 4)
  | .mcnt _ => some (6, 5)
  | .mfm _ => some (6, 6)
  | .mtm _ => some (6, 7)
  | .qld _ => some (6, 8)
  | .qst _ => some (6, 9)
  | .qadd _ => some (6, 10)
  | .cexit _ => some (6, 11)
  | .cpy _ => some (7, 0)
  | .cpy2 _ => some (7, 1)
  | .gth _ => some (7, 2)
  | .sct _ => some (7, 3)
  | .coll _ => some (7, 4)
  | .waitany _ => some (7, 5)
  | .waitall _ => some (7, 6)
  | .tagff _ => some (7, 7)
  | .tagclr _ => some (7, 8)
  | .prec _ => some (8, 0)
  | .wld _ => some (8, 1)
  | .mma _ => some (8, 2)
  | .accz _ => some (8, 3)
  | .accrd _ => some (8, 4)
  | .accwr _ => some (8, 5)
  | .cvtst _ => some (8, 6)
  | .amaxrd _ => some (8, 7)
  | .amaxclr _ => some (8, 8)
  | .dupset _ => some (8, 9)
  | .osplit _ => some (8, 10)
  | .trap _ => some (9, 0)
  | .sys _ => some (9, 1)
  | .brk _ => some (9, 2)
  | .eret _ => some (9, 3)
  | .mfsp _ => some (9, 4)
  | .mtsp _ => some (9, 5)
  | .segset _ => some (9, 6)
  | .tlbinv _ => some (9, 7)
  | .reloc _ => some (9, 8)
  | .sweep _ => some (9, 9)
  | .wearrd _ => some (9, 10)
  | .ctxsv _ => some (9, 11)
  | .ctxld _ => some (9, 12)
  | .resume _ => some (9, 13)
  | .park _ => some (9, 14)
  | .memoryAccessPerform _ => none
  | .reservationGrant _ => none
  | .reservationTimeout _ _ => none
  | .waitlimExpiry _ _ => none
  | .withdrawalAnswer _ _ => none
  | .remoteReply _ => none
  | .messageArrival _ => none
  | .handlerDispatch _ => none
  | .freshDispatch _ => none
  | .streamLoadFill _ _ _ => none
  | .streamStoreTake _ _ => none
  | .q3Delivery _ _ => none
  | .pageNotice _ => none
  | .pageRequest _ _ _ => none
  | .translationWalk _ _ => none
  | .shootdownComplete => none
  | .stopEffect _ _ => none
  | .overflowRefill _ => none
  | .launchStart _ => none
  | .taskPlace _ => none
  | .placingOverNotice _ _ => none
  | .doneMessage _ _ => none
  | .launchComplete _ => none
  | .barEpisodeOpen _ _ => none
  | .convoyArrival _ => none
  | .arrivalSlotGrant _ => none
  | .placeRequest _ _ => none
  | .queuedJoinLookup _ => none
  | .joinExpiry _ _ => none
  | .copyStart _ => none
  | .copyComplete _ _ => none
  | .collCombine _ _ _ => none
  | .matrixStart _ => none
  | .matrixComplete _ => none
  | .commitPoint _ _ => none
  | .threadKill _ _ => none
  | .killScrubComplete _ _ => none
  | .drainStart _ _ => none
  | .drainComplete _ => none
  | .requestBounce _ => none
  | .jigStart _ => none
  | .jigCommit _ => none
  | .ringRecordTake _ => none
  | .obsSnapshotReady => none
  | .traceSample _ => none
  | .breakpointHold _ _ => none
  | .startup _ => none
  | .coreCycle _ => none
  | .hostWrite _ _ _ => none
  | .hostRead _ _ _ => none
  | .hostSnoop _ => none
  | .networkFrame _ => none
  | .checkpoint _ => none
  | .checkpointTimeout => none
  | .checkpointRestore _ => none
  | .doorbell _ _ => none
  | .ringEnable _ _ => none
  | .ringRestart _ => none
  | .ringSkip _ => none
  | .errorRingEnable _ => none
  | .registerWrite _ _ _ => none
  | .obsselWrite _ => none
  | .preciseStop _ _ => none
  | .debugHoldLift _ _ => none
  | .sidebandDump _ _ _ => none
  | .powerSample _ => none
  | .powerTick _ => none
  | .firmwareUpdate _ => none
  | .softError _ _ => none
  | .powerLoss => none
  | .peerRequest _ => none
  | .corePresenceEnd _ => none
  | .retryRequest => none
  | .stressTick _ _ _ => none
  | .lifetimeWrite => none
  | .linkFlitRetry _ _ => none
  | .linkFailure _ _ => none
  | .routeFailure _ => none
  | .routeChange _ _ => none

/-- An instruction is well formed when a chain of words carries it. An event has no encoding and nothing to check. -/
def Instr.wf : Instr → Bool
  | .add o => o.wf false
  | .sub o => o.wf false
  | .and o => o.wf false
  | .or o => o.wf false
  | .xor o => o.wf false
  | .andn o => o.wf false
  | .shl o => o.wf false
  | .shr o => o.wf false
  | .sra o => o.wf false
  | .mul o => o.wf false
  | .mov o => o.wf false
  | .addi o => o.wf false 3
  | .movi o => o.wf false 3
  | .andi o => o.wf false 3
  | .shli o => o.wf false 0
  | .shri o => o.wf false 0
  | .srai o => o.wf false 0
  | .ceq o => o.wf false
  | .cne o => o.wf false
  | .clt o => o.wf false
  | .cltu o => o.wf false
  | .cle o => o.wf false
  | .cleu o => o.wf false
  | .ceqi o => o.wf false 3
  | .clti o => o.wf false 3
  | .ldb o => o.wf false
  | .ldbs o => o.wf false
  | .ldh o => o.wf false
  | .ldhs o => o.wf false
  | .ldw o => o.wf false
  | .stb o => o.wf false
  | .sth o => o.wf false
  | .stw o => o.wf false
  | .ldv o => o.wf
  | .stv o => o.wf
  | .br o => o.wf
  | .bf o => o.wf
  | .bnf o => o.wf
  | .call o => o.wf
  | .jr o => o.wf
  | .jalr o => o.wf false
  | .div o => o.wf true
  | .divu o => o.wf true
  | .rem o => o.wf true
  | .remu o => o.wf true
  | .mulh o => o.wf true
  | .mulhu o => o.wf true
  | .min o => o.wf true
  | .max o => o.wf true
  | .minu o => o.wf true
  | .maxu o => o.wf true
  | .clz o => o.wf true
  | .ctz o => o.wf true
  | .popc o => o.wf true
  | .brev o => o.wf true
  | .rot o => o.wf true
  | .sext o => o.wf true 0
  | .zext o => o.wf true 0
  | .sel o => o.wf true
  | .fAnd o => o.wf
  | .fOr o => o.wf
  | .fXor o => o.wf
  | .fNot o => o.wf
  | .mff o => o.wf
  | .mtf o => o.wfMtf
  | .loop o => o.wf true 3
  | .vadd o => o.wf
  | .vsub o => o.wf
  | .vmul o => o.wf
  | .vmin o => o.wf
  | .vmax o => o.wf
  | .vand o => o.wf
  | .vor o => o.wf
  | .vxor o => o.wf
  | .vshl o => o.wf
  | .vshr o => o.wf
  | .vsra o => o.wf
  | .vceq o => o.wf
  | .vclt o => o.wf
  | .vsel o => o.wf
  | .vbcast o => o.wf
  | .vext o => o.wf
  | .vins o => o.wf
  | .vperm o => o.wf
  | .vscan o => o.wf
  | .vredadd o => o.wf
  | .vredmin o => o.wf
  | .vredmax o => o.wf
  | .vgath o => o.wf
  | .vscat o => o.wf
  | .vfadd o => o.wf
  | .vfsub o => o.wf
  | .vfmul o => o.wf
  | .vfma o => o.wf
  | .vfmin o => o.wf
  | .vfmax o => o.wf
  | .vfabs o => o.wf
  | .vfclt o => o.wf
  | .vfceq o => o.wf
  | .vfred o => o.wf
  | .vfscan o => o.wf
  | .vcvtif o => o.wf
  | .vcvtfi o => o.wf
  | .vcvt o => o.wf
  | .vamax o => o.wf
  | .vrcp o => o.wf
  | .vrsq o => o.wf
  | .lde o => o.wf true
  | .ldt o => o.wf true
  | .stf o => o.wf true
  | .ste o => o.wf true
  | .tagrd o => o.wf
  | .watch o => o.wf
  | .unwatch o => o.wf
  | .wait o => o.wf
  | .amoadd o => o.wf true
  | .amomin o => o.wf true
  | .amomax o => o.wf true
  | .amoand o => o.wf true
  | .amoor o => o.wf true
  | .amoxor o => o.wf true
  | .amoswp o => o.wf true
  | .amocas o => o.wfCas
  | .rsv o => o.wf
  | .rls o => o.wf
  | .fence o => o.wf
  | .bar o => o.wf
  | .spawn o => o.wf true
  | .reap o => o.wf true
  | .exit o => o.wf
  | .trigger o => o.wf
  | .launch o => o.wf true
  | .send o => o.wfSend
  | .chset o => o.wf
  | .chblk o => o.wf
  | .chunb o => o.wf
  | .bind o => o.wf
  | .unbind o => o.wf
  | .mfs o => o.wf
  | .mts o => o.wf
  | .cvy o => o.wf true
  | .join o => o.wf true 2
  | .split o => o.wf true
  | .spliti o => o.wf true 3
  | .mpop o => o.wf true
  | .mcnt o => o.wf
  | .mfm o => o.wf8
  | .mtm o => o.wf8
  | .qld o => o.wf true
  | .qst o => o.wf true
  | .qadd o => o.wf true
  | .cexit o => o.wf
  | .cpy o => o.wf true
  | .cpy2 o => o.wf true
  | .gth o => o.wf true
  | .sct o => o.wf true
  | .coll o => o.wf true
  | .waitany o => o.wfEven
  | .waitall o => o.wfEven
  | .tagff o => o.wfEven
  | .tagclr o => o.wfEven
  | .prec o => o.wf
  | .wld o => o.wf
  | .mma o => o.wf
  | .accz o => o.wf
  | .accrd o => o.wf
  | .accwr o => o.wf
  | .cvtst o => o.wf
  | .amaxrd o => o.wf
  | .amaxclr o => o.wf
  | .dupset o => o.wf
  | .osplit o => o.wf
  | .trap o => o.wf
  | .sys o => o.wf
  | .brk o => o.wf
  | .eret o => o.wf
  | .mfsp o => o.wf
  | .mtsp o => o.wf
  | .segset o => o.wf
  | .tlbinv o => o.wf
  | .reloc o => o.wf
  | .sweep o => o.wf
  | .wearrd o => o.wf true
  | .ctxsv o => o.wf true
  | .ctxld o => o.wf true
  | .resume o => o.wf true
  | .park o => o.wf true
  | .memoryAccessPerform _ => true
  | .reservationGrant _ => true
  | .reservationTimeout _ _ => true
  | .waitlimExpiry _ _ => true
  | .withdrawalAnswer _ _ => true
  | .remoteReply _ => true
  | .messageArrival _ => true
  | .handlerDispatch _ => true
  | .freshDispatch _ => true
  | .streamLoadFill _ _ _ => true
  | .streamStoreTake _ _ => true
  | .q3Delivery _ _ => true
  | .pageNotice _ => true
  | .pageRequest _ _ _ => true
  | .translationWalk _ _ => true
  | .shootdownComplete => true
  | .stopEffect _ _ => true
  | .overflowRefill _ => true
  | .launchStart _ => true
  | .taskPlace _ => true
  | .placingOverNotice _ _ => true
  | .doneMessage _ _ => true
  | .launchComplete _ => true
  | .barEpisodeOpen _ _ => true
  | .convoyArrival _ => true
  | .arrivalSlotGrant _ => true
  | .placeRequest _ _ => true
  | .queuedJoinLookup _ => true
  | .joinExpiry _ _ => true
  | .copyStart _ => true
  | .copyComplete _ _ => true
  | .collCombine _ _ _ => true
  | .matrixStart _ => true
  | .matrixComplete _ => true
  | .commitPoint _ _ => true
  | .threadKill _ _ => true
  | .killScrubComplete _ _ => true
  | .drainStart _ _ => true
  | .drainComplete _ => true
  | .requestBounce _ => true
  | .jigStart _ => true
  | .jigCommit _ => true
  | .ringRecordTake _ => true
  | .obsSnapshotReady => true
  | .traceSample _ => true
  | .breakpointHold _ _ => true
  | .startup _ => true
  | .coreCycle _ => true
  | .hostWrite _ _ _ => true
  | .hostRead _ _ _ => true
  | .hostSnoop _ => true
  | .networkFrame _ => true
  | .checkpoint _ => true
  | .checkpointTimeout => true
  | .checkpointRestore _ => true
  | .doorbell _ _ => true
  | .ringEnable _ _ => true
  | .ringRestart _ => true
  | .ringSkip _ => true
  | .errorRingEnable _ => true
  | .registerWrite _ _ _ => true
  | .obsselWrite _ => true
  | .preciseStop _ _ => true
  | .debugHoldLift _ _ => true
  | .sidebandDump _ _ _ => true
  | .powerSample _ => true
  | .powerTick _ => true
  | .firmwareUpdate _ => true
  | .softError _ _ => true
  | .powerLoss => true
  | .peerRequest _ => true
  | .corePresenceEnd _ => true
  | .retryRequest => true
  | .stressTick _ _ _ => true
  | .lifetimeWrite => true
  | .linkFlitRetry _ _ => true
  | .linkFailure _ _ => true
  | .routeFailure _ => true
  | .routeChange _ _ => true

end Sys2Proof
end

