-- ==== Sys2Proof/Decode.lean ====
section
/-! DEFINITION. Decoding: from 16-bit words to an instruction or a named rejection (R22 to R40), the encoder, and
`decodeTableWord`. The bit-field and byte-order helpers of the machine stand here too. -/

namespace Sys2Proof

/-- Why a chain of words is not an instruction; each is the ILLEGAL cause of R33. -/
inductive Reject where
  /-- the words end before a base word -/
  | short
  /-- R25: a reserved prefix kind -/
  | reservedKind
  /-- R31: a fifth prefix word -/
  | tooLong
  /-- R31: a kind other than XI twice -/
  | twice
  /-- R28: XP does not select pages 1 to 9, or has low bits set -/
  | badPage
  /-- R38: no instruction has this opcode on this page -/
  | opcode
  /-- R26, R29 to R32: a prefix word that the base word cannot use, or one that is missing -/
  | chain
  /-- R23, R24: a field or payload bit outside what the instruction allows -/
  | field
deriving DecidableEq, Repr

/-- Bits hi down to lo, as the manual writes them (R21). -/
def bits {w : Nat} (x : BitVec w) (hi lo : Nat) : BitVec (hi - lo + 1) := x.extractLsb' lo (hi - lo + 1)

/-- The words of one chain, sorted by kind: payloads of the prefix words, XI in memory order (R25, R31). -/
structure Chain where
  xp : Option (BitVec 9)
  xg : Option (BitVec 9)
  xt : Option (BitVec 9)
  rlx : Option (BitVec 9)
  xi : List (BitVec 9)
  base : Half
deriving DecidableEq, Repr

def Chain.empty : Chain := ⟨none, none, none, none, [], 0⟩

/-- R25: a prefix word has bits 15:12 all set. -/
def isPrefixWord (w : Half) : Bool := w.extractLsb' 12 4 == 0xF#4

/-- Gathers the prefix words up to the base word; `n` counts the words before this one (R31). -/
def readChain : List Half → Chain → Nat → Except Reject (Chain × Nat)
  | [], _, _ => .error .short
  | w :: ws, ch, n =>
    if isPrefixWord w then
      if n ≥ 4 then .error .tooLong
      else
        match (w.extractLsb' 9 3).toNat with
        | 0 => readChain ws { ch with xi := ch.xi ++ [w.extractLsb' 0 9] } (n + 1)
        | 1 => if ch.xg.isSome then .error .twice
               else readChain ws { ch with xg := some (w.extractLsb' 0 9) } (n + 1)
        | 2 => if ch.xp.isSome then .error .twice
               else readChain ws { ch with xp := some (w.extractLsb' 0 9) } (n + 1)
        | 3 => if ch.xt.isSome then .error .twice
               else readChain ws { ch with xt := some (w.extractLsb' 0 9) } (n + 1)
        | 4 => if ch.rlx.isSome then .error .twice
               else readChain ws { ch with rlx := some (w.extractLsb' 0 9) } (n + 1)
        | _ => .error .reservedKind
    else .ok ({ ch with base := w }, n + 1)

/-! ### Fields of a chain -/

def Chain.pfx (ch : Chain) : Pfx :=
  match ch.xg with
  | none => ⟨false, 0⟩
  | some x => ⟨true, x.extractLsb' 0 5⟩
def Chain.aHi (ch : Chain) : BitVec 2 := match ch.xg with | none => 0 | some x => x.extractLsb' 7 2
def Chain.bHi (ch : Chain) : BitVec 2 := match ch.xg with | none => 0 | some x => x.extractLsb' 5 2
def Chain.a5 (ch : Chain) : BitVec 5 := ch.base.extractLsb' 5 5
def Chain.b5 (ch : Chain) : BitVec 5 := ch.base.extractLsb' 0 5
/-- R27: field A with the two bits of XG. -/
def Chain.aReg (ch : Chain) : Reg := ch.aHi ++ ch.a5
def Chain.bReg (ch : Chain) : Reg := ch.bHi ++ ch.b5
def xtC (x : BitVec 9) : Reg := x.extractLsb' 2 7
def xtB (x : BitVec 9) : Bool := x.getLsbD 1
def xtS (x : BitVec 9) : Bool := x.getLsbD 0
def toXt (x : BitVec 9) : Xt := ⟨xtC x, xtB x, xtS x⟩

/-- R26: the bits of the XI words, the first in memory highest. -/
def gatherXi (xi : List (BitVec 9)) : BitVec 32 :=
  xi.foldl (fun acc x => (acc <<< 9) ||| x.setWidth 32) 0
/-- R26, format RI and FB. -/
def Chain.imm5 (ch : Chain) : Imm := ⟨ch.xi.length, (gatherXi ch.xi <<< 5) ||| ch.b5.setWidth 32⟩
/-- R26, format J. -/
def Chain.imm10 (ch : Chain) : Imm :=
  ⟨ch.xi.length, (gatherXi ch.xi <<< 10) ||| (ch.base.extractLsb' 0 10).setWidth 32⟩
/-- R26, format M. -/
def Chain.immM (ch : Chain) : Imm := ⟨ch.xi.length, gatherXi ch.xi⟩

/-- R30: an RLX word has bits 8:3 zero and the group in bits 2:0. -/
def rlxOk (x : Option (BitVec 9)) : Bool := match x with | none => true | some p => p.extractLsb' 3 6 == 0
def rlxGroup (x : Option (BitVec 9)) : Option (BitVec 3) := x.map fun p => p.extractLsb' 0 3

/-- R32: the prefix kinds that the base word can use. -/
def Chain.allows (ch : Chain) (m : Nat) (xt rlx : Bool) : Bool :=
  ch.xi.length ≤ m && (xt || ch.xt.isNone) && (rlx || ch.rlx.isNone)

/-- Answers `x` when the chain check and the field check both hold. -/
def accept {α : Type} (chainOk fieldOk : Bool) (x : α) : Except Reject α :=
  if chainOk then (if fieldOk then .ok x else .error .field) else .error .chain

def isVReg (f : BitVec 5) : Bool := f.toNat < 8
def isFour (f : BitVec 5) : Bool := f.toNat < 4
/-- R46 (U): XT with C = 0 and bit 0 = 0. -/
def xtOnlyB (x : Option (BitVec 9)) : Bool := match x with | none => true | some p => xtC p == 0 && !xtS p
def syncB (x : Option (BitVec 9)) : Option Bool := x.map xtB
/-- R94: XT's C as a vector register. -/
def xtVec (x : Option (BitVec 9)) : Bool := match x with | none => true | some p => (xtC p).toNat < 8
def toXtV (x : BitVec 9) : XtV := ⟨(xtC x).setWidth 3, xtB x, xtS x⟩
def vOf (f : BitVec 5) : VReg := f.setWidth 3
def fourOf (f : BitVec 5) : Four := f.setWidth 2
def xtOr (x : Option (BitVec 9)) : BitVec 9 := x.getD 0

/-! ### One parser for each shape -/

def parseT (ch : Chain) : Except Reject ShT :=
  accept (ch.allows 0 true false) true ⟨ch.pfx, ch.aReg, ch.bReg, ch.xt.map toXt⟩
def parseU (ch : Chain) : Except Reject ShU :=
  accept (ch.allows 0 true false) (xtOnlyB ch.xt) ⟨ch.pfx, ch.aReg, ch.bReg, syncB ch.xt⟩
def parseI (m : Nat) (ch : Chain) : Except Reject ShI :=
  accept (ch.allows m false false) (ch.bHi == 0) ⟨ch.pfx, ch.aReg, ch.imm5⟩
def parseK (ch : Chain) : Except Reject ShK :=
  accept (ch.allows 0 true false) (ch.aHi == 0) ⟨ch.pfx, ch.a5, ch.bReg, ch.xt.map toXt⟩
/-- R46 (L): C is a flag, and both sync bits are 0. -/
def parseL (ch : Chain) : Except Reject ShL :=
  accept (ch.allows 0 true false)
    (ch.aHi == 0 && ch.bHi == 0 &&
      (match ch.xt with | none => true | some p => (xtC p).toNat < 32 && !xtB p && !xtS p))
    ⟨ch.pfx, ch.a5, ch.b5, ch.xt.map fun p => (xtC p).setWidth 5⟩
def parseFF (ch : Chain) : Except Reject ShFF :=
  accept (ch.allows 0 false false) (ch.aHi == 0 && ch.bHi == 0) ⟨ch.pfx, ch.a5, ch.b5⟩
def parseJ (ch : Chain) : Except Reject ShJ :=
  accept (ch.allows 2 false false) (ch.aHi == 0 && ch.bHi == 0) ⟨ch.pfx, ch.imm10⟩
def parseFB (ch : Chain) : Except Reject ShFB :=
  accept (ch.allows 2 false false) (ch.aHi == 0 && ch.bHi == 0) ⟨ch.pfx, ch.a5, ch.imm5⟩
def parseA (ch : Chain) : Except Reject ShA :=
  accept (ch.allows 0 false false) (ch.bReg == 0) ⟨ch.pfx, ch.aReg⟩
/-- R220: field A is zero, and the mask register is even and not g0. -/
def parseBEven (ch : Chain) : Except Reject ShB :=
  accept (ch.allows 0 false false) (ch.aReg == 0 && ch.bReg.toNat % 2 == 0 && ch.bReg != 0) ⟨ch.pfx, ch.bReg⟩
def parseBU (ch : Chain) : Except Reject ShBU :=
  accept (ch.allows 0 true false) (ch.aReg == 0 && xtOnlyB ch.xt) ⟨ch.pfx, ch.bReg, syncB ch.xt⟩
def parseAB (ch : Chain) : Except Reject ShAB :=
  accept (ch.allows 0 false false) true ⟨ch.pfx, ch.aReg, ch.bReg⟩
def parseABEven (ch : Chain) : Except Reject ShAB :=
  accept (ch.allows 0 false false) (ch.bReg.toNat % 2 == 0 && ch.bReg != 0) ⟨ch.pfx, ch.aReg, ch.bReg⟩
def parseSend (ch : Chain) : Except Reject ShAB :=
  accept (ch.allows 0 false false) (ch.bReg.toNat % 8 == 0) ⟨ch.pfx, ch.aReg, ch.bReg⟩
def parseZ (ch : Chain) : Except Reject ShZ :=
  accept (ch.allows 0 false false) (ch.aReg == 0 && ch.bReg == 0) ⟨ch.pfx⟩
def parseM (ch : Chain) : Except Reject ShM :=
  accept (ch.allows 3 true true) (rlxOk ch.rlx)
    ⟨ch.pfx, ch.aReg, ch.bReg, ch.xt.map toXt, ch.immM, rlxGroup ch.rlx⟩
/-- R181: AMOCAS takes an even register from 2 to 126. -/
def parseCas (ch : Chain) : Except Reject ShM :=
  accept (ch.allows 3 true true) (rlxOk ch.rlx && ch.aReg.toNat % 2 == 0 && ch.aReg != 0)
    ⟨ch.pfx, ch.aReg, ch.bReg, ch.xt.map toXt, ch.immM, rlxGroup ch.rlx⟩
def parseMN (ch : Chain) : Except Reject ShMN :=
  accept (ch.allows 3 true false) true ⟨ch.pfx, ch.aReg, ch.bReg, ch.xt.map toXt, ch.immM⟩
def parseMZ (ch : Chain) : Except Reject ShMZ :=
  accept (ch.allows 3 true false) (ch.aReg == 0) ⟨ch.pfx, ch.bReg, ch.xt.map toXt, ch.immM⟩
def parseMV (ch : Chain) : Except Reject ShMV :=
  accept (ch.allows 3 true true) (rlxOk ch.rlx && ch.aHi == 0 && isVReg ch.a5)
    ⟨ch.pfx, vOf ch.a5, ch.bReg, ch.xt.map toXt, ch.immM, rlxGroup ch.rlx⟩
/-- R102: XT is required and carries the index vector. -/
def parseVG (ch : Chain) : Except Reject ShVG :=
  accept (ch.allows 3 true true && ch.xt.isSome)
    (rlxOk ch.rlx && ch.aHi == 0 && isVReg ch.a5 && xtVec ch.xt)
    ⟨ch.pfx, vOf ch.a5, ch.bReg, (xtC (xtOr ch.xt)).setWidth 3, xtB (xtOr ch.xt), xtS (xtOr ch.xt),
      ch.immM, rlxGroup ch.rlx⟩
def parseVV (ch : Chain) : Except Reject ShVV :=
  accept (ch.allows 0 true false)
    (ch.aHi == 0 && ch.bHi == 0 && isVReg ch.a5 && isVReg ch.b5 && xtVec ch.xt)
    ⟨ch.pfx, vOf ch.a5, vOf ch.b5, ch.xt.map toXtV⟩
def parseVU (ch : Chain) : Except Reject ShVU :=
  accept (ch.allows 0 true false)
    (ch.aHi == 0 && ch.bHi == 0 && isVReg ch.a5 && isVReg ch.b5 && xtOnlyB ch.xt)
    ⟨ch.pfx, vOf ch.a5, vOf ch.b5, syncB ch.xt⟩
def parseVS (ch : Chain) : Except Reject ShVS :=
  accept (ch.allows 0 true false) (ch.aHi == 0 && isVReg ch.a5 && xtOnlyB ch.xt)
    ⟨ch.pfx, vOf ch.a5, ch.bReg, syncB ch.xt⟩
def parseSV (ch : Chain) : Except Reject ShSV :=
  accept (ch.allows 0 true false) (ch.bHi == 0 && isVReg ch.b5 && xtOnlyB ch.xt)
    ⟨ch.pfx, ch.aReg, vOf ch.b5, syncB ch.xt⟩
/-- R94: without XT, A's number must be legal for C's kind. -/
def parseSVV (ch : Chain) : Except Reject ShSVV :=
  accept (ch.allows 0 true false)
    (ch.bHi == 0 && isVReg ch.b5 && xtVec ch.xt && (ch.xt.isSome || ch.aReg.toNat < 8))
    ⟨ch.pfx, ch.aReg, vOf ch.b5, ch.xt.map toXtV⟩
def parseSVS (ch : Chain) : Except Reject ShSVS :=
  accept (ch.allows 0 true false) (ch.bHi == 0 && isVReg ch.b5)
    ⟨ch.pfx, ch.aReg, vOf ch.b5, ch.xt.map toXt⟩
def parseVSS (ch : Chain) : Except Reject ShVSS :=
  accept (ch.allows 0 true false) (ch.aHi == 0 && isVReg ch.a5)
    ⟨ch.pfx, vOf ch.a5, ch.bReg, ch.xt.map toXt⟩
def parseVVS (ch : Chain) : Except Reject ShVVS :=
  accept (ch.allows 0 true false) (ch.aHi == 0 && ch.bHi == 0 && isVReg ch.a5 && isVReg ch.b5)
    ⟨ch.pfx, vOf ch.a5, vOf ch.b5, ch.xt.map toXt⟩
def parseAmV (ch : Chain) : Except Reject ShAmV :=
  accept (ch.allows 0 true false)
    (ch.aHi == 0 && ch.bHi == 0 && isFour ch.a5 && isVReg ch.b5 && xtOnlyB ch.xt)
    ⟨ch.pfx, fourOf ch.a5, vOf ch.b5, syncB ch.xt⟩
/-- R39, R141, R181: scope in imm5 bits 2:0, codes 6 and 7 and bits 4:3 refused. -/
def parseSc (ch : Chain) : Except Reject ShSc :=
  accept (ch.allows 0 false false) (ch.aReg == 0 && ch.bHi == 0 && ch.b5.toNat < 6)
    ⟨ch.pfx, ch.b5.setWidth 3⟩
/-- R188. -/
def parseBind (ch : Chain) : Except Reject ShBind :=
  accept (ch.allows 0 true false && ch.xt.isSome) (ch.aHi == 0 && isFour ch.a5 && ch.bReg != 0)
    ⟨ch.pfx, fourOf ch.a5, ch.bReg, xtC (xtOr ch.xt), xtB (xtOr ch.xt), xtS (xtOr ch.xt)⟩
/-- R190: the gathered value is 0 to 3, so an XI word adds nothing to it (R24, R26). -/
def parseQ (ch : Chain) : Except Reject ShQ :=
  accept (ch.allows 3 false false) (ch.aReg == 0 && ch.bHi == 0 && isFour ch.b5 && gatherXi ch.xi == 0)
    ⟨ch.pfx, fourOf ch.b5, ch.xi.length⟩
/-- R119, R40: the bank stands in XG bits 6:5. -/
def parseSp (ch : Chain) : Except Reject ShSp :=
  accept (ch.allows 0 false false)
    (match ch.bHi.toNat with
     | 0 => ch.b5.toNat < 25
     | 1 => ch.b5.toNat < 8
     | 2 => ch.b5.toNat < 2
     | _ => false)
    ⟨ch.pfx, ch.aReg, ch.bHi, ch.b5⟩
def parseMan (ch : Chain) : Except Reject ShMan :=
  accept (ch.allows 0 false false) (ch.bHi == 0 && ch.b5.toNat < 2) ⟨ch.pfx, ch.aReg, ch.b5 == 1⟩
def parseMan8 (ch : Chain) : Except Reject ShMan :=
  accept (ch.allows 0 false false)
    (ch.bHi == 0 && ch.b5.toNat < 2 && ch.aReg.toNat % 8 == 0 && ch.aReg != 0)
    ⟨ch.pfx, ch.aReg, ch.b5 == 1⟩
def parseFB4 (ch : Chain) : Except Reject ShFB4 :=
  accept (ch.allows 0 false false) (ch.aHi == 0 && isFour ch.a5) ⟨ch.pfx, fourOf ch.a5, ch.bReg⟩
def parseF4 (ch : Chain) : Except Reject ShF4 :=
  accept (ch.allows 0 true false && ch.xt.isSome) (ch.aHi == 0 && isFour ch.a5)
    ⟨ch.pfx, fourOf ch.a5, ch.bReg, xtC (xtOr ch.xt), xtB (xtOr ch.xt), xtS (xtOr ch.xt)⟩
/-- R241: bits 1:0 tile, 2 TA, 3 TB, 4 zero. -/
def parseMma (ch : Chain) : Except Reject ShMma :=
  accept (ch.allows 0 true false && ch.xt.isSome) (ch.aHi == 0 && ch.a5.toNat < 16)
    ⟨ch.pfx, fourOf ch.a5, ch.a5.getLsbD 2, ch.a5.getLsbD 3, ch.bReg, xtC (xtOr ch.xt), xtB (xtOr ch.xt),
      xtS (xtOr ch.xt)⟩
/-- R241: bits 1:0 tile, 2 TR, 4:3 zero. -/
def parseCvt (ch : Chain) : Except Reject ShCvt :=
  accept (ch.allows 0 true false && ch.xt.isSome) (ch.aHi == 0 && ch.a5.toNat < 8)
    ⟨ch.pfx, fourOf ch.a5, ch.a5.getLsbD 2, ch.bReg, xtC (xtOr ch.xt), xtB (xtOr ch.xt), xtS (xtOr ch.xt)⟩
def parseT4 (ch : Chain) : Except Reject ShT4 :=
  accept (ch.allows 0 false false) (ch.aHi == 0 && ch.bReg == 0 && isFour ch.a5) ⟨ch.pfx, fourOf ch.a5⟩
/-- R241: B is a tile, so its sync bit is no source's. -/
def parseArd (ch : Chain) : Except Reject ShArd :=
  accept (ch.allows 0 true false && ch.xt.isSome) (ch.bHi == 0 && isFour ch.b5 && !xtB (xtOr ch.xt))
    ⟨ch.pfx, ch.aReg, fourOf ch.b5, xtC (xtOr ch.xt), xtS (xtOr ch.xt)⟩
def parseA4 (ch : Chain) : Except Reject ShA4 :=
  accept (ch.allows 0 false false) (ch.bHi == 0 && isFour ch.b5) ⟨ch.pfx, ch.aReg, fourOf ch.b5⟩
def parseR3 (ch : Chain) : Except Reject ShR3 :=
  accept (ch.allows 0 true false && ch.xt.isSome) true
    ⟨ch.pfx, ch.aReg, ch.bReg, xtC (xtOr ch.xt), xtB (xtOr ch.xt), xtS (xtOr ch.xt)⟩
/-- R313: C nonzero and XT bit 1 zero. -/
def parseSw (ch : Chain) : Except Reject ShSw :=
  accept (ch.allows 0 true false && ch.xt.isSome) (xtC (xtOr ch.xt) != 0 && !xtB (xtOr ch.xt))
    ⟨ch.pfx, ch.aReg, ch.bReg, xtC (xtOr ch.xt), xtS (xtOr ch.xt)⟩
def parseImm (ch : Chain) : Except Reject ShImm :=
  accept (ch.allows 3 false false) (ch.aReg == 0 && ch.bHi == 0) ⟨ch.pfx, ch.imm5⟩
def parseSeg (ch : Chain) : Except Reject ShSeg :=
  accept (ch.allows 0 false false) (ch.aHi == 0 && isVReg ch.a5 && ch.bReg.toNat % 4 == 0 && ch.bReg != 0)
    ⟨ch.pfx, vOf ch.a5, ch.bReg⟩
/-- R57: an XT on MTF has C = 0, bit 0 = 0 and bit 1 set. -/
def parseMtf (ch : Chain) : Except Reject ShU :=
  accept (ch.allows 0 true false)
    (match ch.xt with | none => true | some p => xtC p == 0 && !xtS p && xtB p)
    ⟨ch.pfx, ch.aReg, ch.bReg, syncB ch.xt⟩

/-! ### The opcode map (R37, R38) -/

def decodePage0 (v : Nat) (ch : Chain) : Except Reject Instr :=
  match v with
  | 0 => (parseT ch).map .add
  | 1 => (parseT ch).map .sub
  | 2 => (parseT ch).map .and
  | 3 => (parseT ch).map .or
  | 4 => (parseT ch).map .xor
  | 5 => (parseT ch).map .andn
  | 6 => (parseT ch).map .shl
  | 7 => (parseT ch).map .shr
  | 8 => (parseT ch).map .sra
  | 9 => (parseT ch).map .mul
  | 10 => (parseU ch).map .mov
  | 11 => (parseI 3 ch).map .addi
  | 12 => (parseI 3 ch).map .movi
  | 13 => (parseI 3 ch).map .andi
  | 14 => (parseI 0 ch).map .shli
  | 15 => (parseI 0 ch).map .shri
  | 16 => (parseI 0 ch).map .srai
  | 17 => (parseK ch).map .ceq
  | 18 => (parseK ch).map .cne
  | 19 => (parseK ch).map .clt
  | 20 => (parseK ch).map .cltu
  | 21 => (parseK ch).map .cle
  | 22 => (parseK ch).map .cleu
  | 23 => (parseI 3 ch).map .ceqi
  | 24 => (parseI 3 ch).map .clti
  | 25 => (parseM ch).map .ldb
  | 26 => (parseM ch).map .ldbs
  | 27 => (parseM ch).map .ldh
  | 28 => (parseM ch).map .ldhs
  | 29 => (parseM ch).map .ldw
  | 30 => (parseM ch).map .stb
  | 31 => (parseM ch).map .sth
  | 32 => (parseM ch).map .stw
  | 33 => (parseMV ch).map .ldv
  | 34 => (parseMV ch).map .stv
  | 35 => (parseJ ch).map .br
  | 36 => (parseFB ch).map .bf
  | 37 => (parseFB ch).map .bnf
  | 38 => (parseJ ch).map .call
  | 39 => (parseBU ch).map .jr
  | 40 => (parseU ch).map .jalr
  | _ => .error .opcode

def decodePage1 (v : Nat) (ch : Chain) : Except Reject Instr :=
  match v with
  | 0 => (parseT ch).map .div
  | 1 => (parseT ch).map .divu
  | 2 => (parseT ch).map .rem
  | 3 => (parseT ch).map .remu
  | 4 => (parseT ch).map .mulh
  | 5 => (parseT ch).map .mulhu
  | 6 => (parseT ch).map .min
  | 7 => (parseT ch).map .max
  | 8 => (parseT ch).map .minu
  | 9 => (parseT ch).map .maxu
  | 10 => (parseU ch).map .clz
  | 11 => (parseU ch).map .ctz
  | 12 => (parseU ch).map .popc
  | 13 => (parseU ch).map .brev
  | 14 => (parseT ch).map .rot
  | 15 => (parseI 0 ch).map .sext
  | 16 => (parseI 0 ch).map .zext
  | 17 => (parseT ch).map .sel
  | 18 => (parseL ch).map .fAnd
  | 19 => (parseL ch).map .fOr
  | 20 => (parseL ch).map .fXor
  | 21 => (parseFF ch).map .fNot
  | 22 => (parseA ch).map .mff
  | 23 => (parseMtf ch).map .mtf
  | 24 => (parseI 3 ch).map .loop
  | _ => .error .opcode

def decodePage2 (v : Nat) (ch : Chain) : Except Reject Instr :=
  match v with
  | 0 => (parseVV ch).map .vadd
  | 1 => (parseVV ch).map .vsub
  | 2 => (parseVV ch).map .vmul
  | 3 => (parseVV ch).map .vmin
  | 4 => (parseVV ch).map .vmax
  | 5 => (parseVV ch).map .vand
  | 6 => (parseVV ch).map .vor
  | 7 => (parseVV ch).map .vxor
  | 8 => (parseVV ch).map .vshl
  | 9 => (parseVV ch).map .vshr
  | 10 => (parseVV ch).map .vsra
  | 11 => (parseSVV ch).map .vceq
  | 12 => (parseSVV ch).map .vclt
  | 13 => (parseVV ch).map .vsel
  | 14 => (parseVS ch).map .vbcast
  | 15 => (parseSVS ch).map .vext
  | 16 => (parseVSS ch).map .vins
  | 17 => (parseVV ch).map .vperm
  | 18 => (parseVU ch).map .vscan
  | 19 => (parseSV ch).map .vredadd
  | 20 => (parseSV ch).map .vredmin
  | 21 => (parseSV ch).map .vredmax
  | 22 => (parseVG ch).map .vgath
  | 23 => (parseVG ch).map .vscat
  | _ => .error .opcode

def decodePage3 (v : Nat) (ch : Chain) : Except Reject Instr :=
  match v with
  | 0 => (parseVV ch).map .vfadd
  | 1 => (parseVV ch).map .vfsub
  | 2 => (parseVV ch).map .vfmul
  | 3 => (parseVV ch).map .vfma
  | 4 => (parseVV ch).map .vfmin
  | 5 => (parseVV ch).map .vfmax
  | 6 => (parseVU ch).map .vfabs
  | 7 => (parseSVV ch).map .vfclt
  | 8 => (parseSVV ch).map .vfceq
  | 9 => (parseSV ch).map .vfred
  | 10 => (parseVU ch).map .vfscan
  | 11 => (parseVVS ch).map .vcvtif
  | 12 => (parseVVS ch).map .vcvtfi
  | 13 => (parseVVS ch).map .vcvt
  | 14 => (parseAmV ch).map .vamax
  | 15 => (parseVU ch).map .vrcp
  | 16 => (parseVU ch).map .vrsq
  | _ => .error .opcode

def decodePage4 (v : Nat) (ch : Chain) : Except Reject Instr :=
  match v with
  | 0 => (parseM ch).map .lde
  | 1 => (parseM ch).map .ldt
  | 2 => (parseM ch).map .stf
  | 3 => (parseM ch).map .ste
  | 4 => (parseMN ch).map .tagrd
  | 5 => (parseMZ ch).map .watch
  | 6 => (parseMZ ch).map .unwatch
  | 7 => (parseZ ch).map .wait
  | 8 => (parseM ch).map .amoadd
  | 9 => (parseM ch).map .amomin
  | 10 => (parseM ch).map .amomax
  | 11 => (parseM ch).map .amoand
  | 12 => (parseM ch).map .amoor
  | 13 => (parseM ch).map .amoxor
  | 14 => (parseM ch).map .amoswp
  | 15 => (parseCas ch).map .amocas
  | 16 => (parseMN ch).map .rsv
  | 17 => (parseMN ch).map .rls
  | 18 => (parseSc ch).map .fence
  | 19 => (parseSc ch).map .bar
  | _ => .error .opcode

def decodePage5 (v : Nat) (ch : Chain) : Except Reject Instr :=
  match v with
  | 0 => (parseU ch).map .spawn
  | 1 => (parseU ch).map .reap
  | 2 => (parseA ch).map .exit
  | 3 => (parseZ ch).map .trigger
  | 4 => (parseT ch).map .launch
  | 5 => (parseSend ch).map .send
  | 6 => (parseAB ch).map .chset
  | 7 => (parseA ch).map .chblk
  | 8 => (parseA ch).map .chunb
  | 9 => (parseBind ch).map .bind
  | 10 => (parseQ ch).map .unbind
  | 11 => (parseSp ch).map .mfs
  | 12 => (parseSp ch).map .mts
  | _ => .error .opcode

def decodePage6 (v : Nat) (ch : Chain) : Except Reject Instr :=
  match v with
  | 0 => (parseU ch).map .cvy
  | 1 => (parseI 2 ch).map .join
  | 2 => (parseU ch).map .split
  | 3 => (parseI 3 ch).map .spliti
  | 4 => (parseU ch).map .mpop
  | 5 => (parseMan ch).map .mcnt
  | 6 => (parseMan8 ch).map .mfm
  | 7 => (parseMan8 ch).map .mtm
  | 8 => (parseM ch).map .qld
  | 9 => (parseM ch).map .qst
  | 10 => (parseM ch).map .qadd
  | 11 => (parseA ch).map .cexit
  | _ => .error .opcode

def decodePage7 (v : Nat) (ch : Chain) : Except Reject Instr :=
  match v with
  | 0 => (parseU ch).map .cpy
  | 1 => (parseU ch).map .cpy2
  | 2 => (parseU ch).map .gth
  | 3 => (parseU ch).map .sct
  | 4 => (parseU ch).map .coll
  | 5 => (parseABEven ch).map .waitany
  | 6 => (parseBEven ch).map .waitall
  | 7 => (parseABEven ch).map .tagff
  | 8 => (parseBEven ch).map .tagclr
  | _ => .error .opcode

def decodePage8 (v : Nat) (ch : Chain) : Except Reject Instr :=
  match v with
  | 0 => (parseFB4 ch).map .prec
  | 1 => (parseF4 ch).map .wld
  | 2 => (parseMma ch).map .mma
  | 3 => (parseT4 ch).map .accz
  | 4 => (parseArd ch).map .accrd
  | 5 => (parseF4 ch).map .accwr
  | 6 => (parseCvt ch).map .cvtst
  | 7 => (parseA4 ch).map .amaxrd
  | 8 => (parseT4 ch).map .amaxclr
  | 9 => (parseFB4 ch).map .dupset
  | 10 => (parseR3 ch).map .osplit
  | _ => .error .opcode

def decodePage9 (v : Nat) (ch : Chain) : Except Reject Instr :=
  match v with
  | 0 => (parseImm ch).map .trap
  | 1 => (parseImm ch).map .sys
  | 2 => (parseImm ch).map .brk
  | 3 => (parseZ ch).map .eret
  | 4 => (parseSp ch).map .mfsp
  | 5 => (parseSp ch).map .mtsp
  | 6 => (parseSeg ch).map .segset
  | 7 => (parseAB ch).map .tlbinv
  | 8 => (parseR3 ch).map .reloc
  | 9 => (parseSw ch).map .sweep
  | 10 => (parseU ch).map .wearrd
  | 11 => (parseU ch).map .ctxsv
  | 12 => (parseU ch).map .ctxld
  | 13 => (parseU ch).map .resume
  | 14 => (parseU ch).map .park
  | _ => .error .opcode

/-- R28: the page that XP selects; without XP it is page 0. -/
def Chain.page (ch : Chain) : Except Reject Nat :=
  match ch.xp with
  | none => .ok 0
  | some p =>
    if p.extractLsb' 0 5 == 0 && 1 ≤ (p.extractLsb' 5 4).toNat && (p.extractLsb' 5 4).toNat ≤ 9
    then .ok (p.extractLsb' 5 4).toNat else .error .badPage

def decodeChain (ch : Chain) : Except Reject Instr :=
  let v := (ch.base.extractLsb' 10 6).toNat
  match ch.page with
  | .error e => .error e
  | .ok 0 => decodePage0 v ch
  | .ok 1 => decodePage1 v ch
  | .ok 2 => decodePage2 v ch
  | .ok 3 => decodePage3 v ch
  | .ok 4 => decodePage4 v ch
  | .ok 5 => decodePage5 v ch
  | .ok 6 => decodePage6 v ch
  | .ok 7 => decodePage7 v ch
  | .ok 8 => decodePage8 v ch
  | .ok 9 => decodePage9 v ch
  | .ok _ => .error .badPage

/-- Decodes the instruction at the head of a list of words, with the number of words it takes. -/
def decode (ws : List Half) : Except Reject (Instr × Nat) :=
  match readChain ws .empty 0 with
  | .error e => .error e
  | .ok (ch, n) =>
    match decodeChain ch with
    | .error e => .error e
    | .ok i => .ok (i, n)

/-! ### The encoder -/

/-- R26: the lowest `9 * k` bits of a value as XI words, the highest first. -/
def xiWords : Nat → BitVec 32 → List (BitVec 9)
  | 0, _ => []
  | k + 1, v => (v >>> (9 * k)).setWidth 9 :: xiWords k v

def xtPayload (c : Reg) (sb sc : Bool) : BitVec 9 := c ++ BitVec.ofBool sb ++ BitVec.ofBool sc
def Xt.payload (x : Xt) : BitVec 9 := xtPayload x.c x.sb x.sc
def XtV.payload (x : XtV) : BitVec 9 := xtPayload (x.c.setWidth 7) x.sb x.sc
def sbPayload (b : Bool) : BitVec 9 := xtPayload 0 b false
def rlxPayload (g : BitVec 3) : BitVec 9 := g.setWidth 9
def regHi (r : Reg) : BitVec 2 := r.extractLsb' 5 2
def regLo (r : Reg) : BitVec 5 := r.extractLsb' 0 5
def immLo (i : Imm) : BitVec 5 := i.raw.setWidth 5

/-- A chain from its fields; the opcode comes with it (R22, R25, R27, R28). -/
def mkChain (op : Nat × Nat) (p : Pfx) (aHi bHi : BitVec 2) (a5 b5 : BitVec 5) (xt rlx : Option (BitVec 9))
    (xi : List (BitVec 9)) : Chain :=
  { xp := if op.1 = 0 then none else some (BitVec.ofNat 4 op.1 ++ 0#5)
    xg := if p.xg then some (aHi ++ bHi ++ p.guard) else none
    xt := xt
    rlx := rlx
    xi := xi
    base := BitVec.ofNat 6 op.2 ++ a5 ++ b5 }

def ShT.chain (op : Nat × Nat) (o : ShT) : Chain :=
  mkChain op o.p (regHi o.a) (regHi o.b) (regLo o.a) (regLo o.b) (o.xt.map Xt.payload) none []
def ShU.chain (op : Nat × Nat) (o : ShU) : Chain :=
  mkChain op o.p (regHi o.a) (regHi o.b) (regLo o.a) (regLo o.b) (o.sb.map sbPayload) none []
def ShI.chain (op : Nat × Nat) (o : ShI) : Chain :=
  mkChain op o.p (regHi o.a) 0 (regLo o.a) (immLo o.imm) none none (xiWords o.imm.k (o.imm.raw >>> 5))
def ShK.chain (op : Nat × Nat) (o : ShK) : Chain :=
  mkChain op o.p 0 (regHi o.b) o.fa (regLo o.b) (o.xt.map Xt.payload) none []
def ShL.chain (op : Nat × Nat) (o : ShL) : Chain :=
  mkChain op o.p 0 0 o.fa o.fb (o.fc.map fun f => xtPayload (f.setWidth 7) false false) none []
def ShFF.chain (op : Nat × Nat) (o : ShFF) : Chain := mkChain op o.p 0 0 o.fa o.fb none none []
def ShJ.chain (op : Nat × Nat) (o : ShJ) : Chain :=
  mkChain op o.p 0 0 (o.imm.raw.extractLsb' 5 5) (immLo o.imm) none none (xiWords o.imm.k (o.imm.raw >>> 10))
def ShFB.chain (op : Nat × Nat) (o : ShFB) : Chain :=
  mkChain op o.p 0 0 o.f (immLo o.imm) none none (xiWords o.imm.k (o.imm.raw >>> 5))
def ShA.chain (op : Nat × Nat) (o : ShA) : Chain := mkChain op o.p (regHi o.a) 0 (regLo o.a) 0 none none []
def ShB.chain (op : Nat × Nat) (o : ShB) : Chain := mkChain op o.p 0 (regHi o.b) 0 (regLo o.b) none none []
def ShBU.chain (op : Nat × Nat) (o : ShBU) : Chain :=
  mkChain op o.p 0 (regHi o.b) 0 (regLo o.b) (o.sb.map sbPayload) none []
def ShAB.chain (op : Nat × Nat) (o : ShAB) : Chain :=
  mkChain op o.p (regHi o.a) (regHi o.b) (regLo o.a) (regLo o.b) none none []
def ShZ.chain (op : Nat × Nat) (o : ShZ) : Chain := mkChain op o.p 0 0 0 0 none none []
def ShM.chain (op : Nat × Nat) (o : ShM) : Chain :=
  mkChain op o.p (regHi o.a) (regHi o.b) (regLo o.a) (regLo o.b) (o.xt.map Xt.payload) (o.rlx.map rlxPayload)
    (xiWords o.imm.k o.imm.raw)
def ShMN.chain (op : Nat × Nat) (o : ShMN) : Chain :=
  mkChain op o.p (regHi o.a) (regHi o.b) (regLo o.a) (regLo o.b) (o.xt.map Xt.payload) none
    (xiWords o.imm.k o.imm.raw)
def ShMZ.chain (op : Nat × Nat) (o : ShMZ) : Chain :=
  mkChain op o.p 0 (regHi o.b) 0 (regLo o.b) (o.xt.map Xt.payload) none (xiWords o.imm.k o.imm.raw)
def ShMV.chain (op : Nat × Nat) (o : ShMV) : Chain :=
  mkChain op o.p 0 (regHi o.b) (o.a.setWidth 5) (regLo o.b) (o.xt.map Xt.payload) (o.rlx.map rlxPayload)
    (xiWords o.imm.k o.imm.raw)
def ShVG.chain (op : Nat × Nat) (o : ShVG) : Chain :=
  mkChain op o.p 0 (regHi o.b) (o.a.setWidth 5) (regLo o.b) (some (xtPayload (o.c.setWidth 7) o.sb o.sc))
    (o.rlx.map rlxPayload) (xiWords o.imm.k o.imm.raw)
def ShVV.chain (op : Nat × Nat) (o : ShVV) : Chain :=
  mkChain op o.p 0 0 (o.a.setWidth 5) (o.b.setWidth 5) (o.xt.map XtV.payload) none []
def ShVU.chain (op : Nat × Nat) (o : ShVU) : Chain :=
  mkChain op o.p 0 0 (o.a.setWidth 5) (o.b.setWidth 5) (o.sb.map sbPayload) none []
def ShVS.chain (op : Nat × Nat) (o : ShVS) : Chain :=
  mkChain op o.p 0 (regHi o.b) (o.a.setWidth 5) (regLo o.b) (o.sb.map sbPayload) none []
def ShSV.chain (op : Nat × Nat) (o : ShSV) : Chain :=
  mkChain op o.p (regHi o.a) 0 (regLo o.a) (o.b.setWidth 5) (o.sb.map sbPayload) none []
def ShSVV.chain (op : Nat × Nat) (o : ShSVV) : Chain :=
  mkChain op o.p (regHi o.a) 0 (regLo o.a) (o.b.setWidth 5) (o.xt.map XtV.payload) none []
def ShSVS.chain (op : Nat × Nat) (o : ShSVS) : Chain :=
  mkChain op o.p (regHi o.a) 0 (regLo o.a) (o.b.setWidth 5) (o.xt.map Xt.payload) none []
def ShVSS.chain (op : Nat × Nat) (o : ShVSS) : Chain :=
  mkChain op o.p 0 (regHi o.b) (o.a.setWidth 5) (regLo o.b) (o.xt.map Xt.payload) none []
def ShVVS.chain (op : Nat × Nat) (o : ShVVS) : Chain :=
  mkChain op o.p 0 0 (o.a.setWidth 5) (o.b.setWidth 5) (o.xt.map Xt.payload) none []
def ShAmV.chain (op : Nat × Nat) (o : ShAmV) : Chain :=
  mkChain op o.p 0 0 (o.a.setWidth 5) (o.b.setWidth 5) (o.sb.map sbPayload) none []
def ShSc.chain (op : Nat × Nat) (o : ShSc) : Chain := mkChain op o.p 0 0 0 (o.scope.setWidth 5) none none []
def ShBind.chain (op : Nat × Nat) (o : ShBind) : Chain :=
  mkChain op o.p 0 (regHi o.b) (o.q.setWidth 5) (regLo o.b) (some (xtPayload o.c o.sb o.sc)) none []
def ShQ.chain (op : Nat × Nat) (o : ShQ) : Chain := mkChain op o.p 0 0 0 (o.q.setWidth 5) none none (xiWords o.k 0)
def ShSp.chain (op : Nat × Nat) (o : ShSp) : Chain :=
  mkChain op o.p (regHi o.a) o.bank (regLo o.a) o.num none none []
def ShMan.chain (op : Nat × Nat) (o : ShMan) : Chain :=
  mkChain op o.p (regHi o.a) 0 (regLo o.a) (if o.md then 1 else 0) none none []
def ShFB4.chain (op : Nat × Nat) (o : ShFB4) : Chain :=
  mkChain op o.p 0 (regHi o.b) (o.t.setWidth 5) (regLo o.b) none none []
def ShF4.chain (op : Nat × Nat) (o : ShF4) : Chain :=
  mkChain op o.p 0 (regHi o.b) (o.t.setWidth 5) (regLo o.b) (some (xtPayload o.c o.sb o.sc)) none []
def ShMma.chain (op : Nat × Nat) (o : ShMma) : Chain :=
  mkChain op o.p 0 (regHi o.b) (0#1 ++ BitVec.ofBool o.tb ++ BitVec.ofBool o.ta ++ o.t) (regLo o.b)
    (some (xtPayload o.c o.sb o.sc)) none []
def ShCvt.chain (op : Nat × Nat) (o : ShCvt) : Chain :=
  mkChain op o.p 0 (regHi o.b) (0#2 ++ BitVec.ofBool o.tr ++ o.t) (regLo o.b)
    (some (xtPayload o.c o.sb o.sc)) none []
def ShT4.chain (op : Nat × Nat) (o : ShT4) : Chain := mkChain op o.p 0 0 (o.t.setWidth 5) 0 none none []
def ShArd.chain (op : Nat × Nat) (o : ShArd) : Chain :=
  mkChain op o.p (regHi o.a) 0 (regLo o.a) (o.t.setWidth 5) (some (xtPayload o.c false o.sc)) none []
def ShA4.chain (op : Nat × Nat) (o : ShA4) : Chain :=
  mkChain op o.p (regHi o.a) 0 (regLo o.a) (o.t.setWidth 5) none none []
def ShR3.chain (op : Nat × Nat) (o : ShR3) : Chain :=
  mkChain op o.p (regHi o.a) (regHi o.b) (regLo o.a) (regLo o.b) (some (xtPayload o.c o.sb o.sc)) none []
def ShSw.chain (op : Nat × Nat) (o : ShSw) : Chain :=
  mkChain op o.p (regHi o.a) (regHi o.b) (regLo o.a) (regLo o.b) (some (xtPayload o.c false o.sc)) none []
def ShImm.chain (op : Nat × Nat) (o : ShImm) : Chain :=
  mkChain op o.p 0 0 0 (immLo o.imm) none none (xiWords o.imm.k (o.imm.raw >>> 5))
def ShSeg.chain (op : Nat × Nat) (o : ShSeg) : Chain :=
  mkChain op o.p 0 (regHi o.b) (o.sg.setWidth 5) (regLo o.b) none none []

/-- The chain of an instruction; an event has none. -/
def Instr.chain : Instr → Option Chain
  | .add o => some (o.chain (0, 0))
  | .sub o => some (o.chain (0, 1))
  | .and o => some (o.chain (0, 2))
  | .or o => some (o.chain (0, 3))
  | .xor o => some (o.chain (0, 4))
  | .andn o => some (o.chain (0, 5))
  | .shl o => some (o.chain (0, 6))
  | .shr o => some (o.chain (0, 7))
  | .sra o => some (o.chain (0, 8))
  | .mul o => some (o.chain (0, 9))
  | .mov o => some (o.chain (0, 10))
  | .addi o => some (o.chain (0, 11))
  | .movi o => some (o.chain (0, 12))
  | .andi o => some (o.chain (0, 13))
  | .shli o => some (o.chain (0, 14))
  | .shri o => some (o.chain (0, 15))
  | .srai o => some (o.chain (0, 16))
  | .ceq o => some (o.chain (0, 17))
  | .cne o => some (o.chain (0, 18))
  | .clt o => some (o.chain (0, 19))
  | .cltu o => some (o.chain (0, 20))
  | .cle o => some (o.chain (0, 21))
  | .cleu o => some (o.chain (0, 22))
  | .ceqi o => some (o.chain (0, 23))
  | .clti o => some (o.chain (0, 24))
  | .ldb o => some (o.chain (0, 25))
  | .ldbs o => some (o.chain (0, 26))
  | .ldh o => some (o.chain (0, 27))
  | .ldhs o => some (o.chain (0, 28))
  | .ldw o => some (o.chain (0, 29))
  | .stb o => some (o.chain (0, 30))
  | .sth o => some (o.chain (0, 31))
  | .stw o => some (o.chain (0, 32))
  | .ldv o => some (o.chain (0, 33))
  | .stv o => some (o.chain (0, 34))
  | .br o => some (o.chain (0, 35))
  | .bf o => some (o.chain (0, 36))
  | .bnf o => some (o.chain (0, 37))
  | .call o => some (o.chain (0, 38))
  | .jr o => some (o.chain (0, 39))
  | .jalr o => some (o.chain (0, 40))
  | .div o => some (o.chain (1, 0))
  | .divu o => some (o.chain (1, 1))
  | .rem o => some (o.chain (1, 2))
  | .remu o => some (o.chain (1, 3))
  | .mulh o => some (o.chain (1, 4))
  | .mulhu o => some (o.chain (1, 5))
  | .min o => some (o.chain (1, 6))
  | .max o => some (o.chain (1, 7))
  | .minu o => some (o.chain (1, 8))
  | .maxu o => some (o.chain (1, 9))
  | .clz o => some (o.chain (1, 10))
  | .ctz o => some (o.chain (1, 11))
  | .popc o => some (o.chain (1, 12))
  | .brev o => some (o.chain (1, 13))
  | .rot o => some (o.chain (1, 14))
  | .sext o => some (o.chain (1, 15))
  | .zext o => some (o.chain (1, 16))
  | .sel o => some (o.chain (1, 17))
  | .fAnd o => some (o.chain (1, 18))
  | .fOr o => some (o.chain (1, 19))
  | .fXor o => some (o.chain (1, 20))
  | .fNot o => some (o.chain (1, 21))
  | .mff o => some (o.chain (1, 22))
  | .mtf o => some (o.chain (1, 23))
  | .loop o => some (o.chain (1, 24))
  | .vadd o => some (o.chain (2, 0))
  | .vsub o => some (o.chain (2, 1))
  | .vmul o => some (o.chain (2, 2))
  | .vmin o => some (o.chain (2, 3))
  | .vmax o => some (o.chain (2, 4))
  | .vand o => some (o.chain (2, 5))
  | .vor o => some (o.chain (2, 6))
  | .vxor o => some (o.chain (2, 7))
  | .vshl o => some (o.chain (2, 8))
  | .vshr o => some (o.chain (2, 9))
  | .vsra o => some (o.chain (2, 10))
  | .vceq o => some (o.chain (2, 11))
  | .vclt o => some (o.chain (2, 12))
  | .vsel o => some (o.chain (2, 13))
  | .vbcast o => some (o.chain (2, 14))
  | .vext o => some (o.chain (2, 15))
  | .vins o => some (o.chain (2, 16))
  | .vperm o => some (o.chain (2, 17))
  | .vscan o => some (o.chain (2, 18))
  | .vredadd o => some (o.chain (2, 19))
  | .vredmin o => some (o.chain (2, 20))
  | .vredmax o => some (o.chain (2, 21))
  | .vgath o => some (o.chain (2, 22))
  | .vscat o => some (o.chain (2, 23))
  | .vfadd o => some (o.chain (3, 0))
  | .vfsub o => some (o.chain (3, 1))
  | .vfmul o => some (o.chain (3, 2))
  | .vfma o => some (o.chain (3, 3))
  | .vfmin o => some (o.chain (3, 4))
  | .vfmax o => some (o.chain (3, 5))
  | .vfabs o => some (o.chain (3, 6))
  | .vfclt o => some (o.chain (3, 7))
  | .vfceq o => some (o.chain (3, 8))
  | .vfred o => some (o.chain (3, 9))
  | .vfscan o => some (o.chain (3, 10))
  | .vcvtif o => some (o.chain (3, 11))
  | .vcvtfi o => some (o.chain (3, 12))
  | .vcvt o => some (o.chain (3, 13))
  | .vamax o => some (o.chain (3, 14))
  | .vrcp o => some (o.chain (3, 15))
  | .vrsq o => some (o.chain (3, 16))
  | .lde o => some (o.chain (4, 0))
  | .ldt o => some (o.chain (4, 1))
  | .stf o => some (o.chain (4, 2))
  | .ste o => some (o.chain (4, 3))
  | .tagrd o => some (o.chain (4, 4))
  | .watch o => some (o.chain (4, 5))
  | .unwatch o => some (o.chain (4, 6))
  | .wait o => some (o.chain (4, 7))
  | .amoadd o => some (o.chain (4, 8))
  | .amomin o => some (o.chain (4, 9))
  | .amomax o => some (o.chain (4, 10))
  | .amoand o => some (o.chain (4, 11))
  | .amoor o => some (o.chain (4, 12))
  | .amoxor o => some (o.chain (4, 13))
  | .amoswp o => some (o.chain (4, 14))
  | .amocas o => some (o.chain (4, 15))
  | .rsv o => some (o.chain (4, 16))
  | .rls o => some (o.chain (4, 17))
  | .fence o => some (o.chain (4, 18))
  | .bar o => some (o.chain (4, 19))
  | .spawn o => some (o.chain (5, 0))
  | .reap o => some (o.chain (5, 1))
  | .exit o => some (o.chain (5, 2))
  | .trigger o => some (o.chain (5, 3))
  | .launch o => some (o.chain (5, 4))
  | .send o => some (o.chain (5, 5))
  | .chset o => some (o.chain (5, 6))
  | .chblk o => some (o.chain (5, 7))
  | .chunb o => some (o.chain (5, 8))
  | .bind o => some (o.chain (5, 9))
  | .unbind o => some (o.chain (5, 10))
  | .mfs o => some (o.chain (5, 11))
  | .mts o => some (o.chain (5, 12))
  | .cvy o => some (o.chain (6, 0))
  | .join o => some (o.chain (6, 1))
  | .split o => some (o.chain (6, 2))
  | .spliti o => some (o.chain (6, 3))
  | .mpop o => some (o.chain (6, 4))
  | .mcnt o => some (o.chain (6, 5))
  | .mfm o => some (o.chain (6, 6))
  | .mtm o => some (o.chain (6, 7))
  | .qld o => some (o.chain (6, 8))
  | .qst o => some (o.chain (6, 9))
  | .qadd o => some (o.chain (6, 10))
  | .cexit o => some (o.chain (6, 11))
  | .cpy o => some (o.chain (7, 0))
  | .cpy2 o => some (o.chain (7, 1))
  | .gth o => some (o.chain (7, 2))
  | .sct o => some (o.chain (7, 3))
  | .coll o => some (o.chain (7, 4))
  | .waitany o => some (o.chain (7, 5))
  | .waitall o => some (o.chain (7, 6))
  | .tagff o => some (o.chain (7, 7))
  | .tagclr o => some (o.chain (7, 8))
  | .prec o => some (o.chain (8, 0))
  | .wld o => some (o.chain (8, 1))
  | .mma o => some (o.chain (8, 2))
  | .accz o => some (o.chain (8, 3))
  | .accrd o => some (o.chain (8, 4))
  | .accwr o => some (o.chain (8, 5))
  | .cvtst o => some (o.chain (8, 6))
  | .amaxrd o => some (o.chain (8, 7))
  | .amaxclr o => some (o.chain (8, 8))
  | .dupset o => some (o.chain (8, 9))
  | .osplit o => some (o.chain (8, 10))
  | .trap o => some (o.chain (9, 0))
  | .sys o => some (o.chain (9, 1))
  | .brk o => some (o.chain (9, 2))
  | .eret o => some (o.chain (9, 3))
  | .mfsp o => some (o.chain (9, 4))
  | .mtsp o => some (o.chain (9, 5))
  | .segset o => some (o.chain (9, 6))
  | .tlbinv o => some (o.chain (9, 7))
  | .reloc o => some (o.chain (9, 8))
  | .sweep o => some (o.chain (9, 9))
  | .wearrd o => some (o.chain (9, 10))
  | .ctxsv o => some (o.chain (9, 11))
  | .ctxld o => some (o.chain (9, 12))
  | .resume o => some (o.chain (9, 13))
  | .park o => some (o.chain (9, 14))
  | .memoryAccessPerform _ => none
  | .reservationGrant _ => none
  | .reservationTimeout _ _ => none
  | .waitlimExpiry _ _ => none
  | .withdrawalAnswer _ _ => none
  | .remoteReply _ => none
  | .messageArrival _ => none
  | .handlerDispatch _ => none
  | .freshDispatch _ => none
  | .streamLoadFill _ _ _ => none
  | .streamStoreTake _ _ => none
  | .q3Delivery _ _ => none
  | .pageNotice _ => none
  | .pageRequest _ _ _ => none
  | .translationWalk _ _ => none
  | .shootdownComplete => none
  | .stopEffect _ _ => none
  | .overflowRefill _ => none
  | .launchStart _ => none
  | .taskPlace _ => none
  | .placingOverNotice _ _ => none
  | .doneMessage _ _ => none
  | .launchComplete _ => none
  | .barEpisodeOpen _ _ => none
  | .convoyArrival _ => none
  | .arrivalSlotGrant _ => none
  | .placeRequest _ _ => none
  | .queuedJoinLookup _ => none
  | .joinExpiry _ _ => none
  | .copyStart _ => none
  | .copyComplete _ _ => none
  | .collCombine _ _ _ => none
  | .matrixStart _ => none
  | .matrixComplete _ => none
  | .commitPoint _ _ => none
  | .threadKill _ _ => none
  | .killScrubComplete _ _ => none
  | .drainStart _ _ => none
  | .drainComplete _ => none
  | .requestBounce _ => none
  | .jigStart _ => none
  | .jigCommit _ => none
  | .ringRecordTake _ => none
  | .obsSnapshotReady => none
  | .traceSample _ => none
  | .breakpointHold _ _ => none
  | .startup _ => none
  | .coreCycle _ => none
  | .hostWrite _ _ _ => none
  | .hostRead _ _ _ => none
  | .hostSnoop _ => none
  | .networkFrame _ => none
  | .checkpoint _ => none
  | .checkpointTimeout => none
  | .checkpointRestore _ => none
  | .doorbell _ _ => none
  | .ringEnable _ _ => none
  | .ringRestart _ => none
  | .ringSkip _ => none
  | .errorRingEnable _ => none
  | .registerWrite _ _ _ => none
  | .obsselWrite _ => none
  | .preciseStop _ _ => none
  | .debugHoldLift _ _ => none
  | .sidebandDump _ _ _ => none
  | .powerSample _ => none
  | .powerTick _ => none
  | .firmwareUpdate _ => none
  | .softError _ _ => none
  | .powerLoss => none
  | .peerRequest _ => none
  | .corePresenceEnd _ => none
  | .retryRequest => none
  | .stressTick _ _ _ => none
  | .lifetimeWrite => none
  | .linkFlitRetry _ _ => none
  | .linkFailure _ _ => none
  | .routeFailure _ => none
  | .routeChange _ _ => none

/-- One prefix word: 1111, the kind, the payload (R25). -/
def prefixWord (kind : BitVec 3) (x : BitVec 9) : Half := 0xF#4 ++ kind ++ x

/-- The words of a chain, in the order XP, XG, XT, RLX, XI, base (R44). -/
def Chain.words (ch : Chain) : List Half :=
  (ch.xp.map (prefixWord 2)).toList ++ (ch.xg.map (prefixWord 1)).toList ++
    (ch.xt.map (prefixWord 3)).toList ++ (ch.rlx.map (prefixWord 4)).toList ++
    ch.xi.map (prefixWord 0) ++ [ch.base]

/-- The words of an instruction; an event has no words. -/
def encode (i : Instr) : List Half :=
  match i.chain with
  | none => []
  | some ch => ch.words

/-! ### Bytes and words -/

/-- The two bytes of a halfword, little-endian (R6). -/
def halfBytes (h : Half) : List Byte := [h.setWidth 8, h.extractLsb' 8 8]
/-- The four bytes of a word, little-endian (R6). -/
def wordBytes (w : Word) : List Byte :=
  [w.extractLsb' 0 8, w.extractLsb' 8 8, w.extractLsb' 16 8, w.extractLsb' 24 8]
/-- The `n` low bytes of a number, little-endian. -/
def natBytes : Nat → Nat → List Byte
  | 0, _ => []
  | n + 1, x => BitVec.ofNat 8 x :: natBytes n (x / 256)
/-- The number that bytes make, little-endian. -/
def bytesNat : List Byte → Nat
  | [] => 0
  | b :: bs => b.toNat + 256 * bytesNat bs
/-- The two's-complement reading of the low `n` bits of a number, `sext` of R21. -/
def sextNat (n x : Nat) : Int := (BitVec.ofNat n x).toInt
/-- `sext` of an immediate of `n` bits (R26). -/
def sextImm (n : Nat) (x : BitVec 32) : Int := sextNat n x.toNat

/-- The halfwords of a table number in memory order. A row of the opcode table that has a page writes its XP word
in the higher half, so a higher half that is a prefix word over a lower half that is none comes first; every other
number has its first word in its lower half. Operand words of zeros follow. -/
def tableHalves (nbits w : Nat) : List Half :=
  let lo : Half := BitVec.ofNat 16 w
  let hi : Half := BitVec.ofNat 16 (w / 65536)
  let first : List Half :=
    if nbits ≤ 16 then [lo]
    else if isPrefixWord hi && !isPrefixWord lo then [hi, lo] else [lo, hi]
  first ++ [0, 0, 0]

/-- What the decoder reads from an instruction whose bits the opcode table numbers as `w`. -/
def decodeTableWord (nbits w : Nat) : Option Instr :=
  match decode (tableHalves nbits w) with
  | .ok (i, _) => some i
  | .error _ => none

end Sys2Proof
end

