-- ==== Sys2Proof/Config.lean ====
section
/-! DEFINITION. What one package fixes, and the free values: constants with no body, so that no proof can rest on
a value the spec leaves open. Each is applied to a counter of State or to the operands it depends on. -/

namespace Sys2Proof.Config

/-- A free choice of old or new: a read of a shared register within 16 cycles of a write (R117). Log entry 9. -/
opaque freeNat : Nat → Nat

/-- A free word: a value the spec says is not promised, such as the words of a section after a failed WLD (R238).
Log entry 9. -/
opaque freeWord : Nat → Word

/-- Reference-counter ticks that pass in one core cycle (R364): the core clock is at most 940 MHz and the counter runs
at 1 GHz, and the spec ties no tick to a cycle. Log entry 4. -/
opaque ticks : Nat → Nat

/-- CRC-32 of a list of words: the spec names the check and gives no polynomial (R298, R299, R360). Log entry 9. -/
opaque crc : List Word → Word

/-- Where the firmware keeps the staging region of a checkpoint in HBM, in 4 KiB units (R342). Log entry 26. -/
opaque stageArea : Nat

/-- Where the firmware keeps the replay log in HBM, in 4 KiB units (R367). Log entry 78. -/
opaque replayArea : Nat

/-- A byte of a firmware image: the spec does not give the firmware's instructions (R348). Log entry 80. -/
opaque firmware : Nat → Nat → Byte

/-- Where a control core goes on after an exception (R348, R349). Log entry 80. -/
opaque ctlVector : BitVec 64

/-- Cores of one package (R3). -/
def cores : Nat := 65536
/-- Cores of one die (R118). -/
def coresPerDie : Nat := 16384
/-- Die-local HBM bytes: 192 GB, and GB is decimal for HBM (R6, R324). -/
def hbmBytes : Nat := 192000000000
/-- The module limit in milliwatts (R5). -/
def powerLimit : Nat := 3000000

end Sys2Proof.Config
end

