-- ==== Sys2Proof/Machine/Sparse.lean ====
section
/-! DEFINITION. Sparse tables as lists of key and value pairs with rising keys, and memory in its canonical form
(Host.Cell): addresses strictly rising, no entry equal to what an unlisted address reads as. -/

namespace Sys2Proof.Machine

/-- The value at a key, if the table lists it. -/
def smGet {α : Type} : List (Nat × α) → Nat → Option α
  | [], _ => none
  | (k, v) :: t, a => if k = a then some v else smGet t a

/-- Lists a value at a key, in its place in the order. -/
def smSet {α : Type} : List (Nat × α) → Nat → α → List (Nat × α)
  | [], a, v => [(a, v)]
  | (k, w) :: t, a, v =>
    if k = a then (a, v) :: t else if a < k then (a, v) :: (k, w) :: t else (k, w) :: smSet t a v

/-- Takes a key out of the table. -/
def smDel {α : Type} (m : List (Nat × α)) (a : Nat) : List (Nat × α) := m.filter fun e => e.1 != a

/-- Keys strictly rising. -/
def smSorted {α : Type} : List (Nat × α) → Bool
  | [] => true
  | [_] => true
  | a :: b :: t => a.1 < b.1 && smSorted (b :: t)

/-- What an address that memory does not list reads as: zero (log entry 2). -/
def unlistedByte : BitVec 8 := 0

/-- One byte of memory. -/
def memRead (m : List (Nat × BitVec 8)) (a : Nat) : BitVec 8 := (smGet m a).getD unlistedByte

/-- Memory with one byte written, in canonical form. -/
def memWrite (m : List (Nat × BitVec 8)) (a : Nat) (b : BitVec 8) : List (Nat × BitVec 8) :=
  if b = unlistedByte then smDel m a else smSet m a b

/-- The canonical form of memory. -/
def memWf (m : List (Nat × BitVec 8)) : Bool := smSorted m && m.all fun e => e.2 != unlistedByte

/-- A set of keys as a strictly rising list: adds a key. -/
def setAdd : List Nat → Nat → List Nat
  | [], a => [a]
  | k :: t, a => if k = a then k :: t else if a < k then a :: k :: t else k :: setAdd t a

/-- A set of keys: takes a key out. -/
def setDel (m : List Nat) (a : Nat) : List Nat := m.filter fun e => e != a

end Sys2Proof.Machine
end

