-- ==== Sys2Proof/Machine/State.lean ====
section
/-! DEFINITION. The state of one package as plain data, the reasons a step can stop, and the state after reset
(R9, R64, R69, R114, R116, R129, R143, R154, R172, R173, R178, R188, R209, R226, R236, R253, R259, R268, R286, R298,
R329, R339, R351 to R355, R362 to R369). -/

namespace Sys2Proof.Machine

/-- The machine's faults. -/
inductive Fault where
  /-- The model's own, raised by every instruction executed where the slot whose turn it is holds no thread: the spec
  gives an instruction no effect without a thread. Safe. -/
  | noThread
deriving DecidableEq, Repr

/-- Why the model gives no meaning. -/
inductive Refusal where
  /-- Raised by an arm of `exec` that has no meaning yet. Safe: nothing can be proved about it. -/
  | notModelled (mnemonic : String)
deriving DecidableEq, Repr

/-- What acts next: an event, or the next cycle of a core (log entry 1). -/
inductive Choice where
  | event (i : Instr)
  | cycle (core : Nat)
deriving DecidableEq, Repr

/-- The trap causes of R252. -/
inductive Cause where
  | illegal | priv | segv | align | page | waitlim | reglim | chase | brk | sys | trap | engine | memerr
  | mismatch | queue | convoy
deriving DecidableEq, Repr

/-- The states of a slot that holds a thread (R114). -/
inductive Status where
  | ready | waitMem | waitMsg | parked
deriving DecidableEq, Repr

/-- How a thread came into being (R113, R136, R174, R359). -/
inductive Kind where
  | launch | spawned | handler | fresh | runtime
deriving DecidableEq, Repr

/-- A thread's part in a redundant pair (R285). -/
inductive Role where
  | alone | leading | trailing
deriving DecidableEq, Repr

/-- A place in storage: the byte's level, unit and address (R66, R167, R324). -/
inductive Place where
  | lstore (core addr : Nat)
  | qstore (quad addr : Nat)
  | dstore (die addr : Nat)
  | cstore (quad addr : Nat)
  | wstore (core addr : Nat)
  | hbm (die addr : Nat)
  | host (addr : Nat)
  | peer (pkg die addr : Nat)
  | frame (die addr : Nat)
deriving DecidableEq, Repr

/-- What an access does at its word (R73, R182, R184, R185, R161); `frame` is one word of a resume frame, for RESUME
into this register (R276); `swap` is SWEEP's atomic compare, with the new words in `result` (R315). -/
inductive AccKind where
  | load | store | lde | ldt | stf | ste | tagrd | amo (op : Nat) | cas | rsv | rls | qadd | frame (reg : Nat) | swap
deriving DecidableEq, Repr

/-- What sent an access: an instruction, a stream of the thread (R189), or a pair's commit point (R288). -/
inductive Via where
  | plain
  | queue (q : Nat)
  | commit
  /-- a pair's leading thread, through REMOTE -/
  | lead
  /-- a word of SWEEP, through REMOTE (R315) -/
  | sweep
  /-- a write of a copy operation that waits in a word's queue (R217) -/
  | copy (op : Nat)
  /-- the request of a record or a range in another package, which its device link has still to deliver (R333) -/
  | probe
deriving DecidableEq, Repr

/-- How far an outstanding access has come. -/
inductive Stage where
  /-- on its way to its bank, or a REMOTE request not sent yet -/
  | going
  /-- in a reservation queue (R179) -/
  | queued
  /-- on a waiting list (R176) -/
  | listed
  /-- at or on the way to another core's slot 15 (R171) -/
  | remote
  /-- done at the other core, its reply on the way (R171) -/
  | replied
deriving DecidableEq, Repr

/-- One word of an access: the register it fills, its place, its size, its data, whether a load extends the sign, the
virtual address at which its chase ended when it is GLOBAL, the segmented address that names it, and the marks that the
chase followed (R309). -/
structure Part where
  reg : Nat
  place : Place
  size : Nat
  data : Word
  signed : Bool
  va : Option Nat
  named : Word
  hops : Nat
deriving DecidableEq, Repr

/-- An access that has issued and not yet performed at every scope (R169, R195). -/
structure Access where
  id : Nat
  core : Nat
  slot : Nat
  kind : AccKind
  parts : List Part
  /-- the ordering group of a relaxed access; none for a default access -/
  group : Option (BitVec 3)
  /-- the path points that a store has passed: the serial numbers at which it passed them, in path order (R194) -/
  passed : List Nat
  stage : Stage
  /-- its place in the order of queues and waiting lists -/
  seq : Nat
  /-- AMOCAS's new value -/
  data2 : Word
  /-- the segmented address, for TVAL -/
  named : Word
  asn : Nat
  /-- the base register to rewrite after a chase, with its new value (R310) -/
  rewrite : Option (Nat × Word)
  /-- the values that a REMOTE reply carries, and whether the operation took effect -/
  result : List Word
  okay : Bool
  /-- made through a REMOTE segment (R171) -/
  remote : Bool
  via : Via
  /-- each of its words is a request of its own (VGATH, VSCAT: R328) -/
  each : Bool
  /-- LID and RANK of its thread, once that has left its core (R198) -/
  left : Option (Word × Word)
  /-- the marked tiles that its chase passed at its issue (R309, R328) -/
  trail : List Place
  /-- the virtual addresses that it was translated through beside those of its parts (R261, R309) -/
  vas : List Nat
deriving DecidableEq, Repr

/-- A reservation taken by RSV: the word, its holder, and the cycle of its core at which the grant reached it; none while
the grant is on its way (R180, R332). -/
structure Resv where
  word : Nat
  core : Nat
  slot : Nat
  since : Option Nat
deriving DecidableEq, Repr

/-- A queue register's stream (R188, R189, R268). -/
structure Stream where
  bound : Bool
  reg : Nat
  /-- address of the next word not yet delivered, or not yet taken -/
  addr : Word
  left : Nat
  stride : Word
  /-- words read ahead (q0, q1) -/
  ahead : List Word
  /-- what stopped the stream: cause, segmented address of the word, K frame, virtual address -/
  failed : Option (Cause × Word × Bool × Nat)
  /-- q3: words of the message in hand that are not yet delivered -/
  hand : List Word
  /-- q3: all eight words of the message in hand -/
  handAll : List Word
deriving DecidableEq, Repr

/-- Why a thread's instruction in progress has not finished. -/
inductive Waiting where
  /-- a default access at its bank, by identifier -/
  | access (id : Nat)
  /-- arrived at a barrier of this scope (R133) -/
  | bar (scope : Nat)
  /-- WAIT (R183) -/
  | park
  /-- holder of a joint-table entry (R155) -/
  | joined
  /-- an attached matrix command (R233) -/
  | matrix (id : Nat)
  /-- ACCZ, ACCRD or ACCWR at a locked tile, to issue again (R236) -/
  | tile (n : Nat)
  | tlbinv
  | reloc (id : Nat)
  /-- SEND, by message identifier (R187) -/
  | send (id : Nat)
  /-- a convoy on its way to another core; `refused` once the destination had no place (R152) -/
  | migrate (dest : Nat) (refused : Bool)
  /-- PARK STOP of a slot (R281) -/
  | stopping (slot : Nat)
  /-- a REMOTE tagged load withdrawn at its limit, or by a stop (R178, R267) -/
  | withdrawn (id : Nat) (stop : Bool)
  /-- SWEEP in memory mode: its address and control word, the words done, the words rewritten, and the stale words left
  (R315) -/
  | sweep (base ctl : Word) (k rewritten left : Nat)
deriving DecidableEq, Repr

/-- An instruction in progress: what it waits for, the address after it, the register it will write, and the registers
that it emptied at its issue with the values they held (R15, R19). -/
structure Pend where
  what : Waiting
  next : Word
  reg : Nat
  back : List (Nat × Word)
deriving DecidableEq, Repr

/-- A trap that a relaxed access leaves for its thread's next issue: MEMERR (R168), or CHASE or PAGE where a move has sent
the access on (R308, R309). -/
structure Late where
  cause : Cause
  kind : Nat
  tval : Word
  kframe : Bool
  va : Nat
deriving DecidableEq, Repr

/-- One thread (R9, R143, R268). -/
structure Thread where
  pc : Word
  regs : Vector (BitVec 32) 128
  full : BitVec 128
  f : BitVec 32
  lim : Nat
  fpst : BitVec 5
  wlim : Word
  tvec : Word
  upc : Word
  tcause : Word
  tpc : Word
  tval : Word
  qbase : Word
  qstride : Word
  ecost : Word
  wear : Word
  wearPart : Nat
  rank : Word
  npop : Word
  lid : Word
  asn : Nat
  timeLatch : Word
  m : BitVec 256
  md : BitVec 256
  convoy : Bool
  triggered : Bool
  segs : Vector (BitVec 128) 8
  envs : Vector (BitVec 128) 8
  streams : Vector Stream 4
  watches : List Nat
  wake : Bool
  kind : Kind
  role : Role
  status : Status
  stopped : Bool
  stopReq : Bool
  hold : Bool
  /-- a debug hold at this PC has been lifted (R366) -/
  lifted : Bool
  pend : Option Pend
  waitFrom : Option Nat
  /-- the first cycle of its core in which it may issue (R156) -/
  readyAt : Nat
  faultPage : Option Nat
  /-- the page on whose walk its next access has waited, and its place in the order of the waiters (R194) -/
  missAt : Option (Nat × Nat)
  /-- what it traps with at its next issue (R168, R309) -/
  late : Option Late
  killed : Bool
  /-- a migrated convoy whose instruction is a JOIN (R144) -/
  joinPending : Bool
  /-- a precise stop has been asked for (R366) -/
  holdReq : Bool
  /-- it was stopped by a trap MEMERR (R294) -/
  byError : Bool
  /-- the reference counter as its SPLIT or its migration was first held back (R152, R158) -/
  heldAt : Option Nat
deriving DecidableEq, Repr

/-- What a slot holds (R114, R293). -/
inductive Content where
  | vacant
  | thread (t : Thread)
  | exited (word : Word)
  | scrubbing
deriving DecidableEq, Repr

/-- A message (R173): its eight words, the slot it is held for on channel 1 or a SLOT channel, and for system channels the
access it concerns. -/
structure Msg where
  id : Nat
  srcCore : Nat
  srcSlot : Nat
  dst : Nat
  chan : Nat
  words : List Word
  held : Option Nat
  about : Option Nat
  /-- partly delivered through a q3 -/
  inHand : Bool
  /-- the cycle of its destination from which on it can arrive (R178, R320) -/
  after : Nat
deriving DecidableEq, Repr

/-- A slot, with the trap-notice place it owns (R255). -/
structure Slot where
  content : Content
  notice : Option Msg
deriving DecidableEq, Repr

/-- Who holds a joint-table entry (R154): a slot, or a queued convoy by its identifier. -/
inductive Holder where
  | slot (n : Nat)
  | queue (id : Nat)
deriving DecidableEq, Repr

/-- One joint-table entry (R154). -/
structure Joint where
  holder : Holder
  ia : BitVec 14
  expiry : BitVec 24
  node : Word
  lid : Word
  merged : Bool
deriving DecidableEq, Repr

/-- A convoy in an arrival queue (R151). -/
structure Queued where
  id : Nat
  th : Thread
  parked : Bool
deriving DecidableEq, Repr

/-- A convoy between cores: its two header flits and its five data flits, word by word (R144). -/
structure Transit where
  flits : List Word
deriving DecidableEq, Repr

inductive CopyKind where
  | cpy | cpy2 | gth | sct | coll
deriving DecidableEq, Repr

/-- An index of a GTH or SCT list as its operation's issue read it: a number, or the STATUS and the engine address with
which the operation will end there (R214, R216). -/
inductive Index where
  | at (n : Nat)
  | fails (status eng : Nat)
deriving DecidableEq, Repr

/-- A copy operation (R211, R213, R222). Addresses are engine addresses (R212). -/
structure CopyOp where
  id : Nat
  kind : CopyKind
  slot : Nat
  lid : Word
  rank : Word
  asn : Nat
  tag : Nat
  notify : Bool
  chan : Nat
  scope : Nat
  src : Nat
  dst : Nat
  bytes : Nat
  count : Nat
  sstride : Int
  dstride : Int
  idx : Nat
  index : List Index
  opw : Nat
  collId : Word
  /-- word numbers moved so far -/
  moved : List Nat
  /-- words written so far -/
  written : Nat
  /-- STATUS and failing engine address once it has met its end (R215) -/
  ended : Option (Nat × Nat)
  /-- its end is told to slot 0 on channel 1 (R216, R222) -/
  told : Bool
  /-- COLL: the combined words to write -/
  combined : Option (List Word)
  /-- its thread has left its slot -/
  gone : Bool
  /-- the 64-byte pieces of GLOBAL memory that it has touched, and whether to write them (R328) -/
  touched : List (Nat × Bool)
deriving DecidableEq, Repr

inductive MatKind where
  | wld | mma | cvtst
deriving DecidableEq, Repr

/-- A matrix command with what it captured at issue (R237, R243, R244, R246). -/
structure MatCmd where
  id : Nat
  kind : MatKind
  slot : Nat
  lid : Word
  asn : Nat
  detached : Bool
  tile : Nat
  pw : Word
  map : List (Nat × Nat)
  ctl : Word
  /-- the operand range: its segment's type and place of byte 0, or the GLOBAL virtual address -/
  base : Place
  va : Option Nat
  named : Word
  ta : Bool
  tb : Bool
  /-- A words that the engine has still to take from a stream, and those that it has -/
  need : Nat
  got : List Word
  /-- its thread has left its slot -/
  gone : Bool
deriving DecidableEq, Repr

/-- One value in a pair's load-value queue (R286): its address and size, the value, the queue register that it came
through with that queue's state after it, and the base register that a chase rewrote with it (R310). -/
structure LvEntry where
  addr : Nat
  size : Nat
  value : List Word
  stream : Option (Nat × Stream)
  rewrite : Option (Nat × Word)
deriving DecidableEq, Repr

/-- One store in a pair's comparator (R287): its words with their places, addresses and data, whether the trailing
thread's store has matched it, its address space, whether it goes through REMOTE, whether the store stream made it,
whether each word is a request of its own, and the base register that a chase rewrote with it. -/
structure CmpEntry where
  /-- the identifier of the access that will release it -/
  id : Nat
  parts : List Part
  matched : Bool
  asn : Nat
  remote : Bool
  stream : Bool
  each : Bool
  rewrite : Option (Nat × Word)
  /-- the virtual addresses that it was translated through beside those of its parts (R261) -/
  vas : List Nat
deriving DecidableEq, Repr

/-- A redundant pair, by its leading slot (R285 to R289). -/
structure Pair where
  s : Nat
  lvq : List LvEntry
  cmp : List CmpEntry
  /-- the commit area: both threads as they last agreed -/
  lead : Thread
  trail : Thread
  /-- how many entries of the queue each thread has taken; a replay starts again at 0 (R289) -/
  leadAt : Nat
  trailAt : Nat
  /-- instructions by which the leading thread is in front -/
  ahead : Nat
  /-- a mismatch has been met since the last commit point -/
  missed : Bool
  /-- the leading thread's next instruction needs more entries than a queue has left (log entry 15) -/
  full : Bool
deriving DecidableEq, Repr

/-- A thread or pair in the runtime's eviction store, with the reference counter at its eviction (R271). -/
structure Evictee where
  th : Thread
  pair : Bool
  since : Nat
  /-- the core to which its tiles move, and the jigs' requests for them (R271) -/
  tiles : Option (Nat × List Nat)
  /-- the control complex asked for it to be saved: the only core to which it returns, or a number that is no core's while
  it is kept (R271, R318) -/
  only : Option Nat
deriving DecidableEq, Repr

/-- A shared register with the writes that need not be seen yet (R117). -/
structure Shared where
  val : Word
  writes : List (Nat × Word)
  seen : Vector Nat 16
deriving DecidableEq, Repr

/-- One core. -/
structure Core where
  slots : Vector Slot 16
  cycle : Nat
  shared : Vector Shared 8
  hsegs : Word
  chan : Vector (BitVec 32) 64
  inbox : List Msg
  joint : List Joint
  arrivals : List Queued
  heldPlaces : Nat
  /-- convoys that were refused a place, in order (R152) -/
  refused : List Nat
  /-- the model's own: the cycle of the joint table's last lookup (R156) -/
  lookup : Option Nat
  tags : BitVec 64
  copyQ : List CopyOp
  copyRun : List CopyOp
  matQ : List MatCmd
  matRun : Option MatCmd
  matWait : List Nat
  matGrant : List Nat
  acc : List (Nat × BitVec 96)
  accStat : Vector (BitVec 8) 4
  accBad : List Nat
  amax : Vector (BitVec 32) 4
  pwShadow : Vector (BitVec 32) 4
  pwOver : Vector (Option (Word × Word)) 4
  dup : List (Nat × BitVec 10)
  pairs : List Pair
  /-- the installed runtime's eviction store, in eviction order, and the slot that it is evicting (R271) -/
  store : List Evictee
  evicting : Option Nat
  /-- slots whose threads the control complex has asked the runtime to save (R271) -/
  asked : BitVec 16
  /-- slots whose threads a drain or a checkpoint has stopped and will release (R303, R342) -/
  paused : List Nat
  vt : Nat
  halted : Bool
  breakpoints : List (Word × BitVec 16)
  nIssued : BitVec 64
  nIdled : BitVec 64
  nVacant : BitVec 64
  nMem : BitVec 64
  nMsg : BitVec 64
  rot : BitVec 64
  hist : Vector (BitVec 64) 17
  lastTrace : Option (BitVec 64)
  /-- the reference counter at the last sample (R364) -/
  sampled : BitVec 64
  /-- PC and F of the slot whose cycle a sample in hand records (R364) -/
  sampling : Option (Word × Word)
deriving DecidableEq, Repr

/-- One translation-buffer entry of a quad's port (R259). -/
structure TlbEnt where
  quad : Nat
  asn : Nat
  /-- virtual address bits 47:16 of the page's first byte -/
  page : Nat
  big : Bool
  leaf : BitVec 64
deriving DecidableEq, Repr

/-- One miss-table entry: a walk in progress (R259, R261). -/
structure Miss where
  quad : Nat
  asn : Nat
  page : Nat
  gen : BitVec 16
  waiters : List (Nat × Nat)
deriving DecidableEq, Repr

/-- Who asked for a shootdown (R261). -/
inductive ShootFor where
  | tlbinv (core slot : Nat)
  | jigMove (die : Nat)
  | jigFree (die : Nat)
deriving DecidableEq, Repr

/-- A shootdown: what it removes and the accesses that must perform first (R261, R280). -/
structure Shoot where
  owner : ShootFor
  scope : Nat
  asn : Nat
  page : Nat
  accs : List Nat
deriving DecidableEq, Repr

/-- A page request or the notice that follows it (R265, R266). -/
structure PageReq where
  core : Nat
  slot : Nat
  asn : Nat
  va : Nat
  tval : Word
  toZero : Bool
deriving DecidableEq, Repr

/-- Translation state (R257 to R263). -/
structure Xlate where
  tlb : List TlbEnt
  misses : List Miss
  gens : Vector (BitVec 16) 4
  shoots : List Shoot
  roots : List (Nat × Nat)
  /-- the kernel frame map, by 16 KiB of storage (R263) -/
  kmap : List Nat
  pageReqs : List PageReq
  pageNotes : List (PageReq × Nat)
deriving DecidableEq, Repr

/-- A RELOC request (R314). -/
structure JigReq where
  id : Nat
  core : Nat
  slot : Nat
  asn : Nat
  src : Nat
  dst : Nat
  free : Bool
  named : Word
deriving DecidableEq, Repr

/-- A move in progress: old and new tile by virtual and physical place, and whether it has committed (R307, R308). -/
structure JigMove where
  req : JigReq
  oldVa : Nat
  newVa : Nat
  oldAt : Place
  newAt : Place
  hops : Nat
  committed : Bool
deriving DecidableEq, Repr

/-- One die's jig (R305). -/
structure Jig where
  queue : List JigReq
  move : Option JigMove
deriving DecidableEq, Repr

/-- A launch record: the descriptor's 128 bytes as a number, and the service buffer it came with (R120, R340). -/
structure Rec where
  desc : Nat
  service : Option (Nat × Nat)
deriving DecidableEq, Repr

/-- What the check of a descriptor finds: a launch ready to place, or the error bits it completes with (R121). -/
inductive Checked where
  | good (segs : Vector (BitVec 128) 8) (shadows : Option (Vector (BitVec 32) 4))
  | bad (err : BitVec 4)
deriving DecidableEq, Repr

/-- One launch queue with its BAR0 block and its overflow ring (R122, R123, R352). -/
structure Queue where
  recs : List Rec
  ovBase : Nat
  ovSize : Nat
  ovHead : Nat
  ovCount : Nat
  /-- the service buffers of the records in the ring, in ring order (R340) -/
  ovService : List (Option (Nat × Nat))
  rbase : BitVec 64
  enable : Bool
  devq : Bool
  order : BitVec 4
  halt : Bool
  qfull : Bool
  capf : Bool
  head : BitVec 16
  tail : BitVec 16
  wbase : BitVec 64
  wlen : BitVec 64
  asn : BitVec 6
  ubase : BitVec 64
  ulen : BitVec 64
  /-- the producers of the head record that were queued or running as it reached the head and have not completed (R131) -/
  waits : List Nat
  /-- the descriptor of the ring record in hand, which waits for a place (R353, R354) -/
  hand : Option Nat
  /-- what the check of the head record found as it reached the head (R121) -/
  checked : Option Checked
deriving DecidableEq, Repr

/-- A thread or pair of a launch that has been placed and has not exited (R128, R133). -/
structure Member where
  rank : Nat
  core : Nat
  evicted : Bool
  triggered : Bool
deriving DecidableEq, Repr

/-- A launch that has started (R122 to R131, R157). -/
structure Launch where
  lid : Word
  queue : Nat
  desc : Nat
  asn : Nat
  service : Option (Nat × Nat)
  segs : Vector (BitVec 128) 8
  shadows : Option (Vector (BitVec 32) 4)
  next : Nat
  lastCore : Option Nat
  tree : List Nat
  noticed : List Nat
  sent : List Nat
  members : List Member
  errs : BitVec 4
  exit : Nat
  count : Nat
  convoys : Nat
  untriggered : Nat
  codeIn : List Nat
  localIn : List Nat
  /-- this launch used CVY (R157) -/
  conv : Bool
deriving DecidableEq, Repr

/-- The front end. -/
structure Front where
  queues : Vector Queue 64
  lastServed : Nat
  launches : List Launch
deriving DecidableEq, Repr

/-- The states of a physical core (R301). -/
inductive Health where
  | healthy | derated | drained | retired | spare
deriving DecidableEq, Repr

/-- One core entry of the lifetime record, or its live counterpart (R298). -/
structure CoreEntry where
  hours : Word
  bti : BitVec 16
  btil : BitVec 16
  em : BitVec 16
  tmax : BitVec 8
  tavg : BitVec 8
  wu : Word
  state : Health
  cls : BitVec 5
  cause : BitVec 8
  lcore : BitVec 16
  corr : Word
  uncorr : Word
deriving DecidableEq, Repr

/-- The live gauges and counts of a physical core (R295, R296, R301). -/
structure Live where
  entry : CoreEntry
  temp : Nat
  /-- the sum of this hour's readings, and their number, for TAVG -/
  tempSum : Nat
  tempCount : Nat
  /-- weighted cycles below one unit of 2^36 -/
  part : Nat
  gaugeFailed : Bool
  /-- powered ticks at the last uncorrectable error consumed -/
  lastErr : Option Nat
deriving DecidableEq, Repr

/-- One die summary (R299). -/
structure DieSum where
  retq : BitVec 8
  spares : BitVec 8
  replace : Bool
deriving DecidableEq, Repr

/-- One start-up log entry (R360). -/
structure StartEnt where
  start : Word
  step : BitVec 8
  result : BitVec 4
  variant : BitVec 4
  detail : BitVec 16
  ms : Word
deriving DecidableEq, Repr

/-- The lifetime record and what feeds it (R297 to R304, R360). -/
structure Life where
  record : List (Nat × CoreEntry)
  recordSums : Vector DieSum 4
  live : List (Nat × Live)
  sums : Vector DieSum 4
  serial : Word
  hoursMade : Word
  /-- the model's own: powered ticks before this power good -/
  before : Nat
  startLog : List StartEnt
  starts : Word
  quadMap : List (Nat × Nat)
  /-- physical quads being drained, with the spare each moves to -/
  draining : List (Nat × Option Nat)
  /-- logical quads whose cores have stopped being present -/
  gone : List Nat
deriving DecidableEq, Repr

/-- An error record (R355). -/
structure ErrRec where
  sev : BitVec 2
  kind : BitVec 6
  slot : BitVec 4
  core : BitVec 16
  count : Word
  addr : BitVec 64
  time : BitVec 64
  tag : Word
deriving DecidableEq, Repr

/-- One die's trace buffer registers (R364). -/
structure Trace where
  base : BitVec 64
  len : BitVec 64
  rd : BitVec 64
  wr : BitVec 64
  ctl : Word
  lost : Word
deriving DecidableEq, Repr

/-- The observation window (R363). -/
structure Obs where
  /-- a snapshot has been asked for -/
  pending : Bool
  /-- reads of the data that wait for it: offset and size -/
  reads : List (Nat × Nat)
  ready : Bool
  missing : Bool
  core : BitVec 16
  data : List (BitVec 64)
deriving DecidableEq, Repr

/-- One entry of the service table (R339). -/
structure Service where
  valid : Bool
  proto : BitVec 2
  uport : BitVec 16
  pattern : Word
  mask : Word
  queue : BitVec 6
  nbuf : BitVec 16
  pool : BitVec 64
  bufsz : Word
  drops : Word
  descva : BitVec 64
  crva : BitVec 64
  used : List Nat
deriving DecidableEq, Repr

/-- One entry of the pod barrier table (R335). -/
structure PodBar where
  lid : Word
  valid : Bool
  members : BitVec 1024
deriving DecidableEq, Repr

/-- What the package has sent to the host beside memory writes (R355 to R358). -/
inductive Sent where
  | msix (vector : Nat)
  | aer (kind : Nat) (fatal : Option Bool)
  | vendor (summaries : List Nat)
  /-- a report of this kind on the management controller's side-band port (R357, R358) -/
  | sideband (kind : Nat)
  /-- BISnp of a line that the host may hold (R336) -/
  | snoop (line : Nat)
deriving DecidableEq, Repr

/-- One replay-log entry (R367): the input that the firmware consumed. -/
inductive Logged where
  | frame (f : Frame)
  /-- a service-table launch: its queue, entry and buffer, and the record's descriptor -/
  | service (queue entry buffer desc : Nat)
  | doorbell (queue tail : Nat)
  /-- a completion of the targets to which a checkpoint is written -/
  | storage (done : Bool)
  /-- an interrupt: a page request of a core's slot, or none for a command to checkpoint, with how it ends -/
  | interrupt (request : Option (Nat × Nat)) (resume : Bool)
  /-- a read of the reference counter -/
  | counter (value : BitVec 64)
deriving DecidableEq, Repr

/-- An entry as it is stamped: the consuming control core and its retired-instruction count (R367). -/
structure Stamped where
  what : Logged
  core : Nat
  count : Nat
deriving DecidableEq, Repr

/-- What a checkpoint stages for one core: what R303 lists for a drain, and its threads as CTXSV saves them, in their slots,
with the convoys of its arrival queue, the runtime's store, and the slots that go on at its end (R342). -/
structure CoreImage where
  core : Nat
  shared : Vector Shared 8
  hsegs : Word
  chan : Vector (BitVec 32) 64
  inbox : List Msg
  tags : BitVec 64
  acc : List (Nat × BitVec 96)
  accStat : Vector (BitVec 8) 4
  amax : Vector (BitVec 32) 4
  pwShadow : Vector (BitVec 32) 4
  pwOver : Vector (Option (Word × Word)) 4
  dup : List (Nat × BitVec 10)
  slots : Vector Slot 16
  arrivals : List Queued
  store : List Evictee
  paused : List Nat
deriving DecidableEq, Repr

/-- The image that a checkpoint's targets hold: memory of every level with word tags, cores, launches (R342). -/
structure Image where
  mem : List (Nat × BitVec 8)
  empties : List Nat
  cores : List CoreImage
  front : Front
  /-- messages on their way -/
  net : List Msg
deriving DecidableEq, Repr

/-- An error record that a later event may still share: its ring, its place there and its number (R355, R356). -/
structure Recent where
  base : BitVec 64
  place : Nat
  num : Word
  record : ErrRec
deriving DecidableEq, Repr

/-- A checkpoint in progress: whether the package resumes at its end, whether its image has been staged, and the image
while it is being sent (R342, R343). -/
structure Checkpoint where
  resume : Bool
  staged : Bool
  image : Option Image
deriving DecidableEq, Repr

/-- What a register of a control core holds, or a 16-byte word of its memory: 128 bits and the tag of a capability (R349). -/
structure CapVal where
  bits : BitVec 128
  tag : Bool
deriving DecidableEq, Repr

/-- One control core: its PC and the capability through which it fetches, its registers, its retired-instruction count, the
PC at which it last trapped on a capability fault, the one of its last other exception, and the 16-byte word that its last
load-reserved holds (R348, R349, R367). -/
structure CtlCore where
  pc : BitVec 64
  pcc : CapVal
  regs : Vector CapVal 32
  retired : Nat
  fault : Option (BitVec 64)
  trapped : Option (BitVec 64)
  resv : Option Nat
deriving DecidableEq, Repr

/-- The control complex and the management controller (R348 to R369). -/
structure Control where
  fatal : Bool
  recovery : Bool
  dies : BitVec 4
  retry : Bool
  ebase : BitVec 64
  eenable : Bool
  eorder : BitVec 4
  ehead : BitVec 16
  etail : BitVec 16
  elost : Word
  enum : Word
  /-- the AER header log: the first 16 bytes of the error record (R356) -/
  header : List Word
  /-- the latest records, for coalescing within a millisecond (R356) -/
  recent : List Recent
  lastCorr : Option (BitVec 64)
  traces : Vector Trace 4
  obs : Obs
  services : List (Nat × Service)
  routes : List (Nat × Nat)
  podBars : List (Nat × PodBar)
  pkg : Nat
  pod : Nat
  sent : List Sent
  /-- the replay log, how many of its bytes lie in HBM, the inputs that a replay has still to take, and whether the next
  start replays the log (R367) -/
  replay : List Stamped
  logged : Nat
  toReplay : List Stamped
  replayNext : Bool
  inbound : List Frame
  /-- completions to the host, to peers and on the side band; none for an error or an Unsupported Request -/
  answers : List (Option (List Byte))
  /-- CXL has been negotiated; where the HDM window begins on the bus; the lines that the host may hold (R336, R352) -/
  cxl : Bool
  hdm : Option Nat
  snoop : List Nat
  /-- the control cores that run, the control cores, and their memory: its bytes, and the 16-byte words that are tagged
  (R348, R349) -/
  controls : BitVec 16
  ctl : Vector CtlCore 16
  ctlMem : List (Nat × BitVec 8)
  ctlTags : List Nat
  clock : Vector Nat 4
  eighths : Nat
  /-- the eighths that each die loses by its own heat (R369) -/
  heat : Vector Nat 4
  samples : List Nat
  overMs : Nat
  /-- the firmware images A and B, by the number of the update that wrote them, and the one that runs (R359, R361) -/
  images : Vector Nat 2
  image : Nat
  attested : Bool
  checkpoint : Option Checkpoint
  /-- the image that the targets of the last whole checkpoint hold -/
  saved : Option Image
  linksUp : BitVec 16
  portsUp : BitVec 8
  /-- the start-up steps that failed, with the times, until the error ring is enabled (R360) -/
  notices : List (Nat × BitVec 64)
deriving DecidableEq, Repr

/-- The whole package. -/
structure State where
  /-- bytes of every level, by flat address -/
  mem : List (Nat × BitVec 8)
  /-- words whose FULL tag is 0, by flat word number (R69) -/
  empties : List Nat
  /-- words that hold an uncorrectable error (R68) -/
  bads : List Nat
  cores : List (Nat × Core)
  flight : List Access
  resvs : List Resv
  /-- corrected errors counted by bank (R168) -/
  bankErrs : List (Nat × Nat)
  net : List Msg
  moving : List Transit
  xl : Xlate
  jigs : Vector Jig 4
  counters : Vector (Vector (BitVec 64) 12) 4
  front : Front
  life : Life
  cc : Control
  time : BitVec 64
  booted : Bool
  /-- the model's own: what acts next, whose turn it is, identifiers, free values, and whether this cycle issued -/
  agenda : List Choice
  turn : Nat
  serial : Nat
  free : Nat
  issued : Bool
deriving DecidableEq, Repr

/-! ### The state after reset -/

def Stream.off : Stream := ⟨false, 0, 0, 0, 0, [], none, [], []⟩

/-- A thread as R12 creates it, before its seeds: every register zero and full, F as the flag map gives. -/
def Thread.blank : Thread :=
  { pc := 0, regs := .replicate 128 0, full := .allOnes 128, f := 0xFFFF0001, lim := 8, fpst := 0, wlim := 0,
    tvec := 0, upc := 0, tcause := 0, tpc := 0, tval := 0, qbase := 0, qstride := 0, ecost := 0, wear := 0,
    wearPart := 0, rank := 0, npop := 0, lid := 0, asn := 0, timeLatch := 0, m := 0, md := 0, convoy := false,
    triggered := false, segs := .replicate 8 0, envs := .replicate 8 0, streams := .replicate 4 .off,
    watches := [], wake := false, kind := .launch, role := .alone, status := .ready, stopped := false,
    stopReq := false, hold := false, lifted := false, pend := none, waitFrom := none, readyAt := 0, faultPage := none,
    missAt := none, late := none, holdReq := false, killed := false, joinPending := false, byError := false, heldAt := none }

/-- The installed firmware's entries of channels 0 and 2: a handler's, with ENTRY and LIM of no effect (R171, R172; log entry
21). -/
def firmwareChans (booted : Bool) : Vector (BitVec 32) 64 :=
  if booted then ((Vector.replicate 64 (0 : BitVec 32)).set 0 0x00080000).set 2 0x00080000 else .replicate 64 0

/-- Slot 0's runtime as boot firmware installs it (R113, R359 step 8, R380; log entry 3). -/
def Thread.firmware : Thread := { Thread.blank with kind := .runtime, lim := 128, status := .waitMsg }

def Slot.empty : Slot := ⟨.vacant, none⟩

/-- A core after package reset; after start-up its slot 0 holds the runtime. -/
def Core.blank (booted : Bool) : Core :=
  { slots := (Vector.replicate 16 Slot.empty).set 0 (if booted then ⟨.thread .firmware, none⟩ else .empty)
    cycle := 0, shared := .replicate 8 ⟨0, [], .replicate 16 0⟩, hsegs := 0, chan := firmwareChans booted, inbox := [],
    joint := [], arrivals := [], heldPlaces := 0, refused := [], lookup := none, tags := .allOnes 64, copyQ := [], copyRun := [],
    matQ := [], matRun := none, matWait := [], matGrant := [], acc := [], accStat := .replicate 4 0, accBad := [],
    amax := .replicate 4 0, pwShadow := .replicate 4 0x00700700, pwOver := .replicate 4 none, dup := [],
    pairs := [], store := [], evicting := none, asked := 0, paused := [], vt := 4, halted := false, breakpoints := [], nIssued := 0, nIdled := 0, nVacant := 0, nMem := 0,
    nMsg := 0, rot := 0, hist := .replicate 17 0, lastTrace := none, sampled := 0
    sampling := none }

def Queue.blank : Queue :=
  ⟨[], 0, 0, 0, 0, [], 0, false, false, 0, false, false, false, 0, 0, 0, 0, 0, 0, 0, [], none, none⟩

def Life.fresh : Life :=
  ⟨[], .replicate 4 ⟨0, 64, false⟩, [], .replicate 4 ⟨0, 64, false⟩, 0, 0, 0, [], 0, [], [], []⟩

/-- A control core before it starts. -/
def CtlCore.blank : CtlCore := ⟨0, ⟨0, false⟩, .replicate 32 ⟨0, false⟩, 0, none, none, none⟩

def Control.blank : Control :=
  { fatal := false, recovery := false, dies := 0, retry := false, ebase := 0, eenable := false, eorder := 0,
    ehead := 0, etail := 0, elost := 0, enum := 0, header := [], recent := [],
    lastCorr := none,
    traces := .replicate 4 ⟨0, 0, 0, 0, 0, 0⟩, obs := ⟨false, [], false, false, 0, []⟩, services := [], routes := [],
    podBars := [], pkg := 0, pod := 0, sent := [], replay := [], logged := 0, toReplay := [], replayNext := false, inbound := [], answers := [], cxl := false,
    hdm := none, snoop := [], controls := 0, ctl := .replicate 16 .blank, ctlMem := [], ctlTags := [], clock := .replicate 4 940, eighths := 0, heat := .replicate 4 0, samples := [],
    overMs := 0, images := .replicate 2 0, image := 0, attested := false, checkpoint := none, saved := none,
    linksUp := 0, portsUp := 0, notices := [] }

/-- The package right after reset. Start-up (R359) is what happens first (log entry 11). -/
def State.reset : State :=
  { mem := [], empties := [], bads := [], cores := [], flight := [], resvs := [], bankErrs := [], net := [], moving := [],
    xl := ⟨[], [], .replicate 4 0, [], [], [], [], []⟩, jigs := .replicate 4 ⟨[], none⟩,
    counters := .replicate 4 (.replicate 12 0),
    front := ⟨.replicate 64 .blank, 63, []⟩, life := .fresh, cc := .blank, time := 0, booted := false,
    agenda := [.event (.startup .plain)], turn := 0, serial := 1, free := 0, issued := false }

end Sys2Proof.Machine
end

