-- ==== Sys2Proof/Machine/Ops.lean ====
section
/-! DEFINITION. The named operations over State: cores, slots, registers, memory bytes, wakes, records and reports,
taking an exception and returning from one, and one issue of a thread (R9 to R21, R67 to R70, R114, R177, R252 to R256,
R296, R355 to R357, R364). -/

namespace Sys2Proof.Machine

open Host (Outcome)

/-! ### Bits -/

/-- A bit vector with one bit set or cleared. -/
def putBit {w : Nat} (x : BitVec w) (i : Nat) (b : Bool) : BitVec w :=
  if b then x ||| BitVec.twoPow w i else x &&& ~~~ BitVec.twoPow w i

/-- Bits hi down to lo of a number (R21). -/
def nbits (x hi lo : Nat) : Nat := x / 2 ^ lo % 2 ^ (hi - lo + 1)

/-- The low 32 bits of an integer (R21). -/
def wordOf (x : Int) : Word := BitVec.ofInt 32 x

/-- Adds a number, saturating at all ones (R235, R296, R355). -/
def satAdd (x : Word) (n : Nat) : Word := if x.toNat + n < 2 ^ 32 then BitVec.ofNat 32 (x.toNat + n) else 0xFFFFFFFF

/-- The first `n` numbers for which a test holds, as a list. -/
def firsts (n : Nat) (p : Nat → Bool) : List Nat := (List.range n).filter p

/-! ### Cores, slots and threads -/

def getCore (s : State) (c : Nat) : Core := (smGet s.cores c).getD (Core.blank s.booted)
def setCore (s : State) (c : Nat) (k : Core) : State := { s with cores := smSet s.cores c k }
def modCore (s : State) (c : Nat) (f : Core → Core) : State := setCore s c (f (getCore s c))

def Core.slotAt (k : Core) (i : Nat) : Slot := (k.slots[i]?).getD Slot.empty
def Core.setSlot (k : Core) (i : Nat) (x : Slot) : Core := { k with slots := k.slots.setIfInBounds i x }
def getSlot (s : State) (c i : Nat) : Slot := (getCore s c).slotAt i
def setSlot (s : State) (c i : Nat) (x : Slot) : State := setCore s c ((getCore s c).setSlot i x)

def Slot.thread? (x : Slot) : Option Thread :=
  match x.content with
  | .thread t => some t
  | _ => none
def Slot.isVacant (x : Slot) : Bool :=
  match x.content with
  | .vacant => true
  | _ => false

def threadAt (s : State) (c i : Nat) : Option Thread := (getSlot s c i).thread?
def setContent (s : State) (c i : Nat) (x : Content) : State :=
  setSlot s c i { getSlot s c i with content := x }
def setThread (s : State) (c i : Nat) (t : Thread) : State := setContent s c i (.thread t)
/-- Changes the thread of a slot, if it holds one. -/
def modThread (s : State) (c i : Nat) (f : Thread → Thread) : State :=
  match threadAt s c i with
  | none => s
  | some t => setThread s c i (f t)

/-- The slot whose cycle it is on a core (R8). -/
def Core.turnSlot (k : Core) : Nat := k.cycle % 16
def curSlot (s : State) : Nat := (getCore s s.turn).turnSlot

/-- R118. -/
def quadOf (c : Nat) : Nat := c / 4
def dieOf (c : Nat) : Nat := c / Config.coresPerDie

/-- A logical core is present: its die is, and its quad's cores have not stopped being present (R303, R327). -/
def presentCore (s : State) (c : Nat) : Bool :=
  c < Config.cores && s.cc.dies.getLsbD (dieOf c) && !s.life.gone.contains (quadOf c)

/-! ### Registers and flags (R11, R13, R14, R21) -/

def rdReg (t : Thread) (n : Nat) : Word := if n = 0 then 0 else (t.regs[n]?).getD 0
def isFull (t : Thread) (n : Nat) : Bool := n = 0 || t.full.getLsbD n
/-- `wr` of R21. -/
def wrReg (t : Thread) (n : Nat) (v : Word) : Thread :=
  if n = 0 then t else { t with regs := t.regs.setIfInBounds n v, full := putBit t.full n true }
/-- A queue register's stream, and a change to it. -/
def streamOf (t : Thread) (q : Nat) : Stream := (t.streams[q]?).getD Stream.off
def setStream (t : Thread) (q : Nat) (v : Stream) : Thread := { t with streams := t.streams.setIfInBounds q v }

/-- Empties a register; g0 stays full (R11). -/
def emptyReg (t : Thread) (n : Nat) : Thread := if n = 0 then t else { t with full := putBit t.full n false }
def emptyRegs (t : Thread) (ns : List Nat) : Thread := ns.foldl emptyReg t
/-- Writes a list of words from a register upwards. -/
def wrRegs (t : Thread) : Nat → List Word → Thread
  | _, [] => t
  | n, v :: vs => wrRegs (wrReg t n v) (n + 1) vs
/-- The registers from `n` upwards, `k` of them. -/
def rdRegs (t : Thread) (n k : Nat) : List Word := (List.range k).map fun j => rdReg t (n + j)

def getFlag (t : Thread) (i : Nat) : Bool := t.f.getLsbD i
/-- A write to f0 is ignored (R13). -/
def setFlag (t : Thread) (i : Nat) (b : Bool) : Thread := if i = 0 then t else { t with f := putBit t.f i b }
/-- The whole flag word; f0 stays 1 (R13). -/
def setFlags (t : Thread) (v : Word) : Thread := { t with f := v ||| 1 }
/-- Lane `i` is enabled (R13, R91). -/
def laneOn (t : Thread) (i : Nat) : Bool := getFlag t (16 + i)
def inTrap (t : Thread) : Bool := t.tcause.getLsbD 31

/-! ### Memory bytes -/

/-- One flat address for every byte of storage, by region (log entry 2). -/
def flat : Place → Nat
  | .lstore c a => c * 2 ^ 16 + a
  | .qstore q a => 2 ^ 56 + q * 2 ^ 17 + a
  | .dstore d a => 2 * 2 ^ 56 + d * 2 ^ 27 + a
  | .cstore q a => 3 * 2 ^ 56 + q * 2 ^ 14 + a
  | .wstore c a => 4 * 2 ^ 56 + c * 2 ^ 14 + a
  | .hbm d a => 5 * 2 ^ 56 + d * 2 ^ 38 + a
  | .host a => 6 * 2 ^ 56 + a
  | .peer p d a => 7 * 2 ^ 56 + (p * 4 + d) * 2 ^ 38 + a
  | .frame d a => 8 * 2 ^ 56 + d * 2 ^ 16 + a

def Place.shift (p : Place) (n : Nat) : Place :=
  match p with
  | .lstore c a => .lstore c (a + n)
  | .qstore q a => .qstore q (a + n)
  | .dstore d a => .dstore d (a + n)
  | .cstore q a => .cstore q (a + n)
  | .wstore c a => .wstore c (a + n)
  | .hbm d a => .hbm d (a + n)
  | .host a => .host (a + n)
  | .peer p d a => .peer p d (a + n)
  | .frame d a => .frame d (a + n)

def wordKey (p : Place) : Nat := flat p / 4
def lineKey (p : Place) : Nat := flat p / 64

/-- Byte `a` of a die's register frame (R329): twelve counters, then zeros. -/
def frameByte (s : State) (d a : Nat) : Byte :=
  let k := ((s.counters[d]?).getD (.replicate 12 0))[a / 8]?.getD 0
  BitVec.ofNat 8 (k.toNat / 256 ^ (a % 8))

/-- One byte of storage as its bank holds it (R192). -/
def readByte (s : State) (p : Place) : Byte :=
  match p with
  | .frame d a => frameByte s d a
  | _ => memRead s.mem (flat p)

/-- The little-endian number of `n` bytes from a place (R6, R21). -/
def loadNat (s : State) : Place → Nat → Nat
  | _, 0 => 0
  | p, n + 1 => (readByte s p).toNat + 256 * loadNat s (p.shift 1) n

def loadWord (s : State) (p : Place) : Word := BitVec.ofNat 32 (loadNat s p 4)

/-- Writes `n` bytes of a number, little-endian; a register frame takes no store (R329). -/
def writeBytes (m : List (Nat × Byte)) : Nat → Nat → Nat → List (Nat × Byte)
  | _, 0, _ => m
  | a, n + 1, v => writeBytes (memWrite m a (BitVec.ofNat 8 v)) (a + 1) n (v / 256)

/-- The words that `n` bytes from a place touch. -/
def wordsOf (p : Place) (n : Nat) : List Nat :=
  (List.range ((flat p % 4 + n + 3) / 4)).map fun j => wordKey p + j

/-- R68: some word of the range holds an uncorrectable error. -/
def anyBad (s : State) (p : Place) (n : Nat) : Bool := !s.bads.isEmpty && (wordsOf p n).any s.bads.contains

/-- An access by the device to a line that the host may hold takes it back first (R336). -/
def backInvalidate (s : State) (p : Place) : State :=
  if s.cc.snoop.contains (lineKey p) then
    { s with cc := { s.cc with
        snoop := setDel s.cc.snoop (lineKey p), sent := s.cc.sent ++ [.snoop (lineKey p)] } }
  else s

/-- The same for every line of a range. -/
def takeBack (s : State) (p : Place) (n : Nat) : State :=
  if s.cc.snoop.isEmpty then s
  else (List.range ((flat p % 64 + n + 63) / 64)).foldl (fun s j => backInvalidate s (p.shift (64 * j))) s

/-- The same for every line: an access to all of memory. -/
def takeBackAll (s : State) : State :=
  { s with cc := { s.cc with snoop := [], sent := s.cc.sent ++ s.cc.snoop.map .snoop } }

/-! ### Wakes (R177, R183) -/

/-- The end of an instruction in progress: the thread goes on at the address after it. -/
def finish (t : Thread) : Thread :=
  match t.pend with
  | none => t
  | some p =>
    { t with
      pc := p.next, pend := none, status := .ready, waitFrom := none, lifted := false, heldAt := none
      faultPage := none, missAt := none }

/-- The registers that an instruction emptied have their values again. -/
def putBack (t : Thread) (vs : List (Nat × Word)) : Thread := vs.foldl (fun t v => wrReg t v.1 v.2) t

/-- An instruction in progress is given up with nothing changed; it will issue again from fetch (R19, R267). A register that
it emptied has the value that the instruction read, also where a relaxed load has come in there meanwhile (DESIGN CHOICE,
log entry 79). -/
def abandon (t : Thread) : Thread :=
  match t.pend with
  | none => { t with status := .ready, waitFrom := none, heldAt := none, missAt := none }
  | some p =>
    { putBack t p.back with pend := none, status := .ready, waitFrom := none, heldAt := none, missAt := none }

/-- A register that an instruction in progress has emptied and may have to have back: no stream or message fills it, and
no stream takes from it, before the instruction ends (R15, R19). -/
def heldBack (t : Thread) (n : Nat) : Bool := t.pend.any fun p => p.back.any fun v => v.1 = n

def wakeThread (t : Thread) : Thread :=
  match t.pend with
  | some ⟨.park, _, _, _⟩ => { finish t with wake := false }
  | _ => { t with wake := true }

def wakeSlot (line : Nat) (x : Slot) : Slot :=
  match x.content with
  | .thread t => if t.watches.contains line then { x with content := .thread (wakeThread t) } else x
  | _ => x

def wakeCore (s : State) (c line : Nat) : State :=
  match smGet s.cores c with
  | none => s
  | some k =>
    if k.slots.toList.any fun x => match x.content with | .thread t => t.watches.contains line | _ => false
    then setCore s c { k with slots := k.slots.map (wakeSlot line) } else s

/-- A store to an armed line wakes every slot that armed it. -/
def wakeLine (s : State) (p : Place) : State :=
  match p with
  | .lstore c _ => wakeCore s c (lineKey p)
  | .qstore q _ =>
    wakeCore (wakeCore (wakeCore (wakeCore s (4 * q) (lineKey p)) (4 * q + 1) (lineKey p)) (4 * q + 2) (lineKey p))
      (4 * q + 3) (lineKey p)
  | _ => s

/-- A store arrives at its bank: bytes written, a wholly written bad word cured (R68), watchers woken (R70). -/
def storeNat (s : State) (p : Place) (n v : Nat) : State :=
  match p with
  | .frame _ _ => s
  | _ =>
    wakeLine
      { s with
        mem := writeBytes s.mem (flat p) n v
        bads := if s.bads.isEmpty then s.bads else
          (wordsOf p n).foldl (fun b w => if flat p ≤ 4 * w && 4 * w + 4 ≤ flat p + n then setDel b w else b) s.bads }
      p

def storeWord (s : State) (p : Place) (v : Word) : State := storeNat s p 4 v.toNat

/-- FULL of a word (R69). -/
def isFullWord (s : State) (p : Place) : Bool := !s.empties.contains (wordKey p)
def setFullWord (s : State) (p : Place) (b : Bool) : State :=
  { s with empties := if b then setDel s.empties (wordKey p) else setAdd s.empties (wordKey p) }

/-- WATCH of a word: some slot that can arm its line has armed it (R69, R177). -/
def isWatched (s : State) (p : Place) : Bool :=
  let on (c : Nat) : Bool := (getCore s c).slots.toList.any fun x =>
    match x.content with | .thread t => t.watches.contains (lineKey p) | _ => false
  match p with
  | .lstore c _ => on c
  | .qstore q _ => (List.range 4).any fun k => on (4 * q + k)
  | _ => false

/-! ### Counters and physical cores -/

/-- Adds one to a request counter of a die (R329), by its index in the register frame. -/
def countReq (s : State) (d k : Nat) : State :=
  let row : Vector (BitVec 64) 12 := (s.counters[d]?).getD (.replicate 12 0)
  { s with counters := s.counters.setIfInBounds d (row.setIfInBounds k ((row[k]?).getD 0 + 1)) }

/-- Physical quads are numbered by die, 4,160 a die, spares last (R297; log entry 7). -/
def physQuad (s : State) (q : Nat) : Nat := (smGet s.life.quadMap q).getD (q / 4096 * 4160 + q % 4096)
def physCore (s : State) (c : Nat) : Nat := physQuad s (quadOf c) * 4 + c % 4

/-- The gauges of a physical core that nothing has touched yet: a new part (log entry 7). -/
def freshLive (pc : Nat) : Live :=
  let q := pc / 4
  let spare := q % 4160 ≥ 4096
  let logical := q / 4160 * 16384 + q % 4160 * 4 + pc % 4
  let entry : CoreEntry :=
    { hours := 0, bti := 0, btil := 0xFFFF, em := 0, tmax := 0, tavg := 0, wu := 0,
      state := if spare then .spare else .healthy, cls := 0, cause := 0,
      lcore := if spare then 0xFFFF else BitVec.ofNat 16 logical, corr := 0, uncorr := 0 }
  { entry := entry, temp := 0, tempSum := 0, tempCount := 0, part := 0, gaugeFailed := false, lastErr := none }

def liveOf (s : State) (pc : Nat) : Live := (smGet s.life.live pc).getD (freshLive pc)
def setLive (s : State) (pc : Nat) (l : Live) : State :=
  { s with life := { s.life with live := smSet s.life.live pc l } }
/-- The health of a logical core (R301). -/
def healthOf (s : State) (c : Nat) : Health := (liveOf s (physCore s c)).entry.state
def wearClass (s : State) (c : Nat) : Nat := (liveOf s (physCore s c)).entry.cls.toNat

/-- Weighted cycles accrue to the physical core where they are spent (R296, R298). -/
def accrue (s : State) (c n : Nat) : State :=
  let l := liveOf s (physCore s c)
  setLive s (physCore s c)
    { l with part := (l.part + n) % 2 ^ 36
             entry := { l.entry with wu := l.entry.wu + BitVec.ofNat 32 ((l.part + n) / 2 ^ 36) } }

/-- Weighted cycles charged to a thread; a wear unit is 2^20 of them (R296). -/
def chargeThread (t : Thread) (n : Nat) : Thread :=
  { t with wearPart := (t.wearPart + n) % 2 ^ 20, wear := satAdd t.wear ((t.wearPart + n) / 2 ^ 20) }

/-- The charge of one issue: VT weighted cycles to the thread, unless it is a pair's trailing thread, and to the
physical core (R286, R296). -/
def chargeIssue (s : State) (c i : Nat) : State :=
  let vt := (getCore s c).vt
  accrue (modThread { s with issued := true } c i fun t => if t.role = .trailing then t else chargeThread t vt) c vt

/-! ### Trace records (R364) and error records (R355 to R357) -/

def traceOf (s : State) (d : Nat) : Trace := (s.cc.traces[d]?).getD ⟨0, 0, 0, 0, 0, 0⟩
def setTrace (s : State) (d : Nat) (t : Trace) : State :=
  { s with cc := { s.cc with traces := s.cc.traces.setIfInBounds d t } }

/-- The bytes free in a trace circle; one record's place stays empty so that equal offsets mean none. -/
def traceSpace (t : Trace) : Nat :=
  if t.len.toNat < 64 then 0 else
    (t.rd.toNat + t.len.toNat - t.wr.toNat - 1) % t.len.toNat

/-- Writes 32 bytes at the write offset of a die's trace buffer, in the die's HBM (log entry 8). -/
def tracePut (s : State) (d : Nat) (v : Nat) : State :=
  let t := traceOf s d
  let p : Place := .hbm d (t.base.toNat + t.wr.toNat)
  setTrace (storeNat (takeBack s p 32) p 32 v) d
    { t with wr := BitVec.ofNat 64 ((t.wr.toNat + 32) % t.len.toNat) }

/-- The words of a record as one number. -/
def wordsNat : List Word → Nat
  | [] => 0
  | w :: ws => w.toNat + 2 ^ 32 * wordsNat ws

/-- Every core of a die writes an absolute record next (R364). -/
def forgetTimes (s : State) (d : Nat) : State :=
  { s with cores := s.cores.map fun e => if dieOf e.1 = d then (e.1, { e.2 with lastTrace := none }) else e }

/-- One trace record of a core: absolute when it is the core's first, after a clock change or after lost records,
else a delta; dropped and counted when the buffer is full. -/
def traceRecord (s : State) (ty c i : Nat) (pc : Word) (payload : List Word) : State :=
  let d := dieOf c
  let t := traceOf s d
  if t.ctl.getLsbD 31 && t.ctl.getLsbD ty then
    if traceSpace t < 32 || (t.lost != 0 && traceSpace t < 64) then
      forgetTimes (setTrace s d { t with lost := satAdd t.lost 1 }) d
    else
      let s1 :=
        if t.lost != 0 then
          setTrace (tracePut s d (wordsNat [BitVec.ofNat 32 (6 * 2 ^ 28 + 2 ^ 27 + c), 0,
            s.time.setWidth 32, s.time.extractLsb' 32 32, t.lost])) d
            { traceOf (tracePut s d (wordsNat [BitVec.ofNat 32 (6 * 2 ^ 28 + 2 ^ 27 + c), 0,
                s.time.setWidth 32, s.time.extractLsb' 32 32, t.lost])) d with lost := 0 }
        else s
      let last := (getCore s c).lastTrace
      let delta : Option Nat :=
        match last with
        | none => none
        | some l => if s.time.toNat - l.toNat < 2 ^ 32 then some (s.time.toNat - l.toNat) else none
      let stamp : List Word :=
        match delta with
        | none => [s.time.setWidth 32, s.time.extractLsb' 32 32]
        | some n => [BitVec.ofNat 32 n, 0]
      let w0 : Word := BitVec.ofNat 32 (ty * 2 ^ 28 + (if delta.isNone then 2 ^ 27 else 0) + i * 2 ^ 16 + c)
      modCore (tracePut s1 d (wordsNat ([w0, pc] ++ stamp ++ payload))) c
        fun k => { k with lastTrace := some s.time }
  else s

def errRecWords (r : ErrRec) (num : Word) : List Word :=
  [r.sev ++ r.kind ++ r.slot ++ 0#4 ++ r.core, r.count, r.addr.setWidth 32, r.addr.extractLsb' 32 32,
    r.time.setWidth 32, r.time.extractLsb' 32 32, r.tag, num]

def ringLen (order : BitVec 4) : Nat := 2 ^ (order.toNat + 4)

/-! ### The control complex's capabilities (R349) -/

/-- A capability of the firmware: its bounds, its permissions, and its tag. -/
structure Cap where
  base : Nat
  length : Nat
  perms : BitVec 8
  tag : Bool
deriving DecidableEq, Repr

/-- The 128-bit value of a capability, and the capability of a value. -/
def Cap.bits (c : Cap) : BitVec 128 := BitVec.ofNat 48 c.base ++ BitVec.ofNat 48 c.length ++ c.perms ++ 0#24
def Cap.val (c : Cap) : CapVal := ⟨c.bits, c.tag⟩
def CapVal.cap (v : CapVal) : Cap :=
  ⟨(v.bits.extractLsb' 80 48).toNat, (v.bits.extractLsb' 32 48).toNat, v.bits.extractLsb' 24 8, v.tag⟩

/-- What an access through a capability does. -/
inductive CapUse where
  | load | store | exec | loadCap | storeCap | both
deriving DecidableEq, Repr

/-- The permissions that it needs. -/
def CapUse.perms : CapUse → List Nat
  | .load => [7]
  | .store => [6]
  | .exec => [5]
  | .loadCap => [7, 4]
  | .storeCap => [6, 3]
  | .both => [7, 6]

/-- An access of `n` bytes at an address is no capability fault: the value is tagged and not sealed, and has the
permissions and the bounds (R349; that a sealed value allows no access is PRESUMED, log entry 80). -/
def Cap.allows (c : Cap) (u : CapUse) (a n : Nat) : Bool :=
  c.tag && !c.perms.getLsbD 2 && u.perms.all c.perms.getLsbD && c.base ≤ a && a + n ≤ c.base + c.length

/-- The capability to load from a range on the bus, and the one to store to it. -/
def hostCap (base length : Nat) : Cap := ⟨base, length, 0x80, true⟩
def storeCap (base length : Nat) : Cap := ⟨base, length, 0x40, true⟩

/-- A control core, and a change to it. -/
def ctlCore (s : State) (n : Nat) : CtlCore := (s.cc.ctl[n]?).getD .blank
def setCtl (s : State) (n : Nat) (k : CtlCore) : State :=
  { s with cc := { s.cc with ctl := s.cc.ctl.setIfInBounds n k } }

/-- The control core that serves what no rule gives to another: the lowest-numbered one that runs (log entry 78). -/
def ctlActor (s : State) : Nat := ((List.range 16).find? s.cc.controls.getLsbD).getD 0

/-- The bytes of words. -/
def wordsBytes (ws : List Word) : List Byte := ws.flatMap fun w => (List.range 4).map fun j => w.extractLsb' (8 * j) 8

/-- A number as words, and bytes as a little-endian number. -/
def toWords (v n : Nat) : List Word := (List.range n).map fun i => BitVec.ofNat 32 (v / 2 ^ (32 * i))
def bytesVal (bs : List Byte) : Nat := bs.foldr (fun b n => b.toNat + 256 * n) 0

/-- An entry of the replay log as bytes: its kind and data, four words each, the stamp, and the whole frame or record that was
taken (log entry 28). -/
def stampedBytes (e : Stamped) : List Byte :=
  let x : List Nat × List Byte := match e.what with
    | .frame f => ([0, f.port * 4 + f.ipv6.toNat * 2 + f.udp.toNat, f.dport, f.payload.length], f.payload)
    | .service q n b d => ([1, q, n, b], wordsBytes (toWords d 32))
    | .doorbell q t => ([2, q, t, 0], [])
    | .storage d => ([3, d.toNat, 0, 0], [])
    | .interrupt r b => ([4, (r.map (·.1)).getD 0xFFFF, (r.map (·.2)).getD 0, b.toNat], [])
    | .counter v => ([5, v.toNat, v.toNat / 2 ^ 32, 0], [])
  wordsBytes ((x.1 ++ [e.core, e.count, e.count / 2 ^ 32, x.2.length]).map (BitVec.ofNat 32)) ++ x.2

/-- The replay log's next byte in HBM, a circle of 1 GiB on the lowest die that is present (log entry 78). -/
def logPlace (s : State) : Place :=
  .hbm (((List.range 4).find? s.cc.dies.getLsbD).getD 0) (Config.replayArea % 2 ^ 24 * 4096 + s.cc.logged % 2 ^ 30)

/-- An entry goes into the log, and its bytes into HBM. -/
def logEntry (s : State) (e : Stamped) : State :=
  let n := (stampedBytes e).length
  let s1 := storeNat (takeBack s (logPlace s) n) (logPlace s) n (bytesVal (stampedBytes e))
  { s1 with cc := { s1.cc with replay := s1.cc.replay ++ [e], logged := s1.cc.logged + n } }

/-- Two inputs are of one kind. -/
def Logged.sameKind : Logged → Logged → Bool
  | .frame _, .frame _ | .service .., .service .. | .doorbell .., .doorbell .. | .storage _, .storage _ => true
  | .interrupt r _, .interrupt q _ => r = q
  | .counter _, .counter _ => true
  | _, _ => false

/-- The firmware takes an entry of the log that it replays, at the same count (R367). -/
def replayTake (s : State) (e : Stamped) : State :=
  logEntry (setCtl { s with cc := { s.cc with toReplay := s.cc.toReplay.drop 1 } } e.core
    { ctlCore s e.core with retired := e.count }) e

/-- The replay log takes an input (R367), which one control core consumes at a count that never falls: core 0 a launch of the
service table, and the acting one every other (log entry 78). In replay the input is the next one of the log. -/
def logInput (s : State) (x : Logged) : State :=
  match s.cc.toReplay.head?.filter fun e => e.what.sameKind x with
  | some e => replayTake s e
  | none =>
    let k := match x with | .service .. => 0 | _ => ctlActor s
    let n := (ctlCore s k).retired + Config.freeNat s.free
    logEntry { setCtl s k { ctlCore s k with retired := n } with free := s.free + 1 } ⟨x, k, n⟩

/-- The value that a read of the reference counter by the firmware gives: the counter's, or in replay the log's. -/
def counterValue (s : State) (v : BitVec 64) : BitVec 64 :=
  match s.cc.toReplay.head? with
  | some ⟨.counter w, _, _⟩ => w
  | _ => v

/-- The firmware stores the record through its capability to the error ring (R349). -/
def errCap (s : State) : Bool :=
  (storeCap s.cc.ebase.toNat (32 * ringLen s.cc.eorder)).allows .store (s.cc.ebase.toNat + 32 * (s.cc.etail.toNat % ringLen s.cc.eorder)) 32

/-- Writes one error record at ETAIL, NUM last, and signals MSI-X vector 0; a full or disabled ring counts in ELOST. The
record's TIME is a read of the reference counter by the firmware (R367). -/
def errWrite (s0 : State) (r : ErrRec) : State :=
  let nx := (s0.cc.etail.toNat + 1) % ringLen s0.cc.eorder
  if s0.cc.eenable && nx != s0.cc.ehead.toNat % ringLen s0.cc.eorder && errCap s0 then
    let s := logInput s0 (.counter r.time)
    let r1 := { r with time := counterValue s0 r.time }
    let s1 := storeNat s (.host (s.cc.ebase.toNat + 32 * s.cc.etail.toNat)) 32 (wordsNat (errRecWords r1 (s.cc.enum + 1)))
    { s1 with cc := { s1.cc with
        etail := BitVec.ofNat 16 nx, enum := s.cc.enum + 1, sent := s1.cc.sent ++ [.msix 0]
        recent := ⟨s.cc.ebase, s.cc.etail.toNat, s.cc.enum + 1, r⟩ ::
          s.cc.recent.filter fun e => s.time.toNat - e.record.time.toNat < 1000000 } }
  else { s0 with cc := { s0.cc with elost := satAdd s0.cc.elost 1 } }

/-- SEV and the PCIe class of each kind (R356): none, correctable, non-fatal, fatal. -/
def errSev (kind : Nat) : BitVec 2 :=
  if kind ≤ 3 then 0 else if kind ≤ 6 then 1 else if kind ≤ 13 then 3 else 2

/-- A message of the class goes to the host, with the record's first 16 bytes in the header log. -/
def sendAer (s : State) (kind : Nat) (fatal : Option Bool) (r : ErrRec) : State :=
  { s with cc := { s.cc with sent := s.cc.sent ++ [.aer kind fatal], header := (errRecWords r 0).take 4 } }

/-- The message of an event: at most one correctable one in a millisecond. -/
def errAer (s : State) (kind : Nat) (r : ErrRec) : State :=
  if kind ≤ 3 then
    if s.cc.lastCorr.any fun l => s.time.toNat - l.toNat < 1000000 then s
    else sendAer { s with cc := { s.cc with lastCorr := some s.time } } kind none r
  else if kind ≤ 6 then sendAer s kind (some false) r
  else if kind ≥ 16 then sendAer s kind (some true) r
  else s

/-- The error ring takes a record. -/
def errRoom (s : State) : Bool :=
  s.cc.eenable && (s.cc.etail.toNat + 1) % ringLen s.cc.eorder != s.cc.ehead.toNat % ringLen s.cc.eorder

/-- The record of an event. -/
def errRec (s : State) (kind : Nat) (slot core : Option Nat) (addr : Nat) (tag : Word) : ErrRec :=
  { sev := errSev kind, kind := BitVec.ofNat 6 kind, slot := BitVec.ofNat 4 (slot.getD 15),
    core := BitVec.ofNat 16 (core.getD 0xFFFF), count := 1, addr := BitVec.ofNat 64 addr, time := s.time, tag := tag }

/-- A record still stands in the error ring: no later ring or record has taken its place, and the host has not passed it. -/
def Recent.stands (e : Recent) (s : State) : Bool :=
  s.cc.eenable && e.base = s.cc.ebase &&
    (s.cc.enum - e.num).toNat <
      (s.cc.etail.toNat + ringLen s.cc.eorder - s.cc.ehead.toNat % ringLen s.cc.eorder) % ringLen s.cc.eorder

/-- Reports an event. Kinds 1 to 3 of one kind and core within a millisecond share one record, whose COUNT rises while the
record stands in the ring (R355, R356; log entry 12). -/
def errReport (s : State) (kind : Nat) (slot : Option Nat) (core : Option Nat) (addr : Nat) (tag : Word) : State :=
  let r := errRec s kind slot core addr tag
  let s := errAer s kind r
  if kind ≤ 3 then
    match s.cc.recent.find? fun e =>
        e.stands s && e.record.kind = r.kind && e.record.core = r.core && s.time.toNat - e.record.time.toNat < 1000000 with
    | some old =>
      let s1 := storeNat s (.host (old.base.toNat + 32 * old.place + 4)) 4 (old.record.count.toNat + 1)
      { s1 with cc := { s1.cc with recent := s1.cc.recent.map fun e =>
          if e.num = old.num then { e with record := { e.record with count := e.record.count + 1 } } else e } }
    | none => errWrite s r
  else errWrite s r

/-- A fatal error stops the package; one that the error ring cannot take is reported on the side band alone (R357). -/
def fatalStop (s : State) (kind : Nat) (slot core : Option Nat) : State :=
  let s1 := { s with cc := { s.cc with fatal := true } }
  if errRoom s then errReport s1 kind slot core 0 0
  else { errWrite s1 (errRec s kind slot core 0 0) with
    cc := { (errWrite s1 (errRec s kind slot core 0 0)).cc with sent := s.cc.sent ++ [.sideband kind] } }

/-- A corrected error counts in the core's lifetime entry and is reported (R168, R298, R356). -/
def corrected (s : State) (kind c : Nat) (slot : Option Nat) (addr : Nat) (tag : Word) : State :=
  let l := liveOf s (physCore s c)
  errReport (setLive s (physCore s c) { l with entry := { l.entry with corr := l.entry.corr + 1 } })
    kind slot (some c) addr tag

/-- Siblings of a logical core's quad that leave service with it (R301). -/
def drainQuad (s : State) (c cause : Nat) : State :=
  if healthOf s c = .healthy || healthOf s c = .derated then
    let q := physQuad s (quadOf c)
    let s1 := (List.range 4).foldl (fun s k =>
      let l := liveOf s (4 * q + k)
      setLive s (4 * q + k) { l with entry := { l.entry with
        state := .drained, cause := BitVec.ofNat 8 (if k = c % 4 then cause else 5) } }) s
    let spare := (firsts 4160 fun i => (liveOf s (4 * (dieOf c * 4160 + i))).entry.state = .spare &&
      !(s.life.draining.any fun d => d.2 = some (dieOf c * 4160 + i)))
    { s1 with life := { s1.life with draining := s1.life.draining ++ [(q, spare.head?)] } }
  else s

/-- Reference ticks of powered time since manufacture (log entry 7). -/
def poweredTicks (s : State) : Nat := s.life.before + s.time.toNat

/-- An uncorrectable error consumed on a core: counted, and two within 24 hours drain its quad (R298, R301). -/
def consumed (s : State) (c : Nat) : State :=
  let l := liveOf s (physCore s c)
  let twice := l.lastErr.any fun h => poweredTicks s ≤ h + 24 * 3600 * 1000000000
  let s1 := setLive s (physCore s c)
    { l with entry := { l.entry with uncorr := l.entry.uncorr + 1 }, lastErr := some (poweredTicks s) }
  if twice then drainQuad s1 c 2 else s1

/-! ### Taking an exception (R252 to R255) -/

def Cause.code : Cause → Nat
  | .illegal => 0x01 | .priv => 0x02 | .segv => 0x03 | .align => 0x04 | .page => 0x05 | .waitlim => 0x06
  | .reglim => 0x08 | .chase => 0x09 | .brk => 0x0B | .sys => 0x0C | .trap => 0x0D | .engine => 0x0E
  | .memerr => 0x0F | .mismatch => 0x10 | .queue => 0x11 | .convoy => 0x12

/-- A trap as an instruction raises it: cause, KIND of R379, value, return address, and whether a PAGE is on a K frame
(R263) and its virtual address. -/
structure TrapInfo where
  cause : Cause
  kind : Nat
  tval : Word
  ret : Word
  kframe : Bool
  va : Nat
deriving DecidableEq, Repr

/-- KIND is kept for SEGV, ALIGN and PAGE, and is 0 otherwise (R253). -/
def TrapInfo.kindField (x : TrapInfo) : Nat :=
  match x.cause with
  | .segv | .align | .page => x.kind
  | _ => 0

/-- Bits 15:0 of TCAUSE (R253). -/
def TrapInfo.low (x : TrapInfo) (slot : Nat) : Word :=
  BitVec.ofNat 32 (x.kindField * 2 ^ 12 + slot * 2 ^ 8 + x.cause.code)

/-- The vector of a vectored cause; a PAGE on a K frame has none (R252, R263). -/
def vectorOf (t : Thread) (x : TrapInfo) : Word :=
  match x.cause with
  | .page => if x.kframe then 0 else t.upc
  | .waitlim | .brk | .trap => t.tvec
  | _ => 0

/-- R252: a vectored cause with a vector, outside slot 15, with INTRAP clear. -/
def goesToVector (t : Thread) (slot : Nat) (x : TrapInfo) : Bool :=
  vectorOf t x != 0 && !inTrap t && slot != 15

/-- TPC, TCAUSE and TVAL as delivery writes them (R254). -/
def saveTrap (t : Thread) (slot : Nat) (x : TrapInfo) (intrap : Bool) : Thread :=
  { t with tpc := x.ret, tval := x.tval, tcause := putBit (x.low slot) 31 intrap }

/-- A vectored trap: INTRAP set, PC at the vector (R254). -/
def enterVector (t : Thread) (slot : Nat) (x : TrapInfo) (vec : Word) : Thread :=
  { saveTrap t slot x true with
    pc := vec, pend := none, status := .ready, waitFrom := none, lifted := false, heldAt := none, faultPage := none
    missAt := none }

/-- A trap to slot 0 stops the thread at the return address; a double trap keeps the trap registers (R254). -/
def stopForTrap (t : Thread) (slot : Nat) (x : TrapInfo) : Thread :=
  { (if inTrap t then t else saveTrap t slot x false) with
    pc := x.ret, pend := none, status := .ready, waitFrom := none, lifted := false, heldAt := none, faultPage := none
    missAt := none, stopped := true, byError := x.cause = .memerr }

/-- The trap notice (R255). -/
def trapNotice (c slot : Nat) (t : Thread) (x : TrapInfo) : Msg :=
  { id := 0, srcCore := c, srcSlot := slot, dst := c, chan := 1
    words := [BitVec.ofNat 32 (2 ^ 20 + slot * 2 ^ 16 + c),
      BitVec.ofNat 32 (2 * 2 ^ 24 + (if inTrap t then 2 ^ 16 else 0)) ||| x.low slot, x.ret, x.tval, t.lid, 0, 0, 0]
    held := some 0, about := none, inHand := false, after := 0 }

/-- A page request, or for a K frame the notice with STATUS 1 that follows at once (R263, R265). -/
def askPage (s : State) (c i : Nat) (t : Thread) (x : TrapInfo) (toZero : Bool) : State :=
  match x.cause with
  | .page =>
    let r : PageReq := ⟨c, i, t.asn, x.va / 2 ^ 16 * 2 ^ 16, x.tval, toZero⟩
    if x.kframe then { s with xl := { s.xl with pageNotes := s.xl.pageNotes ++ [({ r with toZero := true }, 1)] } }
    else { s with xl := { s.xl with pageReqs := s.xl.pageReqs ++ [r] } }
  | _ => s

/-! ### The matrix engine's queue (R233) -/

/-- ECOST of the thread in a slot; a thread that is gone counts 0. -/
def Core.ecostOf (k : Core) (i : Nat) : Nat := ((k.slotAt i).thread?.map fun t => t.ecost.toNat).getD 0

/-- The slot of least ECOST, the lowest number among equals. -/
def leastCost (k : Core) : List Nat → Option Nat
  | [] => none
  | i :: is =>
    match leastCost k is with
    | none => some i
    | some j => if k.ecostOf j < k.ecostOf i || (k.ecostOf j = k.ecostOf i && j < i) then some j else some i

/-- Entries that are neither taken nor granted. -/
def matFree (k : Core) : Nat := 2 - (k.matQ.length + k.matGrant.length)

/-- A free entry is granted to the waiting slot of least ECOST; two at most. -/
def matRegrant : Nat → Core → Core
  | 0, k => k
  | n + 1, k =>
    if matFree k = 0 then k
    else
      match leastCost k k.matWait with
      | none => k
      | some i =>
        matRegrant n { k with matWait := k.matWait.filter fun j => j != i, matGrant := k.matGrant ++ [i] }

/-- A slot no longer waits for an entry. -/
def matForget (i : Nat) (k : Core) : Core :=
  if k.matWait.isEmpty && k.matGrant.isEmpty then k
  else
    matRegrant 2
      { k with matWait := k.matWait.filter fun j => j != i, matGrant := k.matGrant.filter fun j => j != i }

/-- A parked WAIT of a slot ends as a message for its q3 arrives (R183). -/
def wakeParked (s : State) (c i : Nat) : State :=
  modThread s c i fun t =>
    match t.pend with
    | some ⟨.park, _, _, _⟩ => finish t
    | _ => t

/-- TAKING AN EXCEPTION. `t` is the thread as it was before the trapping instruction (R19, R254). -/
def takeTrap (s : State) (c i : Nat) (t : Thread) (x : TrapInfo) : State :=
  let s := modCore s c (matForget i)
  if i = 0 then
    if inTrap t then
      fatalStop (modCore (setThread s c i t) c fun k => { k with halted := true }) 16 (some 0) (some c)
    else askPage (setThread s c i (enterVector t i x t.tvec)) c i t x false
  else if goesToVector t i x then askPage (setThread s c i (enterVector t i x (vectorOf t x))) c i t x false
  else
    askPage
      (traceRecord
        (wakeParked
          (setSlot (setThread s c i (stopForTrap t i x)) c i
            { getSlot (setThread s c i (stopForTrap t i x)) c i with notice := some (trapNotice c i t x) }) c 0)
        4 c i x.ret [(stopForTrap t i x).tcause, x.tval])
      c i t x true

/-- RETURNING FROM AN EXCEPTION: ERET (R275). -/
def returnTrap (t : Thread) : Thread := { t with pc := t.tpc, tcause := putBit t.tcause 31 false }

/-- RESUME's return: INTRAP cleared, PC and flags from the resume frame (R276). -/
def resumeTrap (t : Thread) (pc flags : Word) : Thread :=
  setFlags { t with pc := pc, tcause := putBit t.tcause 31 false } flags

/-! ### Pairs (R285 to R292): what the other thread is -/

/-- What a pair's two threads must agree in at a commit point (R288). -/
def agree (a b : Thread) : Bool :=
  a.regs = b.regs && a.full = b.full && a.f = b.f && a.fpst = b.fpst && a.pc = b.pc

/-- The trailing thread as the leading one leaves it after a once-only operation (R290): the same state, its own role. -/
def mirror (lead trail : Thread) : Thread :=
  { lead with role := .trailing, stopped := trail.stopped, stopReq := trail.stopReq, hold := trail.hold
              holdReq := trail.holdReq }

def pairOf (s : State) (c i : Nat) : Option Pair :=
  (getCore s c).pairs.find? fun p => p.s = i || p.s + 7 = i
def setPair (s : State) (c : Nat) (p : Pair) : State :=
  modCore s c fun k => { k with pairs := k.pairs.map fun q => if q.s = p.s then p else q }

/-- The leading thread has no REMOTE load under way, and every store that the pair has released has performed (R288). -/
def released (s : State) (c i : Nat) : Bool :=
  !(s.flight.any fun f => f.core = c && f.slot = i && (f.via = .commit || f.via = .lead))

/-- The trailing thread can take a stream's or a message's word that the leading one has had. -/
def trailFills (p : Pair) (v : Thread) : Bool :=
  match p.lvq[p.trailAt]? with
  | some e => match e.stream with
    | some (q, _) =>
      (streamOf v q).bound && !isFull v (streamOf v q).reg
    | none => false
  | none => false

/-- The first store of the comparator that the trailing thread has still to match. -/
def Pair.unmatched (p : Pair) : Option CmpEntry := p.cmp.find? fun e => !e.matched

/-- The trailing thread's store stream can take the value that the leading one's has taken. -/
def trailTakes (p : Pair) (v : Thread) : Bool :=
  match p.unmatched with
  | some e =>
    e.stream && (streamOf v 2).bound && isFull v (streamOf v 2).reg
  | none => false

/-- Both threads stand at one boundary, and nothing of the pair is under way (R288). -/
def pairRest (s : State) (c : Nat) (p : Pair) : Bool :=
  p.ahead = 0 && released s c p.s &&
    match threadAt s c (p.s + 7) with
    | some v => !trailFills p v && !trailTakes p v
    | none => false

/-- Nothing differs between the two threads, their values and their stores (R286 to R288). -/
def pairAgrees (a b : Thread) (p : Pair) : Bool := agree a b && p.cmp.all (·.matched) && p.leadAt = p.trailAt

/-- What a trap makes of a thread that takes it in slot `i`. -/
def trapThread (i : Nat) (x : TrapInfo) (t : Thread) : Thread :=
  if goesToVector t i x then enterVector t i x (vectorOf t x) else stopForTrap t i x

/-- Changes both threads of a pair, and the commit area with them. -/
def onBoth (s : State) (c i : Nat) (f : Thread → Thread) : State :=
  match pairOf s c i with
  | none => modThread s c i f
  | some p =>
    setPair (modThread (modThread s c p.s f) c (p.s + 7) f) c { p with lead := f p.lead, trail := f p.trail }

/-- A thread of the commit area takes the place of a pair's thread; what holds and stops the slot stays. ECOST and WEAR return
to the values there (DESIGN CHOICE, log entry 81). -/
def rollBack (old cur : Thread) : Thread :=
  { old with
    stopReq := cur.stopReq, stopped := cur.stopped, hold := cur.hold, holdReq := cur.holdReq, killed := cur.killed }

/-- A difference (R289): both threads return to the commit area and replay, with the comparator empty; a second one
before the next commit point stops the pair and raises MISMATCH with the address at which it was found. -/
def mismatch (s : State) (c : Nat) (p : Pair) (ia : Word) : State :=
  match threadAt s c p.s, threadAt s c (p.s + 7) with
  | some a, some b =>
    let s0 := { s with flight := s.flight.filter fun f =>
      !(f.core = c && f.slot = p.s && (f.via = .lead || f.via = .queue 0 || f.via = .queue 1)) }
    let s1 := setPair (setThread (setThread s0 c p.s (rollBack p.lead a)) c (p.s + 7) (rollBack p.trail b)) c
      { p with cmp := [], leadAt := 0, trailAt := 0, ahead := 0, missed := true, full := false }
    if p.missed then
      let x : TrapInfo := ⟨.mismatch, 0, ia, p.lead.pc, false, 0⟩
      takeTrap (onBoth s1 c p.s (trapThread p.s x)) c p.s (rollBack p.lead a) x
    else s1
  | _, _ => s

/-- A store of a comparator as the access that releases it. -/
def commitAccess (c i : Nat) (e : CmpEntry) : Access :=
  { id := e.id, core := c, slot := i, kind := .store, parts := e.parts, group := none, passed := [], stage := .going,
    seq := 0, data2 := 0, named := (e.parts.head?.map (·.named)).getD 0, asn := e.asn, rewrite := none, result := [],
    okay := true, remote := e.remote, via := .commit, each := e.each, left := none
    trail := [], vas := e.vas }

/-- The released stores of a comparator are in flight in program order, as default stores that nothing overtakes
(R288). -/
def releaseStores (c i : Nat) : State → List CmpEntry → State
  | s, [] => s
  | s, e :: es =>
    releaseStores c i { s with flight := s.flight ++ [commitAccess c i e] } es

/-- A commit point of a pair whose two threads stand at one boundary (R288); a difference is a mismatch. The committed state is
kept in `Pair.lead` and `Pair.trail`, and no byte of the commit area's kilobyte of local store is written (DESIGN CHOICE, log
entry 81). -/
def commitPoint (s : State) (c : Nat) (p : Pair) : State :=
  match threadAt s c p.s, threadAt s c (p.s + 7) with
  | some a, some b =>
    if pairAgrees a b p then
      let s1 := if p.missed then corrected s 3 c (some p.s) 0 a.lid else s
      let b' := { b with
        ecost := a.ecost, wear := a.wear, wearPart := a.wearPart, timeLatch := a.timeLatch, streams := a.streams }
      setPair (setThread (releaseStores c p.s s1 p.cmp) c (p.s + 7) b') c
        { p with lvq := [], cmp := [], lead := a, trail := b', leadAt := 0, trailAt := 0, ahead := 0, missed := false
                 full := false }
    else mismatch s c p a.pc
  | _, _ => s

/-- A thread takes its status as not ready (R114, R21). -/
def notReady (s : State) (c i : Nat) (st : Status) : State := modThread s c i fun t => { t with status := st }

/-- What a pair does instead of what both its threads have come to: it waits until they stand at one boundary, meets a
difference, or, where a commit point comes first, releases its stores; none when nothing is left to do (R288). -/
def pairWaits (s : State) (c i : Nat) (commit : Bool) : Option State :=
  match pairOf s c i with
  | none => some s
  | some p =>
    match threadAt s c p.s, threadAt s c (p.s + 7) with
    | some a, some b =>
      if !pairRest s c p then some (notReady s c i .waitMem)
      else if !pairAgrees a b p then some (mismatch s c p a.pc)
      else if commit && !p.cmp.isEmpty then some (notReady (commitPoint s c p) c i .waitMem)
      else none
    | _, _ => some s

/-- Some thread of a population stands in a slot of a core. -/
def residentOf (k : Core) (lid : Word) : Bool :=
  k.slots.toList.any fun x => match x.content with | .thread t => t.lid = lid | _ => false

/-- An override is dropped when no thread of its population remains on the core (R228). -/
def dropOverrides (k : Core) : Core :=
  { k with pwOver := k.pwOver.map fun o =>
      match o with
      | some (lid, v) => if residentOf k lid then some (lid, v) else none
      | none => none }

/-- The trailing thread takes over what the leading one has become, and the commit area with it (R290); where the leading
one has left, so does it. -/
def mirrorPair (s : State) (c i : Nat) : State :=
  match threadAt s c i with
  | none =>
    modCore (setContent s c (i + 7) .vacant) c
      fun k => dropOverrides { k with pairs := k.pairs.filter fun p => p.s != i }
  | some a =>
    match a.role, pairOf s c i with
    | .leading, some p =>
      let s1 := modThread s c (i + 7) (mirror a)
      setPair s1 c { p with lead := a, trail := (threadAt s1 c (i + 7)).getD p.trail }
    | _, _ => s

/-- Changes a thread when an event ends what it waits for; in a pair both threads take the values (R290). -/
def modPend (s : State) (c i : Nat) (f : Thread → Thread) : State :=
  match threadAt s c i with
  | none => s
  | some t => if t.role = .leading then onBoth s c i f else setThread s c i (f t)

/-- A trap that ends an instruction in progress; `t` is the thread as it was before the instruction. In a pair both
threads take it (R292). -/
def trapPend (s : State) (c i : Nat) (t : Thread) (x : TrapInfo) : State :=
  if t.role = .leading then takeTrap (onBoth s c i fun u => trapThread i x (abandon u)) c i t x
  else takeTrap s c i t x

/-- What an event does to the thread of a slot. A pair takes it once both threads stand at one boundary and agree, after
a commit point, and the trailing thread takes every value (R288, R292). -/
def onThread (s : State) (c i : Nat) (f : State → State) : State :=
  match threadAt s c i with
  | none => s
  | some t =>
    match t.role with
    | .alone => f s
    | .trailing => s
    | .leading =>
      match pairWaits s c i true, pairOf s c i with
      | some s', _ => s'
      | none, some p => mirrorPair (f (commitPoint s c p)) c i
      | none, none => s

/-- A pair's thread may issue: the leading one while its stores have performed and its queues have room, and for a
once-only operation or a trap once the trailing one stands at the same boundary; the trailing one while it is behind
(R286 to R290). -/
def pairReady (s : State) (c i : Nat) (t : Thread) (once : Bool) : Bool :=
  match t.role with
  | .alone => true
  | .leading =>
    match pairOf s c i with
    | none => true
    | some p =>
      if once then pairRest s c p
      else released s c i && !p.full && p.cmp.length < 32 && (p.leadAt < p.lvq.length || p.lvq.length < 64)
  | .trailing =>
    match pairOf s c i with
    | none => true
    | some p => p.ahead > 0

/-- One instruction of a pair's thread is behind it. -/
def pairStep (s : State) (c i : Nat) (r : Role) : State :=
  match r with
  | .alone => s
  | .leading => match pairOf s c i with | none => s | some p => setPair s c { p with ahead := p.ahead + 1 }
  | .trailing => match pairOf s c i with | none => s | some p => setPair s c { p with ahead := p.ahead - 1 }

/-! ### One issue of a thread (R19, R33) -/

/-- What an issue needs to know of an instruction: its guard, length in words, whether only slot 0 may run it, the
registers it names, waits for, empties and writes, and whether a pair performs it once only (R290). -/
structure Use where
  guard : BitVec 5
  words : Nat
  priv : Bool
  names : List Nat
  srcs : List Nat
  sync : List Nat
  dsts : List Nat
  once : Bool
  /-- of the lanes among its destinations it writes those that are enabled (R91) -/
  byLane : Bool
deriving DecidableEq, Repr

/-- The registers that an issue writes: of a vector written lane by lane the enabled lanes (R91). -/
def Use.writes (u : Use) (t : Thread) : List Nat :=
  if u.byLane then u.dsts.filter fun n => laneOn t (n % 16) else u.dsts

/-- Where an instruction issues: core, slot, address of its first word, address after it. -/
structure Ctx where
  core : Nat
  slot : Nat
  ia : Word
  next : Word
deriving DecidableEq, Repr

/-- How the operation of an instruction ends. -/
inductive Res where
  /-- done: the PC moves past the instruction -/
  | ok (s : State)
  /-- done: the PC is at a target -/
  | jump (s : State) (pc : Word)
  /-- a trap, with nothing changed -/
  | trap (cause : Cause) (kind : Nat) (tval : Word)
  /-- a trap that says more: its return address, or a PAGE's page -/
  | trapX (x : TrapInfo) (s : State → State)
  /-- not ready: nothing changed in the thread, and the instruction issues again; what changes elsewhere is `f` -/
  | wait (st : Status) (f : State → State)
  /-- issued and in progress -/
  | hold (s : State) (w : Waiting) (st : Status) (reg : Nat)
  /-- done, and the thread has left its slot or its PC is already set -/
  | left (s : State)

/-- A wait for a register: the slot is not ready on memory, and WLIM does not count it (R16, R178). -/
def regWait (s : State) (c i : Nat) : State :=
  modThread s c i fun t => { t with status := .waitMem, waitFrom := none }

/-- A wait that WLIM bounds counts from its first cycle (R178). -/
def countWait (s : State) (c i : Nat) : State :=
  modThread s c i fun t => { t with waitFrom := some (t.waitFrom.getD (getCore s c).cycle) }

/-- The end of an instruction that goes on to the next address (R19). -/
def advance (s : State) (c i : Nat) (pc : Word) : State :=
  modThread s c i fun t =>
    { t with
      pc := pc, status := .ready, waitFrom := none, lifted := false, heldAt := none, faultPage := none
      missAt := none }

/-- R189, R379: the trap of an instruction that would consume from, or write to, a register whose stream has stopped on
a word. KIND is that of the word: a store of q2, else a load. -/
def streamTrap (t : Thread) (ns : List Nat) : Option TrapInfo :=
  (List.range 4).findSome? fun q =>
    let v := streamOf t q
    if v.bound && ns.contains v.reg then
      v.failed.map fun f => ⟨f.1, if q = 2 then 2 else 1, f.2.1, t.pc, f.2.2.1, f.2.2.2⟩
    else none
/-- The trap that a stopped stream raises uses the stop up: the stream tries its word again (R265; log entry 16). -/
def clearFailed (ns : List Nat) (t : Thread) : Thread :=
  { t with streams := t.streams.map fun q => if ns.contains q.reg then { q with failed := none } else q }
/-- R189: a register bound to q2 is written only once it is empty. -/
def storeBusy (t : Thread) (ns : List Nat) : Bool :=
  (streamOf t 2).bound && ns.contains (streamOf t 2).reg &&
    isFull t (streamOf t 2).reg
/-- R244: the engine has not yet taken its words from the stream bound to the register. -/
def streamBusy (k : Core) (i : Nat) (t : Thread) (ns : List Nat) : Bool :=
  (k.matQ ++ k.matRun.toList).any fun m => m.slot = i && m.need > 0 && !m.gone &&
    ([0, 1] : List Nat).any fun q => m.ctl.extractLsb' 30 2 = BitVec.ofNat 2 (q + 1) &&
      (streamOf t q).bound && ns.contains (streamOf t q).reg

/-- A trap of the issuing thread. In a pair it waits until both threads have reached it and both take it; one that stops
the pair has a commit point before it (R288, R292). A trap of the trailing thread alone is a mismatch. -/
def issueTrap (s : State) (c i : Nat) (t : Thread) (x : TrapInfo) : State :=
  match t.role with
  | .alone => takeTrap (chargeIssue s c i) c i ((threadAt (chargeIssue s c i) c i).getD t) x
  | .trailing => match pairOf s c i with | none => s | some p => mismatch s c p t.pc
  | .leading =>
    match pairWaits s c i (!goesToVector t i x), pairOf s c i with
    | some s', _ => s'
    | none, none => s
    | none, some p =>
      let s1 := chargeIssue (chargeIssue (if goesToVector t i x then s else commitPoint s c p) c i) c (i + 7)
      let s2 := modThread s1 c (i + 7) (trapThread i x)
      if goesToVector t i x then takeTrap s2 c i ((threadAt s1 c i).getD t) x
      else mirrorPair (takeTrap s2 c i ((threadAt s1 c i).getD t) x) c i

/-- What an operation's answer makes of the state. `s` is the state before the issue, `t` its thread, and `sync` the
registers that the issue emptied. What a trap does elsewhere, it does once a pair's threads both take it. -/
def settle (s : State) (x : Ctx) (t : Thread) (sync : List Nat) (r : Res) : State :=
  match r with
  | .ok s' => advance (pairStep s' x.core x.slot t.role) x.core x.slot x.next
  | .jump s' pc => advance (pairStep s' x.core x.slot t.role) x.core x.slot pc
  | .trap c k v => issueTrap s x.core x.slot t ⟨c, k, v, x.ia, false, 0⟩
  | .trapX y f =>
    match if t.role = .leading then pairWaits s x.core x.slot (!goesToVector t x.slot y) else none with
    | some s' => s'
    | none => issueTrap (f s) x.core x.slot t y
  | .wait st f => notReady (f s) x.core x.slot st
  | .hold s' w st reg =>
    modThread s' x.core x.slot fun u =>
      { u with pend := some ⟨w, x.next, reg, sync.map fun n => (n, rdReg t n)⟩, status := st
               waitFrom := some (getCore s x.core).cycle }
  | .left s' => s'

/-- The operation in its place: registers full, synchronised sources emptied, one charge (R15, R19, R296). -/
def operate (u : Use) (op : Ctx → Thread → State → Res) (s : State) (c i : Nat) (t : Thread) : State :=
  let s1 := modThread (chargeIssue s c i) c i fun t => emptyRegs t u.sync
  settle s ⟨c, i, t.pc, t.pc + BitVec.ofNat 32 (2 * u.words)⟩ t u.sync
    (op ⟨c, i, t.pc, t.pc + BitVec.ofNat 32 (2 * u.words)⟩ ((threadAt s1 c i).getD t) s1)

/-- A once-only operation of a pair (R290): both threads stand at it and agree, a commit point is taken, the leading
thread performs, and the trailing thread takes every value, with a second commit point. -/
def operatePair (u : Use) (op : Ctx → Thread → State → Res) (s : State) (c i : Nat) (t : Thread) : State :=
  match pairWaits s c i true, pairOf s c i with
  | some s', _ => s'
  | none, none => s
  | none, some p =>
    let s1 := commitPoint s c p
    let t1 := { (threadAt s1 c i).getD t with role := .alone }
    mirrorPair (modThread (operate u op (setThread s1 c i t1) c i t1) c i fun t => { t with role := .leading }) c i

/-- An instruction that finds only as it runs which more registers it writes: a stream bound to one of them counts as for
any register that it writes (R189, R244). -/
def moreDsts (x : Ctx) (t : Thread) (s : State) (rs : List Nat) (r : Res) : Res :=
  match streamTrap { t with pc := x.ia } rs with
  | some y => .trapX y fun s => modThread s x.core x.slot (clearFailed rs)
  | none => if streamBusy (getCore s x.core) x.slot t rs || storeBusy t rs then .wait .waitMem id else r

/-- Writes a register that an instruction finds only as it runs. -/
def writeOne (x : Ctx) (t : Thread) (s : State) (r : Nat) (v : Word) : Res :=
  moreDsts x t s [r] (.ok (setThread s x.core x.slot (wrReg t r v)))

/-- The trap that a relaxed access has left. -/
def lateTrap (t : Thread) : TrapInfo :=
  match t.late with
  | some l => ⟨l.cause, l.kind, l.tval, t.pc, l.kframe, l.va⟩
  | none => ⟨.memerr, 0, 0, t.pc, false, 0⟩

/-- One issue: guard, privilege, register count, the wait for full sources, the operation (R19, R33). The trap that a relaxed
access has left comes before the guard, so that an instruction whose guard flag is 0 takes it too (DESIGN CHOICE, log entry
81). -/
def issue (u : Use) (op : Ctx → Thread → State → Res) (s : State) : Outcome State Fault Refusal :=
  let c := s.turn
  let i := curSlot s
  match threadAt s c i with
  | none => .fault .noThread
  | some t =>
    let next := t.pc + BitVec.ofNat 32 (2 * u.words)
    .next <|
      if !pairReady s c i t u.once then notReady s c i .waitMem
      else if t.late.isSome && t.role = .leading && (pairWaits s c i true).isSome then (pairWaits s c i true).getD s
      else if t.late.isSome then
        issueTrap (modThread s c i fun t => { t with late := none }) c i { t with late := none }
          (lateTrap t)
      else if u.guard.toNat != 0 && !getFlag t u.guard.toNat then
        advance (pairStep (chargeIssue s c i) c i t.role) c i next
      else if u.priv && i != 0 then issueTrap s c i t ⟨.priv, 0, 0, t.pc, false, 0⟩
      else if u.names.any fun n => t.lim ≤ n then issueTrap s c i t ⟨.reglim, 0, 0, t.pc, false, 0⟩
      else if (streamTrap t (u.sync ++ u.writes t)).isSome && t.role = .leading && (pairWaits s c i true).isSome then
        (pairWaits s c i true).getD s
      else if (streamTrap t (u.sync ++ u.writes t)).isSome then
        match streamTrap t (u.sync ++ u.writes t) with
        | some x =>
          issueTrap (modThread s c i (clearFailed (u.sync ++ u.writes t))) c i (clearFailed (u.sync ++ u.writes t) t) x
        | none => s
      else if streamBusy (getCore s c) i t (u.srcs ++ u.writes t) then notReady s c i .waitMem
      else if !(u.srcs.all fun n => isFull t n) then regWait s c i
      else if storeBusy t (u.writes t) then notReady s c i .waitMem
      else if u.once && t.role = .trailing then
        match pairOf s c i with
        | none => s
        | some p => mismatch s c p t.pc
      else if u.once && t.role = .leading then operatePair u op s c i t
      else operate u op s c i t

end Sys2Proof.Machine
end

