-- ==== Sys2Proof/Machine/NumFmt.lean ====
section
/-! DEFINITION. Number formats and the rounding rule (R75 to R86), and FP32 arithmetic (R80, R104, R105). -/

namespace Sys2Proof.Machine

/-- An exact value: a NaN, an infinity, or a signed fraction; zero keeps its sign. -/
inductive Num where
  | nan
  | inf (neg : Bool)
  | fin (neg : Bool) (num den : Nat)
deriving DecidableEq, Repr

/-- The formats of R77 and R82. -/
inductive Fmt where
  | e4m3 | e5m2 | e2m1 | bf16 | fp32 | log6
deriving DecidableEq, Repr

/-! ### FPST flags (R81) -/

def fNone : BitVec 5 := 0
def fNV : BitVec 5 := 1
def fDZ : BitVec 5 := 2
def fOF : BitVec 5 := 4
def fUF : BitVec 5 := 8
def fNX : BitVec 5 := 16

/-! ### Fields of the formats (R77) -/

def Fmt.width : Fmt → Nat
  | .e4m3 => 8 | .e5m2 => 8 | .e2m1 => 4 | .bf16 => 16 | .fp32 => 32 | .log6 => 6
def Fmt.bias : Fmt → Nat
  | .e4m3 => 7 | .e5m2 => 15 | .e2m1 => 1 | .bf16 => 127 | .fp32 => 127 | .log6 => 0
/-- Mantissa bits p. -/
def Fmt.mant : Fmt → Nat
  | .e4m3 => 3 | .e5m2 => 2 | .e2m1 => 1 | .bf16 => 7 | .fp32 => 23 | .log6 => 0
/-- The code of the largest finite value, without its sign. -/
def Fmt.maxCode : Fmt → Nat
  | .e4m3 => 0x7E | .e5m2 => 0x7B | .e2m1 => 0x7 | .bf16 => 0x7F7F | .fp32 => 0x7F7FFFFF | .log6 => 0x1F
/-- The code of +infinity, where there is one. -/
def Fmt.infCode : Fmt → Option Nat
  | .e5m2 => some 0x7C | .bf16 => some 0x7F80 | .fp32 => some 0x7F800000 | _ => none
/-- The canonical NaN, where there is one (R78). -/
def Fmt.nanCode : Fmt → Option Nat
  | .e4m3 => some 0x7F | .e5m2 => some 0x7E | .bf16 => some 0x7FC0 | .fp32 => some 0x7FC00000 | _ => none
/-- The sign bit's weight. -/
def Fmt.signBit (f : Fmt) : Nat := 2 ^ (f.width - 1)

/-- `m * 2 ^ e` as a signed fraction. -/
def dyadic (neg : Bool) (m : Nat) (e : Int) : Num :=
  if 0 ≤ e then .fin neg (m * 2 ^ e.toNat) 1 else .fin neg m (2 ^ (-e).toNat)

/-- A LOG6 magnitude has value 2^((m - 16)/4), which is no fraction; here it stands as its quarter exponent (R82). -/
structure Log6 where
  neg : Bool
  m : Nat
deriving DecidableEq, Repr

def log6Code (c : Nat) : Log6 := ⟨c / 32 % 2 = 1, c % 32⟩

/-- The value of a code of a floating format (R77). LOG6 codes are read by `log6Code`. -/
def Fmt.value (f : Fmt) (c : Nat) : Num :=
  let neg : Bool := c / f.signBit % 2 = 1
  let a := c % f.signBit
  match f.infCode with
  | some i => if a = i then .inf neg else if a > i then .nan else fin neg a
  | none => if f.nanCode.any fun n => a ≥ n then .nan else fin neg a
where
  fin (neg : Bool) (a : Nat) : Num :=
    let e := a / 2 ^ f.mant
    let m := a % 2 ^ f.mant
    if e = 0 then dyadic neg m (1 - (f.bias : Int) - f.mant)
    else dyadic neg (2 ^ f.mant + m) ((e : Int) - f.bias - f.mant)

/-! ### The rounding rule (R79) -/

/-- The integer nearest `n / d`, ties to even. -/
def nearestEven (n d : Nat) : Nat :=
  if 2 * (n % d) < d then n / d
  else if 2 * (n % d) > d then n / d + 1
  else if n / d % 2 = 0 then n / d else n / d + 1

/-- The floor of the base-2 logarithm of a positive fraction. -/
def floorLog2 (n d : Nat) : Int :=
  let g : Int := (Nat.log2 n : Int) - Nat.log2 d
  if 0 ≤ g then (if d * 2 ^ g.toNat ≤ n then g else g - 1)
  else (if d ≤ n * 2 ^ (-g).toNat then g else g - 1)

/-- `n / d * 2 ^ e` as a fraction. -/
def scaleFrac (n d : Nat) (e : Int) : Nat × Nat := if 0 ≤ e then (n * 2 ^ e.toNat, d) else (n, d * 2 ^ (-e).toNat)

def Num.scale (x : Num) (e : Int) : Num :=
  match x with
  | .fin neg n d => .fin neg (scaleFrac n d e).1 (scaleFrac n d e).2
  | y => y

/-- The largest-magnitude code with a sign. -/
def signed (f : Fmt) (neg : Bool) (c : Nat) : Nat := if neg then f.signBit + c else c

/-- Rounds a nonzero fraction to a floating format: the code and the flags. -/
def roundFloat (f : Fmt) (neg : Bool) (n d : Nat) : Nat × BitVec 5 :=
  let q0 : Int := 1 - (f.bias : Int) - f.mant
  let q := max (floorLog2 n d - f.mant) q0
  let s := scaleFrac n d (-q)
  let y := nearestEven s.1 s.2
  let exact : Bool := s.1 % s.2 = 0
  let code := (q - q0).toNat * 2 ^ f.mant + y
  if code > f.maxCode then (signed f neg (f.infCode.getD f.maxCode), fOF ||| fNX)
  else
    (signed f neg code,
      (if exact then fNone else fNX) ||| (if !exact && code < 2 ^ f.mant then fUF else fNone))

/-- R83. The integer nearest 4 log2 |x| + 16 is at least k exactly when x^8 ≥ 2^(2k - 33). -/
def roundLog6 (neg : Bool) (n d : Nat) : Nat × BitVec 5 :=
  let m := ((List.range 32).filter fun (k : Nat) =>
    (scaleFrac (d ^ 8) 1 (2 * ((k : Int) + 1) - 33)).1 ≤
      n ^ 8 * (scaleFrac (d ^ 8) 1 (2 * ((k : Int) + 1) - 33)).2).length
  if m = 0 then (signed .log6 neg 0, fUF ||| fNX)
  else if m = 32 then (signed .log6 neg 31, fOF ||| fNX)
  else
    let s := scaleFrac (d ^ 4) 1 ((m : Int) - 16)
    (signed .log6 neg m, if s.1 = n ^ 4 * s.2 then fNone else fNX)

/-- `convert(x, T)` of R79 for the formats of `Fmt`. -/
def convert (x : Num) (f : Fmt) : Nat × BitVec 5 :=
  match x with
  | .nan => match f.nanCode with | some c => (c, fNone) | none => (0, fNV)
  | .inf neg => match f.infCode with | some c => (signed f neg c, fNone) | none => (signed f neg f.maxCode, fOF)
  | .fin neg n d =>
    if n = 0 then (signed f neg 0, fNone)
    else match f with
      | .log6 => roundLog6 neg n d
      | _ => roundFloat f neg n d

/-- The integer branch of R79, with the end of its range for what lies outside. -/
def convertInt (x : Num) (lo hi : Int) : Int × BitVec 5 :=
  match x with
  | .nan => (0, fNV)
  | .inf neg => (if neg then lo else hi, fNV)
  | .fin neg n d =>
    let y : Int := if neg then -(nearestEven n d : Int) else nearestEven n d
    if y < lo then (lo, fNV) else if y > hi then (hi, fNV)
    else (y, if n % d = 0 then fNone else fNX)

/-! ### FP32 arithmetic (R80, R104, R105) -/

def fp (w : Word) : Num := Fmt.fp32.value w.toNat
/-- The canonical NaN of FP32. -/
def fpNaN : Word := 0x7FC00000
def isNaN (w : Word) : Bool := match fp w with | .nan => true | _ => false

/-- A result with its flags. -/
abbrev FpOut := Word × BitVec 5

def toFp (x : Num) : FpOut := (BitVec.ofNat 32 (convert x .fp32).1, (convert x .fp32).2)

/-- The exact sum of two fractions. -/
def sumFrac (na : Bool) (a b : Nat) (nc : Bool) (c d : Nat) : Num :=
  let x : Int := (if na then -(a * d : Int) else (a * d : Int)) + (if nc then -(c * b : Int) else (c * b : Int))
  if x = 0 then .fin (na && nc) 0 1 else .fin (x < 0) x.natAbs (b * d)

/-- A sum of values; none is an invalid one. -/
def addNum (x y : Num) : Option Num :=
  match x, y with
  | .nan, _ => some .nan
  | _, .nan => some .nan
  | .inf a, .inf b => if a = b then some (.inf a) else none
  | .inf a, _ => some (.inf a)
  | _, .inf b => some (.inf b)
  | .fin na a b, .fin nc c d => some (sumFrac na a b nc c d)

/-- A product of values; none is zero by infinity. -/
def mulNum (x y : Num) : Option Num :=
  match x, y with
  | .nan, _ => some .nan
  | _, .nan => some .nan
  | .inf a, .inf b => some (.inf (a != b))
  | .inf a, .fin b n _ => if n = 0 then none else some (.inf (a != b))
  | .fin b n _, .inf a => if n = 0 then none else some (.inf (a != b))
  | .fin na a b, .fin nc c d => some (.fin (na != nc) (a * c) (b * d))

def invalid : FpOut := (fpNaN, fNV)
def outOf (x : Option Num) : FpOut := match x with | none => invalid | some y => toFp y

def negNum : Num → Num
  | .nan => .nan
  | .inf a => .inf !a
  | .fin a n d => .fin (!a) n d

def fadd (b c : Word) : FpOut := outOf (addNum (fp b) (fp c))
def fsub (b c : Word) : FpOut := outOf (addNum (fp b) (negNum (fp c)))
def fmul (b c : Word) : FpOut := outOf (mulNum (fp b) (fp c))
def ffma (a b c : Word) : FpOut :=
  match mulNum (fp b) (fp c) with
  | none => invalid
  | some m => outOf (addNum m (fp a))

/-- A magnitude by its code: bits 30:0. -/
def magOf (w : Word) : Nat := w.toNat % 2 ^ 31
def signOf (w : Word) : Bool := w.getLsbD 31

def fabs (b : Word) : FpOut := (if isNaN b then fpNaN else b &&& 0x7FFFFFFF, fNone)

def frcp (b : Word) : FpOut :=
  match fp b with
  | .nan => toFp .nan
  | .inf a => toFp (.fin a 0 1)
  | .fin a n d => if n = 0 then ((toFp (.inf a)).1, fDZ) else toFp (.fin a d n)

/-- The integer square root, rounded down, by one bit of the answer after another. -/
def isqrtBits : Nat → Nat → Nat → Nat
  | 0, _, r => r
  | k + 1, n, r => if (r + 2 ^ k) * (r + 2 ^ k) ≤ n then isqrtBits k n (r + 2 ^ k) else isqrtBits k n r
def isqrt (n : Nat) : Nat := isqrtBits (Nat.log2 n / 2 + 1) n 0

/-- 1 / sqrt(n / d) as a fraction that rounds as the exact value does: its floor in units of 2^-256, and half a unit
more where it is not exact. -/
def rsqFrac (n d : Nat) : Nat × Nat :=
  let x := d * 2 ^ 512 / n
  let r := isqrt x
  (2 * r + (if r * r = x && d * 2 ^ 512 % n = 0 then 0 else 1), 2 ^ 257)

def frsq (b : Word) : FpOut :=
  match fp b with
  | .nan => toFp .nan
  | .inf a => if a then invalid else toFp (.fin false 0 1)
  | .fin a n d =>
    if n = 0 then ((toFp (.inf a)).1, fDZ) else if a then invalid
    else toFp (.fin false (rsqFrac n d).1 (rsqFrac n d).2)

/-- FP32 order by value. -/
def ltNum (x y : Num) : Bool :=
  match x, y with
  | .nan, _ => false
  | _, .nan => false
  | .inf a, .inf b => a && !b
  | .inf a, _ => a
  | _, .inf b => !b
  | .fin na a b, .fin nc c d =>
    decide ((if na then -(a * d : Int) else (a * d : Int)) < (if nc then -(c * b : Int) else (c * b : Int)))
def eqNum (x y : Num) : Bool :=
  match x, y with
  | .nan, _ => false
  | _, .nan => false
  | .inf a, .inf b => a = b
  | .fin na a b, .fin nc c d =>
    decide ((if na then -(a * d : Int) else (a * d : Int)) = (if nc then -(c * b : Int) else (c * b : Int)))
  | _, _ => false

def flt (b c : Word) : Bool := ltNum (fp b) (fp c)
def feq (b c : Word) : Bool := eqNum (fp b) (fp c)
/-- The order of VFMIN and VFMAX, in which -0 is smaller than +0 (R104). -/
def fltZ (b c : Word) : Bool := flt b c || (feq b c && signOf b && !signOf c)

def fmin (b c : Word) : FpOut :=
  (if isNaN b then (if isNaN c then fpNaN else c) else if isNaN c then b else if fltZ c b then c else b, fNone)
def fmax (b c : Word) : FpOut :=
  (if isNaN b then (if isNaN c then fpNaN else c) else if isNaN c then b else if fltZ b c then c else b, fNone)

/-- LOG6 to FP32: the value 2^((m - 16 + k')/4) rounds as its floor in units of 2^-64 with a half unit where it is not
exact (R82, R110). `k` is the scale exponent. -/
def log6Value (l : Log6) (k : Int) : Num :=
  if l.m = 0 then .fin l.neg 0 1
  else
    let r := isqrt (isqrt (2 ^ (l.m % 4) * 2 ^ 256))
    (Num.fin l.neg (2 * r + (if l.m % 4 = 0 then 0 else 1)) (2 ^ 65)).scale (((l.m : Int) / 4 - 4) + k)

/-- T[j] of R84, in units of 2^-32. -/
def log6T (j : Nat) : Nat :=
  match j with
  | 0 => 0x100000000 | 1 => 0x1306FE0A3 | 2 => 0x16A09E668 | _ => 0x1AE89F996

/-! ### Element form (R75) -/

/-- Code i of a bit stream held in words, for a width that divides 32. -/
def codeAt (ws : List Word) (width i : Nat) : Nat :=
  nbits ((ws[i * width / 32]?).getD 0).toNat (i * width % 32 + width - 1) (i * width % 32)

/-- Words that hold the codes one after another. -/
def packCodes (width : Nat) : Nat → List Nat → Nat
  | _, [] => 0
  | i, c :: cs => c * 2 ^ (i * width) + packCodes width (i + 1) cs

end Sys2Proof.Machine
end

