-- ==== Sys2Proof/Machine/Memory.lean ====
section
/-! DEFINITION. Memory: segments and resolution (R63 to R66, R147 to R149, R166, R167), translation and moved-to marks
(R257 to R263, R309, R324 to R328), and what an access does at its bank (R168, R169, R176, R179, R180, R185, R192 to
R195, R307). -/

namespace Sys2Proof.Machine

/-! ### Segment descriptors (R64, R65, R147, R166) -/

def segLimit (d : Desc) : Nat := (d.extractLsb' 99 29).toNat
def segType (d : Desc) : Nat := (d.extractLsb' 96 3).toNat
def segR (d : Desc) : Bool := d.getLsbD 95
def segW (d : Desc) : Bool := d.getLsbD 94
def segX (d : Desc) : Bool := d.getLsbD 93
def segA (d : Desc) : Bool := d.getLsbD 92
def segT (d : Desc) : Bool := d.getLsbD 91
def segM (d : Desc) : Bool := d.getLsbD 90
def segTarg (d : Desc) : Nat := (d.extractLsb' 64 16).toNat
def segBase (d : Desc) : Nat := (d.extractLsb' 0 48).toNat
/-- The rights field, bits 95:90: R, W, X, A, T, M. -/
def segRights (d : Desc) : BitVec 6 := d.extractLsb' 90 6

/-- The rights a type honours; the others are always clear. -/
def honoured (ty : Nat) : BitVec 6 :=
  match ty with
  | 1 => 0b101000   -- CODE: R, X
  | 2 => 0b110111   -- LOCAL: R, W, A, T, M
  | 3 => 0b110111   -- QUAD
  | 4 => 0b110101   -- DIE: R, W, A, M
  | 5 => 0b110101   -- GLOBAL
  | 6 => 0b110110   -- SPREAD: R, W, A, T
  | 7 => 0b110110   -- REMOTE
  | _ => 0

/-- A descriptor from its fields. -/
def mkSeg (ty base limit : Nat) (rights : BitVec 6) (targ : Nat) : Desc :=
  BitVec.ofNat 29 limit ++ BitVec.ofNat 3 ty ++ rights ++ 0#10 ++ BitVec.ofNat 16 targ ++ 0#16 ++ BitVec.ofNat 48 base

/-- SPREAD's fields (R147). -/
def spreadCount (d : Desc) : Nat := nbits (segBase d) 47 32 + 1
def spreadFirst (d : Desc) : Nat := nbits (segBase d) 31 16
def spreadLocal (d : Desc) : Nat := nbits (segBase d) 15 0
def spreadLg (d : Desc) : Nat := segTarg d % 8 + 6

/-- The ranges of R65, R147 and R166. Reserved bits are no part of a descriptor (R7). -/
def segValid (d : Desc) : Bool :=
  match segType d with
  | 0 => segBase d = 0 && segTarg d = 0
  | 1 => segTarg d = 0 && segBase d % 2 = 0 && segBase d < 0x4000
  | 2 => segTarg d = 0 && segBase d % 64 = 0 && segBase d < 0x10000
  | 3 => segTarg d = 0 && segBase d % 64 = 0 && segBase d < 0x20000
  | 4 => segTarg d = 0 && segBase d % 64 = 0 && segBase d < 0x8000000
  | 5 => segTarg d = 0 && segBase d % 64 = 0
  | 6 => segTarg d < 7 && spreadFirst d + spreadCount d ≤ 65536 && spreadLocal d % 64 = 0
  | _ => segTarg d = 0 && nbits (segBase d) 47 32 = 0 && nbits (segBase d) 15 0 % 64 = 0

/-- A descriptor as it is held: reserved bits and the always-clear rights of its type are 0. -/
def segClean (d : Desc) : Desc :=
  mkSeg (segType d) (segBase d) (segLimit d) (segRights d &&& honoured (segType d)) (segTarg d)

def segNone : Desc := 0

/-- The rights an access needs. -/
structure Need where
  r : Bool
  w : Bool
  a : Bool
  t : Bool
deriving DecidableEq, Repr

def needR : Need := ⟨true, false, false, false⟩
def needW : Need := ⟨false, true, false, false⟩
def needRW : Need := ⟨true, true, false, false⟩

def segGrants (d : Desc) (n : Need) : Bool :=
  (!n.r || segR d) && (!n.w || segW d) && (!n.a || segA d) && (!n.t || segT d)

/-- Where an address leads before translation. -/
inductive Target where
  | at (p : Place)
  | virt (va : Nat)
  /-- a SPREAD word that another core owns (R149) -/
  | away (owner la : Nat)
  /-- another core's local store through REMOTE (R171) -/
  | remote (core la : Nat)
deriving DecidableEq, Repr

/-- R285: while a pair is resident on a core, its local addresses 0xE000 to 0xFBFF are reachable by nothing else. -/
def commitArea (s : State) (c la n : Nat) : Bool :=
  la < 0xFC00 && la + n > 0xE000 &&
    match smGet s.cores c with
    | none => false
    | some k => !k.pairs.isEmpty

/-- Resolution (R66, R148, R167) of `n` bytes at `off`, aligned to `al`, seen from core `c`. -/
def resolve (s : State) (c : Nat) (d : Desc) (off : Int) (n al : Nat) (need : Need) : Except Cause Target :=
  if segType d = 0 || !segGrants d need then .error .segv
  else if off < 0 || off ≥ 2 ^ 29 then .error .segv
  else
    let o := off.toNat
    if o % al != 0 then .error .align
    else if o + n - 1 > segLimit d then .error .segv
    else
      match segType d with
      | 1 => if segBase d + o + n - 1 ≥ 0x4000 then .error .segv else .ok (.at (.cstore (quadOf c) (segBase d + o)))
      | 2 =>
        if segBase d + o + n - 1 ≥ 0x10000 || commitArea s c (segBase d + o) n then .error .segv
        else .ok (.at (.lstore c (segBase d + o)))
      | 3 => if segBase d + o + n - 1 ≥ 0x20000 then .error .segv else .ok (.at (.qstore (quadOf c) (segBase d + o)))
      | 4 =>
        if segBase d + o + n - 1 ≥ 0x8000000 then .error .segv else .ok (.at (.dstore (dieOf c) (segBase d + o)))
      | 5 => if segBase d + o + n - 1 ≥ 2 ^ 48 then .error .segv else .ok (.virt (segBase d + o))
      | 6 =>
        let g := o / 2 ^ spreadLg d
        let owner := spreadFirst d + g % spreadCount d
        let la := spreadLocal d + g / spreadCount d * 2 ^ spreadLg d + o % 2 ^ spreadLg d
        if la + n - 1 ≥ 0x10000 || commitArea s owner la n then .error .segv
        else if owner = c then .ok (.at (.lstore c la)) else .ok (.away owner la)
      | _ =>
        let tc := nbits (segBase d) 31 16
        let la := nbits (segBase d) 15 0 + o
        if n ≥ 64 || la + n - 1 ≥ 0x10000 || !presentCore s tc || commitArea s tc la n then .error .segv
        else if tc = c then .ok (.remote c la) else .ok (.remote tc la)

/-- The segmented address an access named, for TVAL (R63). -/
def namedAddr (sel : Nat) (off : Int) : Word := BitVec.ofNat 32 (sel * 2 ^ 29 + (off % 2 ^ 29).toNat)

/-! ### Translation (R257 to R263, R324 to R327) -/

def leafV (e : BitVec 64) : Bool := e.getLsbD 0
def leafR (e : BitVec 64) : Bool := e.getLsbD 1
def leafW (e : BitVec 64) : Bool := e.getLsbD 2
def leafA (e : BitVec 64) : Bool := e.getLsbD 3
def leafIs (e : BitVec 64) : Bool := e.getLsbD 7
def leafPlace (e : BitVec 64) : Nat := (e.extractLsb' 10 2).toNat
def leafHdie (e : BitVec 64) : Nat := (e.extractLsb' 12 2).toNat
def leafM (e : BitVec 64) : Bool := e.getLsbD 14
def leafK (e : BitVec 64) : Bool := e.getLsbD 15
def leafFrame (e : BitVec 64) : Nat := (e.extractLsb' 16 32).toNat
def leafMarked (e : BitVec 64) (tile : Nat) : Bool := e.getLsbD (48 + tile % 16)

/-- A table entry that keeps its map (R258). -/
def tableOk (e : BitVec 64) : Bool :=
  leafV e && !leafIs e && e.extractLsb' 48 16 == 0 && e.extractLsb' 1 6 == 0

/-- A leaf that keeps its map (R258, R324, R327); `big` for a 2 MiB leaf. -/
def leafOk (s : State) (e : BitVec 64) (big : Bool) : Bool :=
  let f := leafFrame e
  let bytes := if big then 2 ^ 21 else 2 ^ 16
  leafV e && leafIs e && e.extractLsb' 8 2 == 0 && e.extractLsb' 4 3 == 0 &&
    (!big || (f % 32 = 0 && !leafM e && e.extractLsb' 48 16 == 0)) &&
    (match leafPlace e with
     | 1 =>
       s.cc.dies.getLsbD (leafHdie e) &&
         (if f = 0xFFFFFFFF then !leafM e && !leafW e && !leafA e
          else f < 2 ^ 22 && f * 2 ^ 16 + bytes ≤ Config.hbmBytes)
     | 3 => !leafM e && f % 2 ^ 22 * 2 ^ 16 + bytes ≤ Config.hbmBytes
     | 0 =>
       f < 2 ^ 24 && leafHdie e = 0 && s.cc.dies = 0xF && f * 2 ^ 14 + bytes / 4 ≤ Config.hbmBytes
     | _ => !leafM e && leafHdie e = 0)

/-- A physical address of a table: its die and die-local address (log entry 6). -/
def physPlace (pa : Nat) : Place := .hbm (pa / 2 ^ 38 % 4) (pa % 2 ^ 38)

def readEntry (s : State) (pa : Nat) : BitVec 64 := BitVec.ofNat 64 (loadNat s (physPlace pa) 8)
/-- NEXT, as it stands: the alignment of a table is not checked, since NEXT's low bits are not among the zero bits of the
entry's map (DESIGN CHOICE, log entry 79). -/
def entryNext (e : BitVec 64) : Nat := (e.extractLsb' 8 40).toNat * 2 ^ 8

/-- The root table of an address space (R257; log entry 6). -/
def rootOf (s : State) (asn : Nat) : Nat := (smGet s.xl.roots asn).getD (asn * 4096)

/-- Where a walk ends: the physical address of its leaf, the leaf, and whether it is a 2 MiB leaf (R258); with the
physical addresses of the entries read. -/
def walk (s : State) (asn va : Nat) : Option (Nat × BitVec 64 × Bool) × List Nat :=
  let a0 := rootOf s asn + 8 * nbits va 47 39
  let e0 := readEntry s a0
  if !tableOk e0 then (none, [a0]) else
    let a1 := entryNext e0 + 8 * nbits va 38 30
    let e1 := readEntry s a1
    if !tableOk e1 then (none, [a0, a1]) else
      let a2 := entryNext e1 + 8 * nbits va 29 21
      let e2 := readEntry s a2
      if leafIs e2 then (if leafOk s e2 true then some (a2, e2, true) else none, [a0, a1, a2])
      else if !tableOk e2 then (none, [a0, a1, a2]) else
        let a3 := entryNext e2 + 8 * nbits va 20 16
        let e3 := readEntry s a3
        (if leafOk s e3 false then some (a3, e3, false) else none, [a0, a1, a2, a3])

def tlbHit (asn va quad : Nat) (e : TlbEnt) : Bool :=
  e.quad = quad && e.asn = asn && (if e.big then e.page / 32 = va / 2 ^ 21 else e.page = va / 2 ^ 16)
def tlbFind (s : State) (quad asn va : Nat) : Option TlbEnt := s.xl.tlb.find? (tlbHit asn va quad)

/-- Fills a quad's buffer; at 128 entries its oldest gives way (R259; log entry 13). -/
def tlbFill (s : State) (e : TlbEnt) : State :=
  let mine := s.xl.tlb.filter fun x => x.quad = e.quad
  let others := s.xl.tlb.filter fun x => x.quad != e.quad
  let kept := if mine.length ≥ 128 then mine.drop 1 else mine
  { s with xl := { s.xl with tlb := others ++ kept ++ [e] } }

/-- The dovetail hash and the die-local address of an INTERLEAVE byte (R325). -/
def interleave (f va : Nat) (big : Bool) : Place :=
  let n := va / 2 ^ 12
  let b := n % 16
  let j := if big then va / 2 ^ 16 % 32 else 0
  .hbm ((n ^^^ (n >>> 2) ^^^ (n >>> 4)) % 4) ((f + j) * 0x4000 + b / 4 * 0x1000 + va % 4096)

/-- Where the byte at `va` of a leaf's page lies (R324). -/
def leafByte (s : State) (e : BitVec 64) (big : Bool) (va : Nat) : Place :=
  let f := leafFrame e
  let o := if big then va % 2 ^ 21 else va % 2 ^ 16
  match leafPlace e with
  | 1 => if f = 0xFFFFFFFF then .frame (leafHdie e) o else .hbm (leafHdie e) (f * 2 ^ 16 + o)
  | 3 =>
    if f / 2 ^ 22 = s.cc.pkg then .hbm (leafHdie e) (f % 2 ^ 22 * 2 ^ 16 + o)
    else .peer (f / 2 ^ 22) (leafHdie e) (f % 2 ^ 22 * 2 ^ 16 + o)
  | 0 => interleave f va big
  | _ => .host (f * 2 ^ 16 + o)

/-- The 16 KiB of storage around a place, in which the kernel frame map counts: a quarter of a frame, or what an INTERLEAVE
frame has on one die. -/
def frameUnit (p : Place) : Nat := flat p / 2 ^ 14

/-- K of the byte at `va`: the leaf's, or the kernel frame map's by the storage that the leaf leads to, whatever placement
names it (R263). -/
def kernelFrame (s : State) (e : BitVec 64) (big : Bool) (va : Nat) : Bool :=
  leafK e || s.xl.kmap.contains (frameUnit (leafByte s e big va))

/-- R262: the page rights an access needs. -/
def leafGrants (e : BitVec 64) (n : Need) : Bool :=
  (!(n.r || n.a) || leafR e) && (!(n.w || n.a) || leafW e) && (!n.a || leafA e)

/-- The tile of a place is the one a jig moves. -/
def sameTile (p q : Place) : Bool := flat p / 4096 = flat q / 4096
/-- R307: the tile is MOVING. -/
def tileMoving (s : State) (p : Place) : Bool :=
  s.jigs.toList.any fun j => match j.move with | some m => !m.req.free && !m.committed && sameTile m.oldAt p | none => false
/-- R308: the port's record of the tile is pending. -/
def tilePending (s : State) (p : Place) : Bool :=
  s.jigs.toList.any fun j => match j.move with | some m => !m.req.free && m.committed && sameTile m.oldAt p | none => false

/-- How a translation with its chase ends (R259, R262, R309). -/
inductive Xlated where
  /-- a place, the virtual address reached, and the marked tiles passed on the way -/
  | ok (p : Place) (va : Nat) (passed : List Place)
  | miss (va : Nat)
  | deny (kframe : Bool) (va : Nat) (passed : List Place)
  | tooFar (passed : List Place)
deriving DecidableEq, Repr

/-- NEWVA of a mark as a tile's first virtual address (R306). -/
def markTarget (s : State) (tile : Place) : Nat := nbits (loadNat s tile 8) 47 12 * 4096

/-- The first byte of a place's tile. -/
def tileStart (p : Place) : Place :=
  match p with
  | .hbm d a => .hbm d (a / 4096 * 4096)
  | q => q

/-- Translates through a quad's buffer and follows moved-to marks; `hops` marks may still be followed. -/
def chase (s : State) (quad asn : Nat) (need : Need) : Nat → Nat → List Place → Xlated
  | hops, va, passed =>
    match tlbFind s quad asn va with
    | none => .miss va
    | some e =>
      let p := leafByte s e.leaf e.big va
      if (!e.big && leafMarked e.leaf (va / 4096)) || tilePending s p then
        match hops with
        | 0 => .tooFar passed
        | h + 1 => chase s quad asn need h (markTarget s (tileStart p) + va % 4096) (passed ++ [p])
      else if kernelFrame s e.leaf e.big va then .deny true va passed
      else if !leafGrants e.leaf need then .deny false va passed
      else .ok p va passed

/-- The virtual addresses that a translation with its chase goes through, from the one named on (R261, R309). -/
def chaseVas (s : State) (quad asn : Nat) : Nat → Nat → List Nat
  | 0, va => [va]
  | h + 1, va =>
    va :: match tlbFind s quad asn va with
      | none => []
      | some e =>
        let p := leafByte s e.leaf e.big va
        if (!e.big && leafMarked e.leaf (va / 4096)) || tilePending s p then
          chaseVas s quad asn h (markTarget s (tileStart p) + va % 4096)
        else []

/-- Those of an access that has followed these marks; one that has followed none was translated at its own address. -/
def throughVas (s : State) (c asn : Nat) (va : Option Nat) (passed : List Place) : List Nat :=
  if passed.isEmpty then [] else va.toList.flatMap (chaseVas s (quadOf c) asn 3)

/-- A place follows its tile. -/
def remap (m : JigMove) (p : Place) : Place := if sameTile m.oldAt p then m.newAt.shift (flat p % 4096) else p

/-- Where a request by physical address from outside the package finds a byte: while a tile's record is pending, in the new
copy that its mark names (R308; log entry 76). -/
def followPending (s : State) (p : Place) : Place :=
  s.jigs.toList.foldl
    (fun p j => match j.move with | some m => if !m.req.free && m.committed then remap m p else p | none => p) p

/-- Counts a request from core `c`'s quad to a place as it passes the quad's memory port (R328, R329). -/
def countOut (s : State) (c : Nat) (p : Place) : State :=
  let d := dieOf c
  match p with
  | .hbm h _ => countReq (countReq s d (if h = d then 0 else 1)) d (8 + h)
  | .host _ => countReq s d 3
  | .peer _ _ _ => countReq s d 7
  | _ => s

/-- The entries that a walk has read count in its die's frame, and are taken back from the host (R328, R336). -/
def countWalk (s : State) (d : Nat) (entries : List Nat) : State :=
  entries.foldl (fun s a => backInvalidate (countReq s d 4) (physPlace a)) s

/-- A request from core `c`'s quad arrives at its bank: it counts in another die's frame (R328, R329). -/
def countIn (s : State) (c : Nat) (p : Place) : State :=
  match p with
  | .hbm h _ => backInvalidate (if h = dieOf c then s else countReq s h 2) p
  | _ => s

/-- A request that is served as it is sent. -/
def countPlace (s : State) (c : Nat) (p : Place) : State := countIn (countOut s c p) c p

/-- Counts the requests that were answered with a mark (R328). -/
def countMarks (s : State) (c : Nat) (passed : List Place) : State :=
  passed.foldl (fun s q => countReq (countPlace s c q) (dieOf c) 5) s

/-- Counts an access and the marks it followed (R328). -/
def countAll (s : State) (c : Nat) (p : Place) (passed : List Place) : State := countPlace (countMarks s c passed) c p

/-- Two addresses lie in one page. -/
def samePage (big : Bool) (page va : Nat) : Bool := if big then page / 32 = va / 2 ^ 21 else page = va / 2 ^ 16

/-- A thread whose next access, or next word of SWEEP, has waited on a walk has still to make it. -/
def atMiss (u : Thread) : Bool :=
  u.missAt.isSome && (match u.pend with | none => true | some ⟨.sweep .., _, _, _⟩ => true | _ => false) && !u.stopped && !u.hold

/-- R194: a request of the quad to the page waits in the miss table before those of a thread with this place there. -/
def missAhead (s : State) (c asn : Nat) (mine : Option (Nat × Nat)) (big : Bool) (va : Nat) : Bool :=
  (List.range 4).any fun k => ((smGet s.cores (quadOf c * 4 + k)).map fun q => q.slots.toList).any fun xs => xs.any fun x =>
    x.thread?.any fun u => atMiss u && u.asn = asn && u.missAt.any fun m =>
      samePage big m.1 va && mine.all fun n => !samePage big n.1 va || m.2 < n.2

/-- A request with this place in the miss table must let others of its page go first. -/
def behindMiss (s : State) (c asn : Nat) (mine : Option (Nat × Nat)) (va : Nat) : Bool :=
  match tlbFind s (quadOf c) asn va with
  | none => false
  | some e => missAhead s c asn mine e.big va

/-- The thread takes its place in the miss table, or keeps the one that it has for the page. -/
def takePlace (s : State) (c i va : Nat) : State :=
  modThread { s with serial := s.serial + 1 } c i fun t =>
    { t with missAt := if t.missAt.any fun m => m.1 = va / 2 ^ 16 then t.missAt else some (va / 2 ^ 16, s.serial) }

/-- A thread's miss: it shares the page's open walk or opens one; with 32 walks open it waits (R259). Where the page has
been found meanwhile, it waits only for the requests before its own (R194). -/
def openMiss (s0 : State) (c i asn va : Nat) : State :=
  let s := takePlace s0 c i va
  let q := quadOf c
  let page := va / 2 ^ 16
  if (tlbFind s q asn va).isSome then s
  else if s.xl.misses.any fun m => m.quad = q && m.asn = asn && m.page = page then
    { s with xl := { s.xl with misses := s.xl.misses.map fun m =>
        if m.quad = q && m.asn = asn && m.page = page && !m.waiters.contains (c, i)
        then { m with waiters := m.waiters ++ [(c, i)] } else m } }
  else if (s.xl.misses.filter fun m => m.quad = q).length ≥ 32 then s
  else { s with xl := { s.xl with
      misses := s.xl.misses ++ [⟨q, asn, page, (s.xl.gens[dieOf c]?).getD 0, [(c, i)]⟩] } }

/-- A walk that an engine or a stream makes as it runs: the buffer is filled and the entries read are counted. -/
def walkNow (s : State) (c asn va : Nat) : State :=
  match tlbFind s (quadOf c) asn va with
  | some _ => s
  | none =>
    let r := walk s asn va
    let s1 := countWalk s (dieOf c) r.2
    match r.1 with
    | none => s1
    | some (_, e, big) => tlbFill s1 ⟨quadOf c, asn, va / 2 ^ 16, big, e⟩

/-- Walks the pages of a chase one after another, at most four. -/
def walkAll (c asn : Nat) (need : Need) : Nat → State → Nat → State
  | 0, s, _ => s
  | n + 1, s, va =>
    match chase s (quadOf c) asn need 3 va [] with
    | .miss v => if (walk s asn v).1.isSome then walkAll c asn need n (walkNow s c asn v) va else walkNow s c asn v
    | _ => s

/-! ### Reservations, queues and waiting lists (R176, R179, R180) -/

def needsResv (k : AccKind) : Bool :=
  match k with
  | .store | .stf | .ste | .ldt | .amo _ | .cas | .rsv | .qadd | .swap => true
  | _ => false

def isLoadKind (k : AccKind) : Bool :=
  match k with
  | .load | .lde | .ldt | .amo _ | .cas | .rsv | .tagrd => true
  | _ => false

def heldByOther (s : State) (w c i : Nat) : Bool := s.resvs.any fun r => r.word = w && !(r.core = c && r.slot = i)
def holds (s : State) (w c i : Nat) : Bool := s.resvs.any fun r => r.word = w && r.core = c && r.slot = i

def partWords (p : Part) : List Nat := wordsOf p.place p.size
def accWords (a : Access) : List Nat := a.parts.flatMap partWords

/-- The core whose local store a REMOTE access names. -/
def remoteCore (a : Access) : Nat :=
  match a.parts with
  | p :: _ => (match p.place with | .lstore c _ => c | _ => a.core)
  | [] => a.core

def isAtomic (k : AccKind) : Bool := match k with | .amo _ | .cas | .swap => true | _ => false

/-- Requesters outside the package, as numbers past its cores: the cores of another package, and the host port
(R334, R338; log entry 61). -/
def foreignCore (pkg core : Nat) : Nat := Config.cores * (pkg + 1) + core
def hostCore : Nat := Config.cores * 1025
def Access.foreign (a : Access) : Bool := Config.cores ≤ a.core

/-- The access lies in another package. -/
def peerAccess (a : Access) : Bool := a.parts.any fun p => match p.place with | .peer .. => true | _ => false

/-- Whose request the bank sees: the thread's; for an atomic through REMOTE, that of the handler in the owner's slot 15
(R179). -/
def requester (a : Access) : Nat × Nat := if a.remote && isAtomic a.kind then (remoteCore a, 15) else (a.core, a.slot)

/-- Another access stands in the queue of one of these words before `seq`. -/
def queuedBefore (s : State) (ws : List Nat) (id seq : Nat) : Bool :=
  s.flight.any fun f => f.stage = .queued && f.id != id && f.seq < seq && (accWords f).any ws.contains

/-- The access must wait in its word's queue. A thread's stores to a word it has reserved proceed (R185). -/
def mustQueue (s : State) (a : Access) : Bool :=
  needsResv a.kind &&
    (((accWords a).any fun w => heldByOther s w (requester a).1 (requester a).2) ||
      queuedBefore s ((accWords a).filter fun w => !holds s w (requester a).1 (requester a).2) a.id
        (if a.stage = .queued then a.seq else s.serial + 1))

/-- The thread holds a reservation on a word of the tile. -/
def holdsInTile (s : State) (c i : Nat) (p : Place) : Bool :=
  s.resvs.any fun r => r.core = c && r.slot = i && r.word / 1024 = flat p / 4096

/-- R307: a store, atomic or RSV to a MOVING tile waits at its port, but for the stores and the RLS of a thread that holds a
reservation on a word of the tile (log entry 37). -/
def heldUpByMove (s : State) (a : Access) : Bool :=
  (needsResv a.kind || a.kind = .rls) && a.parts.any fun p => tileMoving s p.place &&
    !((a.kind = .store || a.kind = .rls) && holdsInTile s a.core a.slot p.place)

/-- The new value of an atomic (R184). -/
def amoNew (op : Nat) (old d : Word) : Word :=
  match op with
  | 0 => old + d
  | 1 => if old.toInt < d.toInt then old else d
  | 2 => if old.toInt > d.toInt then old else d
  | 3 => old &&& d
  | 4 => old ||| d
  | 5 => old ^^^ d
  | _ => d

def release (s : State) (w c i : Nat) : State :=
  { s with resvs := s.resvs.filter fun r => !(r.word = w && r.core = c && r.slot = i) }

/-- A reservation released other than by RLS sets F[3] (R180). -/
def forceRelease (s : State) (c i : Nat) : State :=
  if s.resvs.any fun r => r.core = c && r.slot = i then
    modPend { s with resvs := s.resvs.filter fun r => !(r.core = c && r.slot = i) } c i fun t => setFlag t 3 true
  else s

/-- What an access does at its bank. -/
inductive Served where
  /-- performed: the values of its parts, and whether the operation took effect -/
  | done (s : State) (vals : List Word) (okay : Bool)
  | queue
  | list
  /-- an uncorrectable error is consumed (R68) -/
  | bad

def extend (p : Part) (v : Nat) : Word :=
  if p.signed then BitVec.ofInt 32 (sextNat (8 * p.size) v) else BitVec.ofNat 32 v

def loadPart (s : State) (p : Part) : Word := extend p (loadNat s p.place p.size)
def storePart (s : State) (p : Part) : State := storeNat s p.place p.size (p.data.toNat % 2 ^ (8 * p.size))

/-- The access reads its word, so it consumes an error there; so does a store of less than a word (R68). -/
def consumes (a : Access) : Bool :=
  match a.kind with
  | .store | .stf | .ste => a.parts.any fun p => p.size < 4
  | .rls => false
  | .tagrd => false
  | _ => true

/-- The comparator holds every byte of a range of storage. -/
def cmpCovers (p : Pair) (a n : Nat) : Bool :=
  (List.range n).all fun j => p.cmp.any fun e => e.parts.any fun q =>
    flat q.place ≤ a + j && a + j < flat q.place + q.size

/-- A part meets an uncorrectable error; a load of a pair's leading thread takes no byte from storage that its comparator
holds (R68, R287). -/
def badPart (s : State) (a : Access) (p : Part) : Bool :=
  anyBad s p.place p.size &&
    !(a.via = .lead && (pairOf s a.core a.slot).any fun q => cmpCovers q (flat p.place) p.size)

/-- The access at its bank, at one instant (R192). -/
def serve (s : State) (a : Access) : Served :=
  if mustQueue s a then .queue
  else if consumes a && a.parts.any (badPart s a) then .bad
  else
    match a.kind with
    | .load | .frame _ => .done s (a.parts.map (loadPart s)) true
    | .store => .done (a.parts.foldl storePart s) [] true
    | _ =>
      match a.parts with
      | [] => .done s [] true
      | p :: _ =>
        let old := loadWord s p.place
        match a.kind with
        | .lde => if isFullWord s p.place then .done s [old] true else .list
        | .ldt => if isFullWord s p.place then .done (setFullWord s p.place false) [old] true else .list
        | .stf => .done (setFullWord (storeWord s p.place p.data) p.place true) [] true
        | .ste => .done (setFullWord (storeWord s p.place p.data) p.place false) [] true
        | .tagrd =>
          .done s [BitVec.ofNat 32 ((isWatched s p.place).toNat * 2 + (isFullWord s p.place).toNat)] true
        | .amo op => .done (storeWord s p.place (amoNew op old p.data)) [old] true
        | .cas =>
          if old = p.data then .done (storeWord s p.place a.data2) [old] true else .done s [old] false
        | .rsv =>
          .done { s with resvs := s.resvs ++
            [⟨wordKey p.place, a.core, a.slot, if a.remote then none else some (getCore s a.core).cycle⟩] } [old] true
        | .rls =>
          if holds s (wordKey p.place) a.core a.slot then
            .done (release (storeWord s p.place p.data) (wordKey p.place) a.core a.slot) [] true
          else .done s [] false
        | .swap =>
          if a.parts.all fun q => loadPart s q = q.data then
            .done ((a.parts.zip a.result).foldl (fun s e => storeWord s e.1.place e.2) s) [] true
          else .done s [] false
        | _ => .done (storeWord s p.place (old + p.data)) [] true

/-- RESUME takes its PC, its flags and one register from the words of its frame (R276). -/
def resumeWith (a : Nat) (ws : List Word) (t : Thread) : Thread :=
  resumeTrap (wrReg t a ((ws[2]?).getD 0)) ((ws[0]?).getD 0) ((ws[1]?).getD 0)

/-- What a performed access writes into its thread (R73, R182, R184, R185, R310). -/
def takeVals (a : Access) (vals : List Word) (okay : Bool) (t : Thread) : Thread :=
  let t1 := if isLoadKind a.kind then (a.parts.zip vals).foldl (fun t pv => wrReg t pv.1.reg pv.2) t else t
  let t2 :=
    match a.kind with
    | .cas => if a.group.isNone then setFlag t1 1 okay else t1
    | .rsv => setFlag t1 3 false
    | .rls => if okay then t1 else setFlag t1 3 true
    | .frame r =>
      { resumeWith r vals t1 with pend := t1.pend.map fun p => { p with next := (vals[0]?).getD 0 } }
    | _ => t1
  match a.rewrite with
  | none => t2
  | some (r, v) => if a.group.isNone then wrReg t2 r v else t2

/-- A word of a load stream comes in behind those already read ahead (R189). -/
def takeAhead (q : Nat) (vals : List Word) (t : Thread) : Thread :=
  setStream t q { streamOf t q with ahead := (streamOf t q).ahead ++ vals }

def dropFlight (s : State) (id : Nat) : State := { s with flight := s.flight.filter fun f => f.id != id }
def setFlight (s : State) (a : Access) : State :=
  { s with flight := s.flight.map fun f => if f.id = a.id then a else f }

def layPart (m : List (Nat × Byte)) (q : Part) : List (Nat × Byte) := writeBytes m (flat q.place) q.size q.data.toNat

/-- Storage as a pair's leading thread sees it: its comparator's stores laid over it, in their order (R287). -/
def overlay (s : State) (p : Pair) : State := { s with mem := (p.cmp.flatMap (·.parts)).foldl layPart s.mem }

/-- The values of a load at its bank; those of a pair's leading thread come from its comparator where that has them. -/
def boundVals (s : State) (a : Access) (vals : List Word) : List Word :=
  match a.via, pairOf s a.core a.slot with
  | .lead, some p => a.parts.map (loadPart (overlay s p))
  | _, _ => vals

/-- A REMOTE load of a pair's leading thread is over: the value enters the queue, and the instruction is behind the
leading thread (R286). -/
def completeLead (s : State) (a : Access) (vals : List Word) : State :=
  let s1 := modThread (dropFlight s a.id) a.core a.slot fun t => finish (takeVals a vals true t)
  match pairOf s1 a.core a.slot with
  | none => s1
  | some p =>
    setPair s1 a.core { p with
      lvq := p.lvq ++ [⟨a.named.toNat, a.parts.foldl (fun n q => n + q.size) 0, vals, none, a.rewrite⟩]
      leadAt := p.leadAt + 1, ahead := p.ahead + 1 }

/-- The bytes of a part's value. -/
def partBytes (p : Part) (v : Word) : List Byte := (List.range p.size).map fun j => BitVec.ofNat 8 (v.toNat / 256 ^ j)

def answerWith (s : State) (x : Option (List Byte)) : State :=
  { s with cc := { s.cc with answers := s.cc.answers ++ [x] } }

/-- A request from outside the package has performed: a peer's is answered with its values, the host's writes are posted
(R334, R338). -/
def completeForeign (s : State) (a : Access) (vals : List Word) : State :=
  if a.core = hostCore then dropFlight s a.id
  else answerWith (dropFlight s a.id) (some ((a.parts.zip vals).flatMap fun e => partBytes e.1 e.2))

/-- An outstanding access has performed: its thread takes the values, and a default access's thread goes on; of a REMOTE
one the reply sets out (R171), and SWEEP takes its words' answers up itself. -/
def completeAccess (s : State) (a : Access) (vals : List Word) (okay : Bool) : State :=
  if a.foreign then completeForeign s a vals
  else if (a.remote || a.via = .sweep || a.via = .probe) && a.stage != .replied then
    setFlight { s with serial := s.serial + 1 }
      { a with stage := .replied, result := a.result ++ boundVals s a vals, okay := okay, seq := s.serial }
  else
    match a.via with
    | .queue q =>
      if isLoadKind a.kind then modThread (dropFlight s a.id) a.core a.slot (takeAhead q vals) else dropFlight s a.id
    | .commit | .sweep | .copy _ | .probe => dropFlight s a.id
    | .lead => completeLead s a (if a.remote then vals else boundVals s a vals)
    | .plain =>
      if a.group.isNone then modPend (dropFlight s a.id) a.core a.slot fun t => finish (takeVals a vals okay t)
      else modPend (dropFlight s a.id) a.core a.slot (takeVals a vals okay)

/-- TVAL of an access whose part is in error: the address that a default access named (R63, R68), but the lane's address of
VGATH (R102), and the failing word's of a relaxed access (R168). -/
def errNamed (a : Access) (p : Part) : Word := if a.each || a.group.isSome then p.named else a.named

/-- The same for the first part in error. -/
def badNamed (s : State) (a : Access) : Word :=
  ((a.parts.find? fun p => anyBad s p.place p.size).map (errNamed a)).getD a.named

/-- An outstanding access has met an uncorrectable error: a default access traps MEMERR; a relaxed one leaves its
destination empty and the thread traps at its next issue, once, with the address of the last of several (DESIGN CHOICE, log
entry 81); a word read ahead is given up, and stops its stream once it is the next one (R68, R168). -/
def failAccess (s : State) (a : Access) : State :=
  let s1 := if a.foreign then answerWith (dropFlight s a.id) none else consumed (dropFlight s a.id) a.core
  match threadAt s1 a.core a.slot with
  | none => s1
  | some t =>
    match a.via with
    | .queue q =>
      if isLoadKind a.kind && (streamOf t q).ahead.isEmpty then
        setThread s1 a.core a.slot
          (setStream t q { streamOf t q with failed := some (.memerr, badNamed s a, false, 0) })
      else s1
    | .commit | .probe => setThread s1 a.core a.slot { t with late := some ⟨.memerr, 0, badNamed s a, false, 0⟩ }
    | .lead => setThread s1 a.core a.slot { abandon t with late := some ⟨.memerr, 0, badNamed s a, false, 0⟩ }
    | .plain | .sweep | .copy _ =>
      if a.group.isNone then
        trapPend s1 a.core a.slot (abandon t) ⟨.memerr, 0, badNamed s a, t.pc, false, 0⟩
      else setThread s1 a.core a.slot { t with late := some ⟨.memerr, 0, badNamed s a, false, 0⟩ }

/-- The listed request on a word that stands first. -/
def firstListed (s : State) (w : Nat) : Option Access :=
  (s.flight.filter fun f => f.stage = .listed && (accWords f).contains w).foldl
    (fun best f => match best with | none => some f | some b => if f.seq < b.seq then some f else some b) none

/-- A full word serves its waiting list from the head: LDE take the value, the first LDT empties the word (R176). An LDT
whose word is reserved takes its place in the reservation's queue (R182), at its tail; from then on it waits as one that
has not been listed (DESIGN CHOICE, log entry 79). -/
def serveList (w : Nat) : Nat → State → State
  | 0, s => s
  | n + 1, s =>
    match firstListed s w with
    | none => s
    | some a =>
      match serve s a with
      | .done s' vals okay => serveList w n (completeAccess s' a vals okay)
      | .queue => setFlight { s with serial := s.serial + 1 } { a with stage := .queued, seq := s.serial }
      | _ => s

def afterServe (s : State) (a : Access) : State :=
  match a.kind with
  | .stf => (accWords a).foldl (fun s w => serveList w (s.flight.length + 1) s) s
  | _ => s

/-- The quads of another package are those of other dies (R329). -/
def countForeign (s : State) (p : Place) : State :=
  match p with
  | .hbm h _ => countReq s h 2
  | _ => s

/-- An access arrives at its bank (R328): it counts there, and at its port unless it has passed it before. Lines that the host
may hold are taken back, also for one that has waited at its bank (R336). -/
def countArrival (s : State) (a : Access) : State :=
  if a.core = hostCore then s
  else if a.stage != .going then a.parts.foldl (fun s p => backInvalidate s p.place) s
  else if a.foreign then
    (a.parts.take 1).foldl (fun s p => countForeign s p.place) (a.parts.foldl (fun s p => backInvalidate s p.place) s)
  else
    (if a.each then a.parts else a.parts.take 1).foldl
      (fun s p => countIn (if a.passed.isEmpty then countOut s a.core p.place else s) a.core p.place) s

/-- Puts an outstanding access through its bank once; what must wait there takes its place in the order. -/
def attempt (s0 : State) (a : Access) : State :=
  let s := countArrival s0 a
  match serve s a with
  | .done s' vals okay => afterServe (completeAccess s' a vals okay) a
  | .queue => setFlight { s with serial := s.serial + 1 } { a with stage := .queued, seq := s.serial }
  | .list => setFlight { s with serial := s.serial + 1 } { a with stage := .listed, seq := s.serial }
  | .bad => failAccess s a

/-! ### Paths and scopes (R193 to R196) -/

/-- A path point (R194): a quad's port to the die store, its memory port, a direction of a die-to-die link, a die's port
to the I/O die, the host port, a device link's direction away from the package. -/
inductive Point where
  | dport (quad : Nat)
  | mport (quad : Nat)
  | link (src dst : Nat)
  | io (die : Nat)
  | hostPort
  | dev (link : Nat)
deriving DecidableEq, Repr

/-- The device link on which requests to a package leave (R333); 16 where the route table names none. -/
def routeOf (s : State) (pkg : Nat) : Nat := (smGet s.cc.routes pkg).getD 16

/-- The path points between core `c` and the bank of a place, in order. -/
def pathOf (s : State) (c : Nat) (p : Place) : List Point :=
  if Config.cores ≤ c then (match p with | .peer k _ _ => [.dev (routeOf s k)] | _ => [])
  else match p with
  | .dstore _ _ => [.dport (quadOf c)]
  | .hbm d _ => if d = dieOf c then [.mport (quadOf c)] else [.mport (quadOf c), .link (dieOf c) d]
  | .frame d _ => if d = dieOf c then [.mport (quadOf c)] else [.mport (quadOf c), .link (dieOf c) d]
  | .host _ => [.mport (quadOf c), .io (dieOf c), .hostPort]
  | .peer k _ _ => [.mport (quadOf c), .io (dieOf c), .dev (routeOf s k)]
  | _ => []

/-- The widest scope at which a store of core `c` to a place has performed once it has passed `n` path points (R195):
0 none, 2 quad, 3 die, 4 package, 5 pod. -/
def scopeAfter (c : Nat) (p : Place) (n : Nat) : Nat :=
  match p, n with
  | _, 0 => 0
  | .dstore _ _, _ => 2
  | .hbm _ _, 1 => 2
  | .hbm d _, _ => if d = dieOf c then 2 else 3
  | .host _, 1 => 2
  | .host _, 2 => 3
  | .host _, _ => 5
  | .peer _ _ _, 1 => 2
  | .peer _ _ _, 2 => 3
  | .peer _ _ _, _ => 4
  | _, _ => 0

/-- The scope that a store would have performed at with `n` points passed. -/
def scopeWith (a : Access) (n : Nat) : Nat := a.parts.foldl (fun m p => min m (scopeAfter a.core p.place n)) 5

/-- The scope that an outstanding access has performed at: only a store performs before its bank (R195). A store that
stands in a word's queue keeps the scope of the points that it has passed and has not arrived at its bank before its grant;
other threads' loads of the word are served meanwhile (R179; DESIGN CHOICE, log entry 79). -/
def performedAt (a : Access) : Nat := if a.kind = .store && !a.remote then scopeWith a a.passed.length else 0

/-- One bank of a path: an aligned 64-byte piece of HBM or host memory, or a die-store bank (R168, R194). -/
def pieceOf (p : Place) : Nat :=
  match p with
  | .dstore d a => 9 * 2 ^ 56 + d * 64 + a / 64 % 64
  | q => flat q / 64

/-- Two lists of stamps on two paths to one bank: the first request has passed a point of the second's path, and the
second has not, or did so later. -/
def stampedFirst (fp : List Point) (fs : List Nat) (ap : List Point) (as : List Nat) : Bool :=
  (fp.zip fs).any fun e => ap.contains e.1 && match as[ap.idxOf e.1]? with | none => true | some n => e.2 < n

/-- R194: a request in flight stands before a request of core `c` to these places that has passed its points at the
given times. One that a moving tile holds up stands before requests to its own words only (R195, R307). -/
def standsBefore (s : State) (f : Access) (c : Nat) (ps : List Place) (passed : List Nat) (ws : List Nat) : Bool :=
  f.stage = .going && !f.passed.isEmpty && (!heldUpByMove s f || (accWords f).any ws.contains) &&
    f.parts.any fun p => ps.any fun q =>
      pieceOf p.place = pieceOf q && stampedFirst (pathOf s f.core p.place) f.passed (pathOf s c q) passed

/-- LID and RANK by which a thread is known after it has left its core (R198; log entry 70). -/
def keyAt (s : State) (c i : Nat) : Option (Word × Word) := (threadAt s c i).map fun t => (t.lid, t.rank)

/-- The thread of a slot issued an access before it came to its core (R198). -/
def leftBy (s : State) (c i : Nat) (f : Access) : Bool := f.left.isSome && f.left = keyAt s c i

/-- Two accesses are one thread's, on one core or as it has moved. -/
def sameThread (s : State) (f a : Access) : Bool :=
  if f.left.isNone && a.left.isNone then f.core = a.core && f.slot = a.slot
  else
    let key (g : Access) : Option (Word × Word) := if g.left.isSome then g.left else keyAt s g.core g.slot
    (key f).isSome && key f = key a

/-- A thread's store that the host port has accepted before another of its stores reaches the host first (R337). -/
def postedBefore (s : State) (f a : Access) : Bool :=
  let onHost (g : Access) : Bool := g.parts.any fun p => match p.place with | .host _ => true | _ => false
  f.kind = .store && a.kind = .store && onHost f && onHost a && sameThread s f a &&
    match f.passed[2]?, a.passed[2]? with
    | some n, some m => n < m
    | some _, none => true
    | none, _ => false

/-- No request stands before an access on its path. -/
def pathFree (s : State) (a : Access) : Bool :=
  !(s.flight.any fun f => f.id != a.id &&
    (standsBefore s f a.core (a.parts.map (·.place)) a.passed (accWords a) || postedBefore s f a))

/-- The requests that stand before a new request of core `c` reach their banks first, in their order (R194). -/
def settleBefore (c : Nat) (ps : List Place) (ws : List Nat) : Nat → State → State
  | 0, s => s
  | n + 1, s =>
    match s.flight.find? fun f => standsBefore s f c ps [] ws && pathFree s f && !heldUpByMove s f with
    | some f => settleBefore c ps ws n (attempt s f)
    | none => s

/-- R195: the stores that have performed for a unit of the core's threads reach the banks before its later request to
these places. -/
def settleEarlier (s : State) (c : Nat) (ps : List Place) (ws : List Nat) : State :=
  if s.flight.isEmpty then s else settleBefore c ps ws s.flight.length s

/-- A new request of core `c` to these places would still stand behind one on its path. -/
def pathHeld (s : State) (c : Nat) (ps : List Place) (ws : List Nat) : Bool :=
  s.flight.any fun f => standsBefore s f c ps [] ws

/-- An earlier access `f` of one thread must perform before a later one `a`, also after the thread has moved (R169, R189,
R193, R206). -/
def mustPrecede (s : State) (f a : Access) : Bool :=
  sameThread s f a && f.id < a.id && f.stage != .replied &&
    match f.via, a.via with
    | .plain, .plain => f.group = a.group || (accWords f).any (accWords a).contains
    | .commit, _ => true
    | .queue p, .queue q => p = q
    | _, _ => false

/-- R169, R193: an earlier outstanding access of the thread in the same group or to the same bytes performs first. -/
def orderFree (s : State) (a : Access) : Bool := !(s.flight.any fun f => mustPrecede s f a)

/-- The requests of a thread to one target core go out in program order (R201). -/
def sendFree (s : State) (a : Access) : Bool :=
  orderFree s a &&
    !(s.flight.any fun f => f.core = a.core && f.slot = a.slot && f.id < a.id && f.remote && f.stage = .going &&
      remoteCore f = remoteCore a)

/-- A reply of another core can be taken: the inbox has a place for it, and no earlier one from that core is on its way
(R171, R173). -/
def replyFree (s : State) (a : Access) : Bool :=
  !a.remote ||
    ((getCore s a.core).inbox.length < 64 &&
      !(s.flight.any fun f => f.remote && f.stage = .replied && f.core = a.core && remoteCore f = remoteCore a && f.seq < a.seq))

/-- The outstanding accesses of a thread. -/
def ownFlight (s : State) (c i : Nat) : List Access := s.flight.filter fun f => f.core = c && f.slot = i
/-- An access of the thread of a slot, from here or from where it was before (R198). -/
def ownAccess (s : State) (c i : Nat) (f : Access) : Bool := (f.core = c && f.slot = i) || leftBy s c i f

/-- Its relaxed accesses; words of streams do not count among them (R169, R189). -/
def ownRelaxed (s : State) (c i : Nat) : List Access :=
  s.flight.filter fun f => ownAccess s c i f && f.via = .plain && f.group.isSome

/-- The slot number under which stores of a thread that has left its core run on (R198). -/
def goneSlot : Nat := 16

/-- Every access of the thread has performed at a scope (R139, R186, R195): a load or an atomic once its value is bound, so
that of a REMOTE one the reply must have come (R169, R171). A store of its own from where it was before counts too
(R198; log entry 70). -/
def allPerformed (s : State) (c i scope : Nat) : Bool :=
  s.flight.all fun f =>
    !ownAccess s c i f || f.via = .probe || f.stage = .replied && f.group.isSome && !isLoadKind f.kind || performedAt f ≥ max scope 1

/-- R189: the store stream has written every value it has taken, and a pair's released stores have performed. -/
def streamIdle (s : State) (c i : Nat) : Bool :=
  !(s.flight.any fun f => ownAccess s c i f && (f.via = .queue 2 || f.via = .commit))

end Sys2Proof.Machine
end

