-- ==== Sys2Proof/Machine/Operands.lean ====
section
/-! DEFINITION. The operands of each shape: what an issue waits for, empties and writes, the values read, and the
address a memory operand names (R14, R15, R17, R24, R46, R63, R72, R94, R153, R181, R187, R220, R241, R273, R313). -/

namespace Sys2Proof

open Host (Outcome)
open Machine

/-! ### Lengths and register lists -/

/-- Words of a chain: the base word, XP on every page but 0, XG, and `extra` more (R22, R31). -/
def wordsOfChain (paged : Bool) (p : Pfx) (extra : Nat) : Nat := 1 + paged.toNat + p.xg.toNat + extra

/-- The sixteen general registers under a vector register (R17). -/
def lanesOf (v : VReg) : List Nat := (List.range 16).map fun j => 16 * v.toNat + j

/-- A use of general registers: it names what it reads and writes. -/
def Machine.Use.of (p : Pfx) (words : Nat) (srcs sync dsts : List Nat) : Use :=
  { guard := p.guard, words := words, priv := false, names := srcs ++ dsts, srcs := srcs, sync := sync, dsts := dsts,
    once := false, byLane := false }

/-- The same use, of an operation that a pair performs once only (R290). -/
def Machine.Use.oncely (u : Use) : Use := { u with once := true }
/-- The same use, of an instruction that writes its enabled lanes only (R91). -/
def Machine.Use.perLane (u : Use) : Use := { u with byLane := true }
/-- The same use, of an instruction that only slot 0 may run. -/
def Machine.Use.slot0 (u : Use) : Use := { u with priv := true }

def syncIf (b : Bool) (r : Nat) : List Nat := if b then [r] else []
def Xt.sync (x : Option Xt) (b : Nat) : List Nat :=
  match x with
  | none => []
  | some y => syncIf y.sb b ++ syncIf y.sc y.c.toNat
def sbSync (x : Option Bool) (b : Nat) : List Nat := syncIf (x.getD false) b

/-! ### Integer shapes (R46, R24) -/

/-- C of a three-operand shape: XT's C, or A (R24). -/
def ShT.cNum (o : ShT) : Nat := match o.xt with | none => o.a.toNat | some x => x.c.toNat
def ShK.cNum (o : ShK) : Nat := match o.xt with | none => o.fa.toNat | some x => x.c.toNat
def ShL.cNum (o : ShL) : Nat := match o.fc with | none => o.fa.toNat | some x => x.toNat

def ShT.use (paged : Bool) (o : ShT) : Use :=
  .of o.p (wordsOfChain paged o.p o.xt.isSome.toNat) [o.b.toNat, o.cNum] (Xt.sync o.xt o.b.toNat) [o.a.toNat]
def ShU.use (paged : Bool) (o : ShU) : Use :=
  .of o.p (wordsOfChain paged o.p o.sb.isSome.toNat) [o.b.toNat] (sbSync o.sb o.b.toNat) [o.a.toNat]
def ShI.use (paged : Bool) (o : ShI) : Use :=
  .of o.p (wordsOfChain paged o.p o.imm.k) [o.a.toNat] [] [o.a.toNat]
def ShK.use (o : ShK) : Use :=
  .of o.p (wordsOfChain false o.p o.xt.isSome.toNat) [o.b.toNat, o.cNum] (Xt.sync o.xt o.b.toNat) []
def ShL.use (o : ShL) : Use := .of o.p (wordsOfChain true o.p o.fc.isSome.toNat) [] [] []
def ShFF.use (o : ShFF) : Use := .of o.p (wordsOfChain true o.p 0) [] [] []
def ShJ.use (o : ShJ) : Use := .of o.p (wordsOfChain false o.p o.imm.k) [] [] []
def ShFB.use (o : ShFB) : Use := .of o.p (wordsOfChain false o.p o.imm.k) [] [] []
def ShBU.use (o : ShBU) : Use :=
  .of o.p (wordsOfChain false o.p o.sb.isSome.toNat) [o.b.toNat] (sbSync o.sb o.b.toNat) []

/-- The signed reading of an immediate of `w` base bits (R26). -/
def Imm.value (i : Imm) (w : Nat) : Int := sextImm (w + 9 * i.k) i.raw

/-- R26: the target of a displacement of `w` base bits, counted in halfwords from the first word. -/
def Imm.target (i : Imm) (w : Nat) (ia : Word) : Word := ia + wordOf (2 * i.value w)

/-! ### The effects of the shapes (R47, R94) -/

/-- The thread of the issuing slot after the operation. -/
def done (s : State) (x : Ctx) (t : Thread) : Res := .ok (setThread s x.core x.slot t)

def runT (paged : Bool) (o : ShT) (f : Word → Word → Word) : State → Outcome State Fault Refusal :=
  issue (o.use paged) fun x t s => done s x (wrReg t o.a.toNat (f (rdReg t o.b.toNat) (rdReg t o.cNum)))
def runU (paged : Bool) (o : ShU) (f : Word → Word) : State → Outcome State Fault Refusal :=
  issue (o.use paged) fun x t s => done s x (wrReg t o.a.toNat (f (rdReg t o.b.toNat)))
def runI (paged : Bool) (o : ShI) (f : Word → Word) : State → Outcome State Fault Refusal :=
  issue (o.use paged) fun x t s => done s x (wrReg t o.a.toNat (f (rdReg t o.a.toNat)))
def runK (o : ShK) (f : Word → Word → Bool) : State → Outcome State Fault Refusal :=
  issue o.use fun x t s => done s x (setFlag t o.fa.toNat (f (rdReg t o.b.toNat) (rdReg t o.cNum)))
def runL (o : ShL) (f : Bool → Bool → Bool) : State → Outcome State Fault Refusal :=
  issue o.use fun x t s => done s x (setFlag t o.fa.toNat (f (getFlag t o.fb.toNat) (getFlag t o.cNum)))

/-! ### Memory operands (R63, R72) -/

/-- A memory operand: base register with its synchronised read, index if there is an XT word, offset words. -/
structure MemOp where
  b : Nat
  sb : Bool
  idx : Option (Nat × Bool)
  imm : Imm
deriving DecidableEq, Repr

def xtIdx (x : Option Xt) : Option (Nat × Bool) := x.map fun y => (y.c.toNat, y.sc)
def xtSb (x : Option Xt) : Bool := match x with | none => false | some y => y.sb

def ShM.mem (o : ShM) : MemOp := ⟨o.b.toNat, xtSb o.xt, xtIdx o.xt, o.imm⟩
def ShMN.mem (o : ShMN) : MemOp := ⟨o.b.toNat, xtSb o.xt, xtIdx o.xt, o.imm⟩
def ShMZ.mem (o : ShMZ) : MemOp := ⟨o.b.toNat, xtSb o.xt, xtIdx o.xt, o.imm⟩
def ShMV.mem (o : ShMV) : MemOp := ⟨o.b.toNat, xtSb o.xt, xtIdx o.xt, o.imm⟩

def MemOp.srcs (m : MemOp) : List Nat := m.b :: (match m.idx with | none => [] | some (c, _) => [c])
def MemOp.sync (m : MemOp) : List Nat :=
  syncIf m.sb m.b ++ (match m.idx with | none => [] | some (c, sc) => syncIf sc c)

/-- The selector of a segmented address. -/
def selOf (a : Word) : Nat := a.toNat / 2 ^ 29
/-- The offset bits of a segmented address. -/
def offOf (a : Word) : Nat := a.toNat % 2 ^ 29

/-- The index's signed value; none reads as 0. -/
def MemOp.idxVal (m : MemOp) (t : Thread) : Int := match m.idx with | none => 0 | some (c, _) => (rdReg t c).toInt
/-- R63: selector and offset of a memory operand of size `s`. -/
def MemOp.sel (m : MemOp) (t : Thread) : Nat := selOf (rdReg t m.b)
def MemOp.off (m : MemOp) (t : Thread) (s : Nat) : Int :=
  offOf (rdReg t m.b) + m.imm.value 0 * s + m.idxVal t * s

/-- Words of a format-M chain. -/
def memWords (paged : Bool) (p : Pfx) (xt rlx : Bool) (k : Nat) : Nat := wordsOfChain paged p (xt.toNat + rlx.toNat + k)

def ShM.words (paged : Bool) (o : ShM) : Nat := memWords paged o.p o.xt.isSome o.rlx.isSome o.imm.k
def ShMN.words (o : ShMN) : Nat := memWords true o.p o.xt.isSome false o.imm.k
def ShMZ.words (o : ShMZ) : Nat := memWords true o.p o.xt.isSome false o.imm.k
def ShMV.words (o : ShMV) : Nat := memWords false o.p o.xt.isSome o.rlx.isSome o.imm.k

/-- A load of one register, a store of one register. -/
def ShM.useLoad (paged : Bool) (o : ShM) : Use := .of o.p (o.words paged) o.mem.srcs o.mem.sync [o.a.toNat]
def ShM.useStore (paged : Bool) (o : ShM) : Use :=
  .of o.p (o.words paged) (o.a.toNat :: o.mem.srcs) o.mem.sync []
/-- An operation that reads and writes its data register (R184). -/
def ShM.useBoth (paged : Bool) (o : ShM) : Use :=
  .of o.p (o.words paged) (o.a.toNat :: o.mem.srcs) o.mem.sync [o.a.toNat]

/-! ### Vector shapes (R17, R24, R94) -/

def ShVV.cNum (o : ShVV) : VReg := match o.xt with | none => o.a | some x => x.c
def ShSVV.cNum (o : ShSVV) : VReg := match o.xt with | none => o.a.setWidth 3 | some x => x.c
def ShSVS.cNum (o : ShSVS) : Nat := match o.xt with | none => o.a.toNat | some x => x.c.toNat
def ShVSS.cNum (o : ShVSS) : Nat := match o.xt with | none => o.a.toNat | some x => x.c.toNat
def ShVVS.cNum (o : ShVVS) : Nat := match o.xt with | none => o.a.toNat | some x => x.c.toNat

/-- Synchronised vector reads empty all sixteen registers (R17). -/
def syncV (b : Bool) (v : VReg) : List Nat := if b then lanesOf v else []
def XtV.sync (x : Option XtV) (b : VReg) : List Nat :=
  match x with | none => [] | some y => syncV y.sb b ++ syncV y.sc y.c
/-- A vector B and a general C. -/
def Xt.syncVS (x : Option Xt) (b : VReg) : List Nat :=
  match x with | none => [] | some y => syncV y.sb b ++ syncIf y.sc y.c.toNat

/-- Element i of a vector register (R21). -/
def lane (t : Thread) (v : VReg) (i : Nat) : Word := rdReg t (16 * v.toNat + i)
/-- All sixteen lanes. -/
def vec (t : Thread) (v : VReg) : List Word := rdRegs t (16 * v.toNat) 16
/-- Writes the lanes for which a value is given (R91). -/
def wrLanes (t : Thread) (v : VReg) (f : Nat → Option Word) : Thread :=
  (List.range 16).foldl (fun t i => match f i with | none => t | some x => wrReg t (16 * v.toNat + i) x) t
/-- Writes the enabled lanes (R91). The mask is that at issue. -/
def wrEnabled (t : Thread) (v : VReg) (f : Nat → Word) : Thread :=
  wrLanes t v fun i => if laneOn t i then some (f i) else none
/-- Numbers of the enabled lanes, lowest first. -/
def enabled (t : Thread) : List Nat := firsts 16 (laneOn t)

def ShVV.use (o : ShVV) : Use :=
  .perLane (.of o.p (wordsOfChain true o.p o.xt.isSome.toNat) (lanesOf o.b ++ lanesOf o.cNum) (XtV.sync o.xt o.b) (lanesOf o.a))
def ShVU.use (o : ShVU) : Use :=
  .perLane (.of o.p (wordsOfChain true o.p o.sb.isSome.toNat) (lanesOf o.b) (syncV (o.sb.getD false) o.b) (lanesOf o.a))
def ShVS.use (o : ShVS) : Use :=
  .perLane (.of o.p (wordsOfChain true o.p o.sb.isSome.toNat) [o.b.toNat] (sbSync o.sb o.b.toNat) (lanesOf o.a))
def ShSV.use (o : ShSV) : Use :=
  .of o.p (wordsOfChain true o.p o.sb.isSome.toNat) (lanesOf o.b) (syncV (o.sb.getD false) o.b) [o.a.toNat]
def ShSVV.use (o : ShSVV) : Use :=
  .of o.p (wordsOfChain true o.p o.xt.isSome.toNat) (lanesOf o.b ++ lanesOf o.cNum) (XtV.sync o.xt o.b) [o.a.toNat]
def ShSVS.use (o : ShSVS) : Use :=
  .of o.p (wordsOfChain true o.p o.xt.isSome.toNat) (lanesOf o.b ++ [o.cNum]) (Xt.syncVS o.xt o.b) [o.a.toNat]
/-- VINS names every lane of vA and writes the one that its index gives, so it waits for no other (R100). -/
def ShVSS.use (o : ShVSS) : Use :=
  { guard := o.p.guard, words := wordsOfChain true o.p o.xt.isSome.toNat, priv := false
    names := o.b.toNat :: o.cNum :: lanesOf o.a, srcs := [o.b.toNat, o.cNum], sync := Xt.sync o.xt o.b.toNat, dsts := []
    once := false, byLane := false }
def ShVVS.use (o : ShVVS) : Use :=
  .perLane (.of o.p (wordsOfChain true o.p o.xt.isSome.toNat) (lanesOf o.b ++ [o.cNum]) (Xt.syncVS o.xt o.b) (lanesOf o.a))
def ShAmV.use (o : ShAmV) : Use :=
  .of o.p (wordsOfChain true o.p o.sb.isSome.toNat) (lanesOf o.b) (syncV (o.sb.getD false) o.b) []

def ShMV.useLoad (o : ShMV) : Use := .perLane (.of o.p o.words o.mem.srcs o.mem.sync (lanesOf o.a))
def ShMV.useStore (o : ShMV) : Use := .of o.p o.words (lanesOf o.a ++ o.mem.srcs) o.mem.sync []
def ShVG.words (o : ShVG) : Nat := memWords true o.p true o.rlx.isSome o.imm.k
def ShVG.sync (o : ShVG) : List Nat := syncIf o.sb o.b.toNat ++ syncV o.sc o.c
def ShVG.useLoad (o : ShVG) : Use := .perLane (.of o.p o.words (o.b.toNat :: lanesOf o.c) o.sync (lanesOf o.a))
def ShVG.useStore (o : ShVG) : Use := .of o.p o.words (lanesOf o.a ++ o.b.toNat :: lanesOf o.c) o.sync []

/-! ### The other shapes -/

def ShA.use (o : ShA) (srcs dsts : List Nat) : Use := .of o.p (wordsOfChain true o.p 0) srcs [] dsts
def ShB.use (o : ShB) (srcs : List Nat) : Use := .of o.p (wordsOfChain true o.p 0) srcs [] []
def ShAB.use (o : ShAB) (srcs dsts : List Nat) : Use := .of o.p (wordsOfChain true o.p 0) srcs [] dsts
def ShZ.use (o : ShZ) : Use := .of o.p (wordsOfChain true o.p 0) [] [] []
def ShSc.use (o : ShSc) : Use := .of o.p (wordsOfChain true o.p 0) [] [] []
def ShQ.use (o : ShQ) : Use := .of o.p (wordsOfChain true o.p o.k) [] [] []
def ShT4.use (o : ShT4) : Use := .of o.p (wordsOfChain true o.p 0) [] [] []
def ShImm.use (o : ShImm) : Use := .of o.p (wordsOfChain true o.p o.imm.k) [] [] []
def ShSp.use (o : ShSp) (srcs dsts : List Nat) : Use := .of o.p (wordsOfChain true o.p 0) srcs [] dsts
def ShMan.use (o : ShMan) (srcs dsts : List Nat) : Use := .of o.p (wordsOfChain true o.p 0) srcs [] dsts
def ShFB4.use (o : ShFB4) : Use := .of o.p (wordsOfChain true o.p 0) [o.b.toNat] [] []
def ShA4.use (o : ShA4) : Use := .of o.p (wordsOfChain true o.p 0) [] [] [o.a.toNat]
/-- Registers B and C with their synchronised reads, XT always there. -/
def syncBC (b c : Reg) (sb sc : Bool) : List Nat := syncIf sb b.toNat ++ syncIf sc c.toNat

def ShF4.use (o : ShF4) (srcs : List Nat) : Use :=
  .of o.p (wordsOfChain true o.p 1) srcs (syncBC o.b o.c o.sb o.sc) []
def ShMma.use (o : ShMma) : Use :=
  .of o.p (wordsOfChain true o.p 1) [o.b.toNat, o.c.toNat] (syncBC o.b o.c o.sb o.sc) []
def ShCvt.use (o : ShCvt) : Use :=
  .of o.p (wordsOfChain true o.p 1) [o.b.toNat, o.c.toNat] (syncBC o.b o.c o.sb o.sc) []
def ShArd.use (o : ShArd) (dsts : List Nat) : Use :=
  .of o.p (wordsOfChain true o.p 1) [o.c.toNat] (syncIf o.sc o.c.toNat) dsts
def ShR3.use (o : ShR3) (dsts : List Nat) : Use :=
  .of o.p (wordsOfChain true o.p 1) [o.b.toNat, o.c.toNat] (syncBC o.b o.c o.sb o.sc) dsts
def ShSw.use (o : ShSw) (srcs dsts : List Nat) : Use :=
  .of o.p (wordsOfChain true o.p 1) srcs (syncIf o.sc o.c.toNat) dsts
/-- BIND waits for gC, and for gB when it empties it (R188). -/
def ShBind.use (o : ShBind) : Use :=
  { guard := o.p.guard, words := wordsOfChain true o.p 1, priv := false, names := [o.b.toNat, o.c.toNat]
    srcs := o.c.toNat :: syncIf o.sb o.b.toNat, sync := syncBC o.b o.c o.sb o.sc, dsts := [], once := true, byLane := false }
def ShSeg.use (o : ShSeg) : Use :=
  .of o.p (wordsOfChain true o.p 0) ((List.range 4).map fun j => o.b.toNat + j) [] []

end Sys2Proof
end

