-- ==== Sys2Proof/Machine/Flags.lean ====
section
/-! DEFINITION. Every flag computation: the compares' relations (R54, R55, R98), flag logic (R56), the masked write of the
flag word (R57), lane bitmaps (R98), and FPST (R81). -/

namespace Sys2Proof.Machine

/-! ### Relations of two words (R54) -/

def relEq (b c : Word) : Bool := b == c
def relNe (b c : Word) : Bool := b != c
def relLt (b c : Word) : Bool := b.slt c
def relLtu (b c : Word) : Bool := b.ult c
def relLe (b c : Word) : Bool := b.sle c
def relLeu (b c : Word) : Bool := b.ule c

/-! ### Flag logic (R56) -/

def flagAnd (b c : Bool) : Bool := b && c
def flagOr (b c : Bool) : Bool := b || c
def flagXor (b c : Bool) : Bool := b != c

/-- R57: flags where the mask is 0 keep their values; f0 stays 1. -/
def maskedFlags (t : Thread) (m v : Word) : Thread := setFlags t ((t.f &&& ~~~ m) ||| (v &&& m))

/-- R98: the bitmap of the enabled lanes for which a relation holds. -/
def laneBits (t : Thread) (p : Nat → Bool) : Word :=
  (List.range 16).foldl (fun m i => if laneOn t i && p i then m ||| BitVec.twoPow 32 i else m) 0

/-- FPST's flags are sticky (R81). -/
def raise (t : Thread) (fl : BitVec 5) : Thread := { t with fpst := t.fpst ||| fl }

/-- The OR of the flags that the enabled lanes raise (R81). -/
def laneFlags (t : Thread) (f : Nat → BitVec 5) : BitVec 5 :=
  (List.range 16).foldl (fun m i => if laneOn t i then m ||| f i else m) 0

end Sys2Proof.Machine
end

