-- ==== Sys2Proof/Machine/Control.lean ====
section
/-! DEFINITION. Compares and flags (R54 to R57), branches, calls and LOOP (R59 to R62). -/

namespace Sys2Proof.Machine

open Host (Outcome)

/-! ### Compares and flags -/

def execCeq (o : ShK) : State → Outcome State Fault Refusal := runK o relEq
def execCne (o : ShK) : State → Outcome State Fault Refusal := runK o relNe
def execClt (o : ShK) : State → Outcome State Fault Refusal := runK o relLt
def execCltu (o : ShK) : State → Outcome State Fault Refusal := runK o relLtu
def execCle (o : ShK) : State → Outcome State Fault Refusal := runK o relLe
def execCleu (o : ShK) : State → Outcome State Fault Refusal := runK o relLeu

/-- A compare of gA against an immediate writes f1 and no register (R55). -/
def runCmpImm (o : ShI) (f : Word → Word → Bool) : State → Outcome State Fault Refusal :=
  issue { o.use false with dsts := [] } fun x t s =>
    done s x (setFlag t 1 (f (rdReg t o.a.toNat) (wordOf (o.imm.value 5))))
def execCeqi (o : ShI) : State → Outcome State Fault Refusal := runCmpImm o relEq
def execClti (o : ShI) : State → Outcome State Fault Refusal := runCmpImm o relLt

def execFAnd (o : ShL) : State → Outcome State Fault Refusal := runL o flagAnd
def execFOr (o : ShL) : State → Outcome State Fault Refusal := runL o flagOr
def execFXor (o : ShL) : State → Outcome State Fault Refusal := runL o flagXor
def execFNot (o : ShFF) : State → Outcome State Fault Refusal :=
  issue o.use fun x t s => done s x (setFlag t o.fa.toNat (!getFlag t o.fb.toNat))
def execMff (o : ShA) : State → Outcome State Fault Refusal :=
  issue (o.use [] [o.a.toNat]) fun x t s => done s x (wrReg t o.a.toNat t.f)
/-- MTF reads its mask in field A and its value in field B (R57). -/
def execMtf (o : ShU) : State → Outcome State Fault Refusal :=
  issue { o.use true with srcs := [o.a.toNat, o.b.toNat], dsts := [] } fun x t s =>
    done s x (maskedFlags t (rdReg t o.a.toNat) (rdReg t o.b.toNat))

/-! ### Branches and jumps -/

def execBr (o : ShJ) : State → Outcome State Fault Refusal :=
  issue o.use fun x t s => .jump (setThread s x.core x.slot t) (o.imm.target 10 x.ia)
def runBranch (o : ShFB) (on : Bool) : State → Outcome State Fault Refusal :=
  issue o.use fun x t s =>
    .jump (setThread s x.core x.slot t) (if getFlag t o.f.toNat = on then o.imm.target 5 x.ia else x.next)
def execBf (o : ShFB) : State → Outcome State Fault Refusal := runBranch o true
def execBnf (o : ShFB) : State → Outcome State Fault Refusal := runBranch o false
/-- CALL writes the link register g7 (R59). -/
def execCall (o : ShJ) : State → Outcome State Fault Refusal :=
  issue { o.use with names := [7], dsts := [7] } fun x t s =>
    .jump (setThread s x.core x.slot (wrReg t 7 x.next)) (o.imm.target 10 x.ia)
def execJr (o : ShBU) : State → Outcome State Fault Refusal :=
  issue o.use fun x t s => .jump (setThread s x.core x.slot t) (rdReg t o.b.toNat)
def execJalr (o : ShU) : State → Outcome State Fault Refusal :=
  issue (o.use false) fun x t s =>
    .jump (setThread s x.core x.slot (wrReg t o.a.toNat x.next)) (rdReg t o.b.toNat)
/-- LOOP (R62). -/
def execLoop (o : ShI) : State → Outcome State Fault Refusal :=
  issue (o.use true) fun x t s =>
    if rdReg t o.a.toNat = 0 then done s x t
    else
      let v := rdReg t o.a.toNat - 1
      .jump (setThread s x.core x.slot (wrReg t o.a.toNat v)) (if v != 0 then o.imm.target 5 x.ia else x.next)

end Sys2Proof.Machine
end

