-- ==== Sys2Proof/Machine/Fetch.lean ====
section
/-! DEFINITION. Fetching and decoding what a slot issues next (R8, R18, R22, R31, R33, R34), and whether the slot's
cycle is one in which it may issue (R264, R302, R366, R369). -/

namespace Sys2Proof.Machine

/-- The reason one halfword at a code address cannot be fetched, in the order of R18. -/
def fetchFault (t : Thread) (a : Word) : Option Cause :=
  let d := (t.segs[0]?).getD 0
  if a.getLsbD 0 then some .align
  else if a.toNat ≥ 2 ^ 29 || segType d != 1 || !segX d || a.toNat + 1 > segLimit d || segBase d + a.toNat + 1 ≥ 0x4000
  then some .segv
  else none

/-- One halfword of the code store of core `c`'s quad. -/
def fetchHalf (s : State) (c : Nat) (t : Thread) (a : Word) : Half :=
  BitVec.ofNat 16 (loadNat s (.cstore (quadOf c) (segBase ((t.segs[0]?).getD 0) + a.toNat)) 2)

/-- Reads words from `a` on until a base word, at most `n`; or the cause and the address that could not be fetched. -/
def fetchWords (s : State) (c : Nat) (t : Thread) : Nat → Word → Except (Cause × Word) (List Half)
  | 0, _ => .ok []
  | n + 1, a =>
    match fetchFault t a with
    | some f => .error (f, a)
    | none =>
      if isPrefixWord (fetchHalf s c t a) then
        match fetchWords s c t n (a + 2) with
        | .error e => .error e
        | .ok ws => .ok (fetchHalf s c t a :: ws)
      else .ok [fetchHalf s c t a]

/-- What a slot's cycle finds at the PC: an instruction, or the trap that fetch or decoding raises (R33). -/
inductive Fetched where
  | instr (i : Instr)
  | trap (x : TrapInfo)
deriving DecidableEq, Repr

def fetchInstr (s : State) (c : Nat) (t : Thread) : Fetched :=
  match fetchWords s c t 5 t.pc with
  | .error (f, a) => .trap ⟨f, 0, a, t.pc, false, 0⟩
  | .ok ws =>
    match decode ws with
    | .ok (i, _) => .instr i
    | .error _ => .trap ⟨.illegal, 0, 0, t.pc, false, 0⟩

/-- Cycles that derating withholds (R302). -/
def deratedOff (s : State) (c : Nat) : Bool :=
  healthOf s c = .derated && ((getCore s c).cycle % 16 + (getCore s c).cycle / 16) % 4 = 3

/-- The eighths of its cycles that a core loses: the package's, or those of its die's own heat (R369). -/
def lostEighths (s : State) (c : Nat) : Nat := max s.cc.eighths ((s.cc.heat[dieOf c]?).getD 0)

/-- Cycles that the power limit withholds from a core and its engines (R369). -/
def powerOff (s : State) (c : Nat) : Bool :=
  ((getCore s c).cycle % 16 + (getCore s c).cycle / 16) % 8 < lostEighths s c

/-- R366: a breakpoint names this first word in this slot; a pair stands at its leading thread's, by either slot. -/
def atBreakpoint (s : State) (c i : Nat) (t : Thread) : Bool :=
  t.role != .trailing &&
    (getCore s c).breakpoints.any fun b => b.1 = t.pc && (b.2.getLsbD i || (t.role = .leading && b.2.getLsbD (i + 7)))

/-- The thread that may issue in a core's present cycle: a released holder from the cycle after its EXPIRY on (R156), and
none after a fatal error or in recovery (R357, R361). Slot 0's installed runtime issues nothing of its own (log entry 3). -/
def issuer (s : State) (c : Nat) : Option Thread :=
  match threadAt s c (getCore s c).turnSlot with
  | none => none
  | some t =>
    if !s.cc.fatal && !s.cc.recovery && t.readyAt ≤ (getCore s c).cycle && presentCore s c && !(getCore s c).halted && !t.stopped && !t.stopReq && !t.hold && !t.holdReq && t.pend.isNone && !t.killed &&
        t.kind != .runtime && !deratedOff s c && !powerOff s c &&
        (t.lifted || !atBreakpoint s c (getCore s c).turnSlot t)
    then some t else none

end Sys2Proof.Machine
end

