-- ==== Sys2Proof/Machine/Access.lean ====
section
/-! DEFINITION. One access of a thread from its address to its bank: where it leads (R66, R148, R149, R167, R262, R309),
migration of a convoy (R150), issue of default and relaxed accesses (R20, R74, R169, R171, R310), and the accesses of a
redundant pair (R286, R287). -/

namespace Sys2Proof.Machine

/-! ### Where an address leads -/

/-- Where an access stands after resolution and translation; with the marked tiles that its chase has passed. -/
inductive Loc where
  | trap (c : Cause) (passed : List Place)
  | page (kframe : Bool) (va : Nat) (passed : List Place)
  | miss (va : Nat)
  | away (owner : Nat)
  | here (p : Place) (va : Option Nat) (passed : List Place)
  | remote (p : Place)
deriving DecidableEq, Repr

/-- Resolution, then translation with its chase. A walk that ended without a leaf is PAGE at the retry (R259, R260). -/
def locate (s : State) (c : Nat) (t : Thread) (sel : Nat) (off : Int) (n al : Nat) (need : Need) : Loc :=
  match resolve s c ((t.segs[sel]?).getD 0) off n al need with
  | .error e => .trap e []
  | .ok (.at p) => .here p none []
  | .ok (.remote rc la) => .remote (.lstore rc la)
  | .ok (.away owner _) => .away owner
  | .ok (.virt va) =>
    match chase s (quadOf c) t.asn need 3 va [] with
    | .ok p v passed =>
      if behindMiss s c t.asn t.missAt va then .miss va
      else if behindMiss s c t.asn t.missAt v then .miss v
      else .here p (some v) passed
    | .miss v => if t.faultPage = some (v / 2 ^ 16) then .page false v [] else .miss v
    | .deny kf v passed => .page kf v passed
    | .tooFar passed => .trap .chase passed

/-- The trap of an access that its checks refuse; the requests answered with a mark have been made (R328). -/
def locTrap (x : Ctx) (cz : Cause) (kno : Nat) (tval : Word) (passed : List Place) : Res :=
  if passed.isEmpty then .trap cz kno tval
  else .trapX ⟨cz, kno, tval, x.ia, false, 0⟩ fun s => countMarks s x.core passed

/-- The PAGE trap of an access. -/
def pageTrap (x : Ctx) (kno : Nat) (tval : Word) (kf : Bool) (va : Nat) (passed : List Place) : Res :=
  .trapX ⟨.page, kno, tval, x.ia, kf, va⟩ fun s => countMarks s x.core passed

/-- A miss: the thread waits for the page's walk, and an older walk's failure tells it nothing more (R259, R260). -/
def waitMiss (x : Ctx) (t : Thread) (va : Nat) : Res :=
  .wait .waitMem fun s =>
    openMiss (modThread s x.core x.slot fun t => { t with faultPage := none }) x.core x.slot t.asn va

/-! ### Migration (R149, R150, R152) -/

/-- The launch a thread belongs to. -/
def launchOf (s : State) (lid : Word) : Option Launch := s.front.launches.find? fun l => l.lid = lid
def modLaunch (s : State) (lid : Word) (f : Launch → Launch) : State :=
  { s with front := { s.front with launches := s.front.launches.map fun l => if l.lid = lid then f l else l } }

/-- Fields of a launch descriptor (R120): `n` bytes at an offset. -/
def descField (d off n : Nat) : Nat := d / 2 ^ (8 * off) % 2 ^ (8 * n)
def launchFirst (l : Launch) : Nat := descField l.desc 0x20 4
def launchCount (l : Launch) : Nat := descField l.desc 0x24 4
/-- A core of the launch's range. -/
def inRange (l : Launch) (c : Nat) : Bool := launchFirst l ≤ c && c < launchFirst l + launchCount l

/-- Copy operations of a slot that have not ended. -/
def ownCopies (s : State) (c i : Nat) : Bool :=
  ((getCore s c).copyQ ++ (getCore s c).copyRun).any fun o => o.slot = i && !o.gone

/-- Matrix commands of a slot that have not completed (R240). -/
def ownMatrix (s : State) (c i : Nat) : Bool :=
  ((getCore s c).matQ ++ (getCore s c).matRun.toList).any fun m => m.slot = i && !m.gone

/-- Steps 2 to 4 of R150: the checks, the wait for the convoy's accesses and copies, and the request for a place. -/
def migrate (x : Ctx) (t : Thread) (s : State) (owner : Nat) (kno : Nat) (tval : Word) : Res :=
  if !t.convoy then .trap .segv kno tval
  else if !presentCore s owner || !((launchOf s t.lid).any fun l => inRange l owner) then .trap .convoy 0 tval
  else if (s.resvs.any fun r => r.core = x.core && r.slot = x.slot) || !t.watches.isEmpty then .trap .convoy 0 tval
  else if !allPerformed s x.core x.slot 4 || ownCopies s x.core x.slot || ownMatrix s x.core x.slot then
    .wait .waitMem id
  else .hold s (.migrate owner false) .waitMsg 0

/-! ### Outstanding accesses -/

/-- A default access waits for every relaxed access and for the store stream's writes; a relaxed one for the limit of
four (R169, R189). -/
def mayIssue (s : State) (x : Ctx) (group : Option (BitVec 3)) : Bool :=
  match group with
  | none => (ownRelaxed s x.core x.slot).isEmpty && streamIdle s x.core x.slot
  | some _ => (ownRelaxed s x.core x.slot).length < 4

/-- Word 0 of a message (R173). -/
def msgWord0 (chan slot core : Nat) : Word := BitVec.ofNat 32 (chan * 2 ^ 20 + slot * 2 ^ 16 + core)

/-- Words that the spec does not give, by a number that tells them apart (log entry 9). -/
def freeWords (n k : Nat) : List Word := (List.range k).map fun j => Config.freeWord (8 * n + j)

/-- A request on channel 0 to another core (R171); the layout of its payload is not given. -/
def remoteMsg (s : State) (a : Access) : Msg :=
  { id := s.serial, srcCore := a.core, srcSlot := a.slot, dst := remoteCore a, chan := 0
    words := msgWord0 0 a.slot a.core :: freeWords s.serial 7, held := none, about := some a.id, inHand := false
    after := 0 }

def newAccess (s : State) (x : Ctx) (t : Thread) (kind : AccKind) (parts : List Part) (group : Option (BitVec 3))
    (named data2 : Word) (rewrite : Option (Nat × Word)) (remote each : Bool) : Access :=
  { id := s.serial, core := x.core, slot := x.slot, kind := kind, parts := parts, group := group, passed := [],
    stage := .going, seq := 0, data2 := data2, named := named, asn := t.asn, rewrite := rewrite, result := [],
    okay := true, remote := remote, via := .plain, each := each, left := none, trail := []
    vas := [] }

def addFlight (s : State) (a : Access) : State := { s with flight := s.flight ++ [a], serial := s.serial + 1 }

/-- The request message of a REMOTE access in flight goes out. -/
def sendRequest (s : State) (a : Access) : State :=
  { setFlight s { a with stage := .remote } with net := s.net ++ [remoteMsg s a], serial := s.serial + 1 }

/-- A REMOTE access issues: its request goes out once the order of its thread lets it. -/
def sendRemote (s : State) (a : Access) : State :=
  if sendFree s a then sendRequest (addFlight s a) a else addFlight s a

/-- The requests of an access that ends in an error at its bank, and of the marks on its way there (R328). -/
def countIssue (s : State) (a : Access) : State := countArrival (countMarks s a.core a.trail) a

/-- A default access performs at its bank before its thread issues again (R20): at once where nothing holds it, else
when its turn comes; one to another package goes out on its device link first (R333; log entry 14). What stands before it on its path arrives first (R194). -/
def performNow (x : Ctx) (s : State) (a : Access) : Res :=
  let ps := a.parts.map (·.place)
  let s0 := settleEarlier s x.core ps (accWords a)
  if heldUpByMove s0 a || peerAccess a || pathHeld s0 x.core ps (accWords a) then .hold (addFlight s0 a) (.access a.id) .waitMem 0
  else
    let s1 := countArrival s0 a
    match serve s1 a with
    | .done s' vals okay => .ok (afterServe (modThread s' x.core x.slot (takeVals a vals okay)) a)
    | .queue =>
      .hold (addFlight s1 { a with stage := .queued, seq := s1.serial }) (.access a.id) .waitMem 0
    | .list =>
      .hold (addFlight s1 { a with stage := .listed, seq := s1.serial }) (.access a.id) .waitMem 0
    | .bad =>
      .trapX ⟨.memerr, 0, badNamed s1 a, x.ia, false, 0⟩ fun s => consumed (countIssue s a) x.core

/-- The registers that a relaxed access leaves empty until it performs (R14). -/
def destRegs (a : Access) : List Nat := if isLoadKind a.kind then a.parts.map (·.reg) else []

/-- A relaxed access issues and is done with its instruction; its destinations are empty (R74, R169). -/
def performLater (x : Ctx) (s : State) (a : Access) : Res :=
  .ok (addFlight (modThread s x.core x.slot fun t => emptyRegs t (destRegs a)) a)

/-- Issues an access of a thread that stands alone. -/
def issueAccess (x : Ctx) (s : State) (a : Access) : Res :=
  match a.group with
  | none => if a.remote then .hold (sendRemote s a) (.access a.id) .waitMem 0 else performNow x s a
  | some _ =>
    if a.remote then .ok (sendRemote (modThread s x.core x.slot fun t => emptyRegs t (destRegs a)) a)
    else performLater x s a

/-! ### Values and stores of a pair (R286, R287; log entry 15) -/

/-- How a pair's thread comes by values from outside its registers. -/
inductive Took where
  | vals (p : Pair) (vs : List Word) (rewrite : Option (Nat × Word))
  /-- the entry is not there yet, or a stream's word comes first -/
  | wait
  /-- the queue has no room for the value -/
  | full
  | differ

/-- One value by its address and size. The leading thread's value enters the queue, or in a replay comes from it; the
trailing thread takes the next entry and compares address and size. -/
def takeOne (p : Pair) (lead : Bool) (addr size : Nat) (fresh : List Word) (rw : Option (Nat × Word)) : Took :=
  match p.lvq[if lead then p.leadAt else p.trailAt]? with
  | some e =>
    if e.stream.isSome then .wait
    else if e.addr = addr && e.size = size then
      .vals (if lead then { p with leadAt := p.leadAt + 1 } else { p with trailAt := p.trailAt + 1 }) e.value e.rewrite
    else .differ
  | none =>
    if !lead then .wait
    else if p.lvq.length ≥ 64 then .full
    else .vals { p with lvq := p.lvq ++ [⟨addr, size, fresh, none, rw⟩], leadAt := p.leadAt + 1 } fresh rw

/-- Several values, each an entry of its own; the rewrite of a chase stands with the first. -/
def takeMany (lead : Bool) : List (Nat × Nat × List Word) → Option (Nat × Word) → Pair → Took
  | [], _, p => .vals p [] none
  | k :: ks, rw, p =>
    match takeOne p lead k.1 k.2.1 k.2.2 rw with
    | .vals p1 vs r =>
      match takeMany lead ks none p1 with
      | .vals p2 ws _ => .vals p2 (vs ++ ws) r
      | e => e
    | e => e

/-- The answer of an operation that takes values from outside (R286): a thread alone takes what is there. -/
def takeOutside (s : State) (x : Ctx) (t : Thread) (keys : List (Nat × Nat × List Word)) (rw : Option (Nat × Word))
    (k : State → List Word → Option (Nat × Word) → Res) : Res :=
  match t.role, pairOf s x.core x.slot with
  | .alone, _ => k s (keys.flatMap (·.2.2)) rw
  | _, none => .wait .waitMem id
  | r, some p =>
    match takeMany (r = .leading) keys rw p with
    | .vals p' vs r => k (setPair s x.core p') vs r
    | .wait => .wait .waitMem id
    | .full => .wait .waitMem fun s => setPair s x.core { p with full := true }
    | .differ => .left (mismatch s x.core p x.ia)

/-- The values of an access as the queue names them: one for each word where each is a request, else one. -/
def accKeys (a : Access) (vals : List Word) : List (Nat × Nat × List Word) :=
  if a.each then (a.parts.zip vals).map fun q => (q.1.named.toNat, q.1.size, [q.2])
  else [(a.named.toNat, a.parts.foldl (fun n q => n + q.size) 0, vals)]

/-- A pair's access meets an uncorrectable error in storage: a load in a word whose bytes it does not take from the
comparator, a store of less than a word in one that the comparator does not hold whole (R68, R287). -/
def pairBad (s : State) (p : Pair) (a : Access) : Option Part :=
  a.parts.find? fun q =>
    anyBad s q.place q.size &&
      if a.kind = .store then q.size < 4 && !cmpCovers p (flat q.place / 4 * 4) 4
      else !cmpCovers p (flat q.place) q.size

/-- A load of the leading thread: from the log in a replay, else from its comparator and from storage (R286, R287, R289);
one that leaves the core or the package is under way first (R171, R333). -/
def leadLoad (x : Ctx) (s : State) (t : Thread) (p : Pair) (a : Access) : Res :=
  let give (s : State) (vals : List Word) : Res :=
    takeOutside s x t (accKeys a vals) (if a.group.isNone then a.rewrite else none) fun s' vs rw =>
      .ok (modThread s' x.core x.slot (takeVals { a with group := none, rewrite := rw } vs true))
  if p.leadAt < p.lvq.length then give s (a.parts.map fun _ => 0)
  else if a.remote || peerAccess a then
    let b := { a with via := .lead, group := none }
    if p.lvq.length ≥ 64 then .wait .waitMem fun s => setPair s x.core { p with full := true }
    else .hold (if a.remote then sendRemote s b else addFlight s b) (.access a.id) .waitMem 0
  else
    let ps := a.parts.map (·.place)
    let s0 := settleEarlier s x.core ps (accWords a)
    if pathHeld s0 x.core ps (accWords a) then .wait .waitMem id
    else
      match pairBad s0 p a with
      | some q =>
        .trapX ⟨.memerr, 0, errNamed a q, x.ia, false, 0⟩ fun s => consumed (countIssue s a) x.core
      | none => give (countArrival s0 a) (a.parts.map (loadPart (overlay s0 p)))

/-- A store as the comparator keeps it: the stored bytes only. -/
def cmpEntryOf (a : Access) (stream : Bool) : CmpEntry :=
  { id := a.id, parts := a.parts.map fun q => { q with data := BitVec.ofNat 32 (q.data.toNat % 2 ^ (8 * q.size)) }
    matched := false, asn := a.asn, remote := a.remote, stream := stream, each := a.each, rewrite := a.rewrite
    vas := a.vas }

/-- The rewrite of a chase, in a thread. -/
def takeRewrite (rw : Option (Nat × Word)) (t : Thread) : Thread :=
  match rw with
  | none => t
  | some (r, v) => wrReg t r v

/-- A store of the leading thread enters the comparator (R287). -/
def leadStore (x : Ctx) (s : State) (p : Pair) (a : Access) : Res :=
  match pairBad s p a with
  | some q => .trapX ⟨.memerr, 0, errNamed a q, x.ia, false, 0⟩ fun s => consumed s x.core
  | none =>
    .ok (setPair (modThread { s with serial := s.serial + 1 } x.core x.slot (takeRewrite (if a.group.isNone then a.rewrite else none))) x.core
      { p with cmp := p.cmp ++ [cmpEntryOf a false] })

/-- Address, size and data of two stores are the same. -/
def sameStore (e w : CmpEntry) : Bool :=
  e.parts.map (fun q => (q.named, q.size, q.data)) = w.parts.map fun q => (q.named, q.size, q.data)

/-- The first entry that is not matched yet is matched. -/
def matchFirst : List CmpEntry → List CmpEntry
  | [] => []
  | e :: es => if e.matched then e :: matchFirst es else { e with matched := true } :: es

/-- A store of the trailing thread against the comparator's first entry that is not matched (R287). -/
def trailStore (x : Ctx) (s : State) (p : Pair) (a : Access) : Res :=
  match p.unmatched with
  | none => .left (mismatch s x.core p x.ia)
  | some e =>
    if e.stream then .wait .waitMem id
    else if sameStore e (cmpEntryOf a false) then
      .ok (setPair (modThread s x.core x.slot (takeRewrite (if a.group.isNone then e.rewrite else none))) x.core
        { p with cmp := matchFirst p.cmp })
    else .left (mismatch s x.core p x.ia)

/-- A load of the trailing thread, from the queue (R286). -/
def trailLoad (x : Ctx) (s : State) (t : Thread) (a : Access) : Res :=
  takeOutside s x t (accKeys a (a.parts.map fun _ => 0)) none fun s' vs rw =>
    .ok (modThread s' x.core x.slot (takeVals { a with group := none, rewrite := rw } vs true))

/-- An access of any thread, once its place is known; the trailing thread's needs none. -/
def access (x : Ctx) (t : Thread) (s : State) (a : Access) : Res :=
  match t.role, pairOf s x.core x.slot with
  | .alone, _ => issueAccess x s a
  | _, none => .wait .waitMem id
  | .leading, some p => if a.kind = .store then leadStore x s p a else leadLoad x s t p a
  | .trailing, some p => if a.kind = .store then trailStore x s p a else trailLoad x s t a

/-! ### From a segmented address to an access -/

/-- R310: the base register after a chase. -/
def rewriteOf (t : Thread) (base : Option (Nat × Bool)) (dsts : List Nat) (sel : Nat) (delta : Int) :
    Option (Nat × Word) :=
  match base with
  | none => none
  | some (b, sb) =>
    let d := (t.segs[sel]?).getD 0
    let o : Int := offOf (rdReg t b) + delta
    if delta != 0 && b != 0 && !sb && segType d = 5 && segM d && !dsts.contains b && 0 ≤ o && o ≤ segLimit d then
      some (b, BitVec.ofNat 32 (sel * 2 ^ 29 + o.toNat))
    else none

/-- Words whose chase has followed some marks. -/
def hopped (n : Nat) (ps : List Part) : List Part := ps.map fun p => { p with hops := n }

/-- The virtual address that a GLOBAL address names, before any chase. -/
def globalVa (t : Thread) (sel : Nat) (off : Int) : Option Nat :=
  let d := (t.segs[sel]?).getD 0
  if segType d = 5 then some (segBase d + off).toNat else none

/-- Everything up to the access itself: what may issue, the checks in their order, the marks counted. `base` is the base
register and its sync bit where a chase may rewrite it. The trailing thread of a pair checks its segment and reaches
nothing else (R286); a leading thread that replays a load translates its address anew before it takes the logged value
(DESIGN CHOICE, log entry 81). -/
def memAccess (x : Ctx) (t : Thread) (s : State) (sel : Nat) (off : Int) (n al : Nat) (need : Need) (kno : Nat)
    (group : Option (BitVec 3)) (base : Option (Nat × Bool)) (dsts : List Nat) (kind : AccKind) (data2 : Word)
    (parts : Place → Option Nat → Word → List Part) : Res :=
  let named := namedAddr sel off
  if !mayIssue s x group then .wait .waitMem id
  else if t.role = .trailing then
    match resolve s x.core ((t.segs[sel]?).getD 0) off n al need with
    | .error c => .trap c kno named
    | .ok _ =>
      access x t s (newAccess s x t kind (parts (.host 0) none named) group named data2 none false false)
  else
    match locate s x.core t sel off n al need with
    | .trap c passed => locTrap x c kno named passed
    | .page kf va passed => pageTrap x kno named kf va passed
    | .miss va => waitMiss x t va
    | .away owner => migrate x t s owner kno named
    | .remote p => access x t s (newAccess s x t kind (parts p none named) group named data2 none true false)
    | .here p va passed =>
      let s1 := countMarks s x.core passed
      let delta : Int := (va.getD 0 : Int) - (segBase ((t.segs[sel]?).getD 0) + off)
      access x t s1
        { newAccess s1 x t kind (hopped passed.length (parts p va named)) group named data2
            (if passed.isEmpty then none else rewriteOf t base dsts sel delta) false false with
          trail := passed, vas := throughVas s1 x.core t.asn (globalVa t sel off) passed }

/-- One part: a register, its place, its size. -/
def onePart (reg size : Nat) (data : Word) (signed : Bool) (p : Place) (va : Option Nat) (named : Word) : List Part :=
  [⟨reg, p, size, data, signed, va, named, 0⟩]

/-- The enabled lanes of a 64-byte access (R73). -/
def laneParts (t : Thread) (v : VReg) (p : Place) (va : Option Nat) (named : Word) : List Part :=
  (enabled t).map fun i =>
    ⟨16 * v.toNat + i, p.shift (4 * i), 4, lane t v i, false, va.map (· + 4 * i), named + BitVec.ofNat 32 (4 * i), 0⟩

/-- A load of one register through a memory operand. -/
def loadOp (o : ShM) (s : Nat) (signed : Bool) (x : Ctx) (t : Thread) (st : State) : Res :=
  memAccess x t st (o.mem.sel t) (o.mem.off t s) s s needR 1 o.rlx (some (o.b.toNat, o.mem.sb)) [o.a.toNat] .load 0
    (onePart o.a.toNat s 0 signed)

/-- A store of one register. -/
def storeOp (o : ShM) (s : Nat) (x : Ctx) (t : Thread) (st : State) : Res :=
  memAccess x t st (o.mem.sel t) (o.mem.off t s) s s needW 2 o.rlx (some (o.b.toNat, o.mem.sb)) [] .store 0
    (onePart 0 s (rdReg t o.a.toNat) false)

/-! ### Gather and scatter (R102, R103) -/

/-- The offset of lane i. -/
def lanOff (o : ShVG) (t : Thread) (i : Nat) : Int :=
  offOf (rdReg t o.b.toNat) + o.imm.value 0 * 4 + (lane t o.c i).toInt * 4

/-- The segmented address of lane i. -/
def lanNamed (o : ShVG) (t : Thread) (i : Nat) : Word := namedAddr (selOf (rdReg t o.b.toNat)) (lanOff o t i)

/-- Where a lane leads; for a trailing thread its segment's answer only. -/
def lanLoc (s : State) (c : Nat) (t : Thread) (o : ShVG) (need : Need) (i : Nat) : Loc :=
  let sel := selOf (rdReg t o.b.toNat)
  match t.role with
  | .trailing =>
    match resolve s c ((t.segs[sel]?).getD 0) (lanOff o t i) 4 4 need with
    | .error e => .trap e []
    | .ok _ => .here (.host 0) none []
  | _ => locate s c t sel (lanOff o t i) 4 4 need

/-- Where the lanes lead, in ascending order; the first that is not at its place answers for all. -/
def lanePlaces (s : State) (c : Nat) (t : Thread) (o : ShVG) (need : Need) :
    List Nat → Except (Nat × Loc) (List (Nat × Place × Option Nat × List Place))
  | [] => .ok []
  | i :: is =>
    match lanLoc s c t o need i with
    | .here p va passed =>
      match lanePlaces s c t o need is with
      | .ok l => .ok ((i, p, va, passed) :: l)
      | .error e => .error e
    | l => .error (i, l)

def vecAccess (o : ShVG) (kind : AccKind) (need : Need) (kno : Nat) (x : Ctx) (t : Thread) (s : State) : Res :=
  let ty := segType ((t.segs[selOf (rdReg t o.b.toNat)]?).getD 0)
  if ty = 6 || ty = 7 then .trap .segv kno (rdReg t o.b.toNat)
  else if !mayIssue s x o.rlx then .wait .waitMem id
  else
    match lanePlaces s x.core t o need (enabled t) with
    | .error (i, .trap c passed) => locTrap x c kno (lanNamed o t i) passed
    | .error (i, .page kf va passed) => pageTrap x kno (lanNamed o t i) kf va passed
    | .error (_, .miss va) => waitMiss x t va
    | .error (i, _) => .trap .segv kno (lanNamed o t i)
    | .ok l =>
      let s1 := countMarks s x.core (l.flatMap (·.2.2.2))
      access x t s1
        { newAccess s1 x t kind
            (l.map fun q =>
              ⟨16 * o.a.toNat + q.1, q.2.1, 4, lane t o.a q.1, false, q.2.2.1, lanNamed o t q.1, q.2.2.2.length⟩) o.rlx
            (match l with | q :: _ => lanNamed o t q.1 | [] => 0) 0 none false true with
          trail := l.flatMap (·.2.2.2)
          vas := l.flatMap fun q =>
            throughVas s1 x.core t.asn (globalVa t (selOf (rdReg t o.b.toNat)) (lanOff o t q.1)) q.2.2.2 }

end Sys2Proof.Machine
end

