-- ==== Sys2Proof/Machine/Records.lean ====
section
/-! DEFINITION. Records and ranges that an instruction reads or writes whole (R136, R140, R159, R188, R213, R276, R282,
R283), and translation for engines and the front end, which walk as they go (R216, R238, R260). -/

namespace Sys2Proof.Machine

/-- Bytes of piece `k` of a range of `n` bytes in pieces of 64. -/
def pieceLen (n k : Nat) : Nat := min 64 (n - 64 * k)
def pieceCount (n : Nat) : Nat := (n + 63) / 64

/-- The pieces of a range of virtual addresses that each lie in one aligned 64 bytes: offset in the range and length. -/
def alignedPieces (va n : Nat) : List (Nat × Nat) :=
  (List.range ((va % 64 + n + 63) / 64)).map fun k =>
    (max va (va / 64 * 64 + 64 * k) - va, min (va + n) (va / 64 * 64 + 64 * (k + 1)) - max va (va / 64 * 64 + 64 * k))

/-- The places of a range's 64-byte pieces: the whole range is resolved first, then a GLOBAL one translates piece by
piece. -/
def locatePieces (s : State) (c : Nat) (t : Thread) (sel : Nat) (off : Int) (n : Nat) (need : Need) :
    List Nat → Except (Int × Loc) (List (Place × List Place))
  | [] => .ok []
  | k :: ks =>
    match locate s c t sel (off + 64 * k) (pieceLen n k) 4 need with
    | .here p _ passed =>
      match locatePieces s c t sel off n need ks with
      | .ok l => .ok ((p, passed) :: l)
      | .error e => .error e
    | l => .error (off + 64 * k, l)

def locateRange (s : State) (c : Nat) (t : Thread) (sel : Nat) (off : Int) (n al : Nat) (need : Need) :
    Except (Int × Loc) (List (Place × List Place)) :=
  match resolve s c ((t.segs[sel]?).getD 0) off n al need with
  | .error e => .error (off, .trap e [])
  | .ok (.away owner _) => .error (off, .away owner)
  | .ok _ => locatePieces s c t sel off n need (List.range (pieceCount n))

/-- What a failed range makes of the instruction: in a convoy, a SPREAD word of another core makes it migrate (R149,
R150). -/
def rangeStop (x : Ctx) (t : Thread) (s : State) (kno sel : Nat) (e : Int × Loc) : Res :=
  match e.2 with
  | .trap c passed => locTrap x c kno (namedAddr sel e.1) passed
  | .page kf va passed => pageTrap x kno (namedAddr sel e.1) kf va passed
  | .miss va => waitMiss x t va
  | .away owner => migrate x t s owner kno (namedAddr sel e.1)
  | _ => .trap .segv kno (namedAddr sel e.1)

/-- The words that the pieces of a range touch. -/
def pieceWords (ps : List Place) : List Nat := ps.flatMap fun p => wordsOf p 64

/-- The offset in a range of its first word that holds an uncorrectable error. -/
def badOffset (s : State) (ps : List Place) (n : Nat) : Option Nat :=
  if s.bads.isEmpty then none
  else ((List.range (n / 4)).map (4 * ·)).find? fun j => anyBad s (((ps[j / 64]?).getD (.host 0)).shift (j % 64)) 4

def Place.isPeer (p : Place) : Bool := match p with | .peer .. => true | _ => false

/-- The requests by which a thread reaches places in another package, one for each place. -/
def probeOf (s : State) (x : Ctx) (t : Thread) (named : Word) (ps : List Place) (trail : List Place) : Access :=
  { newAccess s x t .load (ps.map fun p => ⟨0, p, 4, 0, false, none, named, 0⟩) none named 0 none false true with
    via := .probe, trail := trail }

/-- The thread's requests of this kind. -/
def ownProbe (s : State) (x : Ctx) : Option Access :=
  s.flight.find? fun f => f.core = x.core && f.slot = x.slot && f.via = .probe
def dropProbe (s : State) (x : Ctx) : State :=
  { s with flight := s.flight.filter fun f => !(f.core = x.core && f.slot = x.slot && f.via = .probe) }

/-- An instruction that reads or writes several places at once: where some lie in another package, its requests go out on
the device link first, and it goes on once they have been delivered (R333; log entry 14). `counted` counts what it touches
where nothing has counted yet (R328). -/
def reaching (x : Ctx) (t : Thread) (s : State) (named : Word) (ps : List (Place × List Place))
    (k : State → (State → State) → Res) : Res :=
  let counted (s : State) : State := ps.foldl (fun s p => countAll s x.core p.1 p.2) s
  if !ps.any fun p => p.1.isPeer then k (counted s) counted
  else
    match ownProbe s x with
    | some f =>
      if f.parts.map (·.place) = ps.map (·.1) then
        (if f.stage = .replied then k (dropProbe s x) fun s => dropProbe s x else .wait .waitMem id)
      else .wait .waitMem fun s => dropProbe s x
    | none =>
      .wait .waitMem fun s =>
        addFlight (countMarks s x.core (ps.flatMap (·.2))) (probeOf s x t named (ps.map (·.1)) (ps.flatMap (·.2)))

/-- A default access to the pieces of a range, as they were found: it waits as one does, and goes on with their places. -/
def piecesOp (x : Ctx) (t : Thread) (s : State) (sel : Nat) (off : Int) (n : Nat) (need : Need) (kno : Nat)
    (found : Except (Int × Loc) (List (Place × List Place))) (k : State → List Place → Res) : Res :=
  if !mayIssue s x none then .wait .waitMem id
  else
    match found with
    | .error e => rangeStop x t s kno sel e
    | .ok ps =>
      reaching x t s (namedAddr sel off) ps fun s1 counted =>
        let places := ps.map (·.1)
        let s2 := settleEarlier s1 x.core places (pieceWords places)
        if pathHeld s2 x.core places (pieceWords places) then .wait .waitMem id
        else
          match if need.r then badOffset s2 places n else none with
          | some j => .trapX ⟨.memerr, 0, namedAddr sel (off + j), x.ia, false, 0⟩ fun s => consumed (counted s) x.core
          | none => k s2 places

/-- A default access to a range that is resolved whole. -/
def rangeOp (x : Ctx) (t : Thread) (s : State) (sel : Nat) (off : Int) (n al : Nat) (need : Need) (kno : Nat)
    (k : State → List Place → Res) : Res :=
  piecesOp x t s sel off n need kno (locateRange s x.core t sel off n al need) k

/-- The two halves of a 128-byte range, each resolved as a 64-byte load (R140). -/
def locateHalves (s : State) (c : Nat) (t : Thread) (sel : Nat) (off : Int) (need : Need) :
    Except (Int × Loc) (List (Place × List Place)) :=
  match locateRange s c t sel off 64 64 need with
  | .error e => .error e
  | .ok l =>
    match locateRange s c t sel (off + 64) 64 64 need with
    | .error e => .error e
    | .ok r => .ok (l ++ r)

/-- The words of a range, in order. -/
def rangeWords (s : State) (ps : List Place) (n : Nat) : List Word :=
  (List.range (n / 4)).map fun j => loadWord s (((ps[j / 16]?).getD (.host 0)).shift (4 * (j % 16)))

/-- Writes words over a range, as default stores. -/
def writeRange (s : State) (ps : List Place) (ws : List Word) : State :=
  ((List.range ws.length).zip ws).foldl
    (fun s jw => storeWord s (((ps[jw.1 / 16]?).getD (.host 0)).shift (4 * (jw.1 % 16))) jw.2) s

/-- Stores to a range's words would have to wait for a holder's reservation or a jig (R179, R307). -/
def rangeHeld (s : State) (c i : Nat) (ps : List Place) : Bool :=
  ps.any fun p => tileMoving s p || (wordsOf p 64).any fun w =>
    heldByOther s w c i || s.flight.any fun f => f.stage = .queued && (accWords f).contains w

/-- The little-endian number of a list of words. -/
def numOf (ws : List Word) : Nat := wordsNat ws
/-- Word `i` of a record. -/
def wordAt (ws : List Word) (i : Nat) : Word := (ws[i]?).getD 0
/-- Bytes `off` to `off + n - 1` of a record, as a number. -/
def fieldAt (ws : List Word) (off n : Nat) : Nat := descField (wordsNat ws) off n

/-! ### Engines, streams and the front end -/

/-- How an engine's translation of one word or piece ends. -/
inductive EngLoc where
  | at (s : State) (p : Place)
  /-- a request that waits in the miss table stands before it (R194) -/
  | held
  /-- no leaf, no right, a K frame, or a fourth mark (R216, R311) -/
  | fault (s : State) (kframe : Bool) (va : Nat)

/-- Translates for an engine of core `c`: walks are made on the spot, and requests and marks are counted where `fresh`: of
several words of a 64-byte piece at the first (R328). Each takes the line back from the host (R336). -/
def engineXlate (s : State) (c asn : Nat) (need : Need) (va : Nat) (fresh : Bool) : EngLoc :=
  let s1 := walkAll c asn need 5 s va
  match chase s1 (quadOf c) asn need 3 va [] with
  | .ok p v passed =>
    if behindMiss s1 c asn none va || behindMiss s1 c asn none v then .held
    else .at (if fresh then countAll s1 c p passed else backInvalidate s1 p) p
  | .miss v => .fault s1 false v
  | .deny kf v passed => .fault (countMarks s1 c passed) kf v
  | .tooFar passed => .fault (countMarks s1 c passed) false va

/-- The front end's translation, which stands at no quad: a walk of the tables with the leaf's rights, no mark followed.
A K frame is what it cannot reach; HOST and PEER pages it reaches (R130; DESIGN CHOICE, log entry 71). -/
def frontXlate (s : State) (asn va : Nat) (w : Bool) : Option Place :=
  match if va < 2 ^ 48 then (walk s asn va).1 else none with
  | none => none
  | some (_, e, big) =>
    if kernelFrame s e big va || (w && !leafW e) || (!w && !leafR e) then none else some (leafByte s e big va)

/-- Words that the front end reads from a virtual address, 64 bytes a piece; none where a page cannot be read or a word
is in error. -/
def frontWords (s : State) (asn va n : Nat) : Option (List Word) :=
  let ps := (List.range (pieceCount n)).map fun k => frontXlate s asn (va + 64 * k) false
  if ps.any (·.isNone) || ps.any (fun p => p.any fun q => anyBad s q 64) then none
  else some (rangeWords s (ps.map fun p => p.getD (.host 0)) n)

end Sys2Proof.Machine
end

