-- ==== Sys2Proof/Machine/Ends.lean ====
section
/-! DEFINITION. How a thread ends: EXIT, CEXIT, retirement, PARK END and kills share these operations (R129, R131, R133,
R138, R157, R180, R228, R281, R293, R294). -/

namespace Sys2Proof.Machine

/-- The error bits of a done status (R129). -/
def errBad : BitVec 4 := 1
def errKilled : BitVec 4 := 2
def errEnded : BitVec 4 := 4
def errNoCore : BitVec 4 := 8

/-- A thread of the launch has ended with this code and these error bits. -/
def Launch.tally (l : Launch) (code : Nat) (err : BitVec 4) : Launch :=
  { l with errs := l.errs ||| err, exit := max l.exit code, count := l.count + 1 }

/-- A thread of a launch ends: a member leaves, or a convoy leaves the convoy count (R133, R157). -/
def leaveLaunch (s : State) (t : Thread) (code : Nat) (err : BitVec 4) : State :=
  if t.lid = 0 then s
  else
    modLaunch s t.lid fun l =>
      if t.convoy then
        { l.tally code err with
          convoys := l.convoys - 1, untriggered := if t.triggered then l.untriggered else l.untriggered - 1 }
      else { l.tally code err with members := l.members.filter fun m => m.rank != t.rank.toNat }

/-- What tells a refused convoy apart: all that it takes with it but ECOST and WEAR (R144, R152; log entry 49). -/
def claimKey (t : Thread) : Nat :=
  let u := abandon t
  wordsNat ([u.pc, u.lid, u.rank, u.f, u.qbase, u.qstride, u.tcause, u.tpc, u.tval,
    BitVec.ofNat 32 (u.full.toNat / 2 % 2 ^ 23 + u.fpst.toNat * 2 ^ 23 + u.triggered.toNat * 2 ^ 28)] ++ rdRegs u 1 23) +
  2 ^ 1056 * (u.m.toNat + 2 ^ 256 * u.md.toNat)

/-- A slot's convoy waits for a place on core `d` that it has been refused, under this key. -/
def seeksPlace (d key : Nat) (x : Slot) : Bool :=
  match x.thread? with
  | none => false
  | some t => match t.pend with | some ⟨.migrate e true, _, _, _⟩ => e = d && claimKey t = key | _ => false

/-- The convoys that wait so. -/
def claimants (s : State) (d key : Nat) : Nat :=
  s.cores.foldl (fun n k => n + k.2.slots.toList.countP (seeksPlace d key)) 0

/-- A convoy holds a claim to a place on core `d`: it waits there as a refused one, or, having left its slot or been stopped
since, has left a claim that no waiting one accounts for (R152). -/
def ownsClaim (s : State) (d : Nat) (t : Thread) : Bool :=
  let key := claimKey t
  (match t.pend with | some ⟨.migrate e true, _, _, _⟩ => e = d | _ => false) ||
    claimants s d key < (getCore s d).refused.count key

/-- A convoy gives up its claim to a place on a core, or has had it met. -/
def dropClaim (s : State) (d : Nat) (t : Thread) : State :=
  if t.convoy && (getCore s d).refused.contains (claimKey t) && ownsClaim s d t then
    modCore s d fun k => { k with refused := k.refused.erase (claimKey t) }
  else s

/-- A convoy that ends gives up its claims to places. -/
def dropClaims (s : State) (t : Thread) : State := s.cores.foldl (fun u k => dropClaim u k.1 t) s

/-- Whether the thread's member or convoy has triggered: TRIGGER or its end (R131, R139). -/
def markTriggered (s : State) (t : Thread) : State :=
  if t.lid = 0 then s
  else
    modLaunch s t.lid fun l =>
      if t.convoy then { l with untriggered := if t.triggered then l.untriggered else l.untriggered - 1 }
      else { l with members := l.members.map fun m =>
        if m.rank = t.rank.toNat then { m with triggered := true } else m }

/-- A message whose words were being read through the slot's q3 and that was not consumed stays held for the slot. -/
def unhand (i : Nat) (k : Core) : Core :=
  { k with inbox := k.inbox.map fun m => if m.inHand && m.held = some i then { m with inHand := false } else m }

/-- Matrix commands run on without their thread, and so do copy operations, which are no longer a thread's of this slot
(R214, R240). -/
def enginesGone (i : Nat) (k : Core) : Core :=
  let f (m : MatCmd) : MatCmd := if m.slot = i then { m with gone := true } else m
  let g (o : CopyOp) : CopyOp := if o.slot = i then { o with gone := true } else o
  { k with matQ := k.matQ.map f, matRun := k.matRun.map f, copyQ := k.copyQ.map g, copyRun := k.copyRun.map g }

/-- What a thread leaves in flight as it leaves its slot: loads are given up, stores go on; those of a thread that goes on
elsewhere stay known by this key (R190, R198, R293; log entry 70). -/
def leaveFlight (s : State) (c i : Nat) (key : Option (Word × Word)) : State :=
  { s with flight := s.flight.filterMap fun f =>
      if f.core = c && f.slot = i then
        match f.kind with
        | .store | .stf | .ste | .qadd =>
          some { f with slot := goneSlot, group := f.group.orElse fun _ => some 0, rewrite := none, left := key }
        | _ => none
      else some f }

/-- No walk waits for the thread any longer. -/
def leaveWalks (s : State) (c i : Nat) : State :=
  { s with xl := { s.xl with misses := s.xl.misses.map fun m =>
      { m with waiters := m.waiters.filter fun w => w != (c, i) } } }

/-- A slot stops holding its thread, whose stores in flight keep this key. -/
def clearSlot (s : State) (c i : Nat) (key : Option (Word × Word)) (x : Content) : State :=
  modCore (setContent (leaveWalks (leaveFlight s c i key) c i) c i x) c fun k =>
    enginesGone i (matForget i (unhand i (dropOverrides k)))

/-- A slot stops holding a thread that has ended. -/
def vacate (s : State) (c i : Nat) (x : Content) : State := clearSlot s c i none x

/-- A slot stops holding a thread that goes on elsewhere (R150, R269). -/
def moveOut (s : State) (c i : Nat) : State := clearSlot s c i (keyAt s c i) .vacant

/-- Gives up a thread's reservation for good. -/
def dropResv (s : State) (c i : Nat) : State := { s with resvs := s.resvs.filter fun r => !(r.core = c && r.slot = i) }

/-- The exit word of REAP (R137). -/
def exitWord (code : Nat) (err : BitVec 4) : Word := BitVec.ofNat 32 (err.toNat * 256 + code % 256)

/-- The thread of a slot ends with an exit code: the effects of EXIT, or of CEXIT for a convoy (R138, R162). -/
def endThread (s : State) (c i : Nat) (t : Thread) (code : Nat) (err : BitVec 4) : State :=
  let s1 := leaveLaunch (dropClaims (dropResv s c i) t) t code err
  match t.kind with
  | .spawned => vacate s1 c i (if t.convoy then .vacant else .exited (exitWord code err))
  | _ => vacate s1 c i .vacant

/-- Takes a pair out of its core's table. -/
def dropPair (s : State) (c i : Nat) : State :=
  modCore s c fun k => { k with pairs := k.pairs.filter fun p => p.s != i && p.s + 7 != i }

/-- A pair ends as one (R285, R292): both slots are vacated. -/
def endPair (s : State) (c : Nat) (p : Pair) (t : Thread) (code : Nat) (err : BitVec 4) : State :=
  dropPair (vacate (endThread s c p.s t code err) c (p.s + 7) .vacant) c p.s

/-- A holder goes on after its JOIN, from the cycle after this one on (R156). -/
def goOn (cycle : Nat) (merged : Bool) (t : Thread) : Thread :=
  { finish (setFlag t 1 merged) with readyAt := cycle + 1 }

/-- EXPIRY of a joint-table entry, or a holder that leaves (R155, R156): it goes on after its JOIN with F[1] := MERGED. -/
def releaseHolder (s : State) (c : Nat) (e : Joint) : State :=
  let s1 := modCore s c fun k => { k with joint := k.joint.filter fun j => j.holder != e.holder }
  match e.holder with
  | .slot i => modThread s1 c i (goOn (getCore s c).cycle e.merged)
  | .queue n =>
    modCore s1 c fun k => { k with arrivals := k.arrivals.map fun q =>
      if q.id = n then { q with parked := false, th := goOn (getCore s c).cycle e.merged q.th } else q }

/-- The joint-table entry that a slot holds. -/
def jointOf (s : State) (c i : Nat) : Option Joint := (getCore s c).joint.find? fun j => j.holder = .slot i

/-- The kill of a thread on an uncorrectable error in its own state (R293): exit code 0xFF, KILLED, a trap notice to
slot 0, the slot scrubbed. -/
def killThread (s : State) (c i : Nat) : State :=
  match threadAt s c i with
  | none => s
  | some t =>
    let s1 := modCore (leaveLaunch (dropClaims (dropResv s c i) t) t 0xFF errKilled) c
      fun k => { k with joint := k.joint.filter fun j => j.holder != .slot i }
    let s2 := vacate s1 c i .scrubbing
    let note := trapNotice c i { t with tcause := 0 } ⟨.memerr, 0, 0, t.pc, false, 0⟩
    errReport (consumed (wakeParked (setSlot s2 c i { getSlot s2 c i with notice := some note }) c 0) c) 4 (some i) (some c) 0 t.lid

end Sys2Proof.Machine
end

