-- ==== Sys2Proof/Machine/Launch.lean ====
section
/-! DEFINITION. Launch queues, descriptors, placement, the done tree and barriers (R113, R120 to R134, R141, R227,
R285, R335): the shared operations and the front end's events. -/

namespace Sys2Proof.Machine

open Host (Outcome)

/-! ### Descriptors (R120, R121) -/

def dCodeva (d : Nat) : Nat := descField d 0x00 8
def dClen (d : Nat) : Nat := descField d 0x08 2
def dEntry (d : Nat) : Nat := descField d 0x0A 2
def dCbase (d : Nat) : Nat := descField d 0x0C 2
def dLbase (d : Nat) : Nat := descField d 0x0E 2
def dLocva (d : Nat) : Nat := descField d 0x10 8
def dLlen (d : Nat) : Nat := descField d 0x18 4
def dFlags (d : Nat) : Nat := descField d 0x1C 4
def dCres (d : Nat) : Bool := dFlags d / 2 ^ 16 % 2 = 1
def dPair (d : Nat) : Bool := dFlags d / 2 ^ 15 % 2 = 1
/-- The ordered class. -/
def dOrd (d : Nat) : Bool := dFlags d / 2 ^ 14 % 2 = 1
def dPrio (d : Nat) : Nat := dFlags d / 2 ^ 12 % 4
def dQuota (d : Nat) : Nat := dFlags d / 2 ^ 8 % 16
def dLim (d : Nat) : Nat := dFlags d % 2 ^ 8
def dFirst (d : Nat) : Nat := descField d 0x20 4
def dNcore (d : Nat) : Nat := descField d 0x24 4
def dCount (d : Nat) : Nat := descField d 0x28 4
def dLid (d : Nat) : Nat := descField d 0x2C 4
def dSegva (d : Nat) : Nat := descField d 0x30 8
def dFmtva (d : Nat) : Nat := descField d 0x38 8
def dDoneva (d : Nat) : Nat := descField d 0x40 8
def dWlim (d : Nat) : Nat := descField d 0x48 4
def dUpc (d : Nat) : Nat := descField d 0x4C 2
def dTvec (d : Nat) : Nat := descField d 0x4E 2
/-- The eviction quantum in ticks; 0 stands for 100,000 (R271). -/
def dQuant (d : Nat) : Nat := if descField d 0x50 4 = 0 then 100000 else descField d 0x50 4
def dDep (d k : Nat) : Nat := descField d (0x54 + 4 * k) 4
def dSeed (d k : Nat) : Nat := descField d (0x60 + 4 * k) 4

/-- R10. -/
def limOk (l : Nat) : Bool := l % 8 = 0 && 8 ≤ l && l ≤ 128

/-- Eight descriptors from 32 words. -/
def segsOfWords (ws : List Word) : Vector (BitVec 128) 8 :=
  Vector.ofFn fun k => BitVec.ofNat 128 (wordsNat ((ws.drop (4 * k.val)).take 4))

/-- The conventional set of R120. -/
def conventional (d : Nat) : Vector (BitVec 128) 8 :=
  ((Vector.replicate 8 segNone).set 0 (mkSeg 1 (dCbase d) (dClen d - 1) 0b101000 0)).set 1
    (mkSeg 2 (dLbase d) (0xFFFF - dLbase d) 0b110110 0)

/-- The ranges of R120, and LBASE + LLEN of a paired launch (R285). -/
def descOk (d : Nat) : Bool :=
  dCodeva d < 2 ^ 48 && dCodeva d % 64 = 0 && dClen d % 2 = 0 && 2 ≤ dClen d && dClen d ≤ 16384 &&
    dEntry d % 2 = 0 && dEntry d < dClen d && dCbase d % 64 = 0 && dCbase d + dClen d ≤ 16384 &&
    dLbase d % 64 = 0 && dLbase d + dLlen d ≤ 65536 && dFlags d / 2 ^ 17 = 0 &&
    1 ≤ dQuota d && (if dPair d then dQuota d ≤ 7 else dQuota d ≤ 14) && limOk (dLim d) &&
    1 ≤ dNcore d && dFirst d + dNcore d ≤ 65536 && 1 ≤ dCount d && dLid d != 0 && dSegva d % 64 = 0 &&
    dFmtva d % 64 = 0 && dDoneva d % 32 = 0 && (!dPair d || dLbase d + dLlen d ≤ 0xE000)

/-- A valid precision-word value (R226). -/
def pwValid (v : Word) : Bool :=
  let fmt := (v.extractLsb' 12 4).toNat
  fmt ≤ 6 && v.extractLsb' 16 4 == 0 && (fmt != 6 || 1 ≤ (v.extractLsb' 8 4).toNat)

/-- A format record's shadows; none when it breaks R227. -/
def shadowsOf (ws : List Word) : Option (Vector (BitVec 32) 4) :=
  if (ws.take 4).all pwValid && (ws.drop 4).all (· == 0) then some (Vector.ofFn fun k => wordAt ws k.val) else none

/-- The present cores of a range, in ascending order (R128). -/
def presentRange (s : State) (d : Nat) : List Nat :=
  ((List.range (dNcore d)).map fun k => dFirst d + k).filter (presentCore s)

/-- A record that is read at a nonzero address: `some` its words, none where it cannot be read. -/
def readIf (s : State) (asn va n : Nat) : Option (Option (List Word)) :=
  if va = 0 then some none else (frontWords s asn va n).map some

/-- The check of a descriptor (R121). -/
def checkDesc (s : State) (asn d : Nat) : Checked :=
  if !descOk d then .bad errBad
  else
    match readIf s asn (dSegva d) 128, readIf s asn (dFmtva d) 64 with
    | some seg, some fmt =>
      let segs := match seg with | none => conventional d | some ws => segsOfWords ws
      let shadows := fmt.map shadowsOf
      if !segs.toList.all segValid || shadows = some none then .bad errBad
      else
        if (presentRange s d).isEmpty then .bad errNoCore else .good (segs.map segClean) (shadows.bind id)
    | _, _ => .bad errBad

/-! ### Queues and the overflow ring (R122 to R124) -/

def getQueue (s : State) (q : Nat) : Queue := (s.front.queues[q]?).getD Queue.blank
def setQueue (s : State) (q : Nat) (x : Queue) : State :=
  { s with front := { s.front with queues := s.front.queues.setIfInBounds q x } }

/-- A place of the overflow ring, by its number from the head. The ring's size counts records of 128 bytes (log entry
17). -/
def ringPlace (s : State) (q : Queue) (k : Nat) (w : Bool) : Option Place :=
  frontXlate s q.asn.toNat (q.ovBase + 128 * ((q.ovHead + k) % q.ovSize)) w

/-- The queue halts and the control complex is told (R124). TAG names the ring's head, also where the place that cannot be
written is its tail (log entry 17). -/
def queueFault (s : State) (q addr : Nat) : State :=
  errReport (setQueue s q { getQueue s q with halt := true }) 8 none none addr
    (BitVec.ofNat 32 (q * 65536 + (getQueue s q).ovHead))

/-! ### Starting (R121, R122, R131) -/

/-- A launch identifier is among the records of a queue, on chip or in its ring. -/
def queuedLid (s : State) (lid : Nat) : Bool :=
  s.front.queues.toList.any fun q =>
    (q.recs.any fun r => dLid r.desc = lid) ||
      (List.range q.ovCount).any fun k =>
        match ringPlace s q k false with | none => false | some p => dLid (loadNat s p 128) = lid

/-- R131: the producer has placed every task, and every thread and convoy of it has triggered or ended. -/
def Launch.triggeredAll (l : Launch) : Bool :=
  l.next ≥ dCount l.desc && l.members.all (·.triggered) && l.untriggered = 0

/-- The front end's write of `n` bytes at a place. -/
def frontStore (s : State) (p : Place) (n v : Nat) : State := storeNat (takeBack s p n) p n v

/-- The front end reads a range, and takes its lines back from the host first (R336). -/
def frontTouch (s : State) (asn va n : Nat) : State :=
  (alignedPieces va n).foldl (fun s p =>
    match frontXlate s asn (va + p.1) false with
    | none => s
    | some q => takeBack s q p.2) s

/-- The record at the head of a queue has just come there: its descriptor is checked, and the producers that are queued or
running now are those that it waits for (R121, R131). -/
def headArrives (s0 : State) (q : Nat) : State :=
  match (getQueue s0 q).recs with
  | [] => setQueue s0 q { getQueue s0 q with checked := none, waits := [] }
  | r :: _ =>
    let asn := (getQueue s0 q).asn.toNat
    let s1 := if dSegva r.desc = 0 then s0 else frontTouch s0 asn (dSegva r.desc) 128
    let s := if dFmtva r.desc = 0 then s1 else frontTouch s1 asn (dFmtva r.desc) 64
    setQueue s q { getQueue s q with
      checked := some (checkDesc s asn r.desc)
      waits := (([0, 1, 2] : List Nat).map (dDep r.desc)).filter fun l =>
        l != 0 && ((launchOf s (BitVec.ofNat 32 l)).isSome || queuedLid s l) }

/-- A producer that the head of a queue waits for is satisfied. -/
def depSatisfied (s : State) (lid : Nat) : Bool :=
  match launchOf s (BitVec.ofNat 32 lid) with
  | some l => l.triggeredAll
  | none => !queuedLid s lid

/-- A producer has completed: no head waits for it any longer. -/
def dropWaits (s : State) (lid : Nat) : State :=
  { s with front := { s.front with
      queues := s.front.queues.map fun q => { q with waits := q.waits.filter fun l => l != lid } } }

/-- How an enqueue ends: taken, full, or halted by a fault. -/
inductive Enq where
  | taken (s : State)
  | full
  | halted (s : State)

def enqueue (s : State) (q : Nat) (r : Rec) : Enq :=
  let x := getQueue s q
  if x.halt then .halted s
  else if x.recs.length < 32 && x.ovCount = 0 then
    let s1 := setQueue s q { x with recs := x.recs ++ [r] }
    .taken (if x.recs.isEmpty then headArrives s1 q else s1)
  else if x.ovCount ≥ x.ovSize then .full
  else
    match ringPlace s x x.ovCount true with
    | none => .halted (queueFault s q (x.ovBase + 128 * ((x.ovHead + x.ovCount) % x.ovSize)))
    | some p =>
      .taken (frontStore (setQueue s q { x with ovCount := x.ovCount + 1, ovService := x.ovService ++ [r.service] })
        p 128 r.desc)

/-- A record returns to the chip as a place frees (R123). -/
def execOverflowRefill (queue : Nat) (s : State) : Outcome State Fault Refusal :=
  let x := getQueue s queue
  .next <|
    if x.halt || x.ovCount = 0 || x.recs.length ≥ 32 then s
    else
      match ringPlace s x 0 false with
      | none => queueFault s queue (x.ovBase + 128 * (x.ovHead % x.ovSize))
      | some p =>
        let s1 := setQueue (takeBack s p 128) queue { x with
          recs := x.recs ++ [⟨loadNat s p 128, (x.ovService.headD none)⟩], ovHead := (x.ovHead + 1) % x.ovSize,
          ovCount := x.ovCount - 1, ovService := x.ovService.drop 1, qfull := false }
        if x.recs.isEmpty then headArrives s1 queue else s1

/-- The head of a queue may start: its descriptor is not run, or its producers are satisfied and no launch of its LID is
running (log entry 18). -/
def headReady (s : State) (q : Queue) : Bool :=
  match q.recs with
  | [] => false
  | r :: _ =>
    !q.halt &&
      match q.checked with
      | none => false
      | some (.bad _) => true
      | some (.good ..) => q.waits.all (depSatisfied s) && (launchOf s (BitVec.ofNat 32 (dLid r.desc))).isNone

def headPrio (q : Queue) : Nat := match q.recs with | [] => 0 | r :: _ => dPrio r.desc

/-- The queue that the front end starts from next: highest PRIO, then in turn after the queue last served (R122). -/
def startChoice (s : State) : Option Nat :=
  if s.front.queues.toList.all fun q => q.recs.isEmpty then none
  else
    ((List.range 64).map fun k => (s.front.lastServed + 1 + k) % 64).foldl
      (fun best q =>
        if headReady s (getQueue s q) then
          match best with
          | none => some q
          | some b => if headPrio (getQueue s q) > headPrio (getQueue s b) then some q else some b
        else best) none

/-- The done status of R129. -/
def doneStatus (count exit : Nat) (errs : BitVec 4) : Nat := count % 2 ^ 32 * 2 ^ 32 + exit % 256 * 2 ^ 16 + errs.toNat

/-- The service buffer of a launch is free again (R340). -/
def freeBuffer (s : State) (b : Option (Nat × Nat)) : State :=
  match b with
  | none => s
  | some (e, n) =>
    match smGet s.cc.services e with
    | none => s
    | some v => { s with cc := { s.cc with
        services := smSet s.cc.services e { v with used := v.used.filter fun u => u != n } } }

/-- The front end writes `n` bytes at a virtual address, at most 4,096, as far as it can; and whether it wrote them all. -/
def frontWrite (s : State) (asn va n v : Nat) : State × Bool :=
  let k := min n (4096 - va % 4096)
  match frontXlate s asn va true with
  | none => (s, false)
  | some p =>
    if k = n then (frontStore s p n v, true)
    else
      match frontXlate s asn (va + k) true with
      | none => (frontStore s p k v, false)
      | some q => (frontStore (frontStore s p k v) q (n - k) (v / 256 ^ k), true)

/-- Writes in turn, until one fails. -/
def frontWrites (asn : Nat) : List (Nat × Nat × Nat) → State → State × Bool
  | [], s => (s, true)
  | w :: ws, s =>
    match frontWrite s asn w.1 w.2.1 w.2.2 with
    | (s1, true) => frontWrites asn ws s1
    | r => r

/-- The completion record of R130, FLAG last; where it cannot be written, an error record of kind 13. -/
def writeDone (s : State) (asn d status : Nat) : State :=
  let head : List Word :=
    [BitVec.ofNat 32 (dLid d), 0, BitVec.ofNat 32 status, BitVec.ofNat 32 (status / 2 ^ 32),
      s.time.setWidth 32, s.time.extractLsb' 32 32]
  match frontWrites asn [(dDoneva d, 24, wordsNat head), (dDoneva d + 28, 4, 0), (dDoneva d + 24, 4, 1)] s with
  | (s1, true) => s1
  | (s1, false) => errReport s1 13 none none (dDoneva d) (BitVec.ofNat 32 (dLid d))

/-- A launch completes: its record, its buffer, its trace record (R130, R340, R364). -/
def finishLaunch (s : State) (asn d : Nat) (service : Option (Nat × Nat)) (status core : Nat) : State :=
  traceRecord (freeBuffer (writeDone (dropWaits s (dLid d)) asn d status) service) 8 core 0 0
    [BitVec.ofNat 32 (dLid d), BitVec.ofNat 32 status, BitVec.ofNat 32 (status / 2 ^ 32)]

/-- The front end starts the head record of the queue whose turn it is; the record after it then comes to the head, and finds
the launch running (R131). -/
def execLaunchStart (queue : Nat) (s : State) : Outcome State Fault Refusal :=
  .next <|
    if startChoice s != some queue then s
    else
      let x := getQueue s queue
      match x.recs with
      | [] => s
      | r :: rest =>
        let s1 :=
          setQueue { s with front := { s.front with lastServed := queue } } queue { x with recs := rest, qfull := false }
        let refuse (e : BitVec 4) : State :=
          headArrives (finishLaunch s1 x.asn.toNat r.desc r.service (doneStatus 0 0 e) (dFirst r.desc)) queue
        match x.checked, presentRange s r.desc with
        | none, _ => s
        | some (.bad e), _ => refuse e
        | some (.good ..), [] => refuse errNoCore
        | some (.good segs shadows), tree =>
          let l : Launch :=
            { lid := BitVec.ofNat 32 (dLid r.desc), queue := queue, desc := r.desc, asn := x.asn.toNat,
              service := r.service, segs := segs, shadows := shadows, next := 0, lastCore := none, tree := tree,
              noticed := [], sent := [], members := [], errs := 0, exit := 0, count := 0, convoys := 0,
              untriggered := 0, codeIn := [], localIn := [], conv := false }
          traceRecord (headArrives { s1 with front := { s1.front with launches := s1.front.launches ++ [l] } } queue) 7
            (tree.headD 0) 0 0 [l.lid, 0, 0]

/-! ### Placement (R125, R126, R285) -/

/-- The largest local address that a LOCAL or SPREAD window reaches on a core, with its lowest; none if it does not. -/
def localSpan (d : Desc) (c : Nat) : Option (Nat × Nat) :=
  if segType d = 2 then some (segBase d, min (segBase d + segLimit d) 0xFFFF)
  else if segType d = 6 then
    let gi := c - spreadFirst d
    let gmax := segLimit d / 2 ^ spreadLg d
    if c < spreadFirst d || c ≥ spreadFirst d + spreadCount d || gi > gmax then none
    else
      let k := (gmax - gi) / spreadCount d
      let last := if gi + k * spreadCount d = gmax then segLimit d % 2 ^ spreadLg d else 2 ^ spreadLg d - 1
      some (spreadLocal d, min (spreadLocal d + k * 2 ^ spreadLg d + last) 0xFFFF)
  else none

/-- R285: a window reaches the commit areas on this core. -/
def reachesCommit (d : Desc) (c : Nat) : Bool :=
  match localSpan d c with | none => false | some (lo, hi) => lo < 0xFC00 && hi ≥ 0xE000

def slotThreads (k : Core) : List (Nat × Thread) :=
  (List.range 16).filterMap fun i => ((k.slotAt i).thread?).map fun t => (i, t)

/-- Resident threads of work slots (R125). -/
def residents (k : Core) : Nat := ((slotThreads k).filter fun e => 1 ≤ e.1 && e.1 ≤ 14).length

/-- Work slots that a newcomer may take: the lowest VACANT ones are first for the queued convoys (R127, R151). -/
def vacantSlots (k : Core) : List Nat :=
  ((List.range 15).filter fun i => 1 ≤ i && (k.slotAt i).isVacant).drop
    (k.arrivals.filter fun q => !q.parked).length

/-- Slots in which a pair may stand, by its leading slot. -/
def pairSlots (k : Core) : List Nat :=
  (List.range 8).filter fun i => 1 ≤ i && (vacantSlots k).contains i && (vacantSlots k).contains (i + 7)

/-- R125, R285: the launch's windows on a core stay below 0xE000. -/
def staysBelow (d : Desc) (c : Nat) : Bool :=
  match localSpan d c with | none => true | some (_, hi) => hi < 0xE000

/-- A thread that is resident and cannot issue (R114). -/
def notReadyNow (t : Thread) : Bool := t.status != .ready || t.stopped || t.hold || t.pend.isSome

/-- R271, rule 5: an evicted thread whose population has a resident thread that is not ready. -/
def Evictee.urgent (e : Evictee) (s : State) : Bool :=
  e.th.lid != 0 &&
    s.cores.any fun k => (slotThreads k.2).any fun u => u.2.lid = e.th.lid && u.2.kind = .launch && notReadyNow u.2

/-- It has been out for half of QUANT: so that it is back within QUANT, nothing comes before it (R271 rule 5; log entry
3). -/
def Evictee.pressing (e : Evictee) (s : State) : Bool :=
  e.urgent s && (launchOf s e.th.lid).any fun l => dQuant l.desc ≤ 2 * (s.time.toNat - e.since)

/-- The priority of a thread: its launch's; a thread of no launch has the lowest (log entry 3). -/
def prioOf (s : State) (t : Thread) : Nat := ((launchOf s t.lid).map fun l => dPrio l.desc).getD 0

/-- R271, rule 5: a restore to a core comes before a seed of lower priority there, and before every seed once half of QUANT
is over. -/
def restoreFirst (s : State) (l : Launch) (c : Nat) : Bool :=
  s.cores.any fun k => k.2.store.any fun e =>
    (prioOf s e.th > dPrio l.desc || e.pressing s) && e.urgent s && (e.only.all (· = c) || e.pressing s) && (launchOf s e.th.lid).any fun l => inRange l c

/-- R125. A thread of another launch is one whose LID differs: a SPAWNed, handler or FRESH thread has LID 0, and it counts in
every slot (log entry 72). -/
def eligible (s : State) (l : Launch) (c : Nat) : Bool :=
  let k := getCore s c
  let h := healthOf s c
  let mine := (l.members.filter fun m => m.core = c && !m.evicted).length
  presentCore s c && (h = .healthy || h = .derated) && mine < dQuota l.desc && !restoreFirst s l c &&
    (if dPair l.desc then
       !(pairSlots k).isEmpty &&
         !((slotThreads k).any fun e => e.2.lid != l.lid && e.2.segs.toList.any fun d => reachesCommit d c)
     else !(vacantSlots k).isEmpty && (k.pairs.isEmpty || l.segs.toList.all fun d => staysBelow d c))

/-- The keys by which a core is chosen, smaller first (R125). -/
def placeKey (s : State) (l : Launch) (c : Nat) : List Nat :=
  [if healthOf s c = .healthy then 0 else 1, wearClass s c, residents (getCore s c),
    (c + dNcore l.desc - (match l.lastCore with | none => dFirst l.desc | some b => b + 1)) % dNcore l.desc]

def keyLt : List Nat → List Nat → Bool
  | a :: as, b :: bs => a < b || (a = b && keyLt as bs)
  | _, _ => false

/-- The core for the launch's next task. -/
def chooseCore (s : State) (l : Launch) : Option Nat :=
  (l.tree.filter (eligible s l)).foldl
    (fun best c =>
      match best with
      | none => some c
      | some b => if keyLt (placeKey s l c) (placeKey s l b) then some c else some b) none

/-- The launch that takes the next slot: highest PRIO, then first started (R125). -/
def placeChoice (s : State) : Option (Launch × Nat) :=
  s.front.launches.foldl
    (fun best l =>
      if l.next < dCount l.desc then
        match chooseCore s l with
        | none => best
        | some c =>
          match best with
          | none => some (l, c)
          | some (b, bc) => if dPrio l.desc > dPrio b.desc then some (l, c) else some (b, bc)
      else best) none

/-- Copies `n` bytes from a virtual address, which need not be aligned, in pieces that each lie in one aligned 64 bytes, so
in one page and in one block of INTERLEAVE; bytes that cannot be read are not written (log entry 19). -/
def copyImage (s : State) (asn va n : Nat) (dst : Place) : State :=
  (alignedPieces va n).foldl
    (fun s k =>
      match frontXlate s asn (va + k.1) false with
      | none => s
      | some p => storeNat (takeBack s p k.2) (dst.shift k.1) k.2 (loadNat s p k.2)) s

/-- The thread that a launch seeds (R12, R126). -/
def seedThread (l : Launch) (rank : Nat) : Thread :=
  let d := l.desc
  let regs : Vector (BitVec 32) 128 := Vector.ofFn fun k =>
    if 1 ≤ k.val && k.val ≤ 8 then BitVec.ofNat 32 (dSeed d (k.val - 1)) else 0
  { Thread.blank with
    pc := BitVec.ofNat 32 (dEntry d), regs := regs, lim := dLim d, wlim := BitVec.ofNat 32 (dWlim d),
    tvec := BitVec.ofNat 32 (dTvec d / 2 * 2), upc := BitVec.ofNat 32 (dUpc d / 2 * 2), rank := BitVec.ofNat 32 rank,
    npop := BitVec.ofNat 32 (dCount d), lid := l.lid, asn := l.asn, segs := l.segs, envs := l.segs }

/-- The images that must be on a core before a thread of the launch issues there (R126). -/
def placeImages (s : State) (l : Launch) (c : Nat) (loc : Bool) : State :=
  let d := l.desc
  let s1 := if dCres d || l.codeIn.contains (quadOf c) then s
    else copyImage s l.asn (dCodeva d) (dClen d) (.cstore (quadOf c) (dCbase d))
  let s2 := if !loc || dLocva d = 0 || l.localIn.contains c then s1
    else copyImage s1 l.asn (dLocva d) (dLlen d) (.lstore c (dLbase d))
  modLaunch s2 l.lid fun l =>
    { l with
      codeIn := setAdd l.codeIn (quadOf c), localIn := if loc then setAdd l.localIn c else l.localIn }

/-- The images for a thread that comes to a core by migration or by a restore; a restored thread brings its local window
with it (R271; log entry 29). -/
def arriveImages (s : State) (t : Thread) (c : Nat) (loc : Bool) : State :=
  match launchOf s t.lid with
  | none => s
  | some l => placeImages s l c loc

/-- Images and shadows that a core takes before a thread of the launch issues there (R126, R227). -/
def readyCore (s : State) (l : Launch) (c : Nat) : State :=
  let s1 := placeImages s l c true
  match l.shadows with
  | none => s1
  | some v => modCore s1 c fun k => { k with pwShadow := v, pwOver := .replicate 4 none }

def seedAt (s : State) (l : Launch) (c : Nat) : State :=
  let k := getCore s c
  let t := { seedThread l l.next with readyAt := k.cycle + 1 }
  if dPair l.desc then
    match pairSlots k with
    | [] => s
    | i :: _ =>
      let lead := { t with role := .leading }
      let trail := { t with role := .trailing }
      modCore (setThread (setThread s c i lead) c (i + 7) trail) c fun k =>
        { k with pairs := k.pairs ++ [⟨i, [], [], lead, trail, 0, 0, 0, false, false⟩] }
  else
    match vacantSlots k with
    | [] => s
    | i :: _ => setThread s c i t

/-- Slot 0 of a core issues a SPAWN in the core's present cycle: it is served before a seed of that cycle, and the task is
placed again after it (R127). -/
def spawnFirst (s : State) (c : Nat) : Bool :=
  (getCore s c).turnSlot = 0 &&
    match issuer s c with
    | none => false
    | some t => match fetchInstr s c t with | .instr (.spawn _) => true | _ => false

/-- The task that the front end places now, and its core. -/
def placeNow (s : State) : Option (Launch × Nat) := (placeChoice s).filter fun p => !spawnFirst s p.2

def execTaskPlace (lid : Nat) (s : State) : Outcome State Fault Refusal :=
  .next <|
    match placeNow s with
    | none => s
    | some (l, c) =>
      if l.lid.toNat != lid then s
      else
        modLaunch (seedAt (readyCore s l c) l c) l.lid fun l =>
          { l with next := l.next + 1, lastCore := some c, members := l.members ++ [⟨l.next, c, false, false⟩] }

/-! ### The done tree (R128 to R130, R157) -/

/-- A core in the tree receives the placing-over notice. -/
def execPlacingOverNotice (lid core : Nat) (s : State) : Outcome State Fault Refusal :=
  .next <| modLaunch s (BitVec.ofNat 32 lid) fun l =>
    if l.next ≥ dCount l.desc && l.tree.contains core && !l.noticed.contains core
    then { l with noticed := setAdd l.noticed core } else l

/-- The children of a core in the tree. -/
def treeChildren (l : Launch) (c : Nat) : List Nat :=
  let i := l.tree.idxOf c
  (List.range 4).filterMap fun k => l.tree[4 * i + 1 + k]?

/-- Copies and matrix commands of the launch's threads that a core has not completed (R128, R240). -/
def engineBusy (s : State) (c : Nat) (lid : Word) : Bool :=
  let k := getCore s c
  (k.copyQ ++ k.copyRun).any (fun o => o.lid = lid) || (k.matQ ++ k.matRun.toList).any fun m => m.lid = lid

/-- Every thread of the launch that the core held has exited, convoys among them, and every engine operation of theirs has
completed (R128, R208, R219). -/
def doneReady (s : State) (l : Launch) (c : Nat) : Bool :=
  l.noticed.contains c && !l.sent.contains c && !(l.members.any fun m => m.core = c) && !engineBusy s c l.lid &&
    !residentOf (getCore s c) l.lid && !((getCore s c).arrivals.any fun q => q.th.lid = l.lid) &&
    (treeChildren l c).all l.sent.contains

def execDoneMessage (lid core : Nat) (s : State) : Outcome State Fault Refusal :=
  .next <| modLaunch s (BitVec.ofNat 32 lid) fun l =>
    if doneReady s l core then { l with sent := setAdd l.sent core } else l

/-- The words of the completion record are free to be written. -/
def doneFree (s : State) (l : Launch) : Bool :=
  match frontXlate s l.asn (dDoneva l.desc) true with
  | none => true
  | some p => !(tileMoving s p) && !((wordsOf p 32).any fun w => s.resvs.any fun r => r.word = w)

/-- The root's message is in, no convoy is left, and no copy of one (R130, R157, R219). -/
def completeReady (s : State) (l : Launch) : Bool :=
  (match l.tree with | [] => true | r :: _ => l.sent.contains r) && l.members.isEmpty && l.convoys = 0 &&
    !(s.cores.any fun k => engineBusy s k.1 l.lid) && doneFree s l

def execLaunchComplete (lid : Nat) (s : State) : Outcome State Fault Refusal :=
  .next <|
    match launchOf s (BitVec.ofNat 32 lid) with
    | none => s
    | some l =>
      if completeReady s l then
        finishLaunch { s with front := { s.front with launches := s.front.launches.filter fun x => x.lid != l.lid } }
          l.asn l.desc l.service (doneStatus l.count l.exit l.errs) (l.tree.headD 0)
      else s

/-! ### Barriers (R133, R134, R331, R335) -/

/-- Two cores share a unit of a scope. -/
def sameUnit (scope c d : Nat) : Bool :=
  match scope with
  | 0 => false
  | 1 => c = d
  | 2 => quadOf c = quadOf d
  | 3 => dieOf c = dieOf d
  | _ => true

/-- The slot and thread of a member on its core; a pair by its leading thread. -/
def memberThread (s : State) (lid : Word) (m : Member) : Option (Nat × Thread) :=
  (slotThreads (getCore s m.core)).find? fun e =>
    e.2.lid = lid && e.2.rank.toNat = m.rank && e.2.kind = .launch && !e.2.convoy && e.2.role != .trailing

/-- The participants of a core's unit. -/
def participants (l : Launch) (scope c : Nat) : List Member := l.members.filter fun m => sameUnit scope c m.core

/-- R128, R133: the notice has reached every core of the unit in the range. -/
def unitNoticed (l : Launch) (scope c : Nat) : Bool :=
  l.tree.all fun d => !sameUnit scope c d || l.noticed.contains d

/-- A participant has arrived at a barrier of this scope, and its earlier accesses have performed there. -/
def arrivedAt (s : State) (l : Launch) (scope : Nat) (m : Member) : Bool :=
  match memberThread s l.lid m with
  | some (i, t) =>
    (match t.pend with | some p => p.what = .bar scope | none => false) && !m.evicted &&
      allPerformed s m.core i scope
  | none => false

/-- The pod barrier entry that serves a LID. -/
def podEntry (s : State) (lid : Word) : Option PodBar :=
  (s.cc.podBars.find? fun e => e.2.valid && e.2.lid = lid).map (·.2)

/-- An episode of this package may open. -/
def episodeReady (s : State) (l : Launch) (scope c : Nat) : Bool :=
  unitNoticed l scope c && (participants l scope c).all (arrivedAt s l scope)

/-- A participant's episode opens: it issues next at its first slot cycle after the opening (R141). -/
def openBar (cycle : Nat) (t : Thread) : Thread := { finish t with readyAt := cycle + 1 }

/-- The episode of the barrier at which a slot's thread has arrived opens; the other packages of a pod barrier are ready
when this event comes (log entry 20). -/
def execBarEpisodeOpen (core slot : Nat) (s : State) : Outcome State Fault Refusal :=
  .next <|
    match threadAt s core slot with
    | none => s
    | some t =>
      match t.pend, launchOf s t.lid with
      | some ⟨.bar scope, _, _, _⟩, some l =>
        if episodeReady s l scope core then
          (participants l scope core).foldl
            (fun s m =>
              match memberThread s l.lid m with
              | some (i, _) => modPend s m.core i (openBar (getCore s m.core).cycle)
              | none => s) s
        else s
      | _, _ => s

end Sys2Proof.Machine
end

