-- ==== Sys2Proof/Machine/Threads.lean ====
section
/-! DEFINITION. The thread instructions of pages 4 and 5: SPAWN, REAP, EXIT, TRIGGER, LAUNCH and BAR (R133 to R141,
R285, R335). -/

namespace Sys2Proof.Machine

open Host (Outcome)

/-! ### SPAWN (R136) -/

def recPc (ws : List Word) : Word := wordAt ws 0
def recWant (ws : List Word) : Nat := ((wordAt ws 1).extractLsb' 8 4).toNat
def recLim (ws : List Word) : Nat := ((wordAt ws 1).extractLsb' 0 8).toNat
def recSegs (ws : List Word) : Nat := (wordAt ws 12).toNat

/-- A code address as a record gives it: selector 0, bit 0 zero. -/
def codeAddrOk (a : Word) : Bool := a.toNat < 2 ^ 29 && !a.getLsbD 0

/-- The ranges of a spawn record. A SEGS table that would pass the end of the local store counts as a broken range (DESIGN
CHOICE, log entry 79). -/
def spawnOk (ws : List Word) : Bool :=
  codeAddrOk (recPc ws) && (wordAt ws 1).extractLsb' 12 20 == 0 && recWant ws ≤ 14 && limOk (recLim ws) &&
    recSegs ws % 64 = 0 && recSegs ws + 128 ≤ 65536 && codeAddrOk (wordAt ws 13) && codeAddrOk (wordAt ws 14) &&
    wordAt ws 15 == 0

/-- Eight descriptors from the local store of a core. -/
def localSegs (s : State) (c a : Nat) : Vector (BitVec 128) 8 :=
  segsOfWords (rangeWords s [.lstore c a, .lstore c (a + 64)] 128)

/-- The segments of a spawned thread: slot 0's own, or those that SEGS names. -/
def spawnSegs (s : State) (c : Nat) (t : Thread) (ws : List Word) : Vector (BitVec 128) 8 :=
  if recSegs ws = 0 then t.segs else localSegs s c (recSegs ws)

/-- The thread of a spawn record (R12, R136, R279). -/
def spawnThread (t : Thread) (ws : List Word) (segs : Vector (BitVec 128) 8) : Thread :=
  { wrRegs Thread.blank 1 (rdFrom ws 4 8) with
    pc := recPc ws, lim := recLim ws, rank := wordAt ws 2, wlim := wordAt ws 3, tvec := wordAt ws 13,
    upc := wordAt ws 14, segs := segs, envs := segs, kind := .spawned, asn := t.asn }
where
  /-- Words `i` to `i + n - 1` of a record. -/
  rdFrom (ws : List Word) (i n : Nat) : List Word := (List.range n).map fun j => wordAt ws (i + j)

/-- The slot that a record gets, if it gets one. -/
def spawnSlot (k : Core) (want : Nat) : Option Nat :=
  if want = 0 then (vacantSlots k).head? else if (vacantSlots k).contains want then some want else none

/-- What SPAWN does with its record (R136, R285). -/
def spawnWith (x : Ctx) (t : Thread) (a : Nat) (s : State) (ws : List Word) : Res :=
  if !spawnOk ws then done s x (wrReg t a 0xFFFFFFFF)
  else
    let segs := spawnSegs s x.core t ws
    let k := getCore s x.core
    if !segs.toList.all segValid then done s x (wrReg t a 0xFFFFFFFF)
    else if !k.pairs.isEmpty && segs.toList.any fun d => reachesCommit d x.core then done s x (wrReg t a 0xFFFFFFFF)
    else
      match spawnSlot k (recWant ws) with
      | none => done s x (wrReg t a 0)
      | some i =>
        done (setThread s x.core i (spawnThread t ws (segs.map segClean))) x (wrReg t a (BitVec.ofNat 32 i))

/-- A record of `n` bytes at a register's segmented address, read with a default access. -/
def recordOp (x : Ctx) (t : Thread) (s : State) (a : Word) (n : Nat) (k : State → List Word → Res) : Res :=
  rangeOp x t s (selOf a) (offOf a) n n needR 5 fun s ps => k s (rangeWords s ps n)

def execSpawn (o : ShU) : State → Outcome State Fault Refusal :=
  issue (o.use true).slot0 fun x t s => recordOp x t s (rdReg t o.b.toNat) 64 (spawnWith x t o.a.toNat)

/-! ### REAP, EXIT, TRIGGER (R137 to R139) -/

def execReap (o : ShU) : State → Outcome State Fault Refusal :=
  issue (o.use true).slot0 fun x t s =>
    let i := ((rdReg t o.b.toNat).extractLsb' 0 4).toNat
    match (getSlot s x.core i).content with
    | .exited w => done (setContent s x.core i .vacant) x (setFlag (wrReg t o.a.toNat w) 1 true)
    | _ => done s x (setFlag (wrReg t o.a.toNat 0) 1 false)

/-- EXIT: CONVOY in a convoy (R153), ILLEGAL in slot 0 (R113); it waits for the thread's relaxed accesses. -/
def execExit (o : ShA) : State → Outcome State Fault Refusal :=
  issue (o.use [o.a.toNat] []).oncely fun x t s =>
    if t.convoy then .trap .convoy 0 0
    else if x.slot = 0 then .trap .illegal 0 0
    else if !(ownRelaxed s x.core x.slot).isEmpty || !streamIdle s x.core x.slot then .wait .waitMem id
    else .left (endThread s x.core x.slot t ((rdReg t o.a.toNat).extractLsb' 0 8).toNat 0)

/-- Every access of the thread has performed at package scope (R139, R140). -/
def quiet (s : State) (x : Ctx) : Bool := allPerformed s x.core x.slot 4

def execTrigger (o : ShZ) : State → Outcome State Fault Refusal :=
  issue o.use.oncely fun x t s =>
    if !quiet s x then .wait .waitMem id
    else if t.kind = .spawned then done s x t
    else done (markTriggered s t) x { t with triggered := true }

/-! ### LAUNCH (R122 to R124, R140) -/

/-- The status of a LAUNCH and the state after it: not opened, halted, full or taken. -/
def launchEnqueue (s : State) (q : Nat) (desc : Nat) : State × Word :=
  if !(getQueue s q).devq then (s, 3)
  else
    match enqueue s q ⟨desc, none⟩ with
    | .taken s' => (s', 0)
    | .full => (s, 1)
    | .halted s' => (s', 2)

def execLaunch (o : ShT) : State → Outcome State Fault Refusal :=
  issue (o.use true).oncely fun x t s =>
    let a := rdReg t o.b.toNat
    piecesOp x t s (selOf a) (offOf a) 128 needR 5 (locateHalves s x.core t (selOf a) (offOf a) needR) fun s1 ps =>
      if !quiet s1 x then .wait .waitMem id
      else
        let r := launchEnqueue s1 ((rdReg t o.cNum).extractLsb' 0 6).toNat
          (numOf (rangeWords s1 (ps.take 1) 64 ++ rangeWords s1 (ps.drop 1) 64))
        done r.1 x (wrReg t o.a.toNat r.2)

/-! ### BAR (R133, R141, R335) -/

/-- A thread that belongs to a population. -/
def inPopulation (t : Thread) : Bool := t.kind = .launch && t.lid != 0

def execBar (o : ShSc) : State → Outcome State Fault Refusal :=
  issue o.use.oncely fun x t s =>
    if t.convoy then .trap .convoy 0 0
    else if !inPopulation t then .trap .illegal 0 0
    else if o.scope = 5 && !((podEntry s t.lid).any fun e => e.members.getLsbD (s.cc.pkg % 1024)) then
      .trap .queue 0 t.lid
    else if o.scope = 0 then done s x t
    else .hold s (.bar o.scope.toNat) .waitMsg 0

end Sys2Proof.Machine
end

