-- ==== Sys2Proof/Machine/Messages.lean ====
section
/-! DEFINITION. Messages, channels, handlers and the four queue registers of a thread (R170 to R174, R178, R187 to R190,
R255, R266, R277). -/

namespace Sys2Proof.Machine

open Host (Outcome)

/-! ### Messages (R173) -/

/-- A message sets out. -/
def post (s : State) (srcCore srcSlot dst chan : Nat) (payload : List Word) (held about : Option Nat) : State :=
  { s with
    net := s.net ++ [{ id := s.serial, srcCore := srcCore, srcSlot := srcSlot, dst := dst, chan := chan
                       words := msgWord0 chan srcSlot srcCore :: payload, held := held, about := about
                       inHand := false, after := 0 }]
    serial := s.serial + 1 }

/-! ### The channel table (R172) -/

def entLim (e : Word) : Nat := 8 * ((e.extractLsb' 25 4).toNat + 1)
def entSlot (e : Word) : Nat := (e.extractLsb' 21 4).toNat
def entTarget (e : Word) : Nat := (e.extractLsb' 19 2).toNat
def entBlk (e : Word) : Bool := e.getLsbD 18
def entPrio (e : Word) : Nat := (e.extractLsb' 16 2).toNat
def entEntry (e : Word) : Word := e &&& 0xFFFF
def chanEntry (k : Core) (ch : Nat) : Word := (k.chan[ch]?).getD 0
def setChan (k : Core) (ch : Nat) (v : Word) : Core := { k with chan := k.chan.setIfInBounds ch v }

/-- CHSET takes this entry. -/
def entOk (e : Word) : Bool :=
  !e.getLsbD 0 && e.extractLsb' 29 3 == 0 && !(entTarget e = 3 && (entSlot e = 0 || entSlot e = 15))

/-- The channels whose messages go as their table entry says; those of channel 1 are held for the slot they name (R170,
R172). -/
def tabled (ch : Nat) : Bool := ch != 1 && ch != 3

/-- The slot a message is held for: the one it names on channel 1, or the slot of a SLOT channel. -/
def heldFor (k : Core) (m : Msg) : Option Nat :=
  match m.held with
  | some i => some i
  | none => if tabled m.chan && entTarget (chanEntry k m.chan) = 3 then some (entSlot (chanEntry k m.chan)) else none

/-- Channels 0 to 7 are slot 0's to change (R187). -/
def chanOp (x : Ctx) (t : Thread) (a : Nat) (k : Nat → Res) : Res :=
  let ch := ((rdReg t a).extractLsb' 0 6).toNat
  if ch ≤ 7 && x.slot != 0 then .trap .priv 0 0 else k ch

def execChset (o : ShAB) : State → Outcome State Fault Refusal :=
  issue (o.use [o.a.toNat, o.b.toNat] [o.a.toNat]).oncely fun x t s =>
    chanOp x t o.a.toNat fun ch =>
      if entOk (rdReg t o.b.toNat) then
        done (modCore s x.core fun k => setChan k ch (rdReg t o.b.toNat)) x
          (wrReg t o.a.toNat (chanEntry (getCore s x.core) ch))
      else done s x (wrReg t o.a.toNat 0xFFFFFFFF)

def blockChan (b : Bool) (x : Ctx) (s : State) (ch : Nat) : Res :=
  .ok (modCore s x.core fun k => setChan k ch (putBit (chanEntry k ch) 18 b))

def execChblk (o : ShA) : State → Outcome State Fault Refusal :=
  issue (o.use [o.a.toNat] []).oncely fun x t s => chanOp x t o.a.toNat (blockChan true x s)
def execChunb (o : ShA) : State → Outcome State Fault Refusal :=
  issue (o.use [o.a.toNat] []).oncely fun x t s => chanOp x t o.a.toNat (blockChan false x s)

/-! ### SEND and arrival (R170, R173, R187) -/

/-- The payload registers g(B) to g(B+6). -/
def payloadRegs (o : ShAB) : List Nat := if o.b = 0 then [] else (List.range 7).map fun j => o.b.toNat + j
def payloadOf (o : ShAB) (t : Thread) : List Word :=
  if o.b = 0 then List.replicate 7 0 else rdRegs t o.b.toNat 7

def execSend (o : ShAB) : State → Outcome State Fault Refusal :=
  issue (o.use (o.a.toNat :: payloadRegs o) []).oncely fun x t s =>
    let dest := rdReg t o.a.toNat
    let c := (dest.extractLsb' 0 16).toNat
    let ch := (dest.extractLsb' 16 6).toNat
    if ch ≤ 3 || (ch ≤ 7 && x.slot != 0) then .trap .priv 0 0
    else if !presentCore s c then .trap .queue 0 0
    else if !quiet s x then .wait .waitMem id
    else .hold (post s x.core x.slot c ch (payloadOf o t) none none) (.send s.serial) .waitMsg 0

/-- The answer to a SEND reaches its thread, if it still waits for it. -/
def answerSend (s : State) (m : Msg) (kept : Bool) : State :=
  modPend s m.srcCore m.srcSlot fun t =>
    match t.pend with
    | some ⟨.send id, _, _, _⟩ => if id = m.id then finish (setFlag t 1 kept) else t
    | _ => t

/-- A parked WAIT ends when a message for the slot's q3 arrives (R183). -/
def wakeByMessage (s : State) (c i : Nat) : State :=
  modPend s c i fun t =>
    match t.pend with
    | some ⟨.park, _, _, _⟩ => finish t
    | _ => t

/-- An earlier message of the same sender, core and channel is still on its way (R173). -/
def behind (m : Msg) (earlier : List Msg) : Bool :=
  earlier.any fun e => e.srcCore = m.srcCore && e.srcSlot = m.srcSlot && e.dst = m.dst && e.chan = m.chan

/-- Message `n` of those on their way can arrive: its channel is OFF and a SEND hears of it, or the inbox has a place. A
request of the hardware stays on its way while its channel is OFF (log entry 21), and a withdrawal until its owner has
had the cycle in which the limit was met (R178, R320). -/
def canArrive (s : State) (n : Nat) : Bool :=
  match s.net[n]? with
  | none => false
  | some m =>
    let k := getCore s m.dst
    !behind m (s.net.take n) && m.after ≤ k.cycle &&
      (if tabled m.chan && entTarget (chanEntry k m.chan) = 0 then m.chan ≥ 4 else k.inbox.length < 64)

def execMessageArrival (n : Nat) (s : State) : Outcome State Fault Refusal :=
  .next <|
    match s.net[n]? with
    | none => s
    | some m =>
      if !canArrive s n then s
      else
        let s1 := { s with net := s.net.eraseIdx n }
        if m.chan ≥ 4 && entTarget (chanEntry (getCore s m.dst) m.chan) = 0 then answerSend s1 m false
        else
          let s2 := answerSend (modCore s1 m.dst fun k => { k with inbox := k.inbox ++ [m] }) m true
          match heldFor (getCore s m.dst) m with
          | none => s2
          | some i => wakeByMessage s2 m.dst i

/-! ### Dispatch (R171, R174, R277) -/

/-- A handler's segments: the core's table, a broken descriptor read as NONE, or slot 0's own. Of a table that passes the end
of the local store the descriptors past the end are NONE (DESIGN CHOICE, log entry 79). -/
def handlerSegs (s : State) (c : Nat) : Vector (BitVec 128) 8 :=
  let h := (getCore s c).hsegs.toNat
  if h = 0 then ((threadAt s c 0).map (·.segs)).getD (.replicate 8 segNone)
  else
    Vector.ofFn fun k : Fin 8 =>
      let d := (localSegs s c h)[k.val]
      if h + 16 * (k.val + 1) ≤ 2 ^ 16 && segValid d then segClean d else segNone

/-- The thread that a message becomes. -/
def handlerThread (s : State) (c : Nat) (kind : Kind) (e : Word) (m : Msg) : Thread :=
  { wrRegs Thread.blank 1 m.words with
    pc := entEntry e, lim := entLim e, segs := handlerSegs s c, envs := handlerSegs s c, kind := kind
    asn := ((threadAt s c 0).map (·.asn)).getD 0 }

def dropMsg (s : State) (c id : Nat) : State :=
  modCore s c fun k => { k with inbox := k.inbox.filter fun m => m.id != id }

/-- A REMOTE request performs at its target by the handler of channel 0. -/
def serveRemote (s : State) (id : Nat) : State :=
  match s.flight.find? fun f => f.id = id with
  | some a => if a.stage = .remote then attempt s a else s
  | none => s

/-- A withdrawal reaches the owner: a request not yet served is taken off; the answer says so (R178). -/
def withdrawRemote (s : State) (id : Nat) : State :=
  match s.flight.find? fun f => f.id = id with
  | some a =>
    if a.stage = .replied then s
    else setFlight { s with serial := s.serial + 1 } { a with stage := .replied, okay := false, seq := s.serial }
  | none => s

/-- The system message that slot 15 takes next: the oldest on channels 0 and 2 that is to run there (R174). -/
def systemMsg (k : Core) : Option Msg :=
  k.inbox.find? fun m =>
    (m.chan = 0 || m.chan = 2) && entTarget (chanEntry k m.chan) = 1 && !entBlk (chanEntry k m.chan)

/-- The unblocked message of a target that is dispatched next: highest PRIO, then oldest. -/
def dispatchMsg (k : Core) (target : Nat) : Option Msg :=
  k.inbox.foldl
    (fun best m =>
      let e := chanEntry k m.chan
      if tabled m.chan && !(target = 1 && m.chan < 4) && entTarget e = target && !entBlk e then
        match best with
        | none => some m
        | some b => if entPrio e > entPrio (chanEntry k b.chan) then some m else some b
      else best) none

/-- The handler in slot 15 performs a request that waits in its word's queue (R171, R179). -/
def handlerBusy (s : State) (c : Nat) : Bool :=
  s.flight.any fun f => f.remote && f.stage = .queued && f.kind != .rsv && remoteCore f = c

def handlerReady (s : State) (c : Nat) : Bool :=
  let k := getCore s c
  (k.slotAt 15).isVacant && !handlerBusy s c && ((systemMsg k).isSome || (dispatchMsg k 1).isSome)

/-- Slot 15 takes a message. While an entry of channel 0 or 2 names the handler that boot firmware installs, which stands at
ENTRY 0, that handler does its work at once (R171; log entry 21). -/
def execHandlerDispatch (core : Nat) (s : State) : Outcome State Fault Refusal :=
  let k := getCore s core
  .next <|
    if !handlerReady s core then s
    else
      match if (systemMsg k).isSome then systemMsg k else dispatchMsg k 1 with
      | none => s
      | some m =>
        let s1 := dropMsg s core m.id
        let e := chanEntry k m.chan
        if m.chan = 0 && entEntry e = 0 then serveRemote s1 (m.about.getD 0)
        else if m.chan = 2 && entEntry e = 0 then withdrawRemote s1 (m.about.getD 0)
        else setThread s1 core 15 (handlerThread s core .handler e m)

def freshReady (k : Core) : Bool := (dispatchMsg k 2).isSome && !(vacantSlots k).isEmpty

/-- A FRESH message gets a work slot as a SPAWN would. -/
def execFreshDispatch (core : Nat) (s : State) : Outcome State Fault Refusal :=
  let k := getCore s core
  .next <|
    match dispatchMsg k 2, vacantSlots k with
    | some m, i :: _ => setThread (dropMsg s core m.id) core i (handlerThread s core .fresh (chanEntry k m.chan) m)
    | _, _ => s

/-- The grant of a REMOTE reservation has reached its core: its 64 cycles begin (R332). -/
def startResv (s : State) (a : Access) : State :=
  if a.kind = .rsv then
    { s with resvs := s.resvs.map fun r =>
        if r.core = a.core && r.slot = a.slot && (accWords a).contains r.word
        then { r with since := some (getCore s a.core).cycle } else r }
  else s

/-- RESUME asks for the next word of its frame (R276). -/
def nextFrameWord (s : State) (a : Access) : State :=
  sendRequest s { a with parts := a.parts.map fun p => { p with place := p.place.shift 4, named := p.named + 4 } }

/-- The reply to a REMOTE access reaches its thread (R171). -/
def execRemoteReply (id : Nat) (s : State) : Outcome State Fault Refusal :=
  .next <|
    match s.flight.find? fun f => f.id = id with
    | some a =>
      if a.stage != .replied || !replyFree s a || a.via = .sweep || (!a.okay && (a.kind = .lde || a.kind = .ldt)) then s
      else
        match a.kind with
        | .frame _ => if a.result.length < 4 then nextFrameWord s a else completeAccess s a a.result a.okay
        | _ => completeAccess (startResv s a) a a.result a.okay
    | none => s

/-- The owner's answer to a withdrawal (R178, R267): the value; or the trap at the limit, or, where a stop asked for it, the
instruction abandoned with nothing changed. -/
def execWithdrawalAnswer (core slot : Nat) (s : State) : Outcome State Fault Refusal :=
  .next <|
    match threadAt s core slot with
    | none => s
    | some t =>
      match t.pend with
      | some ⟨.withdrawn id stop, _, _, _⟩ =>
        match s.flight.find? fun f => f.id = id with
        | some a =>
          if a.stage != .replied || !replyFree s a then s
          else if a.okay then completeAccess s a a.result true
          else if stop then modPend (dropFlight s id) core slot abandon
          else
            trapPend (dropFlight s id) core slot (abandon t) ⟨.waitlim, 0, a.named, t.pc, false, 0⟩
        | none => s
      | _ => s

/-! ### Binding (R188, R190) -/

/-- What a queue keeps when its binding ends: q3 the rest of the message in hand (log entry 22). -/
def Stream.ended (v : Stream) : Stream := { Stream.off with hand := v.hand, handAll := v.handAll }

/-- Words that a load stream has asked for and not had are given up (R190). -/
def dropWords (s : State) (c i q : Nat) : State :=
  { s with flight := s.flight.filter fun f => !(f.core = c && f.slot = i && f.via = .queue q && isLoadKind f.kind) }

/-- A stream descriptor's ranges. -/
def streamDescOk (ws : List Word) : Bool :=
  (wordAt ws 0).toNat % 4 = 0 && 1 ≤ (wordAt ws 1).toNat && (wordAt ws 1).toNat ≤ 2 ^ 24 &&
    (wordAt ws 2).toNat % 4 = 0 && (ws.drop 3).all (· == 0)

/-- gB is bound to another queue. -/
def boundElsewhere (t : Thread) (q r : Nat) : Bool :=
  (List.range 4).any fun k => k != q && (streamOf t k).bound && (streamOf t k).reg = r

/-- The binding of a queue to a register. -/
def bindTo (t : Thread) (q r : Nat) (addr : Word) (count : Nat) (stride : Word) : Thread :=
  setStream t q { (streamOf t q).ended with bound := true, reg := r, addr := addr, left := count, stride := stride }

/-- What BIND leaves. -/
def bindDone (s : State) (x : Ctx) (q : Nat) (t : Thread) : Res := done (dropWords s x.core x.slot q) x t

def execBind (o : ShBind) : State → Outcome State Fault Refusal :=
  issue o.use fun x t s =>
    let q := o.q.toNat
    if boundElsewhere t q o.b.toNat then .trap .queue 0 0
    else if q = 2 && !streamIdle s x.core x.slot then .wait .waitMem id
    else if q = 3 then done s x (bindTo t 3 o.b.toNat 0 0 0)
    else
      recordOp x t s (rdReg t o.c.toNat) 64 fun s ws =>
        if streamDescOk ws then
          bindDone s x q (bindTo t q o.b.toNat (wordAt ws 0) (wordAt ws 1).toNat (wordAt ws 2))
        else .trap .queue 0 0

def execUnbind (o : ShQ) : State → Outcome State Fault Refusal :=
  issue o.use.oncely fun x t s =>
    let q := o.q.toNat
    if q = 2 && !streamIdle s x.core x.slot then .wait .waitMem id
    else bindDone s x q (setStream t q (streamOf t q).ended)

/-! ### Streams (R189, R262, R309) -/

/-- One word of a stream is past: its address moves on, and after the last word the binding ends by itself. -/
def Stream.next (v : Stream) : Stream :=
  if v.left ≤ 1 then v.ended else { v with addr := v.addr + v.stride, left := v.left - 1 }

/-- Where a word of a stream leads; walks are made on the spot, and another core's word through SPREAD is out of reach
(log entry 23). -/
def streamWord (s : State) (c : Nat) (t : Thread) (a : Word) (need : Need) : State × Loc :=
  match resolve s c ((t.segs[selOf a]?).getD 0) (offOf a) 4 4 need with
  | .ok (.virt va) =>
    let s1 := walkAll c t.asn need 5 s va
    (s1, locate s1 c { t with faultPage := none, missAt := none } (selOf a) (offOf a) 4 4 need)
  | _ => (s, locate s c t (selOf a) (offOf a) 4 4 need)

/-- The word of a stream waits behind a request that waits in the miss table (R194). -/
def wordHeld (s : State) (c : Nat) (t : Thread) (l : Loc) : Bool :=
  match l with
  | .miss va => behindMiss s c t.asn none va
  | _ => false

/-- What stops a stream at a word, as the trap will say it. -/
def locFault (a : Word) : Loc → Cause × Word × Bool × Nat
  | .trap c _ => (c, a, false, 0)
  | .page kf va _ => (.page, a, kf, va)
  | .miss va => (.page, a, false, va)
  | _ => (.segv, a, false, 0)

/-- The stream stops at its next word. -/
def stopStream (s : State) (c i q : Nat) (f : Cause × Word × Bool × Nat) : State :=
  modThread s c i fun t => setStream t q { streamOf t q with failed := some f }

/-- The bound register is empty, and no instruction in progress may have to have it back. -/
def wants (t : Thread) (v : Stream) : Bool := v.bound && !isFull t v.reg && !heldBack t v.reg

/-- A word of a stream as an access in flight. -/
def streamAccess (s : State) (c i q : Nat) (t : Thread) (kind : AccKind) (p : Place) (va : Option Nat) (hops : Nat)
    (a data : Word) (remote : Bool) : Access :=
  { newAccess s ⟨c, i, 0, 0⟩ t kind [⟨0, p, 4, data, false, va, a, hops⟩] (some 0) a 0 none remote false with via := .queue q }

/-- A word of a queue is on its way. -/
def wordOut (s : State) (c i q : Nat) : Bool := s.flight.any fun f => f.core = c && f.slot = i && f.via = .queue q

/-- The pair's next value for one of its threads is a word that came through this queue (R286). -/
def loggedWord (p : Pair) (lead : Bool) (q : Nat) : Option (LvEntry × Stream) :=
  (p.lvq[if lead then p.leadAt else p.trailAt]?).bind fun e =>
    e.stream.bind fun v => if v.1 = q then some (e, v.2) else none

/-- The leading thread is in a replay. -/
def replaying (p : Pair) : Bool := p.leadAt < p.lvq.length

/-- A pair's thread takes a word of a queue from the load-value queue, and that queue's state with it (R286, R289). -/
def logFill (s : State) (c i q : Nat) (t : Thread) (p : Pair) : State :=
  let lead := t.role = .leading
  match loggedWord p lead q with
  | none => s
  | some (e, v) =>
    if wants t (streamOf t q) then
      setPair (setThread s c i (wrReg (setStream t q v) (streamOf t q).reg (e.value.headD 0))) c
        (if lead then { p with leadAt := p.leadAt + 1 } else { p with trailAt := p.trailAt + 1 })
    else s

/-- A word enters a bound register; in a pair it also enters the load-value queue. `t` is the thread with the word
delivered, `a` the address that names the word. -/
def fillWord (s : State) (c i q : Nat) (t : Thread) (a : Nat) (w : Word) : State :=
  match t.role, pairOf s c i with
  | .leading, some p =>
    setPair (setThread s c i t) c
      { p with lvq := p.lvq ++ [⟨a, 4, [w], some (q, streamOf t q), none⟩], leadAt := p.leadAt + 1 }
  | _, _ => setThread s c i t

/-- Where a thread stands with the words of its queues: alone, or in a pair at its storage, or at the log. -/
def fromLog (s : State) (c i : Nat) (t : Thread) : Option Pair :=
  match t.role, pairOf s c i with
  | .trailing, some p => some p
  | .leading, some p => if replaying p then some p else none
  | _, _ => none

/-- The load-value queue has room for a word. -/
def logRoom (s : State) (c i : Nat) (t : Thread) : Bool :=
  t.role != .leading || (!t.stopped && (pairOf s c i).all fun p => p.lvq.length < 64)

/-- Gives a load stream's first word ahead to its register. -/
def deliver (s : State) (c i q : Nat) (t : Thread) : State :=
  let v := streamOf t q
  match v.ahead with
  | [] => s
  | w :: ws =>
    fillWord s c i q (wrReg (setStream t q { v.next with ahead := if v.left ≤ 1 then [] else ws }) v.reg w) v.addr.toNat w

/-- The engine is taking the stream's words (R244). -/
def engineTakes (s : State) (c i q : Nat) : Bool :=
  ((getCore s c).matQ ++ (getCore s c).matRun.toList).any fun m =>
    m.slot = i && m.need > 0 && !m.gone && m.ctl.extractLsb' 30 2 = BitVec.ofNat 2 (q + 1)

/-- Reads one word ahead; a word that fails its checks stops the stream once it is the next to deliver. A REMOTE word goes
as a request on channel 0 (R171), one in another package out on its device link (R333). -/
def readAhead (s : State) (c i q : Nat) (t : Thread) : State :=
  let v := streamOf t q
  let a := v.addr + BitVec.ofNat 32 v.ahead.length * v.stride
  let r := streamWord s c t a needR
  match r.2 with
  | .here p va passed =>
    let s1 := settleEarlier (countMarks r.1 c passed) c [p] [wordKey p]
    if p.isPeer then
      addFlight (countMarks r.1 c passed)
        { streamAccess s1 c i q t .load p va passed.length a 0 false with
          trail := passed, vas := throughVas s1 c t.asn (globalVa t (selOf a) (offOf a)) passed }
    else if pathHeld s1 c [p] [wordKey p] then r.1
    else
      let s2 := countPlace s1 c p
      if anyBad s2 p 4 then
        if v.ahead.isEmpty then stopStream (consumed s2 c) c i q (.memerr, a, false, 0) else r.1
      else modThread s2 c i (takeAhead q [loadWord s2 p])
  | .remote p => sendRemote r.1 (streamAccess r.1 c i q t .load p none 0 a 0 true)
  | l =>
    if wordHeld r.1 c t l then s
    else if v.ahead.isEmpty && (!isFull t v.reg || engineTakes s c i q) then stopStream r.1 c i q (locFault a l) else s

/-- A load stream can deliver, or read further ahead: up to eight words. -/
def fillReady (s : State) (c i q : Nat) (t : Thread) : Bool :=
  let v := streamOf t q
  match fromLog s c i t with
  | some p => wants t v && (loggedWord p (t.role = .leading) q).isSome
  | none =>
    v.bound && v.failed.isNone && t.role != .trailing &&
      ((!v.ahead.isEmpty && wants t v && logRoom s c i t) || (v.ahead.length < min 8 v.left && !wordOut s c i q))

def fill (s : State) (c i q : Nat) : State :=
  match threadAt s c i with
  | none => s
  | some t =>
    let v := streamOf t q
    if !fillReady s c i q t then s
    else
      match fromLog s c i t with
      | some p => logFill s c i q t p
      | none =>
        if !v.ahead.isEmpty && wants t v && logRoom s c i t && !engineTakes s c i q then deliver s c i q t
        else if v.ahead.length < min 8 v.left && !wordOut s c i q then readAhead s c i q t
        else s

def execStreamLoadFill (core slot queue : Nat) (s : State) : Outcome State Fault Refusal :=
  .next <| if queue < 2 then fill s core slot queue else s

/-- q2 can take a value: the one before it has been written, and in a pair the comparator has room. Until it takes a value,
no FENCE or signal waits for that value (DESIGN CHOICE, log entry 79). -/
def takeReady (s : State) (c i : Nat) (t : Thread) : Bool :=
  let v := streamOf t 2
  v.bound && v.failed.isNone && isFull t v.reg && !heldBack t v.reg && !wordOut s c i 2 &&
    match t.role, pairOf s c i with
    | .alone, _ => true
    | .leading, some p => !t.stopped && p.cmp.length < 32 && released s c i
    | .trailing, some p => (p.unmatched).any (·.stream)
    | _, none => false

/-- q2 has taken its register's value. -/
def taken (t : Thread) : Thread := emptyReg (setStream t 2 (streamOf t 2).next) (streamOf t 2).reg

/-- The store of a value that q2 takes: on its way, or in a pair's comparator (R189, R287). -/
def storeOut (s : State) (c i : Nat) (t : Thread) (a : Access) : State :=
  match t.role, pairOf s c i with
  | .leading, some p => setPair (setThread s c i (taken t)) c { p with cmp := p.cmp ++ [cmpEntryOf a true] }
  | _, _ =>
    if a.remote then sendRemote (setThread s c i (taken t)) a else addFlight (setThread s c i (taken t)) a

/-- The trailing thread's store stream against the comparator (R287). -/
def matchTaken (s : State) (c i : Nat) (t : Thread) (p : Pair) : State :=
  let v := streamOf t 2
  let mine := cmpEntryOf (streamAccess s c i 2 t .store (.host 0) none 0 v.addr (rdReg t v.reg) false) true
  match p.unmatched with
  | none => s
  | some e =>
    if sameStore e mine then setPair (setThread s c i (taken t)) c { p with cmp := matchFirst p.cmp }
    else mismatch s c p t.pc

def takeStore (s : State) (c i : Nat) : State :=
  match threadAt s c i with
  | none => s
  | some t =>
    let v := streamOf t 2
    if !takeReady s c i t then s
    else
      match t.role, pairOf s c i with
      | .trailing, some p => matchTaken s c i t p
      | _, _ =>
        let r := streamWord s c t v.addr needW
        let out (s : State) (p : Place) (va : Option Nat) (passed : List Place) (remote : Bool) : State :=
          storeOut s c i t
            { streamAccess s c i 2 t .store p va passed.length v.addr (rdReg t v.reg) remote with
              vas := throughVas s c t.asn (globalVa t (selOf v.addr) (offOf v.addr)) passed }
        match r.2 with
        | .here p va passed => out (countMarks r.1 c passed) p va passed false
        | .remote p => out r.1 p none [] true
        | l => if wordHeld r.1 c t l then s else stopStream r.1 c i 2 (locFault v.addr l)

def execStreamStoreTake (core slot : Nat) (s : State) : Outcome State Fault Refusal := .next <| takeStore s core slot

/-! ### q3 (R189, R255) -/

/-- The message that a slot's q3 takes next: for slot 0 the trap notices by slot, then the inbox in order. -/
def q3Next (k : Core) (i : Nat) : Option Msg :=
  match if i = 0 then (List.range 16).findSome? fun j => (k.slotAt j).notice else none with
  | some m => some m
  | none => k.inbox.find? fun m => heldFor k m = some i && !m.inHand && !(tabled m.chan && entBlk (chanEntry k m.chan))

/-- The first word of a message has been taken: it is in hand until its last word. -/
def takeInHand (k : Core) (i : Nat) (m : Msg) : Core :=
  if m.id = 0 then
    { k with slots := k.slots.map fun x => if x.notice = some m then { x with notice := none } else x }
  else
    { k with inbox := k.inbox.map fun e => if e.id = m.id then { e with held := some i, inHand := true } else e }

/-- The message in hand is consumed. -/
def consumeHand (k : Core) (i : Nat) : Core :=
  { k with inbox := k.inbox.filter fun m => !(m.inHand && m.held = some i) }

def q3Ready (s : State) (c i : Nat) (t : Thread) : Bool :=
  let v := streamOf t 3
  wants t v &&
    match fromLog s c i t with
    | some p => (loggedWord p (t.role = .leading) 3).isSome
    | none =>
      t.role != .trailing && logRoom s c i t && (!v.hand.isEmpty || (q3Next (getCore s c) i).isSome)

/-- The word of a message, as the load-value queue names it: by its number in the message. -/
def q3Key (left : Nat) : Nat := 2 ^ 41 + (8 - left)

def deliverQ3 (s : State) (c i : Nat) : State :=
  match threadAt s c i with
  | none => s
  | some t =>
    let v := streamOf t 3
    if !q3Ready s c i t then s
    else
      match fromLog s c i t with
      | some p => logFill s c i 3 t p
      | none =>
        match v.hand with
        | [w] =>
          modCore (fillWord s c i 3 (wrReg (setStream t 3 { v with hand := [], handAll := [] }) v.reg w) (q3Key 1) w) c
            fun k => consumeHand k i
        | w :: ws => fillWord s c i 3 (wrReg (setStream t 3 { v with hand := ws }) v.reg w) (q3Key (ws.length + 1)) w
        | [] =>
          match q3Next (getCore s c) i with
          | none => s
          | some m =>
            modCore
              (fillWord s c i 3
                (wrReg (setStream t 3 { v with hand := m.words.drop 1, handAll := m.words }) v.reg (m.words.headD 0))
                (q3Key 8) (m.words.headD 0))
              c fun k => takeInHand k i m

def execQ3Delivery (core slot : Nat) (s : State) : Outcome State Fault Refusal := .next <| deliverQ3 s core slot

end Sys2Proof.Machine
end

