-- ==== Sys2Proof/Machine/Perform.lean ====
section
/-! DEFINITION. The events of memory: reservations, wait limits, walks, shootdowns, page requests and notices, and stops
(R155, R169, R178 to R180, R193 to R195, R259, R261, R264 to R267, R332). -/

namespace Sys2Proof.Machine

open Host (Outcome)

def findFlight (s : State) (id : Nat) : Option Access := s.flight.find? fun f => f.id = id

/-! ### Performing (R169, R193 to R195, R307) -/

/-- An access on its way can perform at its bank now. -/
def bankReady (s : State) (a : Access) : Bool :=
  a.stage = .going && !a.remote && pathFree s a && orderFree s a && !heldUpByMove s a

/-- A REMOTE access that has not gone out can do so. -/
def requestReady (s : State) (a : Access) : Bool := a.stage = .going && a.remote && sendFree s a

/-- The path of an access to its first word. -/
def pathOfAcc (s : State) (a : Access) : List Point :=
  match a.parts with
  | [] => []
  | p :: _ => pathOf s a.core p.place

/-- The fewest path points after which a store has performed at a scope, if it has so before its bank. -/
def pointsFor (s : State) (a : Access) (scope : Nat) : Option Nat :=
  (List.range ((pathOfAcc s a).length + 1)).find? fun n => a.passed.length < n && scope ≤ scopeWith a n

/-- R194: a request that is before an access on its path has passed this point. -/
def pointFree (s : State) (a : Access) (x : Point) : Bool :=
  !(s.flight.any fun f =>
    f.id != a.id && standsBefore s f a.core (a.parts.map (·.place)) a.passed (accWords a) &&
      match (pathOfAcc s f).idxOf? x with
      | some j => f.passed.length ≤ j
      | none => false)

/-- A store on its way can perform at a scope before it reaches its bank (R195). -/
def scopeReady (s : State) (a : Access) (scope : Nat) : Bool :=
  a.stage = .going && a.kind = .store && !a.remote && performedAt a < scope && orderFree s a && !heldUpByMove s a &&
    match pointsFor s a scope with
    | some n => ((pathOfAcc s a).take n).drop a.passed.length |>.all (pointFree s a)
    | none => false

/-- A store passes path points up to the `n`th; at the first its request counts (R328). Under CXL the host port takes a
store only once the host has it (R337). -/
def passPoints (s : State) (a : Access) (n : Nat) : State :=
  let s1 :=
    if a.passed.isEmpty && !a.foreign then
      (if a.each then a.parts else a.parts.take 1).foldl (fun s p => countOut s a.core p.place) s
    else s
  let a1 := { a with passed := a.passed ++ List.replicate (n - a.passed.length) s.serial }
  let s2 := setFlight { s1 with serial := s.serial + 1 } a1
  if s.cc.cxl && (pathOfAcc s a)[n - 1]? = some .hostPort then attempt s2 a1 else s2

/-- An outstanding access performs: at a scope from 1 to 5, or at its bank; or its request goes out. -/
def performThread (s : State) (id scope : Nat) : State :=
  match findFlight s id with
  | none => s
  | some a =>
    if 1 ≤ scope && scope ≤ 5 then
      if scopeReady s a scope then
        match pointsFor s a scope with
        | some n => passPoints s a n
        | none => s
      else s
    else if requestReady s a then sendRequest s a
    else if bankReady s a then attempt s a
    else s

/-! ### Reservations (R179, R180, R332) -/

/-- The request that stands first in a word's queue. -/
def queueHead (s : State) (w : Nat) : Option Access :=
  (s.flight.filter fun f => f.stage = .queued && (accWords f).contains w).foldl
    (fun best f => match best with | none => some f | some b => if f.seq < b.seq then some f else some b) none

/-- The first request of a word's queue can be granted. -/
def grantReady (s : State) (w : Nat) : Bool :=
  match queueHead s w with
  | none => false
  | some a => !mustQueue s a

def execReservationGrant (word : Nat) (s : State) : Outcome State Fault Refusal :=
  .next <|
    match queueHead s word with
    | none => s
    | some a => if grantReady s word then attempt s a else s

/-- 64 cycles of the holder's core have passed since the grant reached it, and its RLS is not on its way (R180, R332). -/
def resvOver (s : State) (r : Resv) : Bool :=
  r.since.any (fun w => w + 64 ≤ (getCore s r.core).cycle) &&
    !(s.flight.any fun f => f.core = r.core && f.slot = r.slot && f.kind = .rls)

def execReservationTimeout (core slot : Nat) (s : State) : Outcome State Fault Refusal :=
  .next <|
    if s.resvs.any fun r => r.core = core && r.slot = slot && resvOver s r then forceRelease s core slot else s

/-! ### Wait limits (R178) -/

/-- The count of a thread's present wait has reached WLIM, and everything of that cycle has been served (R178, R320). -/
def waitOver (s : State) (c : Nat) (t : Thread) : Bool :=
  match t.waitFrom with
  | none => false
  | some w => t.wlim != 0 && w + t.wlim.toNat < (getCore s c).cycle

/-- The thread waits in a WAITANY or WAITALL whose mask registers are full (R16, R223). -/
def tagWait (s : State) (c : Nat) (t : Thread) : Bool :=
  let ready (b : Reg) : Bool := isFull t b.toNat && isFull t (b.toNat + 1)
  match fetchInstr s c t with
  | .instr (.waitany o) => ready o.b
  | .instr (.waitall o) => ready o.b
  | _ => false

/-- The wait in progress is one that WLIM bounds: a tagged load on its waiting list or at another core, a WAIT, or a
WAITANY or WAITALL, which holds nothing. -/
def boundedWait (s : State) (c : Nat) (t : Thread) : Bool :=
  match t.pend with
  | none => tagWait s c t
  | some ⟨.park, _, _, _⟩ => true
  | some ⟨.access id, _, _, _⟩ =>
    match findFlight s id with
    | some a => (a.kind = .lde || a.kind = .ldt) && (a.stage = .listed || a.stage = .remote)
    | none => false
  | _ => false

/-- The first cycle of a core after the one that is going on: a core that has still to have its turn in it counts that one
first. -/
def cycleAfter (s : State) (d : Nat) : Nat := (getCore s d).cycle + (if s.turn ≤ d then 1 else 0)

/-- A tagged load at another core asks to be withdrawn; a store that the owner issues in the present cycle comes first
(R178, R320). -/
def askWithdrawal (s : State) (c i id : Nat) (a : Access) (stop : Bool) : State :=
  let m : Msg :=
    { id := s.serial, srcCore := c, srcSlot := i, dst := remoteCore a, chan := 2
      words := msgWord0 2 i c :: List.replicate 7 0, held := none, about := some id, inHand := false
      after := cycleAfter s (remoteCore a) }
  modPend { s with net := s.net ++ [m], serial := s.serial + 1 } c i fun t =>
    { t with pend := t.pend.map fun p => { p with what := .withdrawn id stop } }

def execWaitlimExpiry (core slot : Nat) (s : State) : Outcome State Fault Refusal :=
  .next <|
    match threadAt s core slot with
    | none => s
    | some t =>
      if !waitOver s core t || !boundedWait s core t || t.stopped || t.role = .trailing then s
      else
        match t.pend with
        | some ⟨.access id, _, _, _⟩ =>
          match findFlight s id with
          | some a =>
            if a.remote then askWithdrawal s core slot id a false
            else trapPend (dropFlight s id) core slot (abandon t) ⟨.waitlim, 0, a.named, t.pc, false, 0⟩
          | none => s
        | _ => trapPend s core slot (abandon t) ⟨.waitlim, 0, 0, t.pc, false, 0⟩

/-! ### Walks and shootdowns (R259, R261, R280) -/

/-- The walks of a quad. -/
def quadMisses (s : State) (q : Nat) : List Miss := s.xl.misses.filter fun m => m.quad = q
def dieOfQuad (q : Nat) : Nat := q / 4096
def genOf (s : State) (d : Nat) : BitVec 16 := (s.xl.gens[d]?).getD 0

/-- The threads that wait on a walk without a leaf trap PAGE at their next issue. -/
def markFault (s : State) (m : Miss) : State :=
  m.waiters.foldl (fun s w => modThread s w.1 w.2 fun t => { t with faultPage := some m.page }) s

/-- Walk `n` of a quad ends; a changed generation starts it again (R261). -/
def execTranslationWalk (quad n : Nat) (s : State) : Outcome State Fault Refusal :=
  .next <|
    match (quadMisses s quad)[n]? with
    | none => s
    | some m =>
      let d := dieOfQuad quad
      if genOf s d != m.gen then
        { s with xl := { s.xl with misses := s.xl.misses.map fun x => if x = m then { m with gen := genOf s d } else x } }
      else
        let r := walk s m.asn (m.page * 2 ^ 16)
        let s1 := countWalk { s with xl := { s.xl with misses := s.xl.misses.filter fun x => x != m } } d r.2
        match r.1 with
        | some (_, e, big) => tlbFill s1 ⟨quad, m.asn, m.page, big, e⟩
        | none => markFault s1 m

/-- A shootdown's scope covers an address. -/
def covers (scope asn page : Nat) (a va : Nat) : Bool :=
  match scope with
  | 0 => a = asn && va / 2 ^ 16 = page
  | 1 => a = asn && va / 2 ^ 21 = page / 32
  | 2 => a = asn
  | _ => true

/-- A buffer entry that a shootdown removes: one that holds some byte of its range. -/
def entryCovered (scope asn page : Nat) (e : TlbEnt) : Bool :=
  covers scope asn page e.asn (e.page * 2 ^ 16) || (e.big && scope = 0 && e.asn = asn && e.page / 32 = page / 32)

/-- An access of a core in this address space, with these words and translated besides through these addresses, used an entry
that the shootdown removes. -/
def partsCovered (s : State) (scope asn page core space : Nat) (parts : List Part) (vas : List Nat) : Bool :=
  (parts.filterMap (·.va) ++ vas).any fun v =>
    covers scope asn page space v ||
      s.xl.tlb.any fun e => e.big && entryCovered scope asn page e && tlbHit space v (quadOf core) e

/-- The stores of a core's pairs that were translated with an entry that the shootdown removes; they keep their
identifiers as they are released. -/
def heldCovered (s : State) (scope asn page : Nat) : List Nat :=
  s.cores.flatMap fun k => k.2.pairs.flatMap fun p =>
    (p.cmp.filter fun e => partsCovered s scope asn page k.1 e.asn e.parts e.vas).map (·.id)

/-- A shootdown begins: it waits for the accesses in flight and in the pairs' comparators that used a removed entry
(R261). -/
def startShoot (s : State) (owner : ShootFor) (scope asn page : Nat) : State :=
  { s with xl := { s.xl with
      tlb := s.xl.tlb.filter fun e => !entryCovered scope asn page e
      gens := s.xl.gens.map (· + 1)
      shoots := s.xl.shoots ++
        [⟨owner, scope, asn, page,
          (s.flight.filter fun a => partsCovered s scope asn page a.core a.asn a.parts a.vas).map (·.id) ++
            heldCovered s scope asn page⟩] } }

/-- Some pair still holds back a store that it translated with a removed entry. -/
def pairHolds (s : State) (h : Shoot) : Bool :=
  s.cores.any fun k => k.2.pairs.any fun p => p.cmp.any fun e => h.accs.contains e.id

/-- The first shootdown can complete. -/
def shootReady (s : State) : Bool :=
  match s.xl.shoots with
  | [] => false
  | h :: _ =>
    (s.xl.misses.all fun m => m.gen = genOf s (dieOfQuad m.quad)) &&
      (s.flight.all fun f => !h.accs.contains f.id || performedAt f ≥ 4) && !pairHolds s h

/-- The end of a move: its pending record is dropped and RELOC's status written (R308, R314). -/
def jigDone (s : State) (d : Nat) : State :=
  match (s.jigs[d]?).getD ⟨[], none⟩ with
  | ⟨_, none⟩ => s
  | ⟨q, some m⟩ =>
    modPend { s with jigs := s.jigs.setIfInBounds d ⟨q, none⟩ } m.req.core m.req.slot fun t =>
      match t.pend with
      | some ⟨.reloc id, _, r, _⟩ => if id = m.req.id then finish (wrReg t r 0) else t
      | _ => t

def execShootdownComplete (s : State) : Outcome State Fault Refusal :=
  .next <|
    match s.xl.shoots with
    | [] => s
    | h :: rest =>
      if !shootReady s then s
      else
        let s1 := { s with xl := { s.xl with shoots := rest } }
        match h.owner with
        | .tlbinv c i =>
          modPend s1 c i fun t =>
            match t.pend with
            | some ⟨.tlbinv, _, _, _⟩ => finish t
            | _ => t
        | .jigMove d => jigDone s1 d
        | .jigFree d => jigDone s1 d

/-! ### Page requests and notices (R263, R265, R266) -/

/-- The control complex deals with a page request: it writes table entries, and says whether the page is mapped. -/
def execPageRequest (n : Nat) (writes : List (Nat × BitVec 64)) (mapped : Bool) (s : State) :
    Outcome State Fault Refusal :=
  .next <|
    match s.xl.pageReqs[n]? with
    | none => s
    | some r =>
      let s1 := writes.foldl (fun s w => storeNat (takeBack s (physPlace w.1) 8) (physPlace w.1) 8 w.2.toNat)
        (logInput s (.interrupt (some (r.core, r.slot)) false))
      { s1 with xl := { s1.xl with
          pageReqs := s1.xl.pageReqs.eraseIdx n, pageNotes := s1.xl.pageNotes ++ [(r, if mapped then 0 else 1)] } }

def pageNoticeWords (r : PageReq) (status : Nat) : List Word :=
  [msgWord0 1 0 0xFFFF, BitVec.ofNat 32 (2 ^ 24 + status * 256 + r.slot), r.tval, BitVec.ofNat 32 r.va,
    BitVec.ofNat 32 (r.va / 2 ^ 32), 0, 0, 0]

/-- A page notice reaches the core's inbox. -/
def execPageNotice (n : Nat) (s : State) : Outcome State Fault Refusal :=
  .next <|
    match s.xl.pageNotes[n]? with
    | none => s
    | some (r, status) =>
      if (getCore s r.core).inbox.length ≥ 64 then s
      else
        let slot := if r.toZero then 0 else r.slot
        let m : Msg :=
          { id := s.serial, srcCore := 0xFFFF, srcSlot := 0, dst := r.core, chan := 1
            words := pageNoticeWords r status, held := some slot, about := none, inHand := false
            after := 0 }
        wakeByMessage
          (modCore { s with xl := { s.xl with pageNotes := s.xl.pageNotes.eraseIdx n }, serial := s.serial + 1 } r.core
            fun k => { k with inbox := k.inbox ++ [m] })
          r.core slot

/-! ### Stops (R264, R267) -/

/-- How a stop finds the thread's instruction in progress. -/
inductive AtStop where
  /-- given up, to issue again from fetch -/
  | drop (s : State)
  /-- completed -/
  | over (s : State)
  /-- it finishes first -/
  | later
  /-- a withdrawal must be asked for -/
  | ask (id : Nat) (a : Access)

def atStop (s : State) (c i : Nat) (t : Thread) : AtStop :=
  match t.pend with
  | none => .drop s
  | some p =>
    match p.what with
    | .access id =>
      match findFlight s id with
      | none => .later
      | some a =>
        if a.kind = .lde || a.kind = .ldt then
          if a.remote && a.stage = .going then .drop (dropFlight s id)
          else if a.remote then (if a.stage = .replied then .later else .ask id a)
          else if a.stage = .listed then .drop (dropFlight s id) else .later
        else if a.kind = .rsv && a.stage != .replied then .drop (dropFlight s id) else .later
    | .bar _ => .drop s
    | .tile _ => .drop s
    | .park => .over (modThread s c i finish)
    | .joined =>
      match jointOf s c i with
      | some e => .over (releaseHolder s c e)
      | none => .later
    | .sweep .. => if s.flight.any fun f => f.core = c && f.slot = i && f.via = .sweep then .later else .drop s
    | .migrate _ _ => .drop s
    | _ => .later

/-- The stop can take effect, or a withdrawal be asked for; in a pair, once both threads stand at one boundary (R292). -/
def stopReady (s : State) (c i : Nat) (t : Thread) : Bool :=
  (t.stopReq || t.holdReq) && t.role != .trailing && (t.role = .alone || (pairOf s c i).all (pairRest s c)) &&
    (t.stopped || match atStop s c i t with | .later => false | _ => true)

/-- A stop that was asked for has taken effect, and so has a precise stop (R264, R366). -/
def markStopped (t : Thread) : Thread :=
  { t with stopped := t.stopped || t.stopReq, stopReq := false, hold := t.hold || t.holdReq, holdReq := false }

/-- Slot 0 waits in a PARK STOP of this slot (R281). -/
def parkWaits (s : State) (c i : Nat) : Bool :=
  (threadAt s c 0).any fun t => match t.pend with | some ⟨.stopping n, _, _, _⟩ => n = i | _ => false

/-- Slot 0's PARK STOP of this slot completes (R281). A stop whose thread ends or leaves its slot before it takes effect
is not answered: slot 0 waits on until a thread of that slot stops (DESIGN CHOICE, log entry 79). -/
def parkStops (s : State) (c i : Nat) : State :=
  if parkWaits s c i then
    modThread s c 0 fun t => finish (wrReg t ((t.pend.map (·.reg)).getD 0) 0)
  else s

/-- A stop that no PARK and no eviction asked for is a drain's or a checkpoint's, which releases the thread at its end
(R303, R342). -/
def notePaused (s : State) (c i : Nat) : State :=
  if parkWaits s c i || (getCore s c).evicting = some i || !((threadAt s c i).any (·.stopReq)) then s
  else modCore s c fun k => { k with paused := setAdd k.paused i }

/-- The stop of a thread that stands alone, or of a pair's leading thread after its commit point (R292). A thread that a
trap has stopped already stays so, and is not evicted. -/
def stopNow (c i : Nat) (s : State) : State :=
  match threadAt s c i with
  | none => s
  | some t =>
    if t.stopped then
      modCore (parkStops (modThread s c i markStopped) c i) c fun k =>
        { k with evicting := if k.evicting = some i then none else k.evicting }
    else
      match atStop s c i t with
      | .drop s1 =>
        parkStops (modThread (modCore (notePaused s1 c i) c (matForget i)) c i fun t => markStopped (abandon t)) c i
      | .over s1 => parkStops (modThread (notePaused s1 c i) c i markStopped) c i
      | _ => s

def execStopEffect (core slot : Nat) (s : State) : Outcome State Fault Refusal :=
  .next <|
    match threadAt s core slot with
    | none => s
    | some t =>
      if !stopReady s core slot t then s
      else
        match t.stopped, atStop s core slot t with
        | false, .ask id a => askWithdrawal s core slot id a true
        | _, _ =>
          let s1 := onThread s core slot (stopNow core slot)
          match threadAt s1 core slot with
          | none => s1
          | some u =>
            if u.stopReq || u.holdReq then s1
            else
              let s2 := if t.role = .leading then modThread s1 core (slot + 7) markStopped else s1
              if t.holdReq then traceRecord s2 3 core slot u.pc [] else s2

end Sys2Proof.Machine
end

