-- ==== Sys2Proof/Machine/Convoy.lean ====
section
/-! DEFINITION. Convoys: page 6, the joint table, migration and the arrival queue (R143 to R162). -/

namespace Sys2Proof.Machine

open Host (Outcome)

/-! ### Places (R151, R152) -/

/-- Entries of the arrival queue that are neither occupied nor held. -/
def freePlaces (k : Core) : Nat := 16 - k.arrivals.length - k.heldPlaces

/-- What a launch gives the threads of a core: segments, WLIM, TVEC, UPC, address space, NPOP (R118, R126, R143). -/
def dress (s : State) (t : Thread) : Thread :=
  match launchOf s t.lid with
  | none => t
  | some l =>
    { t with
      segs := l.segs, envs := l.segs, asn := l.asn, npop := BitVec.ofNat 32 (dCount l.desc), wlim := BitVec.ofNat 32 (dWlim l.desc)
      tvec := BitVec.ofNat 32 (dTvec l.desc / 2 * 2), upc := BitVec.ofNat 32 (dUpc l.desc / 2 * 2) }

/-- A convoy counts in its launch from now on (R131, R157). -/
def addConvoy (s : State) (t : Thread) : State :=
  modLaunch s t.lid fun l =>
    { l with convoys := l.convoys + 1, untriggered := if t.triggered then l.untriggered else l.untriggered + 1
             conv := true }

/-- Where a convoy made on a core went. -/
inductive Placed where
  | slot (s : State)
  | queue (s : State)
  | nowhere

/-- A convoy made on a core takes a slot, or a queue place that no refused convoy has claimed. -/
def placeConvoy (s : State) (c : Nat) (t : Thread) : Placed :=
  let k := getCore s c
  match vacantSlots k with
  | i :: _ => .slot (addConvoy (setThread s c i t) t)
  | [] =>
    if freePlaces k > k.refused.length then
      .queue (addConvoy
        (modCore { s with serial := s.serial + 1 } c fun k => { k with arrivals := k.arrivals ++ [⟨s.serial, t, false⟩] }) t)
    else .nowhere

/-- A VACANT work slot goes to the oldest queued convoy that is not parked. -/
def grantable (k : Core) : Bool :=
  (k.arrivals.any fun q => !q.parked) && (List.range 15).any fun i => 1 ≤ i && (k.slotAt i).isVacant

def execArrivalSlotGrant (core : Nat) (s : State) : Outcome State Fault Refusal :=
  let k := getCore s core
  .next <|
    match k.arrivals.find? fun q => !q.parked, (List.range 15).find? fun i => 1 ≤ i && (k.slotAt i).isVacant with
    | some q, some i =>
      setThread (modCore s core fun k => { k with arrivals := k.arrivals.filter fun e => e.id != q.id }) core i q.th
    | _, _ => s

/-! ### Migration (R144, R150, R152) -/

/-- The flits of a migrating convoy (R144). A fork and a created convoy are placed on the core that makes them (R158, R159),
so kind 0 is the only one that sets out. The fraction of a WEAR unit stays behind (log entry 56). -/
def packConvoy (src dst : Nat) (t : Thread) : List Word :=
  [BitVec.ofNat 32 (dst % 2 ^ 16 + t.joinPending.toNat * 2 ^ 18 + t.triggered.toNat * 2 ^ 19), t.lid, t.f, t.qbase,
    t.qstride, BitVec.ofNat 32 (t.full.toNat / 2 % 2 ^ 23 + t.fpst.toNat * 2 ^ 23), t.rank, BitVec.ofNat 32 (src % 2 ^ 16),
    t.ecost, t.wear, t.tcause, t.tpc, t.tval, 0, 0, 0, t.pc] ++
  rdRegs t 1 23 ++ (List.range 8).map (fun i => t.m.extractLsb' (32 * i) 32) ++
  (List.range 8).map fun i => t.md.extractLsb' (32 * i) 32

def Transit.dst (m : Transit) : Nat := (wordAt m.flits 0).toNat % 2 ^ 16
def Transit.src (m : Transit) : Nat := (wordAt m.flits 7).toNat

/-- The convoy that a transfer's flits carry, before its launch dresses it at the new core. -/
def unpackConvoy (ws : List Word) : Thread :=
  { wrRegs Thread.blank 1 ((ws.drop 17).take 23) with
    pc := wordAt ws 16, f := wordAt ws 2, lid := wordAt ws 1, qbase := wordAt ws 3, qstride := wordAt ws 4
    full := (BitVec.allOnes 128 <<< 24) ||| 1 ||| ((wordAt ws 5 &&& 0x7FFFFF).setWidth 128 <<< 1)
    fpst := (wordAt ws 5).extractLsb' 23 5, rank := wordAt ws 6, ecost := wordAt ws 8, wear := wordAt ws 9
    tcause := wordAt ws 10, tpc := wordAt ws 11, tval := wordAt ws 12
    m := BitVec.ofNat 256 (wordsNat ((ws.drop 40).take 8)), md := BitVec.ofNat 256 (wordsNat ((ws.drop 48).take 8))
    joinPending := (wordAt ws 0).getLsbD 18, triggered := (wordAt ws 0).getLsbD 19, convoy := true, lim := 24 }

/-- A SPLIT or a migration is held back from now on (R152, R158, R271). -/
def heldFrom (s : State) (t : Thread) : Thread := { t with heldAt := some (t.heldAt.getD s.time.toNat) }

/-- A core whose quad is being drained takes no convoys (R303). -/
def draining (s : State) (c : Nat) : Bool := s.life.draining.any fun d => d.1 = physQuad s (quadOf c)

/-- The claims to a place on core `d` that come before a convoy's: those before its own, or all of them (R152). -/
def claimsAhead (s : State) (d : Nat) (t : Thread) : Nat :=
  let r := (getCore s d).refused
  if ownsClaim s d t && r.contains (claimKey t) then r.idxOf (claimKey t) else r.length

/-- A place request has an answer: the first one always, a refused one once a place is there for it. -/
def placeReady (s : State) (t : Thread) : Bool :=
  match t.pend with
  | some ⟨.migrate dest refused, _, _, _⟩ =>
    !refused || !presentCore s dest ||
      (!draining s dest && freePlaces (getCore s dest) > claimsAhead s dest t)
  | _ => false

def execPlaceRequest (core slot : Nat) (s : State) : Outcome State Fault Refusal :=
  .next <|
    match threadAt s core slot with
    | none => s
    | some t =>
      match t.pend with
      | some ⟨.migrate dest _, _, _, _⟩ =>
        if t.stopReq || t.holdReq then s
        else if !presentCore s dest then setThread s core slot (abandon t)
        else if !draining s dest && freePlaces (getCore s dest) > claimsAhead s dest t then
          let s1 := modCore (dropClaim s dest t) dest fun k => { k with heldPlaces := k.heldPlaces + 1 }
          { moveOut s1 core slot with moving := s.moving ++ [⟨packConvoy core dest (abandon t)⟩] }
        else
          modThread (modCore s dest fun k =>
              { k with refused := if ownsClaim s dest t && k.refused.contains (claimKey t) then k.refused
                  else k.refused ++ [claimKey t] }) core slot
            fun t => heldFrom s { t with pend := t.pend.map fun p => { p with what := .migrate dest true } }
      | _ => s

/-- A convoy reaches its core: a VACANT slot if none is older, else the queue place held for it. -/
def execConvoyArrival (n : Nat) (s : State) : Outcome State Fault Refusal :=
  .next <|
    match s.moving[n]? with
    | none => s
    | some m =>
      let t := dress s (unpackConvoy m.flits)
      let s1 := modCore (arriveImages { s with moving := s.moving.eraseIdx n } t m.dst true) m.dst fun k =>
        { k with heldPlaces := k.heldPlaces - 1 }
      match vacantSlots (getCore s1 m.dst) with
      | i :: _ => setThread s1 m.dst i t
      | [] =>
        modCore { s1 with serial := s1.serial + 1 } m.dst fun k =>
          { k with arrivals := k.arrivals ++ [⟨s1.serial, t, false⟩] }

/-! ### The joint table (R154 to R156) -/

/-- The convoy that a JOIN meets takes its manifest. -/
def meet (h a : Thread) : Thread := { h with md := h.md ||| a.md ||| (h.m &&& a.m), m := h.m ||| a.m }

def mergeInto (s : State) (c : Nat) (e : Joint) (t : Thread) : State :=
  let s1 := modCore s c fun k => { k with joint := k.joint.map fun j => if j = e then { j with merged := true } else j }
  match e.holder with
  | .slot i => modThread s1 c i fun h => meet h t
  | .queue n =>
    modCore s1 c fun k => { k with arrivals := k.arrivals.map fun q => if q.id = n then { q with th := meet q.th t } else q }

/-- A parked holder. -/
def parkJoin (t : Thread) (next : Word) : Thread :=
  { t with pend := some ⟨.joined, next, 0, []⟩, status := .parked, joinPending := false }

/-- The convoy goes on after its JOIN at once. -/
def passJoin (t : Thread) (next : Word) : Thread := { setFlag t 1 false with pc := next, joinPending := false }

/-- How a lookup ends: merged into a holder, gone on, or parked on an entry of its own. -/
inductive Looked where
  | merged (s : State)
  | passed (s : State)
  | parked (s : State)

def lookupJoin (s : State) (c : Nat) (t : Thread) (holder : Holder) (ia node : Word) (window : Nat) : Looked :=
  let k := getCore s c
  let s1 := modCore s c fun k => { k with lookup := some k.cycle }
  match k.joint.find? fun j => j.ia = ia.setWidth 14 && j.node = node && j.lid = t.lid with
  | some e => .merged (mergeInto s1 c e t)
  | none =>
    if window = 0 || k.joint.length ≥ 32 then .passed s1
    else
      .parked (modCore s1 c fun k =>
        { k with joint := k.joint ++
            [⟨holder, ia.setWidth 14, BitVec.ofNat 24 (k.cycle + window), node, t.lid, false⟩] })

/-- JOIN. Its lookup waits for the convoy's accesses and not for its matrix commands, which R155 does not name (DESIGN
CHOICE, log entry 79). -/
def execJoin (o : ShI) : State → Outcome State Fault Refusal :=
  issue (.of o.p (wordsOfChain true o.p o.imm.k) [o.a.toNat] [] []) fun x t s =>
    let node := rdReg t o.a.toNat
    let d := (t.segs[selOf node]?).getD 0
    if !t.convoy || segType d != 6 then .trap .convoy 0 0
    else
      match resolve s x.core d (offOf node) 4 4 needR with
      | .error e => .trap e 1 node
      | .ok (.away owner _) =>
        match migrate x t s owner 1 node with
        | .hold s' w st r => .hold (modThread s' x.core x.slot fun t => { t with joinPending := true }) w st r
        | r => r
      | .ok _ =>
        if !quiet s x then .wait .waitMem id
        else
          match lookupJoin s x.core t (.slot x.slot) x.ia node o.imm.raw.toNat with
          | .merged s' => .left (endThread s' x.core x.slot t 0 0)
          | .passed s' => .ok (modThread s' x.core x.slot fun t => passJoin t x.next)
          | .parked s' => .hold (modThread s' x.core x.slot fun t => { t with joinPending := false }) .joined .parked 0

/-- The oldest queued convoy whose pending instruction is a JOIN. -/
def queuedJoin (k : Core) : Option Queued := k.arrivals.find? fun q => !q.parked && q.th.joinPending

/-- The table can serve a queued convoy's JOIN in this cycle. -/
def queuedJoinReady (k : Core) : Bool := (queuedJoin k).isSome && k.lookup != some k.cycle

def setQueued (s : State) (c id : Nat) (f : Queued → Queued) : State :=
  modCore s c fun k => { k with arrivals := k.arrivals.map fun q => if q.id = id then f q else q }

def execQueuedJoinLookup (core : Nat) (s : State) : Outcome State Fault Refusal :=
  .next <|
    match queuedJoin (getCore s core) with
    | none => s
    | some q =>
      match fetchInstr s core q.th with
      | .instr (.join o) =>
        let t := q.th
        let next := t.pc + BitVec.ofNat 32 (2 * wordsOfChain true o.p o.imm.k)
        match lookupJoin s core t (.queue q.id) t.pc (rdReg t o.a.toNat) o.imm.raw.toNat with
        | .merged s' =>
          leaveLaunch (modCore s' core fun k => { k with arrivals := k.arrivals.filter fun e => e.id != q.id }) t 0 0
        | .passed s' => setQueued s' core q.id fun q => { q with th := passJoin t next }
        | .parked s' => setQueued s' core q.id fun q => { q with th := parkJoin t next, parked := true }
      | _ => setQueued s core q.id fun q => { q with th := { q.th with joinPending := false } }

/-- The entry's time has come. -/
def joinOver (k : Core) (e : Joint) : Bool := (BitVec.ofNat 24 k.cycle - e.expiry).toNat < 2 ^ 23

def execJoinExpiry (core entry : Nat) (s : State) : Outcome State Fault Refusal :=
  .next <|
    match (getCore s core).joint[entry]? with
    | none => s
    | some e => if joinOver (getCore s core) e then releaseHolder s core e else s

/-! ### Query records (R146, R161) -/

/-- The selector and offset of a word of a member's record, or the trap. -/
def recAddr (t : Thread) (id : Nat) (off : Int) : Except Cause (Nat × Int) :=
  let sel := selOf t.qbase
  let ty := segType ((t.segs[sel]?).getD 0)
  if id > 255 then .error .convoy
  else if off % 4 != 0 || off < 0 || off + 4 > t.qstride.toNat then .error .segv
  else if ty = 0 || ty = 1 || ty = 6 || ty = 7 then .error .segv
  else .ok (sel, offOf t.qbase + id * t.qstride.toNat + off)

/-- The address that a record access names, for TVAL. -/
def recNamed (t : Thread) (id : Nat) (off : Int) : Word :=
  namedAddr (selOf t.qbase) (offOf t.qbase + id * t.qstride.toNat + off)

/-- The offset of a record operand. -/
def recOff (o : ShM) (t : Thread) : Int := o.mem.imm.value 0 * 4 + o.mem.idxVal t * 4

def recordWord (o : ShM) (kno : Nat) (need : Need) (kind : AccKind) (dsts : List Nat) (data : Thread → Word)
    (x : Ctx) (t : Thread) (s : State) : Res :=
  let id := (rdReg t o.b.toNat).toNat
  if !t.convoy || id > 255 || !t.m.getLsbD id then .trap .convoy 0 0
  else
    match recAddr t id (recOff o t) with
    | .error e => .trap e kno (recNamed t id (recOff o t))
    | .ok (sel, off) =>
      memAccess x t s sel off 4 4 need kno o.rlx none dsts kind 0 (onePart o.a.toNat 4 (data t) false)

def execQld (o : ShM) : State → Outcome State Fault Refusal :=
  issue (o.useLoad true) (recordWord o 1 needR .load [o.a.toNat] fun _ => 0)
def execQst (o : ShM) : State → Outcome State Fault Refusal :=
  issue (o.useStore true) (recordWord o 2 needW .store [] fun t => rdReg t o.a.toNat)
def execQadd (o : ShM) : State → Outcome State Fault Refusal :=
  issue (o.useStore true) (recordWord o 3 ⟨false, true, true, false⟩ .qadd [] fun t => rdReg t o.a.toNat)

/-! ### Splitting (R158) -/

/-- The members of a manifest, ascending. -/
def membersOf (m : BitVec 256) : List Nat := firsts 256 m.getLsbD

/-- Where the members' tested words lie, or the lowest failing member's answer. -/
def memberPlaces (s : State) (c : Nat) (t : Thread) (off : Nat) :
    List Nat → Except (Word × Loc) (List (Nat × Place × List Place))
  | [] => .ok []
  | id :: ids =>
    match recAddr t id off with
    | .error e => .error (recNamed t id off, .trap e [])
    | .ok (sel, o) =>
      match locate s c t sel o 4 4 needR with
      | .here p _ passed =>
        match memberPlaces s c t off ids with
        | .ok l => .ok ((id, p, passed) :: l)
        | .error e => .error e
      | l => .error (recNamed t id off, l)

/-- Whether a tested value goes up, to the fork. -/
def goesUp (ctl thr v : Word) : Bool :=
  match (ctl.extractLsb' 17 2).toNat with
  | 0 => if isNaN v || isNaN thr then ctl.getLsbD 16 else flt thr v
  | 1 => BitVec.slt thr v
  | _ => BitVec.ult thr v

/-- The new convoy of a split. -/
def forkOf (t : Thread) (pc : Word) (hi : BitVec 256) : Thread :=
  setFlag (setFlag { t with
    pc := pc, m := hi, md := t.md &&& hi, ecost := 0, wear := 0, wearPart := 0, heldAt := none, byError := false, watches := [], wake := false
    streams := .replicate 4 .off, pend := none, waitFrom := none, faultPage := none, late := none
    status := .ready } 2 true) 1 true

/-- The bits of a list of members. -/
def maskOf (ids : List Nat) : BitVec 256 := ids.foldl (fun m i => putBit m i true) 0

/-- The effect of a split once every record is read. -/
def splitWith (x : Ctx) (t : Thread) (s : State) (hi lo : BitVec 256) : Res :=
  if hi = 0 then done s x (setFlag (setFlag t 2 false) 1 false)
  else if lo = 0 then done s x (setFlag (setFlag t 2 true) 1 false)
  else
    match placeConvoy s x.core (forkOf t x.next hi) with
    | .nowhere => .wait .waitMsg fun s => modThread s x.core x.slot (heldFrom s)
    | .slot s' | .queue s' =>
      done s' x (setFlag (setFlag { t with m := lo, md := t.md &&& lo } 2 false) 1 true)

def splitOp (a : Nat) (thr : Thread → Word) (x : Ctx) (t : Thread) (s : State) : Res :=
  let ctl := rdReg t a
  if !t.convoy || ctl.extractLsb' 17 2 = 3 then .trap .convoy 0 0
  else if !mayIssue s x none then .wait .waitMem id
  else
    match memberPlaces s x.core t (ctl.extractLsb' 0 16).toNat (membersOf t.m) with
    | .error (v, .trap e passed) => locTrap x e 1 v passed
    | .error (v, .page kf va passed) => pageTrap x 1 v kf va passed
    | .error (_, .miss va) => waitMiss x t va
    | .error (v, _) => .trap .segv 1 v
    | .ok l =>
      reaching x t s t.qbase (l.map fun q => (q.2.1, q.2.2)) fun s1 counted =>
        let places := l.map (·.2.1)
        let s2 := settleEarlier s1 x.core places (places.map wordKey)
        if pathHeld s2 x.core places (places.map wordKey) then .wait .waitMem id
        else match l.find? fun q => anyBad s2 q.2.1 4 with
        | some q =>
          .trapX ⟨.memerr, 0, recNamed t q.1 (ctl.extractLsb' 0 16).toNat, x.ia, false, 0⟩
            fun s => consumed (counted s) x.core
        | none =>
          let up := l.filter fun q => goesUp ctl (thr t) (loadWord s2 q.2.1)
          splitWith x t s2 (maskOf (up.map (·.1)))
            (maskOf ((l.filter fun q => !goesUp ctl (thr t) (loadWord s2 q.2.1)).map (·.1)))

def execSplit (o : ShU) : State → Outcome State Fault Refusal :=
  issue (.of o.p (wordsOfChain true o.p o.sb.isSome.toNat) [o.a.toNat, o.b.toNat] (sbSync o.sb o.b.toNat) [])
    (splitOp o.a.toNat fun t => rdReg t o.b.toNat)
def execSpliti (o : ShI) : State → Outcome State Fault Refusal :=
  issue (.of o.p (wordsOfChain true o.p o.imm.k) [o.a.toNat] [] [])
    (splitOp o.a.toNat fun _ => wordOf (o.imm.value 5))

/-! ### CVY (R159) -/

/-- The thread belongs to a launch without PAIR. -/
def mayConvoy (s : State) (t : Thread) : Bool :=
  inPopulation t && (launchOf s t.lid).any fun l => !dPair l.desc

/-- The thread as a convoy: registers from g24 upwards are lost. -/
def toConvoy (t : Thread) : Thread :=
  { t with
    convoy := true, lim := 24, md := 0, full := t.full ||| (BitVec.allOnes 128 <<< 24)
    regs := Vector.ofFn fun j => if j.val < 24 then (t.regs[j.val]?).getD 0 else 0 }

/-- Conversion in place: the thread leaves its population's members and counts as a convoy (R133, R157). -/
def convertOp (a : Nat) (x : Ctx) (t : Thread) (s : State) : Res :=
  if a ≥ 24 then .trap .reglim 0 0
  else if !mayConvoy s t || t.convoy || t.lim < 24 then .trap .convoy 0 0
  else
    done (modLaunch (addConvoy s t) t.lid fun l =>
        { l with members := l.members.filter fun m => m.rank != t.rank.toNat }) x (wrReg (toConvoy t) a 0)

/-- The convoy of a record. -/
def recordConvoy (s : State) (t : Thread) (ws : List Word) : Thread :=
  dress s { wrRegs Thread.blank 1 ((ws.drop 2).take 6) with
    pc := wordAt ws 0, lim := 24, convoy := true, m := BitVec.ofNat 256 (wordsNat (ws.drop 8)), qbase := t.qbase
    qstride := t.qstride, lid := t.lid, rank := t.rank, npop := t.npop, asn := t.asn }

def createOp (a : Nat) (x : Ctx) (t : Thread) (s : State) (ws : List Word) : Res :=
  if !codeAddrOk (wordAt ws 0) || wordAt ws 1 != 0 then done s x (wrReg t a 0xFFFFFFFF)
  else if (ws.drop 8).all (· == 0) then done s x (wrReg t a 3)
  else
    match placeConvoy s x.core (recordConvoy s t ws) with
    | .slot s' => done s' x (wrReg t a 0)
    | .queue s' => done s' x (wrReg t a 1)
    | .nowhere => done s x (wrReg t a 2)

def execCvy (o : ShU) : State → Outcome State Fault Refusal :=
  issue (o.use true) fun x t s =>
    if o.b = 0 then convertOp o.a.toNat x t s
    else if !mayConvoy s t then .trap .convoy 0 0
    else recordOp x t s (rdReg t o.b.toNat) 64 (createOp o.a.toNat x t)

/-! ### Manifests and the end (R160, R162) -/

def manifest (o : ShMan) (t : Thread) : BitVec 256 := if o.md then t.md else t.m
def groupOf (a : Reg) : List Nat := (List.range 8).map fun j => a.toNat + j

def execMpop (o : ShU) : State → Outcome State Fault Refusal :=
  issue (o.use true) fun x t s =>
    let k := ((rdReg t o.b.toNat).extractLsb' 0 8).toNat
    match (membersOf t.m).find? fun i => k ≤ i with
    | some i => done s x (setFlag (wrReg t o.a.toNat (BitVec.ofNat 32 i)) 1 true)
    | none => done s x (setFlag (wrReg t o.a.toNat 0xFFFFFFFF) 1 false)

def execMcnt (o : ShMan) : State → Outcome State Fault Refusal :=
  issue (o.use [] [o.a.toNat]) fun x t s =>
    done s x (wrReg t o.a.toNat (BitVec.ofNat 32 (membersOf (manifest o t)).length))

def execMfm (o : ShMan) : State → Outcome State Fault Refusal :=
  issue (o.use [] (groupOf o.a)) fun x t s =>
    done s x (wrRegs t o.a.toNat ((List.range 8).map fun j => (manifest o t).extractLsb' (32 * j) 32))

def execMtm (o : ShMan) : State → Outcome State Fault Refusal :=
  issue (o.use (groupOf o.a) []) fun x t s =>
    let v := BitVec.ofNat 256 (wordsNat (rdRegs t o.a.toNat 8))
    done s x (if o.md then { t with md := v } else { t with m := v })

def execCexit (o : ShA) : State → Outcome State Fault Refusal :=
  issue (o.use [o.a.toNat] []) fun x t s =>
    if !t.convoy then .trap .convoy 0 0
    else if s.flight.any (ownAccess s x.core x.slot) then .wait .waitMem id
    else .left (endThread s x.core x.slot t ((rdReg t o.a.toNat).extractLsb' 0 8).toNat 0)

end Sys2Proof.Machine
end

