-- ==== Sys2Proof/Machine/Copy.lean ====
section
/-! DEFINITION. The copy engine, tags and collectives: page 7 and its events (R207 to R223). -/

namespace Sys2Proof.Machine

open Host (Outcome)

/-! ### Engine addresses (R212) -/

def engSpace (e : Nat) : Nat := e / 2 ^ 60
def engCore (e : Nat) : Nat := e / 2 ^ 32 % 2 ^ 16
/-- Address bits of a space. -/
def engBits (sp : Nat) : Nat :=
  match sp with
  | 0 => 16
  | 1 => 17
  | 2 => 27
  | 3 => 48
  | 4 => 16
  | _ => 14
def engAddr (e : Nat) : Nat := e % 2 ^ engBits (engSpace e)
/-- Every bit that the space does not use is zero; a multiple of 4 (R213). -/
def engOk (e : Nat) : Bool :=
  engSpace e ≤ 5 && e % 4 = 0 &&
    e = engSpace e * 2 ^ 60 + (if engSpace e = 4 then engCore e * 2 ^ 32 else 0) + engAddr e
/-- An engine address some bytes further on. -/
def engPlus (e : Nat) (off : Int) : Nat := ((e : Int) + off).toNat

/-- Where a word of an engine address lies; or STATUS 1 or 2 (R214, R216). -/
inductive EngAt where
  | at (s : State) (p : Place)
  /-- a request that waits in the miss table stands before it (R194) -/
  | held
  | fail (s : State) (status : Nat)

/-- The place of a word; of a GLOBAL one the request counts where it is `fresh` (R328). A word outside the 48 bits of a GLOBAL
address ends the operation with STATUS 1 (DESIGN CHOICE, log entry 81). -/
def engAt (s : State) (c asn : Nat) (need : Need) (e : Nat) (off : Int) (fresh : Bool) : EngAt :=
  let a : Int := engAddr e + off
  if a < 0 || a + 4 > 2 ^ engBits (engSpace e) then .fail s 1
  else
    match engSpace e with
    | 0 => .at s (.lstore c a.toNat)
    | 1 => .at s (.qstore (quadOf c) a.toNat)
    | 2 => .at s (.dstore (dieOf c) a.toNat)
    | 3 =>
      match engineXlate s c asn need a.toNat fresh with
      | .at s' p => .at s' p
      | .held => .held
      | .fault s' _ _ => .fail s' 1
    | 4 => if presentCore s (engCore e) then .at s (.lstore (engCore e) a.toNat) else .fail s 2
    | _ => .at s (.cstore (quadOf c) a.toNat)

/-! ### Coverage (R214, R285) -/

/-- The local interval that a descriptor reaches on a core, seen from core `c`. -/
def coreSpan (d : Desc) (c target : Nat) : Option (Nat × Nat) :=
  match segType d with
  | 2 => if target = c then localSpan d target else none
  | 6 => localSpan d target
  | 7 =>
    if nbits (segBase d) 31 16 = target then
      some (nbits (segBase d) 15 0, min (nbits (segBase d) 15 0 + segLimit d) 0xFFFF)
    else none
  | _ => none

/-- One descriptor covers a range of a space. -/
def covers1 (s : State) (c : Nat) (e : Nat) (lo hi : Nat) (w : Bool) (d : Desc) : Bool :=
  (if w then segW d else segR d) &&
    match engSpace e with
    | 1 => segType d = 3 && segBase d ≤ lo && hi ≤ min (segBase d + segLimit d) 0x1FFFF
    | 2 => segType d = 4 && segBase d ≤ lo && hi ≤ min (segBase d + segLimit d) 0x7FFFFFF
    | _ =>
      let target := if engSpace e = 4 then engCore e else c
      presentCore s target && !commitArea s target lo (hi + 1 - lo) &&
        match coreSpan d c target with
        | some (a, b) => a ≤ lo && hi ≤ b
        | none => false

/-- A range that an operation reads or writes is covered by one of the thread's segments; GLOBAL and CODE ranges are not
checked here. -/
def covered (s : State) (c : Nat) (t : Thread) (w : Bool) (r : Nat × Int × Nat) : Bool :=
  let a : Int := engAddr r.1 + r.2.1
  engSpace r.1 = 3 || engSpace r.1 = 5 ||
    (0 ≤ a && t.segs.toList.any (covers1 s c r.1 a.toNat (a.toNat + r.2.2 - 1) w))

/-- A CODE range passes the end of the code store. -/
def pastCode (r : Nat × Int × Nat) : Bool :=
  engSpace r.1 = 5 && (engAddr r.1 + r.2.1 < 0 || engAddr r.1 + r.2.1 + r.2.2 > 0x4000)

/-! ### Descriptors (R211, R213) -/

def tagOf (ctl : Word) : Nat := (ctl.extractLsb' 0 6).toNat
def ctlChan (ctl : Word) : Nat := (ctl.extractLsb' 16 6).toNat
def ctlScope (ctl : Word) : Nat := (ctl.extractLsb' 12 3).toNat
def ctlNotify (ctl : Word) : Bool := ctl.getLsbD 15

/-- The operation that a descriptor names. -/
def copyOf (s : State) (x : Ctx) (t : Thread) (kind : CopyKind) (ctl : Word) (ws : List Word) : CopyOp :=
  let w (i : Nat) : Nat := (wordAt ws i).toNat
  { id := s.serial, kind := kind, slot := x.slot, lid := t.lid, rank := t.rank, asn := t.asn, tag := tagOf ctl
    notify := ctlNotify ctl, chan := ctlChan ctl, scope := ctlScope ctl
    src := w 0 + 2 ^ 32 * w 1, dst := w 2 + 2 ^ 32 * w 3
    bytes := if kind = .coll then 4 * w 4 else w 4
    count := match kind with | .cpy | .coll => 1 | _ => w 5
    sstride := (wordAt ws 6).toInt, dstride := (wordAt ws 7).toInt, idx := w 8 + 2 ^ 32 * w 9, index := [], opw := w 6
    collId := wordAt ws 10, moved := [], written := 0, ended := none, told := false
    combined := none, gone := false, touched := [] }

def lenOk (n : Nat) : Bool := 1 ≤ n && n < 2 ^ 31
def elemSizeOk (n : Nat) : Bool := ([4, 8, 16, 32, 64, 128, 256, 512, 1024, 2048, 4096] : List Nat).contains n
def zeros (ws : List Word) (i n : Nat) : Bool := ((ws.drop i).take n).all (· == 0)
/-- OPW's fields (R213). -/
def opwOk (v : Nat) : Bool :=
  v % 16 ≤ 5 && v / 16 % 4 ≤ 2 && v / 64 % 4 = 0 && v / 512 = 0 && !(v % 16 ≥ 3 && v / 16 % 4 = 2)

/-- The descriptor keeps R212 and R213; CODE is no source. -/
def copyDescOk (o : CopyOp) (ws : List Word) : Bool :=
  engOk o.src && engOk o.dst && engSpace o.src != 5 && zeros ws 11 5 &&
    match o.kind with
    | .cpy => o.bytes % 4 = 0 && lenOk o.bytes && zeros ws 5 6
    | .cpy2 =>
      o.bytes % 4 = 0 && lenOk o.bytes && lenOk o.count && o.sstride % 4 = 0 && o.dstride % 4 = 0 && zeros ws 8 3
    | .gth | .sct =>
      elemSizeOk o.bytes && lenOk o.count && zeros ws 6 2 && zeros ws 10 1 && engOk o.idx && engSpace o.idx != 5
    | .coll => lenOk (o.bytes / 4) && zeros ws 5 1 && opwOk o.opw && zeros ws 7 3

/-- The number under which the engine asks for words: no slot's. -/
def engineSlot : Nat := 17

/-- What the engine reads: it, a wait for a store that a move holds up (R307), or the failing word's STATUS, engine address
and operation. -/
inductive Got (α : Type) where
  | val (s : State) (x : α)
  | held
  | fail (s : State) (status eng who : Nat)

/-- The 64-byte piece around a word of an engine address. -/
def pieceAt (e : Nat) (off : Int) : Nat := (engAddr e + off).toNat / 64
/-- The operation has not touched the word's piece in this way yet (R328). -/
def freshAt (o : CopyOp) (e : Nat) (off : Int) (w : Bool) : Bool := !o.touched.contains (pieceAt e off, w)
/-- The operation has touched a word of GLOBAL memory. -/
def touch (o : CopyOp) (e : Nat) (off : Int) (w : Bool) : CopyOp :=
  if engSpace e = 3 && freshAt o e off w then { o with touched := (pieceAt e off, w) :: o.touched } else o

/-- One word that an operation reads. -/
def engRead (s : State) (c : Nat) (o : CopyOp) (e : Nat) (off : Int) : Got Word :=
  match engAt s c o.asn needR e off (freshAt o e off false) with
  | .held => .held
  | .fail s1 st => .fail s1 st (engPlus e off) o.id
  | .at s1 p =>
    let s2 := settleEarlier s1 c [p] [wordKey p]
    if pathHeld s2 c [p] [wordKey p] then .held
    else if anyBad s2 p 4 then .fail (consumed s2 c) 2 (engPlus e off) o.id
    else .val s2 (loadWord s2 p)

/-- The indices of a list from `j` on, each read once, as the instruction issues; none where one must wait (R214; log
entry 73). -/
def readIndices (c : Nat) (o : CopyOp) : List Nat → State → Option (State × List Index)
  | [], s => some (s, [])
  | j :: js, s =>
    let take (s : State) (x : Index) : Option (State × List Index) :=
      (readIndices c (touch o o.idx (4 * j) false) js s).map fun r => (r.1, x :: r.2)
    match engRead s c o o.idx (4 * j) with
    | .val s1 w => take s1 (.at w.toNat)
    | .held => none
    | .fail s1 st e _ => take s1 (.fails st e)

/-- The index list of an operation. -/
def indicesOf (s : State) (c : Nat) (o : CopyOp) : Option (State × List Index) :=
  match o.kind with
  | .gth | .sct => readIndices c o (List.range o.count) s
  | _ => some (s, [])

/-- The elements that a list names, at a table's base. -/
def tableRanges (o : CopyOp) (base : Nat) : List (Nat × Int × Nat) :=
  o.index.filterMap fun i =>
    match i with
    | .at n => some (base, (n * o.bytes : Nat), o.bytes)
    | .fails .. => none

/-- The ranges that an operation reads, and those that it writes: base, offset, length. -/
def readRanges (o : CopyOp) : List (Nat × Int × Nat) :=
  match o.kind with
  | .cpy | .coll => [(o.src, 0, o.bytes)]
  | .cpy2 => (List.range o.count).map fun (r : Nat) => (o.src, r * o.sstride, o.bytes)
  | .gth => (o.idx, 0, 4 * o.count) :: tableRanges o o.src
  | .sct => [(o.idx, 0, 4 * o.count), (o.src, 0, o.bytes * o.count)]
def writeRanges (o : CopyOp) : List (Nat × Int × Nat) :=
  match o.kind with
  | .cpy | .coll => [(o.dst, 0, o.bytes)]
  | .cpy2 => (List.range o.count).map fun (r : Nat) => (o.dst, r * o.dstride, o.bytes)
  | .gth => [(o.dst, 0, o.bytes * o.count)]
  | .sct => tableRanges o o.dst

/-- A collective of the same thread, identifier and scope has not completed; one whose thread has left the slot is another
thread's (R222). -/
def collPending (s : State) (c : Nat) (o : CopyOp) : Bool :=
  ((getCore s c).copyQ ++ (getCore s c).copyRun).any fun p =>
    p.kind = .coll && !p.gone && p.slot = o.slot && p.lid = o.lid && p.rank = o.rank && p.collId = o.collId && p.scope = o.scope

def setTag (k : Core) (t : Nat) (b : Bool) : Core := { k with tags := putBit k.tags t b }

/-- The checks of R214 from a CODE range's on, and the place in the queue. -/
def placeCopy (b : Word) (x : Ctx) (t : Thread) (s : State) (o : CopyOp) : Res :=
  if (writeRanges o).any pastCode then .trap .queue 0 0
  else if engSpace o.dst = 5 && x.slot != 0 then .trap .priv 0 0
  else if !((readRanges o).all (covered s x.core t false) && (writeRanges o).all (covered s x.core t true)) then
    .trap .segv 5 b
  else if o.kind = .coll && collPending s x.core o then .trap .queue 0 0
  else
    .ok (modCore { s with serial := s.serial + 1 } x.core fun k =>
      setTag { k with copyQ := k.copyQ ++ [{ o with id := s.serial }] } o.tag false)

/-- The checks of R214 after the descriptor's read. -/
def queueCopy (kind : CopyKind) (a b : Word) (x : Ctx) (t : Thread) (s : State) (ws : List Word) : Res :=
  let o := copyOf s x t kind a ws
  if !copyDescOk o ws then .trap .queue 0 0
  else
    match indicesOf s x.core o with
    | none => .wait .waitMem id
    | some (s1, l) => placeCopy b x t s1 { o with index := l }

/-- An operation instruction of page 7: it issues once the queue has room and every relaxed access of the thread has
performed (R207, R211 to R214). -/
def copyOp (kind : CopyKind) (o : ShU) (x : Ctx) (t : Thread) (s : State) : Res :=
  let a := rdReg t o.a.toNat
  let ch := ctlChan a
  if (getCore s x.core).copyQ.length ≥ 2 || !mayIssue s x none then .wait .waitMem id
  else if kind = .coll && t.convoy then .trap .convoy 0 0
  else if ctlNotify a && (ch ≤ 3 || (ch ≤ 7 && x.slot != 0)) then .trap .priv 0 0
  else if kind = .coll && ctlScope a > 5 then .trap .illegal 0 0
  else recordOp x t s (rdReg t o.b.toNat) 64 (queueCopy kind a (rdReg t o.b.toNat) x t)

/-- Both registers are read. -/
def copyUse (o : ShU) : Use :=
  .of o.p (wordsOfChain true o.p o.sb.isSome.toNat) [o.a.toNat, o.b.toNat] (sbSync o.sb o.b.toNat) []

def execCpy (o : ShU) : State → Outcome State Fault Refusal := issue (copyUse o).oncely (copyOp .cpy o)
def execCpy2 (o : ShU) : State → Outcome State Fault Refusal := issue (copyUse o).oncely (copyOp .cpy2 o)
def execGth (o : ShU) : State → Outcome State Fault Refusal := issue (copyUse o).oncely (copyOp .gth o)
def execSct (o : ShU) : State → Outcome State Fault Refusal := issue (copyUse o).oncely (copyOp .sct o)
def execColl (o : ShU) : State → Outcome State Fault Refusal := issue (copyUse o).oncely (copyOp .coll o)

/-! ### The tag instructions (R218, R223) -/

/-- The mask g(B+1), gB. -/
def maskAt (t : Thread) (b : Reg) : BitVec 64 := rdReg t (b.toNat + 1) ++ rdReg t b.toNat
/-- The number of the lowest set bit. -/
def lowestTag (v : BitVec 64) : Option Nat := (List.range 64).find? fun i => v.getLsbD i
def tagWord (v : BitVec 64) : Word := match lowestTag v with | some i => BitVec.ofNat 32 i | none => 0xFFFFFFFF

def pairRegs (b : Reg) : List Nat := [b.toNat, b.toNat + 1]

def execWaitany (o : ShAB) : State → Outcome State Fault Refusal :=
  issue (o.use (pairRegs o.b) [o.a.toNat]).oncely fun x t s =>
    let m := maskAt t o.b
    let hit := (getCore s x.core).tags &&& m
    if m != 0 && hit = 0 then .wait .waitMem fun s => countWait s x.core x.slot
    else done s x (wrReg t o.a.toNat (tagWord hit))

def execWaitall (o : ShB) : State → Outcome State Fault Refusal :=
  issue (o.use (pairRegs o.b)).oncely fun x t s =>
    let m := maskAt t o.b
    if (getCore s x.core).tags &&& m = m then done s x t else .wait .waitMem fun s => countWait s x.core x.slot

def execTagff (o : ShAB) : State → Outcome State Fault Refusal :=
  issue (o.use (pairRegs o.b) [o.a.toNat]).oncely fun x t s =>
    let hit := (getCore s x.core).tags &&& maskAt t o.b
    done s x (setFlag (wrReg t o.a.toNat (tagWord hit)) 1 (hit != 0))

def execTagclr (o : ShB) : State → Outcome State Fault Refusal :=
  issue (o.use (pairRegs o.b)).oncely fun x t s =>
    .ok (modCore s x.core fun k => { k with tags := k.tags &&& ~~~ maskAt t o.b })

/-! ### Running (R207, R216, R217, R221, R311) -/

/-- The engine takes the oldest command; `engineDue` keeps it from doing so in a cycle that the power limit withholds (R369). -/
def copyStartReady (k : Core) : Bool := !k.copyQ.isEmpty && k.copyRun.length < 4

def execCopyStart (core : Nat) (s : State) : Outcome State Fault Refusal :=
  .next <| modCore s core fun k =>
    if copyStartReady k then { k with copyQ := k.copyQ.drop 1, copyRun := k.copyRun ++ k.copyQ.take 1 } else k

/-- The words that an operation moves. -/
def copyWords (o : CopyOp) : Nat :=
  match o.combined with
  | some ws => ws.length
  | none => o.bytes / 4 * o.count

/-- The bytes from a table's base to the element that index `j` names, or how the operation ends there. -/
def elemOff (o : CopyOp) (j : Nat) : Except (Nat × Nat) Int :=
  match o.index[j]? with
  | some (.at n) => .ok (n * o.bytes : Nat)
  | some (.fails st e) => .error (st, e)
  | none => .ok 0

/-- Source offset and destination offset of word `k`. -/
def wordOffs (o : CopyOp) (k : Nat) : Except (Nat × Nat) (Int × Int) :=
  let per := o.bytes / 4
  let e : Int := 4 * (k % per : Nat)
  match o.kind with
  | .cpy | .coll => .ok (4 * k, 4 * k)
  | .cpy2 => .ok ((k / per : Nat) * o.sstride + e, (k / per : Nat) * o.dstride + e)
  | .gth => (elemOff o (k / per)).map fun a => (a + e, 4 * k)
  | .sct => (elemOff o (k / per)).map fun a => (4 * k, a + e)

/-- How one word fares. -/
inductive Moved where
  | done (s : State) (o : CopyOp)
  | held
  | failed (s : State) (o : CopyOp)

/-- The value that an operation writes at word `k`, read from its source. -/
def sourceWord (s : State) (c : Nat) (o : CopyOp) (k : Nat) (off : Int) : Got Word :=
  match o.combined with
  | some ws => .val s (wordAt ws k)
  | none => engRead s c o o.src off

/-- An earlier entry of a scatter does not overwrite a later one (R221). -/
def overtaken (o : CopyOp) (k : Nat) (off : Int) : Bool :=
  o.kind = .sct && o.moved.any fun j => k < j && match wordOffs o j with | .ok d => d.2 = off | .error _ => false

/-- One write of an operation, as a store of its core. -/
def copyWrite (s : State) (c : Nat) (o : CopyOp) (p : Place) (va : Option Nat) (v : Word) : Access :=
  { id := s.serial, core := c, slot := engineSlot, kind := .store, parts := [⟨0, p, 4, v, false, va, 0, 0⟩], group := some 0
    passed := [], stage := .going, seq := s.serial, data2 := 0, named := 0, asn := o.asn, rewrite := none, result := []
    okay := true, remote := false, via := .copy o.id, each := false, left := none, trail := []
    vas := va.toList.flatMap (chaseVas s (quadOf c) o.asn 3) }

/-- The write reaches its word, or takes its place in the word's queue (R179, R217). -/
def writeOut (s : State) (a : Access) : State :=
  if mustQueue s a then addFlight s { a with stage := .queued } else a.parts.foldl storePart s

/-- The virtual address of an engine address in space GLOBAL. -/
def engVa (e : Nat) (off : Int) : Option Nat := if engSpace e = 3 then some ((engAddr e + off).toNat) else none

/-- One word from its source to its destination. The destination is translated first, and its request counts once the word
that it writes has been read (R328); where both fail the operation reports the destination (DESIGN CHOICE, log entry 81). -/
def moveWord (s : State) (c : Nat) (o : CopyOp) (k : Nat) : Moved :=
  let ended (s : State) (status e : Nat) : Moved := .failed s { o with ended := some (status, e), told := true }
  match wordOffs o k with
  | .error (st, e) => ended s st e
  | .ok (so, d) =>
    match engAt s c o.asn needW o.dst d false with
    | .held => .held
    | .fail s1 st => ended s1 st (engPlus o.dst d)
    | .at s1 _ =>
      match sourceWord s1 c o k so with
      | .held => .held
      | .fail s2 st e _ => ended s2 st e
      | .val s2 v =>
        match engAt s2 c o.asn needW o.dst d (freshAt o o.dst d true) with
        | .held => .held
        | .fail s3 st => ended s3 st (engPlus o.dst d)
        | .at s3 p =>
          let s4 := settleEarlier s3 c [p] [wordKey p]
          let o1 := touch (touch o o.dst d true) o.src so false
          if tileMoving s4 p || pathHeld s4 c [p] [wordKey p] then .held
          else if overtaken o k d then .done s4 { o1 with moved := o.moved ++ [k] }
          else
            .done (writeOut s4 (copyWrite s4 c o p (engVa o.dst d) v))
              { o1 with moved := o.moved ++ [k], written := o.written + 1 }

/-- A word that the matrix engine would write is free: no holder, no request queued on it, no move of its tile. -/
def wordFree (s : State) (c : Nat) (p : Place) : Bool :=
  !tileMoving s p && !heldByOther s (wordKey p) c engineSlot &&
    !(s.flight.any fun f => f.stage = .queued && (accWords f).contains (wordKey p))

def findCopy (s : State) (c id : Nat) : Option CopyOp := (getCore s c).copyRun.find? fun o => o.id = id
def setCopy (s : State) (c : Nat) (o : CopyOp) : State :=
  modCore s c fun k =>
    { k with copyRun := k.copyRun.map fun p => if p.id = o.id then o else p
             copyQ := k.copyQ.map fun p => if p.id = o.id then o else p }

/-- The operation moves words: a collective only once it has been combined. -/
def moving (o : CopyOp) : Bool := o.ended.isNone && (o.kind != .coll || o.combined.isSome)

/-- One word of a running operation is moved. A copy to the code store is made in one instant, so that no fetch meets half
of an instruction (R36, R217). -/
def performCopy (s : State) (c id k : Nat) : State :=
  match findCopy s c id with
  | none => s
  | some o =>
    if !moving o || engSpace o.dst = 5 || o.moved.contains k || k ≥ copyWords o then s
    else
      match moveWord s c o k with
      | .done s' o' => setCopy s' c o'
      | .failed s' o' => setCopy s' c o'
      | .held => s

/-- The words still to move, lowest first. -/
def leftWords (o : CopyOp) : List Nat := (List.range (copyWords o)).filter fun k => !o.moved.contains k

/-- Moves words until one is held up, or one fails. -/
def moveAll (c : Nat) : List Nat → State → CopyOp → State × CopyOp
  | [], s, o => (s, o)
  | k :: ks, s, o =>
    match moveWord s c o k with
    | .done s' o' => moveAll c ks s' o'
    | .failed s' o' => (s', o')
    | .held => (s, o)

/-- Source words with the offsets of their destinations, or the first that cannot be read. -/
def readAll (c : Nat) : List Nat → State → CopyOp → Got (CopyOp × List (Int × Word))
  | [], s, o => .val s (o, [])
  | k :: ks, s, o =>
    match wordOffs o k with
    | .error (st, e) => .fail s st e o.id
    | .ok (so, d) =>
      match sourceWord s c o k so with
      | .held => .held
      | .fail s1 st e w => .fail s1 st e w
      | .val s1 v =>
        match readAll c ks s1 (touch o o.src so false) with
        | .val s2 (o2, vs) => .val s2 (o2, (d, v) :: vs)
        | r => r

/-- A copy to the code store is written in one instant, every word or, after a failure, none, so that no fetch meets half of
an instruction (R36, R217). -/
def codeCopy (c : Nat) (s : State) (o : CopyOp) : State × CopyOp :=
  match readAll c (leftWords o) s o with
  | .held => (s, o)
  | .fail s1 st e _ => (s1, { o with ended := some (st, e), told := true })
  | .val s1 (o1, vs) =>
    (vs.foldl (fun s v => storeWord s (.cstore (quadOf c) ((engAddr o.dst : Int) + v.1).toNat) v.2) s1,
      { o1 with moved := o.moved ++ leftWords o, written := o.written + vs.length })

/-- Moves what an operation has left, as far as it can. -/
def runCopy (c : Nat) (s : State) (o : CopyOp) : State × CopyOp :=
  if engSpace o.dst = 5 then codeCopy c s o else moveAll c (leftWords o) s o

/-- A write of the operation still waits for its word. -/
def writesOut (s : State) (c : Nat) (o : CopyOp) : Bool := s.flight.any fun f => f.core = c && f.via = .copy o.id

/-- The other operations of a combined collective have made their writes (R222). -/
def collDone (s : State) (c : Nat) (o : CopyOp) : Bool :=
  o.kind != .coll || o.ended.isSome || s.cores.all fun e => (e.2.copyQ ++ e.2.copyRun).all fun p =>
    !(p.kind = .coll && p.lid = o.lid && p.collId = o.collId && p.scope = o.scope && p.combined.isSome &&
        sameUnit o.scope c e.1) ||
      p.ended.isSome || ((leftWords p).isEmpty && !writesOut s e.1 p)

/-- The operation has met its end: every word moved and written, or a failure. -/
def copyOver (s : State) (c : Nat) (o : CopyOp) : Bool :=
  !writesOut s c o &&
    (o.ended.isSome || ((o.kind != .coll || o.combined.isSome) && (leftWords o).isEmpty && collDone s c o))

/-- The completion message is kept nowhere, or has a place (R215). -/
def noteFree (k : Core) (o : CopyOp) : Bool :=
  !o.notify || entTarget (chanEntry k o.chan) = 0 || k.inbox.length < 64

/-- Words 1 to 7 of a completion message or an engine notice. -/
def notePayload (o : CopyOp) : List Word :=
  let e := match o.ended with | some (_, e) => e | none => 0
  let st := match o.ended with | some (st, _) => st | none => 0
  [BitVec.ofNat 32 (st * 256 + o.tag), BitVec.ofNat 32 (4 * o.written), BitVec.ofNat 32 e, BitVec.ofNat 32 (e / 2 ^ 32),
    0, 0, 0]

/-- The completion message enters the core's own inbox. -/
def noteIn (s : State) (c : Nat) (o : CopyOp) : State :=
  let k := getCore s c
  if !o.notify || entTarget (chanEntry k o.chan) = 0 then s
  else
    let m : Msg :=
      { id := s.serial, srcCore := c, srcSlot := o.slot, dst := c, chan := o.chan
        words := msgWord0 o.chan o.slot c :: notePayload o, held := none, about := none, inHand := false, after := 0 }
    let s1 := modCore { s with serial := s.serial + 1 } c fun k => { k with inbox := k.inbox ++ [m] }
    match heldFor k m with
    | none => s1
    | some i => wakeByMessage s1 c i

/-- What an operation's failure tells slot 0 (R216), and the error ring where it met an uncorrectable error (R356). -/
def tellFailure (s : State) (c : Nat) (o : CopyOp) : State :=
  match o.ended with
  | some (st, e) =>
    if !o.told then s
    else
      let s1 := post s c o.slot c 1 (notePayload o) (some 0) none
      if st = 2 then errReport s1 6 (some o.slot) (some c) e o.lid else s1
  | none => s

/-- The end of an operation: message, notice to slot 0 after a failure, tag (R209, R215, R216). -/
def finishCopy (s : State) (c : Nat) (o : CopyOp) : State :=
  modCore (tellFailure (noteIn s c o) c o) c fun k =>
    let k' := { k with copyRun := k.copyRun.filter fun p => p.id != o.id }
    if (k'.copyQ ++ k'.copyRun).any fun p => p.tag = o.tag then k' else setTag k' o.tag true

/-- A running operation can go on: move a word, or complete. -/
def copyReady (s : State) (c : Nat) (o : CopyOp) : Bool :=
  if copyOver s c o then noteFree (getCore s c) o
  else
    moving o &&
      match leftWords o with
      | [] => false
      | k :: ks =>
        if engSpace o.dst = 5 then (match readAll c (k :: ks) s o with | .held => false | _ => true)
        else match moveWord s c o k with | .held => false | _ => true

def execCopyComplete (core op : Nat) (s : State) : Outcome State Fault Refusal :=
  .next <|
    match findCopy s core op with
    | none => s
    | some o =>
      let r := if moving o then runCopy core s o else (s, o)
      let s1 := setCopy r.1 core r.2
      if copyOver s1 core r.2 && noteFree (getCore s1 core) r.2 then finishCopy s1 core r.2 else s1

/-- The operation's next word lies, at one end, in another package: the engine address and the place there (R333), with the
request counted (R328). -/
def peerWord (s : State) (c : Nat) (o : CopyOp) : Option (State × Nat × Place) :=
  let place (need : Need) (e : Nat) (off : Int) : Option (State × Nat × Place) :=
    match engAt s c o.asn need e off (freshAt o e off need.w) with
    | .at s1 p => if p.isPeer then some (s1, engPlus e off, p) else none
    | _ => none
  if !moving o then none
  else
    match leftWords o with
    | [] => none
    | k :: _ =>
      match wordOffs o k with
      | .error _ => none
      | .ok (so, d) => ((if o.combined.isNone then place needR o.src so else none).orElse fun _ => place needW o.dst d)

/-! ### Collectives (R222) -/

/-- Every operation that matches a collective, with its core. -/
def matched (s : State) (c : Nat) (o : CopyOp) : List (Nat × CopyOp) :=
  if o.scope = 0 then [(c, o)]
  else
    s.cores.flatMap fun e => ((e.2.copyQ ++ e.2.copyRun).filter fun p =>
      p.kind = .coll && p.lid = o.lid && p.collId = o.collId && p.scope = o.scope && p.combined.isNone &&
        p.ended.isNone && sameUnit o.scope c e.1).map fun p => (e.1, p)

/-- Every participant has issued its collective, and the notice has reached the unit. -/
def collReady (s : State) (c : Nat) (o : CopyOp) : Bool :=
  o.kind = .coll && o.combined.isNone && o.ended.isNone &&
    (o.scope = 0 ||
      match launchOf s o.lid with
      | none => false
      | some l =>
        unitNoticed l o.scope c &&
          (participants l o.scope c).all fun m => (matched s c o).any fun p => p.1 = m.core && p.2.rank.toNat = m.rank)

/-- One combining step. -/
def combineWord (opw : Nat) (a b : Word) : Word :=
  match opw % 16, opw / 16 % 4 with
  | 0, 2 => (fadd a b).1
  | 0, _ => a + b
  | 1, 0 => if a.toInt < b.toInt then a else b
  | 1, 1 => if a.toNat < b.toNat then a else b
  | 1, _ => (fmin a b).1
  | 2, 0 => if a.toInt > b.toInt then a else b
  | 2, 1 => if a.toNat > b.toNat then a else b
  | 2, _ => (fmax a b).1
  | 3, _ => a &&& b
  | 4, _ => a ||| b
  | _, _ => a ^^^ b

/-- The words of a participant's source, or its failure. -/
def sourceWords (c : Nat) (o : CopyOp) : List Nat → State → Got (List Word)
  | [], s => .val s []
  | k :: ks, s =>
    match sourceWord s c o k (4 * k) with
    | .held => .held
    | .fail s' st e w => .fail s' st e w
    | .val s' v =>
      match sourceWords c (touch o o.src (4 * k) false) ks s' with
      | .val s'' vs => .val s'' (v :: vs)
      | r => r

/-- The sources of all participants; where several fail, the first in the combining order gives the STATUS and the notice
(DESIGN CHOICE, log entry 81). -/
def gatherSources : List (Nat × CopyOp) → State → Got (List (List Word))
  | [], s => .val s []
  | (c, o) :: ps, s =>
    match sourceWords c o (List.range (copyWords o)) s with
    | .held => .held
    | .fail s' st e w => .fail s' st e w
    | .val s' v =>
      match gatherSources ps s' with
      | .val s'' vs => .val s'' (v :: vs)
      | r => r

/-- Every matched operation ends with a status. Slot 0 hears of a source's failure from the failing participant alone; of a
mismatch, which ends each of them by R216, from every one (log entry 74). -/
def endAll (s : State) (ps : List (Nat × CopyOp)) (status e who : Nat) : State :=
  ps.foldl (fun s p => setCopy s p.1 { p.2 with ended := some (status, e), told := status = 3 || p.2.id = who }) s

/-- Participants in the order in which their contributions combine: the event's, by rank, where it names all of them. -/
def inOrder (ps : List (Nat × CopyOp)) (order : List Nat) : List (Nat × CopyOp) :=
  let l := order.filterMap fun r => ps.find? fun p => p.2.rank.toNat = r
  if l.length = ps.length && ps.all fun p => order.contains p.2.rank.toNat then l else ps

def lowestRank (ps : List (Nat × CopyOp)) : Nat := ps.foldl (fun m p => min m p.2.rank.toNat) (2 ^ 32)

/-- Other packages take part in a pod collective. -/
def podOthers (s : State) (o : CopyOp) : Bool :=
  o.scope = 5 && (podEntry s o.lid).any fun e => (putBit e.members (s.cc.pkg % 1024) false) != 0

/-- The STATUS that the other packages' part gives a pod collective: 0 where they let it go on, 1 or 2 for a source that fails
there, 3 for an operation that differs there. What they hold is free (log entry 20). -/
def podStatus (s : State) (o : CopyOp) : Nat := if podOthers s o then Config.freeNat s.free % 4 else 0

/-- The lowest-ranked participant stands in another package: free (log entry 20). -/
def podLower (s : State) (o : CopyOp) : Bool := podOthers s o && Config.freeNat (s.free + 1) % 2 = 1

/-- The combined words: free ones where other packages contribute (log entry 20). -/
def combinedWords (s : State) (o : CopyOp) (vs : List (List Word)) : List Word :=
  if podOthers s o then (List.range (copyWords o)).map fun i => Config.freeWord (s.free + i)
  else
    match vs with
    | [] => []
    | v :: rest => rest.foldl (fun a b => List.zipWith (combineWord o.opw) a b) v

/-- Matched collectives differ in their elements or in OPW. -/
def collDiffer (ps : List (Nat × CopyOp)) (o : CopyOp) : Bool := ps.any fun p => p.2.bytes != o.bytes || p.2.opw != o.opw

/-- A collective can be combined now: nothing that its sources read is held up. -/
def collFree (s : State) (c : Nat) (o : CopyOp) : Bool :=
  collReady s c o && (collDiffer (matched s c o) o || match gatherSources (matched s c o) s with | .held => false | _ => true)

/-- The engine combines a collective: the result is ready to be written at each destination. It does so also while some of
the matched operations still stand in a command queue, and a mismatch names no failing address (log entry 74). Of a pod
collective the other packages' part is free (log entry 20). -/
def execCollCombine (core op : Nat) (order : List Nat) (s : State) : Outcome State Fault Refusal :=
  .next <|
    match ((getCore s core).copyQ ++ (getCore s core).copyRun).find? fun o => o.id = op with
    | none => s
    | some o =>
      if !collReady s core o then s
      else
        let ps := inOrder (matched s core o) order
        if collDiffer ps o then endAll s ps 3 0 0
        else
          match gatherSources ps s with
          | .held => s
          | .fail s' st e w => endAll s' ps st e w
          | .val s' vs =>
            let s1 := { s' with free := s'.free + copyWords o + 2 }
            if podStatus s' o != 0 then
              endAll s1 ps (podStatus s' o) (if podStatus s' o = 3 then 0 else Config.freeNat (s'.free + 1)) 0
            else
              let ws := combinedWords s' o vs
              let skip (p : CopyOp) : Bool := o.opw / 256 % 2 = 1 && (podLower s' o || p.rank.toNat != lowestRank ps)
              ps.foldl (fun s p => setCopy s p.1 { p.2 with combined := some (if skip p.2 then [] else ws) }) s1

end Sys2Proof.Machine
end

