-- ==== Sys2Proof/Machine/Capability.lean ====
section
/-! DEFINITION. The control cores' memory with its tags, and what the firmware does through its capabilities where another rule
has it hold a pointer (R348, R349). The firmware's program is not in the spec (log entry 3); a control core's own
instructions stand in ControlCore. -/

namespace Sys2Proof.Machine

/-- The data half of control-core memory, from whose capability the firmware derives its others, in register 1 of every
control core that has started; and the half that holds the firmware image, from which a control core fetches (log entry
80). -/
def rootCap : Cap := ⟨0, 2 ^ 40, 0xF8, true⟩
def codeCap : Cap := ⟨2 ^ 40, 2 ^ 40, 0xA0, true⟩

/-- A control core that has started. -/
def CtlCore.start : CtlCore :=
  { CtlCore.blank with pc := 2 ^ 40, pcc := codeCap.val, regs := CtlCore.blank.regs.set 1 rootCap.val }

/-- Register 0 reads as zero and takes no write. -/
def CtlCore.reg (k : CtlCore) (r : Nat) : CapVal := if r = 0 then ⟨0, false⟩ else (k.regs[r]?).getD ⟨0, false⟩
def CtlCore.setReg (k : CtlCore) (r : Nat) (v : CapVal) : CtlCore :=
  if r = 0 then k else { k with regs := k.regs.setIfInBounds r v }

/-- The 16-byte words that `n` bytes touch. -/
def ctlWords (a n : Nat) : List Nat := (List.range ((a % 16 + n + 15) / 16)).map (a / 16 + ·)

/-- A byte of control-core memory: the firmware image that runs lies in its upper half. -/
def ctlByte (s : State) (a : Nat) : Byte :=
  if 2 ^ 40 ≤ a && a < 2 ^ 41 then Config.firmware s.cc.image (a - 2 ^ 40) else memRead s.cc.ctlMem a

/-- The little-endian number of `n` bytes of control-core memory. -/
def ctlBytes (s : State) (a : Nat) : Nat → Nat
  | 0 => 0
  | n + 1 => (ctlByte s a).toNat + 256 * ctlBytes s (a + 1) n

/-- An ordinary store: it clears the tag of every word of which it writes a byte, and ends the reservations that control cores
hold there. -/
def ctlWrite (s : State) (a n v : Nat) : State :=
  { s with cc := { s.cc with
      ctlMem := writeBytes s.cc.ctlMem a n v, ctlTags := (ctlWords a n).foldl setDel s.cc.ctlTags
      ctl := s.cc.ctl.map fun k => if k.resv.any (ctlWords a n).contains then { k with resv := none } else k } }

/-- The 16-byte word that holds an address, with its tag, and a store of one with its tag. -/
def ctlWord (s : State) (a : Nat) : CapVal :=
  ⟨BitVec.ofNat 128 (ctlBytes s (a / 16 * 16) 16), s.cc.ctlTags.contains (a / 16)⟩
def ctlPut (s : State) (a : Nat) (v : CapVal) : State :=
  let s1 := ctlWrite s (a / 16 * 16) 16 v.bits.toNat
  { s1 with cc := { s1.cc with ctlTags := if v.tag then setAdd s1.cc.ctlTags (a / 16) else s1.cc.ctlTags } }

/-- An instruction of a control core retires. -/
def retire (s : State) (n : Nat) : State := setCtl s n { ctlCore s n with retired := (ctlCore s n).retired + 1 }

/-- A capability fault is precise: nothing changes but that the control core traps at its instruction. -/
def capTrap (s : State) (n : Nat) : State :=
  setCtl s n { ctlCore s n with fault := some (ctlCore s n).pc, pc := Config.ctlVector }

/-- A capability fault on a value of the firmware's own is a control-complex error, and fatal (R349, R357). -/
def capFatal (s : State) (n : Nat) : State := fatalStop (capTrap s n) 18 none none

/-- What the acting control core does through a capability of the firmware, where that allows it. -/
def firmwareOp (c : Cap) (u : CapUse) (a n : Nat) (f : State → State) (s : State) : State :=
  if c.allows u a n then retire (f s) (ctlActor s) else capFatal s (ctlActor s)

/-- The firmware keeps a capability in its memory, 16 bytes from 16 times this number on (log entry 80): of queue q the window
as q, the ring as 64 + q, and the error ring as 128. -/
def keepCap (s : State) (n : Nat) (c : Cap) : State :=
  firmwareOp rootCap .storeCap (16 * n) 16 (fun s => ctlPut s (16 * n) c.val) s

/-- The ring of 16 buffers of 16 KiB for the frames that no service takes (R340; log entry 80). -/
def frameCap : Cap := ⟨2 ^ 20, 2 ^ 18, 0xC0, true⟩

/-- The start of such a frame lies there, by ordinary stores. -/
def keepFrame (s : State) (n len v : Nat) : State :=
  let a := 2 ^ 20 + n % 16 * 2 ^ 14
  firmwareOp frameCap .store a (min len (2 ^ 14)) (fun s => ctlWrite s a (min len (2 ^ 14)) v) s

end Sys2Proof.Machine
end

