-- ==== Sys2Proof/Machine/ControlCore.lean ====
section
/-! DEFINITION. The instructions of a control core: RV64IMAC of the RISC-V architecture, with loads, stores, fetches and jumps
through capabilities (R348, R349). What this spec leaves to that architecture is PRESUMED as it gives it, and the words of
the capability instructions are a DESIGN CHOICE (log entry 80). -/

namespace Sys2Proof.Machine

/-- An instruction. `w` marks the forms on 32 bits. -/
inductive RvOp where
  | lui (rd : Nat) (imm : BitVec 64)
  | auipc (rd : Nat) (imm : BitVec 64)
  | jal (rd : Nat) (imm : BitVec 64)
  | jalr (rd rs1 : Nat) (imm : BitVec 64)
  | branch (f3 rs1 rs2 : Nat) (imm : BitVec 64)
  | load (f3 rd rs1 : Nat) (imm : BitVec 64)
  | store (f3 rs1 rs2 : Nat) (imm : BitVec 64)
  | opImm (f3 : Nat) (alt w : Bool) (rd rs1 : Nat) (imm : BitVec 64)
  | op (f3 : Nat) (alt w : Bool) (rd rs1 rs2 : Nat)
  | mul (f3 : Nat) (w : Bool) (rd rs1 rs2 : Nat)
  | amo (f5 : Nat) (w : Bool) (rd rs1 rs2 : Nat)
  | fence
  | call
  /-- loads, stores and derives a capability -/
  | loadCap (rd rs1 : Nat) (imm : BitVec 64)
  | storeCap (rs1 rs2 : Nat) (imm : BitVec 64)
  | derive (f3 rd rs1 rs2 : Nat)
deriving DecidableEq, Repr

/-! ### Decoding -/

/-- Bits of a word as a number. -/
def rvBits (w : BitVec 32) (lo n : Nat) : Nat := (w.extractLsb' lo n).toNat

/-- The immediates of the I, S, B, U and J forms. -/
def immI (w : BitVec 32) : BitVec 64 := (w.extractLsb' 20 12).signExtend 64
def immS (w : BitVec 32) : BitVec 64 := (w.extractLsb' 25 7 ++ w.extractLsb' 7 5).signExtend 64
def immB (w : BitVec 32) : BitVec 64 :=
  (w.extractLsb' 31 1 ++ w.extractLsb' 7 1 ++ w.extractLsb' 25 6 ++ w.extractLsb' 8 4 ++ 0#1).signExtend 64
def immU (w : BitVec 32) : BitVec 64 := (w.extractLsb' 12 20 ++ 0#12).signExtend 64
def immJ (w : BitVec 32) : BitVec 64 :=
  (w.extractLsb' 31 1 ++ w.extractLsb' 12 8 ++ w.extractLsb' 20 1 ++ w.extractLsb' 21 10 ++ 0#1).signExtend 64

/-- An operation on a register and an immediate; a shift takes its amount from the low bits. -/
def rvOpImm (w : BitVec 32) (half : Bool) : Option RvOp :=
  let f3 := rvBits w 12 3
  let hi := if half then rvBits w 25 7 else rvBits w 26 6
  let top := if half then 32 else 16
  let mk (alt : Bool) (imm : BitVec 64) := some (RvOp.opImm f3 alt half (rvBits w 7 5) (rvBits w 15 5) imm)
  let sh : BitVec 64 := BitVec.ofNat 64 (rvBits w 20 (if half then 5 else 6))
  match f3 with
  | 1 => if hi = 0 then mk false sh else none
  | 5 => if hi = 0 then mk false sh else if hi = top then mk true sh else none
  | 0 => mk false (immI w)
  | _ => if half then none else mk false (immI w)

/-- An operation on two registers. -/
def rvOp (w : BitVec 32) (half : Bool) : Option RvOp :=
  let f3 := rvBits w 12 3
  let rd := rvBits w 7 5
  let a := rvBits w 15 5
  let b := rvBits w 20 5
  match rvBits w 25 7 with
  | 0 => if half && !([0, 1, 5] : List Nat).contains f3 then none else some (.op f3 false half rd a b)
  | 32 => if f3 = 0 || f3 = 5 then some (.op f3 true half rd a b) else none
  | 1 => if half && ([1, 2, 3] : List Nat).contains f3 then none else some (.mul f3 half rd a b)
  | _ => none

/-- The operations of AMO that there are; a load-reserved names no second register. -/
def rvAmo (w : BitVec 32) : Option RvOp :=
  let f3 := rvBits w 12 3
  let f5 := rvBits w 27 5
  if (f3 = 2 || f3 = 3) && ([0, 1, 2, 3, 4, 8, 12, 16, 20, 24, 28] : List Nat).contains f5 && (f5 != 2 || rvBits w 20 5 = 0) then
    some (.amo f5 (f3 = 2) (rvBits w 7 5) (rvBits w 15 5) (rvBits w 20 5))
  else none

/-- An instruction of 32 bits; none is illegal. -/
def rvDecode (w : BitVec 32) : Option RvOp :=
  let f3 := rvBits w 12 3
  let rd := rvBits w 7 5
  let a := rvBits w 15 5
  let b := rvBits w 20 5
  match rvBits w 0 7 with
  | 0x37 => some (.lui rd (immU w))
  | 0x17 => some (.auipc rd (immU w))
  | 0x6F => some (.jal rd (immJ w))
  | 0x67 => if f3 = 0 then some (.jalr rd a (immI w)) else none
  | 0x63 => if f3 = 2 || f3 = 3 then none else some (.branch f3 a b (immB w))
  | 0x03 => if f3 = 7 then none else some (.load f3 rd a (immI w))
  | 0x23 => if f3 < 4 then some (.store f3 a b (immS w)) else if f3 = 4 then some (.storeCap a b (immS w)) else none
  | 0x13 => rvOpImm w false
  | 0x1B => rvOpImm w true
  | 0x33 => rvOp w false
  | 0x3B => rvOp w true
  | 0x2F => rvAmo w
  | 0x0F => if f3 = 0 then some .fence else if f3 = 2 then some (.loadCap rd a (immI w)) else none
  | 0x73 => if w = 0x00000073 || w = 0x00100073 then some .call else none
  | 0x0B => if f3 < 3 && rvBits w 25 7 = 0 then some (.derive f3 rd a b) else none
  | _ => none

/-- Bits of a half-word as a number, and fields put together, each with the place of its lowest bit. -/
def cBits (h : BitVec 16) (lo n : Nat) : Nat := (h.extractLsb' lo n).toNat
def cField (h : BitVec 16) (fs : List (Nat × Nat × Nat)) : Nat := fs.foldl (fun v f => v + cBits h f.1 f.2.1 * 2 ^ f.2.2) 0
/-- A field of so many bits, its sign extended. -/
def cSigned (n v : Nat) : BitVec 64 := (BitVec.ofNat n v).signExtend 64

/-- The compressed instructions of the first quadrant. -/
def rvC0 (h : BitVec 16) : Option RvOp :=
  let rd := 8 + cBits h 2 3
  let rs := 8 + cBits h 7 3
  let w : BitVec 64 := BitVec.ofNat 64 (cField h [(10, 3, 3), (6, 1, 2), (5, 1, 6)])
  let d : BitVec 64 := BitVec.ofNat 64 (cField h [(10, 3, 3), (5, 2, 6)])
  match cBits h 13 3 with
  | 0 =>
    let n := cField h [(11, 2, 4), (7, 4, 6), (6, 1, 2), (5, 1, 3)]
    if n = 0 then none else some (.opImm 0 false false rd 2 (BitVec.ofNat 64 n))
  | 2 => some (.load 2 rd rs w)
  | 3 => some (.load 3 rd rs d)
  | 6 => some (.store 2 rs rd w)
  | 7 => some (.store 3 rs rd d)
  | _ => none

/-- Those of the second quadrant. -/
def rvC1 (h : BitVec 16) : Option RvOp :=
  let rd := cBits h 7 5
  let r := 8 + cBits h 7 3
  let r2 := 8 + cBits h 2 3
  let n := cField h [(12, 1, 5), (2, 5, 0)]
  let j := cSigned 12 (cField h [(12, 1, 11), (11, 1, 4), (9, 2, 8), (8, 1, 10), (7, 1, 6), (6, 1, 7), (3, 3, 1), (2, 1, 5)])
  let b := cSigned 9 (cField h [(12, 1, 8), (10, 2, 3), (5, 2, 6), (3, 2, 1), (2, 1, 5)])
  match cBits h 13 3 with
  | 0 => some (.opImm 0 false false rd rd (cSigned 6 n))
  | 1 => if rd = 0 then none else some (.opImm 0 false true rd rd (cSigned 6 n))
  | 2 => some (.opImm 0 false false rd 0 (cSigned 6 n))
  | 3 =>
    if n = 0 then none
    else if rd = 2 then
      some (.opImm 0 false false 2 2 (cSigned 10 (cField h [(12, 1, 9), (6, 1, 4), (5, 1, 6), (3, 2, 7), (2, 1, 5)])))
    else some (.lui rd (cSigned 18 (n * 2 ^ 12)))
  | 4 =>
    match cBits h 10 2 with
    | 0 => some (.opImm 5 false false r r (BitVec.ofNat 64 n))
    | 1 => some (.opImm 5 true false r r (BitVec.ofNat 64 n))
    | 2 => some (.opImm 7 false false r r (cSigned 6 n))
    | _ =>
      match cBits h 12 1, cBits h 5 2 with
      | 0, 0 => some (.op 0 true false r r r2)
      | 0, 1 => some (.op 4 false false r r r2)
      | 0, 2 => some (.op 6 false false r r r2)
      | 0, _ => some (.op 7 false false r r r2)
      | _, 0 => some (.op 0 true true r r r2)
      | _, 1 => some (.op 0 false true r r r2)
      | _, _ => none
  | 5 => some (.jal 0 j)
  | 6 => some (.branch 0 r 0 b)
  | _ => some (.branch 1 r 0 b)

/-- Those of the third quadrant. -/
def rvC2 (h : BitVec 16) : Option RvOp :=
  let rd := cBits h 7 5
  let rs := cBits h 2 5
  match cBits h 13 3 with
  | 0 => some (.opImm 1 false false rd rd (BitVec.ofNat 64 (cField h [(12, 1, 5), (2, 5, 0)])))
  | 2 => if rd = 0 then none else some (.load 2 rd 2 (BitVec.ofNat 64 (cField h [(12, 1, 5), (4, 3, 2), (2, 2, 6)])))
  | 3 => if rd = 0 then none else some (.load 3 rd 2 (BitVec.ofNat 64 (cField h [(12, 1, 5), (5, 2, 3), (2, 3, 6)])))
  | 4 =>
    if cBits h 12 1 = 0 then
      if rs != 0 then some (.op 0 false false rd 0 rs) else if rd = 0 then none else some (.jalr 0 rd 0)
    else if rs != 0 then some (.op 0 false false rd rd rs)
    else if rd = 0 then some .call else some (.jalr 1 rd 0)
  | 6 => some (.store 2 2 rs (BitVec.ofNat 64 (cField h [(9, 4, 2), (7, 2, 6)])))
  | 7 => some (.store 3 2 rs (BitVec.ofNat 64 (cField h [(10, 3, 3), (7, 3, 6)])))
  | _ => none

/-- The instruction at the start of four bytes, and how many of them it takes. -/
def rvAt (w : BitVec 32) : Option RvOp × Nat :=
  let h := w.extractLsb' 0 16
  match cBits h 0 2 with
  | 0 => (rvC0 h, 2)
  | 1 => (rvC1 h, 2)
  | 2 => (rvC2 h, 2)
  | _ => (rvDecode w, 4)

/-! ### What they compute -/

/-- The integer operations; a shift takes its amount modulo the width. -/
def rvAlu {n : Nat} (f3 : Nat) (alt : Bool) (a b : BitVec n) : BitVec n :=
  match f3 with
  | 0 => if alt then a - b else a + b
  | 1 => a <<< (b.toNat % n)
  | 2 => BitVec.ofNat n (a.slt b).toNat
  | 3 => BitVec.ofNat n (a.ult b).toNat
  | 4 => a ^^^ b
  | 5 => if alt then a.sshiftRight (b.toNat % n) else a >>> (b.toNat % n)
  | 6 => a ||| b
  | _ => a &&& b

/-- Multiplication and division: a division by zero gives all ones, and the dividend as remainder. -/
def rvMul {n : Nat} (f3 : Nat) (a b : BitVec n) : BitVec n :=
  match f3 with
  | 0 => a * b
  | 1 => BitVec.ofInt n (a.toInt * b.toInt / 2 ^ n)
  | 2 => BitVec.ofInt n (a.toInt * b.toNat / 2 ^ n)
  | 3 => BitVec.ofNat n (a.toNat * b.toNat / 2 ^ n)
  | 4 => if b = 0 then .allOnes n else a.sdiv b
  | 5 => if b = 0 then .allOnes n else a.udiv b
  | 6 => if b = 0 then a else a.srem b
  | _ => if b = 0 then a else a.umod b

/-- The new value of a word by AMO. -/
def rvAmoVal {n : Nat} (f5 : Nat) (old v : BitVec n) : BitVec n :=
  match f5 with
  | 0 => old + v
  | 4 => old ^^^ v
  | 8 => old ||| v
  | 12 => old &&& v
  | 16 => if old.slt v then old else v
  | 20 => if old.slt v then v else old
  | 24 => if old.ult v then old else v
  | 28 => if old.ult v then v else old
  | _ => v

/-- Whether a branch is taken. -/
def rvTaken (f3 : Nat) (a b : BitVec 64) : Bool :=
  match f3 with
  | 0 => a = b
  | 1 => a != b
  | 4 => a.slt b
  | 5 => !a.slt b
  | 6 => a.ult b
  | _ => !a.ult b

/-- An operation on the low 32 bits, with its sign extended. -/
def onWord (f : BitVec 32 → BitVec 32 → BitVec 32) (a b : BitVec 64) : BitVec 64 :=
  (f (a.setWidth 32) (b.setWidth 32)).signExtend 64

/-- A loaded number of 2^(f3 mod 4) bytes. -/
def rvLoaded (f3 v : Nat) : BitVec 64 :=
  match f3 with
  | 0 => (BitVec.ofNat 8 v).signExtend 64
  | 1 => (BitVec.ofNat 16 v).signExtend 64
  | 2 => (BitVec.ofNat 32 v).signExtend 64
  | _ => BitVec.ofNat 64 v

/-- A capability derived from another: its start raised, its length lowered, or permissions taken away; what would widen it, or
comes from an untagged or a sealed one, is untagged. -/
def Cap.derived (c : Cap) (f3 n : Nat) : Cap :=
  let ok := c.tag && !c.perms.getLsbD 2
  match f3 with
  | 0 => { c with base := c.base + n, length := c.length - n, tag := ok && n ≤ c.length }
  | 1 => { c with length := n, tag := ok && n ≤ c.length }
  | _ => { c with perms := c.perms &&& BitVec.ofNat 8 n, tag := ok }

/-- A register as a number. -/
def CtlCore.int (k : CtlCore) (r : Nat) : BitVec 64 := (k.reg r).bits.setWidth 64

/-! ### One instruction -/

/-- How an instruction of a control core ends. -/
inductive CtlEnd where
  | next (s : State) (pc : BitVec 64)
  | capFault
  | exception
deriving DecidableEq, Repr

/-- Goes on at `pc` with a number in a register. -/
def rvWrite (s : State) (n rd : Nat) (v : BitVec 64) (pc : BitVec 64) : CtlEnd :=
  .next (setCtl s n ((ctlCore s n).setReg rd ⟨v.setWidth 128, false⟩)) pc

/-- An access of `n` bytes through the capability in a register, at a distance from its start. -/
def through (k : CtlCore) (u : CapUse) (r : Nat) (imm : BitVec 64) (n : Nat) (f : Nat → CtlEnd) : CtlEnd :=
  let c := (k.reg r).cap
  let a := (BitVec.ofNat 64 c.base + imm).toNat
  if c.allows u a n then f a else .capFault

/-- AMO, load-reserved and store-conditional, at an aligned word. -/
def rvAtomic (s : State) (n f5 : Nat) (w : Bool) (rd a : Nat) (v pc : BitVec 64) : CtlEnd :=
  let z := if w then 4 else 8
  let old := ctlBytes s a z
  let ext (x : Nat) : BitVec 64 := rvLoaded (if w then 2 else 3) x
  if a % z != 0 then .exception
  else
    match f5 with
    | 2 => rvWrite (setCtl s n { ctlCore s n with resv := some (a / 16) }) n rd (ext old) pc
    | 3 =>
      let held := (ctlCore s n).resv = some (a / 16)
      let s1 := if held then ctlWrite s a z (v.toNat % 256 ^ z) else s
      rvWrite (setCtl s1 n { ctlCore s1 n with resv := none }) n rd (if held then 0 else 1) pc
    | _ =>
      let x : Nat := if w then (rvAmoVal f5 (BitVec.ofNat 32 old) (v.setWidth 32)).toNat
        else (rvAmoVal f5 (BitVec.ofNat 64 old) v).toNat
      rvWrite (ctlWrite s a z x) n rd (ext old) pc

/-- One instruction of control core `n`; `next` is the address after it. -/
def rvExec (s : State) (n : Nat) (o : RvOp) (next : BitVec 64) : CtlEnd :=
  let k := ctlCore s n
  match o with
  | .lui rd imm => rvWrite s n rd imm next
  | .auipc rd imm => rvWrite s n rd (k.pc + imm) next
  | .jal rd imm => rvWrite s n rd next (k.pc + imm)
  | .jalr rd rs1 imm =>
    if (k.reg rs1).tag then
      through k .exec rs1 imm 2 fun a =>
        rvWrite (setCtl s n { k with pcc := k.reg rs1 }) n rd next (BitVec.ofNat 64 (a / 2 * 2))
    else rvWrite s n rd next ((k.int rs1 + imm) &&& ~~~ 1#64)
  | .branch f3 rs1 rs2 imm => .next s (if rvTaken f3 (k.int rs1) (k.int rs2) then k.pc + imm else next)
  | .load f3 rd rs1 imm =>
    through k .load rs1 imm (2 ^ (f3 % 4)) fun a => rvWrite s n rd (rvLoaded f3 (ctlBytes s a (2 ^ (f3 % 4)))) next
  | .store f3 rs1 rs2 imm =>
    through k .store rs1 imm (2 ^ f3) fun a => .next (ctlWrite s a (2 ^ f3) ((k.int rs2).toNat % 256 ^ 2 ^ f3)) next
  | .opImm f3 alt w rd rs1 imm =>
    rvWrite s n rd (if w then onWord (rvAlu f3 alt) (k.int rs1) imm else rvAlu f3 alt (k.int rs1) imm) next
  | .op f3 alt w rd rs1 rs2 =>
    rvWrite s n rd
      (if w then onWord (rvAlu f3 alt) (k.int rs1) (k.int rs2) else rvAlu f3 alt (k.int rs1) (k.int rs2)) next
  | .mul f3 w rd rs1 rs2 =>
    rvWrite s n rd (if w then onWord (rvMul f3) (k.int rs1) (k.int rs2) else rvMul f3 (k.int rs1) (k.int rs2)) next
  | .amo f5 w rd rs1 rs2 =>
    through k (if f5 = 2 then .load else if f5 = 3 then .store else .both) rs1 0 (if w then 4 else 8) fun a =>
      rvAtomic s n f5 w rd a (k.int rs2) next
  | .fence => .next s next
  | .call => .exception
  | .loadCap rd rs1 imm =>
    through k .loadCap rs1 imm 16 fun a =>
      if a % 16 != 0 then .exception else .next (setCtl s n (k.setReg rd (ctlWord s a))) next
  | .storeCap rs1 rs2 imm =>
    through k .storeCap rs1 imm 16 fun a => if a % 16 != 0 then .exception else .next (ctlPut s a (k.reg rs2)) next
  | .derive f3 rd rs1 rs2 => .next (setCtl s n (k.setReg rd ((k.reg rs1).cap.derived f3 (k.int rs2).toNat).val)) next

/-- A control core can run its next instruction. -/
def ctlRuns (s : State) (n : Nat) : Bool := s.cc.controls.getLsbD n && !s.cc.fatal && !s.cc.recovery

/-- The fetch goes through the capability of the PC: two bytes, and two more where the instruction has them. -/
def ctlFetch (s : State) (n : Nat) : Option (BitVec 32) :=
  let k := ctlCore s n
  let a := k.pc.toNat
  let w : BitVec 32 := BitVec.ofNat 32 (ctlBytes s a 4)
  if k.pcc.cap.allows .exec a (rvAt w).2 then some w else none

/-- Control core `n` runs the instruction at its PC: it retires, or takes a capability fault, which is fatal, or another
exception. -/
def ctlStep (n : Nat) (s : State) : State :=
  let k := ctlCore s n
  if !ctlRuns s n then s
  else
    match ctlFetch s n with
    | none => capFatal s n
    | some w =>
      let trapped := setCtl s n { k with trapped := some k.pc, pc := Config.ctlVector }
      match (rvAt w).1 with
      | none => trapped
      | some o =>
        match rvExec s n o (k.pc + BitVec.ofNat 64 (rvAt w).2) with
        | .next s' pc => retire (setCtl s' n { ctlCore s' n with pc := pc }) n
        | .capFault => capFatal s n
        | .exception => trapped

end Sys2Proof.Machine
end

