-- ==== Sys2Proof/Machine/Integer.lean ====
section
/-! DEFINITION. Integer arithmetic and logic (R47 to R53, R58). -/

namespace Sys2Proof.Machine

open Host (Outcome)

/-! ### The operations -/

/-- Shift amounts are taken modulo 32 (R49). -/
def amount (c : Word) : Nat := c.toNat % 32
def shlWord (b c : Word) : Word := b <<< amount c
def shrWord (b c : Word) : Word := b >>> amount c
def sraWord (b c : Word) : Word := b.sshiftRight (amount c)

/-- Quotient and remainder of DIV and REM (R51). -/
def divS (b c : Word) : Word × Word :=
  if c = 0 then (0xFFFFFFFF, b)
  else if b = 0x80000000 && c = 0xFFFFFFFF then (0x80000000, 0)
  else (wordOf (b.toInt.tdiv c.toInt), wordOf (b.toInt.tmod c.toInt))
/-- Quotient and remainder of DIVU and REMU (R51). -/
def divU (b c : Word) : Word × Word :=
  if c = 0 then (0xFFFFFFFF, b) else (BitVec.ofNat 32 (b.toNat / c.toNat), BitVec.ofNat 32 (b.toNat % c.toNat))

def mulHigh (b c : Word) : Word := wordOf (b.toInt * c.toInt / 2 ^ 32)
def mulHighU (b c : Word) : Word := BitVec.ofNat 32 (b.toNat * c.toNat / 2 ^ 32)
def minS (b c : Word) : Word := if relLt c b then c else b
def maxS (b c : Word) : Word := if relLt b c then c else b
def minU (b c : Word) : Word := if relLtu c b then c else b
def maxU (b c : Word) : Word := if relLtu b c then c else b

/-- Zero bits above the highest 1 bit; 32 for zero (R52). -/
def clzWord (b : Word) : Word := if b = 0 then 32 else BitVec.ofNat 32 (31 - Nat.log2 b.toNat)
/-- Zero bits below the lowest 1 bit; 32 for zero (R52). -/
def ctzFrom : Nat → Nat → Word → Word
  | 0, n, _ => BitVec.ofNat 32 n
  | k + 1, n, b => if b.getLsbD n then BitVec.ofNat 32 n else ctzFrom k (n + 1) b
def ctzWord (b : Word) : Word := ctzFrom 32 0 b
def popWord (b : Word) : Word := BitVec.ofNat 32 (firsts 32 b.getLsbD).length
def brevWord (b : Word) : Word := b.reverse
/-- Rotation to the left by an amount modulo 32 (R52). -/
def rotWord (b c : Word) : Word := b.rotateLeft (amount c)

/-- The width that imm5 of SEXT and ZEXT names (R53). -/
def Imm.width (i : Imm) : Nat := i.raw.toNat % 32 + 1

/-! ### Page 0 (R49, R50) -/

def execAdd (o : ShT) : State → Outcome State Fault Refusal := runT false o (fun b c => b + c)
def execSub (o : ShT) : State → Outcome State Fault Refusal := runT false o (fun b c => b - c)
def execAnd (o : ShT) : State → Outcome State Fault Refusal := runT false o (fun b c => b &&& c)
def execOr (o : ShT) : State → Outcome State Fault Refusal := runT false o (fun b c => b ||| c)
def execXor (o : ShT) : State → Outcome State Fault Refusal := runT false o (fun b c => b ^^^ c)
def execAndn (o : ShT) : State → Outcome State Fault Refusal := runT false o (fun b c => b &&& ~~~ c)
def execShl (o : ShT) : State → Outcome State Fault Refusal := runT false o shlWord
def execShr (o : ShT) : State → Outcome State Fault Refusal := runT false o shrWord
def execSra (o : ShT) : State → Outcome State Fault Refusal := runT false o sraWord
def execMul (o : ShT) : State → Outcome State Fault Refusal := runT false o (fun b c => b * c)
def execMov (o : ShU) : State → Outcome State Fault Refusal := runU false o (fun b => b)

def execAddi (o : ShI) : State → Outcome State Fault Refusal := runI false o (fun a => a + wordOf (o.imm.value 5))
/-- MOVI does not read gA and does not wait for it. -/
def execMovi (o : ShI) : State → Outcome State Fault Refusal :=
  issue { o.use false with srcs := [] } fun x t s => done s x (wrReg t o.a.toNat (wordOf (o.imm.value 5)))
def execAndi (o : ShI) : State → Outcome State Fault Refusal := runI false o (fun a => a &&& wordOf (o.imm.value 5))
def execShli (o : ShI) : State → Outcome State Fault Refusal := runI false o (fun a => shlWord a (o.imm.raw.setWidth 32))
def execShri (o : ShI) : State → Outcome State Fault Refusal := runI false o (fun a => shrWord a (o.imm.raw.setWidth 32))
def execSrai (o : ShI) : State → Outcome State Fault Refusal := runI false o (fun a => sraWord a (o.imm.raw.setWidth 32))

/-! ### Page 1 (R51, R52, R53, R58) -/

def execDiv (o : ShT) : State → Outcome State Fault Refusal := runT true o (fun b c => (divS b c).1)
def execDivu (o : ShT) : State → Outcome State Fault Refusal := runT true o (fun b c => (divU b c).1)
def execRem (o : ShT) : State → Outcome State Fault Refusal := runT true o (fun b c => (divS b c).2)
def execRemu (o : ShT) : State → Outcome State Fault Refusal := runT true o (fun b c => (divU b c).2)
def execMulh (o : ShT) : State → Outcome State Fault Refusal := runT true o mulHigh
def execMulhu (o : ShT) : State → Outcome State Fault Refusal := runT true o mulHighU
def execMin (o : ShT) : State → Outcome State Fault Refusal := runT true o minS
def execMax (o : ShT) : State → Outcome State Fault Refusal := runT true o maxS
def execMinu (o : ShT) : State → Outcome State Fault Refusal := runT true o minU
def execMaxu (o : ShT) : State → Outcome State Fault Refusal := runT true o maxU
def execClz (o : ShU) : State → Outcome State Fault Refusal := runU true o clzWord
def execCtz (o : ShU) : State → Outcome State Fault Refusal := runU true o ctzWord
def execPopc (o : ShU) : State → Outcome State Fault Refusal := runU true o popWord
def execBrev (o : ShU) : State → Outcome State Fault Refusal := runU true o brevWord
def execRot (o : ShT) : State → Outcome State Fault Refusal := runT true o rotWord
def execSext (o : ShI) : State → Outcome State Fault Refusal :=
  runI true o (fun a => wordOf (sextNat (Imm.width o.imm) a.toNat))
def execZext (o : ShI) : State → Outcome State Fault Refusal :=
  runI true o (fun a => BitVec.ofNat 32 (a.toNat % 2 ^ Imm.width o.imm))
/-- SEL reads both sources and waits for both, whichever it selects (R58). -/
def execSel (o : ShT) : State → Outcome State Fault Refusal :=
  issue (o.use true) fun x t s =>
    done s x (wrReg t o.a.toNat (if getFlag t 1 then rdReg t o.b.toNat else rdReg t o.cNum))

end Sys2Proof.Machine
end

