-- ==== Sys2Proof/Machine/Vector.lean ====
section
/-! DEFINITION. The integer vector instructions (R91 to R101). -/

namespace Sys2Proof.Machine

open Host (Outcome)

/-- A lane-wise operation on two vectors (R97). -/
def runVV (o : ShVV) (f : Word → Word → Word) : State → Outcome State Fault Refusal :=
  issue o.use fun x t s => done s x (wrEnabled t o.a fun i => f (lane t o.b i) (lane t o.cNum i))

/-- A compare writes a bitmap of lanes (R98). -/
def runVCmp (o : ShSVV) (rel : Word → Word → Bool) : State → Outcome State Fault Refusal :=
  issue o.use fun x t s =>
    done s x (wrReg t o.a.toNat (laneBits t fun i => rel (lane t o.b i) (lane t o.cNum i)))

/-- A reduction over the enabled lanes, from its identity (R101). -/
def runVRed (o : ShSV) (f : Word → Word → Word) (e : Word) : State → Outcome State Fault Refusal :=
  issue o.use fun x t s =>
    done s x (wrReg t o.a.toNat ((enabled t).foldl (fun m i => f m (lane t o.b i)) e))

def execVadd (o : ShVV) : State → Outcome State Fault Refusal := runVV o (fun b c => b + c)
def execVsub (o : ShVV) : State → Outcome State Fault Refusal := runVV o (fun b c => b - c)
def execVmul (o : ShVV) : State → Outcome State Fault Refusal := runVV o (fun b c => b * c)
def execVmin (o : ShVV) : State → Outcome State Fault Refusal := runVV o minS
def execVmax (o : ShVV) : State → Outcome State Fault Refusal := runVV o maxS
def execVand (o : ShVV) : State → Outcome State Fault Refusal := runVV o (fun b c => b &&& c)
def execVor (o : ShVV) : State → Outcome State Fault Refusal := runVV o (fun b c => b ||| c)
def execVxor (o : ShVV) : State → Outcome State Fault Refusal := runVV o (fun b c => b ^^^ c)
def execVshl (o : ShVV) : State → Outcome State Fault Refusal := runVV o shlWord
def execVshr (o : ShVV) : State → Outcome State Fault Refusal := runVV o shrWord
def execVsra (o : ShVV) : State → Outcome State Fault Refusal := runVV o sraWord

def execVceq (o : ShSVV) : State → Outcome State Fault Refusal := runVCmp o relEq
def execVclt (o : ShSVV) : State → Outcome State Fault Refusal := runVCmp o relLt

/-- VSEL writes every lane; the mask selects (R99). -/
def execVsel (o : ShVV) : State → Outcome State Fault Refusal :=
  issue { o.use with byLane := false } fun x t s =>
    done s x (wrLanes t o.a fun i => some (if laneOn t i then lane t o.b i else lane t o.cNum i))
def execVbcast (o : ShVS) : State → Outcome State Fault Refusal :=
  issue o.use fun x t s => done s x (wrEnabled t o.a fun _ => rdReg t o.b.toNat)
/-- VEXT does not consult the mask (R100). -/
def execVext (o : ShSVS) : State → Outcome State Fault Refusal :=
  issue o.use fun x t s => done s x (wrReg t o.a.toNat (lane t o.b ((rdReg t o.cNum).toNat % 16)))
/-- The lane that VINS writes. -/
def vinsReg (o : ShVSS) (t : Thread) : Nat := 16 * o.a.toNat + (rdReg t o.cNum).toNat % 16
/-- VINS writes one lane, whatever the mask, and reads no lane (R100); a stream bound to that lane's register counts as
for any register that an instruction writes (R189, R244). -/
def execVins (o : ShVSS) : State → Outcome State Fault Refusal :=
  issue o.use fun x t s => writeOne x t s (vinsReg o t) (rdReg t o.b.toNat)
/-- VPERM reads index and data from their old values (R97). -/
def execVperm (o : ShVV) : State → Outcome State Fault Refusal :=
  issue o.use fun x t s => done s x (wrEnabled t o.a fun i => lane t o.b ((lane t o.cNum i).toNat % 16))
/-- VSCAN: the sums over the enabled lanes up to each (R101). -/
def execVscan (o : ShVU) : State → Outcome State Fault Refusal :=
  issue o.use fun x t s =>
    done s x (wrEnabled t o.a fun i =>
      ((enabled t).filter fun j => j ≤ i).foldl (fun m j => m + lane t o.b j) 0)
def execVredadd (o : ShSV) : State → Outcome State Fault Refusal := runVRed o (fun b c => b + c) 0
def execVredmin (o : ShSV) : State → Outcome State Fault Refusal := runVRed o minS 0x7FFFFFFF
def execVredmax (o : ShSV) : State → Outcome State Fault Refusal := runVRed o maxS 0x80000000

end Sys2Proof.Machine
end

