-- ==== Sys2Proof/Machine/VectorFp.lean ====
section
/-! DEFINITION. The floating vector instructions (R96, R104 to R112). -/

namespace Sys2Proof.Machine

open Host (Outcome)

/-- A lane-wise floating operation: each enabled lane is written, and FPST takes the flags they raise (R81, R104). -/
def fpLanes (t : Thread) (a : VReg) (f : Nat → FpOut) : Thread :=
  raise (wrEnabled t a fun i => (f i).1) (laneFlags t fun i => (f i).2)

def runFVV (o : ShVV) (f : Word → Word → FpOut) : State → Outcome State Fault Refusal :=
  issue o.use fun x t s => done s x (fpLanes t o.a fun i => f (lane t o.b i) (lane t o.cNum i))
def runFVU (o : ShVU) (f : Word → FpOut) : State → Outcome State Fault Refusal :=
  issue o.use fun x t s => done s x (fpLanes t o.a fun i => f (lane t o.b i))

def execVfadd (o : ShVV) : State → Outcome State Fault Refusal := runFVV o fadd
def execVfsub (o : ShVV) : State → Outcome State Fault Refusal := runFVV o fsub
def execVfmul (o : ShVV) : State → Outcome State Fault Refusal := runFVV o fmul
def execVfmin (o : ShVV) : State → Outcome State Fault Refusal := runFVV o fmin
def execVfmax (o : ShVV) : State → Outcome State Fault Refusal := runFVV o fmax
/-- VFMA reads vA as a source (R104). -/
def execVfma (o : ShVV) : State → Outcome State Fault Refusal :=
  issue { o.use with srcs := lanesOf o.a ++ (o.use).srcs } fun x t s =>
    done s x (fpLanes t o.a fun i => ffma (lane t o.a i) (lane t o.b i) (lane t o.cNum i))
def execVfabs (o : ShVU) : State → Outcome State Fault Refusal := runFVU o fabs
def execVrcp (o : ShVU) : State → Outcome State Fault Refusal := runFVU o frcp
def execVrsq (o : ShVU) : State → Outcome State Fault Refusal := runFVU o frsq
def execVfclt (o : ShSVV) : State → Outcome State Fault Refusal := runVCmp o flt
def execVfceq (o : ShSVV) : State → Outcome State Fault Refusal := runVCmp o feq

/-! ### Fixed-order reduction and scan (R106, R107) -/

/-- The lanes as the sums take them: a disabled lane enters as -0. -/
def fpIn (t : Thread) (v : VReg) : List Word :=
  (List.range 16).map fun i => if laneOn t i then lane t v i else 0x80000000

/-- One level of the pairwise tree: neighbours are added. -/
def pairSums : List Word → List Word × BitVec 5
  | a :: b :: rest =>
    ((fadd a b).1 :: (pairSums rest).1, (fadd a b).2 ||| (pairSums rest).2)
  | l => (l, 0)

def fpTree (l : List Word) : FpOut :=
  let r1 := pairSums l
  let r2 := pairSums r1.1
  let r3 := pairSums r2.1
  let r4 := pairSums r3.1
  (r4.1.headD 0, r1.2 ||| r2.2 ||| r3.2 ||| r4.2)

def execVfred (o : ShSV) : State → Outcome State Fault Refusal :=
  issue o.use fun x t s => done s x (raise (wrReg t o.a.toNat (fpTree (fpIn t o.b)).1) (fpTree (fpIn t o.b)).2)

/-- One step of the scan at distance `d`. -/
def scanStep (d : Nat) (y : List Word) (fl : BitVec 5) : List Word × BitVec 5 :=
  (y.take d ++ (List.zipWith fadd y (y.drop d)).map (·.1),
    (List.zipWith fadd y (y.drop d)).foldl (fun m r => m ||| r.2) fl)

def fpScan (l : List Word) : List Word × BitVec 5 :=
  let r1 := scanStep 1 l 0
  let r2 := scanStep 2 r1.1 r1.2
  let r3 := scanStep 4 r2.1 r2.2
  scanStep 8 r3.1 r3.2

def execVfscan (o : ShVU) : State → Outcome State Fault Refusal :=
  issue o.use fun x t s =>
    done s x (raise (wrEnabled t o.a fun i => ((fpScan (fpIn t o.b)).1[i]?).getD 0) (fpScan (fpIn t o.b)).2)

/-! ### Conversions under scale (R108 to R110) -/

/-- K of the control word. -/
def ctlK (c : Word) : Int := (c.extractLsb' 0 8).toInt
def ctlUns (c : Word) : Bool := c.getLsbD 8
def ctlFmt (c : Word) : Nat := (c.extractLsb' 8 4).toNat
def ctlDir (c : Word) : Bool := c.getLsbD 12

def intNum (x : Int) : Num := .fin (x < 0) x.natAbs 1

def fromInt (c x : Word) : FpOut := toFp ((intNum (if ctlUns c then x.toNat else x.toInt)).scale (ctlK c))
def toInt (c x : Word) : FpOut :=
  let r := if ctlUns c then convertInt ((fp x).scale (ctlK c)) 0 (2 ^ 32 - 1)
    else convertInt ((fp x).scale (ctlK c)) (-2 ^ 31) (2 ^ 31 - 1)
  (wordOf r.1, r.2)

def execVcvtif (o : ShVVS) : State → Outcome State Fault Refusal :=
  issue o.use fun x t s => done s x (fpLanes t o.a fun i => fromInt (rdReg t o.cNum) (lane t o.b i))
def execVcvtfi (o : ShVVS) : State → Outcome State Fault Refusal :=
  issue o.use fun x t s => done s x (fpLanes t o.a fun i => toInt (rdReg t o.cNum) (lane t o.b i))

/-- The packed formats of VCVT. -/
def cvtFmt (n : Nat) : Option Fmt :=
  match n with
  | 1 => some .bf16 | 2 => some .e4m3 | 3 => some .e5m2 | 4 => some .e2m1 | 5 => some .log6 | _ => none
/-- Bits of one code's place in the packed form; LOG6 takes a byte (R75). -/
def Fmt.place : Fmt → Nat
  | .log6 => 8
  | f => f.width

/-- The code of source lane i, 0 for a disabled lane, with its flags. -/
def narrowLane (t : Thread) (v : VReg) (f : Fmt) (k : Int) (i : Nat) : Nat × BitVec 5 :=
  if laneOn t i then convert ((fp (lane t v i)).scale k) f else (0, 0)

/-- All sixteen codes packed, as words of lanes. -/
def narrowed (t : Thread) (v : VReg) (f : Fmt) (k : Int) (j : Nat) : Word :=
  BitVec.ofNat 32 (packCodes f.place 0 ((List.range 16).map fun i => (narrowLane t v f k i).1) / 2 ^ (32 * j))

/-- The value of code i of a packed vector under scale. -/
def widenLane (t : Thread) (v : VReg) (f : Fmt) (k : Int) (i : Nat) : FpOut :=
  match f with
  | .log6 => toFp (log6Value (log6Code (codeAt (vec t v) 8 i)) k)
  | g => toFp ((g.value (codeAt (vec t v) g.width i)).scale k)

def vcvt (t : Thread) (a b : VReg) (c : Word) : Thread :=
  if ctlFmt c = 0 then fpLanes t a fun i => toFp ((fp (lane t b i)).scale (ctlK c))
  else
    match cvtFmt (ctlFmt c) with
    | none =>
      raise (if ctlDir c then wrEnabled t a fun _ => 0 else wrLanes t a fun _ => some 0) fNV
    | some f =>
      if ctlDir c then fpLanes t a (widenLane t b f (ctlK c))
      else raise (wrLanes t a fun j => some (narrowed t b f (ctlK c) j))
        (laneFlags t fun i => (narrowLane t b f (ctlK c) i).2)

/-- VCVT in its narrowing direction writes all sixteen lanes (R91). -/
def narrows (c : Word) : Bool := ctlFmt c != 0 && !ctlDir c

def execVcvt (o : ShVVS) : State → Outcome State Fault Refusal :=
  issue o.use fun x t s =>
    if narrows (rdReg t o.cNum) then
      moreDsts x t s (lanesOf o.a) (done s x (vcvt t o.a o.b (rdReg t o.cNum)))
    else done s x (vcvt t o.a o.b (rdReg t o.cNum))

/-! ### Amax registers (R111, R112) -/

/-- One FP32 code recorded in an amax register. -/
def amaxTake (m x : Word) : Word :=
  if isNaN x then m ||| 0x80000000
  else if magOf x > magOf m then (m &&& 0x80000000) ||| (x &&& 0x7FFFFFFF) else m

def updAmax (k : Core) (n : Nat) (f : Word → Word) : Core :=
  { k with amax := k.amax.setIfInBounds n (f ((k.amax[n]?).getD 0)) }

def execVamax (o : ShAmV) : State → Outcome State Fault Refusal :=
  issue o.use.oncely fun x t s =>
    .ok (modCore (setThread s x.core x.slot t) x.core fun k =>
      updAmax k o.a.toNat fun m => (enabled t).foldl (fun m i => amaxTake m (lane t o.b i)) m)

end Sys2Proof.Machine
end

