-- ==== Sys2Proof/Machine/Matrix.lean ====
section
/-! DEFINITION. The bit-serial matrix engine: page 8, its queue and its two events (R82 to R89, R224 to R249). -/

namespace Sys2Proof.Machine

open Host (Outcome)

/-! ### Precision words and the duplication map (R226, R228, R232, R242, R248) -/

def pwFmt (v : Word) : Nat := nbits v.toNat 15 12
/-- Read width of A. -/
def pwAw (v : Word) : Nat := nbits v.toNat 11 8 + 1
def pwAf (v : Word) : Nat := nbits v.toNat 7 4
def pwBf (v : Word) : Nat := nbits v.toNat 3 0
/-- Read width of integer blocks. -/
def pwBw (v : Word) : Nat := nbits v.toNat 23 20 + 1
def pwOsc (v : Word) : Int := (v.extractLsb' 24 8).toInt

/-- The effective precision word of a tile: its override while there is one, else its shadow. -/
def effPw (k : Core) (t : Nat) : Word :=
  match k.pwOver[t]? with
  | some (some (_, v)) => v
  | _ => (k.pwShadow[t]?).getD 0

def setOver (k : Core) (t : Nat) (v : Option (Word × Word)) : Core := { k with pwOver := k.pwOver.setIfInBounds t v }

def execPrec (o : ShFB4) : State → Outcome State Fault Refusal :=
  issue o.use.oncely fun x t s =>
    let v := rdReg t o.b.toNat
    if v.getLsbD 16 then .ok (modCore s x.core fun k => setOver k o.t.toNat none)
    else if !pwValid v then .trap .queue 0 0
    else .ok (modCore s x.core fun k => setOver k o.t.toNat (some (t.lid, v)))

/-- The valid entries of a tile's map, with their source rows. -/
def dupMap (k : Core) (t : Nat) : List (Nat × Nat) :=
  (List.range 16).filterMap fun j => (smGet k.dup (16 * t + j)).map fun v => (j, v.toNat)

def setDup (k : Core) (t : Nat) (e : Word) : Core :=
  if e.getLsbD 31 then { k with dup := k.dup.filter fun p => p.1 / 16 != t }
  else
    let key := 16 * t + nbits e.toNat 3 0
    { k with dup := if e.getLsbD 15 then smSet k.dup key (e.extractLsb' 16 10) else smDel k.dup key }

def execDupset (o : ShFB4) : State → Outcome State Fault Refusal :=
  issue o.use.oncely fun x t s => .ok (modCore s x.core fun k => setDup k o.t.toNat (rdReg t o.b.toNat))

/-! ### Amax registers (R247) -/

def execAmaxrd (o : ShA4) : State → Outcome State Fault Refusal :=
  issue o.use.oncely fun x t s =>
    done s x (wrReg t o.a.toNat (((getCore s x.core).amax[o.t.toNat]?).getD 0))

def execAmaxclr (o : ShT4) : State → Outcome State Fault Refusal :=
  issue o.use.oncely fun x _ s => .ok (modCore s x.core fun k => updAmax k o.t.toNat fun _ => 0)

/-! ### Accumulator tiles (R236, R245) -/

/-- The tile that a command locks. -/
def matTile (m : MatCmd) : Option Nat := match m.kind with | .wld => none | _ => some m.tile
def tileLocked (k : Core) (t : Nat) : Bool := (k.matQ ++ k.matRun.toList).any fun m => matTile m = some t

def accKey (t m n : Nat) : Nat := 256 * t + 16 * m + n
def accAt (k : Core) (t m n : Nat) : BitVec 96 := (smGet k.acc (accKey t m n)).getD 0
def setAcc (k : Core) (t m n : Nat) (v : BitVec 96) : Core := { k with acc := smSet k.acc (accKey t m n) v }
def statAt (k : Core) (t : Nat) : BitVec 8 := (k.accStat[t]?).getD 0
def setStat (k : Core) (t : Nat) (v : BitVec 8) : Core := { k with accStat := k.accStat.setIfInBounds t v }
/-- The status word with LOCK in bit 8. -/
def statWord (k : Core) (t : Nat) : Word := BitVec.ofNat 32 ((tileLocked k t).toNat * 256 + (statAt k t).toNat)

/-- An instruction on a tile: a locked one answers with a retry, which is charged as an issue (R236, R296). -/
def onTile (x : Ctx) (s : State) (t : Nat) (r : Res) : Res :=
  if tileLocked (getCore s x.core) t then .hold s (.tile t) .waitMem 0 else r

def zeroTile (k : Core) (t : Nat) : Core :=
  setStat { k with acc := k.acc.filter fun e => e.1 / 256 != t, accBad := setDel k.accBad t } t 0

def execAccz (o : ShT4) : State → Outcome State Fault Refusal :=
  issue o.use.oncely fun x _ s =>
    onTile x s o.t.toNat (.ok (modCore s x.core fun k => zeroTile k o.t.toNat))

def accIdx (i : Word) : Nat × Nat := (nbits i.toNat 7 4, nbits i.toNat 3 0)

/-- Bits 31:0, 63:32 and 95:64 of an element. -/
def accTriple (v : BitVec 96) : List Word := [v.extractLsb' 0 32, v.extractLsb' 32 32, v.extractLsb' 64 32]

def execAccrd (o : ShArd) : State → Outcome State Fault Refusal :=
  issue (o.use [o.a.toNat]).oncely fun x t s =>
    let i := rdReg t o.c.toNat
    let n := o.t.toNat
    let k := getCore s x.core
    if i.getLsbD 8 then
      onTile x s n
        (done (if i.getLsbD 9 then modCore s x.core fun k => setStat k n 0 else s) x
          (wrReg t o.a.toNat (statWord k n)))
    else if t.lim ≤ o.a.toNat + 2 then .trap .reglim 0 0
    else
      moreDsts x t s [o.a.toNat + 1, o.a.toNat + 2]
        (onTile x s n
          (if k.accBad.contains n then .trapX ⟨.memerr, 0, 0, x.ia, false, 0⟩ fun s => consumed s x.core
           else done s x (wrRegs t o.a.toNat (accTriple (accAt k n (accIdx i).1 (accIdx i).2)))))

/-- A register was full at the issue, before the instruction's own synchronised reads emptied it (R15). -/
def wasFull (u : Use) (t : Thread) (n : Nat) : Bool := isFull t n || u.sync.contains n

def execAccwr (o : ShF4) : State → Outcome State Fault Refusal :=
  issue (o.use [o.b.toNat, o.c.toNat]).oncely fun x t s =>
    let u := o.use [o.b.toNat, o.c.toNat]
    let i := rdReg t o.c.toNat
    let n := o.t.toNat
    let b := o.b.toNat
    if i.getLsbD 8 then
      onTile x s n (.ok (modCore s x.core fun k => setStat k n ((rdReg t b).setWidth 8)))
    else if t.lim ≤ b + 2 then .trap .reglim 0 0
    else if streamBusy (getCore s x.core) x.slot t [b + 1, b + 2] ||
        !wasFull u t (b + 1) || !wasFull u t (b + 2) then
      .wait .waitMem id
    else
      onTile x s n
        (.ok (modCore s x.core fun k =>
          setAcc k n (accIdx i).1 (accIdx i).2 (rdReg t (b + 2) ++ rdReg t (b + 1) ++ rdReg t b)))

/-! ### Planes (R224, R225, R249) -/

/-- Bit `i` of a number, as a number. -/
def bitAt (x i : Nat) : Nat := (x >>> i) % 2

/-- The code of the element at a plane bit: `p` planes of 256 bits each. -/
def planeCode (p data pos : Nat) : Nat :=
  (List.range p).foldl (fun c j => c + bitAt data (256 * j + pos) * 2 ^ j) 0

/-- The planes with the code at one plane bit replaced. -/
def setPlane (p data pos code : Nat) : Nat :=
  (List.range p).foldl
    (fun d j => d - bitAt d (256 * j + pos) * 2 ^ (256 * j + pos) + bitAt code j * 2 ^ (256 * j + pos)) data

/-- A range of a thread's own local store, for OSPLIT. -/
def ownRange (s : State) (x : Ctx) (t : Thread) (a : Word) (n : Nat) (need : Need) : Except Cause Place :=
  if segType ((t.segs[selOf a]?).getD 0) != 2 then .error .segv
  else
    match resolve s x.core ((t.segs[selOf a]?).getD 0) (offOf a) n 32 need with
    | .ok (.at p) => .ok p
    | .error e => .error e
    | .ok _ => .error .segv

/-- No other requester holds or waits for one of these words (R179). -/
def wordsFree (s : State) (x : Ctx) (ps : List Place) : Bool :=
  !ps.any fun p =>
    heldByOther s (wordKey p) x.core x.slot ||
      s.flight.any fun f => f.stage = .queued && (accWords f).contains (wordKey p)

/-- The positions of row or column `k`. -/
def chanPos (tr : Bool) (k m : Nat) : Nat := if tr then 16 * k + m else 16 * m + k

/-- The words of a plane tile that hold the codes of a row or column: in each of `p` planes one word for a row, all eight for a
column (R249). -/
def chanWords (q : Place) (p : Nat) (tr : Bool) (k : Nat) : List Place :=
  (List.range p).flatMap fun j =>
    (((List.range 16).map fun m => chanPos tr k m / 32).eraseDups).map fun i => q.shift (32 * j + 4 * i)

/-- One code split: the first half, rounded down, and the rest. -/
def splitCode (uns : Bool) (p code : Nat) : Nat × Nat :=
  let a : Int := if uns then code else sextNat p code
  let h1 := a / 2
  ((h1 % 2 ^ p).toNat, ((a - h1) % 2 ^ p).toNat)

/-- The bytes of a plane tile are written code by code; only words that change hold anything new. -/
def splitTiles (s : State) (pa pc : Place) (c : Word) : State :=
  let p := nbits c.toNat 7 4 + 1
  let tr := c.getLsbD 12
  (List.range 16).foldl
    (fun s m =>
      let posA := chanPos tr (nbits c.toNat 3 0) m
      let posX := chanPos tr (nbits c.toNat 11 8) m
      let h := splitCode (c.getLsbD 13) p (planeCode p (loadNat s pa (32 * p)) posA)
      putCode (putCode s pa p posA h.1) pc p posX h.2) s
where
  /-- Writes one code: the words of the planes that hold its bits. -/
  putCode (s : State) (q : Place) (p pos code : Nat) : State :=
    (List.range p).foldl
      (fun s j =>
        let w := q.shift (32 * j + 4 * (pos / 32))
        storeWord s w (putBit (loadWord s w) (pos % 32) (bitAt code j = 1))) s

def execOsplit (o : ShR3) : State → Outcome State Fault Refusal :=
  issue { (o.use []) with srcs := o.a.toNat :: (o.use []).srcs, names := o.a.toNat :: (o.use []).names, once := true }
    fun x t s =>
      let c := rdReg t o.b.toNat
      let n := 32 * (nbits c.toNat 7 4 + 1)
      let aA := rdReg t o.a.toNat
      let aC := rdReg t o.c.toNat
      if !mayIssue s x none then .wait .waitMem id
      else
        match ownRange s x t aA n needRW with
        | .error e => .trap e 2 aA
        | .ok pa =>
          match ownRange s x t aC n needW with
          | .error e => .trap e 2 aC
          | .ok pc =>
            let wa := chanWords pa (n / 32) (c.getLsbD 12) (nbits c.toNat 3 0)
            let wc := chanWords pc (n / 32) (c.getLsbD 12) (nbits c.toNat 11 8)
            let bad (ws : List Place) : Bool := ws.any fun w => anyBad s w 4
            if !wordsFree s x (wa ++ wc) then .wait .waitMem id
            else if bad wa || bad wc then
              .trapX ⟨.memerr, 0, if bad wa then aA else aC, x.ia, false, 0⟩ fun s => consumed s x.core
            else .ok (splitTiles s pa pc c)

/-! ### Commands (R233, R243, R244, R246) -/

/-- An operand range: its segment has one of the types, the rights, and holds every byte. -/
def operandAt (s : State) (x : Ctx) (t : Thread) (types : List Nat) (a : Word) (n al : Nat) (need : Need) :
    Except Cause (Place × Option Nat) :=
  let d := (t.segs[selOf a]?).getD 0
  if !types.contains (segType d) then .error .segv
  else
    match resolve s x.core d (offOf a) n al need with
    | .ok (.at p) => .ok (p, none)
    | .ok (.virt va) => .ok (.host 0, some va)
    | .ok _ => .error .segv
    | .error e => .error e

/-- A command that captures nothing yet. -/
def blankCmd (s : State) (x : Ctx) (t : Thread) (kind : MatKind) (tile : Nat) (ctl : Word) : MatCmd :=
  { id := s.serial, kind := kind, slot := x.slot, lid := t.lid, asn := t.asn, detached := false, tile := tile
    pw := effPw (getCore s x.core) tile, map := [], ctl := ctl, base := .host 0, va := none, named := 0, ta := false
    tb := false, need := 0, got := [], gone := false }

/-- The command takes an entry, or its slot waits for one. -/
def takeEntry (x : Ctx) (s : State) (m : MatCmd) : Res :=
  let k := getCore s x.core
  if !allPerformed s x.core x.slot 1 || !streamIdle s x.core x.slot then .wait .waitMem id
  else if k.matGrant.contains x.slot || matFree k > 0 then
    let s1 := modCore { s with serial := s.serial + 1 } x.core fun k =>
      { k with matQ := k.matQ ++ [m], matGrant := k.matGrant.filter fun j => j != x.slot
               matWait := k.matWait.filter fun j => j != x.slot }
    if m.detached then .ok s1 else .hold s1 (.matrix m.id) .parked 0
  else
    .wait .waitMem fun s => modCore s x.core fun k =>
      { k with matWait := if k.matWait.contains x.slot then k.matWait else k.matWait ++ [x.slot] }

/-- WLD's length in bytes and its first byte in the buffer. -/
def wldLen (c : Word) : Nat := 32 * (nbits c.toNat 14 8 + 1)
def wldOfs (section_ : Nat) (c : Word) : Nat := 4096 * section_ + 32 * nbits c.toNat 6 0

def execWld (o : ShF4) : State → Outcome State Fault Refusal :=
  issue (o.use [o.b.toNat, o.c.toNat]).oncely fun x t s =>
    let c := rdReg t o.c.toNat
    let a := rdReg t o.b.toNat
    if 32 * nbits c.toNat 6 0 + wldLen c > 4096 then .trap .queue 0 0
    else
      match operandAt s x t [2, 3, 4, 5] a (wldLen c) 32 needR with
      | .error e => .trap e 5 a
      | .ok (p, va) => takeEntry x s { blankCmd s x t .wld o.t.toNat c with base := p, va := va, named := a }

/-- MMA's control fields. -/
def mmaSrc (k : Word) : Nat := nbits k.toNat 31 30
def mmaPlanes (k : Word) : Nat := nbits k.toNat 26 23 + 1
def mmaBlocks (k : Word) : Nat := nbits k.toNat 22 17 + 1
def mmaWoff (k : Word) : Nat := nbits k.toNat 16 8
def mmaRows (k : Word) : Nat := nbits k.toNat 7 4 + 1
def mmaCols (k : Word) : Nat := nbits k.toNat 3 0 + 1
/-- A tiles read: one for each block, and the extension tile. -/
def mmaTiles (k : Word) (map : List (Nat × Nat)) : Nat := mmaBlocks k + (if map.isEmpty then 0 else 1)

def execMma (o : ShMma) : State → Outcome State Fault Refusal :=
  issue o.use.oncely fun x t s =>
    let k := rdReg t o.b.toNat
    let a := rdReg t o.c.toNat
    let map := dupMap (getCore s x.core) o.t.toNat
    let n := 32 * mmaPlanes k * mmaTiles k map
    let m := { blankCmd s x t .mma o.t.toNat k with
      map := map, detached := k.getLsbD 27, ta := o.ta, tb := o.tb, named := a }
    match mmaSrc k with
    | 0 =>
      match operandAt s x t [2] a n 32 needR with
      | .error e => .trap e 5 a
      | .ok (p, _) => takeEntry x s { m with base := p }
    | 3 => .trap .queue 0 0
    | q => if (streamOf t (q - 1)).bound then takeEntry x s { m with need := n / 4 } else .trap .queue 0 0

/-! #### The stored form of CVTST (R75, R246) -/

def cvtFmtOf (k : Word) : Nat := nbits k.toNat 27 24
/-- Bits of one code. -/
def cvtBits (k : Word) : Nat :=
  match cvtFmtOf k with
  | 0 => 32 | 1 => 16 | 2 => 8 | 3 => 8 | 4 => 4 | 5 => 6 | _ => nbits k.toNat 23 20 + 1
def cvtPlanes (k : Word) : Bool := k.getLsbD 29
/-- Bits that an element takes in element form. -/
def cvtPlace (k : Word) : Nat := if cvtFmtOf k = 5 then 8 else cvtBits k
def cvtRow (k : Word) : Nat := 2 * cvtPlace k
def cvtStride (k : Word) : Nat := if nbits k.toNat 6 0 = 0 then cvtRow k else 16 * nbits k.toNat 6 0
def cvtLen (k : Word) : Nat := if cvtPlanes k then 32 * cvtBits k else 15 * cvtStride k + cvtRow k
def cvtAlign (k : Word) : Nat := if cvtPlanes k then 32 else (cvtBits k + 7) / 8

def execCvtst (o : ShCvt) : State → Outcome State Fault Refusal :=
  issue o.use.oncely fun x t s =>
    let k := rdReg t o.b.toNat
    let a := rdReg t o.c.toNat
    if cvtFmtOf k ≥ 8 || (cvtPlanes k && (nbits k.toNat 6 0 != 0 || cvtFmtOf k = 0)) then .trap .queue 0 0
    else
      match operandAt s x t [2, 3, 4, 5] a (cvtLen k) (cvtAlign k) needW with
      | .error e => .trap e 5 a
      | .ok (p, va) =>
        takeEntry x s
          { blankCmd s x t .cvtst o.t.toNat k with
            base := p, va := va, named := a, detached := k.getLsbD 31, ta := o.tr }

/-! ### Starting (R233) -/

/-- A queued command that no earlier one of its thread or its tile stands before. -/
def startable : List MatCmd → List MatCmd → List MatCmd
  | _, [] => []
  | before, m :: ms =>
    let rest := startable (before ++ [m]) ms
    if before.any fun e => (e.slot = m.slot && e.gone = m.gone) || (matTile e).any fun t => matTile m = some t then rest
    else m :: rest

def cmdCost (k : Core) (m : MatCmd) : Nat := if m.gone then 0 else k.ecostOf m.slot

def leastCmd (k : Core) (ms : List MatCmd) : Option MatCmd :=
  ms.foldl
    (fun best m => match best with | none => some m | some b => if cmdCost k m < cmdCost k b then some m else some b) none

/-- The engine may begin a command; `engineDue` keeps it from doing so in a cycle that the power limit withholds (R369). -/
def startReady (k : Core) : Bool := k.matRun.isNone && !k.matQ.isEmpty

def execMatrixStart (core : Nat) (s : State) : Outcome State Fault Refusal :=
  .next <| modCore s core fun k =>
    if !startReady k then k
    else
      match leastCmd k (startable [] k.matQ) with
      | none => k
      | some m => matRegrant 2 { k with matRun := some m, matQ := k.matQ.filter fun e => e.id != m.id }

/-! ### Elements and contributions (R82 to R89) -/

/-- An operand element: a value, or a LOG6 code under a block scale. -/
inductive Elem where
  | num (x : Num)
  | log (l : Log6) (k : Int)
deriving DecidableEq, Repr

/-- An integer code of width `p` read at width `w` (R89). -/
def readAt (p w code : Nat) : Nat := if w ≤ p then code / 2 ^ (p - w) else code * 2 ^ (w - p)

def intElem (sgn : Bool) (p w f code : Nat) (k : Int) : Elem :=
  let c := readAt p w code
  .num ((intNum (if sgn then sextNat w c else c)).scale (k - f))

/-- An A code's value; BF16 goes through `bsiTile`. -/
def aElem (pw : Word) (p code : Nat) : Elem :=
  match pwFmt pw with
  | 0 => intElem true p (pwAw pw) (pwAf pw) code 0
  | 1 => intElem false p (pwAw pw) (pwAf pw) code 0
  | 2 => .num (Fmt.e4m3.value code)
  | 3 => .num (Fmt.e5m2.value code)
  | 4 => .num (Fmt.e2m1.value code)
  | _ => .log (log6Code code) 0

/-- The code width of a floating or LOG6 format; none for integers (R225). -/
def codeWidth (fmt : Nat) : Option Nat :=
  match fmt with
  | 2 => some 8 | 3 => some 8 | 4 => some 4 | 5 => some 6 | 6 => some 16 | _ => none

/-- A's serial width (R225). -/
def serialA (pw : Word) : Nat :=
  match pwFmt pw with
  | 2 => 4 | 3 => 3 | 4 => 2 | 5 => 2 | _ => pwAw pw

/-! #### BF16 to BSI (R86) -/

def isFiniteNum : Num → Bool
  | .fin .. => true
  | _ => false
/-- floor(log2 |x|) of a nonzero value. -/
def expOf : Num → Option Int
  | .fin _ n d => if n = 0 then none else some (floorLog2 n d)
  | _ => none

/-- The scale of a block converted at width `w`. -/
def bsiScale (w : Nat) (xs : List Num) : Nat :=
  if !xs.all isFiniteNum then 255
  else
    match xs.filterMap expOf with
    | [] => 0
    | e :: es => (es.foldl max e - ((w : Int) - 2) + 127).toNat

/-- One element's code, and whether it is exact. -/
def bsiCode (w e : Nat) (x : Num) : Int × Bool :=
  match x.scale (127 - e) with
  | .fin neg n d =>
    let c : Int := min (nearestEven n d) (2 ^ (w - 1) - 1)
    (if neg then -c else c, n = c.toNat * d)
  | _ => (0, true)

/-- A BF16 tile's elements as BSI, and whether the conversion was exact. -/
def bsiTile (w : Nat) (xs : List Num) : List Elem × Bool :=
  let e := bsiScale w xs
  if e = 255 then (xs.map fun _ => .num .nan, true)
  else
    (xs.map fun x => .num ((intNum (bsiCode w e x).1).scale ((e : Int) - 127)), xs.all fun x => (bsiCode w e x).2)

/-- The 256 elements of an A tile, by plane bit, and whether its conversion was exact. -/
def aTile (pw : Word) (p data : Nat) : List Elem × Bool :=
  let codes := (List.range 256).map (planeCode p data)
  if pwFmt pw = 6 then bsiTile (pwAw pw) (codes.map Fmt.bf16.value) else (codes.map (aElem pw p), true)

/-! #### B blocks (R229 to R231) -/

structure Block where
  off : Nat
  fmt : Nat
  p : Nat
  scale : Nat
  sparse : Bool
  data : Nat
deriving DecidableEq, Repr

def blockSize (sparse : Bool) (p : Nat) : Nat := if sparse then 64 + 32 * ((p + 1) / 2) else 32 + 32 * p

/-- d_i of a sparse block. -/
def rowOffset (data i : Nat) : Nat := nbits data (2 * i + 1) (2 * i)

/-- Reads the block at a buffer offset; none if it is invalid. -/
def readBlock (s : State) (c off : Nat) : Option Block :=
  let h := loadNat s (.wstore c off) 32
  let fmt := nbits h 3 0
  let p := nbits h 7 4 + 1
  let sparse : Bool := nbits h 16 16 = 1
  let size := blockSize sparse p
  if off + 32 > 16384 || h / 2 ^ 17 != 0 || fmt > 5 || (codeWidth fmt).any (· != p) || off + size > 16384 then none
  else
    let data := loadNat s (.wstore c (off + 32)) (size - 32)
    if sparse && (List.range 64).any fun j => rowOffset data (2 * j) ≥ rowOffset data (2 * j + 1) then none
    else some ⟨off, fmt, p, nbits h 15 8, sparse, data⟩

/-- The chain of `n` blocks: those before the first invalid one, and where that one stands. -/
def readChain (s : State) (c : Nat) : Nat → Nat → List Block × Option Nat
  | 0, _ => ([], none)
  | n + 1, off =>
    match readBlock s c off with
    | none => ([], some off)
    | some b =>
      let r := readChain s c n (off + blockSize b.sparse b.p)
      (b :: r.1, r.2)

/-- The code of a block's element at plane bit `pos`, expanded where the block is sparse. -/
def Block.code (b : Block) (pos : Nat) : Nat :=
  if !b.sparse then planeCode b.p b.data pos
  else
    let i := 32 * (pos / 64) + 2 * (pos % 16)
    match ([i, i + 1] : List Nat).find? fun j => rowOffset b.data j = pos / 16 % 4 with
    | none => 0
    | some j => (List.range b.p).foldl (fun c v => c + bitAt b.data (256 + 128 * v + j) * 2 ^ v) 0

/-- The value of a block's element, with its scale (R229, R85). -/
def Block.elem (b : Block) (pw : Word) (pos : Nat) : Elem :=
  let k : Int := (b.scale : Int) - 127
  if b.scale = 255 then .num .nan
  else
    match b.fmt with
    | 0 => intElem true b.p (pwBw pw) (pwBf pw) (b.code pos) k
    | 1 => intElem false b.p (pwBw pw) (pwBf pw) (b.code pos) k
    | 2 => .num ((Fmt.e4m3.value (b.code pos)).scale k)
    | 3 => .num ((Fmt.e5m2.value (b.code pos)).scale k)
    | 4 => .num ((Fmt.e2m1.value (b.code pos)).scale k)
    | _ => .log (log6Code (b.code pos)) k

/-- B's serial width. -/
def Block.serial (b : Block) (pw : Word) : Nat :=
  match b.fmt with
  | 2 => 4 | 3 => 3 | 4 => 2 | 5 => 2 | _ => pwBw pw

/-! #### One element's sum (R84, R88) -/

structure Sum where
  sum : Int
  pinf : Bool
  ninf : Bool
  inv : Bool
  ovf : Bool
  inx : Bool
deriving DecidableEq, Repr

def Sum.zero : Sum := ⟨0, false, false, false, false, false⟩

/-- Adds a finite product, truncated toward zero in units of 2^-40. -/
def Sum.addFin (u : Sum) (neg : Bool) (n d : Nat) : Sum :=
  let t : Int := (n * 2 ^ 40 / d : Nat)
  { u with sum := u.sum + (if neg then -t else t), inx := u.inx || n * 2 ^ 40 % d != 0 }

/-- One contribution. -/
def Sum.add (u : Sum) (a b : Elem) : Sum :=
  match a, b with
  | .log la ka, .log lb kb =>
    if la.m = 0 || lb.m = 0 then u
    else
      let e : Int := (la.m : Int) + lb.m - 32
      let f := scaleFrac (log6T (e % 4).toNat) (2 ^ 32) (e / 4 + ka + kb)
      u.addFin (la.neg != lb.neg) f.1 f.2
  | .num x, .num y =>
    match mulNum x y with
    | none => { u with inv := true }
    | some .nan => { u with inv := true }
    | some (.inf neg) => if neg then { u with ovf := true, ninf := true } else { u with ovf := true, pinf := true }
    | some (.fin neg n d) => u.addFin neg n d
  | _, _ => { u with inv := true }

/-- The element after the operation, and the status bits INV, INX, OVF that it sets. -/
def Sum.into (u : Sum) (a : BitVec 96) : BitVec 96 × BitVec 8 :=
  let both := u.pinf && u.ninf
  let v : Int :=
    if both then a.toInt + u.sum else if u.pinf then 2 ^ 95 - 1 else if u.ninf then -2 ^ 95 else a.toInt + u.sum
  let w := max (-2 ^ 95) (min v (2 ^ 95 - 1))
  (BitVec.ofInt 96 w,
    putBit (putBit (putBit 0 2 (u.inv || both)) 1 u.inx) 0 (u.ovf || w != v))

/-! ### The operation (R237) -/

/-- The A tiles, the blocks and the map of one MMA. -/
structure Mul where
  tiles : List (List Elem)
  blocks : List (List Elem)
  map : List (Nat × Nat)
  ta : Bool
  tb : Bool

def elemAt (l : List (List Elem)) (j pos : Nat) : Elem := (((l[j]?).getD [])[pos]?).getD (.num (.fin false 0 1))

def Mul.a (u : Mul) (j m r : Nat) : Elem := elemAt u.tiles j (if u.ta then 16 * r + m else 16 * m + r)
def Mul.b (u : Mul) (k n : Nat) : Elem :=
  elemAt u.blocks (k / 16) (if u.tb then 16 * n + k % 16 else 16 * (k % 16) + n)

/-- The sum of element (m, n)'s contributions. -/
def Mul.sum (u : Mul) (m n : Nat) : Sum :=
  let own := (List.range (16 * u.blocks.length)).foldl (fun w k => w.add (u.a (k / 16) m (k % 16)) (u.b k n)) Sum.zero
  u.map.foldl (fun w e => w.add (u.a u.blocks.length m e.1) (u.b e.2 n)) own

/-- Every element of the rows and columns, updated. -/
def Mul.run (u : Mul) (k : Core) (t rows cols : Nat) : Core :=
  (List.range rows).foldl
    (fun k m => (List.range cols).foldl
      (fun k n =>
        let r := (u.sum m n).into (accAt k t m n)
        setStat (setAcc k t m n r.1) t (statAt k t ||| r.2)) k) k

/-! ### Reading and writing operands (R238, R240) -/

/-- How a command fails. -/
inductive MatFail where
  | engine (reason off : Nat)
  /-- an uncorrectable error, with its engine address: 0 in the engine's own storage (R212, R215) -/
  | memerr (tval : Word) (eng : Nat)
  | page (kframe : Bool) (va : Nat) (tval : Word)
deriving DecidableEq, Repr

/-- The address that decides lines and words: virtual, or flat. -/
def MatCmd.origin (m : MatCmd) : Nat := m.va.getD (flat m.base)
def MatCmd.line (m : MatCmd) (off : Nat) : Nat := (m.origin + off) / 64
/-- The segmented address of a byte of the operand. -/
def MatCmd.addr (m : MatCmd) (off : Nat) : Word := m.named + BitVec.ofNat 32 off

/-- The engine address of a place in a core's own reach. -/
def placeEng (p : Place) : Nat :=
  match p with
  | .lstore _ a => a
  | .qstore _ a => 2 ^ 60 + a
  | .dstore _ a => 2 * 2 ^ 60 + a
  | _ => 0

/-- The engine address of a byte of the operand. -/
def MatCmd.eng (m : MatCmd) (off : Nat) : Nat :=
  match m.va with
  | some v => 3 * 2 ^ 60 + v + off
  | none => placeEng (m.base.shift off)

/-- How far the lines of an operand are mapped: all of them; until one that must wait (R194); until one without a
translation, with its K frame and virtual address. -/
inductive Mapped where
  | all (s : State) (ps : List (Nat × Place))
  | held
  | fault (s : State) (ps : List (Nat × Place)) (line : Nat) (kframe : Bool) (va : Nat)

/-- Places of the operand's 64-byte lines, each one request, in the order in which they are met (R328). -/
def mapLines (c : Nat) (m : MatCmd) (need : Need) : List Nat → State → List (Nat × Place) → Mapped
  | [], s, ps => .all s ps
  | l :: ls, s, ps =>
    match m.va with
    | none => .all s ps
    | some _ =>
      match engineXlate s c m.asn need (64 * l) true with
      | .at s' p => mapLines c m need ls s' (ps ++ [(l, p)])
      | .held => .held
      | .fault s' kf va => .fault s' ps l kf va

def MatCmd.place (m : MatCmd) (ps : List (Nat × Place)) (off : Nat) : Place :=
  match m.va with
  | none => m.base.shift off
  | some v => ((smGet ps (m.line off)).getD m.base).shift ((v + off) % 64)

/-- The first byte of the operand in a line. -/
def MatCmd.firstIn (m : MatCmd) (line : Nat) : Nat := 64 * line - m.origin

/-- The map of an MMA names the column of a plane bit of the extension tile (R232, R237). -/
def MatCmd.maps (m : MatCmd) (pos : Nat) : Bool := m.map.any fun e => e.1 = if m.ta then pos / 16 else pos % 16

/-- The command reads the word at this byte of its operand: of an extension tile only a word that holds some mapped column
(R232). -/
def MatCmd.reads (m : MatCmd) (off : Nat) : Bool :=
  m.kind != .mma || off < 32 * mmaPlanes m.ctl * mmaBlocks m.ctl || (List.range 32).any fun b => m.maps (off % 32 * 8 + b)

/-- How reading an operand ends. -/
inductive Operand where
  | val (s : State) (v : Nat)
  /-- a store that a move holds up must reach its bank first (R195, R307) -/
  | held
  | fail (s : State) (f : MatFail)

/-- Reads the operand's bytes from `off` on, 32 at a time, in order: the first failure met is the command's. -/
def readFrom (c : Nat) (m : MatCmd) : List Nat → State → List (Nat × Place) → Nat → Operand
  | [], s, _, v => .val s v
  | off :: offs, s, ps, v =>
    match if (smGet ps (m.line off)).isSome then .all s ps else mapLines c m needR [m.line off] s ps with
    | .held => .held
    | .fault s0 _ l kf va => .fail s0 (.page kf va (m.addr (m.firstIn l)))
    | .all s0 ps1 =>
      let p := m.place ps1 off
      let s1 := settleEarlier s0 c [p] (wordsOf p 32)
      if pathHeld s1 c [p] (wordsOf p 32) then .held
      else
        match ((List.range 8).map (4 * ·)).find? fun j => m.reads (off + j) && anyBad s1 (p.shift j) 4 with
        | some j => .fail (consumed s1 c) (.memerr (m.addr (off + j)) (m.eng (off + j)))
        | none => readFrom c m offs s1 ps1 (v + loadNat s1 p 32 * 2 ^ (8 * off))

def readOperand (s : State) (c : Nat) (m : MatCmd) (n : Nat) : Operand :=
  readFrom c m ((List.range (n / 32)).map (32 * ·)) s [] 0

/-- Changes the thread of a slot; of a pair both threads and the commit area, wherever they stand. -/
def bothThreads (s : State) (c i : Nat) (f : Thread → Thread) : State :=
  match threadAt s c i, pairOf s c i with
  | some t, some p =>
    if t.role = .leading then
      setPair (modThread (modThread s c i f) c (i + 7) f) c { p with lead := f p.lead, trail := f p.trail }
    else modThread s c i f
  | _, _ => modThread s c i f

/-! ### MMA (R234, R237, R238) -/

/-- The cost of an MMA over the blocks that the engine can size. -/
def mmaCost (m : MatCmd) (bs : List Block) : Nat :=
  let ca := serialA m.pw
  let own := bs.foldl (fun n b => n + (if b.sparse then 8 else 16) * ca * b.serial m.pw) 0
  let dup := m.map.foldl
    (fun n e => n + (match bs[e.2 / 16]? with | some b => ca * b.serial m.pw | none => 0)) 0
  8 + (own + dup + 15) / 16

/-- The ENGINE reason that is found before any operand is read. -/
def mmaReason (m : MatCmd) (ch : List Block × Option Nat) : Option MatFail :=
  if (codeWidth (pwFmt m.pw)).any (· != mmaPlanes m.ctl) then some (.engine 1 0)
  else if m.map.any fun e => e.2 ≥ 16 * mmaBlocks m.ctl then some (.engine 4 0)
  else
    match ch.1.find? fun b => (b.fmt = 5) != (pwFmt m.pw = 5) with
    | some b => some (.engine 3 b.off)
    | none => ch.2.map fun off => .engine 2 off

/-- The buffer bytes of the blocks hold an uncorrectable error. -/
def blocksBad (s : State) (c : Nat) (bs : List Block) : Bool :=
  bs.any fun b => anyBad s (.wstore c b.off) (blockSize b.sparse b.p)

/-- How a command runs: to its end, with its cost and its failure if it failed; or it has taken words from a stream and
needs more; or it must wait. -/
inductive Ran where
  | over (s : State) (cost : Nat) (f : Option MatFail)
  | more (s : State)
  | held

/-- The stream that a command takes its words from. -/
def streamFor (s : State) (c : Nat) (m : MatCmd) : Stream :=
  ((threadAt s c m.slot).map fun t => streamOf t (mmaSrc m.ctl - 1)).getD Stream.off

/-- The engine address of a stream's word. -/
def streamEng (s : State) (c i : Nat) (a : Word) : Nat :=
  match threadAt s c i with
  | none => 0
  | some t =>
    match resolve s c ((t.segs[selOf a]?).getD 0) (offOf a) 4 4 needR with
    | .ok (.at p) => placeEng p
    | .ok (.virt va) => 3 * 2 ^ 60 + va
    | .ok (.remote rc la) => 4 * 2 ^ 60 + rc * 2 ^ 32 + la
    | _ => 0

/-- The failure of a command whose stream has no word left to give: the error of a word that its stream stopped on, else
reason 5 (R238, R244; log entry 75). -/
def streamFail (s : State) (c : Nat) (m : MatCmd) (v : Stream) : MatFail :=
  match v.failed with
  | some (.memerr, a, _, _) => .memerr a (streamEng s c m.slot a)
  | _ => .engine 5 0

/-- A stream after the engine has taken `n` of the words that it has read ahead. -/
def Stream.give : Nat → Stream → Stream
  | 0, v => v
  | n + 1, v => Stream.give n { v.next with ahead := if v.left ≤ 1 then [] else v.ahead.drop 1 }

/-- The engine takes what its stream has read ahead (R244). -/
def takeWords (s : State) (c : Nat) (m : MatCmd) : Ran :=
  let v := if m.gone then Stream.off else streamFor s c m
  let n := min m.need v.ahead.length
  if n = 0 then
    if !v.bound || v.failed.isSome then .over s 0 (some (streamFail s c m v))
    else .held
  else
    .more (modCore (bothThreads s c m.slot fun t => setStream t (mmaSrc m.ctl - 1) (v.give n)) c fun k =>
      { k with matRun := some { m with need := m.need - n, got := m.got ++ v.ahead.take n } })

/-- The A tiles as one number, from the local store or from the words taken. Every word of an A tile is read, also one of masked
rows alone (DESIGN CHOICE, log entry 81). -/
def mmaA (s : State) (c : Nat) (m : MatCmd) : Operand :=
  if mmaSrc m.ctl = 0 then readOperand s c m (32 * mmaPlanes m.ctl * mmaTiles m.ctl m.map)
  else .val s (wordsNat m.got)

/-- The planes of A tile `j`; of the extension tile, with zeros in the columns that are not read (R232). -/
def MatCmd.tileData (m : MatCmd) (p data j : Nat) : Nat :=
  let d := data / 2 ^ (256 * p * j) % 2 ^ (256 * p)
  if j < mmaBlocks m.ctl then d
  else (List.range 256).foldl (fun d pos => if m.maps pos then d else setPlane p d pos 0) d

/-- The update of the tile by an MMA. -/
def mmaInto (s : State) (c : Nat) (m : MatCmd) (bs : List Block) (data : Nat) : State :=
  let p := mmaPlanes m.ctl
  let ts := (List.range (mmaTiles m.ctl m.map)).map fun j => aTile m.pw p (m.tileData p data j)
  let u : Mul :=
    { tiles := ts.map (·.1), blocks := bs.map fun b => (List.range 256).map (b.elem m.pw), map := m.map
      ta := m.ta, tb := m.tb }
  modCore s c fun k =>
    u.run (if ts.all (·.2) then k else setStat k m.tile (statAt k m.tile ||| 2)) m.tile (mmaRows m.ctl) (mmaCols m.ctl)

/-- The multiplication reads every byte of its A words and blocks, so that an error in masked rows or columns alone fails it too;
one that fails while a block of its chain is invalid costs what the blocks before that one do (DESIGN CHOICE, log entry
81). -/
def runMma (s : State) (c : Nat) (m : MatCmd) : Ran :=
  let ch := readChain s c (mmaBlocks m.ctl) (32 * mmaWoff m.ctl)
  let cost := mmaCost m ch.1
  match mmaReason m ch with
  | some f => .over s cost (some f)
  | none =>
    if m.need > 0 then
      match takeWords s c m with
      | .over s1 _ f => .over s1 cost f
      | r => r
    else
      match mmaA s c m with
      | .held => .held
      | .fail s1 f => .over s1 cost (some f)
      | .val s1 data =>
        if blocksBad s1 c ch.1 || (getCore s1 c).accBad.contains m.tile then
          .over (consumed s1 c) cost (some (.memerr 0 0))
        else .over (mmaInto s1 c m ch.1 data) cost none

/-! ### WLD (R234, R238, R243) -/

/-- A section's range after a failed WLD: nothing is promised of its contents. -/
def scatterFree (s : State) (p : Place) (n : Nat) : State :=
  (List.range n).foldl (fun s j => storeWord { s with free := s.free + 1 } (p.shift (4 * j)) (Config.freeWord s.free)) s

def runWld (s : State) (c : Nat) (m : MatCmd) : Ran :=
  let n := wldLen m.ctl
  let dst : Place := .wstore c (wldOfs m.tile m.ctl)
  let cost := 8 + (n + 63) / 64
  match readOperand s c m n with
  | .held => .held
  | .fail s1 f => .over (scatterFree s1 dst (n / 4)) cost (some f)
  | .val s1 v => .over (storeNat s1 dst n v) cost none

/-! ### CVTST (R79, R83, R246) -/

/-- The code of one element with its flags. -/
def cvtCode (k : Word) (sc : Int) (v : BitVec 96) : Nat × BitVec 5 :=
  let x := (intNum v.toInt).scale (sc - 40)
  let toInt (lo hi : Int) : Nat × BitVec 5 :=
    let r := convertInt (x.scale (nbits k.toNat 19 16)) lo hi
    ((r.1 % 2 ^ cvtBits k).toNat, r.2)
  match cvtFmtOf k with
  | 0 => convert x .fp32
  | 1 => convert x .bf16
  | 2 => convert x .e4m3
  | 3 => convert x .e5m2
  | 4 => convert x .e2m1
  | 5 => convert x .log6
  | 6 => toInt (-2 ^ (cvtBits k - 1)) (2 ^ (cvtBits k - 1) - 1)
  | _ => toInt 0 (2 ^ cvtBits k - 1)

def cvtScale (m : MatCmd) : Int := if m.ctl.getLsbD 7 then pwOsc m.pw else (m.ctl.extractLsb' 8 8).toInt

/-- The element stored at a row and a column. -/
def cvtAt (k : Core) (m : MatCmd) (r c : Nat) : Nat × BitVec 5 :=
  cvtCode m.ctl (cvtScale m) (if m.ta then accAt k m.tile c r else accAt k m.tile r c)

/-- The 256 codes in the order of rows and columns. -/
def cvtCodes (k : Core) (m : MatCmd) : List (Nat × BitVec 5) :=
  (List.range 256).map fun i => cvtAt k m (i / 16) (i % 16)

/-- CNV, COF, CUF and CNX of the flags raised. -/
def cvtStatus (fl : BitVec 5) : BitVec 8 :=
  putBit (putBit (putBit (putBit 0 6 (fl.getLsbD 0)) 5 (fl.getLsbD 2)) 4 (fl.getLsbD 3)) 3 (fl.getLsbD 4)

/-- The largest magnitude of a tile as an FP32 code without its sign. -/
def tileMax (k : Core) (t : Nat) : Nat :=
  (List.range 256).foldl
    (fun m i =>
      max m (convert ((Num.fin false (accAt k t (i / 16) (i % 16)).toInt.natAbs 1).scale (-40)) .fp32).1) 0

/-- A run of bytes cut at word boundaries: offset, length, value. -/
def cutWords (a : Nat) : Nat → Nat → Nat → Nat → List (Nat × Nat × Nat)
  | 0, _, _, _ => []
  | fuel + 1, off, n, v =>
    if n = 0 then []
    else
      let l := min n (4 - (a + off) % 4)
      (off, l, v % 256 ^ l) :: cutWords a fuel (off + l) (n - l) (v / 256 ^ l)

/-- The stores of a CVTST, rows ascending. -/
def cvtStores (m : MatCmd) (codes : List Nat) : List (Nat × Nat × Nat) :=
  let n := cvtBits m.ctl
  if cvtPlanes m.ctl then
    (List.range n).flatMap fun p =>
      cutWords m.origin 32 (32 * p) 32
        ((List.range 256).foldl (fun v i => v + bitAt ((codes[i]?).getD 0) p * 2 ^ i) 0)
  else
    (List.range 16).flatMap fun r =>
      cutWords m.origin (cvtRow m.ctl) (cvtStride m.ctl * r) (cvtRow m.ctl)
        (packCodes (cvtPlace m.ctl) 0 ((codes.drop (16 * r)).take 16))

def cvtLines (m : MatCmd) (ws : List (Nat × Nat × Nat)) : List Nat := (ws.map fun w => m.line w.1).eraseDups

/-- The destination words that lie where the map reaches. -/
def cvtReach (m : MatCmd) (ps : List (Nat × Place)) (ws : List (Nat × Nat × Nat)) : List (Nat × Nat × Nat) :=
  ws.takeWhile fun w => m.va.isNone || (smGet ps (m.line w.1)).isSome

/-- A store of part of a word meets an uncorrectable error there (R68). -/
def cvtBad (s : State) (m : MatCmd) (ps : List (Nat × Place)) (w : Nat × Nat × Nat) : Bool :=
  w.2.1 < 4 && anyBad s (m.place ps w.1) w.2.1

def cvtWrite (m : MatCmd) (ps : List (Nat × Place)) (s : State) (w : Nat × Nat × Nat) : State :=
  storeNat s (m.place ps w.1) w.2.1 w.2.2

/-- Destination bytes before a failure: each may have been written. -/
def cvtSome (m : MatCmd) (ps : List (Nat × Place)) (s : State) (ws : List (Nat × Nat × Nat)) : State :=
  ws.foldl
    (fun s w =>
      if Config.freeNat s.free % 2 = 0 then cvtWrite m ps { s with free := s.free + 1 } w
      else { s with free := s.free + 1 }) s

/-- A word that a CVTST writes is not free, or stands behind a store that is not at its bank yet (R179, R195, R307). -/
def cvtHeld (s : State) (c : Nat) (m : MatCmd) (ps : List (Nat × Place)) (ws : List (Nat × Nat × Nat)) : Bool :=
  (cvtReach m ps ws).any fun w =>
    !wordFree s c (m.place ps w.1) || pathHeld s c [m.place ps w.1] (wordsOf (m.place ps w.1) w.2.1)

/-- CVTST. One that fails ORs no conversion flag into the tile's status, not even those of the elements that it has stored
(DESIGN CHOICE, log entry 79). -/
def runCvtst (s : State) (c : Nat) (m : MatCmd) : Ran :=
  let k := getCore s c
  if k.accBad.contains m.tile then .over (consumed s c) 24 (some (.memerr 0 0))
  else
    let cs := cvtCodes k m
    let ws := cvtStores m (cs.map (·.1))
    match mapLines c m needW (cvtLines m ws) s [] with
    | .held => .held
    | .fault s0 ps l kf va => cvtStore s0 c m cs ws ps (some (.page kf va (m.addr (m.firstIn l))))
    | .all s0 ps => cvtStore s0 c m cs ws ps none
where
  /-- The stores, as far as the destination is mapped, and how the command ends. -/
  cvtStore (s0 : State) (c : Nat) (m : MatCmd) (cs : List (Nat × BitVec 5)) (ws : List (Nat × Nat × Nat))
      (ps : List (Nat × Place)) (fault : Option MatFail) : Ran :=
    let places := (cvtReach m ps ws).map fun w => m.place ps w.1
    let s1 := settleEarlier s0 c places (places.map wordKey)
    if cvtHeld s1 c m ps ws then .held
    else
      match (cvtReach m ps ws).find? (cvtBad s1 m ps), fault with
      | some b, _ =>
        .over (consumed (cvtSome m ps s1 (ws.takeWhile fun w => w != b)) c) 24
          (some (.memerr (m.addr b.1) (m.eng b.1)))
      | none, some f => .over (cvtSome m ps s1 (cvtReach m ps ws)) 24 (some f)
      | none, none =>
        .over
          (modCore (ws.foldl (cvtWrite m ps) s1) c fun k =>
            let k := setStat k m.tile (statAt k m.tile ||| cvtStatus (cs.foldl (fun f x => f ||| x.2) 0))
            if m.ctl.getLsbD 28 then updAmax k m.tile fun a => amaxTake a (BitVec.ofNat 32 (tileMax k m.tile)) else k)
          24 none

/-- The lines of a command's operand in memory, where they can be mapped. -/
def operandLines (s : State) (c : Nat) (m : MatCmd) : List (Nat × Place) :=
  let lines := match m.kind with
    | .wld => ((List.range (wldLen m.ctl / 32)).map fun j => m.line (32 * j)).eraseDups
    | .cvtst => cvtLines m (cvtStores m ((cvtCodes (getCore s c) m).map (·.1)))
    | .mma => []
  match mapLines c m (if m.kind = .cvtst then needW else needR) lines s [] with
  | .all _ ps => ps
  | .fault _ ps .. => ps
  | .held => []

/-- The requests for some lines are counted (R328). -/
def countLines (s : State) (c : Nat) (m : MatCmd) (lines : List Nat) : State :=
  match mapLines c m (if m.kind = .cvtst then needW else needR) lines s [] with
  | .all s1 _ => s1
  | .fault s1 .. => s1
  | .held => s

/-- A command whose operand lies in another package, and that the route there fails: it ends as at an uncorrectable error in
the first such line (R238, R333). -/
def routeEnds (s0 : State) (c : Nat) (m : MatCmd) : Option (State × Nat × MatFail) :=
  ((operandLines s0 c m).find? fun l => l.2.isPeer).map fun l =>
    let s := countLines s0 c m (((operandLines s0 c m).map (·.1)).takeWhile (· != l.1) ++ [l.1])
    let off := m.firstIn l.1
    let f := MatFail.memerr (m.addr off) (m.eng off)
    match m.kind with
    | .wld => (scatterFree s (.wstore c (wldOfs m.tile m.ctl)) (wldLen m.ctl / 4), 8 + (wldLen m.ctl + 63) / 64, f)
    | _ =>
      let ps := operandLines s c m
      let ws := cvtStores m ((cvtCodes (getCore s c) m).map (·.1))
      (cvtSome m ps s ((cvtReach m ps ws).takeWhile fun w => m.line w.1 != l.1), 24, f)

/-! ### Completion (R234, R236, R238, R239) -/

/-- STATUS of a failure in a completion notice. -/
def failStatus : MatFail → Nat
  | .page .. => 1
  | .memerr .. => 2
  | .engine .. => 3

/-- The trap of an attached command's failure; the offset of a block has 14 bits. -/
def failTrap (f : MatFail) (ret : Word) : TrapInfo :=
  match f with
  | .engine r off => ⟨.engine, 0, BitVec.ofNat 32 (r * 2 ^ 28 + off % 2 ^ 14), ret, false, 0⟩
  | .memerr v _ => ⟨.memerr, 0, v, ret, false, 0⟩
  | .page kf va v => ⟨.page, 5, v, ret, kf, va⟩

/-- The engine address of a failure; none for one that lies in no engine address space (R212, R215). -/
def failEng : MatFail → Nat
  | .page _ va _ => 3 * 2 ^ 60 + va
  | .memerr _ e => e
  | .engine .. => 0

/-- A detached command that fails: ERR, and a notice to slot 0. -/
def failDetached (s : State) (c : Nat) (m : MatCmd) (f : MatFail) : State :=
  post (modCore s c fun k => setStat k m.tile (statAt k m.tile ||| 0x80)) c m.slot c 1
    [BitVec.ofNat 32 (failStatus f * 256), 0, BitVec.ofNat 32 (failEng f), BitVec.ofNat 32 (failEng f / 2 ^ 32), 0, 0, 0]
    (some 0) none

/-- ACCZ, ACCRD and ACCWR that met the lock issue again. -/
def releaseTile (s : State) (c t : Nat) : State :=
  if tileLocked (getCore s c) t then s
  else
    (List.range 16).foldl
      (fun s i =>
        match threadAt s c i with
        | some v =>
          match v.pend, v.role with
          | some ⟨.tile n, _, _, _⟩, .alone => if n = t then modPend s c i abandon else s
          | some ⟨.tile n, _, _, _⟩, .leading => if n = t then modPend s c i abandon else s
          | _, _ => s
        | none => s) s

/-- The issuing thread goes on, or traps. -/
def matrixThread (s : State) (c : Nat) (m : MatCmd) (f : Option MatFail) : State :=
  match f with
  | some e =>
    if m.detached then failDetached s c m e
    else
      match threadAt s c m.slot with
      | some t => if m.gone then s else trapPend s c m.slot (abandon t) (failTrap e t.pc)
      | none => s
  | none => if m.detached || m.gone then s else modPend s c m.slot finish

/-- The running command, as far as it comes now. -/
def runCmd (s : State) (c : Nat) (m : MatCmd) : Ran :=
  match m.kind with
  | .wld => runWld s c m
  | .mma => runMma s c m
  | .cvtst => runCvtst s c m

/-- The running command can go on. -/
def matrixReady (s : State) (c : Nat) : Bool :=
  match (getCore s c).matRun with
  | none => false
  | some m => match runCmd s c m with | .held => false | _ => true

/-- The error ring hears of a failure on an uncorrectable error (R356). -/
def tellMatrix (s : State) (c : Nat) (m : MatCmd) (f : Option MatFail) : State :=
  match f with
  | some (.memerr _ e) => errReport s 6 (some m.slot) (some c) e m.lid
  | _ => s

/-- A command is over: charges, its thread, its tile. -/
def endCmd (s : State) (c : Nat) (m : MatCmd) (cost : Nat) (f : Option MatFail) : State :=
  let n := 4 * (getCore s c).vt * cost
  let s1 := modCore (accrue (tellMatrix s c m f) c n) c fun k => { k with matRun := none }
  let s2 := if m.gone then s1
    else bothThreads s1 c m.slot fun t => chargeThread { t with ecost := satAdd t.ecost cost } n
  releaseTile (matrixThread s2 c m f) c m.tile

def execMatrixComplete (core : Nat) (s : State) : Outcome State Fault Refusal :=
  .next <|
    match (getCore s core).matRun with
    | none => s
    | some m =>
      match runCmd s core m with
      | .held => s
      | .more s1 => s1
      | .over s1 cost f => endCmd s1 core m cost f

end Sys2Proof.Machine
end

