-- ==== Sys2Proof/Machine/System.lean ====
section
/-! DEFINITION. The instructions of page 9 but for the special registers: traps and returns, segments, shootdowns, the
jig, SWEEP, WEARRD, and slot 0's means of stopping, saving and restoring threads (R264 to R283, R292, R305 to R316). -/

namespace Sys2Proof.Machine

open Host (Outcome)

/-! ### Raising and returning (R274 to R276) -/

/-- The trap of TRAP, SYS and BRK: the immediate is the trap's value. -/
def raiseImm (cz : Cause) (o : ShImm) (ret : Word) : Res := .trapX ⟨cz, 0, o.imm.raw, ret, false, 0⟩ id

def execTrap (o : ShImm) : State → Outcome State Fault Refusal :=
  issue o.use.oncely fun x _ _ => raiseImm .trap o x.next
/-- SYS waits until every relaxed access of the thread has performed. -/
def execSys (o : ShImm) : State → Outcome State Fault Refusal :=
  issue o.use.oncely fun x _ s =>
    if !(ownRelaxed s x.core x.slot).isEmpty || !streamIdle s x.core x.slot then .wait .waitMem id
    else raiseImm .sys o x.next
def execBrk (o : ShImm) : State → Outcome State Fault Refusal :=
  issue o.use.oncely fun x _ _ => raiseImm .brk o x.ia

def execEret (o : ShZ) : State → Outcome State Fault Refusal :=
  issue o.use fun x t s =>
    if inTrap t then .jump (setThread s x.core x.slot (returnTrap t)) t.tpc else .trap .illegal 0 0

/-- The four words of a resume frame, each where a default load of it leads; the first that fails answers for all. -/
def frameWords (s : State) (c : Nat) (t : Thread) (sel off : Nat) :
    List Nat → Except (Nat × Loc) (List (Place × List Place))
  | [] => .ok []
  | k :: ks =>
    match locate s c t sel (off + 4 * k) 4 4 needR with
    | .here p _ passed => (frameWords s c t sel off ks).map ((p, passed) :: ·)
    | l => .error (k, l)

/-- The first word of a resume frame that its segment does not let the thread read. -/
def frameRefused (s : State) (c : Nat) (t : Thread) (sel off : Nat) : Option (Nat × Cause) :=
  ([0, 1, 2, 3] : List Nat).findSome? fun (k : Nat) =>
    match resolve s c ((t.segs[sel]?).getD 0) (off + 4 * k) 4 4 needR with
    | .error e => some (k, e)
    | .ok _ => none

/-- RESUME with its words: those read, or in a pair those that its queue gives (R276, R286). -/
def resumeWords (x : Ctx) (t : Thread) (a : Nat) (v : Word) (ws : List Word) (s : State) : Res :=
  takeOutside s x t [(v.toNat, 4, ws)] none fun s' vs _ =>
    .jump (modThread s' x.core x.slot (resumeWith a vs)) (wordAt vs 0)

/-- A resume frame through REMOTE: its words come one after another, as requests on channel 0 (R171). -/
def resumeRemote (x : Ctx) (t : Thread) (a : Nat) (v : Word) (p : Place) (s : State) : Res :=
  let f := newAccess s x t (.frame a) [⟨0, p, 4, 0, false, none, v, 0⟩] none v 0 none true false
  match t.role, pairOf s x.core x.slot with
  | .alone, _ => .hold (sendRemote s f) (.access f.id) .waitMem 0
  | _, none => .wait .waitMem id
  | _, some p =>
    if p.lvq.length ≥ 64 then .wait .waitMem fun s => setPair s x.core { p with full := true }
    else .hold (sendRemote s { f with via := .lead }) (.access f.id) .waitMem 0

/-- A resume frame that the thread reads itself. -/
def resumeRead (x : Ctx) (t : Thread) (a : Nat) (v : Word) (s : State) : Res :=
  let named (k : Nat) : Word := namedAddr (selOf v) (offOf v + 4 * k)
  match locate s x.core t (selOf v) (offOf v) 4 4 needR with
  | .remote p => resumeRemote x t a v p s
  | _ =>
    match frameWords s x.core t (selOf v) (offOf v) [0, 1, 2, 3] with
    | .error (k, .trap c passed) => locTrap x c 1 (named k) passed
    | .error (k, .page kf va passed) => pageTrap x 1 (named k) kf va passed
    | .error (_, .miss va) => waitMiss x t va
    | .error (k, .away owner) => migrate x t s owner 1 (named k)
    | .error (k, _) => .trap .segv 1 (named k)
    | .ok ps =>
      reaching x t s v ps fun s0 counted =>
        let places := ps.map (·.1)
        let s1 := settleEarlier s0 x.core places (places.map wordKey)
        if pathHeld s1 x.core places (places.map wordKey) then .wait .waitMem id
        else
          match (List.range 4).find? fun k => (places[k]?).any fun p => anyBad s1 p 4 with
          | some k => .trapX ⟨.memerr, 0, named k, x.ia, false, 0⟩ fun s => consumed (counted s) x.core
          | none => resumeWords x t a v (places.map (loadWord s1)) s1

/-- The words of a pair's frame come from its queue: for the trailing thread always, for the leading one in a replay. -/
def resumeLogged (s : State) (x : Ctx) (t : Thread) : Bool :=
  t.role = .trailing || (t.role = .leading && (pairOf s x.core x.slot).any replaying)

def execResume (o : ShU) : State → Outcome State Fault Refusal :=
  issue (o.use true) fun x t s =>
    let v := rdReg t o.b.toNat
    if offOf v % 16 != 0 then .trap .align 1 v
    else if !mayIssue s x none then .wait .waitMem id
    else if resumeLogged s x t then
      match frameRefused s x.core t (selOf v) (offOf v) with
      | some (k, e) => .trap e 1 (namedAddr (selOf v) (offOf v + 4 * k))
      | none => resumeWords x t o.a.toNat v [] s
    else resumeRead x t o.a.toNat v s

/-! ### Segments (R278, R279) -/

/-- On every core of the range, a SPREAD window reaches only what the envelope's does. -/
def spreadInside (d e : Desc) : Bool :=
  (List.range (spreadCount d)).all fun j =>
    match localSpan d (spreadFirst d + j), localSpan e (spreadFirst d + j) with
    | none, _ => true
    | some _, none => false
    | some (lo, hi), some (elo, ehi) => elo ≤ lo && hi ≤ ehi

/-- R279: the new descriptor stays within the envelope. -/
def withinEnvelope (d e : Desc) : Bool :=
  segType d = segType e && segTarg d = segTarg e && (segRights d &&& honoured (segType d)) &&& ~~~ segRights e = 0 &&
    match segType d with
    | 5 => true
    | 6 => nbits (segBase d) 47 16 = nbits (segBase e) 47 16 && spreadInside d e
    | 7 =>
      nbits (segBase d) 31 16 = nbits (segBase e) 31 16 && nbits (segBase e) 15 0 ≤ nbits (segBase d) 15 0 &&
        nbits (segBase d) 15 0 + segLimit d ≤ nbits (segBase e) 15 0 + segLimit e
    | _ => segBase e ≤ segBase d && segBase d + segLimit d ≤ segBase e + segLimit e

/-- A bound stream's words lie in this segment. -/
def streamUses (t : Thread) (sg : Nat) : Bool :=
  (List.range 3).any fun q => (streamOf t q).bound && selOf (streamOf t q).addr = sg

/-- The descriptor in a group of four registers. -/
def descAt (t : Thread) (b : Nat) : Desc := BitVec.ofNat 128 (wordsNat (rdRegs t b 4))

def segsetUse (o : ShSeg) : Use := { o.use with once := true }
def segsetPriv (_ : Ctx) (_ : Thread) (_ : State) : Res := .trap .priv 0 0

/-- PRIV comes before REGLIM and before SEGV (R33). KIND of the SEGV is 0 (DESIGN CHOICE, log entry 79). -/
def segsetOp (o : ShSeg) (x : Ctx) (t : Thread) (s : State) : Res :=
  let d := descAt t o.b.toNat
  let n := o.sg.toNat
  if x.slot != 0 && (n = 0 || !withinEnvelope d ((t.envs[n]?).getD 0)) then .trap .priv 0 0
  else if !segValid d then .trap .segv 0 (BitVec.ofNat 32 n)
  else if streamUses t n then .trap .queue 0 0
  else done s x { t with segs := t.segs.setIfInBounds n (segClean d) }

/-- Outside slot 0, sg0 is refused before the registers are looked at. -/
def execSegset (o : ShSeg) (s : State) : Outcome State Fault Refusal :=
  if o.sg = 0 && curSlot s != 0 then issue { segsetUse o with names := [], srcs := [] } segsetPriv s
  else issue (segsetUse o) (segsetOp o) s

/-! ### TLBINV (R261, R280) -/

def execTlbinv (o : ShAB) : State → Outcome State Fault Refusal :=
  issue (o.use [o.a.toNat, o.b.toNat] []).slot0 fun x t s =>
    let c := (rdReg t o.a.toNat).toNat
    if !s.xl.shoots.isEmpty then .wait .waitMem id
    else
      .hold (startShoot s (.tlbinv x.core x.slot) (nbits c 9 8) (nbits c 5 0) (rdReg t o.b.toNat).toNat) .tlbinv
        .waitMem 0

/-! ### RELOC and the jig (R305 to R314) -/

/-- A RELOC operand: a whole tile of a GLOBAL segment with the rights. -/
def tileOperand (s : State) (c : Nat) (t : Thread) (a : Word) (need : Need) (m : Bool) : Except Cause Nat :=
  let d := (t.segs[selOf a]?).getD 0
  if segType d != 5 || (m && !segM d) then .error .segv
  else
    match resolve s c d (offOf a) 4096 4096 need with
    | .ok (.virt va) => .ok va
    | .ok _ => .error .segv
    | .error e => .error e

/-- Translates without following a mark: leaf, rights, place. -/
def plainXlate (s : State) (quad asn va : Nat) : Xlated :=
  match tlbFind s quad asn va with
  | none => .miss va
  | some e => if leafW e.leaf then .ok (leafByte s e.leaf e.big va) va [] else .deny false va []

/-- A translation as RELOC's issue takes it: to go on, to walk, or to trap; its chase is a check, and counts nowhere
(R314, R344). -/
def relocCheck (x : Ctx) (t : Thread) (a : Word) (r : Xlated) (k : Res) : Res :=
  match r with
  | .ok .. => k
  | .tooFar _ => k
  | .miss va => if t.faultPage = some (va / 2 ^ 16) then pageTrap x 5 a false va [] else waitMiss x t va
  | .deny kf va _ => pageTrap x 5 a kf va []

def jigOf (s : State) (d : Nat) : Jig := (s.jigs[d]?).getD ⟨[], none⟩
def setJig (s : State) (d : Nat) (j : Jig) : State := { s with jigs := s.jigs.setIfInBounds d j }

/-- The request joins the queue of the die's jig. -/
def queueReloc (x : Ctx) (t : Thread) (s : State) (src dst : Nat) (free : Bool) (named : Word) (reg : Nat) : Res :=
  let d := dieOf x.core
  .hold
    (setJig { s with serial := s.serial + 1 } d
      { jigOf s d with queue := (jigOf s d).queue ++ [⟨s.serial, x.core, x.slot, t.asn, src, dst, free, named⟩] })
    (.reloc s.serial) .waitMem reg

/-- `reloc.free` names no destination. -/
def relocUse (o : ShR3) : Use :=
  if o.c = 0 then
    { o.use [o.a.toNat] with
      names := [o.b.toNat, o.a.toNat], srcs := [o.b.toNat], sync := syncIf o.sb o.b.toNat, once := true }
  else { o.use [o.a.toNat] with once := true }

def execReloc (o : ShR3) : State → Outcome State Fault Refusal :=
  issue (relocUse o) fun x t s =>
    let a := rdReg t o.b.toNat
    let b := rdReg t o.c.toNat
    let q := quadOf x.core
    match tileOperand s x.core t a needRW true with
    | .error e => .trap e 5 a
    | .ok src =>
      if o.c = 0 then
        if !quiet s x then .wait .waitMem id
        else
          relocCheck x t a (chase s q t.asn needRW 3 src []) (queueReloc x t s src 0 true a o.a.toNat)
      else
        match tileOperand s x.core t b needW false with
        | .error e => .trap e 5 b
        | .ok dst =>
          if !quiet s x then .wait .waitMem id
          else
            relocCheck x t a (chase s q t.asn needRW 3 src [])
              (relocCheck x t b (plainXlate s q t.asn dst) (queueReloc x t s src dst false a o.a.toNat))

/-- The requester receives its status. -/
def answerReloc (s : State) (r : JigReq) (status : Word) : State :=
  modPend s r.core r.slot fun t =>
    match t.pend with
    | some ⟨.reloc id, _, reg, _⟩ => if id = r.id then finish (wrReg t reg status) else t
    | _ => t

/-- The page's leaf with the MARKED bit of a tile set or cleared (R308, R312). -/
def markLeaf (s : State) (asn va : Nat) (b : Bool) : State :=
  match (walk s asn va).1 with
  | some (pa, e, _) => storeNat (takeBack s (physPlace pa) 8) (physPlace pa) 8 (putBit e (48 + va / 4096 % 16) b).toNat
  | none => s

/-- The tile at a virtual address is MARKED, or its port's record is pending. -/
def markedAt (s : State) (quad asn va : Nat) : Bool :=
  match tlbFind s quad asn va with
  | none => false
  | some e => (!e.big && leafMarked e.leaf (va / 4096)) || tilePending s (leafByte s e.leaf e.big va)

/-- A destination that a move cannot take (R314). -/
def badTarget (s : State) (e : TlbEnt) (va : Nat) (src : Place) : Bool :=
  let p := leafByte s e.leaf e.big va
  (!e.big && leafMarked e.leaf (va / 4096)) || tilePending s p || tileMoving s p || kernelFrame s e.leaf e.big va ||
    !leafW e.leaf || sameTile p src ||
    !(leafPlace e.leaf = 0 || (leafPlace e.leaf = 1 && leafFrame e.leaf != 0xFFFFFFFF))

/-- How the jig answers a request: a status at once, a mark to free, or a move. -/
inductive JigAct where
  | answer (status : Nat)
  | clear
  | move (m : JigMove)
deriving DecidableEq, Repr

/-- The steps of R314: the source as it was found in `s0`, before the walk of the destination, the rest on the state as it
is. -/
def jigAct (s0 s : State) (r : JigReq) : JigAct :=
  let q := quadOf r.core
  let src := chase s0 q r.asn needRW 3 r.src []
  let destGone := !r.free && match plainXlate s q r.asn r.dst with | .ok .. => false | _ => true
  match src with
  | .miss _ => .answer 5
  | .deny .. => .answer 5
  | .tooFar _ => if destGone then .answer 5 else .answer 3
  | .ok p va passed =>
    if destGone then .answer 5
    else if r.free then (if markedAt s0 q r.asn r.src then .clear else .answer 1)
    else
      match tlbFind s0 q r.asn va, tlbFind s q r.asn r.dst with
      | some e, some d =>
        if e.big || !leafM e.leaf then .answer 1
        else if badTarget s d r.dst p then .answer 2
        else if passed.length + 1 > 3 then .answer 3
        else if tileMoving s p then .answer 4
        else .move ⟨r, va, r.dst, p, leafByte s d.leaf d.big r.dst, passed.length + 1, false⟩
      | _, _ => .answer 5

/-- The jig takes its next request; freeing a mark needs a shootdown of its own. -/
def jigStartReady (s : State) (d : Nat) : Bool :=
  match jigOf s d with
  | ⟨r :: _, none⟩ => !r.free || s.xl.shoots.isEmpty
  | _ => false

def execJigStart (die : Nat) (s : State) : Outcome State Fault Refusal :=
  .next <|
    match (jigOf s die).queue with
    | [] => s
    | r :: rest =>
      if !jigStartReady s die then s
      else
        let s1 := setJig s die ⟨rest, none⟩
        let s2 := walkAll r.core r.asn needRW 5 s1 r.src
        let s3 := if r.free then s2 else walkNow s2 r.core r.asn r.dst
        match jigAct s2 s3 r with
        | .answer n => answerReloc s3 r (BitVec.ofNat 32 n)
        | .move m => setJig s3 die ⟨rest, some m⟩
        | .clear =>
          setJig (startShoot (markLeaf s3 r.asn r.src false) (.jigFree die) 0 r.asn (r.src / 2 ^ 16)) die
            ⟨rest, some ⟨r, r.src, r.src, .host 0, .host 0, 0, true⟩⟩

/-- Somebody holds a word of a tile, or stands in its queue: the jig, which takes each word's reservation in turn, waits
behind them (R179, R307). -/
def tileHeld (s : State) (p : Place) : Bool :=
  (s.resvs.any fun r => r.word / 1024 = wordKey p / 1024) ||
    s.flight.any fun f => f.stage = .queued && (accWords f).any fun w => w / 1024 = wordKey p / 1024

/-- The move can commit: the jig has had every word of both tiles. A shootdown that is running may wait for a store that this
move holds up (R261, R307). -/
def jigCommitReady (s : State) (d : Nat) : Bool :=
  match (jigOf s d).move with
  | some m => !m.req.free && !m.committed && !tileHeld s m.oldAt && !tileHeld s m.newAt
  | none => false

/-- The page rights that an access needs (R262). -/
def needOf (k : AccKind) : Need :=
  match k with
  | .load | .lde | .frame _ | .tagrd => needR
  | .store | .stf | .ste => needW
  | .qadd | .rls => ⟨false, true, true, false⟩
  | _ => ⟨true, true, true, false⟩

/-- KIND of an access that chases a mark in flight (R379); SWEEP's words issue again instead. -/
def kindOf (k : AccKind) : Nat :=
  match k with
  | .load | .frame _ => 1
  | .store => 2
  | .amo _ | .cas | .rsv | .rls | .qadd => 3
  | .swap => 5
  | _ => 4

/-- A word that is answered with the mark is translated again from where its chase ended (R308, R309). -/
def rechase (a : Access) (s : State) (p : Part) : State × Except Late Part :=
  match p.va with
  | none => (s, .ok p)
  | some v =>
    let stop (c : Cause) (kf : Bool) (va : Nat) : Except Late Part := .error ⟨c, kindOf a.kind, p.named, kf, va⟩
    let s1 := walkAll a.core a.asn (needOf a.kind) 5 s v
    match chase s1 (quadOf a.core) a.asn (needOf a.kind) (3 - p.hops) v [] with
    | .ok q u passed =>
      (countMarks s1 a.core passed, .ok { p with place := q, va := some u, hops := p.hops + passed.length })
    | .miss u => (s1, stop .page false u)
    | .deny kf u passed => (countMarks s1 a.core passed, stop .page kf u)
    | .tooFar passed => (countMarks s1 a.core passed, stop .chase false 0)

/-- The words of an access in the old tile, one after another; the first that cannot go on answers for all. -/
def rechaseAll (m : JigMove) (a : Access) : List Part → State → State × Except Late (List Part)
  | [], s => (s, .ok [])
  | p :: ps, s =>
    let r := if sameTile m.oldAt p.place then rechase a s p else (s, .ok p)
    match r.2 with
    | .error l => (r.1, .error l)
    | .ok q =>
      match rechaseAll m a ps r.1 with
      | (s1, .ok qs) => (s1, .ok (q :: qs))
      | (s1, .error l) => (s1, .error l)

/-- A relaxed access cannot go on: its thread traps at its next issue, a load stream stops on its word, an engine's write
ends its operation (log entry 76). -/
def failMoved (s : State) (a : Access) (l : Late) : State :=
  let s1 := dropFlight s a.id
  match a.via with
  | .copy op =>
    match findCopy s1 a.core op with
    | some o => setCopy s1 a.core { o with ended := some (1, engPlus o.dst 0), told := true }
    | none => s1
  | .queue q =>
    if q = 2 then modThread s1 a.core a.slot fun t => { t with late := some l }
    else stopStream s1 a.core a.slot q (l.cause, l.tval, l.kframe, l.va)
  | _ => modThread s1 a.core a.slot fun t => { t with late := some l }

/-- Accesses that had not been served are answered with the mark: a default one and a word of SWEEP issue again, one from
outside the package goes to the new copy, the others chase the mark (R308; log entry 76). -/
def redirect (m : JigMove) (s : State) (a : Access) : State :=
  if a.foreign then setFlight s { a with parts := a.parts.map fun p => { p with place := remap m p.place } }
  else if !(a.parts.any fun p => sameTile m.oldAt p.place && p.va.isSome) then s
  else if a.group.isNone && a.via = .plain then modPend (dropFlight s a.id) a.core a.slot abandon
  else if a.via = .sweep then dropFlight s a.id
  else
    match rechaseAll m a a.parts s with
    | (s1, .ok ps) =>
      setFlight s1 { a with
        parts := ps
        vas := a.vas ++ (a.parts.filter fun p => sameTile m.oldAt p.place).flatMap fun p =>
          p.va.toList.flatMap (chaseVas s1 (quadOf a.core) a.asn 3) }
    | (s1, .error l) => failMoved s1 a l

/-- The stores that a pair has not released follow the tile, and its new address with them (R261; log entry 76). -/
def redirectCore (m : JigMove) (k : Core) : Core :=
  { k with pairs := k.pairs.map fun p => { p with cmp := p.cmp.map fun e =>
      { e with
        parts := e.parts.map fun q => { q with place := if q.va.isSome then remap m q.place else q.place }
        vas := e.vas ++ (e.parts.filter fun q => sameTile m.oldAt q.place).filterMap fun q =>
          q.va.map fun v => m.newVa / 4096 * 4096 + v % 4096 } } }

/-- The 64 pieces of a tile are counted (R329). -/
def countJig (s : State) (d : Nat) : Nat → State
  | 0 => s
  | n + 1 => countJig (countReq s d 6) d n

/-- The new copy, with the words that hold uncorrectable errors. -/
def copyTile (s : State) (m : JigMove) : State :=
  let s1 := storeNat (takeBack (takeBack s m.oldAt 4096) m.newAt 4096) m.newAt 4096 (loadNat s m.oldAt 4096)
  let old := s.bads.filter fun w => w / 1024 = wordKey m.oldAt / 1024
  { s1 with bads := old.foldl (fun b w => setAdd b (wordKey m.newAt + w % 1024)) s1.bads }

def markWord (m : JigMove) : Nat := m.newVa / 4096 * 4096 + m.hops * 4 + 1

def execJigCommit (die : Nat) (s : State) : Outcome State Fault Refusal :=
  .next <|
    match (jigOf s die).move with
    | none => s
    | some m =>
      if !jigCommitReady s die then s
      else
        let s1 := countJig (copyTile s m) die 64
        let s2 := markLeaf (storeNat s1 m.oldAt 8 (markWord m)) m.req.asn m.oldVa true
        let s3 := setJig s2 die { jigOf s2 die with move := some { m with committed := true } }
        let s4 := s3.flight.foldl (redirect m) s3
        startShoot { s4 with cores := s4.cores.map fun e => (e.1, redirectCore m e.2) } (.jigMove die) 0 m.req.asn
          (m.oldVa / 2 ^ 16)

/-! ### SWEEP (R310, R315) -/

/-- What SWEEP finds in a value: nothing to do, a new value, or a stale one that stays. -/
inductive Stale where
  | fresh
  | new (v : Nat)
  | stuck
deriving DecidableEq, Repr

/-- Where a chase ends, whatever it finds there. -/
def chaseEnd (r : Xlated) : Option Nat :=
  match r with
  | .ok _ va _ => some va
  | .miss va => some va
  | .deny _ va _ => some va
  | .tooFar _ => none

/-- A virtual address and the distance to its tile's present place. -/
def staleVa (s : State) (c asn va : Nat) : State × Option (Option Int) :=
  let s1 := walkAll c asn needR 5 s va
  if markedAt s1 (quadOf c) asn va then
    (s1, some ((chaseEnd (chase s1 (quadOf c) asn needR 3 va [])).map fun v => (v : Int) - va))
  else (s1, none)

/-- A 32-bit segmented address. -/
def stale32 (s : State) (c : Nat) (t : Thread) (v : Word) : State × Stale :=
  let d := (t.segs[selOf v]?).getD 0
  if segType d != 5 || !segM d || offOf v > segLimit d then (s, .fresh)
  else
    match staleVa s c t.asn (segBase d + offOf v) with
    | (s1, none) => (s1, .fresh)
    | (s1, some none) => (s1, .stuck)
    | (s1, some (some delta)) =>
      let o : Int := offOf v + delta
      (s1, if 0 ≤ o && o ≤ segLimit d then .new (selOf v * 2 ^ 29 + o.toNat) else .stuck)

/-- A 64-bit engine address in space 3. -/
def stale64 (s : State) (c : Nat) (t : Thread) (v : Nat) : State × Stale :=
  if v / 2 ^ 48 != 3 * 2 ^ 12 then (s, .fresh)
  else
    match staleVa s c t.asn (v % 2 ^ 48) with
    | (s1, none) => (s1, .fresh)
    | (s1, some none) => (s1, .stuck)
    | (s1, some (some delta)) => (s1, .new (3 * 2 ^ 60 + ((v % 2 ^ 48 : Nat) + delta).toNat))

/-- The count register: words rewritten, and stale words left. -/
def sweepCount (n left : Nat) : Word := BitVec.ofNat 32 (left % 2 ^ 16 * 2 ^ 16 + n % 2 ^ 16)

/-- Registers, one after another; empty ones are skipped. -/
def sweepRegs (c i : Nat) (t0 : Thread) : List Nat → State → Nat → Nat → State × Word
  | [], s, n, l => (s, sweepCount n l)
  | r :: rs, s, n, l =>
    if !isFull t0 r then sweepRegs c i t0 rs s n l
    else
      match stale32 s c t0 (rdReg t0 r) with
      | (s1, .fresh) => sweepRegs c i t0 rs s1 n l
      | (s1, .stuck) => sweepRegs c i t0 rs s1 n (l + 1)
      | (s1, .new v) => sweepRegs c i t0 rs (modThread s1 c i fun t => wrReg t r (BitVec.ofNat 32 v)) (n + 1) l

/-- Bytes of one word of a memory sweep. -/
def sweepSize (ctl : Word) : Nat := 4 * nbits ctl.toNat 31 30

/-- The sweep's access under way. -/
def sweepFlight (s : State) (c i : Nat) : Option Access := s.flight.find? fun f => f.core = c && f.slot = i && f.via = .sweep

/-- The parts of one word of the sweep: a word or two, with what a compare expects there. -/
def sweepParts (size : Nat) (p : Place) (va : Option Nat) (hops : Nat) (named : Word) : List Part :=
  (List.range (size / 4)).map fun j =>
    ⟨0, p.shift (4 * j), 4, 0, false, va.map (· + 4 * j), named + BitVec.ofNat 32 (4 * j), hops⟩

/-- Sends an access of the sweep to its bank, or to the other core's; to another package on its device link (R333). -/
def sweepOut (s : State) (a : Access) : State :=
  let s1 := addFlight s a
  if a.remote then (if sendFree s a then sendRequest s1 a else s1)
  else if heldUpByMove s1 a || !pathFree s1 a || peerAccess a then s1
  else attempt s1 a

/-- The sweep goes on with its next word in the next cycle of its core, so that a stop can come between two words (R315);
after the last word the counts are written. -/
def sweepNext (s : State) (c i : Nat) (t : Thread) (ctl : Word) (what : Waiting) (k rewritten left : Nat) : State :=
  if k < nbits ctl.toNat 15 0 then
    modPend s c i fun t =>
      { t with pend := t.pend.map fun p => { p with what := what }, readyAt := (getCore s c).cycle + 1 }
  else modPend s c i fun u => finish (wrReg u ((t.pend.map (·.reg)).getD 0) (sweepCount rewritten left))

/-- Reads one word of the sweep, as a default load; none while it must wait. -/
def sweepStart (s : State) (c i : Nat) (t : Thread) (base ctl : Word) (k : Nat) : Option State :=
  let size := sweepSize ctl
  let off : Int := offOf base + size * k
  let named := namedAddr (selOf base) off
  let x : Ctx := ⟨c, i, t.pc, (t.pend.map (·.next)).getD 0⟩
  let stop (s : State) (cz : Cause) (kf : Bool) (va : Nat) : Option State :=
    some (trapPend s c i (abandon t) ⟨cz, 5, named, t.pc, kf, va⟩)
  let a (p : Place) (va : Option Nat) (passed : List Place) (remote : Bool) : Access :=
    { newAccess s x t .load (sweepParts size p va passed.length named) none named 0 none remote false with
      via := .sweep, vas := throughVas s c t.asn (globalVa t (selOf base) off) passed }
  let out (s : State) (b : Access) : State := sweepOut (modThread s c i fun t => { t with missAt := none }) b
  match locate s c t (selOf base) off size size needRW with
  | .trap cz passed => stop (countMarks s c passed) cz false 0
  | .page kf va passed => stop (countMarks s c passed) .page kf va
  | .miss va =>
    if (s.xl.misses.any fun m => m.waiters.contains (c, i)) ||
        ((t.missAt.any fun m => m.1 = va / 2 ^ 16) && (tlbFind s (quadOf c) t.asn va).isSome) then none
    else some (openMiss (modThread s c i fun t => { t with faultPage := none }) c i t.asn va)
  | .away owner =>
    match migrate x t s owner 5 named with
    | .trap cz _ _ => stop s cz false 0
    | .hold s1 w st _ =>
      some (modThread s1 c i fun t => { t with pend := t.pend.map fun p => { p with what := w }, status := st })
    | _ => none
  | .remote p => some (out s (a p none [] true))
  | .here p va passed =>
    let s1 := settleEarlier (countMarks s c passed) c [p] (wordsOf p size)
    if pathHeld s1 c [p] (wordsOf p size) then none else some (out s1 (a p va passed false))

/-- What SWEEP does with the answer to an access of its own: a stale value is replaced by an atomic compare at its bank, and
a newer store wins. -/
def sweepReply (s : State) (c i : Nat) (t : Thread) (base ctl : Word) (k rewritten left : Nat) (a : Access) : State :=
  let s0 := dropFlight s a.id
  let next (s : State) (r l : Nat) : State := sweepNext s c i t ctl (.sweep base ctl (k + 1) r l) (k + 1) r l
  match a.kind with
  | .load =>
    match if sweepSize ctl = 4 then stale32 s0 c t (wordAt a.result 0) else stale64 s0 c t (wordsNat a.result) with
    | (s1, .fresh) => next s1 rewritten left
    | (s1, .stuck) => next s1 rewritten (left + 1)
    | (s1, .new v) =>
      sweepOut s1 { a with
        id := s1.serial, kind := .swap, stage := .going, passed := []
        parts := (a.parts.zip a.result).map fun e => { e.1 with data := e.2 }
        result := [BitVec.ofNat 32 v, BitVec.ofNat 32 (v / 2 ^ 32)] }
  | _ => next s0 (if a.okay then rewritten + 1 else rewritten) left

/-- The next thing that a memory sweep does; none while it must wait. -/
def sweepGo (s : State) (c i : Nat) : Option State :=
  match threadAt s c i with
  | none => none
  | some t =>
    match t.pend, sweepFlight s c i with
    | some ⟨.sweep base ctl k r l, _, _, _⟩, some a =>
      if a.stage = .replied && replyFree s a then some (sweepReply s c i t base ctl k r l a) else none
    | some ⟨.sweep base ctl k _ _, _, _, _⟩, none =>
      if t.readyAt ≤ (getCore s c).cycle && t.role != .trailing then sweepStart s c i t base ctl k else none
    | _, _ => none

def sweepReady (s : State) (c i : Nat) : Bool := (sweepGo s c i).isSome

/-- An outstanding access performs, or one word of a copy, or a word of a sweep. -/
def execMemoryAccessPerform (which : AccessRef) (s : State) : Outcome State Fault Refusal :=
  .next <|
    match which with
    | .thread id scope => performThread s id scope
    | .copy core op word => performCopy s core op word
    | .sweep core slot => (sweepGo s core slot).getD s

/-- SWEEP writes this register: it is full and its value is stale. -/
def sweepWrites (s : State) (c : Nat) (t : Thread) (r : Nat) : Bool :=
  isFull t r && match (stale32 s c t (rdReg t r)).2 with | .new _ => true | _ => false

/-- In register mode gB names the first register and is not waited for; of streams bound to its registers only those of the
registers that it writes count (R189, R315). -/
def sweepOp (o : ShSw) (x : Ctx) (t : Thread) (s : State) : Res :=
  let c := (rdReg t o.c.toNat).toNat
  let n := nbits c 15 0
  match nbits c 31 30 with
  | 0 =>
    if n != 0 && o.b.toNat + n > t.lim then .trap .reglim 0 0
    else if n = 0 then .trap .queue 0 0
    else
      let rs := (List.range n).map (o.b.toNat + ·)
      moreDsts x t s (rs.filter (sweepWrites s x.core t))
        (let r := sweepRegs x.core x.slot t rs s 0 0
         .ok (modThread r.1 x.core x.slot fun t => wrReg t o.a.toNat r.2))
  | 3 => .trap .queue 0 0
  | _ =>
    if n = 0 then .trap .queue 0 0
    else if !wasFull (o.use [o.c.toNat] [o.a.toNat]) t o.b.toNat || !mayIssue s x none then .wait .waitMem id
    else .hold s (.sweep (rdReg t o.b.toNat) (rdReg t o.c.toNat) 0 0 0) .waitMem o.a.toNat

def execSweep (o : ShSw) : State → Outcome State Fault Refusal :=
  issue { o.use [o.c.toNat] [o.a.toNat] with names := [o.a.toNat, o.b.toNat, o.c.toNat], once := true } (sweepOp o)

/-! ### WEARRD (R297 to R299, R316) -/

def Health.code : Health → Nat
  | .healthy => 0 | .derated => 1 | .drained => 2 | .retired => 3 | .spare => 4

/-- Words 0 to 6 of a core entry. -/
def entryWords (e : CoreEntry) : List Word :=
  [e.hours, e.bti ++ e.btil, e.em ++ e.tmax ++ e.tavg, e.wu,
    BitVec.ofNat 32 (e.state.code * 2 ^ 29) ||| (e.cls.setWidth 32 <<< 24) ||| (e.cause.setWidth 32 <<< 16) |||
      e.lcore.setWidth 32,
    e.corr, e.uncorr]
def sumWords (d : DieSum) : List Word :=
  [d.retq.setWidth 32 <<< 8 ||| d.spares.setWidth 32, BitVec.ofNat 32 d.replace.toNat, 0, 0, 0, 0, 0]

/-- A word of a record of seven words and their check. -/
def lifeWord (ws : List Word) (n : Nat) : Word := if n = 7 then Config.crc ws else wordAt ws n

/-- A physical core's entry as it was last written; a core never written is as made (log entry 7). -/
def recordEntry (s : State) (pc : Nat) : CoreEntry := (smGet s.life.record pc).getD (freshLive pc).entry

/-- The live words. -/
def liveWord (s : State) (c : Nat) (n : Nat) : Word :=
  let l := liveOf s (physCore s c)
  match n with
  | 0 => l.entry.bti.setWidth 32
  | 1 => l.entry.em.setWidth 32
  | 2 => BitVec.ofNat 32 l.temp
  | 3 => BitVec.ofNat 32 (getCore s c).vt
  | 4 => BitVec.ofNat 32 l.entry.state.code
  | _ => 0

/-- The word that a selector names; none for what does not exist or is not present. -/
def wearWord (s : State) (v : Word) : Option Word :=
  let c := nbits v.toNat 15 0
  let n := nbits v.toNat 18 16
  match nbits v.toNat 20 19 with
  | 0 => if presentCore s c then some (lifeWord (entryWords (recordEntry s (physCore s c))) n) else none
  | 1 => if c < 66560 && s.cc.dies.getLsbD (c / 16640) then some (lifeWord (entryWords (recordEntry s c)) n) else none
  | 2 => if presentCore s c then some (liveWord s c n) else none
  | _ =>
    if s.cc.dies.getLsbD (c % 4) then
      some (lifeWord (sumWords ((s.life.recordSums[c % 4]?).getD ⟨0, 64, false⟩)) n)
    else none

def execWearrd (o : ShU) : State → Outcome State Fault Refusal :=
  issue (o.use true) fun x t s =>
    let v := rdReg t o.b.toNat
    let w := wearWord s v
    takeOutside s x t [(2 ^ 42 + v.toNat, 4, [w.getD 0xFFFFFFFF, BitVec.ofNat 32 w.isSome.toNat])] none fun s' vs _ =>
      .ok (modThread s' x.core x.slot fun t => setFlag (wrReg t o.a.toNat (wordAt vs 0)) 1 (wordAt vs 1 != 0))

/-! ### PARK (R281) -/

/-- The slot whose thread stands for a slot: a pair by its leading one (R292). -/
def leadSlot (s : State) (c i : Nat) : Nat := match pairOf s c i with | some p => p.s | none => i

/-- A change to a thread, and to its partner if it is a pair's. -/
def onPair (s : State) (c i : Nat) (f : Thread → Thread) : State :=
  match pairOf s c i with
  | some p => modThread (modThread s c p.s f) c (p.s + 7) f
  | none => modThread s c i f

def withdrawNotice (s : State) (c i : Nat) : State := setSlot s c i { getSlot s c i with notice := none }

/-- A released thread is READY and issues from fetch (log entry 16). -/
def releaseThread (t : Thread) : Thread := { t with stopped := false, faultPage := none, byError := false }

/-- ENDED, or KILLED for a thread that MEMERR stopped (R294, R380). -/
def endedBits (t : Thread) : BitVec 4 := if t.byError then errKilled else errEnded

/-- The end of a stopped thread, or pair; one that MEMERR stopped is reported (R294, R356). -/
def parkEnd (s : State) (c i : Nat) (t : Thread) (code : Nat) : State :=
  let s0 := withdrawNotice s c i
  let s1 := if t.byError then errReport s0 4 (some i) (some c) 0 t.lid else s0
  match pairOf s c i with
  | some p => endPair s1 c p t code (endedBits t)
  | none => endThread s1 c i t code (endedBits t)

/-- PARK. OP 3 does nothing to any slot: it gives 0xFFFFFFFF also where the slot holds no thread (DESIGN CHOICE, log entry
77). A thread under a debug hold stands stopped already (log entry 77). -/
def execPark (o : ShU) : State → Outcome State Fault Refusal :=
  issue (o.use true).slot0 fun x t s =>
    let v := (rdReg t o.b.toNat).toNat
    let status (s : State) (n : Word) : Res := .ok (modThread s x.core x.slot fun t => wrReg t o.a.toNat n)
    let i := leadSlot s x.core (nbits v 3 0)
    let op := nbits v 9 8
    if nbits v 3 0 = 0 || op = 3 then status s 0xFFFFFFFF
    else
      match threadAt s x.core i with
      | none => status s 1
      | some u =>
        match op with
        | 0 =>
          if u.stopped then status s 0
          else if u.hold then status (onPair s x.core i fun u => { u with stopped := true }) 0
          else .hold (modThread s x.core i fun u => { u with stopReq := true }) (.stopping i) .waitMem o.a.toNat
        | 1 =>
          if u.stopped then status (onPair (withdrawNotice s x.core i) x.core i releaseThread) 0 else status s 2
        | _ =>
          if !u.stopped then status s 2
          else if !(ownRelaxed s x.core i).isEmpty || !streamIdle s x.core i then .wait .waitMem id
          else status (parkEnd s x.core i u (nbits v 23 16)) 0

/-! ### Context frames (R268 to R270, R282, R283, R292) -/

/-- A frame's range: LOCAL, QUAD, DIE or GLOBAL, 64-byte aligned. -/
def frameOp (x : Ctx) (t : Thread) (s : State) (a : Word) (n : Nat) (need : Need) (k : State → List Place → Res) : Res :=
  if !([2, 3, 4, 5] : List Nat).contains (segType ((t.segs[selOf a]?).getD 0)) then .trap .segv 5 a
  else rangeOp x t s (selOf a) (offOf a) n 64 need 5 k

def descWords (v : Vector (BitVec 128) 8) : List Word := v.toList.flatMap fun d => toWords d.toNat 4

/-- The 16-byte record of a queue. -/
def streamRecord (t : Thread) (q : Nat) : List Word :=
  let v := streamOf t q
  let tail := BitVec.ofNat 32 (v.bound.toNat * 128 + v.reg)
  if !v.bound then [0, 0, 0, 0]
  else if q = 3 then [0, BitVec.ofNat 32 v.hand.length, 0, tail]
  else [v.addr, BitVec.ofNat 32 v.left, v.stride, tail]

/-- The frame of R268. -/
def frameOf (t : Thread) : List Word :=
  [t.pc, t.f,
    BitVec.ofNat 32 (t.lim + t.convoy.toNat * 2 ^ 8 + t.triggered.toNat * 2 ^ 9 + t.wake.toNat * 2 ^ 10 +
      t.fpst.toNat * 2 ^ 11 + t.asn * 2 ^ 16),
    t.wlim, t.tvec, t.upc, t.tcause, t.tpc, t.tval, t.qbase, t.qstride, t.ecost, t.wear, t.rank, t.npop, t.lid] ++
  toWords (t.full.toNat % 2 ^ t.lim) 4 ++ toWords t.m.toNat 8 ++ toWords t.md.toNat 8 ++ descWords t.segs ++
  descWords t.envs ++ (List.range 4).flatMap (streamRecord t) ++ [t.timeLatch] ++
  (if !(streamOf t 3).bound || (streamOf t 3).hand.isEmpty then List.replicate 8 0
   else (List.range 8).map fun i => wordAt (streamOf t 3).handAll i) ++
  [0, 0, 0] ++ rdRegs t 0 t.lim

/-- Everything of a thread that must end before it is saved. -/
def mayEvict (s : State) (c i : Nat) : Bool :=
  allPerformed s c i 4 && !ownCopies s c i && !ownMatrix s c i

/-- A member of a launch is evicted, or is back on a core. -/
def moveMember (s : State) (t : Thread) (core : Option Nat) : State :=
  if t.lid = 0 || t.convoy then s
  else
    modLaunch s t.lid fun l =>
      { l with members := l.members.map fun m =>
          if m.rank = t.rank.toNat then { m with evicted := core.isNone, core := core.getD m.core } else m }

/-- Steps 2 and 3 of R269: the reservation, the watches, WAKE, the joint-table entry, the message in hand. A message in hand of a
q3 that is no longer bound is consumed, and the frame of the unbound queue holds none of it (DESIGN CHOICE, log entry
81). -/
def evict (s : State) (c i : Nat) : State :=
  let s1 := forceRelease s c i
  let s2 := modThread s1 c i fun t => { t with watches := [], wake := true }
  let s3 := modCore s2 c fun k => consumeHand { k with joint := k.joint.filter fun j => j.holder != .slot i } i
  s3

/-- The slots of an evicted thread are VACANT. -/
def leaveSlots (s : State) (c i : Nat) : State :=
  match pairOf s c i with
  | some p => dropPair (moveOut (moveOut s c p.s) c (p.s + 7)) c p.s
  | none => moveOut s c i

def execCtxsv (o : ShU) : State → Outcome State Fault Refusal :=
  issue { (o.use true) with
      srcs := o.a.toNat :: (o.use true).srcs, names := o.a.toNat :: (o.use true).names, priv := true } fun x t s =>
    let status (s : State) (n : Word) : Res := .ok (modThread s x.core x.slot fun t => wrReg t o.a.toNat n)
    let i := leadSlot s x.core (nbits (rdReg t o.a.toNat).toNat 3 0)
    match threadAt s x.core i with
    | none => status s 1
    | some u =>
      if i = 0 || !u.stopped || u.hold then status s 1
      else
        frameOp x t s (rdReg t o.b.toNat) (512 + 4 * u.lim) needW fun s ps =>
          if !mayEvict s x.core i || rangeHeld s x.core x.slot ps then .wait .waitMem id
          else
            let s1 := evict s x.core i
            let u1 := (threadAt s1 x.core i).getD u
            status (moveMember (leaveSlots (writeRange s1 ps (frameOf u1)) x.core i) u1 none) 0

/-! #### CTXLD -/

def frameBits (ws : List Word) (off n : Nat) : Nat := fieldAt ws off n
def frameLim (ws : List Word) : Nat := frameBits ws 8 1

/-- The queue that a frame's record describes. -/
def frameStream (ws : List Word) (q : Nat) : Stream :=
  let at_ := 0x190 / 4 + 4 * q
  let tail := (wordAt ws (at_ + 3)).toNat
  let n := (wordAt ws (at_ + 1)).toNat
  let all := (List.range 8).map fun i => wordAt ws (0x1D4 / 4 + i)
  if q = 3 then
    { Stream.off with
      bound := nbits tail 7 7 = 1, reg := nbits tail 6 0, hand := all.drop (8 - n), handAll := if n = 0 then [] else all }
  else if nbits tail 7 7 = 1 then
    { Stream.off with bound := true, reg := nbits tail 6 0, addr := wordAt ws at_, left := n, stride := wordAt ws (at_ + 2) }
  else Stream.off

/-- The stream records keep R188, and the message in hand has at most seven words left. -/
def frameStreamsOk (ws : List Word) : Bool :=
  let vs := (List.range 4).map (frameStream ws)
  let regs := (vs.filter (·.bound)).map (·.reg)
  (vs.all fun v => !v.bound || (1 ≤ v.reg && v.reg < frameLim ws)) && regs.eraseDups.length = regs.length &&
    (vs.take 3).all (fun v => !v.bound ||
      (v.addr.toNat % 4 = 0 && 1 ≤ v.left && v.left ≤ 2 ^ 24 && v.stride.toNat % 4 = 0)) &&
    (wordAt ws (0x1C4 / 4)).toNat ≤ 7

def frameSegs (ws : List Word) (off : Nat) : Vector (BitVec 128) 8 :=
  segsOfWords ((List.range 32).map fun i => wordAt ws (off / 4 + i))

/-- The frame is not refused (R270). -/
def frameOk (ws : List Word) : Bool :=
  limOk (frameLim ws) && (wordAt ws 0).toNat % 2 = 0 && (frameSegs ws 0x90).toList.all segValid &&
    (frameSegs ws 0x110).toList.all segValid && frameStreamsOk ws

/-- The thread that a frame restores. -/
def frameThread (ws : List Word) (go : Bool) : Thread :=
  let w2 := (wordAt ws 2).toNat
  let lim := frameLim ws
  let t := Thread.blank
  { t with
    pc := wordAt ws 0, f := wordAt ws 1 ||| 1, lim := lim, convoy := nbits w2 8 8 = 1, triggered := nbits w2 9 9 = 1
    wake := true, fpst := BitVec.ofNat 5 (nbits w2 15 11), asn := nbits w2 21 16, wlim := wordAt ws 3
    tvec := wordAt ws 4 &&& 0xFFFFFFFE, upc := wordAt ws 5 &&& 0xFFFFFFFE, tcause := wordAt ws 6 &&& 0x8000FFFF
    tpc := wordAt ws 7, tval := wordAt ws 8, qbase := wordAt ws 9 &&& 0xFFFFFFFC, qstride := wordAt ws 10 &&& 0xFFFC
    ecost := wordAt ws 11, wear := wordAt ws 12, rank := wordAt ws 13, npop := wordAt ws 14, lid := wordAt ws 15
    full := BitVec.ofNat 128 (frameBits ws 0x40 16 % 2 ^ lim ||| 1) ||| (BitVec.allOnes 128 <<< lim)
    m := BitVec.ofNat 256 (frameBits ws 0x50 32), md := BitVec.ofNat 256 (frameBits ws 0x70 32)
    segs := (frameSegs ws 0x90).map segClean, envs := (frameSegs ws 0x110).map segClean
    streams := Vector.ofFn fun q : Fin 4 => frameStream ws q.val, timeLatch := wordAt ws (0x1D0 / 4)
    regs := Vector.ofFn fun j : Fin 128 => if j.val = 0 || lim ≤ j.val then 0 else wordAt ws (0x200 / 4 + j.val)
    kind := if wordAt ws 15 = 0 then .spawned else .launch, stopped := !go }

/-- Where a frame goes: the slot it names, or the lowest. -/
def loadSlot (k : Core) (want : Nat) : Option Nat :=
  if want = 0 then (vacantSlots k).head? else if (vacantSlots k).contains want then some want else none
def loadPairSlot (k : Core) (want : Nat) : Option Nat :=
  if want = 0 || want > 7 then (pairSlots k).head? else if (pairSlots k).contains want then some want else none

/-- The restored thread or pair takes its place, and gA its slot number. -/
def restore (s : State) (c : Nat) (ctl : Nat) (t : Thread) : Option (State × Nat) :=
  let k := getCore s c
  if nbits ctl 9 9 = 1 then
    (loadPairSlot k (nbits ctl 3 0)).map fun i =>
      let lead := { t with role := .leading }
      let trail := { t with role := .trailing }
      (modCore (setThread (setThread s c i lead) c (i + 7) trail) c fun k =>
        { k with pairs := k.pairs ++ [⟨i, [], [], lead, trail, 0, 0, 0, false, false⟩] }, i)
  else (loadSlot k (nbits ctl 3 0)).map fun i => (setThread s c i t, i)

/-- The bytes of the frame that a head describes: the head alone where its L is none (R270, R283). -/
def frameBytes (head : List Word) : Nat := if limOk (frameLim head) then 512 + 4 * frameLim head else 512

/-- The bytes that CTXLD reads: its head as it stands says how many; where the head cannot be read, the head alone, whose
load then says so (R283). -/
def frameSize (s : State) (c : Nat) (t : Thread) (a : Word) : Nat :=
  match locateRange s c t (selOf a) (offOf a) 512 64 needR with
  | .error _ => 512
  | .ok ps =>
    if (badOffset s (ps.map (·.1)) 512).isSome then 512 else frameBytes (rangeWords s (ps.map (·.1)) 512)

/-- CTXLD. The head is read with the registers after it; where earlier stores have changed its L meanwhile, it issues
again. A convoy that it loads on the core that refused it a place needs that place no longer (R152). -/
def execCtxld (o : ShU) : State → Outcome State Fault Refusal :=
  issue { (o.use true) with
      srcs := o.a.toNat :: (o.use true).srcs, names := o.a.toNat :: (o.use true).names, priv := true } fun x t s =>
    let ctl := (rdReg t o.a.toNat).toNat
    let a := rdReg t o.b.toNat
    let status (s : State) (n : Word) : Res := .ok (modThread s x.core x.slot fun t => wrReg t o.a.toNat n)
    let n := frameSize s x.core t a
    frameOp x t s a n needR fun s1 ps =>
      let ws := rangeWords s1 ps n
      if frameBytes ws != n then .wait .waitMem id
      else if !limOk (frameLim ws) || !frameOk ws then status s1 0xFFFFFFFF
      else
        let u := frameThread ws false
        match restore s1 x.core ctl (frameThread ws (nbits ctl 8 8 = 1)) with
        | none => status s1 0
        | some (s2, i) =>
          status (dropClaim (arriveImages (moveMember s2 u (some x.core)) u x.core false) x.core u) (BitVec.ofNat 32 i)

/-! ### Commit points and kills (R288, R293) -/

/-- The comparator or the queue is full, and both threads stand at one boundary. -/
def commitReady (s : State) (c : Nat) (p : Pair) : Bool :=
  pairRest s c p && (p.cmp.length ≥ 32 || p.lvq.length ≥ 64 || p.full)

def execCommitPoint (core slot : Nat) (s : State) : Outcome State Fault Refusal :=
  .next <|
    match pairOf s core slot with
    | none => s
    | some p => if commitReady s core p then commitPoint s core p else s

/-- A thread that has met an uncorrectable error in its own state is killed; in a pair the error is a mismatch (R292). -/
def execThreadKill (core slot : Nat) (s : State) : Outcome State Fault Refusal :=
  .next <|
    match threadAt s core slot with
    | none => s
    | some t =>
      if !t.killed then s
      else
        match pairOf s core slot with
        | some p => mismatch (modThread s core slot fun t => { t with killed := false }) core p t.pc
        | none => killThread s core slot

/-- The window is clean again. -/
def execKillScrubComplete (core slot : Nat) (s : State) : Outcome State Fault Refusal :=
  .next <|
    match (getSlot s core slot).content with
    | .scrubbing => setContent s core slot .vacant
    | _ => s

end Sys2Proof.Machine
end

