-- ==== Sys2Proof/Machine/Events.lean ====
section
/-! DEFINITION. The package's own events outside memory and engines: core cycles with their counters and slot 0's
installed runtime, observation and debug holds, drains, host rings, and start-up (R113, R297 to R304, R351 to R366,
R380). -/

namespace Sys2Proof.Machine

open Host (Outcome)

/-! ### Core cycles (R8, R114, R362) -/

/-- The class of a cycle (R362). -/
inductive CycleClass where
  | issued | nrmem | nrmsg | vacant | idled
deriving DecidableEq, Repr

/-- The class by what the slot holds. A cycle of a READY slot in which nothing may issue counts with the withheld ones, and
a slot that is being scrubbed after a kill counts as vacant (DESIGN CHOICE, log entry 25). A thread that is asked to stop
and has an access in progress is not stopped yet (R264, R267). -/
def slotClass (x : Content) : CycleClass :=
  match x with
  | .thread t =>
    if t.stopped || t.hold then .nrmsg
    else
      match t.status with
      | .waitMem => .nrmem
      | .waitMsg => .nrmsg
      | .parked => .nrmsg
      | .ready => if t.stopReq || t.holdReq then .nrmsg else .idled
  | _ => .vacant

/-- The class of a slot's cycle; the installed handler in slot 15 may wait for a reserved word (R171, R179). -/
def cycleClass (s : State) (c : Nat) : CycleClass :=
  let k := getCore s c
  if s.issued then .issued
  else if deratedOff s c then .idled
  else if k.turnSlot = 15 && (k.slotAt 15).isVacant && handlerBusy s c then .nrmem
  else slotClass (k.slotAt k.turnSlot).content

/-- A slot is READY (R114). -/
def slotReady (x : Slot) : Bool :=
  match x.content with
  | .thread t => t.status = .ready && !t.stopped && !t.stopReq && !t.hold && !t.holdReq
  | _ => false

def CycleClass.count (y : CycleClass) (k : Core) : Core :=
  match y with
  | .issued => { k with nIssued := k.nIssued + 1 }
  | .nrmem => { k with nMem := k.nMem + 1 }
  | .nrmsg => { k with nMsg := k.nMsg + 1 }
  | .vacant => { k with nVacant := k.nVacant + 1 }
  | .idled => { k with nIdled := k.nIdled + 1 }

/-- HIST and ROT at the first cycle of a rotation; the slot that issued in it was READY. -/
def countRotation (issued : Bool) (k : Core) : Core :=
  if k.cycle % 16 != 0 then k
  else
    let n := ((List.range 16).filter fun i => slotReady (k.slotAt i) || (i = 0 && issued)).length
    { k with hist := k.hist.setIfInBounds n ((k.hist[n]?).getD 0 + 1), rot := k.rot + 1 }

/-! #### Slot 0's installed runtime: notices (R380) -/

/-- The control complex has asked for the thread of a slot to be saved: a pair by either of its slots (R271). -/
def askedFor (s : State) (c i : Nat) : Bool :=
  let k := getCore s c
  k.asked.getLsbD i || ((pairOf s c i).isSome && k.asked.getLsbD (i + 7))

/-- A stopped thread of which everything has performed goes to the store as CTXSV saves it and CTXLD will restore it (R269,
R270); `only` says to which core a thread saved at a request may return. -/
def saveThread (s : State) (c i : Nat) (t : Thread) (only : Option Nat) : State :=
  let s1 := evict s c i
  let u := (threadAt s1 c i).getD t
  let asked (k : Core) : BitVec 16 :=
    let a := putBit k.asked i false
    if u.role = .leading then putBit a (i + 7) false else a
  let e : Evictee := ⟨frameThread (frameOf u) true, u.role = .leading, s.time.toNat, none, only⟩
  modCore (moveMember (leaveSlots s1 c i) u none) c fun k =>
    { k with store := k.store ++ [e], evicting := none, asked := asked k }

/-- A thread saved at a request is kept, until the control complex says otherwise (log entry 3). -/
def keptFor (s : State) (c i : Nat) : Option Nat := if askedFor s c i then some Config.cores else none

/-- Saves a stopped thread at the request of the control complex instead of ending it (R380). -/
def saveAsked (s : State) (c i : Nat) (t : Thread) : State :=
  if mayEvict s c i then saveThread (withdrawNotice s c i) c i t (keptFor s c i) else s

/-- Ends a thread as R380 says; a thread with accesses still outstanding waits for the next turn. -/
def runtimeEnd (s : State) (c i : Nat) : State :=
  match threadAt s c i with
  | none => withdrawNotice s c i
  | some t =>
    if !t.stopped then withdrawNotice s c i
    else if askedFor s c i then saveAsked s c i t
    else if !(ownRelaxed s c i).isEmpty || !streamIdle s c i then s
    else parkEnd s c i t 0xFE

/-- A trap notice: a PAGE waits for its page notice, every other cause ends the thread. -/
def runtimeTrap (s : State) (c i : Nat) (m : Msg) : State :=
  let w := wordAt m.words 1
  if w.extractLsb' 0 8 = 0x05 && !w.getLsbD 16 then withdrawNotice s c i else runtimeEnd s c i

/-- The slot that a page notice names, by its leading one. -/
def pageSlot (s : State) (c : Nat) (m : Msg) : Nat := leadSlot s c ((wordAt m.words 1).extractLsb' 0 4).toNat

/-- The thread has stopped at the PAGE that a notice is about (R380); another that stands in its slot by then has not. -/
def waitsPage (t : Thread) (m : Msg) : Bool :=
  t.stopped && !inTrap t && t.tcause.extractLsb' 0 8 = 0x05 && t.tval = wordAt m.words 2

/-- A page notice for slot 0: the thread is released, or ended where the page was refused, or saved where the control complex
has asked for it. -/
def runtimePage (s : State) (c : Nat) (m : Msg) : State :=
  let i := pageSlot s c m
  let s1 := dropMsg s c m.id
  match threadAt s1 c i with
  | none => s1
  | some t =>
    if !waitsPage t m then s1
    else if (wordAt m.words 1).extractLsb' 8 8 = 0 then onPair s1 c i releaseThread
    else if askedFor s c i then (if mayEvict s c i then saveAsked s1 c i t else s)
    else if !(ownRelaxed s c i).isEmpty || !streamIdle s c i then s
    else parkEnd s1 c i t 0xFE

/-- A thread under a debug hold is left until the hold is lifted. -/
def underHold (s : State) (c i : Nat) : Bool := (threadAt s c i).any (·.hold)

/-- The trap notice of a slot, where the runtime may act on it. -/
def runtimeSees (s : State) (c i : Nat) : Option Msg := if underHold s c i then none else (getSlot s c i).notice

def isPageNotice (m : Msg) : Bool := (wordAt m.words 1).extractLsb' 24 8 = 1

/-- The message of channel 1 that the runtime takes next. -/
def runtimeMsg (s : State) (c : Nat) : Option Msg :=
  (getCore s c).inbox.find? fun m =>
    m.chan = 1 && m.held = some 0 && !(isPageNotice m && underHold s c (pageSlot s c m))

/-- What disposing of one notice makes of the state; none where no notice waits. -/
def runtimeNotice (s : State) (c : Nat) : Option State :=
  match (List.range 16).findSome? fun i => (runtimeSees s c i).map fun m => (i, m) with
  | some (i, m) => some (runtimeTrap s c i m)
  | none => (runtimeMsg s c).map fun m => if isPageNotice m then runtimePage s c m else dropMsg s c m.id

/-! #### Slot 0's installed runtime: pre-emption (R271; log entry 3) -/

/-- The core's quad is being drained with no spare. -/
def leaving (s : State) (c : Nat) : Bool := s.life.draining.any fun d => d.1 = physQuad s (quadOf c) && d.2.isNone

/-- The core's quad moves to a spare. -/
def relocating (s : State) (c : Nat) : Bool := s.life.draining.any fun d => d.1 = physQuad s (quadOf c) && d.2.isSome

/-- A convoy that has been refused a place, or has waited in a SPLIT, for longer than its launch's QUANT (R152, R158). -/
def heldTooLong (s : State) (t : Thread) : Bool :=
  t.heldAt.any fun h => (launchOf s t.lid).any fun l => h + dQuant l.desc < s.time.toNat

/-- The threads that a runtime may evict: those of work slots that run, a pair by its leading one. -/
def evictable (s : State) (c : Nat) : List (Nat × Thread) :=
  (slotThreads (getCore s c)).filter fun e =>
    1 ≤ e.1 && e.1 ≤ 14 && e.2.role != .trailing && !e.2.stopped && !e.2.stopReq && !e.2.hold

/-- Some resident thread of a population, on whatever core. -/
def residentWith (s : State) (lid : Word) (p : Thread → Bool) : Bool :=
  s.cores.any fun e => (slotThreads e.2).any fun u => u.2.lid = lid && p u.2

/-- Rule 3: an ordered population leaves in descending rank, and its lowest unexited rank after every other. -/
def mayLeave (s : State) (t : Thread) : Bool :=
  (launchOf s t.lid).all fun l =>
    !dOrd l.desc ||
      (!residentWith s t.lid (fun u => t.rank.toNat < u.rank.toNat) &&
        !(l.members.all (fun m => t.rank.toNat ≤ m.rank) && residentWith s t.lid fun u => u.rank != t.rank))

/-- Rule 2: those of the lowest PRIO. -/
def lowest (s : State) (es : List (Nat × Thread)) : List (Nat × Thread) :=
  es.filter fun e => prioOf s e.2 = es.foldl (fun m e => min m (prioOf s e.2)) 4

/-- The range in which an evicted thread may return: its launch's; a thread of no launch returns to its own core. One that was
saved at a request returns where the control complex says, or, where others of its population wait for it, within QUANT
(rule 5; log entry 3). -/
def mayReturn (s : State) (home c : Nat) (e : Evictee) : Bool :=
  (e.only.all (· = c) || e.pressing s) &&
  if e.th.lid = 0 then c = home else (launchOf s e.th.lid).any fun l => inRange l c

/-- A core takes placements. -/
def inUse (s : State) (c : Nat) : Bool :=
  presentCore s c && (healthOf s c = .healthy || healthOf s c = .derated) && !(getCore s c).halted

/-- A slot for an evicted thread on a core (R271, R285). -/
def returnRoom (s : State) (home c : Nat) (e : Evictee) : Bool :=
  let k := getCore s c
  inUse s c && mayReturn s home c e &&
    (if e.pair then
       !(pairSlots k).isEmpty &&
         !((slotThreads k).any fun u => u.2.lid != e.th.lid && u.2.segs.toList.any fun d => reachesCommit d c)
     else !(vacantSlots k).isEmpty && (k.pairs.isEmpty || e.th.segs.toList.all fun d => staysBelow d c))

/-- Every evicted thread, with the core at which it was evicted and its place in the store there. -/
def evictees (s : State) : List (Nat × Nat × Evictee) :=
  s.cores.flatMap fun k => (List.range k.2.store.length).filterMap fun n => (k.2.store[n]?).map fun e => (k.1, n, e)

/-- The cores to which an evicted thread may return. -/
def returnCores (s : State) (home : Nat) (e : Evictee) : List Nat :=
  match launchOf s e.th.lid with
  | none => [home]
  | some l => l.tree

/-- Rule 1: the highest PRIO of a seed or a restore that finds no slot and could have one here. -/
def wanted (s : State) (c : Nat) : Option Nat :=
  (((s.front.launches.filter fun l =>
      l.next < dCount l.desc && l.tree.contains c && inUse s c &&
        (l.members.filter fun m => m.core = c && !m.evicted).length < dQuota l.desc && (chooseCore s l).isNone).map
      fun l => dPrio l.desc) ++
    ((evictees s).filter fun e =>
      inUse s c && mayReturn s e.1 c e.2.2 && !((returnCores s e.1 e.2.2).any fun d => returnRoom s e.1 d e.2.2)).map
      fun e => prioOf s e.2.2.th).max?

/-- The threads that a core's runtime would evict by rules 1 and 2: those that the control complex has asked for, of whatever
PRIO, convoys held too long, then those of a core that drains, else those below the requester's PRIO. -/
def candidates (s : State) (c : Nat) : List (Nat × Thread) :=
  let es := evictable s c
  es.filter (fun e => askedFor s c e.1) ++ es.filter (fun e => heldTooLong s e.2) ++
    (if leaving s c then lowest s es
     else
       match wanted s c with
       | none => []
       | some p => lowest s (es.filter fun e => prioOf s e.2 < p))

/-- Rule 3 over several cores: a thread of an ordered population leaves also where a lower rank of it, on some core, is to
leave and waits for it (log entry 3). -/
def owed (s : State) (t : Thread) : Bool :=
  ((launchOf s t.lid).any fun l => dOrd l.desc) &&
    s.cores.any fun e =>
      !((candidates s e.1).any fun u => mayLeave s u.2) &&
        (candidates s e.1).any fun u => u.2.lid = t.lid && u.2.rank.toNat < t.rank.toNat

/-- The slot that the runtime evicts next (rules 1 to 3). -/
def victim (s : State) (c : Nat) : Option Nat :=
  match (candidates s c).find? fun e => mayLeave s e.2 with
  | some e => some e.1
  | none => ((evictable s c).find? fun e => mayLeave s e.2 && owed s e.2).map (·.1)

/-- The runtime stops its victim (R264). -/
def beginEvict (s : State) (c i : Nat) : State :=
  modCore (modThread s c i fun t => { t with stopReq := true }) c fun k => { k with evicting := some i }

/-- The victim goes to the store once it has stopped and everything of it has performed. -/
def evictStep (s : State) (c i : Nat) : State :=
  match threadAt s c i with
  | none => modCore s c fun k => { k with evicting := none }
  | some t =>
    if !t.stopped || !mayEvict s c i then s
    else
      saveThread s c i t (keptFor s c i)

/-- Rule 3: an ordered population comes back in ascending rank. -/
def firstBack (s : State) (e : Evictee) : Bool :=
  (launchOf s e.th.lid).all fun l =>
    !dOrd l.desc || !((evictees s).any fun f => f.2.2.th.lid = e.th.lid && f.2.2.th.rank.toNat < e.th.rank.toNat)

/-- Rules 4 and 5: one that must be back within QUANT first, then the highest PRIO, and within one PRIO eviction order. -/
def comesBefore (s : State) (a b : Evictee) : Bool :=
  let p := prioOf s a.th
  let q := prioOf s b.th
  (a.pressing s && !b.pressing s) || (a.pressing s = b.pressing s && (q < p || (p = q && a.since < b.since)))

/-- The jigs have still to answer some of these requests. -/
def tilesPending (s : State) (ids : List Nat) : Bool :=
  s.jigs.toList.any fun j => (j.queue.any fun r => ids.contains r.id) || j.move.any fun m => ids.contains m.req.id

/-- Tiles of an evicted thread are on their way for another core. -/
def movesElsewhere (s : State) (c : Nat) (e : Evictee) : Bool := e.tiles.any fun x => x.1 != c && tilesPending s x.2

/-- The evicted thread that the runtime of a core restores next. -/
def nextBack (s : State) (c : Nat) : Option (Nat × Nat × Evictee) :=
  ((evictees s).filter fun e => returnRoom s e.1 c e.2.2 && firstBack s e.2.2 && !movesElsewhere s c e.2.2).foldl
    (fun best e => match best with
      | none => some e
      | some b => if comesBefore s e.2.2 b.2.2 then some e else some b) none

/-- Rule 6: the bytes of the thread's sg1 window go with it to the same local addresses. -/
def copyWindow (s : State) (src dst : Nat) (t : Thread) : State :=
  if src = dst then s
  else
    match localSpan ((t.segs[1]?).getD 0) src with
    | none => s
    | some (lo, hi) => storeNat s (.lstore dst lo) (hi + 1 - lo) (loadNat s (.lstore src lo) (hi + 1 - lo))

/-- Rule 6: the tiles of movable GLOBAL segments that a thread names, which are those of the addresses in its full registers
(log entry 3). -/
def namedTiles (s : State) (c : Nat) (t : Thread) : List Nat :=
  ((List.range t.lim).filterMap fun n =>
    let v := rdReg t n
    let d := (t.segs[selOf v]?).getD 0
    if isFull t n && segType d = 5 && segM d then
      match resolve s c d (offOf v) 1 1 needRW with
      | .ok (.virt va) => some (va / 4096 * 4096)
      | _ => none
    else none).eraseDups

/-- The jig of the core's die is asked to move tiles; where to is the runtime's choice (log entry 3). -/
def sendTiles (c asn : Nat) : List Nat → State → State × List Nat
  | [], s => (s, [])
  | va :: rest, s =>
    let d := dieOf c
    let r : JigReq := ⟨s.serial, c, 0, asn, va, Config.freeNat s.free % 2 ^ 36 * 4096, false, 0⟩
    let s1 := setJig s d { jigOf s d with queue := (jigOf s d).queue ++ [r] }
    match sendTiles c asn rest { s1 with serial := s.serial + 1, free := s.free + 1 } with
    | (s2, ids) => (s2, s.serial :: ids)

/-- An evicted thread's tiles begin to move for its restore on another core. -/
def startTiles (s : State) (c home n : Nat) (e : Evictee) : State :=
  match sendTiles c e.th.asn (namedTiles s home e.th) s with
  | (s1, ids) => modCore s1 home fun k => { k with store := k.store.set n { e with tiles := some (c, ids) } }

/-- An evicted thread or pair takes a slot of the core; a place that it has claimed there as a convoy is free for others
(R152). -/
def restoreOne (s : State) (c home n : Nat) (e : Evictee) : State :=
  let s1 := modCore (copyWindow s home c e.th) home fun k => { k with store := k.store.eraseIdx n }
  match restore s1 c (2 ^ 8 + e.pair.toNat * 2 ^ 9) e.th with
  | none => s
  | some (s2, _) =>
    dropClaim (arriveImages (moveMember s2 e.th (some c)) e.th c false) c e.th

/-- What the runtime does next for a restore: on another core the tiles go first (rule 6). -/
def restoreStep (s : State) (c home n : Nat) (e : Evictee) : State :=
  if c = home then restoreOne s c home n e
  else
    match e.tiles with
    | none => startTiles s c home n e
    | some (d, ids) => if d != c then startTiles s c home n e else if tilesPending s ids then s else restoreOne s c home n e

/-- One turn of the installed runtime: a notice, the eviction in hand, a restore, or a new victim. During a checkpoint
it ends, evicts and restores nothing (R342, R380). -/
def runtimeStep (s : State) (c : Nat) : State :=
  if s.cc.checkpoint.isSome then s
  else
    match runtimeNotice s c, (getCore s c).evicting, nextBack s c, victim s c with
    | some s', _, _, _ => s'
    | none, some i, _, _ => evictStep s c i
    | none, none, some (home, n, e), _ => restoreStep s c home n e
    | none, none, none, some i => beginEvict s c i
    | none, none, none, none => s

def isRuntime (s : State) (c : Nat) : Bool :=
  match threadAt s c 0 with | some t => t.kind = .runtime && !t.stopped && !t.hold | none => false

/-! #### Checkpoints go on as the cores do (R342; log entry 26) -/

/-- A thread that a drain or a checkpoint has still to stop. -/
def runs (t : Thread) : Bool := t.kind != .runtime && t.role != .trailing && !t.stopped && !t.stopReq

/-- While its quad moves to a spare, or a checkpoint is in progress, a core's threads are asked to stop (R303, R342). -/
def askStops (s : State) (c : Nat) : State :=
  if relocating s c || s.cc.checkpoint.any (!·.staged) then
    ((slotThreads (getCore s c)).filter fun e => runs e.2).foldl
      (fun s e => modThread s c e.1 fun t => { t with stopReq := true }) s
  else s

/-- Nothing of a core is in flight, and its engines are idle. -/
def coreIdle (s : State) (c : Nat) (k : Core) : Bool :=
  !(s.flight.any fun f => f.core = c) && k.copyQ.isEmpty && k.copyRun.isEmpty && k.matQ.isEmpty && k.matRun.isNone

/-- The threads of a core have stopped; the installed runtime issues nothing. -/
def coreStopped (k : Core) : Bool := (slotThreads k).all fun e => e.2.kind = .runtime || e.2.stopped

/-- Every thread has stopped, every access has performed, and every engine is idle. -/
def checkpointQuiet (s : State) : Bool :=
  s.flight.isEmpty && s.moving.isEmpty && s.cores.all fun e => coreIdle s e.1 e.2 && coreStopped e.2

/-- What saving and restoring does to a thread: no reservation, no armed line, WAKE set, words read ahead given up. -/
def saveRestore (c : Nat) (s : State) (i : Nat) : State :=
  modThread (evict s c i) c i fun t => { t with streams := t.streams.map fun v => { v with ahead := [] } }

/-- The slots of a core that hold threads of its own. -/
def savedSlots (k : Core) : List Nat :=
  ((slotThreads k).filter fun e => e.2.kind != .runtime).map (·.1)

/-- What is staged of a core. -/
def coreImage (c : Nat) (k : Core) : CoreImage :=
  { core := c, shared := k.shared, hsegs := k.hsegs, chan := k.chan, inbox := k.inbox, tags := k.tags, acc := k.acc,
    accStat := k.accStat, amax := k.amax, pwShadow := k.pwShadow, pwOver := k.pwOver, dup := k.dup, slots := k.slots,
    arrivals := k.arrivals, store := k.store, paused := k.paused }

/-- Storage of the package: every byte but those of host memory and of other packages. -/
def ownByte (e : Nat × Byte) : Bool := e.1 < 6 * 2 ^ 56

def imageOf (s : State) : Image :=
  { mem := s.mem.filter ownByte, empties := s.empties, cores := s.cores.map fun e => coreImage e.1 e.2, front := s.front
    net := s.net }

/-- The threads that a drain or a checkpoint stopped on a core are released. -/
def releasePaused (s : State) (c : Nat) : State :=
  modCore ((getCore s c).paused.foldl (fun s i => onPair s c i releaseThread) s) c fun k => { k with paused := [] }

def resumeAll (s : State) : State :=
  { s.cores.foldl (fun s e => releasePaused s e.1) s with cc := { s.cc with checkpoint := none } }

/-- A core whose threads are in their frames. -/
def emptySlots (k : Core) : Core :=
  { k with
    slots := k.slots.map fun x => match x.thread? with | some t => if t.kind = .runtime then x else .empty | none => x
    pairs := [], arrivals := [], store := [], paused := [] }

/-- The staging region lies on the lowest die that is present, with the frame area 16 GiB behind its start (log entry 26). -/
def stagePlace (s : State) (off : Nat) : Place :=
  .hbm (((List.range 4).find? s.cc.dies.getLsbD).getD 0) (Config.stageArea % 2 ^ 24 * 4096 + off)

/-- Where the copy engines stage a byte of a local store, a quad store, a die store or a weight buffer, in this order. -/
def stagedAt (a : Nat) : Option Nat :=
  match a / 2 ^ 56 with
  | 0 => some a
  | 1 => some (2 ^ 32 + a % 2 ^ 56)
  | 2 => some (2 ^ 32 + 2 ^ 31 + a % 2 ^ 56)
  | 4 => some (2 ^ 33 + a % 2 ^ 56)
  | _ => none

/-- The bitmap has one bit for each word of the local stores and the quad stores; it is set where the word's FULL is 0. -/
def stagedTags (s : State) : List (Nat × Byte) :=
  (s.empties.filter fun w => w < 2 ^ 55).foldl
    (fun m w =>
      let b := (if w < 2 ^ 54 then w else 2 ^ 30 + w % 2 ^ 54) / 8
      smSet m b ((smGet m b).getD 0 ||| BitVec.ofNat 8 (2 ^ (w % 8)))) []

/-- The staging region: the stores from its start on, and the bitmap behind them. -/
def stageBytes (s : State) : List (Nat × Byte) :=
  (s.mem.filterMap fun e => (stagedAt e.1).map fun o => (o, e.2)) ++
    (stagedTags s).map fun e => (2 ^ 33 + 2 ^ 31 + e.1, e.2)

/-- The core-held state that the control complex adds, as words (R303, R342). -/
def heldWords (k : Core) : List Word :=
  k.chan.toList ++ k.shared.toList.map (·.val) ++ [k.hsegs, k.tags.setWidth 32, k.tags.extractLsb' 32 32] ++
    k.pwShadow.toList ++ k.amax.toList ++ k.accStat.toList.map (·.setWidth 32) ++
    (k.pwOver.toList.flatMap fun o => match o with | some (l, v) => [1, l, v] | none => [0, 0, 0]) ++
    [BitVec.ofNat 32 k.inbox.length] ++
    (k.inbox.flatMap fun m => [BitVec.ofNat 32 m.chan, BitVec.ofNat 32 (m.held.getD 16)] ++ m.words) ++
    [BitVec.ofNat 32 k.acc.length] ++ k.acc.flatMap fun e => BitVec.ofNat 32 e.1 :: toWords e.2.toNat 3

/-- The threads that a core saves, each with its place among the package's frames: work slots, then queued convoys. -/
def savedFrames (c : Nat) (k : Core) : List (Nat × Thread) :=
  ((slotThreads k).filter fun e => e.2.kind != .runtime && e.2.role != .trailing).map (fun e => (32 * c + e.1, e.2)) ++
    ((List.range k.arrivals.length).zip k.arrivals).map fun e => (32 * c + 16 + e.1, e.2.th)

/-- Words in HBM, as the firmware and the engines write them. -/
def putWords (s : State) (p : Place) (ws : List Word) : State :=
  storeNat (takeBack s p (4 * ws.length)) p (4 * ws.length) (wordsNat ws)

/-- A core's part of the frame area, 1,024 bytes a frame, and of the staging region, 32 KiB. -/
def stageCore (s : State) (e : Nat × Core) : State :=
  (savedFrames e.1 e.2).foldl (fun s f => putWords s (stagePlace s (2 ^ 34 + 1024 * f.1)) (frameOf f.2))
    (putWords s (stagePlace s (2 ^ 33 + 2 ^ 32 + 2 ^ 15 * e.1)) (heldWords e.2))

/-- Steps 1 and 2: the frame area and the staging region are written; step 3 reads every line (R336, R342). -/
def stageAll (s0 : State) : State :=
  let s := takeBackAll s0
  let lo := flat (stagePlace s 0)
  let m := s.mem.filter fun e => !(lo ≤ e.1 && e.1 < lo + 2 ^ 34)
  s.cores.foldl stageCore
    { s with mem := (stageBytes s).foldl (fun m e => memWrite m (lo + e.1) e.2) m }

/-- A pair as its threads restore it. -/
def pairsOf (k : Core) : List Pair :=
  (slotThreads k).filterMap fun e =>
    if e.2.role = .leading then
      some ⟨e.1, [], [], e.2, ((k.slotAt (e.1 + 7)).thread?).getD e.2, 0, 0, 0, false, false⟩
    else none

/-- The threads that an image holds of a core stand in their slots again. -/
def reloadCore (im : Image) (e : Nat × Core) : Nat × Core :=
  match im.cores.find? fun m => m.core = e.1 with
  | none => e
  | some m =>
    let k := { e.2 with slots := m.slots, arrivals := m.arrivals, store := m.store, paused := m.paused }
    (e.1, { k with pairs := pairsOf k })

/-- The end of a checkpoint that has staged its image: the saved threads resume, or the package stays stopped. -/
def endCheckpoint (p : Checkpoint) (im : Image) (s : State) : State :=
  if p.resume then resumeAll { s with cores := s.cores.map (reloadCore im) }
  else { s with cc := { s.cc with checkpoint := some { p with image := none } } }

/-- Joint-table holders take their expiry before they move or are saved, in slots and in the arrival queue (R269). -/
def expireJoints (s : State) (c : Nat) : State := (getCore s c).joint.foldl (fun s e => releaseHolder s c e) s

/-- Once the package is quiet its threads are saved and its image is staged, and the image is on its way; once the targets
have acknowledged it, its manifest is written, and the checkpoint is over (R342). -/
def checkpointStep (s : State) : State :=
  match s.cc.checkpoint with
  | none => s
  | some p =>
    match p.staged, p.image with
    | true, none => s
    | true, some im =>
      let s1 := logInput s (.storage true)
      endCheckpoint p im { s1 with cc := { s1.cc with saved := some im } }
    | false, _ =>
      if !checkpointQuiet s then s
      else
        let s0 := s.cores.foldl (fun s e => expireJoints s e.1) s
        let s1 := stageAll (s0.cores.foldl (fun s e => (savedSlots e.2).foldl (saveRestore e.1) s) s0)
        { s1 with
          cores := s1.cores.map fun e => (e.1, emptySlots e.2)
          cc := { s1.cc with checkpoint := some { p with staged := true, image := some (imageOf s1) } } }

/-- The queued JOIN that the joint table serves in this cycle comes first. -/
def joinsFirst (s : State) (c : Nat) : Bool := queuedJoinReady (getCore s c)

/-- The number of a class in a sample (log entry 8). -/
def CycleClass.code : CycleClass → Nat
  | .issued => 0 | .nrmem => 1 | .nrmsg => 2 | .vacant => 3 | .idled => 4

/-- A sample is written once the class of its cycle is known (R364). -/
def endSample (s : State) (core : Nat) : State :=
  let k := getCore s core
  modCore
    (traceRecord s 1 core k.turnSlot ((k.sampling.map (·.1)).getD 0)
      [(k.sampling.map (·.2)).getD 0, BitVec.ofNat 32 (cycleClass s core).code])
    core fun k => { k with sampling := none }

/-- A core cycle ends: its class and the rotation are counted, slot 0's runtime takes its turn in its own cycle, and the
next core has its turn (log entries 1 and 4). -/
def execCoreCycle (core : Nat) (s : State) : Outcome State Fault Refusal :=
  .next <|
    if joinsFirst s core then
      { s with agenda := .event (.queuedJoinLookup core) :: .event (.coreCycle core) :: s.agenda }
    else if (getCore s core).sampling.isSome then
      { endSample s core with agenda := .event (.coreCycle core) :: s.agenda }
    else
      let s1 :=
        if presentCore s core && !(getCore s core).halted then
          if (getCore s core).turnSlot = 0 && isRuntime s core then runtimeStep s core else s
        else s
      let s2 := modCore s1 core fun k =>
        { countRotation s.issued ((cycleClass s core).count k) with cycle := k.cycle + 1 }
      { checkpointStep (askStops s2 core) with
        issued := false, turn := (core + 1) % Config.cores, time := s.time + BitVec.ofNat 64 (Config.ticks s.free)
        free := s.free + 1 }

/-! ### Observation and debugging (R363, R364, R366) -/

def samplePeriod (t : Trace) : Nat := (t.ctl.extractLsb' 16 5).toNat

/-- A sample period has begun since the core's last sample. -/
def sampleReady (s : State) (c : Nat) : Bool :=
  let t := traceOf s (dieOf c)
  t.ctl.getLsbD 31 && t.ctl.getLsbD 1 && samplePeriod t != 0 &&
    s.time >>> samplePeriod t != (getCore s c).sampled >>> samplePeriod t

/-- A sample is due: it records the slot whose cycle it is, as the cycle begins. -/
def execTraceSample (core : Nat) (s : State) : Outcome State Fault Refusal :=
  .next <|
    if !sampleReady s core then s
    else
      let t := threadAt s core (getCore s core).turnSlot
      modCore s core fun k =>
        { k with sampled := s.time, sampling := some ((t.map (·.pc)).getD 0, (t.map (·.f)).getD 0) }

/-- The next instruction of a thread is a breakpoint; a pair comes to it once both its threads stand there. -/
def breakReady (s : State) (c i : Nat) : Bool :=
  !(getCore s c).breakpoints.isEmpty &&
    match threadAt s c i with
    | some t =>
      !t.hold && !t.lifted && !t.stopped && t.pend.isNone && atBreakpoint s c i t &&
        (t.role = .alone || (pairOf s c i).all (pairRest s c))
    | none => false

/-- A debug hold stops a thread, and a pair after a commit point (R288, R292, R366). -/
def execBreakpointHold (core slot : Nat) (s : State) : Outcome State Fault Refusal :=
  .next <|
    if !breakReady s core slot then s
    else
      let s1 := onThread s core slot fun s => modThread s core slot fun t => { t with hold := true }
      match threadAt s1 core slot with
      | none => s1
      | some t =>
        if !t.hold then s1
        else
          traceRecord (if t.role = .leading then modThread s1 core (slot + 7) fun u => { u with hold := true } else s1)
            2 core slot t.pc []

/-- The counters of a snapshot, in the order of R363. -/
def snapshot (k : Core) : List (BitVec 64) :=
  [k.nIssued, k.nMem, k.nMsg, k.nVacant, k.nIdled, k.rot] ++ k.hist.toList

/-- A snapshot is taken at a rotation boundary. -/
def obsReady (s : State) : Bool :=
  s.cc.obs.pending &&
    (!presentCore s s.cc.obs.core.toNat || (getCore s s.cc.obs.core.toNat).cycle % 16 = 0)

/-- A word of the observation window. -/
def obsWord (o : Obs) (off : Nat) : Word :=
  if off = 0x800 then BitVec.ofNat 32 (o.ready.toNat * 2 ^ 31 + o.missing.toNat * 2 ^ 30) ||| o.core.setWidth 32
  else if 0x808 ≤ off && off < 0x8C0 then
    ((o.data[(off - 0x808) / 8]?).getD 0).extractLsb' (32 * (off / 4 % 2)) 32
  else 0

/-- The answer to a read of `n` bytes of the observation window. -/
def obsBytes (o : Obs) (off n : Nat) : List Byte :=
  wordsBytes ((List.range (n / 4)).map fun j => obsWord o (off + 4 * j))

/-- The snapshot is complete, and the reads that waited for it are answered in their order. -/
def execObsSnapshotReady (s : State) : Outcome State Fault Refusal :=
  .next <|
    if !obsReady s then s
    else
      let c := s.cc.obs.core.toNat
      let here := presentCore s c
      let o : Obs :=
        ⟨false, [], true, !here, s.cc.obs.core, if here then snapshot (getCore s c) else List.replicate 23 0⟩
      { s with cc := { s.cc with
          obs := o, answers := s.cc.answers ++ s.cc.obs.reads.map fun r => some (obsBytes o r.1 r.2) } }

/-! ### Drains (R272, R301, R303, R304) -/

/-- The control complex, or a gauge, asks for a drain; class and errors ask by themselves. -/
def drainAsked (s : State) (c cause : Nat) : Bool :=
  match cause with
  | 1 => wearClass s c ≥ 30
  | 3 => true
  | 4 => true
  | _ => false

def execDrainStart (core : Nat) (cause : Nat) (s : State) : Outcome State Fault Refusal :=
  .next <| if drainAsked s core cause then drainQuad s core cause else s

/-- The logical quad that a physical quad holds. -/
def logicalQuad (s : State) (q : Nat) : Option Nat :=
  match s.life.quadMap.find? fun e => e.2 = q with
  | some e => some e.1
  | none => if q % 4160 < 4096 && (smGet s.life.quadMap (q / 4160 * 4096 + q % 4160)).isNone
    then some (q / 4160 * 4096 + q % 4160) else none

/-- Every work slot and the handler slot of a core are empty, and no convoy is queued there. -/
def coreEmpty (k : Core) : Bool := k.arrivals.isEmpty && (slotThreads k).all fun e => e.1 = 0

/-- Nothing of the quad is under way, and its threads have stopped, or have been evicted where there is no spare. -/
def quadQuiet (s : State) (lq : Nat) (spare : Option Nat) : Bool :=
  (List.range 4).all fun j =>
    let k := getCore s (4 * lq + j)
    coreIdle s (4 * lq + j) k && if spare.isSome then coreStopped k else coreEmpty k

def drainReady (s : State) (q : Nat) : Bool :=
  match s.life.draining.find? fun d => d.1 = q with
  | none => false
  | some d => match logicalQuad s q with | none => true | some lq => quadQuiet s lq d.2

def setHealth (s : State) (pc : Nat) (h : Health) (lcore : BitVec 16) : State :=
  let l := liveOf s pc
  setLive s pc { l with entry := { l.entry with state := h, lcore := lcore } }

/-- A die summary with its check word, as a number (R299). -/
def sumNat (x : DieSum) : Nat := wordsNat (sumWords x ++ [Config.crc (sumWords x)])

/-- A replacement is requested: REPLACE, a record, a message with the four die summaries, and a report on the side band
(R304, R358). -/
def askReplace (s : State) (d : Nat) : State :=
  let sums := s.life.sums.setIfInBounds d { (s.life.sums[d]?).getD ⟨0, 0, false⟩ with replace := true }
  let s1 := errReport { s with life := { s.life with sums := sums } } 11 none none 0 0
  { s1 with cc := { s1.cc with sent := s1.cc.sent ++ [.vendor (sums.toList.map sumNat), .sideband 11] } }

/-- The drained quad retires; with a spare the map changes at this instant. -/
def retireQuad (s : State) (q : Nat) (spare : Option Nat) (lq : Option Nat) : State :=
  let d := q / 4160
  let s1 := (List.range 4).foldl (fun s j => setHealth s (4 * q + j) .retired 0xFFFF) s
  let sm := (s1.life.sums[d]?).getD ⟨0, 0, false⟩
  let sm' := match spare with | some _ => { sm with spares := sm.spares - 1 } | none => { sm with retq := sm.retq + 1 }
  let s2 := { s1 with life := { s1.life with
    sums := s1.life.sums.setIfInBounds d sm', draining := s1.life.draining.filter fun x => x.1 != q } }
  let s3 :=
    match spare, lq with
    | some p, some l =>
      let s3 := (List.range 4).foldl (fun s j => setHealth s (4 * p + j) .healthy (BitVec.ofNat 16 (4 * l + j))) s2
      { s3 with life := { s3.life with quadMap := smSet s3.life.quadMap l p } }
    | _, _ => s2
  if sm'.spares = 0 && !sm.replace then askReplace s3 d else s3

/-- A thread moves with its quad: its reservation is released, no line stays armed, and WAKE is set (R177, R180). -/
def moveThread (c : Nat) (s : State) (i : Nat) : State :=
  modPend (forceRelease s c i) c i fun t => { t with watches := [], wake := true }

/-- What a move to a spare does on one core; every thread keeps its place and is released as it was. -/
def moveCore (s : State) (c : Nat) : State :=
  let s1 := expireJoints s c
  releasePaused ((savedSlots (getCore s1 c)).foldl (moveThread c) s1) c

def execDrainComplete (quad : Nat) (s : State) : Outcome State Fault Refusal :=
  .next <|
    match s.life.draining.find? fun d => d.1 = quad with
    | none => s
    | some d =>
      if !drainReady s quad then s
      else
        match logicalQuad s quad with
        | none => retireQuad s quad d.2 none
        | some l => (List.range 4).foldl (fun s j => moveCore s (4 * l + j)) (retireQuad s quad d.2 (some l))

/-- A bounced request is sent again under the new map, in its order: it is still on its way. -/
def execRequestBounce (_ : Nat) (s : State) : Outcome State Fault Refusal := .next s

/-! ### Host rings (R352 to R354) -/

/-- Entries of a ring. -/
def Queue.entries (q : Queue) : Nat := 2 ^ (q.order.toNat + 4)
def Queue.headAt (q : Queue) : Nat := q.head.toNat % q.entries
def Queue.pendingRecs (q : Queue) : Bool := q.headAt != q.tail.toNat % q.entries
def Queue.step (q : Queue) : Queue := { q with head := BitVec.ofNat 16 ((q.headAt + 1) % q.entries) }

/-- A queue has a place for a record. -/
def queueRoom (q : Queue) : Bool := (q.recs.length < 32 && q.ovCount = 0) || q.ovCount < q.ovSize

/-- The control complex can take a record, or the one in hand has found a place; ENABLE written 0 stops only the taking
(R354). -/
def ringReady (s : State) (n : Nat) : Bool :=
  let q := getQueue s n
  !q.halt && (if q.hand.isSome then queueRoom q else q.enable && q.pendingRecs)

/-- A place on the bus: host memory, or HBM in the HDM window, die after die (R336, R352; log entry 61). -/
def busPlace (s : State) (a : Nat) : Place :=
  match s.cc.hdm with
  | some b =>
    if b ≤ a && a < b + 4 * Config.hbmBytes then .hbm ((a - b) / Config.hbmBytes) ((a - b) % Config.hbmBytes) else .host a
  | none => .host a

/-- A capability fault on a ring record: the acting control core traps, and its firmware halts the queue. -/
def capFault (s : State) (n v : Nat) : State :=
  let q := getQueue s n
  errReport (capTrap (setQueue s n { q with halt := true, capf := true }) (ctlActor s)) 7 none none v (BitVec.ofNat 32 (n * 65536 + q.headAt))

/-- The ranges that a descriptor's pointers name. -/
def descRanges (d : Nat) : List (Nat × Nat) :=
  [(dCodeva d, dClen d)] ++ (if dLocva d = 0 then [] else [(dLocva d, dLlen d)]) ++
    (if dSegva d = 0 then [] else [(dSegva d, 128)]) ++ (if dFmtva d = 0 then [] else [(dFmtva d, 64)]) ++
    [(dDoneva d, 32)]

def inside (a n base len : Nat) : Bool := base ≤ a && a + n ≤ base + len

/-- The capabilities through which the firmware reads a queue's ring and what its records point to (R349, R353). -/
def Queue.ringCap (q : Queue) : Cap := hostCap q.rbase.toNat (64 * q.entries)
def Queue.window (q : Queue) : Cap := hostCap q.wbase.toNat q.wlen.toNat

/-- A load on the bus through a capability; none is a capability fault. -/
def busLoad (s : State) (c : Cap) (a n : Nat) : Option Nat :=
  if c.allows .load a n then some (loadNat s (busPlace s a) n) else none

/-- What the checks of a ring record give: its descriptor, or the value on which a capability fault is raised. -/
def recordDesc (s : State) (q : Queue) : Except Nat Nat :=
  let at_ := q.rbase.toNat + 64 * q.headAt
  let r := (busLoad s q.ringCap at_ 64).getD 0
  let desca := r % 2 ^ 64
  match if r / 2 ^ 96 != 0 || desca % 64 != 0 then none else busLoad s q.window desca 128 with
  | none => .error desca
  | some d =>
    match (descRanges d).find? fun p => !inside p.1 p.2 q.ubase.toNat q.ulen.toNat with
    | some p => .error p.1
    | none => .ok d

/-- Lines of a record and its descriptor that the host may hold, in the HDM window, come back first (R336). -/
def touchRecord (s : State) (q : Queue) : State :=
  let p := busPlace s (q.rbase.toNat + 64 * q.headAt)
  takeBack (takeBack s p 64) (busPlace s (loadNat s p 64 % 2 ^ 64)) 128

/-- The descriptor in hand goes to the queue, or waits for a place there. -/
def placeHand (s : State) (n d : Nat) : State :=
  match enqueue s n ⟨d, none⟩ with
  | .taken s' => setQueue s' n { (getQueue s' n).step with qfull := false, hand := none }
  | .full => setQueue s n { getQueue s n with qfull := true, hand := some d }
  | .halted s' => s'

/-- The control complex takes one ring record, once. -/
def execRingRecordTake (queue : Nat) (s : State) : Outcome State Fault Refusal :=
  .next <|
    if !ringReady s queue then s
    else
      match (getQueue s queue).hand with
      | some d => placeHand s queue d
      | none =>
        let q := getQueue s queue
        let s1 := keepCap (keepCap (touchRecord s q) queue q.window) (64 + queue) q.ringCap
        match recordDesc s q with
        | .error v => capFault s1 queue v
        | .ok d => placeHand s1 queue d

/-! ### Start-up (R327, R359 to R361) -/

/-- Variants of each start-up step, and whether it is required. -/
def stepVariants (n : Nat) : Nat :=
  match n with
  | 1 => 2 | 2 => 2 | 3 => 2 | 4 => 4 | 5 => 4 | 9 => 3 | _ => 1
def stepRequired (n : Nat) : Bool := n ≤ 9 || n = 34

/-- What a start carries from step to step: its new log entries, the dies and the control cores, the firmware image's place,
links and ports, the failed steps, and whether it has ended in recovery mode. -/
structure Starting where
  log : List StartEnt
  dies : BitVec 4
  controls : BitVec 16
  image : Nat
  links : BitVec 16
  ports : BitVec 8
  failed : List Nat
  recov : Bool
deriving DecidableEq, Repr

/-- The result with which a step ended in the previous start: variant and whether it was done; none if it did not run. -/
def lastResult (log : List StartEnt) (start : Word) (n : Nat) : Option (Nat × Nat) :=
  (log.filter fun e => e.start = start && e.step.toNat = n).getLast?.map fun e => (e.variant.toNat, e.result.toNat)

/-- The variant from which a step starts (R360); none where an optional step is skipped. -/
def firstVariant (log : List StartEnt) (start : Word) (retry : Bool) (n : Nat) : Option Nat :=
  if retry then some 0
  else
    match lastResult log start n with
    | none => some 0
    | some (v, r) =>
      if stepRequired n then some (if r = 1 then v else v + 1) else if r = 1 || r = 3 then some 0 else none

/-- One more die excluded: the highest-numbered one with a failing link, or, where none has one, the highest-numbered one
(log entry 27). -/
def excludeOne (bad dies : BitVec 4) : BitVec 4 :=
  let from_ := if dies &&& bad = 0 then dies else dies &&& bad
  match ([3, 2, 1, 0] : List Nat).find? from_.getLsbD with
  | some d => putBit dies d false
  | none => dies

def excludeMany (bad : BitVec 4) : Nat → BitVec 4 → BitVec 4
  | 0, dies => dies
  | n + 1, dies => excludeMany bad n (excludeOne bad dies)

/-- The dies that remain under a variant. -/
def diesAfter (f : Found) (dies : BitVec 4) (n v : Nat) : BitVec 4 :=
  if n = 4 then excludeMany f.badLinks v dies
  else if n = 5 && v = 3 then dies &&& ~~~ f.badStacks
  else dies

/-- The control cores that a variant of step 3 starts. -/
def controlsAfter (f : Found) (v : Nat) : BitVec 16 := if v = 0 then 0xFFFF else ~~~ f.badControls

/-- The number of bits set. -/
def bitCount {w : Nat} (x : BitVec w) : Nat := (firsts w x.getLsbD).length

/-- A variant fails: it is said to, or it would leave no die, or fewer than four control cores. -/
def variantFails (f : Found) (z : Starting) (n v : Nat) : Bool :=
  f.failing.contains (n, v) || diesAfter f z.dies n v = 0 || (n = 3 && bitCount (controlsAfter f v) < 4)

/-- DETAIL of an entry. -/
def stepDetail (f : Found) (z : Starting) (n v : Nat) : BitVec 16 :=
  if n = 4 || n = 5 then (diesAfter f z.dies n v).setWidth 16 else if n = 3 then controlsAfter f v else 0

/-- An entry of the log. -/
def startEnt (f : Found) (s : State) (z : Starting) (start : Word) (n v r : Nat) : StartEnt :=
  ⟨start, BitVec.ofNat 8 n, BitVec.ofNat 4 r, BitVec.ofNat 4 v, stepDetail f z n v, BitVec.ofNat 32 (s.time.toNat / 1000000)⟩

/-- What a step leaves when it has succeeded. -/
def stepDone (f : Found) (z : Starting) (n v : Nat) : Starting :=
  if n = 1 then { z with image := v }
  else if n = 3 then { z with controls := controlsAfter f v }
  else if n = 4 || n = 5 then { z with dies := diesAfter f z.dies n v }
  else if 10 ≤ n && n ≤ 25 then { z with links := putBit z.links (n - 10) true }
  else if 26 ≤ n && n ≤ 33 then { z with ports := putBit z.ports (n - 26) true }
  else z

/-- Runs a step from a variant on. -/
def runVariants (f : Found) (s : State) (start : Word) (n : Nat) : Nat → Nat → Starting → Starting
  | 0, _, z => if stepRequired n then { z with recov := true } else z
  | k + 1, v, z =>
    if variantFails f z n v then
      runVariants f s start n k (v + 1)
        { z with log := z.log ++ [startEnt f s z start n v 0, startEnt f s z start n v 2], failed := z.failed ++ [n] }
    else
      { stepDone f z n v with log := z.log ++ [startEnt f s z start n v 0, startEnt f s z start n v 1] }

def runStep (f : Found) (s : State) (start : Word) (retry : Bool) (z : Starting) (n : Nat) : Starting :=
  if z.recov then z
  else
    match firstVariant s.life.startLog (start - 1) retry n with
    | none => { z with log := z.log ++ [startEnt f s z start n 0 3] }
    | some v => runVariants f s start n (stepVariants n - v) v z

/-- Step 6: the quad of a core that fails its test retires, and a spare takes its place; with none left its logical cores are
not present (log entry 27). -/
def retireTested (s : State) (pc : Nat) : State :=
  match logicalQuad s (pc / 4) with
  | none => s
  | some l =>
    if healthOf s (4 * l + pc % 4) = .healthy || healthOf s (4 * l + pc % 4) = .derated then
      let s1 := drainQuad s (4 * l + pc % 4) 4
      match s1.life.draining.find? fun d => d.1 = pc / 4 with
      | some d =>
        let s2 := retireQuad s1 (pc / 4) d.2 (some l)
        if d.2.isSome then s2 else { s2 with life := { s2.life with gone := setAdd s2.life.gone l } }
      | none => s1
    else s

/-- The units of the kernel frame map that a kernel frame takes, by its frame, die and placement (R263). -/
def kernelUnits (s : State) (k : Nat) : List Nat :=
  let leaf : BitVec 64 := BitVec.ofNat 64 (k / 16 * 2 ^ 16 + k / 4 % 4 * 2 ^ 12 + k % 4 * 2 ^ 10)
  ((List.range 16).map fun b => frameUnit (leafByte s leaf false (b * 4096))).eraseDups

/-- The control cores as step 3 starts them (R348, R359). -/
def startCtl (on : BitVec 16) : Vector CtlCore 16 := Vector.ofFn fun k => if on.getLsbD k.val then .start else .blank

/-- The package at the end of a start: reset, with what survives it, as the steps leave it. -/
def started (s : State) (f : Found) (z : Starting) (start : Word) : State :=
  let log := s.life.startLog ++ z.log
  let s1 : State :=
    { State.reset with
      mem := s.mem, bads := s.bads, time := s.time, serial := s.serial, free := s.free + 1
      agenda := s.agenda, booted := !z.recov
      xl := { State.reset.xl with roots := s.xl.roots, kmap := if z.recov then [] else (f.kernel.flatMap (kernelUnits s)).eraseDups }
      life := { s.life with startLog := log.drop (log.length - 4096), starts := start }
      cc := { Control.blank with
        recovery := z.recov, dies := if z.recov then 0 else z.dies, controls := if z.recov then 0 else z.controls
        ctl := if z.recov then Control.blank.ctl else startCtl z.controls
        images := s.cc.images, image := (s.cc.images[z.image]?).getD 0, attested := !z.recov
        linksUp := if z.recov then 0 else z.links, portsUp := if z.recov then 0 else z.ports
        notices := z.failed.map fun n => (n, s.time), cxl := !z.recov && f.cxl, hdm := if z.recov then none else f.hdm
        saved := s.cc.saved, toReplay := if s.cc.replayNext then s.cc.replay else [], pkg := s.cc.pkg, pod := s.cc.pod, sent := s.cc.sent, answers := s.cc.answers } }
  if z.recov then s1 else f.badCores.foldl retireTested s1

def execStartup (found : Found) (s : State) : Outcome State Fault Refusal :=
  let start := s.life.starts + 1
  .next <|
    started s found
      (((List.range 34).map (· + 1)).foldl (runStep found s start s.cc.retry) ⟨[], 0xF, 0, 0, 0, 0, [], false⟩) start

end Sys2Proof.Machine
end

