-- ==== Sys2Proof/Machine/LoadStore.lean ====
section
/-! DEFINITION. The plain loads and stores (R72 to R74), and gather and scatter (R102, R103). -/

namespace Sys2Proof.Machine

open Host (Outcome)

def execLdb (o : ShM) : State → Outcome State Fault Refusal := issue (o.useLoad false) (loadOp o 1 false)
def execLdbs (o : ShM) : State → Outcome State Fault Refusal := issue (o.useLoad false) (loadOp o 1 true)
def execLdh (o : ShM) : State → Outcome State Fault Refusal := issue (o.useLoad false) (loadOp o 2 false)
def execLdhs (o : ShM) : State → Outcome State Fault Refusal := issue (o.useLoad false) (loadOp o 2 true)
def execLdw (o : ShM) : State → Outcome State Fault Refusal := issue (o.useLoad false) (loadOp o 4 false)
def execStb (o : ShM) : State → Outcome State Fault Refusal := issue (o.useStore false) (storeOp o 1)
def execSth (o : ShM) : State → Outcome State Fault Refusal := issue (o.useStore false) (storeOp o 2)
def execStw (o : ShM) : State → Outcome State Fault Refusal := issue (o.useStore false) (storeOp o 4)

/-- LDV: the checks cover all 64 bytes; only enabled lanes move (R73). -/
def execLdv (o : ShMV) : State → Outcome State Fault Refusal :=
  issue o.useLoad fun x t s =>
    memAccess x t s (o.mem.sel t) (o.mem.off t 64) 64 64 needR 1 o.rlx (some (o.b.toNat, o.mem.sb)) (lanesOf o.a) .load
      0 (laneParts t o.a)
/-- STV (R73). -/
def execStv (o : ShMV) : State → Outcome State Fault Refusal :=
  issue o.useStore fun x t s =>
    memAccess x t s (o.mem.sel t) (o.mem.off t 64) 64 64 needW 2 o.rlx (some (o.b.toNat, o.mem.sb)) [] .store 0
      (laneParts t o.a)

def execVgath (o : ShVG) : State → Outcome State Fault Refusal := issue o.useLoad (vecAccess o .load needR 1)
def execVscat (o : ShVG) : State → Outcome State Fault Refusal := issue o.useStore (vecAccess o .store needW 2)

end Sys2Proof.Machine
end

