-- ==== Sys2Proof/Machine/Outside.lean ====
section
/-! DEFINITION. What comes from outside the compute dies: the host and its registers, the network, peers, the control
complex's commands, power, the clock of a millisecond or an hour, and errors (R168, R295 to R304, R323, R333 to R343,
R350 to R369). -/

namespace Sys2Proof.Machine

open Host (Outcome)

/-! ### What acts after a fatal error and in recovery mode (R357, R361) -/

/-- The package works: no fatal error has stopped it, and it is not in recovery mode. -/
def working (s : State) : Bool := !s.cc.fatal && !s.cc.recovery

/-- What an event does while the package works. -/
def whileWorking (f : State → State) (s : State) : State := if working s then f s else s

/-! ### Requests from outside as accesses (R179, R192, R334, R338) -/

/-- `n` bytes from a place; those of a tile whose move has committed come from the new copy (R308; log entry 76). -/
def bytesAt (s : State) (p : Place) (n : Nat) : List Byte := (List.range n).map fun i => readByte s (followPending s (p.shift i))

/-- A die-local HBM range that exists. -/
def hbmOk (s : State) (die addr n : Nat) : Bool := s.cc.dies.getLsbD die && addr + n ≤ Config.hbmBytes

/-- The pieces of `n` bytes at an address that lie in one word each: offset and size. -/
def pieces (a n : Nat) : List (Nat × Nat) :=
  (List.range ((a % 4 + n + 3) / 4)).map fun j =>
    let lo := 4 * j - a % 4
    (lo, min (4 * (j + 1) - a % 4) n - lo)

/-- The parts of a request for `n` bytes, with the bytes that it stores; a byte of a tile whose move has committed is found in
the new copy (R308; log entry 76). -/
def outsideParts (s : State) (p : Place) (n : Nat) (bs : List Byte) : List Part :=
  (pieces (flat p) n).map fun e =>
    ⟨0, followPending s (p.shift e.1), e.2, BitVec.ofNat 32 (bytesVal ((bs.drop e.1).take e.2)), false, none, 0, 0⟩

/-- A request from outside the package. -/
def foreignAccess (s : State) (core slot : Nat) (kind : AccKind) (parts : List Part) (data2 : Word) : Access :=
  { id := s.serial, core := core, slot := slot, kind := kind, parts := parts, group := none, passed := []
    stage := .going, seq := 0, data2 := data2, named := 0, asn := 0, rewrite := none, result := [], okay := true
    remote := false, via := .plain, each := false, left := none, trail := [], vas := [] }

/-- It is served where nothing holds it up; else it stands in flight behind its sender's earlier ones, as one does that goes on
to another package (R333). -/
def takeForeign (s : State) (a : Access) : State :=
  let s1 := addFlight s a
  if bankReady s1 a && !peerAccess a then attempt s1 a else s1

def answer (s : State) (bs : List Byte) : State := answerWith s (some bs)

/-! ### BAR0 (R350 to R355, R363, R364) -/

/-- Clocks are below nominal for power or temperature, or cycles are withheld (R351, R369). -/
def throttled (s : State) : Bool :=
  0 < s.cc.eighths || s.cc.heat.toList.any (0 < ·) || (List.range 4).any fun d => s.cc.dies.getLsbD d && (s.cc.clock[d]?).getD 940 < 940

/-- DEVSTAT. -/
def devStat (s : State) : Word :=
  BitVec.ofNat 32 (s.cc.fatal.toNat * 2 ^ 31 + s.cc.recovery.toNat * 2 ^ 30 +
    (s.life.sums.toList.any (·.replace)).toNat * 2 ^ 29 + (throttled s).toNat * 2 ^ 28 + s.cc.dies.toNat * 2 ^ 24)

/-- The number of present logical cores. -/
def presentCores (s : State) : Nat :=
  Config.coresPerDie * bitCount s.cc.dies - 4 * (s.life.gone.filter fun q => s.cc.dies.getLsbD (q / 4096)).length

/-- One half of a 64-bit register. -/
def half (x : BitVec 64) (high : Bool) (v : Word) : BitVec 64 :=
  if high then v ++ x.extractLsb' 0 32 else x.extractLsb' 32 32 ++ v
def halfOf (x : BitVec 64) (off : Nat) : Word := x.extractLsb' (32 * (off / 4 % 2)) 32

/-- A word of a trace block (R364). -/
def traceBlock (t : Trace) (off : Nat) : Word :=
  match off / 8 with
  | 0 => halfOf t.base off
  | 1 => halfOf t.len off
  | 2 => halfOf t.rd off
  | 3 => halfOf t.wr off
  | _ => if off = 0x20 then t.ctl else 0

/-- A word of a queue's block (R352). -/
def queueBlock (q : Queue) (off : Nat) : Word :=
  match off with
  | 0x08 => BitVec.ofNat 32 (q.enable.toNat * 2 ^ 31 + q.devq.toNat * 2 ^ 30) ||| q.order.setWidth 32
  | 0x0C =>
    BitVec.ofNat 32 (q.halt.toNat * 2 ^ 31 + q.qfull.toNat * 2 ^ 30 + q.capf.toNat * 2 ^ 29) ||| q.head.setWidth 32
  | 0x10 => q.tail.setWidth 32
  | 0x28 => q.asn.setWidth 32
  | _ =>
    match off / 8 with
    | 0 => halfOf q.rbase off
    | 3 => halfOf q.wbase off
    | 4 => halfOf q.wlen off
    | 6 => halfOf q.ubase off
    | 7 => halfOf q.ulen off
    | _ => 0

/-- A word of BAR0; reserved ranges and reserved bits read as zero. -/
def barRead (s : State) (off : Nat) : Word :=
  if off = 0x000 then devStat s
  else if off = 0x004 then BitVec.ofNat 32 (presentCores s)
  else if off = 0x008 then BitVec.ofNat 32 s.cc.retry.toNat
  else if off = 0x100 || off = 0x104 then halfOf s.cc.ebase off
  else if off = 0x108 then BitVec.ofNat 32 (s.cc.eenable.toNat * 2 ^ 31) ||| s.cc.eorder.setWidth 32
  else if off = 0x10C then s.cc.ehead.setWidth 32
  else if off = 0x110 then s.cc.etail.setWidth 32
  else if off = 0x114 then s.cc.elost
  else if 0x200 ≤ off && off < 0x300 then traceBlock (traceOf s ((off - 0x200) / 0x40)) (off % 0x40)
  else if 0x800 ≤ off && off < 0x900 then obsWord s.cc.obs off
  else if 0x1000 ≤ off && off < 0x2000 then queueBlock (getQueue s ((off - 0x1000) / 0x40)) (off % 0x40)
  else 0

/-- An access of 4 or 8 bytes, naturally aligned, within the 16 KiB. -/
def barAligned (off size : Nat) : Bool := (size = 4 || size = 8) && off % size = 0 && off < 0x4000

/-- The data of a snapshot that is not complete. -/
def obsWaits (s : State) (off : Nat) : Bool := !s.cc.obs.ready && 0x808 ≤ off && off < 0x8C0

/-- A read of BAR0: any other access completes with Unsupported Request; in recovery mode the package answers DEVSTAT only;
data of the observation window waits for the snapshot (R350, R361, R363). -/
def readBar (off size : Nat) (s : State) : State :=
  if !barAligned off size || (s.cc.recovery && !(off = 0 && size = 4)) then answerWith s none
  else if obsWaits s off then
    { s with cc := { s.cc with obs := { s.cc.obs with reads := s.cc.obs.reads ++ [(off, size)] } } }
  else answer s (wordsBytes ((List.range (size / 4)).map fun j => barRead s (off + 4 * j)))

/-- Ring control: ENABLE, DEVQ, ORDER (R352); none where the write is refused. -/
def ringControl (q : Queue) (v : Word) : Option Queue :=
  let en := v.getLsbD 31
  let order : BitVec 4 := v.extractLsb' 0 4
  if q.enable && q.pendingRecs then some { q with enable := en }
  else if en && (order.toNat < 2 || order.toNat > 12 || q.rbase.toNat % 4096 != 0) then none
  else some { q with enable := en, devq := v.getLsbD 30, order := order }

/-- RESTART: clears a halt. -/
def ringRestart (q : Queue) : Queue := if q.halt then { q with halt := false, capf := false } else q
/-- SKIP: passes the record at HEAD, also one in hand, then acts as RESTART. -/
def ringSkip (q : Queue) : Queue := ringRestart { q.step with hand := none, qfull := false }

def modQueue (s : State) (n : Nat) (f : Queue → Queue) : State := setQueue s n (f (getQueue s n))

/-- A write of a queue's control word; a refused one changes nothing. -/
def queueControl (v : Word) (q : Queue) : Queue :=
  match ringControl q v with
  | none => q
  | some q1 => if v.getLsbD 28 then ringSkip q1 else if v.getLsbD 29 then ringRestart q1 else q1

/-- RBASE and ASN keep their value while records are pending on an enabled ring. -/
def queueWord (q : Queue) (off : Nat) (v : Word) : Queue :=
  let fixed := q.enable && q.pendingRecs
  match off with
  | 0x00 => if fixed then q else { q with rbase := half q.rbase false v }
  | 0x04 => if fixed then q else { q with rbase := half q.rbase true v }
  | 0x08 => queueControl v q
  | 0x10 => { q with tail := v.extractLsb' 0 16 }
  | 0x18 => { q with wbase := half q.wbase false v }
  | 0x1C => { q with wbase := half q.wbase true v }
  | 0x20 => { q with wlen := half q.wlen false v }
  | 0x24 => { q with wlen := half q.wlen true v }
  | 0x28 => if fixed then q else { q with asn := v.extractLsb' 0 6 }
  | 0x30 => { q with ubase := half q.ubase false v }
  | 0x34 => { q with ubase := half q.ubase true v }
  | 0x38 => { q with ulen := half q.ulen false v }
  | 0x3C => { q with ulen := half q.ulen true v }
  | _ => q

/-- An input is in progress of being replayed: the firmware takes its inputs from the log, and none from outside (R367; log
entry 78). -/
def inReplay (s : State) : Bool := !s.cc.toReplay.isEmpty

/-- The doorbell value is logged as it is taken (R354, R367). -/
def doorbell (s : State) (n : Nat) (tail : BitVec 16) : State :=
  if inReplay s then s else logInput (modQueue s n fun q => { q with tail := tail }) (.doorbell n tail.toNat)

/-- The kind-12 records that waited for the ring, each with the time of its event (R355, R360). -/
def flushNotices (s : State) : State :=
  let s1 := s.cc.notices.foldl (fun s e => errWrite s { errRec s 12 none none 0 0 with time := e.2 }) s
  { s1 with cc := { s1.cc with notices := [] } }

/-- A write of the error ring's control word is refused (R355). -/
def errorRefused (s : State) (v : Word) : Bool :=
  let order : BitVec 4 := v.extractLsb' 0 4
  v.getLsbD 31 && (order.toNat < 2 || order.toNat > 12 || s.cc.ebase.toNat % 4096 != 0)

/-- A write of the error ring's control word; a refused one changes nothing. -/
def errorControl (v : Word) (s : State) : State :=
  let order : BitVec 4 := v.extractLsb' 0 4
  if errorRefused s v then s
  else
    let s1 := { s with cc := { s.cc with
      eenable := v.getLsbD 31, eorder := order
      recent := if v.getLsbD 31 && order = s.cc.eorder then s.cc.recent else [] } }
    if v.getLsbD 31 then
      flushNotices (keepCap s1 128 (storeCap s1.cc.ebase.toNat (32 * ringLen s1.cc.eorder)))
    else s1

/-- A trace block's words. After ENABLE the first record of each core is absolute. -/
def traceWord (s : State) (d off : Nat) (v : Word) : State :=
  let t := traceOf s d
  match off with
  | 0x00 => setTrace s d { t with base := half t.base false v }
  | 0x04 => setTrace s d { t with base := half t.base true v }
  | 0x08 => setTrace s d { t with len := half t.len false v }
  | 0x0C => setTrace s d { t with len := half t.len true v }
  | 0x10 => setTrace s d { t with rd := half t.rd false v }
  | 0x14 => setTrace s d { t with rd := half t.rd true v }
  | 0x20 =>
    let s1 := setTrace s d { t with ctl := v &&& 0x801FFFFF }
    if v.getLsbD 31 && !t.ctl.getLsbD 31 then
      forgetTimes s1 d
    else s1
  | _ => s

/-- A write to OBSSEL replaces the snapshot; reads that wait return the new one. -/
def obsSelect (v : Word) (s : State) : State :=
  { s with cc := { s.cc with obs := ⟨true, s.cc.obs.reads, false, false, v.extractLsb' 0 16, []⟩ } }

/-- A 32-bit write to BAR0. -/
def barWord (s : State) (off : Nat) (v : Word) : State :=
  if off = 0x008 then { s with cc := { s.cc with retry := v.getLsbD 0 } }
  else if off = 0x100 then { s with cc := { s.cc with ebase := half s.cc.ebase false v } }
  else if off = 0x104 then { s with cc := { s.cc with ebase := half s.cc.ebase true v } }
  else if off = 0x108 then errorControl v s
  else if off = 0x10C then { s with cc := { s.cc with ehead := v.extractLsb' 0 16 } }
  else if off = 0x114 then { s with cc := { s.cc with elost := s.cc.elost &&& ~~~ v } }
  else if 0x200 ≤ off && off < 0x300 then traceWord s ((off - 0x200) / 0x40) (off % 0x40) v
  else if off = 0x800 then obsSelect v s
  else if 0x1000 ≤ off && off < 0x2000 then
    if off % 0x40 = 0x10 then doorbell s ((off - 0x1000) / 0x40) (v.extractLsb' 0 16)
    else modQueue s ((off - 0x1000) / 0x40) fun q => queueWord q (off % 0x40) v
  else s

/-! ### Tables that the control complex writes (R123, R257, R335, R339, R366) -/

def Service.blank : Service := ⟨false, 0, 0, 0, 0, 0, 0, 0, 0, 0, 0, 0, []⟩
def serviceAt (s : State) (e : Nat) : Service := (smGet s.cc.services e).getD .blank
def setService (s : State) (e : Nat) (v : Service) : State :=
  { s with cc := { s.cc with services := smSet s.cc.services e v } }

/-- A word of a service-table entry. -/
def serviceRead (v : Service) (off : Nat) : Word :=
  match off with
  | 0x00 => BitVec.ofNat 32 (v.valid.toNat * 2 ^ 31 + v.proto.toNat * 2 ^ 16) ||| v.uport.setWidth 32
  | 0x04 => v.pattern
  | 0x08 => v.mask
  | 0x0C => v.queue.setWidth 32 <<< 16 ||| v.nbuf.setWidth 32
  | 0x18 => v.bufsz
  | 0x1C => v.drops
  | 0x38 => BitVec.ofNat 32 (v.nbuf.toNat - v.used.length)
  | _ =>
    match off / 8 with
    | 2 => halfOf v.pool off
    | 4 => halfOf v.descva off
    | 5 => halfOf v.crva off
    | _ => 0

/-- A word written to a service-table entry; DROPS clears the bits that are written as 1. -/
def serviceWord (v : Service) (off : Nat) (w : Word) : Service :=
  match off with
  | 0x00 => { v with valid := w.getLsbD 31, proto := w.extractLsb' 16 2, uport := w.extractLsb' 0 16 }
  | 0x04 => { v with pattern := w }
  | 0x08 => { v with mask := w }
  | 0x0C => { v with queue := w.extractLsb' 16 6, nbuf := w.extractLsb' 0 16 }
  | 0x10 => { v with pool := half v.pool false w }
  | 0x14 => { v with pool := half v.pool true w }
  | 0x18 => { v with bufsz := w }
  | 0x1C => { v with drops := v.drops &&& ~~~ w }
  | 0x20 => { v with descva := half v.descva false w }
  | 0x24 => { v with descva := half v.descva true w }
  | 0x28 => { v with crva := half v.crva false w }
  | 0x2C => { v with crva := half v.crva true w }
  | _ => v

def PodBar.blank : PodBar := ⟨0, false, 0⟩

/-- A word written to a pod-barrier entry. -/
def podBarWord (b : PodBar) (off : Nat) (w : Word) : PodBar :=
  if off = 0 then { b with lid := w }
  else if off = 4 then { b with valid := w.getLsbD 31 }
  else if 0x10 ≤ off && off < 0x90 && off % 4 = 0 then
    let sh := 8 * (off - 0x10)
    { b with members := (b.members &&& ~~~ ((0xFFFFFFFF : BitVec 1024) <<< sh)) ||| (w.setWidth 1024 <<< sh) }
  else b

/-- Base and size of an overflow ring, in 128-byte records; they stay while records lie there (log entry 17). -/
def overflowWord (q : Queue) (off : Nat) (w : Word) : Queue :=
  if q.ovCount != 0 then q
  else
    match off with
    | 0x0 => { q with ovBase := q.ovBase / 2 ^ 32 * 2 ^ 32 + w.toNat }
    | 0x4 => { q with ovBase := w.toNat * 2 ^ 32 + q.ovBase % 2 ^ 32 }
    | 0x8 => { q with ovSize := w.toNat, ovHead := 0 }
    | _ => q

/-- Breakpoint `n` of a core: its PC, then its mask of slots. -/
def breakpointWord (k : Core) (n off : Nat) (w : Word) : Core :=
  let bs := k.breakpoints ++ List.replicate (4 - k.breakpoints.length) (0, 0)
  let b := (bs[n]?).getD (0, 0)
  { k with breakpoints := bs.set n (if off = 0 then (w, b.2) else (b.1, w.extractLsb' 0 16)) }

/-- One half of an address space's root table address. -/
def rootWord (s : State) (asn off : Nat) (w : Word) : State :=
  let a := rootOf s asn
  let b := if off = 0 then a / 2 ^ 32 * 2 ^ 32 + w.toNat else w.toNat * 2 ^ 32 + a % 2 ^ 32
  { s with xl := { s.xl with roots := smSet s.xl.roots asn b } }

/-- The control complex's requests to a core's runtime (R271; log entry 3): word 0 names the slots whose threads it saves; word
1 says where those saved at a request may return, in bits 15:0, or with bit 31 that they return as any other. -/
def runtimeWord (k : Core) (off : Nat) (w : Word) : Core :=
  if off = 0 then { k with asked := w.extractLsb' 0 16 }
  else
    { k with store := k.store.map fun e =>
        if e.only.isSome then { e with only := if w.getLsbD 31 then none else some (w.extractLsb' 0 16).toNat } else e }

/-- The runtime moves the tile of an address with RELOC at a request of the control complex (R314, R318). -/
def askMove (s : State) (c asn src dst : Nat) : State :=
  let d := dieOf c
  let r : JigReq := ⟨s.serial, c, 0, asn, src % 2 ^ 48 / 4096 * 4096, dst % 2 ^ 48 / 4096 * 4096, false, 0⟩
  { setJig s d { jigOf s d with queue := (jigOf s d).queue ++ [r] } with serial := s.serial + 1 }

/-- The log is replayed, from now on or, with bit 0 set, from the next start on (R367; log entry 78). -/
def askReplay (s : State) (next : Bool) : State :=
  if next then { s with cc := { s.cc with replayNext := true } }
  else { s with cc := { s.cc with toReplay := s.cc.replay, replay := [] } }

/-- A 32-bit write to one of the tables, or to BAR0. -/
def unitWord (s : State) (u : RegUnit) (off : Nat) (w : Word) : State :=
  match u with
  | .bar0 => barWord s off w
  | .service e => if e < 256 then setService s e (serviceWord (serviceAt s e) off w) else s
  | .podBar e =>
    if e < 32 then
      { s with cc := { s.cc with
          podBars := smSet s.cc.podBars e (podBarWord ((smGet s.cc.podBars e).getD .blank) off w) } }
    else s
  | .ring q => if q < 64 then modQueue s q fun x => overflowWord x off w else s
  | .breakpoint c n => if n < 4 && off ≤ 4 then modCore s c fun k => breakpointWord k n off w else s
  | .root asn => if asn < 64 && off ≤ 4 then rootWord s asn off w else s
  | .runtime c => if c < Config.cores && off ≤ 4 then modCore s c fun k => runtimeWord k off w else s
  | .move c asn dst => if c < Config.cores && off = 0 then askMove s c asn (w.toNat) dst else s
  | .replay => if off = 0 then askReplay s (w.getLsbD 0) else s
  | .ctl n => if off = 0 then ctlStep n s else s

/-- An access of 4 or 8 bytes, naturally aligned; any other changes nothing (R350). One whose ENABLE of the error ring is
refused changes nothing else that it names, EHEAD too (R352, R355). -/
def writeUnit (u : RegUnit) (off size : Nat) (value : BitVec 64) (s : State) : State :=
  if !barAligned off size then s
  else if u = .bar0 && off = 0x108 && errorRefused s (value.extractLsb' 0 32) then s
  else if size = 4 then unitWord s u off (value.extractLsb' 0 32)
  else if let .move c asn dst := u then (if c < Config.cores && off = 0 then askMove s c asn value.toNat dst else s)
  else unitWord (unitWord s u off (value.extractLsb' 0 32)) u (off + 4) (value.extractLsb' 32 32)

/-- In recovery mode nothing but DEVSTAT is answered (R361). -/
def unlessRecovery (f : State → State) (s : State) : State := if s.cc.recovery then s else f s

def execDoorbell (queue : Nat) (tail : BitVec 16) (s : State) : Outcome State Fault Refusal :=
  .next <| unlessRecovery (fun s => if queue < 64 then doorbell s queue tail else s) s
def execRingEnable (queue : Nat) (value : Word) (s : State) : Outcome State Fault Refusal :=
  .next <| unlessRecovery (fun s => modQueue s queue (queueControl value)) s
def execRingRestart (queue : Nat) (s : State) : Outcome State Fault Refusal :=
  .next <| unlessRecovery (fun s => modQueue s queue ringRestart) s
def execRingSkip (queue : Nat) (s : State) : Outcome State Fault Refusal :=
  .next <| unlessRecovery (fun s => modQueue s queue ringSkip) s
def execErrorRingEnable (value : Word) (s : State) : Outcome State Fault Refusal :=
  .next <| unlessRecovery (errorControl value) s
def execObsselWrite (value : Word) (s : State) : Outcome State Fault Refusal :=
  .next <| unlessRecovery (obsSelect value) s

/-! ### The host's accesses (R336 to R338) -/

/-- The host stores to device memory, in the order in which its port receives the stores; to BAR0; or to its own memory
(log entry 61). -/
def execHostWrite (space : HostSpace) (addr : Nat) (bytes : List Byte) (s : State) : Outcome State Fault Refusal :=
  .next <|
    match space with
    | .bar0 => unlessRecovery (writeUnit .bar0 addr bytes.length (BitVec.ofNat 64 (bytesVal bytes))) s
    | .memory => storeNat s (.host addr) bytes.length (bytesVal bytes)
    | .hdm die =>
      whileWorking
        (fun s =>
          if hbmOk s die addr bytes.length then
            takeForeign s (foreignAccess s hostCore 0 .store (outsideParts s (.hbm die addr) bytes.length bytes) 0)
          else s) s

/-- Under CXL the lines that the host has read are lines that it may hold (R336). -/
def hostHolds (s : State) (die a n : Nat) : State :=
  if s.cc.cxl then
    { s with cc := { s.cc with
        snoop := (List.range ((a % 64 + n + 63) / 64)).foldl
          (fun l j => setAdd l (lineKey (followPending s (.hbm die (a / 64 * 64 + 64 * j))))) s.cc.snoop } }
  else s

/-- The host reads device memory at its bank, BAR0, or its own memory. -/
def execHostRead (space : HostSpace) (addr len : Nat) (s : State) : Outcome State Fault Refusal :=
  .next <|
    match space with
    | .bar0 => readBar addr len s
    | .memory => answer s (bytesAt s (.host addr) len)
    | .hdm die =>
      whileWorking
        (fun s =>
          if hbmOk s die addr len then hostHolds (answer s (bytesAt s (.hbm die addr) len)) die addr len
          else answerWith s none) s

/-- A snoop is answered with no data: the package holds no host line. -/
def execHostSnoop (_ : Nat) (s : State) : Outcome State Fault Refusal := .next <| whileWorking (fun s => answer s []) s

/-! ### Peers and links (R323, R333, R334) -/

/-- A peer's request as an access: at its bank here, or on its way to the package that it is for. -/
def peerAccessOf (s : State) (r : PeerReq) (kind : AccKind) (n : Nat) (bs : List Byte) (data2 : Word) : Access :=
  foreignAccess s (foreignCore r.src r.core) r.slot kind
    (outsideParts s (if r.pkg = s.cc.pkg then .hbm r.die r.addr else .peer r.pkg r.die r.addr) n bs) data2

/-- The kind, the bytes that it touches, its data and its new value. -/
def peerOp (op : PeerOp) : AccKind × Nat × List Byte × Word :=
  match op with
  | .load n => (.load, n, [], 0)
  | .store bs => (.store, bs.length, bs, 0)
  | .amo k v => (.amo k, 4, wordsBytes [v], 0)
  | .cas old v => (.cas, 4, wordsBytes [old], v)
  | .rsv => (.rsv, 4, [], 0)
  | .rls v => (.rls, 4, wordsBytes [v], 0)
  | .release => (.load, 0, [], 0)

/-- A request from another package is served at its bank as one from a thread here, or goes on by the route table. -/
def takePeer (r : PeerReq) (s : State) : State :=
  let x := peerOp r.op
  match r.op with
  | .release => dropResv s (foreignCore r.src r.core) r.slot
  | _ =>
    if r.pkg = s.cc.pkg && !hbmOk s r.die r.addr x.2.1 then answerWith s none
    else takeForeign s (peerAccessOf s r x.1 x.2.1 x.2.2.1 x.2.2.2)

def execPeerRequest (req : PeerReq) (s : State) : Outcome State Fault Refusal := .next <| whileWorking (takePeer req) s

/-- A flit is sent again: nothing changes but the count of corrected errors. -/
def execLinkFlitRetry (_ _ : Nat) (s : State) : Outcome State Fault Refusal :=
  .next <| whileWorking (fun s => errReport s 2 none none 0 0) s

def execLinkFailure (_ _ : Nat) (s : State) : Outcome State Fault Refusal :=
  .next <| whileWorking (fun s => fatalStop s 17 none none) s

/-- The virtual address of an access to another package; of a request that passes through, its address there. -/
def peerAddr (a : Access) : Nat :=
  (a.parts.findSome? fun p =>
    match p.place with | .peer _ _ x => some (p.va.getD x) | _ => none).getD 0

/-- The address that a place of another package has there. -/
def placeAddr (p : Place) : Nat := match p with | .peer _ _ x => x | _ => 0

/-- The same for the next word of a copy operation, or the operand of the running matrix command, by its identifier: the
operation ends as at an uncorrectable error (R216, R238, R333). -/
def engineRouteFails (id : Nat) (s : State) : State :=
  match s.cores.findSome? fun k => (k.2.copyRun.find? fun o => o.id = id).map fun o => (k.1, o) with
  | some (c, o) =>
    match peerWord s c o with
    | none => s
    | some (s1, e, p) =>
      errReport (setCopy s1 c { o with ended := some (2, e), told := true }) 5 (some o.slot) (some c) (placeAddr p) o.lid
  | none =>
    match s.cores.findSome? fun k => (k.2.matRun.filter fun m => m.id = id).map fun m => (k.1, m) with
    | none => s
    | some (c, m) =>
      match routeEnds s c m with
      | none => s
      | some (s1, cost, f) => errReport (endCmd s1 c m cost (some f)) 5 (some m.slot) (some c) (failEng f) m.lid

/-- A request that no route delivers is answered as an uncorrectable error; it has passed its port and counts there (R328). -/
def routeFails (id : Nat) (s : State) : State :=
  match findFlight s id with
  | some a =>
    if !peerAccess a then s
    else if a.foreign then errReport (failAccess s a) 5 none none (peerAddr a) 0
    else
      errReport (failAccess (countArrival s a) a) 5 (some a.slot) (some a.core) (peerAddr a)
        (((threadAt s a.core a.slot).map (·.lid)).getD 0)
  | none => engineRouteFails id s

def execRouteFailure (id : Nat) (s : State) : Outcome State Fault Refusal := .next <| whileWorking (routeFails id) s

/-- A route changes once every request on the old one has performed. -/
def execRouteChange (pkg link : Nat) (s : State) : Outcome State Fault Refusal :=
  .next <|
    if !working s || s.flight.any fun a => a.parts.any fun p => match p.place with | .peer q _ _ => q = pkg | _ => false then s
    else { s with cc := { s.cc with routes := smSet s.cc.routes (pkg % 1024) (link % 16) } }

/-! ### The network port (R339 to R341) -/

/-- The first four payload bytes. -/
def frameKey4 (f : Frame) : Word := BitVec.ofNat 32 (bytesVal (f.payload.take 4))

def serviceMatches (v : Service) (f : Frame) : Bool :=
  v.valid && f.udp && (v.proto = 2 || (v.proto = 0 && !f.ipv6) || (v.proto = 1 && f.ipv6)) &&
    BitVec.ofNat 16 f.dport = v.uport && f.payload.length ≥ 4 && (frameKey4 f ^^^ v.pattern) &&& v.mask = 0

/-- The lowest free buffer. -/
def freeBufferNo (v : Service) : Option Nat := (List.range v.nbuf.toNat).find? fun k => !v.used.contains k

/-- A descriptor with `n` bytes at an offset replaced. -/
def setField (d off n v : Nat) : Nat :=
  d - descField d off n * 2 ^ (8 * off) + v % 2 ^ (8 * n) * 2 ^ (8 * off)

/-- The record that a frame becomes. -/
def serviceDesc (v : Service) (e k : Nat) (f : Frame) (d : Nat) : Nat :=
  let a := v.pool.toNat + k * v.bufsz.toNat
  setField (setField (setField (setField (setField d 0x60 4 a) 0x64 4 (a / 2 ^ 32 % 2 ^ 16)) 0x68 4 f.payload.length)
    0x6C 4 (f.port * 256 + e)) 0x40 8 (v.crva.toNat + 32 * k)

/-- Where the buffer's 64-byte pieces lie; none if one cannot be written. -/
def bufferPlaces (s : State) (a n : Nat) : Option (List Place) :=
  let ps := (List.range (pieceCount n)).map fun k => frontXlate s 0 (a + 64 * k) true
  if ps.any (·.isNone) then none else some (ps.map fun p => p.getD (.host 0))

def writePayload (s : State) (ps : List Place) (bs : List Byte) : State :=
  ((List.range ps.length).zip ps).foldl
    (fun s kp => storeNat (takeBack s kp.2 64) kp.2 (pieceLen bs.length kp.1) (bytesVal ((bs.drop (64 * kp.1)).take 64))) s

def dropFrame (s : State) (e : Nat) (v : Service) : State := setService s e { v with drops := satAdd v.drops 1 }

/-- A frame that matches an entry becomes a launch record, or is dropped. -/
def serveFrame (s : State) (e : Nat) (v : Service) (f : Frame) : State :=
  match freeBufferNo v with
  | none => dropFrame s e v
  | some k =>
    let a := v.pool.toNat + k * v.bufsz.toNat
    if f.payload.length > v.bufsz.toNat then dropFrame s e v
    else
      match bufferPlaces s a f.payload.length, frontWords s 0 v.descva.toNat 128 with
      | some ps, some ws =>
        let s1 := frontTouch (writePayload s ps f.payload) 0 v.descva.toNat 128
        let d := serviceDesc v e k f (wordsNat ws)
        match enqueue s1 v.queue.toNat ⟨d, some (e, k)⟩ with
        | .taken s' =>
          logInput (setService s' e { v with used := v.used ++ [k] }) (.service v.queue.toNat e k d)
        | .full => dropFrame s1 e v
        | .halted s' => dropFrame s' e v
      | _, _ => errReport (dropFrame s e v) 9 none none a 0

/-- The control complex receives a frame. -/
def inboundFrame (f : Frame) (s : State) : State :=
  let s1 := keepFrame s s.cc.inbound.length f.payload.length (bytesVal f.payload)
  { s1 with cc := { s1.cc with inbound := s.cc.inbound ++ [f] } }

/-- A frame that matches no entry goes to the control complex, which logs it. -/
def takeFrame (f : Frame) (s : State) : State :=
  if inReplay s then s
  else
    match s.cc.services.find? fun e => serviceMatches e.2 f with
    | some (e, v) => serveFrame s e v f
    | none => logInput (inboundFrame f s) (.frame f)

def execNetworkFrame (frame : Frame) (s : State) : Outcome State Fault Refusal := .next <| whileWorking (takeFrame frame) s

/-! ### Checkpoints (R342, R343; log entry 26) -/

/-- Quiesce: every thread is asked to stop. -/
def quiesce (resume : Bool) (s1 : State) : State :=
  s1.cores.foldl (fun s e => askStops s e.1) { s1 with cc := { s1.cc with checkpoint := some ⟨resume, false, none⟩ } }

/-- The command to checkpoint. -/
def beginCheckpoint (resume : Bool) (s : State) : State :=
  if s.cc.checkpoint.isSome || inReplay s then s else quiesce resume (logInput s (.interrupt none resume))

def execCheckpoint (resume : Bool) (s : State) : Outcome State Fault Refusal :=
  .next <| whileWorking (beginCheckpoint resume) s

/-- Threads of a core that have not stopped yet are no longer asked to, but by PARK, an eviction or a drain. -/
def withdrawStops (s : State) (c : Nat) : State :=
  if relocating s c then s
  else
    (slotThreads (getCore s c)).foldl
      (fun s e =>
        if parkWaits s c e.1 || (getCore s c).evicting = some e.1 then s
        else modThread s c e.1 fun t => { t with stopReq := false }) s

/-- A target has not acknowledged: the checkpoint ends with no manifest, and the package resumes as the command said, with
the saved threads where they have been saved. -/
def endFailed (s0 s : State) (p : Checkpoint) : State :=
  let s1 := errReport { s with cc := { s.cc with saved := none } } 10 none none 0 0
  match p.staged, p.image with
  | true, none => s0
  | true, some im => endCheckpoint p im s1
  | false, _ =>
    if p.resume then resumeAll (s1.cores.foldl (fun s e => withdrawStops s e.1) s1)
    else { s1 with cc := { s1.cc with checkpoint := some { p with staged := true } } }

/-- The failure of a checkpoint is an input of the firmware. -/
def checkpointFails (s : State) : State :=
  match s.cc.checkpoint with
  | none => s
  | some p => if inReplay s then s else endFailed s (logInput s (.storage false)) p

def execCheckpointTimeout (s : State) : Outcome State Fault Refusal := .next <| whileWorking checkpointFails s

/-- A core as an image restores it. -/
def loadCore (k : Core) (m : CoreImage) : Core :=
  let k1 := { k with
    slots := m.slots, shared := m.shared, hsegs := m.hsegs, chan := m.chan, inbox := m.inbox, tags := m.tags
    acc := m.acc, accStat := m.accStat, amax := m.amax, pwShadow := m.pwShadow, pwOver := m.pwOver, dup := m.dup
    arrivals := m.arrivals, store := m.store, paused := m.paused, evicting := none, asked := 0, joint := [], heldPlaces := 0
    refused := [], copyQ := [], copyRun := [], matQ := [], matRun := none, matWait := [], matGrant := [], accBad := [] }
  { k1 with pairs := pairsOf k1 }

/-- The image of a core that it does not name. -/
def imageFor (s : State) (im : Image) (c : Nat) : CoreImage :=
  (im.cores.find? fun m => m.core = c).getD (coreImage c (Core.blank s.booted))

/-- A saved frame names the core. -/
def CoreImage.inUse (m : CoreImage) : Bool :=
  !m.arrivals.isEmpty || !m.store.isEmpty || m.slots.toList.any fun x => x.thread?.any fun t => t.kind != .runtime

/-- The image comes back: storage, cores and launches; what was under way in the package is given up. -/
def loadImage (s0 : State) (im : Image) : State :=
  let s := takeBackAll s0
  let cs := ((s.cores.map (·.1)) ++ im.cores.map (·.core)).foldl
    (fun l c => smSet l c (loadCore (getCore s c) (imageFor s im c))) []
  { s with
    mem := im.mem.foldl (fun m e => memWrite m e.1 e.2) (s.mem.filter fun e => !ownByte e)
    empties := im.empties, cores := cs, front := im.front, flight := [], resvs := [], net := im.net, moving := []
    xl := { s.xl with tlb := [], misses := [], shoots := [], pageReqs := [], pageNotes := [] }
    jigs := .replicate 4 ⟨[], none⟩ }

/-- A restore: refused, with nothing changed, where the image does not verify or a core of it is not present. -/
def restoreImage (verified : Bool) (s : State) : State :=
  match s.cc.saved with
  | none => s
  | some im =>
    if verified && im.cores.all fun m => !m.inUse || presentCore s m.core then resumeAll (loadImage s im) else s

def execCheckpointRestore (verified : Bool) (s : State) : Outcome State Fault Refusal :=
  .next <| whileWorking (restoreImage verified) s

/-! ### Debugging and the side band (R361, R366, R368) -/

/-- A precise stop holds a thread at its next instruction boundary, with its trace record there: at once where it stands at
one, else as a stop takes effect (R267, R366). -/
def execPreciseStop (core slot : Nat) (s : State) : Outcome State Fault Refusal :=
  .next <|
    let i := leadSlot s core slot
    match threadAt s core i with
    | none => s
    | some t =>
      if t.hold then s
      else if t.role = .alone && t.pend.isNone then
        traceRecord
          (modThread (modCore s core (matForget i)) core i fun t => { abandon t with hold := true, holdReq := false })
          3 core i t.pc []
      else onPair s core i fun t => { t with holdReq := true }

/-- A lifted thread issues the instruction at which it was held; a pair's trailing one follows its leading one. -/
def execDebugHoldLift (core slot : Nat) (s : State) : Outcome State Fault Refusal :=
  .next <| onPair s core slot fun t => if t.hold then { t with hold := false, lifted := t.role != .trailing } else t

/-- Byte `i` of a list of words; none past its end. -/
def wordByte (ws : List Word) (i : Nat) : Option Byte := (ws[i / 4]?).map fun w => w.extractLsb' (8 * (i % 4)) 8

def startWords (e : StartEnt) : List Word :=
  let ws := [e.start, e.step.setWidth 32 <<< 24 ||| e.result.setWidth 32 <<< 20 ||| e.variant.setWidth 32 <<< 16 |||
    e.detail.setWidth 32, e.ms]
  ws ++ [Config.crc ws]

/-- A record of seven words with its check word. -/
def checked (ws : List Word) : List Word := ws ++ [Config.crc ws]

/-- Region 0: ETAIL, ELOST, then the ring. -/
def dumpErrors (s : State) (off : Nat) : Option Byte :=
  if off < 8 then wordByte [s.cc.etail.setWidth 32, s.cc.elost] off
  else if off - 8 < 32 * ringLen s.cc.eorder then some (readByte s (.host (s.cc.ebase.toNat + (off - 8)))) else none

/-- The states of a slot, numbered (log entry 28). -/
def slotState (x : Slot) : Nat :=
  match x.content with
  | .vacant => 0
  | .exited _ => 5
  | .scrubbing => 0
  | .thread t =>
    if t.stopped || t.hold then 4
    else match t.status with | .ready => 1 | .waitMem => 2 | .waitMsg => 3 | .parked => 4

/-- Region 1: for each slot of each core its state, PC, TCAUSE, TPC and TVAL. -/
def dumpSlots (s : State) (off : Nat) : Option Byte :=
  let c := off / 320
  if c ≥ Config.cores then none
  else
    let x := getSlot s c (off / 20 % 16)
    let t := (x.thread?).getD Thread.blank
    wordByte (if presentCore s c then [BitVec.ofNat 32 (slotState x), t.pc, t.tcause, t.tpc, t.tval] else List.replicate 5 0)
      (off % 20)

/-- Region 2: for each die in turn the offsets of its buffer, and the buffer. -/
def dumpTraces (s : State) : List Nat → Nat → Option Byte
  | [], _ => none
  | d :: ds, off =>
    let t := traceOf s d
    if off < 16 then wordByte [halfOf t.rd 0, halfOf t.rd 4, halfOf t.wr 0, halfOf t.wr 4] off
    else if off - 16 < t.len.toNat then some (readByte s (.hbm d (t.base.toNat + (off - 16))))
    else dumpTraces s ds (off - 16 - t.len.toNat)

/-- Region 3: the header, the die summaries, the core entries and the start-up log (R297, R360). -/
def dumpLife (s : State) (off : Nat) : Option Byte :=
  if off < 64 then wordByte ([1, s.life.serial, s.life.hoursMade] ++ List.replicate 13 0) off
  else if off < 192 then
    wordByte (checked (sumWords ((s.life.recordSums[(off - 64) / 32]?).getD ⟨0, 64, false⟩))) ((off - 64) % 32)
  else if off < 192 + 66560 * 32 then
    wordByte (checked (entryWords (recordEntry s ((off - 192) / 32)))) ((off - 192) % 32)
  else
    let n := off - (192 + 66560 * 32)
    (s.life.startLog[n / 16]?).bind fun e => wordByte (startWords e) (n % 16)

/-- A byte of the replay log, entry after entry. -/
def dumpReplay : List Stamped → Nat → Option Byte
  | [], _ => none
  | e :: es, off =>
    if off < (stampedBytes e).length then (stampedBytes e)[off]? else dumpReplay es (off - (stampedBytes e).length)

/-- A byte of a dump region; none past its end (log entry 28). -/
def dumpByte (s : State) (region off : Nat) : Option Byte :=
  match region with
  | 0 => dumpErrors s off
  | 1 => dumpSlots s off
  | 2 => dumpTraces s [0, 1, 2, 3] off
  | 3 => dumpLife s off
  | 4 => dumpReplay s.cc.replay off
  | 5 => if s.cc.fatal then some (readByte s (physPlace off)) else none
  | _ => none

/-- The host link is not there: start-up has not trained it, or a fatal error has had it contained (R357, R359, R361; log
entry 28). -/
def hostDown (s : State) : Bool := s.cc.fatal || s.cc.recovery || !s.booted

/-- A dump request; it is answered while the host link is down or contained, and not otherwise (log entry 28). -/
def execSidebandDump (region offset len : Nat) (s : State) : Outcome State Fault Refusal :=
  .next <|
    if hostDown s then answer s ((List.range (min len 48)).filterMap fun k => dumpByte s region (offset + k)) else s

/-- The next start verifies the new image, which takes the place of image A (log entry 27). -/
def execFirmwareUpdate (image : Nat) (s : State) : Outcome State Fault Refusal :=
  .next { s with cc := { s.cc with images := s.cc.images.set 0 image } }

def execRetryRequest (s : State) : Outcome State Fault Refusal := .next { s with cc := { s.cc with retry := true } }

/-! ### Errors (R68, R168, R293, R356) -/

/-- The core whose storage a flat address lies in. -/
def coreOfFlat (a : Nat) : Option Nat :=
  if a / 2 ^ 56 = 0 then some (a / 2 ^ 16) else if a / 2 ^ 56 = 4 then some (a % 2 ^ 56 / 2 ^ 14) else none

/-- The bank of a flat address (R67, R168): a store's unit with its number, or a 64-byte piece of HBM or host memory. -/
def bankOf (a : Nat) : Nat :=
  match a / 2 ^ 56 with
  | 0 => a / 2 ^ 16 * 64 + a / 4 % 16
  | 1 => 2 ^ 56 + a % 2 ^ 56 / 2 ^ 17 * 64 + a / 4 % 16
  | 2 => 2 * 2 ^ 56 + a % 2 ^ 56 / 2 ^ 27 * 64 + a / 64 % 64
  | 3 => 3 * 2 ^ 56 + a % 2 ^ 56 / 2 ^ 14 * 64
  | 4 => 4 * 2 ^ 56 + a % 2 ^ 56 / 2 ^ 14 * 64
  | r => r * 2 ^ 56 + a % 2 ^ 56 / 64

/-- A corrected error of a bank is counted there, and in the lifetime entry of the core whose storage it is. -/
def correctedAt (s : State) (a : Nat) : State :=
  let s1 := { s with bankErrs := smSet s.bankErrs (bankOf a) ((smGet s.bankErrs (bankOf a)).getD 0 + 1) }
  match coreOfFlat a with
  | some c => corrected s1 1 c none a 0
  | none => errReport s1 1 none none a 0

def softError (place : ErrPlace) (correctable : Bool) (s : State) : State :=
  match place with
  | .word a => if correctable then correctedAt s a else { s with bads := setAdd s.bads (a / 4) }
  | .thread c i =>
    if correctable then corrected s 1 c (some i) 0 (((threadAt s c i).map (·.lid)).getD 0)
    else modThread s c i fun t => { t with killed := true }
  | .tile c n => if correctable then corrected s 1 c none 0 0 else modCore s c fun k => { k with accBad := setAdd k.accBad (n % 4) }
  | .control => if correctable then errReport s 1 none none 0 0 else fatalStop s 18 none none
  | .packageWide => if correctable then errReport s 1 none none 0 0 else fatalStop s 19 none none

def execSoftError (place : ErrPlace) (correctable : Bool) (s : State) : Outcome State Fault Refusal :=
  .next <| whileWorking (softError place correctable) s

/-! ### Power and temperature (R295, R296, R369) -/

/-- VT of a temperature in °C and a setpoint in millivolts (R296). -/
def stressTf (temp : Nat) : Nat :=
  if temp ≤ 55 then 1 else if temp ≤ 70 then 2 else if temp ≤ 85 then 3 else if temp ≤ 95 then 4
  else if temp ≤ 105 then 6 else 8
def stressVf (mv : Nat) : Nat := if mv ≤ 700 then 2 else if mv ≤ 800 then 4 else 6

def execStressTick (core temp mv : Nat) (s : State) : Outcome State Fault Refusal :=
  .next <|
    let pc := physCore s core
    let l := liveOf s pc
    modCore
      (setLive s pc
        { l with
          temp := temp, tempSum := l.tempSum + temp, tempCount := l.tempCount + 1
          entry := { l.entry with tmax := BitVec.ofNat 8 (max l.entry.tmax.toNat (min temp 255)) } })
      core fun k => { k with vt := stressTf temp * stressVf mv }

def execPowerSample (milliwatts : Nat) (s : State) : Outcome State Fault Refusal :=
  .next { s with cc := { s.cc with samples := milliwatts :: s.cc.samples.take 9 } }

/-- A change of a die's clock: every core's next record is absolute, and where TYPE 5 records are enabled that is each
core's record of the change (R364). -/
def setClock (s : State) (d mhz : Nat) : State :=
  if (s.cc.clock[d]?).getD 940 = mhz then s
  else
    let s1 := forgetTimes { s with cc := { s.cc with clock := s.cc.clock.setIfInBounds d mhz } } d
    if (traceOf s1 d).ctl.getLsbD 31 && (traceOf s1 d).ctl.getLsbD 5 then
      ((List.range Config.coresPerDie).map (d * Config.coresPerDie + ·)).foldl
        (fun s c => if presentCore s c then traceRecord s 5 c 0 0 [BitVec.ofNat 32 mhz] else s) s1
    else s1

def clockOf (s : State) (d : Nat) : Nat := (s.cc.clock[d]?).getD 940

/-- The eighths that a die loses by its own heat. -/
def heatOf (s : State) (d : Nat) : Nat := (s.cc.heat[d]?).getD 0
def setHeat (s : State) (d k : Nat) : State := { s with cc := { s.cc with heat := s.cc.heat.setIfInBounds d k } }

def lowerAll (s : State) : State := (List.range 4).foldl (fun s d => setClock s d (max 470 (clockOf s d - 10))) s
/-- Clocks rise again on the dies that are not too hot. -/
def raiseAll (hot : List Nat) (s : State) : State :=
  (List.range 4).foldl
    (fun s d => if (hot[d]?).getD 0 > 105 || heatOf s d > 0 then s else setClock s d (min 940 (clockOf s d + 10))) s

def setEighths (s : State) (k : Nat) : State := { s with cc := { s.cc with eighths := k } }

/-- The adjustment while the average exceeds the limit: every die's clock, then the eighths, then the count to the trip. -/
def powerStep (s : State) : State :=
  if (List.range 4).any fun d => clockOf s d > 470 then lowerAll s
  else if s.cc.eighths < 7 then setEighths s (s.cc.eighths + 1)
  else { s with cc := { s.cc with overMs := s.cc.overMs + 1 } }

/-- One die by its hottest sensor: above 105 °C its clock falls, unless it has fallen in this millisecond already, and at
470 MHz its own eighths rise; else its eighths fall (R369; log entry 79). `before` is the clock before this
millisecond. -/
def heatDie (before : Nat → Nat) (s : State) (e : Nat × Nat) : State :=
  if e.2 > 105 then
    if before e.1 > 470 then
      (if clockOf s e.1 < before e.1 then s else setClock s e.1 (max 470 (before e.1 - 10)))
    else setHeat s e.1 (min 7 (heatOf s e.1 + 1))
  else setHeat s e.1 (heatOf s e.1 - 1)

/-- The adjustment of each die for its own heat. -/
def heatStep (hot : List Nat) (before : Nat → Nat) (s : State) : State :=
  ((List.range 4).zip hot).foldl (heatDie before) s

/-- The adjustment while the average is well below the limit. -/
def easeStep (hot : List Nat) (s : State) : State :=
  if s.cc.eighths > 0 then setEighths s (s.cc.eighths - 1) else raiseAll hot s

def average (l : List Nat) : Nat := l.foldl (· + ·) 0 / max 1 l.length

/-- One millisecond's adjustments. -/
def powerAdjust (hot : List Nat) (s : State) : State :=
  let avg := average s.cc.samples
  let s1 := if avg > Config.powerLimit then powerStep s else { s with cc := { s.cc with overMs := 0 } }
  let s2 := heatStep hot (clockOf s) s1
  if avg * 100 < Config.powerLimit * 97 then easeStep hot s2 else s2

/-- The end of a millisecond; `hot` holds each die's hottest sensor in °C. -/
def powerTick (hot : List Nat) (s : State) : State :=
  let s1 := powerAdjust hot s
  if s1.cc.overMs ≥ 10 || hot.any (· > 115) then fatalStop s1 20 none none else s1

def execPowerTick (hot : List Nat) (s : State) : Outcome State Fault Refusal := .next <| whileWorking (powerTick hot) s

/-! ### The lifetime record (R297 to R301, R303) -/

/-- R300; the class never falls. -/
def classOf (e : CoreEntry) : Nat :=
  max e.cls.toNat (min 31 (max (32 * e.bti.toNat / e.btil.toNat) (32 * e.em.toNat / 65536)))

/-- A gauge that never falls: its new reading is free (log entry 9). -/
def gauge (old : BitVec 16) (k : Nat) : BitVec 16 :=
  BitVec.ofNat 16 (old.toNat + Config.freeNat k % (65536 - old.toNat))

/-- A core's gauges after another powered hour. -/
def hourly (free pc : Nat) (l : Live) : Live :=
  let e := l.entry
  let e1 := { e with
    hours := e.hours + 1, bti := gauge e.bti (free + 2 * pc), em := gauge e.em (free + 2 * pc + 1)
    tavg := if l.tempCount = 0 then e.tavg else BitVec.ofNat 8 (min 255 (l.tempSum / l.tempCount)) }
  let e2 := { e1 with cls := BitVec.ofNat 5 (classOf e1) }
  { l with
    tempSum := 0, tempCount := 0
    entry := if e2.state = .healthy && e2.cls.toNat ≥ 24 then { e2 with state := .derated, cause := 1 } else e2 }

/-- Every physical core of the package. -/
def physCores : Nat := 66560

/-- Logical cores whose class has reached 30 drain. -/
def drainWorn (s : State) : State :=
  (s.life.live.filter fun e => e.2.entry.cls.toNat ≥ 30 && (e.2.entry.state = .healthy || e.2.entry.state = .derated)).foldl
    (fun s e => drainQuad s e.2.entry.lcore.toNat 1) s

def execLifetimeWrite (s : State) : Outcome State Fault Refusal :=
  .next <|
    let live := (List.range physCores).map fun pc => (pc, hourly s.free pc (liveOf s pc))
    drainWorn
      { s with
        free := s.free + 2 * physCores
        life := { s.life with
          live := live, record := live.map fun e => (e.1, e.2.entry), recordSums := s.life.sums
          hoursMade := s.life.hoursMade + 1 } }

/-- A power loss: the package starts again from the record of the last complete hour; the firmware images, what the
targets of a checkpoint hold, host memory and other packages lie outside it. -/
def execPowerLoss (s : State) : Outcome State Fault Refusal :=
  .next
    { State.reset with
      mem := s.mem.filter fun e => !ownByte e, bads := s.bads.filter fun w => !ownByte (4 * w, 0)
      serial := s.serial, free := s.free
      life := { s.life with
        live := s.life.record.map fun e => (e.1, { freshLive e.1 with entry := e.2 }), sums := s.life.recordSums
        draining := [], before := s.life.before + s.time.toNat }
      cc := { Control.blank with
        pkg := s.cc.pkg, pod := s.cc.pod, images := s.cc.images, image := s.cc.image, retry := s.cc.retry
        saved := s.cc.saved } }

/-- A drained quad with no spare to move to stops being present, at the control complex's choice (R303). -/
def execCorePresenceEnd (quad : Nat) (s : State) : Outcome State Fault Refusal :=
  .next <|
    if !(relocating s (4 * quad)) && (List.range 4).all fun j =>
        healthOf s (4 * quad + j) = .drained || healthOf s (4 * quad + j) = .retired
    then { s with life := { s.life with gone := setAdd s.life.gone quad } } else s

/-! ### Replay (R367; log entry 78) -/

/-- The next input of a log that is replayed can be taken now. A page request, the end of a checkpoint and a read of the counter
are taken from the log where they occur. -/
def replayReady (s : State) : Bool :=
  match s.cc.toReplay.head? with
  | none => false
  | some e =>
    match e.what with
    | .frame _ | .service .. | .doorbell .. => true
    | .interrupt none _ => s.cc.checkpoint.isNone
    | .storage false => s.cc.checkpoint.any (·.image.isSome)
    | .storage true | .interrupt (some _) _ | .counter _ => false

/-- A launch of the service table enters its queue with the same contents. -/
def replayService (s : State) (q n b d : Nat) : State :=
  match enqueue s q ⟨d, some (n, b)⟩ with
  | .taken s' => setService s' n { serviceAt s' n with used := (serviceAt s' n).used ++ [b] }
  | .full => s
  | .halted s' => s'

/-- The firmware takes the next input from the log. -/
def replayStep (s : State) : State :=
  match if replayReady s then s.cc.toReplay.head? else none with
  | none => s
  | some e =>
    let s1 := replayTake s e
    match e.what with
    | .frame f => inboundFrame f s1
    | .service q n b d => replayService s1 q n b d
    | .doorbell q t => modQueue s1 q fun x => { x with tail := BitVec.ofNat 16 t }
    | .interrupt _ resume => quiesce resume s1
    | .storage _ => match s1.cc.checkpoint with | some p => endFailed s s1 p | none => s1
    | .counter _ => s1

/-- A write to a unit's register; one to the replay's second word takes the next input of the log. -/
def execRegisterWrite (reg : UnitReg) (size : Nat) (value : BitVec 64) (s : State) : Outcome State Fault Refusal :=
  .next <|
    if reg.unit = .replay && reg.offset = 4 && size = 4 then whileWorking replayStep s
    else unlessRecovery (writeUnit reg.unit reg.offset size value) s

end Sys2Proof.Machine
end

