-- ==== Sys2Proof/Machine/Special.lean ====
section
/-! DEFINITION. Special and shared registers: MFS, MTS, MFSP, MTSP (R40, R81, R116 to R119, R146, R178, R210, R235, R253,
R277, R296, R365). -/

namespace Sys2Proof.Machine

open Host (Outcome)

/-! ### Shared registers (R117) -/

/-- Writes 16 cycles old or older are the register's value. -/
def settleShared (now : Nat) : Shared → Shared
  | ⟨v, [], seen⟩ => ⟨v, [], seen⟩
  | ⟨v, w :: ws, seen⟩ =>
    let n := ((w :: ws).filter fun e => e.1 + 16 ≤ now).length
    ⟨((w :: ws)[n - 1]?).elim v fun e => if n = 0 then v else e.2, (w :: ws).drop n, seen.map (· - n)⟩

/-- The value after the first `k` young writes. -/
def Shared.after (r : Shared) (k : Nat) : Word := if k = 0 then r.val else ((r.writes[k - 1]?).map (·.2)).getD r.val

def sharedAt (k : Core) (n : Nat) : Shared := settleShared k.cycle ((k.shared[n]?).getD ⟨0, [], .replicate 16 0⟩)
def Core.setShared (k : Core) (n : Nat) (r : Shared) : Core := { k with shared := k.shared.setIfInBounds n r }

/-- A read by slot `i`: any young write from the last one it has seen on, which one is free (log entry 9). -/
def readShared (s : State) (c i n : Nat) : State × Word :=
  let r := sharedAt (getCore s c) n
  let least := (r.seen[i]?).getD 0
  if r.writes.length ≤ least then (s, r.after r.writes.length)
  else
    let pick := least + Config.freeNat s.free % (r.writes.length - least + 1)
    (modCore { s with free := s.free + 1 } c fun k => k.setShared n { r with seen := r.seen.setIfInBounds i pick },
      r.after pick)

def writeShared (s : State) (c n : Nat) (v : Word) : State :=
  modCore s c fun k => k.setShared n { sharedAt k n with writes := (sharedAt k n).writes ++ [(k.cycle, v)] }

/-! ### Bank 00 (R40) -/

/-- The value of a special register for the thread in slot `i` of core `c`. -/
def specialValue (s : State) (c i : Nat) (t : Thread) (n : Nat) : Word :=
  match n with
  | 0 => BitVec.ofNat 32 i
  | 1 => BitVec.ofNat 32 c
  | 2 => BitVec.ofNat 32 (quadOf c)
  | 3 => BitVec.ofNat 32 (dieOf c)
  | 4 => BitVec.ofNat 32 (s.cc.pkg % 1024)
  | 5 => BitVec.ofNat 32 (s.cc.pod % 1024)
  | 6 => t.rank
  | 7 => t.npop
  | 8 => t.lid
  | 9 => BitVec.ofNat 32 t.lim
  | 10 => t.fpst.setWidth 32
  | 11 => t.wlim
  | 12 => (getCore s c).tags.setWidth 32
  | 13 => (getCore s c).tags.extractLsb' 32 32
  | 14 => s.time.setWidth 32
  | 15 => t.timeLatch
  | 16 => t.wear
  | 17 => t.ecost
  | 18 => t.qbase
  | 19 => t.qstride
  | 20 => t.upc
  | 21 => t.tvec
  | 22 => t.tcause
  | 23 => t.tpc
  | _ => t.tval

/-- The registers whose value comes from outside the thread, the identity registers of R118 among them, for a pair's
load-value queue (R286). -/
def outsideSpecial (n : Nat) : Bool := n ≤ 9 || (12 ≤ n && n ≤ 17)

/-- What a read of a special register takes from outside: its value, and with TIMELO the counter's high half (R286,
R365). -/
def specialWords (s : State) (c i : Nat) (t : Thread) (n : Nat) : List Word :=
  specialValue s c i t n :: if n = 14 then [s.time.extractLsb' 32 32] else []

/-- A read of TIMELO copies the high half of the same reading into the time latch (R365). -/
def latchTime (t : Thread) (n : Nat) (hi : Word) : Thread := if n = 14 then { t with timeLatch := hi } else t

/-- What MTS writes; `all` also writes the fields that MTSP alone reaches (R253, R277). -/
def writeSpecial (t : Thread) (n : Nat) (v : Word) (all : Bool) : Thread :=
  match n with
  | 10 => { t with fpst := v.setWidth 5 }
  | 11 => { t with wlim := v }
  | 18 => { t with qbase := v &&& 0xFFFFFFFC }
  | 19 => { t with qstride := v &&& 0x0000FFFC }
  | 20 => { t with upc := v &&& 0xFFFFFFFE }
  | 21 => { t with tvec := v &&& 0xFFFFFFFE }
  | 22 => if all then { t with tcause := v &&& 0x8000FFFF } else t
  | 23 => { t with tpc := v }
  | 24 => if all then { t with tval := v } else t
  | _ => t

/-! ### The instructions -/

/-- Numbers of the load-value queue that name a special or a shared register. -/
def specialKey (bank n : Nat) : Nat := 2 ^ 40 + bank * 32 + n

/-- A read of bank 00 or 01. -/
def readBank (o : ShSp) (x : Ctx) (t : Thread) (s : State) : Res :=
  let n := o.num.toNat
  if o.bank = 1 then
    let r := readShared s x.core x.slot n
    takeOutside (if t.role = .trailing then s else r.1) x t [(specialKey 1 n, 4, [r.2])] none
      fun s' vs _ => .ok (modThread s' x.core x.slot fun t => wrReg t o.a.toNat (vs.headD 0))
  else if outsideSpecial n then
    takeOutside s x t [(specialKey 0 n, 4, specialWords s x.core x.slot t n)] none
      fun s' vs _ => .ok (modThread s' x.core x.slot fun t =>
        wrReg (latchTime t n ((vs[1]?).getD 0)) o.a.toNat (vs.headD 0))
  else done s x (wrReg t o.a.toNat (specialValue s x.core x.slot t n))

/-- A write of bank 00 or 01. -/
def writeBank (o : ShSp) (all : Bool) (x : Ctx) (t : Thread) (s : State) : Res :=
  if o.bank = 1 then .ok (writeShared s x.core o.num.toNat (rdReg t o.a.toNat))
  else done s x (writeSpecial t o.num.toNat (rdReg t o.a.toNat) all)

/-- A privileged register through MFS or MTS traps PRIV before anything else (R40, R33). -/
def privOp (_ : Ctx) (_ : Thread) (_ : State) : Res := .trap .priv 0 0

def execMfs (o : ShSp) : State → Outcome State Fault Refusal :=
  if o.bank = 2 then issue (o.use [] []) privOp else issue (o.use [] [o.a.toNat]) (readBank o)
/-- A pair writes a shared register once only (R290). -/
def execMts (o : ShSp) : State → Outcome State Fault Refusal :=
  if o.bank = 2 then issue (o.use [] []) privOp
  else if o.bank = 1 then issue (o.use [o.a.toNat] []).oncely (writeBank o false)
  else issue (o.use [o.a.toNat] []) (writeBank o false)

/-- Bank 10: HSEGS and ASN (R277). -/
def execMfsp (o : ShSp) : State → Outcome State Fault Refusal :=
  issue (o.use [] [o.a.toNat]).slot0 fun x t s =>
    if o.bank = 2 then
      done s x (wrReg t o.a.toNat (if o.num = 0 then (getCore s x.core).hsegs else BitVec.ofNat 32 t.asn))
    else readBank o x t s

/-- A write of HSEGS that is not a multiple of 64 leaves it unchanged; ASN is read-only (R277). -/
def writeHsegs (k : Core) (v : Word) : Core :=
  if (v &&& 0xFFFF).toNat % 64 = 0 then { k with hsegs := v &&& 0xFFFF } else k

def execMtsp (o : ShSp) : State → Outcome State Fault Refusal :=
  issue (o.use [o.a.toNat] []).slot0 fun x t s =>
    if o.bank = 2 then
      .ok (if o.num = 0 then modCore s x.core fun k => writeHsegs k (rdReg t o.a.toNat) else s)
    else writeBank o true x t s

end Sys2Proof.Machine
end

