-- ==== Sys2Proof/Machine/Tagged.lean ====
section
/-! DEFINITION. Tagged accesses, watches, WAIT, atomics, reservations and FENCE (R175 to R186). -/

namespace Sys2Proof.Machine

open Host (Outcome)

/-- The rights of the page-4 accesses (R181). -/
def needRT : Need := ⟨true, false, false, true⟩
def needRWT : Need := ⟨true, true, false, true⟩
def needWT : Need := ⟨false, true, false, true⟩
def needRWA : Need := ⟨true, true, true, false⟩
def needWA : Need := ⟨false, true, true, false⟩

/-- A word access with a data register: KIND, rights, what it does, its data. -/
def wordOp (o : ShM) (kno : Nat) (need : Need) (kind : AccKind) (dsts : List Nat) (data data2 : Thread → Word)
    (x : Ctx) (t : Thread) (s : State) : Res :=
  memAccess x t s (o.mem.sel t) (o.mem.off t 4) 4 4 need kno o.rlx (some (o.b.toNat, o.mem.sb)) dsts kind (data2 t)
    (onePart o.a.toNat 4 (data t) false)

/-- The data register of a store or an atomic. -/
def dataA (o : ShM) (t : Thread) : Word := rdReg t o.a.toNat
def noData (_ : Thread) : Word := 0

def execLde (o : ShM) : State → Outcome State Fault Refusal :=
  issue (o.useLoad true).oncely (wordOp o 4 needRT .lde [o.a.toNat] noData noData)
def execLdt (o : ShM) : State → Outcome State Fault Refusal :=
  issue (o.useLoad true).oncely (wordOp o 4 needRWT .ldt [o.a.toNat] noData noData)
def execStf (o : ShM) : State → Outcome State Fault Refusal :=
  issue (o.useStore true).oncely (wordOp o 4 needWT .stf [] (dataA o) noData)
def execSte (o : ShM) : State → Outcome State Fault Refusal :=
  issue (o.useStore true).oncely (wordOp o 4 needWT .ste [] (dataA o) noData)

/-- A word access without RLX (TAGRD, RSV, RLS). -/
def plainOp (o : ShMN) (kno : Nat) (need : Need) (kind : AccKind) (dsts : List Nat) (data : Thread → Word)
    (x : Ctx) (t : Thread) (s : State) : Res :=
  memAccess x t s (o.mem.sel t) (o.mem.off t 4) 4 4 need kno none (some (o.b.toNat, o.mem.sb)) dsts kind 0
    (onePart o.a.toNat 4 (data t) false)

def plainLoadUse (o : ShMN) : Use := .of o.p o.words o.mem.srcs o.mem.sync [o.a.toNat]
def plainStoreUse (o : ShMN) : Use := .of o.p o.words (o.a.toNat :: o.mem.srcs) o.mem.sync []
def watchUse (o : ShMZ) : Use := .of o.p o.words o.mem.srcs o.mem.sync []

def execTagrd (o : ShMN) : State → Outcome State Fault Refusal :=
  issue (plainLoadUse o).oncely (plainOp o 4 needRT .tagrd [o.a.toNat] noData)

/-! ### Watches and WAIT (R177, R183) -/

/-- Arms a line: f1 says whether the slot has it. -/
def armLine (t : Thread) (l : Nat) : Thread :=
  if t.watches.contains l then setFlag t 1 true
  else if t.watches.length < 4 then setFlag { t with watches := t.watches ++ [l] } 1 true
  else setFlag t 1 false
/-- Disarms a line; WAKE is cleared with the last one. -/
def disarmLine (t : Thread) (l : Nat) : Thread :=
  if t.watches.contains l then
    { t with watches := t.watches.filter fun w => w != l
             wake := t.wake && !(t.watches.filter fun w => w != l).isEmpty }
  else t

/-- WATCH and UNWATCH: the line of a local or quad word; a REMOTE one traps SEGV (R171). -/
def lineOp (o : ShMZ) (f : Thread → Nat → Thread) (x : Ctx) (t : Thread) (s : State) : Res :=
  let sel := o.mem.sel t
  let off := o.mem.off t 4
  if !mayIssue s x none then .wait .waitMem id
  else
    match locate s x.core t sel off 4 4 needRT with
    | .trap c _ => .trap c 4 (namedAddr sel off)
    | .away owner => migrate x t s owner 4 (namedAddr sel off)
    | .here p _ _ => done s x (f t (lineKey p))
    | _ => .trap .segv 4 (namedAddr sel off)

def execWatch (o : ShMZ) : State → Outcome State Fault Refusal := issue (watchUse o).oncely (lineOp o armLine)
def execUnwatch (o : ShMZ) : State → Outcome State Fault Refusal := issue (watchUse o).oncely (lineOp o disarmLine)
/-- WAIT goes on at once with WAKE set, and otherwise parks (R183). -/
def execWait (o : ShZ) : State → Outcome State Fault Refusal :=
  issue o.use.oncely fun x t s => if t.wake then done s x { t with wake := false } else .hold s .park .parked 0

/-! ### Atomics (R184) -/

def execAmoadd (o : ShM) : State → Outcome State Fault Refusal :=
  issue (o.useBoth true).oncely (wordOp o 3 needRWA (.amo 0) [o.a.toNat] (dataA o) noData)
def execAmomin (o : ShM) : State → Outcome State Fault Refusal :=
  issue (o.useBoth true).oncely (wordOp o 3 needRWA (.amo 1) [o.a.toNat] (dataA o) noData)
def execAmomax (o : ShM) : State → Outcome State Fault Refusal :=
  issue (o.useBoth true).oncely (wordOp o 3 needRWA (.amo 2) [o.a.toNat] (dataA o) noData)
def execAmoand (o : ShM) : State → Outcome State Fault Refusal :=
  issue (o.useBoth true).oncely (wordOp o 3 needRWA (.amo 3) [o.a.toNat] (dataA o) noData)
def execAmoor (o : ShM) : State → Outcome State Fault Refusal :=
  issue (o.useBoth true).oncely (wordOp o 3 needRWA (.amo 4) [o.a.toNat] (dataA o) noData)
def execAmoxor (o : ShM) : State → Outcome State Fault Refusal :=
  issue (o.useBoth true).oncely (wordOp o 3 needRWA (.amo 5) [o.a.toNat] (dataA o) noData)
def execAmoswp (o : ShM) : State → Outcome State Fault Refusal :=
  issue (o.useBoth true).oncely (wordOp o 3 needRWA (.amo 6) [o.a.toNat] (dataA o) noData)
/-- AMOCAS also reads g(A+1). -/
def casUse (o : ShM) : Use :=
  .of o.p (o.words true) (o.a.toNat :: (o.a.toNat + 1) :: o.mem.srcs) o.mem.sync [o.a.toNat]
def execAmocas (o : ShM) : State → Outcome State Fault Refusal :=
  issue (casUse o).oncely
    (wordOp o 3 needRWA .cas [o.a.toNat] (dataA o) fun t => rdReg t (o.a.toNat + 1))

/-! ### Reservations (R180, R185) -/

/-- RSV gives up a reservation the thread holds and asks for the word's. -/
def execRsv (o : ShMN) : State → Outcome State Fault Refusal :=
  issue (plainLoadUse o).oncely fun x t s =>
    match plainOp o 3 needRWA .rsv [o.a.toNat] noData x t s with
    | .wait st f => .wait st f
    | .trap c k v => .trap c k v
    | .trapX y f => .trapX y f
    | _ =>
      let s1 := forceRelease s x.core x.slot
      plainOp o 3 needRWA .rsv [o.a.toNat] noData x ((threadAt s1 x.core x.slot).getD t) s1
def execRls (o : ShMN) : State → Outcome State Fault Refusal :=
  issue (plainStoreUse o).oncely (plainOp o 3 needWA .rls [] fun t => rdReg t o.a.toNat)

/-! ### FENCE (R186, R196) -/

/-- FENCE waits until the thread's accesses, its streams' words among them, have performed at the scope; FENCE.lane
completes at once. -/
def execFence (o : ShSc) : State → Outcome State Fault Refusal :=
  issue o.use.oncely fun x t s =>
    if o.scope = 0 || allPerformed s x.core x.slot o.scope.toNat then done s x t
    else .wait .waitMem id

end Sys2Proof.Machine
end

