-- ==== Sys2Proof/Machine/Dispatch.lean ====
section
/-! DEFINITION. The meaning of every instruction and event: one arm each. -/

namespace Sys2Proof.Machine

open Host (Outcome)

def exec (i : Instr) (s : State) : Host.Outcome State Fault Refusal :=
  match i with
  | .add o => Sys2Proof.Machine.execAdd o s
  | .sub o => Sys2Proof.Machine.execSub o s
  | .and o => Sys2Proof.Machine.execAnd o s
  | .or o => Sys2Proof.Machine.execOr o s
  | .xor o => Sys2Proof.Machine.execXor o s
  | .andn o => Sys2Proof.Machine.execAndn o s
  | .shl o => Sys2Proof.Machine.execShl o s
  | .shr o => Sys2Proof.Machine.execShr o s
  | .sra o => Sys2Proof.Machine.execSra o s
  | .mul o => Sys2Proof.Machine.execMul o s
  | .mov o => Sys2Proof.Machine.execMov o s
  | .addi o => Sys2Proof.Machine.execAddi o s
  | .movi o => Sys2Proof.Machine.execMovi o s
  | .andi o => Sys2Proof.Machine.execAndi o s
  | .shli o => Sys2Proof.Machine.execShli o s
  | .shri o => Sys2Proof.Machine.execShri o s
  | .srai o => Sys2Proof.Machine.execSrai o s
  | .ceq o => Sys2Proof.Machine.execCeq o s
  | .cne o => Sys2Proof.Machine.execCne o s
  | .clt o => Sys2Proof.Machine.execClt o s
  | .cltu o => Sys2Proof.Machine.execCltu o s
  | .cle o => Sys2Proof.Machine.execCle o s
  | .cleu o => Sys2Proof.Machine.execCleu o s
  | .ceqi o => Sys2Proof.Machine.execCeqi o s
  | .clti o => Sys2Proof.Machine.execClti o s
  | .ldb o => Sys2Proof.Machine.execLdb o s
  | .ldbs o => Sys2Proof.Machine.execLdbs o s
  | .ldh o => Sys2Proof.Machine.execLdh o s
  | .ldhs o => Sys2Proof.Machine.execLdhs o s
  | .ldw o => Sys2Proof.Machine.execLdw o s
  | .stb o => Sys2Proof.Machine.execStb o s
  | .sth o => Sys2Proof.Machine.execSth o s
  | .stw o => Sys2Proof.Machine.execStw o s
  | .ldv o => Sys2Proof.Machine.execLdv o s
  | .stv o => Sys2Proof.Machine.execStv o s
  | .br o => Sys2Proof.Machine.execBr o s
  | .bf o => Sys2Proof.Machine.execBf o s
  | .bnf o => Sys2Proof.Machine.execBnf o s
  | .call o => Sys2Proof.Machine.execCall o s
  | .jr o => Sys2Proof.Machine.execJr o s
  | .jalr o => Sys2Proof.Machine.execJalr o s
  | .div o => Sys2Proof.Machine.execDiv o s
  | .divu o => Sys2Proof.Machine.execDivu o s
  | .rem o => Sys2Proof.Machine.execRem o s
  | .remu o => Sys2Proof.Machine.execRemu o s
  | .mulh o => Sys2Proof.Machine.execMulh o s
  | .mulhu o => Sys2Proof.Machine.execMulhu o s
  | .min o => Sys2Proof.Machine.execMin o s
  | .max o => Sys2Proof.Machine.execMax o s
  | .minu o => Sys2Proof.Machine.execMinu o s
  | .maxu o => Sys2Proof.Machine.execMaxu o s
  | .clz o => Sys2Proof.Machine.execClz o s
  | .ctz o => Sys2Proof.Machine.execCtz o s
  | .popc o => Sys2Proof.Machine.execPopc o s
  | .brev o => Sys2Proof.Machine.execBrev o s
  | .rot o => Sys2Proof.Machine.execRot o s
  | .sext o => Sys2Proof.Machine.execSext o s
  | .zext o => Sys2Proof.Machine.execZext o s
  | .sel o => Sys2Proof.Machine.execSel o s
  | .fAnd o => Sys2Proof.Machine.execFAnd o s
  | .fOr o => Sys2Proof.Machine.execFOr o s
  | .fXor o => Sys2Proof.Machine.execFXor o s
  | .fNot o => Sys2Proof.Machine.execFNot o s
  | .mff o => Sys2Proof.Machine.execMff o s
  | .mtf o => Sys2Proof.Machine.execMtf o s
  | .loop o => Sys2Proof.Machine.execLoop o s
  | .vadd o => Sys2Proof.Machine.execVadd o s
  | .vsub o => Sys2Proof.Machine.execVsub o s
  | .vmul o => Sys2Proof.Machine.execVmul o s
  | .vmin o => Sys2Proof.Machine.execVmin o s
  | .vmax o => Sys2Proof.Machine.execVmax o s
  | .vand o => Sys2Proof.Machine.execVand o s
  | .vor o => Sys2Proof.Machine.execVor o s
  | .vxor o => Sys2Proof.Machine.execVxor o s
  | .vshl o => Sys2Proof.Machine.execVshl o s
  | .vshr o => Sys2Proof.Machine.execVshr o s
  | .vsra o => Sys2Proof.Machine.execVsra o s
  | .vceq o => Sys2Proof.Machine.execVceq o s
  | .vclt o => Sys2Proof.Machine.execVclt o s
  | .vsel o => Sys2Proof.Machine.execVsel o s
  | .vbcast o => Sys2Proof.Machine.execVbcast o s
  | .vext o => Sys2Proof.Machine.execVext o s
  | .vins o => Sys2Proof.Machine.execVins o s
  | .vperm o => Sys2Proof.Machine.execVperm o s
  | .vscan o => Sys2Proof.Machine.execVscan o s
  | .vredadd o => Sys2Proof.Machine.execVredadd o s
  | .vredmin o => Sys2Proof.Machine.execVredmin o s
  | .vredmax o => Sys2Proof.Machine.execVredmax o s
  | .vgath o => Sys2Proof.Machine.execVgath o s
  | .vscat o => Sys2Proof.Machine.execVscat o s
  | .vfadd o => Sys2Proof.Machine.execVfadd o s
  | .vfsub o => Sys2Proof.Machine.execVfsub o s
  | .vfmul o => Sys2Proof.Machine.execVfmul o s
  | .vfma o => Sys2Proof.Machine.execVfma o s
  | .vfmin o => Sys2Proof.Machine.execVfmin o s
  | .vfmax o => Sys2Proof.Machine.execVfmax o s
  | .vfabs o => Sys2Proof.Machine.execVfabs o s
  | .vfclt o => Sys2Proof.Machine.execVfclt o s
  | .vfceq o => Sys2Proof.Machine.execVfceq o s
  | .vfred o => Sys2Proof.Machine.execVfred o s
  | .vfscan o => Sys2Proof.Machine.execVfscan o s
  | .vcvtif o => Sys2Proof.Machine.execVcvtif o s
  | .vcvtfi o => Sys2Proof.Machine.execVcvtfi o s
  | .vcvt o => Sys2Proof.Machine.execVcvt o s
  | .vamax o => Sys2Proof.Machine.execVamax o s
  | .vrcp o => Sys2Proof.Machine.execVrcp o s
  | .vrsq o => Sys2Proof.Machine.execVrsq o s
  | .lde o => Sys2Proof.Machine.execLde o s
  | .ldt o => Sys2Proof.Machine.execLdt o s
  | .stf o => Sys2Proof.Machine.execStf o s
  | .ste o => Sys2Proof.Machine.execSte o s
  | .tagrd o => Sys2Proof.Machine.execTagrd o s
  | .watch o => Sys2Proof.Machine.execWatch o s
  | .unwatch o => Sys2Proof.Machine.execUnwatch o s
  | .wait o => Sys2Proof.Machine.execWait o s
  | .amoadd o => Sys2Proof.Machine.execAmoadd o s
  | .amomin o => Sys2Proof.Machine.execAmomin o s
  | .amomax o => Sys2Proof.Machine.execAmomax o s
  | .amoand o => Sys2Proof.Machine.execAmoand o s
  | .amoor o => Sys2Proof.Machine.execAmoor o s
  | .amoxor o => Sys2Proof.Machine.execAmoxor o s
  | .amoswp o => Sys2Proof.Machine.execAmoswp o s
  | .amocas o => Sys2Proof.Machine.execAmocas o s
  | .rsv o => Sys2Proof.Machine.execRsv o s
  | .rls o => Sys2Proof.Machine.execRls o s
  | .fence o => Sys2Proof.Machine.execFence o s
  | .bar o => Sys2Proof.Machine.execBar o s
  | .spawn o => Sys2Proof.Machine.execSpawn o s
  | .reap o => Sys2Proof.Machine.execReap o s
  | .exit o => Sys2Proof.Machine.execExit o s
  | .trigger o => Sys2Proof.Machine.execTrigger o s
  | .launch o => Sys2Proof.Machine.execLaunch o s
  | .send o => Sys2Proof.Machine.execSend o s
  | .chset o => Sys2Proof.Machine.execChset o s
  | .chblk o => Sys2Proof.Machine.execChblk o s
  | .chunb o => Sys2Proof.Machine.execChunb o s
  | .bind o => Sys2Proof.Machine.execBind o s
  | .unbind o => Sys2Proof.Machine.execUnbind o s
  | .mfs o => Sys2Proof.Machine.execMfs o s
  | .mts o => Sys2Proof.Machine.execMts o s
  | .cvy o => Sys2Proof.Machine.execCvy o s
  | .join o => Sys2Proof.Machine.execJoin o s
  | .split o => Sys2Proof.Machine.execSplit o s
  | .spliti o => Sys2Proof.Machine.execSpliti o s
  | .mpop o => Sys2Proof.Machine.execMpop o s
  | .mcnt o => Sys2Proof.Machine.execMcnt o s
  | .mfm o => Sys2Proof.Machine.execMfm o s
  | .mtm o => Sys2Proof.Machine.execMtm o s
  | .qld o => Sys2Proof.Machine.execQld o s
  | .qst o => Sys2Proof.Machine.execQst o s
  | .qadd o => Sys2Proof.Machine.execQadd o s
  | .cexit o => Sys2Proof.Machine.execCexit o s
  | .cpy o => Sys2Proof.Machine.execCpy o s
  | .cpy2 o => Sys2Proof.Machine.execCpy2 o s
  | .gth o => Sys2Proof.Machine.execGth o s
  | .sct o => Sys2Proof.Machine.execSct o s
  | .coll o => Sys2Proof.Machine.execColl o s
  | .waitany o => Sys2Proof.Machine.execWaitany o s
  | .waitall o => Sys2Proof.Machine.execWaitall o s
  | .tagff o => Sys2Proof.Machine.execTagff o s
  | .tagclr o => Sys2Proof.Machine.execTagclr o s
  | .prec o => Sys2Proof.Machine.execPrec o s
  | .wld o => Sys2Proof.Machine.execWld o s
  | .mma o => Sys2Proof.Machine.execMma o s
  | .accz o => Sys2Proof.Machine.execAccz o s
  | .accrd o => Sys2Proof.Machine.execAccrd o s
  | .accwr o => Sys2Proof.Machine.execAccwr o s
  | .cvtst o => Sys2Proof.Machine.execCvtst o s
  | .amaxrd o => Sys2Proof.Machine.execAmaxrd o s
  | .amaxclr o => Sys2Proof.Machine.execAmaxclr o s
  | .dupset o => Sys2Proof.Machine.execDupset o s
  | .osplit o => Sys2Proof.Machine.execOsplit o s
  | .trap o => Sys2Proof.Machine.execTrap o s
  | .sys o => Sys2Proof.Machine.execSys o s
  | .brk o => Sys2Proof.Machine.execBrk o s
  | .eret o => Sys2Proof.Machine.execEret o s
  | .mfsp o => Sys2Proof.Machine.execMfsp o s
  | .mtsp o => Sys2Proof.Machine.execMtsp o s
  | .segset o => Sys2Proof.Machine.execSegset o s
  | .tlbinv o => Sys2Proof.Machine.execTlbinv o s
  | .reloc o => Sys2Proof.Machine.execReloc o s
  | .sweep o => Sys2Proof.Machine.execSweep o s
  | .wearrd o => Sys2Proof.Machine.execWearrd o s
  | .ctxsv o => Sys2Proof.Machine.execCtxsv o s
  | .ctxld o => Sys2Proof.Machine.execCtxld o s
  | .resume o => Sys2Proof.Machine.execResume o s
  | .park o => Sys2Proof.Machine.execPark o s
  | .memoryAccessPerform which => Sys2Proof.Machine.execMemoryAccessPerform which s
  | .reservationGrant word => Sys2Proof.Machine.execReservationGrant word s
  | .reservationTimeout core slot => Sys2Proof.Machine.execReservationTimeout core slot s
  | .waitlimExpiry core slot => Sys2Proof.Machine.execWaitlimExpiry core slot s
  | .withdrawalAnswer core slot => Sys2Proof.Machine.execWithdrawalAnswer core slot s
  | .remoteReply id => Sys2Proof.Machine.execRemoteReply id s
  | .messageArrival n => Sys2Proof.Machine.execMessageArrival n s
  | .handlerDispatch core => Sys2Proof.Machine.execHandlerDispatch core s
  | .freshDispatch core => Sys2Proof.Machine.execFreshDispatch core s
  | .streamLoadFill core slot queue => Sys2Proof.Machine.execStreamLoadFill core slot queue s
  | .streamStoreTake core slot => Sys2Proof.Machine.execStreamStoreTake core slot s
  | .q3Delivery core slot => Sys2Proof.Machine.execQ3Delivery core slot s
  | .pageNotice n => Sys2Proof.Machine.execPageNotice n s
  | .pageRequest n writes mapped => Sys2Proof.Machine.execPageRequest n writes mapped s
  | .translationWalk quad n => Sys2Proof.Machine.execTranslationWalk quad n s
  | .shootdownComplete => Sys2Proof.Machine.execShootdownComplete s
  | .stopEffect core slot => Sys2Proof.Machine.execStopEffect core slot s
  | .overflowRefill queue => Sys2Proof.Machine.execOverflowRefill queue s
  | .launchStart queue => Sys2Proof.Machine.execLaunchStart queue s
  | .taskPlace lid => Sys2Proof.Machine.execTaskPlace lid s
  | .placingOverNotice lid core => Sys2Proof.Machine.execPlacingOverNotice lid core s
  | .doneMessage lid core => Sys2Proof.Machine.execDoneMessage lid core s
  | .launchComplete lid => Sys2Proof.Machine.execLaunchComplete lid s
  | .barEpisodeOpen core slot => Sys2Proof.Machine.execBarEpisodeOpen core slot s
  | .convoyArrival n => Sys2Proof.Machine.execConvoyArrival n s
  | .arrivalSlotGrant core => Sys2Proof.Machine.execArrivalSlotGrant core s
  | .placeRequest core slot => Sys2Proof.Machine.execPlaceRequest core slot s
  | .queuedJoinLookup core => Sys2Proof.Machine.execQueuedJoinLookup core s
  | .joinExpiry core entry => Sys2Proof.Machine.execJoinExpiry core entry s
  | .copyStart core => Sys2Proof.Machine.execCopyStart core s
  | .copyComplete core op => Sys2Proof.Machine.execCopyComplete core op s
  | .collCombine core op order => Sys2Proof.Machine.execCollCombine core op order s
  | .matrixStart core => Sys2Proof.Machine.execMatrixStart core s
  | .matrixComplete core => Sys2Proof.Machine.execMatrixComplete core s
  | .commitPoint core slot => Sys2Proof.Machine.execCommitPoint core slot s
  | .threadKill core slot => Sys2Proof.Machine.execThreadKill core slot s
  | .killScrubComplete core slot => Sys2Proof.Machine.execKillScrubComplete core slot s
  | .drainStart core cause => Sys2Proof.Machine.execDrainStart core cause s
  | .drainComplete quad => Sys2Proof.Machine.execDrainComplete quad s
  | .requestBounce n => Sys2Proof.Machine.execRequestBounce n s
  | .jigStart die => Sys2Proof.Machine.execJigStart die s
  | .jigCommit die => Sys2Proof.Machine.execJigCommit die s
  | .ringRecordTake queue => Sys2Proof.Machine.execRingRecordTake queue s
  | .obsSnapshotReady => Sys2Proof.Machine.execObsSnapshotReady s
  | .traceSample core => Sys2Proof.Machine.execTraceSample core s
  | .breakpointHold core slot => Sys2Proof.Machine.execBreakpointHold core slot s
  | .startup found => Sys2Proof.Machine.execStartup found s
  | .coreCycle core => Sys2Proof.Machine.execCoreCycle core s
  | .hostWrite space addr bytes => Sys2Proof.Machine.execHostWrite space addr bytes s
  | .hostRead space addr len => Sys2Proof.Machine.execHostRead space addr len s
  | .hostSnoop addr => Sys2Proof.Machine.execHostSnoop addr s
  | .networkFrame frame => Sys2Proof.Machine.execNetworkFrame frame s
  | .checkpoint resume => Sys2Proof.Machine.execCheckpoint resume s
  | .checkpointTimeout => Sys2Proof.Machine.execCheckpointTimeout s
  | .checkpointRestore verified => Sys2Proof.Machine.execCheckpointRestore verified s
  | .doorbell queue tail => Sys2Proof.Machine.execDoorbell queue tail s
  | .ringEnable queue value => Sys2Proof.Machine.execRingEnable queue value s
  | .ringRestart queue => Sys2Proof.Machine.execRingRestart queue s
  | .ringSkip queue => Sys2Proof.Machine.execRingSkip queue s
  | .errorRingEnable value => Sys2Proof.Machine.execErrorRingEnable value s
  | .registerWrite reg size value => Sys2Proof.Machine.execRegisterWrite reg size value s
  | .obsselWrite value => Sys2Proof.Machine.execObsselWrite value s
  | .preciseStop core slot => Sys2Proof.Machine.execPreciseStop core slot s
  | .debugHoldLift core slot => Sys2Proof.Machine.execDebugHoldLift core slot s
  | .sidebandDump region offset len => Sys2Proof.Machine.execSidebandDump region offset len s
  | .powerSample milliwatts => Sys2Proof.Machine.execPowerSample milliwatts s
  | .powerTick hot => Sys2Proof.Machine.execPowerTick hot s
  | .firmwareUpdate image => Sys2Proof.Machine.execFirmwareUpdate image s
  | .softError place correctable => Sys2Proof.Machine.execSoftError place correctable s
  | .powerLoss => Sys2Proof.Machine.execPowerLoss s
  | .peerRequest req => Sys2Proof.Machine.execPeerRequest req s
  | .corePresenceEnd quad => Sys2Proof.Machine.execCorePresenceEnd quad s
  | .retryRequest => Sys2Proof.Machine.execRetryRequest s
  | .stressTick core temp mv => Sys2Proof.Machine.execStressTick core temp mv s
  | .lifetimeWrite => Sys2Proof.Machine.execLifetimeWrite s
  | .linkFlitRetry a b => Sys2Proof.Machine.execLinkFlitRetry a b s
  | .linkFailure a b => Sys2Proof.Machine.execLinkFailure a b s
  | .routeFailure id => Sys2Proof.Machine.execRouteFailure id s
  | .routeChange pkg link => Sys2Proof.Machine.execRouteChange pkg link s

end Sys2Proof.Machine
end

