-- ==== Sys2Proof/Machine/Due.lean ====
section
/-! DEFINITION. Which hardware event is due: an event of the hardware's own that can take place does so before the next
core cycle, in one fixed order (log entry 1). -/

namespace Sys2Proof.Machine

/-- A fill of a load stream moves it on: a word is delivered, read, asked for, or stops it. -/
def fillDue (s : State) (c i q : Nat) (t : Thread) : Bool :=
  fillReady s c i q t &&
    (threadAt (fill s c i q) c i != some t || (fill s c i q).flight.length != s.flight.length)

/-- q2 takes a value, and so does not wait behind another request's walk (R194). -/
def takeDue (s : State) (c i : Nat) (t : Thread) : Bool :=
  takeReady s c i t && (t.role = .trailing || threadAt (takeStore s c i) c i != some t)

/-- The word of a commit point's pair is due: the pair runs, and a queue of it is full. -/
def commitDue (s : State) (c i : Nat) (t : Thread) : Bool :=
  t.role = .leading && !t.stopped && (pairOf s c i).any (commitReady s c)

/-- The barrier at which a participant stands can open. -/
def barDue (s : State) (c : Nat) (t : Thread) : Bool :=
  match t.pend with
  | some ⟨.bar scope, _, _, _⟩ =>
    t.role != .trailing &&
      match launchOf s t.lid with
      | some l =>
        ((participants l scope c).any fun m => m.core = c && m.rank = t.rank.toNat) && episodeReady s l scope c
      | none => false
  | _ => false

/-- A withdrawal's answer has come. -/
def withdrawalDue (s : State) (t : Thread) : Bool :=
  match t.pend with
  | some ⟨.withdrawn id _, _, _, _⟩ => (findFlight s id).any fun a => a.stage = .replied && replyFree s a
  | _ => false

def threadDue (s : State) (c i : Nat) (t : Thread) : Option Instr :=
  if t.killed then some (.threadKill c i)
  else if withdrawalDue s t then some (.withdrawalAnswer c i)
  else if stopReady s c i t then some (.stopEffect c i)
  else if barDue s c t then some (.barEpisodeOpen c i)
  else if placeReady s t && !t.stopReq && !t.holdReq then some (.placeRequest c i)
  else if commitDue s c i t then some (.commitPoint c i)
  else if q3Ready s c i t then some (.q3Delivery c i)
  else if takeDue s c i t then some (.streamStoreTake c i)
  else if fillDue s c i 0 t then some (.streamLoadFill c i 0)
  else if fillDue s c i 1 t then some (.streamLoadFill c i 1)
  else if sweepReady s c i then some (.memoryAccessPerform (.sweep c i))
  else if breakReady s c i then some (.breakpointHold c i)
  else none

def slotDue (s : State) (c i : Nat) (x : Slot) : Option Instr :=
  match x.content with
  | .thread t => threadDue s c i t
  | .scrubbing => some (.killScrubComplete c i)
  | _ => none

def slotsDue (s : State) (c : Nat) : Nat → List Slot → Option Instr
  | _, [] => none
  | i, x :: xs =>
    match slotDue s c i x with
    | some e => some e
    | none => slotsDue s c (i + 1) xs

/-- The first entry of the joint table whose time has come. -/
def joinDue (k : Core) : Option Nat := k.joint.findIdx? (joinOver k)

/-- The engines of a core; in a withheld cycle they take no command (R369). -/
def engineDue (s : State) (c : Nat) (k : Core) : Option Instr :=
  if copyStartReady k && !powerOff s c then some (.copyStart c)
  else if startReady k && !powerOff s c then some (.matrixStart c)
  else if matrixReady s c then some (.matrixComplete c)
  else
    match (k.copyQ ++ k.copyRun).find? (collFree s c) with
    | some o => some (.collCombine c o.id [])
    | none => (k.copyRun.find? (copyReady s c)).map fun o => .copyComplete c o.id

/-- New threads wait while a checkpoint is in progress, or the quad moves to a spare (R303, R342). -/
def newThreadDue (s : State) (c : Nat) (k : Core) : Option Instr :=
  if s.cc.checkpoint.isSome || relocating s c then none
  else if grantable k then some (.arrivalSlotGrant c)
  else if handlerReady s c then some (.handlerDispatch c)
  else if freshReady k then some (.freshDispatch c)
  else none

/-- A message of channels 0 and 2 starts no thread. -/
def systemDue (s : State) (c : Nat) (k : Core) : Option Instr :=
  if handlerReady s c && (systemMsg k).isSome then some (.handlerDispatch c) else none

/-- Other cores of the quad have this cycle still before them: what they issue in it may reach a word of the quad store. -/
def quadBehind (s : State) (c : Nat) : Bool := quadOf s.turn = quadOf c && c < s.turn

/-- A wait limit is met once everything else of the cycle has been served, in the whole quad (R178, R320). -/
def limitDue (s : State) (c : Nat) (k : Core) : Option Instr :=
  if quadBehind s c then none
  else ((slotThreads k).find? fun e => waitOver s c e.2 && boundedWait s c e.2 && !e.2.stopped && e.2.role != .trailing).map
    fun e => .waitlimExpiry c e.1

/-- The first event of a list of kinds. -/
def firstDue : List (Option Instr) → Option Instr
  | [] => none
  | some i :: _ => some i
  | none :: rest => firstDue rest

def coreDue (s : State) (c : Nat) (k : Core) : Option Instr :=
  firstDue
    [(joinDue k).map (.joinExpiry c), slotsDue s c 0 k.slots.toList, engineDue s c k, systemDue s c k,
      newThreadDue s c k, limitDue s c k]

def coresDue (s : State) : List (Nat × Core) → Option Instr
  | [] => none
  | (c, k) :: rest =>
    match coreDue s c k with
    | some e => some e
    | none => coresDue s rest

/-- Accesses in flight: one at its bank, one at the head of a reservation queue, a reply. -/
def flightDue (s : State) : List Access → Option Instr
  | [] => none
  | a :: rest =>
    if bankReady s a || requestReady s a then some (.memoryAccessPerform (.thread a.id 0))
    else if a.stage = .replied && replyFree s a && a.via != .sweep && a.via != .probe && (a.okay || (a.kind != .lde && a.kind != .ldt)) then some (.remoteReply a.id)
    else
      match if a.stage = .queued then (accWords a).find? (grantReady s) else none with
      | some w => some (.reservationGrant w)
      | none => flightDue s rest

/-- A message, a convoy or a page notice on its way arrives. -/
def netDue (s : State) : Option Instr :=
  match (List.range s.net.length).find? (canArrive s) with
  | some n => some (.messageArrival n)
  | none =>
    if !s.moving.isEmpty then some (.convoyArrival 0)
    else (s.xl.pageNotes.findIdx? fun e => (getCore s e.1.core).inbox.length < 64).map .pageNotice

/-- Walks, shootdowns and the jigs. -/
def xlateDue (s : State) : Option Instr :=
  match s.xl.misses with
  | m :: _ => some (.translationWalk m.quad 0)
  | [] =>
    if shootReady s then some .shootdownComplete
    else
      match (List.range 4).find? (jigCommitReady s) with
      | some d => some (.jigCommit d)
      | none => ((List.range 4).find? (jigStartReady s)).map .jigStart

/-- A launch's own events. -/
def launchDue (s : State) (l : Launch) : Option Instr :=
  if completeReady s l then some (.launchComplete l.lid.toNat)
  else
    match if l.next ≥ dCount l.desc then l.tree.find? fun c => !l.noticed.contains c else none with
    | some c => some (.placingOverNotice l.lid.toNat c)
    | none => (l.tree.find? (doneReady s l)).map fun c => .doneMessage l.lid.toNat c

/-- The front end. -/
def frontDue (s : State) : Option Instr :=
  match s.front.launches.findSome? (launchDue s) with
  | some e => some e
  | none =>
    match s.front.queues.toList.findIdx? fun q => q.ovCount != 0 && !q.halt && q.recs.length < 32 with
    | some n => some (.overflowRefill n)
    | none =>
      if s.cc.checkpoint.isSome then none
      else
        match startChoice s with
        | some q => some (.launchStart q)
        | none => (placeNow s).map fun p => .taskPlace p.1.lid.toNat

/-- Host rings. -/
def controlDue (s : State) : Option Instr :=
  if s.front.queues.toList.any fun q => q.hand.isSome || (q.enable && q.pendingRecs) then
    ((List.range 64).find? (ringReady s)).map .ringRecordTake
  else none

/-- Reservations that run out, observation and drains. -/
def serviceDue (s : State) : Option Instr :=
  firstDue
    [(s.resvs.find? (resvOver s)).map fun r => .reservationTimeout r.core r.slot,
      if obsReady s then some .obsSnapshotReady else none,
      if sampleReady s s.turn then some (.traceSample s.turn) else none,
      (s.life.draining.find? fun d => drainReady s d.1).map fun d => .drainComplete d.1,
      controlDue s]

/-- The hardware event that takes place next, if one can. -/
def due (s : State) : Option Instr :=
  firstDue
    [flightDue s s.flight, xlateDue s, netDue s, serviceDue s, coresDue s s.cores, frontDue s,
      if replayReady s then some (.registerWrite ⟨.replay, 4⟩ 4 (BitVec.ofNat 64 s.cc.toReplay.length)) else none]

/-- The events that a package takes up after a fatal error or in recovery mode (R357, R361). -/
def actsDown (i : Instr) : Bool :=
  match i with
  | .startup _ | .powerLoss | .sidebandDump .. | .retryRequest | .firmwareUpdate _ | .hostRead .. => true
  | _ => false

/-- The package does nothing of its own. -/
def isDown (s : State) : Bool := s.cc.fatal || s.cc.recovery

end Sys2Proof.Machine
end

