-- ==== Sys2Proof/Machine/Step.lean ====
section
/-! DEFINITION. One step of the package: the next thing on the agenda, else the hardware event that is due, else one
cycle of the core whose turn it is (R8, R19; log entry 1). -/

namespace Sys2Proof.Machine

open Host (Outcome)

/-- The state of a slot's thread as R114 defines it: READY where its next instruction would go on if it issued now, else what
it would wait for. -/
def statusNow (s : State) (c i : Nat) (t : Thread) : Status :=
  if t.pend.isSome || t.stopped || t.hold || t.killed || t.kind = .runtime then t.status
  else
    let s1 := { modCore s c fun k => { k with cycle := k.cycle / 16 * 16 + i } with turn := c, agenda := [] }
    match fetchInstr s1 c t with
    | .trap _ => .ready
    | .instr x =>
      match exec x s1 with
      | .next s2 => match threadAt s2 c i with | some u => if u.pend.isSome then .ready else u.status | none => .ready
      | _ => .ready

/-- Every slot of a core shows the state that it has now. -/
def refresh (s : State) (c : Nat) : State :=
  (slotThreads (getCore s c)).foldl
    (fun u e => modThread u c e.1 fun t => { t with status := statusNow s c e.1 e.2 }) s

/-- The states of the slots as an event that reads them finds them: the histogram at a rotation's first cycle (R362), the
class of a cycle that the power limit withholds (R369; log entry 25), a dump (R368). -/
def refreshFor (i : Instr) (s : State) : State :=
  match i with
  | .coreCycle c =>
    if (getCore s c).cycle % 16 = 0 then refresh s c
    else if powerOff s c && !s.issued then
      modThread s c (getCore s c).turnSlot fun t => { t with status := statusNow s c (getCore s c).turnSlot t }
    else s
  | .sidebandDump .. => s.cores.foldl (fun s e => refresh s e.1) s
  | _ => s

/-- One core cycle: the slot whose turn it is issues its instruction, if it may, and the cycle then ends. A trap of the fetch or
the decoding is raised before one that a relaxed access has left, which stays for the next issue (DESIGN CHOICE, log entry
81). -/
def cycleOf (s : State) : Outcome State Fault Refusal :=
  match issuer s s.turn with
  | none => exec (.coreCycle s.turn) (refreshFor (.coreCycle s.turn) s)
  | some t =>
    match fetchInstr s s.turn t with
    | .instr i => exec i { s with agenda := .event (.coreCycle s.turn) :: s.agenda }
    | .trap x =>
      .next (issueTrap { s with agenda := .event (.coreCycle s.turn) :: s.agenda } s.turn (curSlot s) t x)

/-- The package's step. After a fatal error and in recovery mode only the events that start it again, or look at it, take
effect (R357, R361). -/
def step (s : State) : Outcome State Fault Refusal :=
  match s.agenda with
  | .event i :: rest => if isDown s && !actsDown i then .next { s with agenda := rest }
    else exec i (refreshFor i { s with agenda := rest })
  | .cycle c :: rest => if isDown s then .next { s with agenda := rest } else cycleOf { s with agenda := rest, turn := c }
  | [] =>
    if isDown s then .next s
    else
      match due s with
      | some i => exec i s
      | none => cycleOf s

/-- The code-store bytes of one instruction of the opcode table, at address 0 of quad 0. -/
def placeCode (m : List (Nat × Byte)) (ws : List Half) : List (Nat × Byte) :=
  writeBytes m (flat (.cstore 0 0)) (2 * ws.length) (bytesNat (ws.flatMap halfBytes))

/-- A thread that runs from code-store address 0 with every register. -/
def Thread.probe : Thread :=
  { Thread.blank with
    lim := 128, segs := (Vector.replicate 8 (0 : BitVec 128)).set 0 (mkSeg 1 0 0x3FFF 0b101000 0), kind := .fresh }

/-- The state in which the next step runs one instruction: start-up is over, all dies are present, and slot 0 of core 0,
whose turn it is, holds a thread at the instruction (log entry 11). -/
def State.withFetchWord (s : State) (nbits w : Nat) : State :=
  { s with
    agenda := [], booted := true, turn := 0
    mem := placeCode s.mem (tableHalves nbits w)
    cc := { s.cc with dies := 0xF }
    cores := smSet s.cores 0
      { (Core.blank true) with slots := (Vector.replicate 16 Slot.empty).set 0 ⟨.thread .probe, none⟩ } }

end Sys2Proof.Machine
end

