-- ==== Sys2Proof/Safety.lean ====
section
/-! DEFINITION. The terms that the claims use: what every reachable state keeps, when an instruction issues, and what one
issue leaves as it was. -/

namespace Sys2Proof.Machine

/-- The canonical form of memory (Host.Cell). -/
def State.MemOk (s : State) : Prop := memWf s.mem = true

/-- The slot whose cycle it is holds thread `t`, which is not in a redundant pair, and nothing keeps an instruction of
use `u` from its effect: its guard is 1, the mode may run it, its registers are among the thread's, its sources are
full, no stream bound to them or to a register that it writes has stopped or is still busy, and no error of an earlier
relaxed access is pending (R19, R33, R91, R189, R244). -/
structure Issues (u : Use) (s : State) (t : Thread) : Prop where
  here : threadAt s s.turn (curSlot s) = some t
  alone : t.role = .alone
  noErr : t.late = none
  guard : u.guard = 0 ∨ getFlag t u.guard.toNat = true
  mode : u.priv = true → curSlot s = 0
  names : ∀ n ∈ u.names, n < t.lim
  full : ∀ n ∈ u.srcs, isFull t n = true
  noStop : streamTrap t (u.sync ++ u.writes t) = none
  noTake : streamBusy (getCore s s.turn) (curSlot s) t (u.srcs ++ u.writes t) = false
  noStore : storeBusy t (u.writes t) = false

/-- The thread as its operation meets it: the issue's charge is paid and synchronised sources are empty (R15, R296). -/
def issuedThread (u : Use) (s : State) (t : Thread) : Thread :=
  emptyRegs (chargeThread t (getCore s s.turn).vt) u.sync

/-- The state that one issue's charge leaves, but for the thread's own share. -/
def chargedState (s : State) (c : Nat) : State := accrue { s with issued := true } c (getCore s c).vt

/-- The state that an operation meets after the charge and the synchronised reads. -/
def issuedState (u : Use) (s : State) (t : Thread) : State :=
  setThread (chargedState s s.turn) s.turn (curSlot s) (issuedThread u s t)

/-- The thread at the end of an instruction that goes on at `pc`. -/
def goesTo (t : Thread) (pc : Word) : Thread :=
  { t with
    pc := pc, status := .ready, waitFrom := none, lifted := false, heldAt := none, faultPage := none, missAt := none }

/-- The address of the instruction after one of `words` halfwords. -/
def pcAfter (t : Thread) (words : Nat) : Word := t.pc + BitVec.ofNat 32 (2 * words)

/-- `s'` is `s` but for the thread of the slot whose cycle it is, which is `t'`, and the wear of the issue: every other
slot, everything else of every core, every byte of memory and every other part of the package is as it was. -/
structure OnlyThread (s s' : State) (t' : Thread) : Prop where
  thread : threadAt s' s.turn (curSlot s) = some t'
  slots : ∀ c i, (c, i) ≠ (s.turn, curSlot s) → getSlot s' c i = getSlot s c i
  notice : (getSlot s' s.turn (curSlot s)).notice = (getSlot s s.turn (curSlot s)).notice
  cores : ∀ c, { getCore s' c with slots := (getCore s c).slots } = getCore s c
  bytes : ∀ p, readByte s' p = readByte s p
  rest : { s' with cores := s.cores, life := s.life, issued := s.issued } = s
  wear : s'.life = (accrue s s.turn (getCore s s.turn).vt).life

/-- The instruction has a next state, and it changes only its thread, to `t'`. -/
def Completes (i : Instr) (s : State) (t' : Thread) : Prop := ∃ s', exec i s = .next s' ∧ OnlyThread s s' t'

/-- The instruction has a next state, in which the package is as `s0`, the issue's wear is paid, and the thread of the
slot whose cycle it is is `t'`. `s0` says what else the instruction did. -/
def CompletesFrom (i : Instr) (s s0 : State) (t' : Thread) : Prop :=
  ∃ s', exec i s = .next s' ∧ OnlyThread s0 s' t'

/-- The instruction takes the exception `x`: its thread is as it was before the instruction but for the issue's charge
(R19, R254, R296). -/
def Traps (i : Instr) (s : State) (t : Thread) (x : TrapInfo) : Prop :=
  exec i s = .next (takeTrap (chargeIssue s s.turn (curSlot s)) s.turn (curSlot s)
    (chargeThread t (getCore s s.turn).vt) x)

/-- The instruction is not ready: its thread takes the status and nothing else of it changes; the slot issues it again
(R19, R114). -/
def Waits (i : Instr) (s s0 : State) (t : Thread) (st : Status) : Prop :=
  exec i s = .next (setThread s0 s.turn (curSlot s) { t with status := st })

/-- No access is outstanding, no word reserved, no word bad and no tile on the move: what an access meets where no other
agent stands in its way. -/
structure Clear (s : State) : Prop where
  flight : s.flight = []
  resvs : s.resvs = []
  bads : s.bads = []
  jigs : ∀ j ∈ s.jigs.toList, j.move = none

/-- The place lies in this package: an access there goes out on no device link (R333). -/
def Place.inside (p : Place) : Bool :=
  match p with
  | .peer .. => false
  | _ => true

/-- The line of this place is armed by the thread: a store there sets its WAKE (R70, R177). -/
def armedBy (t : Thread) (p : Place) : Bool :=
  match p with
  | .lstore _ _ | .qstore _ _ => t.watches.contains (lineKey p)
  | _ => false

/-- An instruction of use `u` has a next state in which its thread goes on at `pc` as `f` makes it of the thread that
issued, and nothing else changes. -/
def Effect (i : Instr) (u : Use) (s : State) (t : Thread) (f : Thread → Thread) (pc : Word) : Prop :=
  Completes i s (goesTo (f (issuedThread u s t)) pc)

/-- An instruction of shape T gives its register A the value `f` of its sources B and C (R47). -/
def GivesT (mk : ShT → Instr) (paged : Bool) (f : Word → Word → Word) : Prop :=
  ∀ (s : State) (t : Thread) (o : ShT), Issues (o.use paged) s t →
    Effect (mk o) (o.use paged) s t (fun v => wrReg v o.a.toNat (f (rdReg t o.b.toNat) (rdReg t o.cNum)))
      (pcAfter t (o.use paged).words)

/-- An instruction of shape U gives its register A the value `f` of its source B (R47). -/
def GivesU (mk : ShU → Instr) (paged : Bool) (f : Word → Word) : Prop :=
  ∀ (s : State) (t : Thread) (o : ShU), Issues (o.use paged) s t →
    Effect (mk o) (o.use paged) s t (fun v => wrReg v o.a.toNat (f (rdReg t o.b.toNat)))
      (pcAfter t (o.use paged).words)

/-- An instruction of shape I gives its register A the value `f` of A and the immediate (R47). -/
def GivesI (mk : ShI → Instr) (paged : Bool) (f : Word → Imm → Word) : Prop :=
  ∀ (s : State) (t : Thread) (o : ShI), Issues (o.use paged) s t →
    Effect (mk o) (o.use paged) s t (fun v => wrReg v o.a.toNat (f (rdReg t o.a.toNat) o.imm))
      (pcAfter t (o.use paged).words)

/-- An instruction of shape K gives its flag A the truth of `f` between its sources B and C (R47). -/
def GivesK (mk : ShK → Instr) (f : Word → Word → Bool) : Prop :=
  ∀ (s : State) (t : Thread) (o : ShK), Issues o.use s t →
    Effect (mk o) o.use s t (fun v => setFlag v o.fa.toNat (f (rdReg t o.b.toNat) (rdReg t o.cNum)))
      (pcAfter t o.use.words)

/-- An instruction of shape L gives its flag A the truth of `f` between the flags B and C (R47). -/
def GivesL (mk : ShL → Instr) (f : Bool → Bool → Bool) : Prop :=
  ∀ (s : State) (t : Thread) (o : ShL), Issues o.use s t →
    Effect (mk o) o.use s t (fun v => setFlag v o.fa.toNat (f (getFlag t o.fb.toNat) (getFlag t o.cNum)))
      (pcAfter t o.use.words)

end Sys2Proof.Machine
end

