-- ==== Sys2Proof/Certificates/Slice0/Obligations.lean ====
section
/-! DEFINITION. The statements about the machine for the provers. Each docstring names the rule of spec/ that it
formalises; `Issues`, `Effect`, `OnlyThread` and the other terms are those of Sys2Proof/Safety.lean. -/

open Sys2Proof Sys2Proof.Machine
/-! ### Encoding, fetch and the step -/

/-- Worked encodings of the manual decode to the instructions they stand for (R22 to R32, R44). -/
def Obligations.WorkedEncodingsDecode : Prop :=
  decode [0x0485] = .ok (.sub ⟨⟨false, 0⟩, 4, 5, none⟩, 1) ∧
  decode [0xF60A, 0x0149] = .ok (.add ⟨⟨false, 0⟩, 10, 9, some ⟨2, true, false⟩⟩, 2) ∧
  decode [0x3130] = .ok (.movi ⟨⟨false, 0⟩, 9, ⟨0, 0x10⟩⟩, 1) ∧
  decode [0xF201, 0x2D01] = .ok (.addi ⟨⟨true, 1⟩, 8, ⟨0, 1⟩⟩, 2) ∧
  decode [0xF420, 0xF628, 0x0D69] = .ok (.remu ⟨⟨false, 0⟩, 11, 9, some ⟨10, false, false⟩⟩, 3) ∧
  decode [0xF001, 0x7528] = .ok (.ldw ⟨⟨false, 0⟩, 9, 8, none, ⟨1, 1⟩, none⟩, 2) ∧
  decode [0xF285, 0xF800, 0xF002, 0xF000, 0x7508] = .ok (.ldw ⟨⟨true, 5⟩, 40, 8, none, ⟨2, 0x400⟩, some 0⟩, 5) ∧
  decode [0xF440, 0xF60C, 0x0022] = .ok (.vadd ⟨⟨false, 0⟩, 1, 2, some ⟨3, false, false⟩⟩, 3) ∧
  decode [0xF480, 0xF002, 0x2128] = .ok (.amoadd ⟨⟨false, 0⟩, 9, 8, none, ⟨1, 2⟩, none⟩, 3) ∧
  decode [0xF4A0, 0x1530] = .ok (.send ⟨⟨false, 0⟩, 9, 16⟩, 2) ∧
  decode [0xF4C0, 0x094B] = .ok (.split ⟨⟨false, 0⟩, 10, 11, none⟩, 2) ∧
  decode [0xF4E0, 0x0148] = .ok (.cpy ⟨⟨false, 0⟩, 10, 8, none⟩, 2) ∧
  decode [0xF500, 0xF638, 0x1200] = .ok (.accrd ⟨⟨false, 0⟩, 16, 0, 14, false⟩, 3) ∧
  decode [0xF520, 0x0C00] = .ok (.eret ⟨⟨false, 0⟩⟩, 2)

/-- Decoding the words of a well-formed instruction gives it back, with the number of its words: every instruction,
with every operand at every value its encoding admits (R22 to R40, R44). -/
def Obligations.DecodeOfEncode : Prop :=
  ∀ i : Instr, i.wf = true → i.opcode.isSome = true → decode (encode i) = .ok (i, (encode i).length)

/-- A chain longer than its base word and four prefixes, an unknown prefix kind and a repeated one are no instruction
(R25, R31, R33). -/
def Claim.BadChainsRejected : Prop :=
  (∀ ws : List Half, 5 ≤ ws.length → (∀ w ∈ ws.take 5, isPrefixWord w = true) → ∃ e, decode ws = .error e) ∧
  (∀ (w : Half) (ws : List Half), isPrefixWord w = true → 5 ≤ (w.extractLsb' 9 3).toNat →
    decode (w :: ws) = .error .reservedKind) ∧
  (∀ (w v : Half) (ws : List Half), isPrefixWord w = true → isPrefixWord v = true →
    w.extractLsb' 9 3 = v.extractLsb' 9 3 → 1 ≤ (w.extractLsb' 9 3).toNat → (w.extractLsb' 9 3).toNat ≤ 4 →
    decode (w :: v :: ws) = .error .twice)

/-- The halfwords `ws` stand in the code store at a thread's PC, and every one of them may be fetched (R18). -/
def StandsAtPc (s : State) (c : Nat) (t : Thread) (ws : List Half) : Prop :=
  ∀ k (h : k < ws.length),
    fetchFault t (t.pc + BitVec.ofNat 32 (2 * k)) = none ∧
    readByte s (.cstore (quadOf c) (segBase ((t.segs[0]?).getD 0) + (t.pc + BitVec.ofNat 32 (2 * k)).toNat)) =
      (ws[k]).setWidth 8 ∧
    readByte s (.cstore (quadOf c) (segBase ((t.segs[0]?).getD 0) + (t.pc + BitVec.ofNat 32 (2 * k)).toNat + 1)) =
      (ws[k]).extractLsb' 8 8

/-- Where nothing else is due and the slot whose cycle it is may issue, a step runs the instruction whose words stand at
the PC, and the end of the core cycle follows it (R8, R18, R19; the agenda is the model's own, log entry 1). -/
def Obligations.StepRunsDecoded : Prop :=
  ∀ (s : State) (t : Thread) (ws : List Half) (i : Instr) (n : Nat),
    s.agenda = [] → isDown s = false → due s = none → issuer s s.turn = some t →
    ws ≠ [] → ws.length ≤ 5 → (∀ w ∈ ws.dropLast, isPrefixWord w = true) →
    (∀ w ∈ ws.getLast?, isPrefixWord w = false) → StandsAtPc s s.turn t ws → decode ws = .ok (i, n) →
    step s = exec i { s with agenda := [.event (.coreCycle s.turn)] }

/-- Where the words at the PC, with their prefixes, are no instruction, a step takes ILLEGAL with TPC at the first word and
TVAL 0; where a word of the chain, the first or a later one, cannot be fetched, ALIGN or SEGV with TVAL at the address
fetched (R18, R19, R33; TPC at the first word of the chain is log entry 34, TVAL 0 of ILLEGAL log entry 36, both
DEDUCED). -/
def Claim.StepTrapsUndecoded : Prop :=
  ∀ (s : State) (t : Thread) (ws : List Half), s.agenda = [] → isDown s = false → due s = none →
    issuer s s.turn = some t → StandsAtPc s s.turn t ws →
    (∀ f, ws.length < 5 → (∀ w ∈ ws, isPrefixWord w = true) →
      fetchFault t (t.pc + BitVec.ofNat 32 (2 * ws.length)) = some f →
      step s = .next (issueTrap { s with agenda := [.event (.coreCycle s.turn)] } s.turn (curSlot s) t
        ⟨f, 0, t.pc + BitVec.ofNat 32 (2 * ws.length), t.pc, false, 0⟩)) ∧
    (ws ≠ [] → ws.length ≤ 5 → (∀ w ∈ ws.dropLast, isPrefixWord w = true) →
      (ws.length = 5 ∨ ∀ w ∈ ws.getLast?, isPrefixWord w = false) → (∀ r, decode ws ≠ .ok r) →
      step s = .next (issueTrap { s with agenda := [.event (.coreCycle s.turn)] } s.turn (curSlot s) t
        ⟨.illegal, 0, 0, t.pc, false, 0⟩))

/-! ### Invariants and reset -/

/-- Memory's canonical form holds in the state after reset, and every byte reads 0 there: the form and the zero are the
model's choice (DESIGN CHOICE, log entry 2; the zero is unsafe for a claim that rests on it), and no rule gives them. -/
def Obligations.ResetMemoryCanonical : Prop := State.reset.MemOk ∧ ∀ p, readByte State.reset p = 0

/-- Every step keeps memory's canonical form: addresses strictly rising, no listed byte equal to what an unlisted address
reads as (the model's own form of memory, log entry 2). -/
def Obligations.StepKeepsMemoryCanonical : Prop :=
  ∀ s s' : State, s.MemOk → step s = .next s' → s'.MemOk

/-- The values the rules give for reset: BAR0's error ring, RETRY, the queues' blocks, the request counters, the generations
of translation and the clock of every die (R329, R351, R352, R355, R369). Two of them are the model's choice: the 0 of a
generation of translation, for which the spec gives no value (log entry 8), and that DEVSTAT names no die before start-up has
brought one up, as R351 gives DIES "from start-up" (log entry 11). -/
def Claim.ResetValues : Prop :=
  State.reset.cc.ebase = 0 ∧ State.reset.cc.eenable = false ∧ State.reset.cc.ehead = 0 ∧ State.reset.cc.etail = 0 ∧
  State.reset.cc.elost = 0 ∧ State.reset.cc.fatal = false ∧ State.reset.cc.dies = 0 ∧
  (∀ q : Fin 64, State.reset.front.queues[q] = Queue.blank) ∧
  Queue.blank.recs = [] ∧ Queue.blank.enable = false ∧ Queue.blank.halt = false ∧ Queue.blank.head = 0 ∧
  Queue.blank.tail = 0 ∧ Queue.blank.asn = 0 ∧
  (∀ (d : Fin 4) (k : Fin 12), State.reset.counters[d][k] = 0) ∧
  (∀ d : Fin 4, State.reset.cc.clock[d] = 940) ∧ State.reset.cc.retry = false ∧ ∀ d, d < 4 → genOf State.reset d = 0

/-- A thread as it is created, before its seeds: every register zero and full, F as the flag map gives, no stream bound,
no watch armed, manifests zero (R12, R13). -/
def Claim.ThreadCreation : Prop :=
  (∀ n, rdReg Thread.blank n = 0 ∧ isFull Thread.blank n = (n < 128)) ∧ Thread.blank.f = 0xFFFF0001 ∧
  Thread.blank.fpst = 0 ∧ Thread.blank.tcause = 0 ∧ Thread.blank.tpc = 0 ∧ Thread.blank.tval = 0 ∧
  Thread.blank.m = 0 ∧ Thread.blank.md = 0 ∧ Thread.blank.watches = [] ∧ Thread.blank.ecost = 0 ∧
  Thread.blank.wear = 0 ∧ (∀ q : Fin 4, Thread.blank.streams[q].bound = false)

/-! ### Registers, flags and lanes -/

/-- g0 reads as zero and discards writes; a write to any other register gives it the value, sets it full and leaves
every other register and full bit alone (R11, R14, R21). -/
def Claim.RegisterWrite : Prop :=
  ∀ (t : Thread) (v : Word),
    wrReg t 0 v = t ∧ rdReg t 0 = 0 ∧ isFull t 0 = true ∧ emptyReg t 0 = t ∧
    ∀ n, 0 < n → n < 128 →
      rdReg (wrReg t n v) n = v ∧ isFull (wrReg t n v) n = true ∧ isFull (emptyReg t n) n = false ∧
      rdReg (emptyReg t n) n = rdReg t n ∧
      (∀ m, m < 128 → m ≠ n →
        rdReg (wrReg t n v) m = rdReg t m ∧ isFull (wrReg t n v) m = isFull t m ∧
        isFull (emptyReg t n) m = isFull t m) ∧
      { wrReg t n v with regs := t.regs, full := t.full } = t

/-- A write to a flag changes that flag alone, and f0 stays 1 where it is 1 (R13). -/
def Claim.FlagWrite : Prop :=
  ∀ (t : Thread) (b : Bool),
    setFlag t 0 b = t ∧ (∀ v, getFlag (setFlags t v) 0 = true) ∧
    ∀ i, 0 < i → i < 32 →
      getFlag (setFlag t i b) i = b ∧ (∀ j, j < 32 → j ≠ i → getFlag (setFlag t i b) j = getFlag t j) ∧
      { setFlag t i b with f := t.f } = t

/-- Writing the lanes of a vector register: lane i takes its value and is full where one is given, every register outside
the sixteen and every lane without a value keeps its value and its full bit; g0 discards (R11, R91). -/
def Claim.LaneWrite : Prop :=
  ∀ (t : Thread) (v : VReg) (f : Nat → Option Word),
    (∀ i, i < 16 → 16 * v.toNat + i ≠ 0 → ∀ w, f i = some w →
      lane (wrLanes t v f) v i = w ∧ isFull (wrLanes t v f) (16 * v.toNat + i) = true) ∧
    (∀ i, i < 16 → f i = none →
      lane (wrLanes t v f) v i = lane t v i ∧
      isFull (wrLanes t v f) (16 * v.toNat + i) = isFull t (16 * v.toNat + i)) ∧
    (∀ n, n < 128 → n / 16 ≠ v.toNat →
      rdReg (wrLanes t v f) n = rdReg t n ∧ isFull (wrLanes t v f) n = isFull t n) ∧
    { wrLanes t v f with regs := t.regs, full := t.full } = t

/-! ### Integer instructions -/

/-- ADD, SUB, AND, OR, XOR, ANDN, SHL, SHR, SRA and MUL complete, give gA their result modulo 2^32 with shift amounts
modulo 32, and change nothing else; their pages and values (R47, R48, R49). -/
def Claim.PageZeroArithmetic : Prop :=
  GivesT .add false (fun b c => BitVec.ofNat 32 (b.toNat + c.toNat)) ∧
  GivesT .sub false (fun b c => BitVec.ofInt 32 (b.toNat - c.toNat : Int)) ∧
  GivesT .and false (fun b c => b &&& c) ∧ GivesT .or false (fun b c => b ||| c) ∧
  GivesT .xor false (fun b c => b ^^^ c) ∧ GivesT .andn false (fun b c => b &&& ~~~c) ∧
  GivesT .shl false (fun b c => BitVec.ofNat 32 (b.toNat * 2 ^ (c.toNat % 32))) ∧
  GivesT .shr false (fun b c => BitVec.ofNat 32 (b.toNat / 2 ^ (c.toNat % 32))) ∧
  GivesT .sra false (fun b c => BitVec.ofInt 32 (b.toInt / 2 ^ (c.toNat % 32))) ∧
  GivesT .mul false (fun b c => BitVec.ofInt 32 (b.toInt * c.toInt)) ∧
  GivesU .mov false (fun b => b) ∧
  (∀ o : ShT, ([.add o, .sub o, .and o, .or o, .xor o, .andn o, .shl o, .shr o, .sra o, .mul o] : List Instr).map
    Instr.opcode = (List.range 10).map fun k => some (0, k)) ∧
  ∀ o : ShU, (Instr.mov o).opcode = some (0, 10)

/-- ADDI, ANDI, SHLI, SHRI and SRAI complete and give gA their result of gA and the extended immediate; MOVI gives gA the
immediate and does not wait for gA (R26, R47, R48, R50). -/
def Claim.PageZeroImmediates : Prop :=
  GivesI .addi false (fun a imm => BitVec.ofInt 32 (a.toInt + imm.value 5)) ∧
  GivesI .andi false (fun a imm => a &&& BitVec.ofInt 32 (imm.value 5)) ∧
  GivesI .shli false (fun a imm => BitVec.ofNat 32 (a.toNat * 2 ^ (imm.raw.toNat % 32))) ∧
  GivesI .shri false (fun a imm => BitVec.ofNat 32 (a.toNat / 2 ^ (imm.raw.toNat % 32))) ∧
  GivesI .srai false (fun a imm => BitVec.ofInt 32 (a.toInt / 2 ^ (imm.raw.toNat % 32))) ∧
  ∀ (s : State) (t : Thread) (o : ShI), Issues { o.use false with srcs := [] } s t →
    Effect (.movi o) { o.use false with srcs := [] } s t (fun v => wrReg v o.a.toNat (BitVec.ofInt 32 (o.imm.value 5)))
      (pcAfter t (o.use false).words)

/-- DIV, DIVU, REM and REMU complete on every operand and give the quotient or the remainder of R51's steps: all ones and
the dividend for a zero divisor, the minimum and 0 for the signed minimum divided by -1. -/
def Claim.DivisionResults : Prop :=
  GivesT .div true (fun b c =>
    if c = 0 then 0xFFFFFFFF else if b.toInt = -2 ^ 31 ∧ c.toInt = -1 then 0x80000000
    else BitVec.ofInt 32 (b.toInt.tdiv c.toInt)) ∧
  GivesT .rem true (fun b c =>
    if c = 0 then b else if b.toInt = -2 ^ 31 ∧ c.toInt = -1 then 0 else BitVec.ofInt 32 (b.toInt.tmod c.toInt)) ∧
  GivesT .divu true (fun b c => if c = 0 then 0xFFFFFFFF else BitVec.ofNat 32 (b.toNat / c.toNat)) ∧
  GivesT .remu true (fun b c => if c = 0 then b else BitVec.ofNat 32 (b.toNat % c.toNat))

/-- In every case of R51 the identity b = q × c + r holds modulo 2^32. -/
def Claim.DivisionIdentity : Prop :=
  ∀ b c : Word, b = (divS b c).1 * c + (divS b c).2 ∧ b = (divU b c).1 * c + (divU b c).2

/-- MULH, MULHU, MIN, MAX, MINU and MAXU complete and give gA their result; the pages and values of R51's instructions. -/
def Claim.PageOneArithmetic : Prop :=
  GivesT .mulh true (fun b c => BitVec.ofInt 32 (b.toInt * c.toInt / 2 ^ 32)) ∧
  GivesT .mulhu true (fun b c => BitVec.ofNat 32 (b.toNat * c.toNat / 2 ^ 32)) ∧
  GivesT .min true (fun b c => BitVec.ofInt 32 (min b.toInt c.toInt)) ∧
  GivesT .max true (fun b c => BitVec.ofInt 32 (max b.toInt c.toInt)) ∧
  GivesT .minu true (fun b c => BitVec.ofNat 32 (min b.toNat c.toNat)) ∧
  GivesT .maxu true (fun b c => BitVec.ofNat 32 (max b.toNat c.toNat)) ∧
  ∀ o : ShT, ([.div o, .divu o, .rem o, .remu o, .mulh o, .mulhu o, .min o, .max o, .minu o, .maxu o] : List Instr).map
    Instr.opcode = (List.range 10).map fun k => some (1, k)

/-- CLZ, CTZ, POPC and BREV count and reverse bits and ROT rotates left; SEXT and ZEXT extend from the width imm5 + 1; the
pages and values of R52's instructions (R52, R53). -/
def Claim.BitInstructions : Prop :=
  GivesU .clz true (fun b => BitVec.ofNat 32 ((List.range 32).takeWhile fun k => !b.getLsbD (31 - k)).length) ∧
  GivesU .ctz true (fun b => BitVec.ofNat 32 ((List.range 32).takeWhile fun k => !b.getLsbD k).length) ∧
  GivesU .popc true (fun b => BitVec.ofNat 32 ((List.range 32).filter b.getLsbD).length) ∧
  (∃ f : Word → Word, (∀ b i, i < 32 → (f b).getLsbD i = b.getLsbD (31 - i)) ∧ GivesU .brev true f) ∧
  GivesI .sext true (fun a imm => (a.setWidth (imm.raw.toNat % 32 + 1)).signExtend 32) ∧
  GivesI .zext true (fun a imm => (a.setWidth (imm.raw.toNat % 32 + 1)).setWidth 32) ∧
  GivesT .rot true (fun b c => b <<< (c.toNat % 32) ||| b >>> (32 - c.toNat % 32)) ∧
  (∀ o : ShU, ([.clz o, .ctz o, .popc o, .brev o] : List Instr).map Instr.opcode =
    [some (1, 10), some (1, 11), some (1, 12), some (1, 13)]) ∧
  ∀ o : ShT, (Instr.rot o).opcode = some (1, 14)

/-! ### Compares and flags -/

/-- The compares set one flag to the truth of their relation and change nothing else: CEQ to CLEU their flag A, CEQI and
CLTI f1; the pages and values of R54's instructions (R47, R48, R54, R55). -/
def Claim.Compares : Prop :=
  (∀ o : ShK, ([.ceq o, .cne o, .clt o, .cltu o, .cle o, .cleu o] : List Instr).map Instr.opcode =
    (List.range 6).map fun k => some (0, 17 + k)) ∧
  GivesK .ceq (fun b c => b == c) ∧ GivesK .cne (fun b c => b != c) ∧
  GivesK .clt (fun b c => decide (b.toInt < c.toInt)) ∧ GivesK .cltu (fun b c => decide (b.toNat < c.toNat)) ∧
  GivesK .cle (fun b c => decide (b.toInt ≤ c.toInt)) ∧ GivesK .cleu (fun b c => decide (b.toNat ≤ c.toNat)) ∧
  ∀ (s : State) (t : Thread) (o : ShI), Issues { o.use false with dsts := [] } s t →
    Effect (.ceqi o) { o.use false with dsts := [] } s t
      (fun v => setFlag v 1 (rdReg t o.a.toNat == BitVec.ofInt 32 (o.imm.value 5)))
      (pcAfter t (o.use false).words) ∧
    Effect (.clti o) { o.use false with dsts := [] } s t
      (fun v => setFlag v 1 ((rdReg t o.a.toNat).slt (BitVec.ofInt 32 (o.imm.value 5))))
      (pcAfter t (o.use false).words)

/-- FAND, FOR, FXOR and FNOT write one flag; MFF reads the flag word; MTF writes the flags under its mask and leaves f0 at
1; SEL, value 17 of page 1, chooses by f1 (R56, R57, R58). -/
def Claim.FlagInstructions : Prop :=
  (∀ o : ShT, (Instr.sel o).opcode = some (1, 17)) ∧
  GivesL .fAnd (fun b c => b && c) ∧ GivesL .fOr (fun b c => b || c) ∧ GivesL .fXor (fun b c => b ^^ c) ∧
  ∀ (s : State) (t : Thread),
    (∀ o : ShFF, Issues o.use s t →
      Effect (.fNot o) o.use s t (fun v => setFlag v o.fa.toNat (!getFlag t o.fb.toNat)) (pcAfter t o.use.words)) ∧
    (∀ o : ShA, Issues (o.use [] [o.a.toNat]) s t →
      Effect (.mff o) (o.use [] [o.a.toNat]) s t (fun v => wrReg v o.a.toNat t.f)
        (pcAfter t (o.use [] [o.a.toNat]).words)) ∧
    (∀ o : ShU, Issues { o.use true with srcs := [o.a.toNat, o.b.toNat], dsts := [] } s t →
      Effect (.mtf o) { o.use true with srcs := [o.a.toNat, o.b.toNat], dsts := [] } s t
        (fun v => { v with f := ((t.f &&& ~~~(rdReg t o.a.toNat)) ||| (rdReg t o.b.toNat &&& rdReg t o.a.toNat)) ||| 1 })
        (pcAfter t (o.use true).words)) ∧
    (∀ o : ShT, Issues (o.use true) s t →
      Effect (.sel o) (o.use true) s t
        (fun v => wrReg v o.a.toNat (if getFlag t 1 then rdReg t o.b.toNat else rdReg t o.cNum))
        (pcAfter t (o.use true).words))

/-! ### Branches, calls and LOOP -/

/-- BR, BF, BNF, CALL, JR, JALR and LOOP complete: the PC goes to IA plus twice the displacement, or to the register, or
past the instruction; CALL and JALR leave the address of the word after the chain in their link register, LOOP counts
its register down; nothing else changes (R59, R60, R61, R62). -/
def Obligations.ControlFlow : Prop :=
  ∀ (s : State) (t : Thread),
    (∀ o : ShJ, Issues o.use s t →
      Effect (.br o) o.use s t id (t.pc + BitVec.ofInt 32 (2 * o.imm.value 10))) ∧
    (∀ o : ShFB, Issues o.use s t →
      Effect (.bf o) o.use s t id
        (if getFlag t o.f.toNat then t.pc + BitVec.ofInt 32 (2 * o.imm.value 5) else pcAfter t o.use.words) ∧
      Effect (.bnf o) o.use s t id
        (if getFlag t o.f.toNat then pcAfter t o.use.words else t.pc + BitVec.ofInt 32 (2 * o.imm.value 5))) ∧
    (∀ o : ShJ, Issues { o.use with names := [7], dsts := [7] } s t →
      Effect (.call o) { o.use with names := [7], dsts := [7] } s t (fun v => wrReg v 7 (pcAfter t o.use.words))
        (t.pc + BitVec.ofInt 32 (2 * o.imm.value 10))) ∧
    (∀ o : ShBU, Issues o.use s t → Effect (.jr o) o.use s t id (rdReg t o.b.toNat)) ∧
    (∀ o : ShU, Issues (o.use false) s t →
      Effect (.jalr o) (o.use false) s t (fun v => wrReg v o.a.toNat (pcAfter t (o.use false).words))
        (rdReg t o.b.toNat)) ∧
    (∀ o : ShI, Issues (o.use true) s t →
      (rdReg t o.a.toNat = 0 → Effect (.loop o) (o.use true) s t id (pcAfter t (o.use true).words)) ∧
      (rdReg t o.a.toNat = 1 →
        Effect (.loop o) (o.use true) s t (fun v => wrReg v o.a.toNat 0) (pcAfter t (o.use true).words)) ∧
      (rdReg t o.a.toNat ≠ 0 → rdReg t o.a.toNat ≠ 1 →
        Effect (.loop o) (o.use true) s t (fun v => wrReg v o.a.toNat (rdReg t o.a.toNat - 1))
          (t.pc + BitVec.ofInt 32 (2 * o.imm.value 5))))

/-! ### Vector instructions -/

/-- A lane-wise instruction of shape VV gives lane i of vA the value `f` of lane i of vB and of vC while F[16+i] is 1, and
changes nothing else (R91, R97). -/
def GivesLanes (mk : ShVV → Instr) (f : Word → Word → Word) : Prop :=
  ∀ (s : State) (t : Thread) (o : ShVV), Issues o.use s t →
    Effect (mk o) o.use s t
      (fun v => wrLanes v o.a fun i => if getFlag t (16 + i) then some (f (lane t o.b i) (lane t o.cNum i)) else none)
      (pcAfter t o.use.words)

/-- The lane-wise integer instructions complete with the results of their scalar counterparts in the enabled lanes;
VPERM picks lanes of vB as they were, VBCAST copies gB (R91, R97, R100). -/
def Claim.VectorInteger : Prop :=
  GivesLanes .vadd (fun b c => BitVec.ofNat 32 (b.toNat + c.toNat)) ∧
  GivesLanes .vsub (fun b c => BitVec.ofInt 32 (b.toNat - c.toNat : Int)) ∧
  GivesLanes .vmul (fun b c => BitVec.ofInt 32 (b.toInt * c.toInt)) ∧
  GivesLanes .vmin (fun b c => BitVec.ofInt 32 (min b.toInt c.toInt)) ∧
  GivesLanes .vmax (fun b c => BitVec.ofInt 32 (max b.toInt c.toInt)) ∧
  GivesLanes .vand (fun b c => b &&& c) ∧ GivesLanes .vor (fun b c => b ||| c) ∧
  GivesLanes .vxor (fun b c => b ^^^ c) ∧
  GivesLanes .vshl (fun b c => BitVec.ofNat 32 (b.toNat * 2 ^ (c.toNat % 32))) ∧
  GivesLanes .vshr (fun b c => BitVec.ofNat 32 (b.toNat / 2 ^ (c.toNat % 32))) ∧
  GivesLanes .vsra (fun b c => BitVec.ofInt 32 (b.toInt / 2 ^ (c.toNat % 32))) ∧
  ∀ (s : State) (t : Thread),
    (∀ o : ShVV, Issues o.use s t →
      Effect (.vperm o) o.use s t
        (fun v => wrLanes v o.a fun i =>
          if getFlag t (16 + i) then some (lane t o.b ((lane t o.cNum i).toNat % 16)) else none)
        (pcAfter t o.use.words)) ∧
    (∀ o : ShVS, Issues o.use s t →
      Effect (.vbcast o) o.use s t
        (fun v => wrLanes v o.a fun i => if getFlag t (16 + i) then some (rdReg t o.b.toNat) else none)
        (pcAfter t o.use.words))

/-- VSEL writes all sixteen lanes by the mask, VEXT reads and VINS writes one lane whatever the mask (R99, R100). -/
def Claim.VectorSelectAndMove : Prop :=
  ∀ (s : State) (t : Thread),
    (∀ o : ShVV, Issues o.use s t →
      Effect (.vsel o) o.use s t
        (fun v => wrLanes v o.a fun i => some (if getFlag t (16 + i) then lane t o.b i else lane t o.cNum i))
        (pcAfter t o.use.words)) ∧
    (∀ o : ShSVS, Issues o.use s t →
      Effect (.vext o) o.use s t (fun v => wrReg v o.a.toNat (lane t o.b ((rdReg t o.cNum).toNat % 16)))
        (pcAfter t o.use.words)) ∧
    (∀ o : ShVSS, Issues o.use s t →
      Effect (.vins o) o.use s t
        (fun v => wrLanes v o.a fun i => if i = (rdReg t o.cNum).toNat % 16 then some (rdReg t o.b.toNat) else none)
        (pcAfter t o.use.words))

/-- A vector compare gives gA the bitmap of the enabled lanes for which its relation holds (R98). -/
def GivesBitmap (mk : ShSVV → Instr) (rel : Word → Word → Bool) : Prop :=
  ∀ (s : State) (t : Thread) (o : ShSVV), Issues o.use s t →
    ∃ m : Word, (∀ i, i < 32 → m.getLsbD i =
        (decide (i < 16) && getFlag t (16 + i) && rel (lane t o.b i) (lane t o.cNum i))) ∧
      Effect (mk o) o.use s t (fun v => wrReg v o.a.toNat m) (pcAfter t o.use.words)

/-- VCEQ, VCLT, VFCEQ and VFCLT write their lane bitmap, bits 31:16 zero, and raise no flag: a NaN equals nothing and is
less than nothing, +0 equals -0, and other values compare as their codes' magnitudes with their signs do (R98). -/
def Claim.VectorCompares : Prop :=
  GivesBitmap .vceq (fun b c => b == c) ∧ GivesBitmap .vclt (fun b c => decide (b.toInt < c.toInt)) ∧
  GivesBitmap .vfceq feq ∧ GivesBitmap .vfclt flt ∧
  (∀ b c : Word, (isNaN b = true ∨ isNaN c = true) → feq b c = false ∧ flt b c = false) ∧
  ∀ b c : Word, isNaN b = false → isNaN c = false →
    let v (w : Word) : Int := if w.getLsbD 31 then -((w.toNat % 2 ^ 31 : Nat) : Int) else (w.toNat : Int)
    feq b c = decide (v b = v c) ∧ flt b c = decide (v b < v c)

/-- The enabled lanes of a thread, lowest first. -/
def enabledLanes (t : Thread) : List Nat := (List.range 16).filter fun i => getFlag t (16 + i)

/-- VSCAN writes the prefix sums over the enabled lanes; VREDADD, VREDMIN and VREDMAX the wrapping sum, the signed
minimum and the signed maximum of the enabled lanes, from 0, 0x7FFFFFFF and 0x80000000 (R101). -/
def Claim.VectorReductions : Prop :=
  ∀ (s : State) (t : Thread),
    (∀ o : ShVU, Issues o.use s t →
      Effect (.vscan o) o.use s t
        (fun v => wrLanes v o.a fun i =>
          if getFlag t (16 + i) then
            some (BitVec.ofNat 32 (((enabledLanes t).filter fun j => j ≤ i).map fun j => (lane t o.b j).toNat).sum)
          else none)
        (pcAfter t o.use.words)) ∧
    ∀ o : ShSV, Issues o.use s t →
      Effect (.vredadd o) o.use s t
        (fun v => wrReg v o.a.toNat (BitVec.ofNat 32 ((enabledLanes t).map fun j => (lane t o.b j).toNat).sum))
        (pcAfter t o.use.words) ∧
      Effect (.vredmin o) o.use s t
        (fun v => wrReg v o.a.toNat
          (BitVec.ofInt 32 (((enabledLanes t).map fun j => (lane t o.b j).toInt).foldl min (2 ^ 31 - 1))))
        (pcAfter t o.use.words) ∧
      Effect (.vredmax o) o.use s t
        (fun v => wrReg v o.a.toNat
          (BitVec.ofInt 32 (((enabledLanes t).map fun j => (lane t o.b j).toInt).foldl max (-2 ^ 31))))
        (pcAfter t o.use.words)

/-- The OR of the flags of the enabled lanes. -/
def orFlags (t : Thread) (f : Nat → BitVec 5) : BitVec 5 := ((enabledLanes t).map f).foldl (· ||| ·) 0

/-- A lane-wise floating instruction: enabled lanes take `f`'s value, FPST takes the OR of their flags (R91, R96). -/
def floatLanes (t : Thread) (a : VReg) (f : Nat → FpOut) (v : Thread) : Thread :=
  { (wrLanes v a fun i => if getFlag t (16 + i) then some (f i).1 else none) with
    fpst := t.fpst ||| orFlags t fun i => (f i).2 }

/-- VFADD, VFSUB, VFMUL, VFMIN, VFMAX, VFMA, VFABS, VRCP and VRSQ complete: every enabled lane takes the operation's
rounded value, FPST the OR of the flags, and nothing else changes; VFMA reads the old lanes of vA (R91, R96, R104). -/
def Obligations.VectorFloat : Prop :=
  (∀ (s : State) (t : Thread) (o : ShVV), Issues o.use s t →
    (∀ p ∈ [(Instr.vfadd o, fadd), (.vfsub o, fsub), (.vfmul o, fmul), (.vfmin o, fmin), (.vfmax o, fmax)],
      Effect p.1 o.use s t (floatLanes t o.a fun i => p.2 (lane t o.b i) (lane t o.cNum i))
        (pcAfter t o.use.words))) ∧
  (∀ (s : State) (t : Thread) (o : ShVV), Issues { o.use with srcs := lanesOf o.a ++ o.use.srcs } s t →
    Effect (.vfma o) { o.use with srcs := lanesOf o.a ++ o.use.srcs } s t
      (floatLanes t o.a fun i => ffma (lane t o.a i) (lane t o.b i) (lane t o.cNum i)) (pcAfter t o.use.words)) ∧
  (∀ (s : State) (t : Thread) (o : ShVU), Issues o.use s t →
    (∀ p ∈ [(Instr.vfabs o, fabs), (.vrcp o, frcp), (.vrsq o, frsq)],
      Effect p.1 o.use s t (floatLanes t o.a fun i => p.2 (lane t o.b i)) (pcAfter t o.use.words)))

/-- The magnitude of a finite FP32 code, in units of 2^-149 (R77). -/
def fpUnits (w : Word) : Nat :=
  let e := (w.extractLsb' 23 8).toNat
  let m := (w.extractLsb' 0 23).toNat
  if e = 0 then m else (2 ^ 23 + m) * 2 ^ (e - 1)

/-- The value of a finite FP32 code, in units of 2^-149 (R77). -/
def fpInt (w : Word) : Int := if w.getLsbD 31 then -(fpUnits w : Int) else fpUnits w

/-- A code of FP32 that is neither an infinity nor a NaN. -/
def FiniteFp (w : Word) : Prop := w.extractLsb' 23 8 ≠ 255

/-- The magnitude of a code without its sign in a floating format, in units of its smallest positive value (R77). -/
def codeUnits (f : Fmt) (a : Nat) : Nat :=
  if a / 2 ^ f.mant = 0 then a else (2 ^ f.mant + a % 2 ^ f.mant) * 2 ^ (a / 2 ^ f.mant - 1)

/-- The code and the flags that R79 gives for the magnitude num/den in units of the format's smallest positive value: the
nearest finite code, a tie to the one whose lowest bit is 0, NX where it is not exact, UF besides where it is below the
smallest normal; beyond the largest finite value the infinity, or the largest finite code, with OF and NX. -/
def Rounds (f : Fmt) (neg : Bool) (num den : Nat) (r : Nat × BitVec 5) : Prop :=
  let u := codeUnits f
  let sign := if neg then 2 ^ (f.width - 1) else 0
  let top := (u f.maxCode + u (f.maxCode + 1)) * den
  (top < 2 * num ∨ (top = 2 * num ∧ f.maxCode % 2 = 1) → r = (sign + f.infCode.getD f.maxCode, fOF ||| fNX)) ∧
  (2 * num < top ∨ (top = 2 * num ∧ f.maxCode % 2 = 0) →
    ∃ a, a ≤ f.maxCode ∧ r.1 = sign + a ∧
      (∀ b, b ≤ f.maxCode →
        (a < b → 2 * num ≤ (u a + u b) * den ∧ (2 * num = (u a + u b) * den → a % 2 = 0)) ∧
        (b < a → (u a + u b) * den ≤ 2 * num ∧ (2 * num = (u a + u b) * den → a % 2 = 0))) ∧
      r.2 = if u a * den = num then 0 else if a < 2 ^ f.mant then fNX ||| fUF else fNX)

/-- The result of an FP32 operation whose exact value is num/den in units of 2^-149. -/
def RoundsFp (neg : Bool) (num den : Nat) (r : FpOut) : Prop := Rounds .fp32 neg num den (r.1.toNat, r.2)

/-- The rounding of R79: of a fraction to every floating format but LOG6, and to an integer; and of finite operands, where
VFADD, VFSUB, VFMUL, VFMA, VRCP and VRSQ round their exact result once, an exact zero of opposite signs being +0 (R77, R79,
R80, R104). -/
def Claim.FloatRounding : Prop :=
  (∀ (f : Fmt) (neg : Bool) (n d : Nat), f ≠ .log6 → 0 < d →
    Rounds f neg (n * 2 ^ (f.bias + f.mant - 1)) d (convert (.fin neg n d) f)) ∧
  (∀ (neg : Bool) (n d : Nat) (lo hi : Int), 0 < d → ∃ y : Nat,
    2 * n ≤ (2 * y + 1) * d ∧ 2 * y * d ≤ 2 * n + d ∧
    (2 * n = (2 * y + 1) * d ∨ 2 * y * d = 2 * n + d → y % 2 = 0) ∧
    let z : Int := if neg then -(y : Int) else y
    convertInt (.fin neg n d) lo hi =
      if z < lo then (lo, fNV) else if hi < z then (hi, fNV) else (z, if y * d = n then 0 else fNX)) ∧
  (∀ b c : Word, FiniteFp b → FiniteFp c →
    (let x := fpInt b + fpInt c
     RoundsFp (if x = 0 then b.getLsbD 31 && c.getLsbD 31 else decide (x < 0)) x.natAbs 1 (fadd b c)) ∧
    (let x := fpInt b - fpInt c
     RoundsFp (if x = 0 then b.getLsbD 31 && !c.getLsbD 31 else decide (x < 0)) x.natAbs 1 (fsub b c)) ∧
    RoundsFp (b.getLsbD 31 != c.getLsbD 31) (fpUnits b * fpUnits c) (2 ^ 149) (fmul b c) ∧
    ∀ a : Word, FiniteFp a →
      let x := fpInt b * fpInt c + fpInt a * 2 ^ 149
      RoundsFp (if x = 0 then (b.getLsbD 31 != c.getLsbD 31) && a.getLsbD 31 else decide (x < 0)) x.natAbs (2 ^ 149)
        (ffma a b c)) ∧
  ∀ b : Word, FiniteFp b → fpUnits b ≠ 0 →
    RoundsFp (b.getLsbD 31) (2 ^ 298) (fpUnits b) (frcp b) ∧
    (b.getLsbD 31 = false →
      let u := fpUnits (frsq b).1
      FiniteFp (frsq b).1 ∧ (frsq b).1.getLsbD 31 = false ∧
      (∀ v : Word, FiniteFp v →
        (u < fpUnits v → 2 ^ 449 ≤ (u + fpUnits v) ^ 2 * fpUnits b ∧
          (2 ^ 449 = (u + fpUnits v) ^ 2 * fpUnits b → (frsq b).1.getLsbD 0 = false)) ∧
        (fpUnits v < u → (u + fpUnits v) ^ 2 * fpUnits b ≤ 2 ^ 449 ∧
          (2 ^ 449 = (u + fpUnits v) ^ 2 * fpUnits b → (frsq b).1.getLsbD 0 = false))) ∧
      (frsq b).2 = if u ^ 2 * fpUnits b = 2 ^ 447 then 0 else fNX)

/-- The place of a code in the order of VFMIN and VFMAX: by value, -0 before +0. -/
def fpOrder (w : Word) : Int := if w.getLsbD 31 then -((w.toNat % 2 ^ 31 : Nat) : Int) - 1 else (w.toNat : Int)

/-- The invalid operations and the special values of R104 and R105: opposite infinities added, zero times an infinity, the
square root of a value below zero give 0x7FC00000 and NV; a NaN operand gives 0x7FC00000 and no flag; an infinite operand or
product otherwise gives its infinity; the reciprocals of zeros give infinities and DZ, of infinities zeros; the minimum and
maximum pass over one NaN, take -0 as smaller than +0 and raise no flag. -/
def Claim.FloatSpecialValues : Prop :=
  fadd 0x7F800000 0xFF800000 = (0x7FC00000, fNV) ∧ fadd 0xFF800000 0x7F800000 = (0x7FC00000, fNV) ∧
  fsub 0x7F800000 0x7F800000 = (0x7FC00000, fNV) ∧ fsub 0xFF800000 0xFF800000 = (0x7FC00000, fNV) ∧
  (∀ z ∈ ([0, 0x80000000] : List Word), ∀ i ∈ ([0x7F800000, 0xFF800000] : List Word),
    fmul z i = (0x7FC00000, fNV) ∧ fmul i z = (0x7FC00000, fNV) ∧
    ∀ a, ffma a z i = (0x7FC00000, fNV) ∧ ffma a i z = (0x7FC00000, fNV)) ∧
  (∀ i ∈ ([0x7F800000, 0xFF800000] : List Word),
    (∀ c : Word, isNaN c = false → c &&& 0x7FFFFFFF ≠ 0 →
      let p : Word := if (i ^^^ c).getLsbD 31 then 0xFF800000 else 0x7F800000
      fmul i c = (p, 0) ∧ fmul c i = (p, 0) ∧
      ∀ a : Word,
        (a = p ^^^ 0x80000000 → ffma a i c = (0x7FC00000, fNV) ∧ ffma a c i = (0x7FC00000, fNV)) ∧
        (a ≠ p ^^^ 0x80000000 → isNaN a = false → ffma a i c = (p, 0) ∧ ffma a c i = (p, 0))) ∧
    (∀ b c : Word, FiniteFp b → FiniteFp c → ffma i b c = (i, 0)) ∧
    ∀ c : Word, FiniteFp c →
      fadd i c = (i, 0) ∧ fadd c i = (i, 0) ∧ fadd i i = (i, 0) ∧ fsub i c = (i, 0) ∧
      fsub c i = (i ^^^ 0x80000000, 0) ∧ fsub i (i ^^^ 0x80000000) = (i, 0)) ∧
  (∀ a b c : Word, (isNaN b = true ∨ isNaN c = true) → ffma a b c = (0x7FC00000, 0)) ∧
  (∀ a b c : Word, isNaN a = true →
    ¬ ((b &&& 0x7FFFFFFF = 0 ∧ c &&& 0x7FFFFFFF = 0x7F800000) ∨ (b &&& 0x7FFFFFFF = 0x7F800000 ∧ c &&& 0x7FFFFFFF = 0)) →
    ffma a b c = (0x7FC00000, 0)) ∧
  (∀ b : Word, b.getLsbD 31 = true → b ≠ 0x80000000 → isNaN b = false → frsq b = (0x7FC00000, fNV)) ∧
  (∀ b c : Word, (isNaN b = true ∨ isNaN c = true) →
    fadd b c = (0x7FC00000, 0) ∧ fsub b c = (0x7FC00000, 0) ∧ fmul b c = (0x7FC00000, 0)) ∧
  (∀ b : Word, isNaN b = true → fabs b = (0x7FC00000, 0) ∧ frcp b = (0x7FC00000, 0) ∧ frsq b = (0x7FC00000, 0)) ∧
  frcp 0 = (0x7F800000, fDZ) ∧ frcp 0x80000000 = (0xFF800000, fDZ) ∧ frsq 0 = (0x7F800000, fDZ) ∧
  frsq 0x80000000 = (0xFF800000, fDZ) ∧ frcp 0x7F800000 = (0, 0) ∧ frcp 0xFF800000 = (0x80000000, 0) ∧
  frsq 0x7F800000 = (0, 0) ∧
  (∀ b c : Word, isNaN b = true → isNaN c = false → fmin b c = (c, 0) ∧ fmax b c = (c, 0)) ∧
  (∀ b c : Word, isNaN b = false → isNaN c = true → fmin b c = (b, 0) ∧ fmax b c = (b, 0)) ∧
  (∀ b c : Word, isNaN b = true → isNaN c = true → fmin b c = (0x7FC00000, 0) ∧ fmax b c = (0x7FC00000, 0)) ∧
  ∀ b c : Word, isNaN b = false → isNaN c = false →
    fmin b c = (if fpOrder c < fpOrder b then c else b, 0) ∧ fmax b c = (if fpOrder b < fpOrder c then c else b, 0)

/-- The lanes as VFRED and VFSCAN take them: a disabled lane enters as -0 (R106, R107). -/
def sumInput (t : Thread) (v : VReg) (i : Nat) : Word := if getFlag t (16 + i) then lane t v i else 0x80000000

/-- The pairwise tree of R106 at node `i` of level `k`: its value and the OR of the flags of its additions. -/
def sumTree (x : Nat → Word) : Nat → Nat → FpOut
  | 0, i => (x i, 0)
  | k + 1, i =>
    ((fadd (sumTree x k i).1 (sumTree x k (i + 2 ^ k)).1).1,
      (fadd (sumTree x k i).1 (sumTree x k (i + 2 ^ k)).1).2 ||| (sumTree x k i).2 ||| (sumTree x k (i + 2 ^ k)).2)

/-- Column `i` of the scan of R107 after the steps at distances below 2^k. -/
def scanColumn (x : Nat → Word) : Nat → Nat → Word
  | 0, i => x i
  | k + 1, i => if i < 2 ^ k then scanColumn x k i else (fadd (scanColumn x k (i - 2 ^ k)) (scanColumn x k i)).1

/-- The OR of the flags of every addition of the scan. -/
def scanFlagsOf (x : Nat → Word) : BitVec 5 :=
  ((List.range 4).flatMap fun k => ((List.range 16).filter fun i => 2 ^ k ≤ i).map fun i =>
    (fadd (scanColumn x k (i - 2 ^ k)) (scanColumn x k i)).2).foldl (· ||| ·) 0

/-- VFRED adds in the fixed pairwise tree, VFSCAN in the fixed steps; FPST takes the OR of the flags of every addition,
those of disabled columns too (R106, R107). -/
def Claim.FloatReductions : Prop :=
  ∀ (s : State) (t : Thread),
    (∀ o : ShSV, Issues o.use s t →
      Effect (.vfred o) o.use s t
        (fun v => { wrReg v o.a.toNat (sumTree (sumInput t o.b) 4 0).1 with
          fpst := t.fpst ||| (sumTree (sumInput t o.b) 4 0).2 })
        (pcAfter t o.use.words)) ∧
    (∀ o : ShVU, Issues o.use s t →
      Effect (.vfscan o) o.use s t
        (fun v => { (wrLanes v o.a fun i => if getFlag t (16 + i) then some (scanColumn (sumInput t o.b) 4 i) else none) with
          fpst := t.fpst ||| scanFlagsOf (sumInput t o.b) })
        (pcAfter t o.use.words))

/-- For the same vector and mask, lane 15 of VFSCAN's sums is bit for bit the result of VFRED (R107). -/
def Claim.ScanEndsInReduction : Prop :=
  ∀ l : List Word, l.length = 16 → (fpScan l).1[15]? = some (fpTree l).1

/-- VCVTIF, VCVTFI and VCVT complete on every control word: the scaled conversions of R109 in the enabled lanes, and the
packed forms of R110 with FMT 0, 1 to 5 narrowing and widening, and 6 to 15. -/
def Obligations.Conversions : Prop :=
  ∀ (s : State) (t : Thread) (o : ShVVS), Issues o.use s t →
    let c := rdReg t o.cNum
    let k : Int := (c.setWidth 8).toInt
    Effect (.vcvtif o) o.use s t
      (floatLanes t o.a fun i => toFp ((intNum (if c.getLsbD 8 then ((lane t o.b i).toNat : Int) else (lane t o.b i).toInt)).scale k))
      (pcAfter t o.use.words) ∧
    Effect (.vcvtfi o) o.use s t
      (floatLanes t o.a fun i =>
        if c.getLsbD 8 then
          (BitVec.ofInt 32 (convertInt ((fp (lane t o.b i)).scale k) 0 (2 ^ 32 - 1)).1,
            (convertInt ((fp (lane t o.b i)).scale k) 0 (2 ^ 32 - 1)).2)
        else
          (BitVec.ofInt 32 (convertInt ((fp (lane t o.b i)).scale k) (-2 ^ 31) (2 ^ 31 - 1)).1,
            (convertInt ((fp (lane t o.b i)).scale k) (-2 ^ 31) (2 ^ 31 - 1)).2))
      (pcAfter t o.use.words) ∧
    ((c.extractLsb' 8 4).toNat = 0 →
      Effect (.vcvt o) o.use s t (floatLanes t o.a fun i => toFp ((fp (lane t o.b i)).scale k)) (pcAfter t o.use.words)) ∧
    (6 ≤ (c.extractLsb' 8 4).toNat →
      Effect (.vcvt o) o.use s t
        (fun v => { (wrLanes v o.a fun i => if c.getLsbD 12 && !getFlag t (16 + i) then none else some 0) with
          fpst := t.fpst ||| fNV })
        (pcAfter t o.use.words)) ∧
    ∀ f, cvtFmt (c.extractLsb' 8 4).toNat = some f →
      (c.getLsbD 12 = false →
        Effect (.vcvt o) o.use s t
          (fun v => { (wrLanes v o.a fun j => some (narrowed t o.b f k j)) with
            fpst := t.fpst ||| orFlags t fun i => (convert ((fp (lane t o.b i)).scale k) f).2 })
          (pcAfter t o.use.words)) ∧
      (c.getLsbD 12 = true →
        Effect (.vcvt o) o.use s t (floatLanes t o.a (widenLane t o.b f k)) (pcAfter t o.use.words))

/-! ### Memory: places, bytes and resolution -/

/-- A place that the part has (R18, R67, R118, R166, R229, R324, R329). -/
def PlaceExists : Place → Prop
  | .lstore c a => c < 65536 ∧ a < 2 ^ 16
  | .qstore q a => q < 16384 ∧ a < 2 ^ 17
  | .dstore d a => d < 4 ∧ a < 2 ^ 27
  | .cstore q a => q < 16384 ∧ a < 2 ^ 14
  | .wstore c a => c < 65536 ∧ a < 2 ^ 14
  | .hbm d a => d < 4 ∧ a < 192000000000
  | .host a => a < 2 ^ 48
  | .peer p d a => p < 1024 ∧ d < 4 ∧ a < 192000000000
  | .frame d a => d < 4 ∧ a < 2 ^ 16

/-- Two places of the part are the same byte only if they are the same place: no level of memory aliases another. -/
def Claim.PlacesDistinct : Prop := ∀ p q : Place, PlaceExists p → PlaceExists q → flat p = flat q → p = q

/-- A store of `n` bytes puts its little-endian bytes at its place and leaves every other byte alone; a register frame
takes no store and keeps its bytes (R6, R329). -/
def Claim.StoreBytes : Prop :=
  ∀ (s : State) (p q : Place) (n v : Nat), (∀ d a, p ≠ .frame d a) →
    ((∀ d a, q ≠ .frame d a) → readByte (storeNat s p n v) q =
      if flat p ≤ flat q ∧ flat q < flat p + n then BitVec.ofNat 8 (v / 256 ^ (flat q - flat p)) else readByte s q) ∧
    (∀ d a, readByte (storeNat s p n v) (.frame d a) = readByte s (.frame d a)) ∧
    ∀ d a, storeNat s (.frame d a) n v = s

/-- What was stored is loaded again, little-endian, by a load of the same bytes (R6, R20). -/
def Claim.LoadAfterStore : Prop :=
  ∀ (s : State) (p : Place) (n v : Nat), (∀ d a, p ≠ .frame d a) → loadNat (storeNat s p n v) p n = v % 256 ^ n

/-- Resolution through a segment of every type, in R66's order: a NONE type or a missing right, an offset outside 0 to 2^29 -
1, a misaligned offset, the limit, the end of what the type names; else the byte at BASE plus offset of the code, local, quad
or die store or of the address space, the owner's byte of a SPREAD address, or the byte of a present core that a REMOTE
address of less than 64 bytes names. A core without a redundant pair is meant (R66, R148, R167). -/
def Obligations.Resolution : Prop :=
  ∀ (s : State) (c : Nat) (d : Desc) (off : Int) (n : Nat) (load : Bool), n ∈ [1, 2, 4, 64] →
    let r := resolve s c d off n n (if load then needR else needW)
    let right := if load then segR d else segW d
    let o := off.toNat
    let a := segBase d + o
    (segType d = 0 ∨ right = false → r = .error .segv) ∧
    (segType d ≠ 0 → right = true →
      (off < 0 ∨ 2 ^ 29 ≤ off → r = .error .segv) ∧
      (0 ≤ off → off < 2 ^ 29 →
        (o % n ≠ 0 → r = .error .align) ∧
        (o % n = 0 → segLimit d < o + n - 1 → r = .error .segv) ∧
        (o % n = 0 → o + n - 1 ≤ segLimit d →
          (∀ e ∈ ([(1, 0x4000, .at (.cstore (quadOf c) a)), (2, 0x10000, .at (.lstore c a)),
              (3, 0x20000, .at (.qstore (quadOf c) a)), (4, 0x8000000, .at (.dstore (dieOf c) a)),
              (5, 2 ^ 48, .virt a)] : List (Nat × Nat × Target)),
            segType d = e.1 →
            (e.2.1 ≤ a + n - 1 → r = .error .segv) ∧
            (a + n - 1 < e.2.1 → (e.1 = 2 → (getCore s c).pairs = []) → r = .ok e.2.2)) ∧
          (segType d = 6 →
            let lg := segTarg d % 8 + 6
            let count := segBase d / 2 ^ 32 % 2 ^ 16 + 1
            let owner := segBase d / 2 ^ 16 % 2 ^ 16 + o / 2 ^ lg % count
            let la := segBase d % 2 ^ 16 + o / 2 ^ lg / count * 2 ^ lg + o % 2 ^ lg
            (0x10000 ≤ la + n - 1 → r = .error .segv) ∧
            (la + n - 1 < 0x10000 → (getCore s owner).pairs = [] →
              r = .ok (if owner = c then .at (.lstore c la) else .away owner la))) ∧
          (segType d = 7 →
            let tc := segBase d / 2 ^ 16 % 2 ^ 16
            let la := segBase d % 2 ^ 16 + o
            (n = 64 ∨ 0x10000 ≤ la + n - 1 ∨ presentCore s tc = false → r = .error .segv) ∧
            (n < 64 → la + n - 1 < 0x10000 → presentCore s tc = true → (getCore s tc).pairs = [] →
              r = .ok (.remote tc la))))))

/-! ### Loads and stores -/

/-- LDB, LDBS, LDH, LDHS and LDW without RLX, where their address leads to place `p` and nothing stands in their way:
they complete, give gA the little-endian value at `p`, zero- or sign-extended, count the request of a GLOBAL access, and
change nothing else: no byte of memory (R20, R63, R66, R73, R328). -/
def Obligations.Loads : Prop :=
  ∀ (s : State) (t : Thread) (o : ShM) (p : Place) (va : Option Nat),
    Issues (o.useLoad false) s t → o.rlx = none → Clear s → p.inside = true →
    ∀ m ∈ ([(.ldb o, 1, false), (.ldbs o, 1, true), (.ldh o, 2, false), (.ldhs o, 2, true), (.ldw o, 4, false)] :
        List (Instr × Nat × Bool)),
      locate s s.turn t (selOf (rdReg t o.b.toNat))
        (offOf (rdReg t o.b.toNat) + o.imm.value 0 * m.2.1 + o.mem.idxVal t * m.2.1) m.2.1 m.2.1 needR =
          .here p va [] →
      CompletesFrom m.1 s (countAll s s.turn p [])
        (goesTo
          (wrReg (issuedThread (o.useLoad false) s t) o.a.toNat
            (if m.2.2 then (BitVec.ofNat (8 * m.2.1) (loadNat s p m.2.1)).signExtend 32
              else BitVec.ofNat 32 (loadNat s p m.2.1)))
          (pcAfter t (o.words false)))

/-- STB, STH and STW without RLX, where their address leads to place `p` and nothing stands in their way: they complete
and store the low bytes of gA at `p`, waking the watchers of its line; their thread changes in nothing but its own WAKE
where it has armed that line (R20, R63, R66, R70, R73). -/
def Obligations.Stores : Prop :=
  ∀ (s : State) (t : Thread) (o : ShM) (p : Place) (va : Option Nat),
    Issues (o.useStore false) s t → o.rlx = none → Clear s → p.inside = true → t.pend = none →
    ∀ m ∈ ([(.stb o, 1), (.sth o, 2), (.stw o, 4)] : List (Instr × Nat)),
      locate s s.turn t (selOf (rdReg t o.b.toNat))
        (offOf (rdReg t o.b.toNat) + o.imm.value 0 * m.2 + o.mem.idxVal t * m.2) m.2 m.2 needW = .here p va [] →
      CompletesFrom m.1 s (storeNat (countAll s s.turn p []) p m.2 ((rdReg t o.a.toNat).toNat % 256 ^ m.2))
        (goesTo
          { issuedThread (o.useStore false) s t with wake := t.wake || armedBy t p }
          (pcAfter t (o.words false)))

/-- LDV and STV without RLX move the enabled lanes between vA and the 64 bytes at their place, as one request, and change
nothing else (R67, R73, R328). -/
def Claim.VectorLoadStore : Prop :=
  ∀ (s : State) (t : Thread) (o : ShMV) (p : Place) (va : Option Nat),
    o.rlx = none → Clear s → p.inside = true → t.pend = none →
    let off : Int := offOf (rdReg t o.b.toNat) + o.imm.value 0 * 64 + o.mem.idxVal t * 64
    let s1 : State :=
      match enabledLanes t with
      | [] => s
      | i :: _ => countAll s s.turn (p.shift (4 * i)) []
    (Issues o.useLoad s t →
      locate s s.turn t (selOf (rdReg t o.b.toNat)) off 64 64 needR = .here p va [] →
      CompletesFrom (.ldv o) s s1
        (goesTo
          (wrLanes (issuedThread o.useLoad s t) o.a fun i =>
            if getFlag t (16 + i) then some (BitVec.ofNat 32 (loadNat s (p.shift (4 * i)) 4)) else none)
          (pcAfter t o.words))) ∧
    (Issues o.useStore s t →
      locate s s.turn t (selOf (rdReg t o.b.toNat)) off 64 64 needW = .here p va [] →
      CompletesFrom (.stv o) s
        ((enabledLanes t).foldl (fun s i => storeNat s (p.shift (4 * i)) 4 (lane t o.a i).toNat) s1)
        (goesTo
          { issuedThread o.useStore s t with
            wake := t.wake || (enabledLanes t).any fun i => armedBy t (p.shift (4 * i)) }
          (pcAfter t o.words)))

/-- VGATH and VSCAT without RLX, where the address of every enabled lane leads to its place: the gather fills the enabled
lanes, the scatter stores them in ascending order; a SPREAD or REMOTE base traps SEGV with TVAL its value, whatever the
mask (R102). -/
def Claim.GatherScatter : Prop :=
  ∀ (s : State) (t : Thread) (o : ShVG),
    let ty := segType ((t.segs[selOf (rdReg t o.b.toNat)]?).getD 0)
    (ty = 6 ∨ ty = 7 →
      (Issues o.useLoad s t → Traps (.vgath o) s t ⟨.segv, 1, rdReg t o.b.toNat, t.pc, false, 0⟩) ∧
      (Issues o.useStore s t → Traps (.vscat o) s t ⟨.segv, 2, rdReg t o.b.toNat, t.pc, false, 0⟩)) ∧
    ∀ (p : Nat → Place) (va : Nat → Option Nat),
      ty ≠ 6 → ty ≠ 7 → o.rlx = none → Clear s → (∀ i ∈ enabledLanes t, (p i).inside = true) → t.pend = none →
      let off : Nat → Int := fun i =>
        offOf (rdReg t o.b.toNat) + o.imm.value 0 * 4 + (lane t o.c i).toInt * 4
      (Issues o.useLoad s t →
        (∀ i ∈ enabledLanes t,
          locate s s.turn t (selOf (rdReg t o.b.toNat)) (off i) 4 4 needR = .here (p i) (va i) []) →
        CompletesFrom (.vgath o) s ((enabledLanes t).foldl (fun s i => countAll s s.turn (p i) []) s)
          (goesTo
            (wrLanes (issuedThread o.useLoad s t) o.a fun i =>
              if getFlag t (16 + i) then
                some (BitVec.ofNat 32
                  (loadNat ((enabledLanes t).foldl (fun s i => countAll s s.turn (p i) []) s) (p i) 4))
              else none)
            (pcAfter t o.words))) ∧
      (Issues o.useStore s t →
        (∀ i ∈ enabledLanes t,
          locate s s.turn t (selOf (rdReg t o.b.toNat)) (off i) 4 4 needW = .here (p i) (va i) []) →
        CompletesFrom (.vscat o) s
          ((enabledLanes t).foldl (fun s i => storeNat s (p i) 4 (lane t o.a i).toNat)
            ((enabledLanes t).foldl (fun s i => countAll s s.turn (p i) []) s))
          (goesTo
            { issuedThread o.useStore s t with wake := t.wake || (enabledLanes t).any fun i => armedBy t (p i) }
            (pcAfter t o.words)))

/-- A relaxed access of the thread whose cycle it is, as its issue leaves it: outstanding in group `g`, with these words. -/
structure IssuedRelaxed (s : State) (g : BitVec 3) (k : AccKind) (each : Bool) (ps : List Part) (a : Access) : Prop where
  core : a.core = s.turn
  slot : a.slot = curSlot s
  kind : a.kind = k
  group : a.group = some g
  stage : a.stage = .going
  each : a.each = each
  parts : a.parts = ps

/-- The instruction issues with its access outstanding, and its thread goes on with these registers empty. -/
def GoesOut (i : Instr) (u : Use) (s : State) (t : Thread) (g : BitVec 3) (k : AccKind) (each : Bool) (ps : List Part)
    (dests : List Nat) : Prop :=
  ∃ a : Access, IssuedRelaxed s g k each ps a ∧
    CompletesFrom i s (addFlight s a) (goesTo (emptyRegs (issuedThread u s t) dests) (pcAfter t u.words))

/-- With RLX a load or a store, LDB to STW, LDV, STV, VGATH and VSCAT, is done with its instruction at issue: the
destinations of a load are empty, the access is outstanding in its ordering group with its place, its address and its data
in each word, and nothing else has changed; with four outstanding already it waits, not ready on memory (R14, R73, R74,
R102, R169). -/
def Obligations.RelaxedIssue : Prop :=
  ∀ (s : State) (t : Thread) (g : BitVec 3),
    (∀ o : ShM, o.rlx = some g →
      let off : Nat → Int := fun n => offOf (rdReg t o.b.toNat) + o.imm.value 0 * n + o.mem.idxVal t * n
      let named : Nat → Word := fun n => namedAddr (selOf (rdReg t o.b.toNat)) (off n)
      (Issues (o.useLoad false) s t →
        ∀ m ∈ ([(.ldb o, 1, false), (.ldbs o, 1, true), (.ldh o, 2, false), (.ldhs o, 2, true), (.ldw o, 4, false)] :
            List (Instr × Nat × Bool)),
          (4 ≤ (ownRelaxed s s.turn (curSlot s)).length → Waits m.1 s s t .waitMem) ∧
          ∀ (p : Place) (va : Option Nat), (ownRelaxed s s.turn (curSlot s)).length < 4 →
            locate s s.turn t (selOf (rdReg t o.b.toNat)) (off m.2.1) m.2.1 m.2.1 needR = .here p va [] →
            GoesOut m.1 (o.useLoad false) s t g .load false
              [⟨o.a.toNat, p, m.2.1, 0, m.2.2, va, named m.2.1, 0⟩] [o.a.toNat]) ∧
      (Issues (o.useStore false) s t →
        ∀ m ∈ ([(.stb o, 1), (.sth o, 2), (.stw o, 4)] : List (Instr × Nat)),
          (4 ≤ (ownRelaxed s s.turn (curSlot s)).length → Waits m.1 s s t .waitMem) ∧
          ∀ (p : Place) (va : Option Nat), (ownRelaxed s s.turn (curSlot s)).length < 4 →
            locate s s.turn t (selOf (rdReg t o.b.toNat)) (off m.2) m.2 m.2 needW = .here p va [] →
            GoesOut m.1 (o.useStore false) s t g .store false
              [⟨0, p, m.2, rdReg t o.a.toNat, false, va, named m.2, 0⟩] [])) ∧
    (∀ o : ShMV, o.rlx = some g →
      let off : Int := offOf (rdReg t o.b.toNat) + o.imm.value 0 * 64 + o.mem.idxVal t * 64
      let words : Place → Option Nat → List Part := fun p va =>
        (enabledLanes t).map fun i =>
          ⟨16 * o.a.toNat + i, p.shift (4 * i), 4, lane t o.a i, false, va.map (· + 4 * i),
            namedAddr (selOf (rdReg t o.b.toNat)) off + BitVec.ofNat 32 (4 * i), 0⟩
      (Issues o.useLoad s t →
        (4 ≤ (ownRelaxed s s.turn (curSlot s)).length → Waits (.ldv o) s s t .waitMem) ∧
        ∀ (p : Place) (va : Option Nat), (ownRelaxed s s.turn (curSlot s)).length < 4 →
          locate s s.turn t (selOf (rdReg t o.b.toNat)) off 64 64 needR = .here p va [] →
          GoesOut (.ldv o) o.useLoad s t g .load false (words p va)
            ((enabledLanes t).map fun i => 16 * o.a.toNat + i)) ∧
      (Issues o.useStore s t →
        (4 ≤ (ownRelaxed s s.turn (curSlot s)).length → Waits (.stv o) s s t .waitMem) ∧
        ∀ (p : Place) (va : Option Nat), (ownRelaxed s s.turn (curSlot s)).length < 4 →
          locate s s.turn t (selOf (rdReg t o.b.toNat)) off 64 64 needW = .here p va [] →
          GoesOut (.stv o) o.useStore s t g .store false (words p va) [])) ∧
    ∀ o : ShVG, o.rlx = some g →
      segType ((t.segs[selOf (rdReg t o.b.toNat)]?).getD 0) ≠ 6 →
      segType ((t.segs[selOf (rdReg t o.b.toNat)]?).getD 0) ≠ 7 →
      let off : Nat → Int := fun i => offOf (rdReg t o.b.toNat) + o.imm.value 0 * 4 + (lane t o.c i).toInt * 4
      let words : (Nat → Place) → (Nat → Option Nat) → List Part := fun p va =>
        (enabledLanes t).map fun i =>
          ⟨16 * o.a.toNat + i, p i, 4, lane t o.a i, false, va i, namedAddr (selOf (rdReg t o.b.toNat)) (off i), 0⟩
      (Issues o.useLoad s t →
        (4 ≤ (ownRelaxed s s.turn (curSlot s)).length → Waits (.vgath o) s s t .waitMem) ∧
        ∀ (p : Nat → Place) (va : Nat → Option Nat), (ownRelaxed s s.turn (curSlot s)).length < 4 →
          (∀ i ∈ enabledLanes t,
            locate s s.turn t (selOf (rdReg t o.b.toNat)) (off i) 4 4 needR = .here (p i) (va i) []) →
          GoesOut (.vgath o) o.useLoad s t g .load true (words p va)
            ((enabledLanes t).map fun i => 16 * o.a.toNat + i)) ∧
      (Issues o.useStore s t →
        (4 ≤ (ownRelaxed s s.turn (curSlot s)).length → Waits (.vscat o) s s t .waitMem) ∧
        ∀ (p : Nat → Place) (va : Nat → Option Nat), (ownRelaxed s s.turn (curSlot s)).length < 4 →
          (∀ i ∈ enabledLanes t,
            locate s s.turn t (selOf (rdReg t o.b.toNat)) (off i) 4 4 needW = .here (p i) (va i) []) →
          GoesOut (.vscat o) o.useStore s t g .store true (words p va) [])

/-- A load or store whose address does not resolve traps with the cause that resolution finds, KIND 1 for a load and 2
for a store, TPC at the instruction and TVAL the segmented address it named; nothing else changes (R19, R63, R66,
R379). -/
def Obligations.AccessTraps : Prop :=
  ∀ (s : State) (t : Thread) (o : ShM) (e : Cause), mayIssue s ⟨s.turn, curSlot s, 0, 0⟩ o.rlx = true →
    (Issues (o.useLoad false) s t →
      ∀ m ∈ ([(.ldb o, 1), (.ldbs o, 1), (.ldh o, 2), (.ldhs o, 2), (.ldw o, 4)] : List (Instr × Nat)),
        let off : Int := offOf (rdReg t o.b.toNat) + o.imm.value 0 * m.2 + o.mem.idxVal t * m.2
        resolve s s.turn ((t.segs[selOf (rdReg t o.b.toNat)]?).getD 0) off m.2 m.2 needR = .error e →
        Traps m.1 s t ⟨e, 1, namedAddr (selOf (rdReg t o.b.toNat)) off, t.pc, false, 0⟩) ∧
    (Issues (o.useStore false) s t →
      ∀ m ∈ ([(.stb o, 1), (.sth o, 2), (.stw o, 4)] : List (Instr × Nat)),
        let off : Int := offOf (rdReg t o.b.toNat) + o.imm.value 0 * m.2 + o.mem.idxVal t * m.2
        resolve s s.turn ((t.segs[selOf (rdReg t o.b.toNat)]?).getD 0) off m.2 m.2 needW = .error e →
        Traps m.1 s t ⟨e, 2, namedAddr (selOf (rdReg t o.b.toNat)) off, t.pc, false, 0⟩)

/-! ### The order of checks, and taking an exception -/

/-- R33's order at an issue, for instructions of four families: a guard flag of 0 ends the instruction with no effect but
the PC's move past it; then PRIV outside slot 0; then REGLIM; then the wait for full sources, with nothing changed but what
the thread is not ready on, and no count of WLIM (R178; TVAL 0 of PRIV and REGLIM is log entry 36, DEDUCED). -/
def Obligations.IssueOrder : Prop :=
  ∀ (s : State) (t : Thread) (oT : ShT) (oM : ShM) (oU : ShU) (oS : ShSp),
    threadAt s s.turn (curSlot s) = some t → t.role = .alone → t.late = none →
    ∀ q ∈ ([(.add oT, oT.use false), (.ldw oM, oM.useLoad false), (.spawn oU, (oU.use true).slot0),
        (.mtsp oS, (oS.use [oS.a.toNat] []).slot0)] : List (Instr × Use)),
      (q.2.guard ≠ 0 → getFlag t q.2.guard.toNat = false →
        Completes q.1 s (goesTo (chargeThread t (getCore s s.turn).vt) (pcAfter t q.2.words))) ∧
      ((q.2.guard = 0 ∨ getFlag t q.2.guard.toNat = true) →
        (q.2.priv = true → curSlot s ≠ 0 → Traps q.1 s t ⟨.priv, 0, 0, t.pc, false, 0⟩) ∧
        ((q.2.priv = false ∨ curSlot s = 0) →
          (∀ n ∈ q.2.names, t.lim ≤ n → Traps q.1 s t ⟨.reglim, 0, 0, t.pc, false, 0⟩) ∧
          ((∀ n ∈ q.2.names, n < t.lim) → streamTrap t (q.2.sync ++ q.2.dsts) = none →
            ∀ n ∈ q.2.srcs, isFull t n = false →
              exec q.1 s = .next (setThread s s.turn (curSlot s)
                (if streamBusy (getCore s s.turn) (curSlot s) t (q.2.srcs ++ q.2.writes t) then
                  { t with status := .waitMem }
                else { t with status := .waitMem, waitFrom := none })))))

/-- The value of TCAUSE's bits 15:0 for a trap: KIND for SEGV, ALIGN and PAGE, SLOT, and the code of R252 (R253). -/
def causeBits (slot : Nat) (x : TrapInfo) : Word :=
  BitVec.ofNat 32 ((if x.cause = .segv ∨ x.cause = .align ∨ x.cause = .page then x.kind else 0) * 4096 + slot * 256 +
    x.cause.code)

/-- Where the thread of the slot whose cycle it is issues; addresses play no part. -/
def issueAt (s : State) (t : Thread) : Ctx := ⟨s.turn, curSlot s, t.pc, t.pc⟩

/-- Delivery of a trap in slots 1 to 15 (R252, R254, R255): a vectored cause with a vector, outside slot 15 and with
INTRAP clear, goes to the vector with INTRAP set; every other trap stops the thread at the return address, keeps INTRAP,
and leaves a trap notice; the trap registers are written unless the trap is a double trap. -/
def Claim.TrapTaken : Prop :=
  ∀ (s : State) (c i : Nat) (t : Thread) (x : TrapInfo), 0 < i → i < 16 →
    (goesToVector t i x = true →
      threadAt (takeTrap s c i t x) c i =
        some { t with tpc := x.ret, tval := x.tval, tcause := causeBits i x ||| 0x80000000, pc := vectorOf t x,
                      pend := none, status := .ready, waitFrom := none, lifted := false, heldAt := none,
                      faultPage := none, missAt := none }) ∧
    (goesToVector t i x = false → inTrap t = false →
      threadAt (takeTrap s c i t x) c i =
        some { t with tpc := x.ret, tval := x.tval, tcause := causeBits i x &&& 0x7FFFFFFF, pc := x.ret, pend := none,
                      status := .ready, waitFrom := none, lifted := false, heldAt := none, faultPage := none,
                      missAt := none, stopped := true, byError := x.cause = .memerr } ∧
      ∃ n, (getSlot (takeTrap s c i t x) c i).notice = some n ∧ n.chan = 1 ∧ n.srcSlot = i ∧ n.srcCore = c ∧
        n.words.drop 1 = [0x02000000 ||| causeBits i x, x.ret, x.tval, t.lid, 0, 0, 0]) ∧
    (inTrap t = true →
      threadAt (takeTrap s c i t x) c i =
        some { t with pc := x.ret, pend := none, status := .ready, waitFrom := none, lifted := false, heldAt := none,
                      faultPage := none, missAt := none, stopped := true, byError := x.cause = .memerr } ∧
      ∃ n, (getSlot (takeTrap s c i t x) c i).notice = some n ∧
        n.words.drop 1 = [0x02010000 ||| causeBits i x, x.ret, x.tval, t.lid, 0, 0, 0]) ∧
    ((traceOf s (dieOf c)).ctl.getLsbD 31 = false → ∀ p, readByte (takeTrap s c i t x) p = readByte s p)

/-- The vectors of R252: UPC for a PAGE that is not on a K frame, TVEC for WAITLIM, BRK and TRAP; every other cause, a
vector of 0, a thread in a trap and slot 15 go to slot 0. -/
def Claim.VectoredCauses : Prop :=
  ∀ (t : Thread) (i : Nat) (x : TrapInfo),
    (goesToVector t i x = true ↔
      inTrap t = false ∧ i ≠ 15 ∧
        ((x.cause = .page ∧ x.kframe = false ∧ t.upc ≠ 0) ∨
          ((x.cause = .waitlim ∨ x.cause = .brk ∨ x.cause = .trap) ∧ t.tvec ≠ 0)))

/-- A trap in slot 0 goes to slot 0's TVEC whatever its cause; a trap in slot 0 while INTRAP is set halts the core and
stops the package with a fatal error (R254, R357). -/
def Claim.SlotZeroTrap : Prop :=
  ∀ (s : State) (c : Nat) (t : Thread) (x : TrapInfo),
    (inTrap t = false →
      threadAt (takeTrap s c 0 t x) c 0 =
        some { t with tpc := x.ret, tval := x.tval, tcause := causeBits 0 x ||| 0x80000000, pc := t.tvec,
                      pend := none, status := .ready, waitFrom := none, lifted := false, heldAt := none,
                      faultPage := none, missAt := none }) ∧
    (inTrap t = true →
      (getCore (takeTrap s c 0 t x) c).halted = true ∧ (takeTrap s c 0 t x).cc.fatal = true)

/-- Once the package is stopped by a fatal error, a step with nothing on the agenda changes nothing (R357). -/
def Claim.FatalStops : Prop := ∀ s : State, s.agenda = [] → s.cc.fatal = true → step s = .next s

/-! ### Tagged words, watches, atomics, reservations, fences -/

/-- The place of a word operand of page 4: where its address leads, in this package, under the rights of its access. -/
def WordAt (s : State) (t : Thread) (b : Reg) (imm : Imm) (idx : Int) (need : Need) (p : Place) (va : Option Nat) : Prop :=
  locate s s.turn t (selOf (rdReg t b.toNat)) (offOf (rdReg t b.toNat) + imm.value 0 * 4 + idx * 4) 4 4 need =
    .here p va [] ∧ p.inside = true

/-- LDE and LDT on a full word take its value, and LDT leaves it empty; on an empty word they take their place on its
waiting list and their thread is not ready; STF stores and sets the word full, STE stores and leaves it empty; TAGRD
reads FULL and WATCH (R69, R176, R182). -/
def Obligations.TaggedAccesses : Prop :=
  ∀ (s : State) (t : Thread) (o : ShM) (p : Place) (va : Option Nat),
    o.rlx = none → Clear s → t.pend = none →
    let v := BitVec.ofNat 32 (loadNat s p 4)
    let d := (rdReg t o.a.toNat).toNat
    (Issues (o.useLoad true).oncely s t → WordAt s t o.b o.imm (o.mem.idxVal t) needRT p va →
      (isFullWord s p = true →
        CompletesFrom (.lde o) s (countAll s s.turn p [])
          (goesTo (wrReg (issuedThread (o.useLoad true).oncely s t) o.a.toNat v) (pcAfter t (o.words true)))) ∧
      (isFullWord s p = false → ∃ s' a u, exec (.lde o) s = .next s' ∧ s'.flight = [a] ∧ a.stage = .listed ∧
        a.kind = .lde ∧ a.core = s.turn ∧ a.slot = curSlot s ∧ threadAt s' s.turn (curSlot s) = some u ∧
        u.status = .waitMem ∧ u.regs = t.regs ∧ u.pc = t.pc)) ∧
    (Issues (o.useLoad true).oncely s t → WordAt s t o.b o.imm (o.mem.idxVal t) needRWT p va →
      (isFullWord s p = true →
        CompletesFrom (.ldt o) s (setFullWord (countAll s s.turn p []) p false)
          (goesTo (wrReg (issuedThread (o.useLoad true).oncely s t) o.a.toNat v) (pcAfter t (o.words true)))) ∧
      (isFullWord s p = false → ∃ s' a u, exec (.ldt o) s = .next s' ∧ s'.flight = [a] ∧ a.stage = .listed ∧
        a.kind = .ldt ∧ a.core = s.turn ∧ a.slot = curSlot s ∧ threadAt s' s.turn (curSlot s) = some u ∧
        u.status = .waitMem ∧ u.regs = t.regs ∧ u.pc = t.pc)) ∧
    (Issues (o.useStore true).oncely s t → WordAt s t o.b o.imm (o.mem.idxVal t) needWT p va →
      CompletesFrom (.stf o) s (setFullWord (storeNat (countAll s s.turn p []) p 4 d) p true)
        (goesTo { issuedThread (o.useStore true).oncely s t with wake := t.wake || armedBy t p }
          (pcAfter t (o.words true))) ∧
      CompletesFrom (.ste o) s (setFullWord (storeNat (countAll s s.turn p []) p 4 d) p false)
        (goesTo { issuedThread (o.useStore true).oncely s t with wake := t.wake || armedBy t p }
          (pcAfter t (o.words true)))) ∧
    ∀ n : ShMN, Issues (plainLoadUse n).oncely s t → WordAt s t n.b n.imm (n.mem.idxVal t) needRT p va →
      CompletesFrom (.tagrd n) s (countAll s s.turn p [])
        (goesTo
          (wrReg (issuedThread (plainLoadUse n).oncely s t) n.a.toNat
            (BitVec.ofNat 32 ((if isWatched s p then 2 else 0) + if isFullWord s p then 1 else 0)))
          (pcAfter t n.words))

/-- The atomics read the old word into gA and store the new one at one instant; AMOCAS stores only where the old word is
gA, and says so in f1 (R184). -/
def Claim.Atomics : Prop :=
  ∀ (s : State) (t : Thread) (o : ShM) (p : Place) (va : Option Nat),
    o.rlx = none → Clear s → t.pend = none → WordAt s t o.b o.imm (o.mem.idxVal t) needRWA p va →
    let old := BitVec.ofNat 32 (loadNat s p 4)
    let d := rdReg t o.a.toNat
    (Issues (o.useBoth true).oncely s t →
      ∀ q ∈ ([(.amoadd o, old + d), (.amomin o, BitVec.ofInt 32 (min old.toInt d.toInt)),
          (.amomax o, BitVec.ofInt 32 (max old.toInt d.toInt)), (.amoand o, old &&& d), (.amoor o, old ||| d),
          (.amoxor o, old ^^^ d), (.amoswp o, d)] : List (Instr × Word)),
        CompletesFrom q.1 s (storeNat (countAll s s.turn p []) p 4 q.2.toNat)
          (goesTo
            (wrReg { issuedThread (o.useBoth true).oncely s t with wake := t.wake || armedBy t p } o.a.toNat old)
            (pcAfter t (o.words true)))) ∧
    (Issues (casUse o).oncely s t →
      (old = d →
        CompletesFrom (.amocas o) s (storeNat (countAll s s.turn p []) p 4 (rdReg t (o.a.toNat + 1)).toNat)
          (goesTo
            (setFlag (wrReg { issuedThread (casUse o).oncely s t with wake := t.wake || armedBy t p } o.a.toNat old)
              1 true)
            (pcAfter t (o.words true)))) ∧
      (old ≠ d →
        CompletesFrom (.amocas o) s (countAll s s.turn p [])
          (goesTo (setFlag (wrReg (issuedThread (casUse o).oncely s t) o.a.toNat old) 1 false)
            (pcAfter t (o.words true)))))

/-- RSV on a free word takes its reservation, gives gA the word and clears f3; RLS by the holder stores gA and gives the
reservation up; RLS by a thread that does not hold the word stores nothing and sets f3 (R180, R185). -/
def Claim.Reservations : Prop :=
  ∀ (s : State) (t : Thread) (o : ShMN) (p : Place) (va : Option Nat),
    s.flight = [] → s.bads = [] → (∀ j ∈ s.jigs.toList, j.move = none) → t.pend = none →
    (s.resvs = [] → Issues (plainLoadUse o).oncely s t → WordAt s t o.b o.imm (o.mem.idxVal t) needRWA p va →
      CompletesFrom (.rsv o) s
        { countAll s s.turn p [] with
          resvs := [⟨wordKey p, s.turn, curSlot s, some (getCore s s.turn).cycle⟩] }
        (goesTo
          (setFlag (wrReg (issuedThread (plainLoadUse o).oncely s t) o.a.toNat (BitVec.ofNat 32 (loadNat s p 4))) 3 false)
          (pcAfter t o.words))) ∧
    (Issues (plainStoreUse o).oncely s t → WordAt s t o.b o.imm (o.mem.idxVal t) needWA p va →
      (∀ r : Resv, s.resvs = [r] → r.word = wordKey p → r.core = s.turn → r.slot = curSlot s →
        CompletesFrom (.rls o) s
          { storeNat (countAll s s.turn p []) p 4 (rdReg t o.a.toNat).toNat with resvs := [] }
          (goesTo { issuedThread (plainStoreUse o).oncely s t with wake := t.wake || armedBy t p }
            (pcAfter t o.words))) ∧
      (s.resvs = [] →
        CompletesFrom (.rls o) s (countAll s s.turn p [])
          (goesTo (setFlag (issuedThread (plainStoreUse o).oncely s t) 3 true) (pcAfter t o.words))))

/-- WATCH arms the line of a word in one of four registers and says in f1 whether it has it, UNWATCH disarms it and
clears WAKE with the last line, WAIT goes on at once with WAKE set and clears it and parks without it, FENCE goes on
where every access of the thread has performed at its scope and waits where one has not (R177, R183, R186). -/
def Obligations.WatchesAndFences : Prop :=
  ∀ (s : State) (t : Thread),
    (∀ (o : ShMZ) (p : Place) (va : Option Nat),
      Issues (watchUse o).oncely s t → WordAt s t o.b o.imm (o.mem.idxVal t) needRT p va → Clear s →
      Completes (.watch o) s
        (goesTo
          (if lineKey p ∈ t.watches then setFlag (issuedThread (watchUse o).oncely s t) 1 true
            else if t.watches.length < 4 then
              setFlag { issuedThread (watchUse o).oncely s t with watches := t.watches ++ [lineKey p] } 1 true
            else setFlag (issuedThread (watchUse o).oncely s t) 1 false)
          (pcAfter t o.words)) ∧
      Completes (.unwatch o) s
        (goesTo
          (if lineKey p ∈ t.watches then
            { issuedThread (watchUse o).oncely s t with
              watches := t.watches.filter fun w => w != lineKey p
              wake := t.wake && !(t.watches.filter fun w => w != lineKey p).isEmpty }
            else issuedThread (watchUse o).oncely s t)
          (pcAfter t o.words))) ∧
    (∀ o : ShZ, Issues o.use.oncely s t →
      (t.wake = true → Effect (.wait o) o.use.oncely s t (fun v => { v with wake := false }) (pcAfter t o.use.words)) ∧
      (t.wake = false → ∃ s' u, exec (.wait o) s = .next s' ∧ threadAt s' s.turn (curSlot s) = some u ∧
        u.status = .parked ∧ u.pend = some ⟨.park, pcAfter t o.use.words, 0, []⟩ ∧ u.regs = t.regs)) ∧
    (∀ o : ShSc, Issues o.use.oncely s t →
      (o.scope = 0 ∨ allPerformed s s.turn (curSlot s) o.scope.toNat = true →
        Effect (.fence o) o.use.oncely s t id (pcAfter t o.use.words)) ∧
      (o.scope ≠ 0 → allPerformed s s.turn (curSlot s) o.scope.toNat = false →
        Waits (.fence o) s s t .waitMem))

/-! ### Special and shared registers -/

/-- MFS and, in slot 0, MFSP read every special register of R40: where and what the thread is, its launch's numbers, its
floating and wait state, the core's tags, the counter and its latch, its wear and cost, its queue base and stride and its
trap registers (R40, R81, R118, R119, R146, R178, R210, R235, R253, R277, R296, R365). -/
def Claim.SpecialValues : Prop :=
  ∀ (s : State) (t : Thread) (o : ShSp), o.bank = 0 →
    ∀ q ∈ ([(0, BitVec.ofNat 32 (curSlot s)), (1, BitVec.ofNat 32 s.turn), (2, BitVec.ofNat 32 (s.turn / 4)),
        (3, BitVec.ofNat 32 (s.turn / 16384)), (4, BitVec.ofNat 32 (s.cc.pkg % 1024)),
        (5, BitVec.ofNat 32 (s.cc.pod % 1024)), (6, t.rank), (7, t.npop), (8, t.lid), (9, BitVec.ofNat 32 t.lim),
        (10, t.fpst.setWidth 32), (11, t.wlim), (12, (getCore s s.turn).tags.setWidth 32),
        (13, (getCore s s.turn).tags.extractLsb' 32 32), (14, s.time.setWidth 32), (15, t.timeLatch), (17, t.ecost),
        (18, t.qbase), (19, t.qstride), (20, t.upc), (21, t.tvec), (22, t.tcause), (23, t.tpc), (24, t.tval)] :
        List (Nat × Word)),
      o.num.toNat = q.1 →
      let f : Thread → Thread := fun v =>
        wrReg (if q.1 = 14 then { v with timeLatch := s.time.extractLsb' 32 32 } else v) o.a.toNat q.2
      (Issues (o.use [] [o.a.toNat]) s t →
        Effect (.mfs o) (o.use [] [o.a.toNat]) s t f (pcAfter t (o.use [] []).words)) ∧
      (Issues (o.use [] [o.a.toNat]).slot0 s t →
        Effect (.mfsp o) (o.use [] [o.a.toNat]).slot0 s t f (pcAfter t (o.use [] []).words))

/-- The read of WEAR counts the charge of its own issue (R296). -/
def Claim.WearRead : Prop :=
  ∀ (s : State) (t : Thread) (o : ShSp), o.bank = 0 → o.num = 16 → Issues (o.use [] [o.a.toNat]) s t →
    Effect (.mfs o) (o.use [] [o.a.toNat]) s t
      (fun v => wrReg v o.a.toNat (chargeThread t (getCore s s.turn).vt).wear) (pcAfter t (o.use [] []).words)

/-- MTS writes FPST, WLIM, QBASE, QSTRIDE, UPC, TVEC and TPC with their reserved bits kept zero and ignores a write of
TCAUSE, TVAL and every read-only register; MTSP in slot 0 writes TCAUSE's fields and TVAL as well (R40, R81, R146, R178,
R253, R277). -/
def Claim.OwnBankWrites : Prop :=
  ∀ (s : State) (t : Thread) (o : ShSp), o.bank = 0 →
    let w := rdReg t o.a.toNat
    ∀ q ∈ ([(10, fun v => { v with fpst := w.setWidth 5 }), (11, fun v => { v with wlim := w }),
        (18, fun v => { v with qbase := w &&& 0xFFFFFFFC }), (19, fun v => { v with qstride := w &&& 0xFFFC }),
        (20, fun v => { v with upc := w &&& 0xFFFFFFFE }), (21, fun v => { v with tvec := w &&& 0xFFFFFFFE }),
        (23, fun v => { v with tpc := w })] : List (Nat × (Thread → Thread))),
      (o.num.toNat = q.1 →
        (Issues (o.use [o.a.toNat] []) s t →
          Effect (.mts o) (o.use [o.a.toNat] []) s t q.2 (pcAfter t (o.use [] []).words)) ∧
        (Issues (o.use [o.a.toNat] []).slot0 s t →
          Effect (.mtsp o) (o.use [o.a.toNat] []).slot0 s t q.2 (pcAfter t (o.use [] []).words))) ∧
      (o.num.toNat ∈ [0, 1, 2, 3, 4, 5, 6, 7, 8, 9, 12, 13, 14, 15, 16, 17, 22, 24] →
        Issues (o.use [o.a.toNat] []) s t →
        Effect (.mts o) (o.use [o.a.toNat] []) s t id (pcAfter t (o.use [] []).words)) ∧
      (Issues (o.use [o.a.toNat] []).slot0 s t →
        (o.num.toNat = 22 →
          Effect (.mtsp o) (o.use [o.a.toNat] []).slot0 s t (fun v => { v with tcause := w &&& 0x8000FFFF })
            (pcAfter t (o.use [] []).words)) ∧
        (o.num.toNat = 24 →
          Effect (.mtsp o) (o.use [o.a.toNat] []).slot0 s t (fun v => { v with tval := w })
            (pcAfter t (o.use [] []).words)))

/-- The privileged bank: MFS and MTS trap PRIV on it; MFSP reads HSEGS and ASN and MTSP writes HSEGS where the value is a
multiple of 64, ASN being read-only (R40, R277; TVAL 0 of PRIV is log entry 36, DEDUCED). -/
def Claim.PrivilegedRegisters : Prop :=
  ∀ (s : State) (t : Thread) (o : ShSp), o.bank = 2 →
    (Issues (o.use [] []) s t →
      Traps (.mfs o) s t ⟨.priv, 0, 0, t.pc, false, 0⟩ ∧ Traps (.mts o) s t ⟨.priv, 0, 0, t.pc, false, 0⟩) ∧
    (Issues (o.use [] [o.a.toNat]).slot0 s t →
      (o.num = 0 → Effect (.mfsp o) (o.use [] [o.a.toNat]).slot0 s t
        (fun v => wrReg v o.a.toNat (getCore s s.turn).hsegs) (pcAfter t (o.use [] []).words)) ∧
      (o.num = 1 → Effect (.mfsp o) (o.use [] [o.a.toNat]).slot0 s t
        (fun v => wrReg v o.a.toNat (BitVec.ofNat 32 t.asn)) (pcAfter t (o.use [] []).words))) ∧
    (Issues (o.use [o.a.toNat] []).slot0 s t →
      (o.num = 0 → (rdReg t o.a.toNat).toNat % 65536 % 64 = 0 →
        CompletesFrom (.mtsp o) s
          (modCore s s.turn fun k => { k with hsegs := (rdReg t o.a.toNat) &&& 0xFFFF })
          (goesTo (issuedThread (o.use [o.a.toNat] []).slot0 s t) (pcAfter t (o.use [] []).words))) ∧
      ((o.num = 1 ∨ (rdReg t o.a.toNat).toNat % 65536 % 64 ≠ 0) →
        Effect (.mtsp o) (o.use [o.a.toNat] []).slot0 s t id (pcAfter t (o.use [] []).words)))

/-- MTS to a shared register completes, and puts its value, with the cycle, last among the writes of that register alone; a read of it by MFS on the same core, in a cycle 16 or more after the last
write, gives the value last written; a read within 16 cycles of a write gives the old value or one of the values written
since (which one is left open: the model's free value, log entry 9) (R116, R117). -/
def Obligations.SharedRegisters : Prop :=
  ∀ (s : State) (t : Thread) (o : ShSp), o.bank = 1 → o.num.toNat < 8 →
    (Issues (o.use [o.a.toNat] []).oncely s t →
      CompletesFrom (.mts o) s (writeShared s s.turn o.num.toNat (rdReg t o.a.toNat))
        (goesTo (issuedThread (o.use [o.a.toNat] []).oncely s t) (pcAfter t (o.use [] []).words))) ∧
    (∀ (v : Word) (n : Nat), n < 8 →
      let at_ (s : State) : Shared := (getCore s s.turn).shared[n]?.getD ⟨0, [], .replicate 16 0⟩
      at_ (writeShared s s.turn o.num.toNat v) =
        if n = o.num.toNat then { at_ s with writes := (at_ s).writes ++ [((getCore s s.turn).cycle, v)] } else at_ s) ∧
    (Issues (o.use [] [o.a.toNat]) s t →
      ∃ w, CompletesFrom (.mfs o) s (readShared s s.turn (curSlot s) o.num.toNat).1
          (goesTo (wrReg (issuedThread (o.use [] [o.a.toNat]) s t) o.a.toNat w) (pcAfter t (o.use [] []).words)) ∧
        let r := (getCore s s.turn).shared[o.num.toNat]?.getD ⟨0, [], .replicate 16 0⟩
        (w = r.val ∨ w ∈ r.writes.map (·.2)) ∧
        ((∀ e ∈ r.writes, e.1 + 16 ≤ (getCore s s.turn).cycle) → w = ((r.writes.getLast?).map (·.2)).getD r.val))

/-! ### Threads, launches, messages and streams -/

/-- An instruction of use `u` in progress: what it waits for, the address after it, the register that its end writes, its
status, and the synchronised registers with the values that they have back if it is given up (R19, R114, R267). -/
def inProgress (s : State) (u : Use) (t : Thread) (w : Waiting) (reg : Nat) (st : Status) : Thread :=
  { issuedThread u s t with
    pend := some ⟨w, pcAfter t u.words, reg, u.sync.map fun n => (n, rdReg t n)⟩, status := st
    waitFrom := some (getCore s s.turn).cycle }

/-- The 64 bytes of a record that a register names lie at this place, in this package, and no mark stands in the way. -/
def RecordAt (s : State) (t : Thread) (a : Word) (off : Nat) (p : Place) : Prop :=
  locateRange s s.turn t (selOf a) (offOf a + off : Nat) 64 64 needR = .ok [(p, [])] ∧ p.inside = true

/-- SPAWN in slot 0: a good record makes a READY thread in the slot it asks for, or in the lowest vacant work slot, with
the PC, count, rank, limit, vectors and seeds of the record and every other register zero and full, and gA takes the
slot's number; with no such slot vacant gA is 0; a record out of range gives 0xFFFFFFFF and makes nothing (R12, R136). -/
def Obligations.Spawn : Prop :=
  ∀ (s : State) (t : Thread) (o : ShU) (p : Place),
    Issues (o.use true).slot0 s t → Clear s → RecordAt s t (rdReg t o.b.toNat) 0 p →
    let s1 := countAll s s.turn p []
    let ws := rangeWords s1 [p] 64
    let v := issuedThread (o.use true).slot0 s t
    let next := pcAfter t (o.use true).words
    (spawnOk ws = false →
      CompletesFrom (.spawn o) s s1 (goesTo (wrReg v o.a.toNat 0xFFFFFFFF) next)) ∧
    (spawnOk ws = true → (spawnSegs s1 s.turn t ws).toList.all segValid = true → (getCore s s.turn).pairs = [] →
      (spawnSlot (getCore s s.turn) (recWant ws) = none →
        CompletesFrom (.spawn o) s s1 (goesTo (wrReg v o.a.toNat 0) next)) ∧
      (∀ i, spawnSlot (getCore s s.turn) (recWant ws) = some i → ∃ u,
        CompletesFrom (.spawn o) s (setThread s1 s.turn i u) (goesTo (wrReg v o.a.toNat (BitVec.ofNat 32 i)) next) ∧
        1 ≤ i ∧ i ≤ 14 ∧ (recWant ws ≠ 0 → i = recWant ws) ∧ ((getCore s s.turn).slotAt i).isVacant = true ∧
        u.pc = wordAt ws 0 ∧ u.lim = (wordAt ws 1).toNat % 256 ∧ u.rank = wordAt ws 2 ∧ u.wlim = wordAt ws 3 ∧
        u.tvec = wordAt ws 13 ∧ u.upc = wordAt ws 14 ∧ u.status = .ready ∧ u.kind = .spawned ∧ u.lid = 0 ∧
        u.asn = t.asn ∧ u.f = 0xFFFF0001 ∧
        (∀ k, 1 ≤ k → k ≤ 8 → rdReg u k = wordAt ws (3 + k)) ∧ (∀ k, 8 < k → rdReg u k = 0) ∧
        (∀ k, k < 128 → isFull u k = true)))

/-- REAP in slot 0 gives gA the exit word of an EXITED slot, sets f1 and makes the slot VACANT, and gives 0 and clears f1
for any other slot. EXIT traps CONVOY in a convoy and ILLEGAL in slot 0, and waits while a relaxed access is outstanding;
else it leaves its slot VACANT, or EXITED with its code for a spawned thread, holds no reservation, and counts in its
launch. TRIGGER waits until every access has performed at package scope, and then marks its thread, unless that is a
spawned one (R131, R133, R137, R138, R139; TVAL 0 of CONVOY and ILLEGAL is log entry 36, DEDUCED). -/
def Obligations.ReapExitTrigger : Prop :=
  ∀ (s : State) (t : Thread),
    (∀ o : ShU, Issues (o.use true).slot0 s t →
      let i := (rdReg t o.b.toNat).toNat % 16
      (∀ w, (getSlot s s.turn i).content = .exited w →
        CompletesFrom (.reap o) s (setContent s s.turn i .vacant)
          (goesTo (setFlag (wrReg (issuedThread (o.use true).slot0 s t) o.a.toNat w) 1 true)
            (pcAfter t (o.use true).words))) ∧
      ((∀ w, (getSlot s s.turn i).content ≠ .exited w) →
        Effect (.reap o) (o.use true).slot0 s t (fun v => setFlag (wrReg v o.a.toNat 0) 1 false)
          (pcAfter t (o.use true).words))) ∧
    (∀ o : ShA, Issues (o.use [o.a.toNat] []).oncely s t →
      (t.convoy = true → Traps (.exit o) s t ⟨.convoy, 0, 0, t.pc, false, 0⟩) ∧
      (t.convoy = false → curSlot s = 0 → Traps (.exit o) s t ⟨.illegal, 0, 0, t.pc, false, 0⟩) ∧
      (t.convoy = false → curSlot s ≠ 0 → ownRelaxed s s.turn (curSlot s) ≠ [] → Waits (.exit o) s s t .waitMem) ∧
      (t.convoy = false → curSlot s ≠ 0 → ownFlight s s.turn (curSlot s) = [] →
        ∃ s', exec (.exit o) s = .next s' ∧
          (getSlot s' s.turn (curSlot s)).content =
            (if t.kind = .spawned then .exited (BitVec.ofNat 32 ((rdReg t o.a.toNat).toNat % 256)) else .vacant) ∧
          s'.mem = s.mem ∧ s'.flight = s.flight ∧
          (∀ r ∈ s'.resvs, ¬ (r.core = s.turn ∧ r.slot = curSlot s)) ∧
          s'.front.launches = s.front.launches.map (fun l =>
            if t.lid ≠ 0 ∧ l.lid = t.lid then
              { l with exit := max l.exit ((rdReg t o.a.toNat).toNat % 256), count := l.count + 1,
                       members := l.members.filter fun m => m.rank != t.rank.toNat }
            else l))) ∧
    (∀ o : ShZ, Issues o.use.oncely s t →
      (allPerformed s s.turn (curSlot s) 4 = false → Waits (.trigger o) s s t .waitMem) ∧
      (allPerformed s s.turn (curSlot s) 4 = true → t.kind = .spawned →
        Effect (.trigger o) o.use.oncely s t id (pcAfter t o.use.words)) ∧
      (allPerformed s s.turn (curSlot s) 4 = true → t.kind ≠ .spawned →
        CompletesFrom (.trigger o) s
          { s with front := { s.front with launches := s.front.launches.map fun l =>
              if t.lid ≠ 0 ∧ l.lid = t.lid then
                (if t.convoy then { l with untriggered := if t.triggered then l.untriggered else l.untriggered - 1 }
                 else { l with members := l.members.map fun m =>
                   if m.rank = t.rank.toNat then { m with triggered := true } else m })
              else l } }
          (goesTo { issuedThread o.use.oncely s t with triggered := true } (pcAfter t o.use.words))))

/-- LAUNCH reads its 128-byte descriptor and answers in gA: 3 for a queue that is not opened to the device, 2 for a halted
one, and 0 where the record is taken into the queue's places on chip; where it is the first there, the producers that are
queued or running now are those it waits for (R122, R124, R131, R140; answer 3 before answer 2 is log entry 42, DEDUCED).
Answer 1, of a full queue, is left out. -/
def Claim.LaunchAnswers : Prop :=
  ∀ (s : State) (t : Thread) (o : ShT) (p1 p2 : Place),
    Issues (o.use true).oncely s t → Clear s →
    RecordAt s t (rdReg t o.b.toNat) 0 p1 → RecordAt s t (rdReg t o.b.toNat) 64 p2 →
    let s1 := countAll (countAll s s.turn p1 []) s.turn p2 []
    let q := (rdReg t o.cNum).toNat % 64
    let desc := wordsNat (rangeWords s1 [p1] 64 ++ rangeWords s1 [p2] 64)
    let v := issuedThread (o.use true).oncely s t
    let next := pcAfter t (o.use true).words
    ((getQueue s q).devq = false → CompletesFrom (.launch o) s s1 (goesTo (wrReg v o.a.toNat 3) next)) ∧
    ((getQueue s q).devq = true → (getQueue s q).halt = true →
      CompletesFrom (.launch o) s s1 (goesTo (wrReg v o.a.toNat 2) next)) ∧
    ((getQueue s q).devq = true → (getQueue s q).halt = false → (getQueue s q).recs.length < 32 →
      (getQueue s q).ovCount = 0 →
      let s2 := setQueue s1 q { getQueue s q with recs := (getQueue s q).recs ++ [⟨desc, none⟩] }
      CompletesFrom (.launch o) s (if (getQueue s q).recs = [] then headArrives s2 q else s2)
        (goesTo (wrReg v o.a.toNat 0) next))

/-- BAR.lane goes on at once; a wider BAR of a thread of a population, up to the package, arrives and waits for its episode;
BAR in a convoy traps CONVOY (R133, R141; TVAL 0 of CONVOY is log entry 36, DEDUCED). BAR.pod is left out. -/
def Claim.BarArrives : Prop :=
  ∀ (s : State) (t : Thread) (o : ShSc), Issues o.use.oncely s t →
    (t.convoy = true → Traps (.bar o) s t ⟨.convoy, 0, 0, t.pc, false, 0⟩) ∧
    (t.convoy = false → t.kind = .launch → t.lid ≠ 0 → o.scope.toNat < 5 →
      (o.scope = 0 → Effect (.bar o) o.use.oncely s t id (pcAfter t o.use.words)) ∧
      (o.scope ≠ 0 →
        CompletesFrom (.bar o) s s
          (inProgress s o.use.oncely t (.bar o.scope.toNat) 0 .waitMsg)))

/-- CHSET writes a channel's entry and gives the old one, or 0xFFFFFFFF for a bad one; CHBLK and CHUNB set and clear BLK;
channels 0 to 7 are slot 0's (R172, R187; TVAL 0 of PRIV is log entry 36, DEDUCED). -/
def Claim.Channels : Prop :=
  ∀ (s : State) (t : Thread),
    (∀ o : ShAB, Issues (o.use [o.a.toNat, o.b.toNat] [o.a.toNat]).oncely s t →
      let u := (o.use [o.a.toNat, o.b.toNat] [o.a.toNat]).oncely
      let ch := (rdReg t o.a.toNat).toNat % 64
      (ch < 8 → curSlot s ≠ 0 → Traps (.chset o) s t ⟨.priv, 0, 0, t.pc, false, 0⟩) ∧
      ((8 ≤ ch ∨ curSlot s = 0) →
        (entOk (rdReg t o.b.toNat) = true →
          CompletesFrom (.chset o) s (modCore s s.turn fun k => setChan k ch (rdReg t o.b.toNat))
            (goesTo (wrReg (issuedThread u s t) o.a.toNat (chanEntry (getCore s s.turn) ch)) (pcAfter t u.words))) ∧
        (entOk (rdReg t o.b.toNat) = false →
          Effect (.chset o) u s t (fun v => wrReg v o.a.toNat 0xFFFFFFFF) (pcAfter t u.words)))) ∧
    ∀ o : ShA, Issues (o.use [o.a.toNat] []).oncely s t →
      let u := (o.use [o.a.toNat] []).oncely
      let ch := (rdReg t o.a.toNat).toNat % 64
      (ch < 8 → curSlot s ≠ 0 →
        Traps (.chblk o) s t ⟨.priv, 0, 0, t.pc, false, 0⟩ ∧ Traps (.chunb o) s t ⟨.priv, 0, 0, t.pc, false, 0⟩) ∧
      ((8 ≤ ch ∨ curSlot s = 0) →
        CompletesFrom (.chblk o) s
          (modCore s s.turn fun k => setChan k ch (chanEntry k ch ||| 0x00040000))
          (goesTo (issuedThread u s t) (pcAfter t u.words)) ∧
        CompletesFrom (.chunb o) s
          (modCore s s.turn fun k => setChan k ch (chanEntry k ch &&& 0xFFFBFFFF))
          (goesTo (issuedThread u s t) (pcAfter t u.words)))

/-- SEND to a present core on a channel that its slot may use sends one message with word 0 naming channel, slot and core
and the seven registers from gB (zeros for g0) as its payload, and waits for the answer; channels 0 to 3, and 4 to 7
outside slot 0, trap PRIV, and an absent core QUEUE (R170, R173, R187; TVAL 0 of both is log entry 36, DEDUCED). -/
def Claim.SendGoesOut : Prop :=
  ∀ (s : State) (t : Thread) (o : ShAB), Issues (o.use (o.a.toNat :: payloadRegs o) []).oncely s t →
    let u := (o.use (o.a.toNat :: payloadRegs o) []).oncely
    let c := (rdReg t o.a.toNat).toNat % 65536
    let ch := (rdReg t o.a.toNat).toNat / 65536 % 64
    ((ch < 4 ∨ (ch < 8 ∧ curSlot s ≠ 0)) → Traps (.send o) s t ⟨.priv, 0, 0, t.pc, false, 0⟩) ∧
    ((8 ≤ ch ∨ (4 ≤ ch ∧ curSlot s = 0)) →
      (presentCore s c = false → Traps (.send o) s t ⟨.queue, 0, 0, t.pc, false, 0⟩) ∧
      (presentCore s c = true → allPerformed s s.turn (curSlot s) 4 = true →
        CompletesFrom (.send o) s
          { s with
            net := s.net ++ [⟨s.serial, s.turn, curSlot s, c, ch,
              BitVec.ofNat 32 (ch * 2 ^ 20 + curSlot s * 2 ^ 16 + s.turn) ::
                (List.range 7).map (fun j => if o.b = 0 then 0 else rdReg t (o.b.toNat + j)), none, none, false, 0⟩]
            serial := s.serial + 1 }
          (inProgress s u t (.send s.serial) 0 .waitMsg)))

/-- BIND of q0 to q2 reads a 64-byte descriptor and binds the queue to gB with its address, count and stride; a
descriptor out of range, or gB bound to another queue, traps QUEUE; q3 needs no descriptor; UNBIND waits until q2 has
written what it has taken, and ends the binding; words asked for and not yet delivered are given up; a descriptor in
another package is asked for over the device link first (R188, R190, R333; TVAL 0 of QUEUE is log entry 36, DEDUCED). -/
def Obligations.BindUnbind : Prop :=
  ∀ (s : State) (t : Thread),
    (∀ (o : ShBind) (p : Place), Issues o.use s t → Clear s →
      let q := o.q.toNat
      (boundElsewhere t q o.b.toNat = true → Traps (.bind o) s t ⟨.queue, 0, 0, t.pc, false, 0⟩) ∧
      (boundElsewhere t q o.b.toNat = false →
        (q = 3 → Effect (.bind o) o.use s t
          (fun v => setStream v 3 { (streamOf v 3).ended with bound := true, reg := o.b.toNat })
          (pcAfter t o.use.words)) ∧
        (q < 3 → RecordAt s t (rdReg t o.c.toNat) 0 p →
          let s1 := countAll s s.turn p []
          let ws := rangeWords s1 [p] 64
          (streamDescOk ws = true →
            CompletesFrom (.bind o) s s1
              (goesTo
                (setStream (issuedThread o.use s t) q
                  { (streamOf t q).ended with
                    bound := true, reg := o.b.toNat, addr := wordAt ws 0, left := (wordAt ws 1).toNat,
                    stride := wordAt ws 2 })
                (pcAfter t o.use.words))) ∧
          (streamDescOk ws = false → Traps (.bind o) s t ⟨.queue, 0, 0, t.pc, false, 0⟩)) ∧
        (q < 3 → p.inside = false →
          locateRange s s.turn t (selOf (rdReg t o.c.toNat)) (offOf (rdReg t o.c.toNat)) 64 64 needR = .ok [(p, [])] →
          ∃ s' a, exec (.bind o) s = .next s' ∧ s'.flight = [a] ∧ a.core = s.turn ∧ a.slot = curSlot s ∧
            a.kind = .load ∧ a.parts.map (·.place) = [p] ∧ s'.mem = s.mem ∧
            threadAt s' s.turn (curSlot s) = some { t with status := .waitMem }))) ∧
    ∀ o : ShQ, Issues o.use.oncely s t →
      (streamOf t o.q.toNat).ended.bound = false ∧
      (o.q.toNat = 2 → streamIdle s s.turn (curSlot s) = false → Waits (.unbind o) s s t .waitMem) ∧
      (o.q.toNat ≠ 2 ∨ streamIdle s s.turn (curSlot s) = true →
        CompletesFrom (.unbind o) s
          { s with
            flight := s.flight.filter fun f =>
              !(f.core = s.turn && f.slot = curSlot s && f.via = .queue o.q.toNat && isLoadKind f.kind) }
          (goesTo
            (setStream (issuedThread o.use.oncely s t) o.q.toNat (streamOf t o.q.toNat).ended)
            (pcAfter t o.use.words)))

/-! ### Convoys -/

/-- The first 24 registers of a thread, the others zero. -/
def first24 (t : Thread) : Vector (BitVec 32) 128 := Vector.ofFn fun j => if j.val < 24 then (t.regs[j.val]?).getD 0 else 0

/-- CVY with gB = g0 makes the thread a convoy in place and gA 0; with a record it makes a new convoy in a vacant slot
(gA 0), in the arrival queue (1), nowhere for want of a place (2) or of members (3), and gives 0xFFFFFFFF for a bad record;
a thread that may not be a convoy, or is one and names g0, traps CONVOY (R143, R159; TVAL 0 of CONVOY is log entry 36,
DEDUCED). -/
def Obligations.ConvoyCreation : Prop :=
  ∀ (s : State) (t : Thread) (o : ShU), Issues (o.use true) s t →
    let v := issuedThread (o.use true) s t
    let next := pcAfter t (o.use true).words
    (o.b = 0 → o.a.toNat < 24 → mayConvoy s t = true → t.convoy = false → 24 ≤ t.lim →
      CompletesFrom (.cvy o) s
        { s with front := { s.front with launches := s.front.launches.map fun l =>
            if l.lid = t.lid then
              { l with
                convoys := l.convoys + 1, untriggered := if t.triggered then l.untriggered else l.untriggered + 1
                conv := true, members := l.members.filter fun m => m.rank != t.rank.toNat }
            else l } }
        (goesTo
          (wrReg { v with convoy := true, lim := 24, md := 0, full := v.full ||| (BitVec.allOnes 128 <<< 24),
                          regs := first24 t } o.a.toNat 0) next)) ∧
    (o.b ≠ 0 → mayConvoy s t = false → Traps (.cvy o) s t ⟨.convoy, 0, 0, t.pc, false, 0⟩) ∧
    (o.b = 0 → o.a.toNat < 24 → mayConvoy s t = false ∨ t.convoy = true →
      Traps (.cvy o) s t ⟨.convoy, 0, 0, t.pc, false, 0⟩) ∧
    ∀ p, o.b ≠ 0 → mayConvoy s t = true → Clear s → RecordAt s t (rdReg t o.b.toNat) 0 p →
      let s1 := countAll s s.turn p []
      let ws := rangeWords s1 [p] 64
      ((codeAddrOk (wordAt ws 0) = false ∨ wordAt ws 1 ≠ 0) →
        CompletesFrom (.cvy o) s s1 (goesTo (wrReg v o.a.toNat 0xFFFFFFFF) next)) ∧
      (codeAddrOk (wordAt ws 0) = true → wordAt ws 1 = 0 →
        ((∀ w ∈ ws.drop 8, w = 0) → CompletesFrom (.cvy o) s s1 (goesTo (wrReg v o.a.toNat 3) next)) ∧
        ((∃ w ∈ ws.drop 8, w ≠ 0) →
          (∀ i l, vacantSlots (getCore s s.turn) = i :: l → ∃ u,
            CompletesFrom (.cvy o) s (addConvoy (setThread s1 s.turn i u) u) (goesTo (wrReg v o.a.toNat 0) next) ∧
            u.pc = wordAt ws 0 ∧ u.convoy = true ∧ u.lim = 24 ∧ u.lid = t.lid ∧
            u.m = BitVec.ofNat 256 (wordsNat (ws.drop 8)) ∧ u.md = 0 ∧ u.status = .ready) ∧
          (vacantSlots (getCore s s.turn) = [] →
            freePlaces (getCore s s.turn) ≤ (getCore s s.turn).refused.length →
            CompletesFrom (.cvy o) s s1 (goesTo (wrReg v o.a.toNat 2) next)) ∧
          (vacantSlots (getCore s s.turn) = [] →
            (getCore s s.turn).refused.length < freePlaces (getCore s s.turn) → ∃ u,
            CompletesFrom (.cvy o) s
              (addConvoy
                (modCore { s1 with serial := s.serial + 1 } s.turn fun k =>
                  { k with arrivals := k.arrivals ++ [⟨s.serial, u, false⟩] }) u)
              (goesTo (wrReg v o.a.toNat 1) next) ∧
            u.pc = wordAt ws 0 ∧ u.convoy = true ∧ u.lim = 24 ∧ u.lid = t.lid ∧
            u.m = BitVec.ofNat 256 (wordsNat (ws.drop 8)) ∧ u.md = 0 ∧ u.status = .ready)))

/-- JOIN of a convoy at a node of its own core, once its accesses have performed: it merges into the holder of a matching
entry and ends, goes on with f1 := 0 where it has no window or the table is full, and parks on an entry of its own
otherwise; a thread that is no convoy, or an address that is not SPREAD, traps CONVOY (R154, R155; TVAL 0 of CONVOY is log
entry 36, DEDUCED). An entry whose holder stands in the arrival queue is left out. -/
def Obligations.JoinOutcomes : Prop :=
  ∀ (s : State) (t : Thread) (o : ShI),
    let u := Use.of o.p (wordsOfChain true o.p o.imm.k) [o.a.toNat] [] []
    let node := rdReg t o.a.toNat
    let d := (t.segs[selOf node]?).getD 0
    let next := pcAfter t u.words
    Issues u s t →
    ((t.convoy = false ∨ segType d ≠ 6) → Traps (.join o) s t ⟨.convoy, 0, 0, t.pc, false, 0⟩) ∧
    ∀ la, t.convoy = true → segType d = 6 → resolve s s.turn d (offOf node) 4 4 needR = .ok (.at (.lstore s.turn la)) →
      s.flight = [] →
      let hit := (getCore s s.turn).joint.find? fun j => j.ia = t.pc.setWidth 14 && j.node = node && j.lid = t.lid
      (∀ e h, hit = some e → e.holder = .slot h → h ≠ curSlot s → h < 16 →
        ∀ w, threadAt s s.turn h = some w → ∃ s', exec (.join o) s = .next s' ∧
          threadAt s' s.turn h = some { w with md := w.md ||| t.md ||| (w.m &&& t.m), m := w.m ||| t.m } ∧
          (getSlot s' s.turn (curSlot s)).content = .vacant ∧ s'.mem = s.mem) ∧
      (hit = none → (o.imm.raw = 0 ∨ 32 ≤ (getCore s s.turn).joint.length) →
        CompletesFrom (.join o) s (modCore s s.turn fun k => { k with lookup := some k.cycle })
          (goesTo { setFlag (issuedThread u s t) 1 false with joinPending := false } next)) ∧
      (hit = none → o.imm.raw ≠ 0 → (getCore s s.turn).joint.length < 32 →
        CompletesFrom (.join o) s
          (modCore s s.turn fun k =>
            { k with
              lookup := some k.cycle
              joint := k.joint ++ [⟨.slot (curSlot s), t.pc.setWidth 14,
                BitVec.ofNat 24 (k.cycle + o.imm.raw.toNat), node, t.lid, false⟩] })
          { inProgress s u t .joined 0 .parked with joinPending := false })

/-- The two forms of a split: the instruction, its control register, its use and its threshold (R158). -/
def SplitForm (t : Thread) (i : Instr) (a : Nat) (u : Use) (thr : Word) : Prop :=
  (∃ o : ShU, i = .split o ∧ a = o.a.toNat ∧ thr = rdReg t o.b.toNat ∧
    u = .of o.p (wordsOfChain true o.p o.sb.isSome.toNat) [o.a.toNat, o.b.toNat] (sbSync o.sb o.b.toNat) []) ∨
  (∃ o : ShI, i = .spliti o ∧ a = o.a.toNat ∧ thr = BitVec.ofInt 32 (o.imm.value 5) ∧
    u = .of o.p (wordsOfChain true o.p o.imm.k) [o.a.toNat] [] [])

/-- SPLIT against gB and SPLITI against the immediate, in a convoy whose members' words can all be read: no member goes up
(f2 := 0, f1 := 0), all do (f2 := 1, f1 := 0), or the convoy keeps those that do not and a new READY convoy of those that
do takes a vacant slot at the next instruction, with f1 and f2 at 1 in it and f1 at 1 and f2 at 0 here (R158; TVAL 0 of
CONVOY is log entry 36, DEDUCED). A split that finds no vacant slot is left out. -/
def Obligations.Splits : Prop :=
  ∀ (s : State) (t : Thread) (i : Instr) (a : Nat) (u : Use) (thr : Word) (l : List (Nat × Place × List Place)),
    SplitForm t i a u thr → Issues u s t →
    ((t.convoy = false ∨ (rdReg t a).extractLsb' 17 2 = 3) → Traps i s t ⟨.convoy, 0, 0, t.pc, false, 0⟩) ∧
    (t.convoy = true → (rdReg t a).extractLsb' 17 2 ≠ 3 → Clear s →
      memberPlaces s s.turn t ((rdReg t a).toNat % 65536) (membersOf t.m) = .ok l →
      (∀ q ∈ l, q.2.1.inside = true) →
      let s1 := l.foldl (fun s q => countAll s s.turn q.2.1 q.2.2) s
      let up := fun q : Nat × Place × List Place => goesUp (rdReg t a) thr (loadWord s1 q.2.1)
      let hi := maskOf ((l.filter fun q => up q).map (·.1))
      let lo := maskOf ((l.filter fun q => !up q).map (·.1))
      let v := issuedThread u s t
      let next := pcAfter t u.words
      ((∀ q ∈ l, up q = false) →
        CompletesFrom i s s1 (goesTo (setFlag (setFlag v 2 false) 1 false) next)) ∧
      (l ≠ [] → (∀ q ∈ l, up q = true) →
        CompletesFrom i s s1 (goesTo (setFlag (setFlag v 2 true) 1 false) next)) ∧
      ((∃ q ∈ l, up q = true) → (∃ q ∈ l, up q = false) →
        ∀ j rest, vacantSlots (getCore s s.turn) = j :: rest → ∃ w,
          CompletesFrom i s (addConvoy (setThread s1 s.turn j w) w)
            (goesTo (setFlag (setFlag { v with m := lo, md := t.md &&& lo } 2 false) 1 true) next) ∧
          w.pc = next ∧ w.m = hi ∧ w.md = t.md &&& hi ∧ w.regs = t.regs ∧ w.convoy = true ∧ w.status = .ready ∧
          getFlag w 1 = true ∧ getFlag w 2 = true))

/-- The manifest that an operand names. -/
def manifestOf (o : ShMan) (t : Thread) : BitVec 256 := if o.md then t.md else t.m

/-- MPOP finds the least member at or above gB's low byte, MCNT counts members, MFM and MTM move a manifest to and from
eight registers, CEXIT of a convoy whose accesses have performed ends it and counts its code (R160, R162; TVAL 0 of CONVOY
is log entry 36, and what the first four do in a thread that is no convoy is log entry 53, both DEDUCED). -/
def Claim.Manifests : Prop :=
  ∀ (s : State) (t : Thread),
    (∀ o : ShU, Issues (o.use true) s t →
      let k := (rdReg t o.b.toNat).toNat % 256
      (∀ i, k ≤ i → i < 256 → t.m.getLsbD i = true → (∀ j, k ≤ j → j < i → t.m.getLsbD j = false) →
        Effect (.mpop o) (o.use true) s t (fun v => setFlag (wrReg v o.a.toNat (BitVec.ofNat 32 i)) 1 true)
          (pcAfter t (o.use true).words)) ∧
      ((∀ j, k ≤ j → j < 256 → t.m.getLsbD j = false) →
        Effect (.mpop o) (o.use true) s t (fun v => setFlag (wrReg v o.a.toNat 0xFFFFFFFF) 1 false)
          (pcAfter t (o.use true).words))) ∧
    (∀ o : ShMan, Issues (o.use [] [o.a.toNat]) s t →
      Effect (.mcnt o) (o.use [] [o.a.toNat]) s t
        (fun v => wrReg v o.a.toNat
          (BitVec.ofNat 32 ((List.range 256).filter fun k => (manifestOf o t).getLsbD k).length))
        (pcAfter t (o.use [] []).words)) ∧
    (∀ o : ShMan, Issues (o.use [] (groupOf o.a)) s t →
      Effect (.mfm o) (o.use [] (groupOf o.a)) s t
        (fun v => (List.range 8).foldl
          (fun v j => wrReg v (o.a.toNat + j) ((manifestOf o t).extractLsb' (32 * j) 32)) v)
        (pcAfter t (o.use [] []).words)) ∧
    (∀ o : ShMan, Issues (o.use (groupOf o.a) []) s t → ∃ w : BitVec 256,
      (∀ j, j < 8 → w.extractLsb' (32 * j) 32 = rdReg t (o.a.toNat + j)) ∧
      Effect (.mtm o) (o.use (groupOf o.a) []) s t (fun v => if o.md then { v with md := w } else { v with m := w })
        (pcAfter t (o.use [] []).words)) ∧
    (∀ o : ShA, Issues (o.use [o.a.toNat] []) s t →
      (t.convoy = false → Traps (.cexit o) s t ⟨.convoy, 0, 0, t.pc, false, 0⟩) ∧
      (t.convoy = true → (∃ f ∈ s.flight, ownAccess s s.turn (curSlot s) f = true) → Waits (.cexit o) s s t .waitMem) ∧
      (t.convoy = true → (∀ f ∈ s.flight, ownAccess s s.turn (curSlot s) f = false) → ∃ s', exec (.cexit o) s = .next s' ∧
        (getSlot s' s.turn (curSlot s)).content = .vacant ∧ s'.mem = s.mem ∧
        s'.front.launches = s.front.launches.map (fun l =>
          if t.lid ≠ 0 ∧ l.lid = t.lid then
            { l with
              exit := max l.exit ((rdReg t o.a.toNat).toNat % 256), count := l.count + 1, convoys := l.convoys - 1
              untriggered := if t.triggered then l.untriggered else l.untriggered - 1 }
          else l)))

/-- QLD, QST and QADD without RLX act on the word of a member's record: they load it, store gA there, and add gA to it at
one instant; a thread that is no convoy and a number that is no member trap CONVOY (R146, R161; TVAL 0 is log entry 36,
DEDUCED). -/
def Claim.QueryRecords : Prop :=
  ∀ (s : State) (t : Thread) (o : ShM) (p : Place) (va : Option Nat) (sel : Nat) (off : Int),
    let id := (rdReg t o.b.toNat).toNat
    ((t.convoy = false ∨ 255 < id ∨ t.m.getLsbD id = false) →
      (Issues (o.useLoad true) s t → Traps (.qld o) s t ⟨.convoy, 0, 0, t.pc, false, 0⟩) ∧
      (Issues (o.useStore true) s t →
        Traps (.qst o) s t ⟨.convoy, 0, 0, t.pc, false, 0⟩ ∧ Traps (.qadd o) s t ⟨.convoy, 0, 0, t.pc, false, 0⟩)) ∧
    (t.convoy = true → id ≤ 255 → t.m.getLsbD id = true → o.rlx = none → Clear s → p.inside = true → t.pend = none →
      recAddr t id (o.imm.value 0 * 4 + o.mem.idxVal t * 4) = .ok (sel, off) →
      (Issues (o.useLoad true) s t → locate s s.turn t sel off 4 4 needR = .here p va [] →
        CompletesFrom (.qld o) s (countAll s s.turn p [])
          (goesTo (wrReg (issuedThread (o.useLoad true) s t) o.a.toNat (BitVec.ofNat 32 (loadNat s p 4)))
            (pcAfter t (o.words true)))) ∧
      (Issues (o.useStore true) s t →
        (locate s s.turn t sel off 4 4 needW = .here p va [] →
          CompletesFrom (.qst o) s (storeNat (countAll s s.turn p []) p 4 (rdReg t o.a.toNat).toNat)
            (goesTo { issuedThread (o.useStore true) s t with wake := t.wake || armedBy t p }
              (pcAfter t (o.words true)))) ∧
        (locate s s.turn t sel off 4 4 ⟨false, true, true, false⟩ = .here p va [] →
          CompletesFrom (.qadd o) s
            (storeNat (countAll s s.turn p []) p 4
              (BitVec.ofNat 32 (loadNat s p 4) + rdReg t o.a.toNat).toNat)
            (goesTo { issuedThread (o.useStore true) s t with wake := t.wake || armedBy t p }
              (pcAfter t (o.words true))))))

/-! ### Copies and tags -/

/-- CPY, CPY2, GTH, SCT and COLL wait while the engine's queue is full; else, where their descriptor can be read and
keeps R212 to R214, they complete: the operation stands last in the queue with its descriptor's addresses, sizes and
tag and, for GTH and SCT, its list of indices, its tag is cleared, and no byte has moved; a descriptor that does not
keep R212 and R213 traps QUEUE (R207, R209, R211 to R214; that the list is read once, at issue, is log entry 73, and TVAL 0
of QUEUE log entry 36, both DEDUCED). -/
def Claim.CopiesQueued : Prop :=
  ∀ (s : State) (t : Thread) (o : ShU) (p : Place),
    let u := (copyUse o).oncely
    let a := rdReg t o.a.toNat
    let ch := a.toNat / 65536 % 64
    ∀ q ∈ ([(.cpy o, .cpy), (.cpy2 o, .cpy2), (.gth o, .gth), (.sct o, .sct), (.coll o, .coll)] :
        List (Instr × CopyKind)),
      Issues u s t →
      (2 ≤ (getCore s s.turn).copyQ.length → Waits q.1 s s t .waitMem) ∧
      ((getCore s s.turn).copyQ.length < 2 →
        (a.getLsbD 15 = false ∨ 8 ≤ ch ∨ (4 ≤ ch ∧ curSlot s = 0)) →
        (q.2 = .coll → t.convoy = false ∧ a.toNat / 4096 % 8 ≤ 5) →
        Clear s → RecordAt s t (rdReg t o.b.toNat) 0 p →
        let s1 := countAll (issuedState u s t) s.turn p []
        let ws := rangeWords s1 [p] 64
        let op := copyOf s1 ⟨s.turn, curSlot s, t.pc, pcAfter t u.words⟩ t q.2 a ws
        (copyDescOk op ws = false → Traps q.1 s t ⟨.queue, 0, 0, t.pc, false, 0⟩) ∧
        ∀ s2 l, copyDescOk op ws = true → indicesOf s1 s.turn op = some (s2, l) →
          let op1 : CopyOp := { op with index := l, id := s2.serial }
          (writeRanges op1).any pastCode = false →
          (engSpace op.dst = 5 → curSlot s = 0) →
          (readRanges op1).all (covered s2 s.turn t false) = true →
          (writeRanges op1).all (covered s2 s.turn t true) = true →
          (q.2 = .coll → collPending s2 s.turn op1 = false) →
          exec q.1 s = .next
            (setThread
              (modCore { s2 with serial := s2.serial + 1 } s.turn fun k =>
                { k with copyQ := k.copyQ ++ [op1], tags := k.tags &&& ~~~(BitVec.twoPow 64 (a.toNat % 64)) })
              s.turn (curSlot s) (goesTo (issuedThread u s t) (pcAfter t u.words))) ∧
          s2.mem = s.mem ∧ (q.2 = .cpy ∨ q.2 = .cpy2 ∨ q.2 = .coll → s2 = s1 ∧ l = []) ∧
          (q.2 = .gth ∨ q.2 = .sct → l.length = op.count) ∧
          op1.tag = a.toNat % 64 ∧ op1.slot = curSlot s ∧ op1.moved = [] ∧ op1.ended = none ∧
          op1.src = (wordAt ws 0).toNat + 2 ^ 32 * (wordAt ws 1).toNat ∧
          op1.dst = (wordAt ws 2).toNat + 2 ^ 32 * (wordAt ws 3).toNat)

/-- The least member of a set of tags as a word; all ones for the empty set. -/
def leastTag (v : BitVec 64) : Word :=
  match (List.range 64).find? fun i => v.getLsbD i with
  | some i => BitVec.ofNat 32 i
  | none => 0xFFFFFFFF

/-- WAITANY answers the lowest set tag under its mask and waits while a mask that is not empty has none; WAITALL goes on
where every tag of its mask is set and waits otherwise; TAGFF answers at once and says in f1 whether there is one; TAGCLR
clears the tags of its mask (R209, R218, R223). -/
def Claim.Tags : Prop :=
  ∀ (s : State) (t : Thread),
    let tags := (getCore s s.turn).tags
    (∀ o : ShAB, Issues (o.use (pairRegs o.b) [o.a.toNat]).oncely s t →
      let u := (o.use (pairRegs o.b) [o.a.toNat]).oncely
      let m : BitVec 64 := rdReg t (o.b.toNat + 1) ++ rdReg t o.b.toNat
      ((m = 0 ∨ tags &&& m ≠ 0) →
        Effect (.waitany o) u s t (fun v => wrReg v o.a.toNat (leastTag (tags &&& m))) (pcAfter t u.words)) ∧
      (m ≠ 0 → tags &&& m = 0 → ∃ s' w, exec (.waitany o) s = .next s' ∧ threadAt s' s.turn (curSlot s) = some w ∧
        w.status = .waitMem ∧ w.regs = t.regs ∧ w.full = t.full ∧ w.pc = t.pc ∧ w.waitFrom.isSome = true ∧
        s'.mem = s.mem) ∧
      Effect (.tagff o) u s t (fun v => setFlag (wrReg v o.a.toNat (leastTag (tags &&& m))) 1 (tags &&& m != 0))
        (pcAfter t u.words)) ∧
    ∀ o : ShB, Issues (o.use (pairRegs o.b)).oncely s t →
      let u := (o.use (pairRegs o.b)).oncely
      let m : BitVec 64 := rdReg t (o.b.toNat + 1) ++ rdReg t o.b.toNat
      (tags &&& m = m → Effect (.waitall o) u s t id (pcAfter t u.words)) ∧
      (tags &&& m ≠ m → ∃ s' w, exec (.waitall o) s = .next s' ∧ threadAt s' s.turn (curSlot s) = some w ∧
        w.status = .waitMem ∧ w.regs = t.regs ∧ w.full = t.full ∧ w.pc = t.pc ∧ w.waitFrom.isSome = true ∧
        s'.mem = s.mem) ∧
      CompletesFrom (.tagclr o) s (modCore s s.turn fun k => { k with tags := k.tags &&& ~~~m })
        (goesTo (issuedThread u s t) (pcAfter t u.words))

/-! ### The matrix engine -/

/-- PREC gives a tile its override, with the launch that set it, or drops it, and traps QUEUE on a reserved field; DUPSET
sets, clears or empties a tile's duplication map (R226, R228, R242, R248; TVAL 0 of QUEUE is log entry 36, DEDUCED). -/
def Claim.PrecisionAndMap : Prop :=
  ∀ (s : State) (t : Thread) (o : ShFB4), Issues o.use.oncely s t →
    let u := o.use.oncely
    let v := rdReg t o.b.toNat
    let leaves (s0 : State) (i : Instr) : Prop := CompletesFrom i s s0 (goesTo (issuedThread u s t) (pcAfter t u.words))
    let n := o.t.toNat
    (v.getLsbD 16 = true → leaves (modCore s s.turn fun k => { k with pwOver := k.pwOver.setIfInBounds n none }) (.prec o)) ∧
    (v.getLsbD 16 = false → pwValid v = false → Traps (.prec o) s t ⟨.queue, 0, 0, t.pc, false, 0⟩) ∧
    (v.getLsbD 16 = false → pwValid v = true →
      leaves (modCore s s.turn fun k => { k with pwOver := k.pwOver.setIfInBounds n (some (t.lid, v)) }) (.prec o)) ∧
    (v.getLsbD 31 = true →
      leaves (modCore s s.turn fun k => { k with dup := k.dup.filter fun p => p.1 / 16 != n }) (.dupset o)) ∧
    (v.getLsbD 31 = false →
      leaves (modCore s s.turn fun k =>
        { k with dup := if v.getLsbD 15 then smSet k.dup (16 * n + v.toNat % 16) (v.extractLsb' 16 10)
                        else smDel k.dup (16 * n + v.toNat % 16) }) (.dupset o))

/-- What an absolute maximum becomes with one more word: a NaN sets bit 31, a larger magnitude replaces bits 30:0. -/
def amaxOf (m x : Word) : Word :=
  if isNaN x then m ||| 0x80000000
  else if (m &&& 0x7FFFFFFF) < (x &&& 0x7FFFFFFF) then (m &&& 0x80000000) ||| (x &&& 0x7FFFFFFF) else m

/-- VAMAX takes the enabled lanes into an amax register, AMAXRD reads one and AMAXCLR clears one (R111, R112, R247). -/
def Claim.AmaxRegisters : Prop :=
  ∀ (s : State) (t : Thread),
    (∀ o : ShAmV, Issues o.use.oncely s t →
      CompletesFrom (.vamax o) s
        (modCore s s.turn fun k =>
          { k with
            amax := k.amax.setIfInBounds o.a.toNat
              ((enabledLanes t).foldl (fun m i => amaxOf m (lane t o.b i)) ((k.amax[o.a.toNat]?).getD 0)) })
        (goesTo (issuedThread o.use.oncely s t) (pcAfter t o.use.words))) ∧
    (∀ o : ShA4, Issues o.use.oncely s t →
      Effect (.amaxrd o) o.use.oncely s t
        (fun v => wrReg v o.a.toNat (((getCore s s.turn).amax[o.t.toNat]?).getD 0)) (pcAfter t o.use.words)) ∧
    (∀ o : ShT4, Issues o.use.oncely s t →
      CompletesFrom (.amaxclr o) s (modCore s s.turn fun k => { k with amax := k.amax.setIfInBounds o.t.toNat 0 })
        (goesTo (issuedThread o.use.oncely s t) (pcAfter t o.use.words)))

/-- ACCZ, ACCRD and ACCWR act on a tile that no command locks: they zero it, read an element of 96 bits into three
registers or its status into one, write an element from three registers or the status from one; on a locked tile they
wait; a register of the three beyond the thread's count traps REGLIM (R33, R236, R245; TVAL 0 of REGLIM is log entry 36,
DEDUCED). -/
def Claim.AccumulatorAccess : Prop :=
  ∀ (s : State) (t : Thread),
    let k := getCore s s.turn
    (∀ o : ShT4, Issues o.use.oncely s t →
      let u := o.use.oncely
      let v := issuedThread u s t
      (tileLocked k o.t.toNat = true →
        CompletesFrom (.accz o) s s (inProgress s u t (.tile o.t.toNat) 0 .waitMem)) ∧
      (tileLocked k o.t.toNat = false →
        CompletesFrom (.accz o) s
          (modCore s s.turn fun k =>
            { k with
              acc := k.acc.filter (fun e => e.1 / 256 != o.t.toNat)
              accBad := setDel k.accBad o.t.toNat
              accStat := k.accStat.setIfInBounds o.t.toNat 0 })
          (goesTo v (pcAfter t u.words)))) ∧
    (∀ o : ShArd, Issues (o.use [o.a.toNat]).oncely s t →
      let u := (o.use [o.a.toNat]).oncely
      let v := issuedThread u s t
      let i := rdReg t o.c.toNat
      let n := o.t.toNat
      let more := [o.a.toNat + 1, o.a.toNat + 2]
      (i.getLsbD 8 = true → tileLocked k n = true →
        CompletesFrom (.accrd o) s s (inProgress s u t (.tile n) 0 .waitMem)) ∧
      (i.getLsbD 8 = false → o.a.toNat + 2 < t.lim → streamTrap t more = none → storeBusy t more = false →
        streamBusy k (curSlot s) t more = false → tileLocked k n = true →
        CompletesFrom (.accrd o) s s (inProgress s u t (.tile n) 0 .waitMem)) ∧
      (i.getLsbD 8 = true → tileLocked k n = false →
        CompletesFrom (.accrd o) s
          (if i.getLsbD 9 then modCore s s.turn fun k => { k with accStat := k.accStat.setIfInBounds n 0 } else s)
          (goesTo (wrReg v o.a.toNat (((k.accStat[n]?).getD 0).setWidth 32)) (pcAfter t u.words))) ∧
      (i.getLsbD 8 = false → t.lim ≤ o.a.toNat + 2 → Traps (.accrd o) s t ⟨.reglim, 0, 0, t.pc, false, 0⟩) ∧
      (i.getLsbD 8 = false → o.a.toNat + 2 < t.lim → streamTrap t more = none → storeBusy t more = false →
        streamBusy k (curSlot s) t more = false → tileLocked k n = false → n ∉ k.accBad →
        let e := accAt k n (i.toNat / 16 % 16) (i.toNat % 16)
        Effect (.accrd o) u s t
          (fun v => wrReg (wrReg (wrReg v o.a.toNat (e.extractLsb' 0 32)) (o.a.toNat + 1) (e.extractLsb' 32 32))
            (o.a.toNat + 2) (e.extractLsb' 64 32))
          (pcAfter t u.words))) ∧
    (∀ o : ShF4, Issues (o.use [o.b.toNat, o.c.toNat]).oncely s t →
      let u := (o.use [o.b.toNat, o.c.toNat]).oncely
      let v := issuedThread u s t
      let i := rdReg t o.c.toNat
      let b := o.b.toNat
      let n := o.t.toNat
      (i.getLsbD 8 = true → tileLocked k n = true →
        CompletesFrom (.accwr o) s s (inProgress s u t (.tile n) 0 .waitMem)) ∧
      (i.getLsbD 8 = false → b + 2 < t.lim → streamBusy k (curSlot s) t [b + 1, b + 2] = false →
        isFull t (b + 1) = true → isFull t (b + 2) = true → tileLocked k n = true →
        CompletesFrom (.accwr o) s s (inProgress s u t (.tile n) 0 .waitMem)) ∧
      (i.getLsbD 8 = true → tileLocked k n = false →
        CompletesFrom (.accwr o) s
          (modCore s s.turn fun k => { k with accStat := k.accStat.setIfInBounds n ((rdReg t b).setWidth 8) })
          (goesTo v (pcAfter t u.words))) ∧
      (i.getLsbD 8 = false → t.lim ≤ b + 2 → Traps (.accwr o) s t ⟨.reglim, 0, 0, t.pc, false, 0⟩) ∧
      (i.getLsbD 8 = false → b + 2 < t.lim → streamBusy k (curSlot s) t [b + 1, b + 2] = false →
        isFull t (b + 1) = true → isFull t (b + 2) = true → tileLocked k n = false →
        CompletesFrom (.accwr o) s
          (modCore s s.turn fun k =>
            setAcc k n (i.toNat / 16 % 16) (i.toNat % 16) (rdReg t (b + 2) ++ rdReg t (b + 1) ++ rdReg t b))
          (goesTo v (pcAfter t u.words))))

/-- The code at a position of a tile of `p` planes: its bit `j` stands in plane `j` (R225). -/
def codeAt (s : State) (q : Place) (p pos : Nat) : Nat :=
  ((List.range p).map fun j =>
    if (loadWord s (q.shift (32 * j + 4 * (pos / 32)))).getLsbD (pos % 32) then 2 ^ j else 0).sum

/-- The value of a code of `p` bits, unsigned or in two's complement (R225). -/
def codeValue (uns : Bool) (p code : Nat) : Int := if uns || code < 2 ^ (p - 1) then code else (code : Int) - 2 ^ p

/-- OSPLIT, where both tiles lie in the thread's own local store: every code of the row or column is split in two halves
that add up to it, the lower one left in the first tile and the other put into the second (R225, R249). -/
def Claim.OutlierSplit : Prop :=
  ∀ (s : State) (t : Thread) (o : ShR3) (pa pc : Place),
    let u : Use := { (o.use []) with srcs := o.a.toNat :: (o.use []).srcs, names := o.a.toNat :: (o.use []).names,
                                     once := true }
    let x : Ctx := ⟨s.turn, curSlot s, t.pc, pcAfter t u.words⟩
    let c := rdReg t o.b.toNat
    let p := c.toNat / 16 % 16 + 1
    Issues u s t →
    (∀ e, ownRange s x t (rdReg t o.a.toNat) (32 * p) needRW = .error e → s.flight = [] →
      Traps (.osplit o) s t ⟨e, 2, rdReg t o.a.toNat, t.pc, false, 0⟩) ∧
    (∀ e, ownRange s x t (rdReg t o.a.toNat) (32 * p) needRW = .ok pa →
      ownRange s x t (rdReg t o.c.toNat) (32 * p) needW = .error e → s.flight = [] →
      Traps (.osplit o) s t ⟨e, 2, rdReg t o.c.toNat, t.pc, false, 0⟩) ∧
    (Clear s → t.pend = none →
      ownRange s x t (rdReg t o.a.toNat) (32 * p) needRW = .ok pa →
      ownRange s x t (rdReg t o.c.toNat) (32 * p) needW = .ok pc →
      CompletesFrom (.osplit o) s (splitTiles s pa pc c)
        (goesTo
          { issuedThread u s t with
            wake := t.wake || (List.range 16).any fun m => (List.range p).any fun j =>
              armedBy t (pa.shift (32 * j + 4 * (chanPos (c.getLsbD 12) (c.toNat % 16) m / 32))) ||
              armedBy t (pc.shift (32 * j + 4 * (chanPos (c.getLsbD 12) (c.toNat / 256 % 16) m / 32))) }
          (pcAfter t u.words))) ∧
    ∀ k a b m, pa = .lstore k a → pc = .lstore k b → a + 32 * p ≤ b ∨ b + 32 * p ≤ a → m < 16 →
      let value (s : State) (q : Place) (pos : Nat) : Int := codeValue (c.getLsbD 13) p (codeAt s q p pos)
      let posA := if c.getLsbD 12 then 16 * (c.toNat % 16) + m else 16 * m + c.toNat % 16
      let posX := if c.getLsbD 12 then 16 * (c.toNat / 256 % 16) + m else 16 * m + c.toNat / 256 % 16
      let after := splitTiles s pa pc c
      value after pa posA = value s pa posA / 2 ∧ value after pa posA + value after pc posX = value s pa posA

/-- The queue of the matrix engine with one more command, its slot neither waiting for an entry nor holding a grant. -/
def withCommand (s : State) (m : MatCmd) : State :=
  modCore { s with serial := s.serial + 1 } s.turn fun k =>
    { k with matQ := k.matQ ++ [m], matGrant := k.matGrant.filter fun j => j != curSlot s,
             matWait := k.matWait.filter fun j => j != curSlot s }

/-- A command as its instruction leaves it in the queue; `f` adds what the instruction itself names. -/
def commandOf (s : State) (t : Thread) (kind : MatKind) (tile : Nat) (ctl a : Word) : MatCmd :=
  { id := s.serial, kind := kind, slot := curSlot s, lid := t.lid, asn := t.asn, detached := false, tile := tile,
    pw := effPw (getCore s s.turn) tile, map := [], ctl := ctl, base := .host 0, va := none, named := a, ta := false,
    tb := false, need := 0, got := [], gone := false }

/-- A command whose slot may take an entry: the command stands last in the queue, and the thread goes on where it is
detached and waits for its completion where it is not; without an entry the slot waits for one (R233, R235). -/
def TakesEntry (i : Instr) (u : Use) (s : State) (t : Thread) (m : MatCmd) : Prop :=
  let k := getCore s s.turn
  (curSlot s ∈ k.matGrant ∨ k.matQ.length + k.matGrant.length < 2 →
    (m.detached = true →
      CompletesFrom i s (withCommand s m) (goesTo (issuedThread u s t) (pcAfter t u.words))) ∧
    (m.detached = false →
      CompletesFrom i s (withCommand s m)
        (inProgress s u t (.matrix m.id) 0 .parked))) ∧
  (curSlot s ∉ k.matGrant → 2 ≤ k.matQ.length + k.matGrant.length →
    Waits i s
      (modCore s s.turn fun k =>
        { k with matWait := if k.matWait.contains (curSlot s) then k.matWait else k.matWait ++ [curSlot s] })
      t .waitMem)

/-- WLD, MMA and CVTST check their fields and their operand, trap QUEUE or what resolution finds, and else take an entry
with their tile's precision word, their control word and their operand, capturing the duplication map for MMA (R229, R233,
R243, R244, R246; TVAL 0 of QUEUE is log entry 36, DEDUCED). -/
def Obligations.MatrixCommands : Prop :=
  ∀ (s : State) (t : Thread), allPerformed s s.turn (curSlot s) 1 = true → streamIdle s s.turn (curSlot s) = true →
    let x (u : Use) : Ctx := ⟨s.turn, curSlot s, t.pc, pcAfter t u.words⟩
    let queue : TrapInfo := ⟨.queue, 0, 0, t.pc, false, 0⟩
    (∀ o : ShF4, Issues (o.use [o.b.toNat, o.c.toNat]).oncely s t →
      let u := (o.use [o.b.toNat, o.c.toNat]).oncely
      let c := rdReg t o.c.toNat
      let a := rdReg t o.b.toNat
      let n := 32 * (c.toNat / 256 % 128 + 1)
      (4096 < 32 * (c.toNat % 128) + n → Traps (.wld o) s t queue) ∧
      (32 * (c.toNat % 128) + n ≤ 4096 →
        (∀ e, operandAt s (x u) t [2, 3, 4, 5] a n 32 needR = .error e → Traps (.wld o) s t ⟨e, 5, a, t.pc, false, 0⟩) ∧
        (∀ p va, operandAt s (x u) t [2, 3, 4, 5] a n 32 needR = .ok (p, va) →
          TakesEntry (.wld o) u s t { commandOf s t .wld o.t.toNat c a with base := p, va := va }))) ∧
    (∀ o : ShMma, Issues o.use.oncely s t →
      let u := o.use.oncely
      let k := rdReg t o.b.toNat
      let a := rdReg t o.c.toNat
      let map := dupMap (getCore s s.turn) o.t.toNat
      let n := 32 * (k.toNat / 2 ^ 23 % 16 + 1) * (k.toNat / 2 ^ 17 % 64 + 1 + if map = [] then 0 else 1)
      let m := { commandOf s t .mma o.t.toNat k a with
        map := map, detached := k.getLsbD 27, ta := o.ta, tb := o.tb }
      (k.toNat / 2 ^ 30 = 0 →
        (∀ e, operandAt s (x u) t [2] a n 32 needR = .error e → Traps (.mma o) s t ⟨e, 5, a, t.pc, false, 0⟩) ∧
        (∀ p va, operandAt s (x u) t [2] a n 32 needR = .ok (p, va) → TakesEntry (.mma o) u s t { m with base := p })) ∧
      (k.toNat / 2 ^ 30 = 3 → Traps (.mma o) s t queue) ∧
      (∀ q, q < 2 → k.toNat / 2 ^ 30 = q + 1 →
        ((streamOf t q).bound = false → Traps (.mma o) s t queue) ∧
        ((streamOf t q).bound = true → TakesEntry (.mma o) u s t { m with need := n / 4 }))) ∧
    ∀ o : ShCvt, Issues o.use.oncely s t →
      let u := o.use.oncely
      let k := rdReg t o.b.toNat
      let a := rdReg t o.c.toNat
      let f := k.toNat / 2 ^ 24 % 16
      let bad := 8 ≤ f ∨ (k.getLsbD 29 = true ∧ (k.toNat % 128 ≠ 0 ∨ f = 0))
      (bad → Traps (.cvtst o) s t queue) ∧
      (¬ bad →
        (∀ e, operandAt s (x u) t [2, 3, 4, 5] a (cvtLen k) (cvtAlign k) needW = .error e →
          Traps (.cvtst o) s t ⟨e, 5, a, t.pc, false, 0⟩) ∧
        (∀ p va, operandAt s (x u) t [2, 3, 4, 5] a (cvtLen k) (cvtAlign k) needW = .ok (p, va) →
          TakesEntry (.cvtst o) u s t
            { commandOf s t .cvtst o.t.toNat k a with
              base := p, va := va, detached := k.getLsbD 31, ta := o.tr }))

/-! ### Traps, returns, segments, relocation and context frames -/

/-- TRAP, SYS and BRK take their exceptions with TVAL the immediate, TPC the next instruction for TRAP and SYS and the
instruction itself for BRK; SYS first waits for the thread's relaxed accesses (R252, R274). -/
def Claim.RaisedTraps : Prop :=
  ∀ (s : State) (t : Thread) (o : ShImm), Issues o.use.oncely s t →
    let next := pcAfter t o.use.words
    Traps (.trap o) s t ⟨.trap, 0, o.imm.raw, next, false, 0⟩ ∧
    Traps (.brk o) s t ⟨.brk, 0, o.imm.raw, t.pc, false, 0⟩ ∧
    (ownRelaxed s s.turn (curSlot s) = [] → streamIdle s s.turn (curSlot s) = true →
      Traps (.sys o) s t ⟨.sys, 0, o.imm.raw, next, false, 0⟩) ∧
    ((ownRelaxed s s.turn (curSlot s) ≠ [] ∨ streamIdle s s.turn (curSlot s) = false) →
      Waits (.sys o) s s t .waitMem)

/-- ERET, the words 0xF520 0x0C00, clears INTRAP and goes on at TPC, and outside a trap takes ILLEGAL; RESUME clears
INTRAP and takes PC, flags and its register from the three words of its frame, and traps ALIGN where the frame is not
aligned to 16 (R275, R276; TVAL 0 of ILLEGAL is log entry 36, DEDUCED). -/
def Claim.TrapReturns : Prop :=
  decode [0xF520, 0x0C00] = .ok (.eret ⟨⟨false, 0⟩⟩, 2) ∧
  ∀ (s : State) (t : Thread),
    (∀ o : ShZ, Issues o.use s t →
      (inTrap t = true →
        Effect (.eret o) o.use s t (fun v => { v with tcause := t.tcause &&& 0x7FFFFFFF }) t.tpc) ∧
      (inTrap t = false → Traps (.eret o) s t ⟨.illegal, 0, 0, t.pc, false, 0⟩)) ∧
    ∀ o : ShU, Issues (o.use true) s t →
      let v := rdReg t o.b.toNat
      (offOf v % 16 ≠ 0 → Traps (.resume o) s t ⟨.align, 1, v, t.pc, false, 0⟩) ∧
      ∀ ps, offOf v % 16 = 0 → Clear s →
        frameWords s s.turn t (selOf v) (offOf v) [0, 1, 2, 3] = .ok ps → (∀ q ∈ ps, q.1.inside = true) →
        let s1 := ps.foldl (fun s p => countAll s s.turn p.1 p.2) s
        let ws := ps.map fun p => loadWord s1 p.1
        CompletesFrom (.resume o) s s1
          (goesTo
            { wrReg (issuedThread (o.use true) s t) o.a.toNat (wordAt ws 2) with
              tcause := t.tcause &&& 0x7FFFFFFF, f := wordAt ws 1 ||| 1 }
            (wordAt ws 0))

/-- SEGSET gives a segment the descriptor in four registers, with its reserved bits zero. Outside slot 0 sg0 and what lies
outside the envelope trap PRIV; an invalid descriptor traps SEGV and one that a bound stream uses QUEUE (R66, R278,
R279; PRIV before SEGV is log entry 55 and TVAL 0 of PRIV and QUEUE log entry 36, both DEDUCED; KIND 0 of SEGV is the
model's choice, log entry 79). -/
def Claim.SegmentWrites : Prop :=
  ∀ (s : State) (t : Thread) (o : ShSeg),
    (o.sg = 0 → curSlot s ≠ 0 → Issues { segsetUse o with names := [], srcs := [] } s t →
      Traps (.segset o) s t ⟨.priv, 0, 0, t.pc, false, 0⟩) ∧
    (o.sg ≠ 0 ∨ curSlot s = 0 → Issues (segsetUse o) s t →
      let d : Desc := rdReg t (o.b.toNat + 3) ++ rdReg t (o.b.toNat + 2) ++ rdReg t (o.b.toNat + 1) ++ rdReg t o.b.toNat
      let free := curSlot s = 0 ∨ withinEnvelope d ((t.envs[o.sg.toNat]?).getD 0) = true
      (¬ free → Traps (.segset o) s t ⟨.priv, 0, 0, t.pc, false, 0⟩) ∧
      (free → segValid d = false → Traps (.segset o) s t ⟨.segv, 0, o.sg.setWidth 32, t.pc, false, 0⟩) ∧
      (free → segValid d = true → streamUses t o.sg.toNat = true →
        Traps (.segset o) s t ⟨.queue, 0, 0, t.pc, false, 0⟩) ∧
      (free → segValid d = true → streamUses t o.sg.toNat = false →
        Effect (.segset o) (segsetUse o) s t
          (fun v => { v with segs := t.segs.setIfInBounds o.sg.toNat (segClean d) }) (pcAfter t (segsetUse o).words)))

/-- TLBINV in slot 0 removes the entries that it names and waits for the end of its shootdown, one shootdown at a time;
RELOC puts its request into the queue of its die's jig and waits for its status (R261, R280, R305, R314). -/
def Claim.Translation : Prop :=
  ∀ (s : State) (t : Thread),
    (∀ o : ShAB, Issues (o.use [o.a.toNat, o.b.toNat] []).slot0 s t →
      let u := (o.use [o.a.toNat, o.b.toNat] []).slot0
      let c := (rdReg t o.a.toNat).toNat
      (s.xl.shoots ≠ [] → Waits (.tlbinv o) s s t .waitMem) ∧
      (s.xl.shoots = [] →
        CompletesFrom (.tlbinv o) s
          (startShoot s (.tlbinv s.turn (curSlot s)) (c / 256 % 4) (c % 64) (rdReg t o.b.toNat).toNat)
          (inProgress s u t .tlbinv 0 .waitMem))) ∧
    ∀ o : ShR3, Issues (relocUse o) s t →
      let u := relocUse o
      let a := rdReg t o.b.toNat
      let b := rdReg t o.c.toNat
      let d := dieOf s.turn
      let queued (src dst : Nat) (free : Bool) : Prop :=
        CompletesFrom (.reloc o) s
          (setJig { s with serial := s.serial + 1 } d
            { jigOf s d with
              queue := (jigOf s d).queue ++ [⟨s.serial, s.turn, curSlot s, t.asn, src, dst, free, a⟩] })
          (inProgress s u t (.reloc s.serial) o.a.toNat .waitMem)
      (∀ e, tileOperand s s.turn t a needRW true = .error e → Traps (.reloc o) s t ⟨e, 5, a, t.pc, false, 0⟩) ∧
      ∀ src, tileOperand s s.turn t a needRW true = .ok src → allPerformed s s.turn (curSlot s) 4 = true →
        (∃ p va l, chase s (quadOf s.turn) t.asn needRW 3 src [] = .ok p va l) →
        (o.c = 0 → queued src 0 true) ∧
        (o.c ≠ 0 → ∀ dst, tileOperand s s.turn t b needW false = .ok dst →
          (∃ p va l, plainXlate s (quadOf s.turn) t.asn dst = .ok p va l) → queued src dst false)

/-- A word of a sweep is behind it: it goes on with the next one in its core's next cycle, and after the last one its
register takes the counts (R315). -/
def sweepPast (s : State) (c i : Nat) (p : Pend) (base ctl : Word) (k n l : Nat) : State :=
  if k < ctl.toNat % 2 ^ 16 then
    modThread s c i fun u =>
      { u with pend := some { p with what := .sweep base ctl k n l }, readyAt := (getCore s c).cycle + 1 }
  else
    modThread s c i fun u => finish (wrReg u p.reg (BitVec.ofNat 32 (l % 2 ^ 16 * 2 ^ 16 + n % 2 ^ 16)))

/-- What a register sweep has found in the full registers among `rs`, one after another: each value is replaced where it is
stale and its new value fits, and stays as it is elsewhere; storage is as it was. -/
def SweptAs (s s' : State) (c i : Nat) (t : Thread) (rs : List Nat) (found : List Stale) : Prop :=
  found.length = (rs.filter fun r => isFull t r).length ∧ s'.mem = s.mem ∧
  ∃ w, threadAt s' c i = some w ∧
    ∀ e ∈ (rs.filter fun r => isFull t r).zip found,
      (∃ s1 : State, s1.mem = s.mem ∧ (stale32 s1 c t (rdReg t e.1)).2 = e.2) ∧
      (e.1 ≠ 0 → rdReg w e.1 = match e.2 with | .new z => BitVec.ofNat 32 z | _ => rdReg t e.1)

/-- SWEEP over registers rewrites the stale addresses among them and leaves in its register how many it rewrote and how
many it left; over memory it goes on word by word, a word that is not stale is passed, a stale one is replaced by an atomic
compare, which counts where no newer store has won; a count of 0 and mode 3 trap QUEUE, registers beyond the thread's count
REGLIM. A value is stale where it names a marked tile through a GLOBAL segment with M, within its LIMIT; it takes the offset of
the chased address where that lies within LIMIT, and is left where it does not or a fourth mark stands on the way (R310, R315; that it goes on word by word is log entry
24, and TVAL 0 of QUEUE and REGLIM log entry 36, both DEDUCED). -/
def Claim.Sweeps : Prop :=
  (∀ (s : State) (c : Nat) (t : Thread) (w : Word),
    (segType ((t.segs[selOf w]?).getD 0) ≠ 5 ∨ segM ((t.segs[selOf w]?).getD 0) = false) →
    stale32 s c t w = (s, .fresh)) ∧
  (∀ (s : State) (c : Nat) (t : Thread) (w : Word),
    let d := (t.segs[selOf w]?).getD 0
    let va := segBase d + offOf w
    let s1 := walkAll c t.asn needR 5 s va
    let marked : Prop := ∃ e, tlbFind s1 (quadOf c) t.asn va = some e ∧
      ((e.big = false ∧ e.leaf.getLsbD (48 + va / 4096 % 16) = true) ∨ tilePending s1 (leafByte s1 e.leaf e.big va) = true)
    segType d = 5 → segM d = true →
    (segLimit d < offOf w → stale32 s c t w = (s, .fresh)) ∧
    (offOf w ≤ segLimit d →
      (¬ marked → stale32 s c t w = (s1, .fresh)) ∧
      (marked → ∀ l, chase s1 (quadOf c) t.asn needR 3 va [] = .tooFar l → stale32 s c t w = (s1, .stuck)) ∧
      (marked → ∀ p v l, chase s1 (quadOf c) t.asn needR 3 va [] = .ok p v l →
        let off : Int := (offOf w : Int) + ((v : Int) - va)
        (0 ≤ off → off ≤ segLimit d → stale32 s c t w = (s1, .new (selOf w * 2 ^ 29 + off.toNat))) ∧
        (off < 0 ∨ segLimit d < off → stale32 s c t w = (s1, .stuck))))) ∧
  (∀ (s : State) (t : Thread) (o : ShSw),
    let u : Use := { o.use [o.c.toNat] [o.a.toNat] with
      names := [o.a.toNat, o.b.toNat, o.c.toNat], once := true }
    let c := (rdReg t o.c.toNat).toNat
    let n := c % 2 ^ 16
    let v := issuedThread u s t
    Issues u s t →
    (c / 2 ^ 30 = 3 → Traps (.sweep o) s t ⟨.queue, 0, 0, t.pc, false, 0⟩) ∧
    (c / 2 ^ 30 ≠ 3 → n = 0 → Traps (.sweep o) s t ⟨.queue, 0, 0, t.pc, false, 0⟩) ∧
    (c / 2 ^ 30 = 0 → n ≠ 0 →
      let rs := (List.range n).map (o.b.toNat + ·)
      (t.lim < o.b.toNat + n → Traps (.sweep o) s t ⟨.reglim, 0, 0, t.pc, false, 0⟩) ∧
      let ws := rs.filter (sweepWrites (issuedState u s t) s.turn v)
      (o.b.toNat + n ≤ t.lim → streamTrap t ws = none → storeBusy t ws = false →
        streamBusy (getCore s s.turn) (curSlot s) t ws = false →
        let r := sweepRegs s.turn (curSlot s) v rs (issuedState u s t) 0 0
        (∃ found : List Stale, SweptAs (issuedState u s t) r.1 s.turn (curSlot s) v rs found ∧
          r.2 = BitVec.ofNat 32 ((found.filter (· = .stuck)).length % 2 ^ 16 * 2 ^ 16 +
            (found.filter fun x => x ≠ .stuck ∧ x ≠ .fresh).length % 2 ^ 16)) ∧
        ∃ w, threadAt r.1 s.turn (curSlot s) = some w ∧
          exec (.sweep o) s = .next
            (setThread r.1 s.turn (curSlot s) (goesTo (wrReg w o.a.toNat r.2) (pcAfter t u.words))))) ∧
    ((c / 2 ^ 30 = 1 ∨ c / 2 ^ 30 = 2) → n ≠ 0 → isFull t o.b.toNat = true → mayIssue s (issueAt s t) none = true →
      CompletesFrom (.sweep o) s s
        (inProgress s u t (.sweep (rdReg t o.b.toNat) (rdReg t o.c.toNat) 0 0 0) o.a.toNat .waitMem))) ∧
  ∀ (s : State) (c i : Nat) (t : Thread) (p : Pend) (base ctl : Word) (k n l : Nat) (a : Access),
    threadAt s c i = some t → i < 16 → t.role = .alone → t.pend = some p → p.what = .sweep base ctl k n l →
    sweepFlight s c i = some a → a.stage = .replied →
    let s0 := dropFlight s a.id
    let event : Instr := .memoryAccessPerform (.sweep c i)
    (a.kind = .swap →
      exec event s = .next (sweepPast s0 c i p base ctl (k + 1) (if a.okay then n + 1 else n) l)) ∧
    (a.kind = .load → ctl.toNat / 2 ^ 30 = 1 → ∀ w, a.result = [w] →
      (∀ s1, stale32 s0 c t w = (s1, .fresh) → exec event s = .next (sweepPast s1 c i p base ctl (k + 1) n l)) ∧
      (∀ s1, stale32 s0 c t w = (s1, .stuck) →
        exec event s = .next (sweepPast s1 c i p base ctl (k + 1) n (l + 1))) ∧
      (∀ s1 z, stale32 s0 c t w = (s1, .new z) →
        exec event s = .next (sweepOut s1 { a with
          id := s1.serial, kind := .swap, stage := .going, passed := []
          parts := (a.parts.zip [w]).map fun e => { e.1 with data := e.2 }
          result := [BitVec.ofNat 32 z, BitVec.ofNat 32 (z / 2 ^ 32)] })))

/-- WEARRD gives the word of the wear record that its selector names and f1 := 1, and all ones and f1 := 0 where it names
nothing: a core that is not present, a physical core or a die that does not exist. The words of a core entry, as it was last
written, of the live gauges and of a die summary are those of R298, R316 and R299; word 7 of a record is its check word (R297
to R299, R316). -/
def Claim.WearRecords : Prop :=
  (∀ (s : State) (v : Word),
    let c := v.toNat % 2 ^ 16
    let n := v.toNat / 2 ^ 16 % 8
    let source := v.toNat / 2 ^ 19 % 4
    let entry (e : CoreEntry) : List Word :=
      [e.hours, e.bti ++ e.btil, e.em ++ (e.tmax ++ e.tavg), e.wu,
        BitVec.ofNat 32 (e.state.code * 2 ^ 29 + e.cls.toNat * 2 ^ 24 + e.cause.toNat * 2 ^ 16 + e.lcore.toNat),
        e.corr, e.uncorr]
    let check (ws : List Word) : Word := if n = 7 then Config.crc ws else wordAt ws n
    (source = 0 → wearWord s v =
      if presentCore s c then some (check (entry (recordEntry s (physCore s c)))) else none) ∧
    (source = 1 → wearWord s v =
      if c < 66560 ∧ s.cc.dies.getLsbD (c / 16640) = true then some (check (entry (recordEntry s c))) else none) ∧
    (source = 2 → wearWord s v =
      if presentCore s c then
        let l := liveOf s (physCore s c)
        some (wordAt [l.entry.bti.setWidth 32, l.entry.em.setWidth 32, BitVec.ofNat 32 l.temp,
          BitVec.ofNat 32 (getCore s c).vt, BitVec.ofNat 32 l.entry.state.code] n)
      else none) ∧
    (source = 3 → wearWord s v =
      if s.cc.dies.getLsbD (c % 4) = true then
        let x := (s.life.recordSums[c % 4]?).getD ⟨0, 64, false⟩
        some (check [BitVec.ofNat 32 (x.retq.toNat * 256 + x.spares.toNat), if x.replace then 1 else 0, 0, 0, 0, 0, 0])
      else none) ∧
    (∀ pc e, smGet s.life.record pc = some e → recordEntry s pc = e) ∧
    [Health.healthy, .derated, .drained, .retired, .spare].map Health.code = [0, 1, 2, 3, 4]) ∧
  ∀ (s : State) (t : Thread) (o : ShU), Issues (o.use true) s t →
    Effect (.wearrd o) (o.use true) s t
      (fun v =>
        match wearWord s (rdReg t o.b.toNat) with
        | some w => setFlag (wrReg v o.a.toNat w) 1 true
        | none => setFlag (wrReg v o.a.toNat 0xFFFFFFFF) 1 false)
      (pcAfter t (o.use true).words)

/-- PARK in slot 0: STOP asks a running thread to stop and waits, GO releases a stopped one, END ends a stopped one
with an exit code, and KILLED and a report where MEMERR stopped it; 1 where the slot holds no thread, 2 where the
thread is not stopped, 0xFFFFFFFF for slot 0 and a reserved operation (R281; the order of its answers is the model's choice,
log entry 77, STOP of a held thread at once is there too, and KILLED with a report at END after MEMERR is log entry 58,
DEDUCED). -/
def Claim.Parks : Prop :=
  ∀ (s : State) (t : Thread) (o : ShU), Issues (o.use true).slot0 s t → (getCore s s.turn).pairs = [] →
    let u := (o.use true).slot0
    let v := (rdReg t o.b.toNat).toNat
    let i := v % 16
    let op := v / 256 % 4
    let next := pcAfter t u.words
    let answer (s0 : State) (w : Word) : Prop :=
      CompletesFrom (.park o) s s0 (goesTo (wrReg (issuedThread u s t) o.a.toNat w) next)
    (i = 0 ∨ op = 3 → answer s 0xFFFFFFFF) ∧
    (i ≠ 0 → op ≠ 3 → threadAt s s.turn i = none → answer s 1) ∧
    ∀ w, i ≠ 0 → threadAt s s.turn i = some w →
      (op = 0 → w.stopped = true → answer s 0) ∧
      (op = 0 → w.stopped = false → w.hold = true → answer (setThread s s.turn i { w with stopped := true }) 0) ∧
      (op = 0 → w.stopped = false → w.hold = false →
        CompletesFrom (.park o) s (setThread s s.turn i { w with stopReq := true })
          (inProgress s u t (.stopping i) o.a.toNat .waitMem)) ∧
      (op = 1 ∨ op = 2 → w.stopped = false → answer s 2) ∧
      (op = 1 → w.stopped = true →
        answer (setSlot s s.turn i ⟨.thread { w with stopped := false, faultPage := none, byError := false }, none⟩) 0) ∧
      (op = 2 → w.stopped = true → (ownRelaxed s s.turn i ≠ [] ∨ streamIdle s s.turn i = false) →
        Waits (.park o) s s t .waitMem) ∧
      (op = 2 → w.stopped = true → ownRelaxed s s.turn i = [] → streamIdle s s.turn i = true →
        let s1 := withdrawNotice s s.turn i
        (w.byError = false → answer (endThread s1 s.turn i w (v / 2 ^ 16 % 256) errEnded) 0) ∧
        (w.byError = true →
          answer
            (endThread (errReport s1 4 (some i) (some s.turn) 0 w.lid) s.turn i w (v / 2 ^ 16 % 256) errKilled) 0))

/-- The words of a context frame, at the offsets of R268: what CTXSV writes of a thread, and what the thread that CTXLD makes
has of them, WAKE set and no line armed (R270); reserved bits of its registers read as zero. -/
def Claim.FrameLayout : Prop :=
  (∀ t : Thread, t.lim ≤ 128 → t.asn < 64 →
    let ws := frameOf t
    let at_ (off : Nat) : Word := wordAt ws (off / 4)
    ws.length = 128 + t.lim ∧ at_ 0 = t.pc ∧ at_ 4 = t.f ∧
    (at_ 8).extractLsb' 0 8 = BitVec.ofNat 8 t.lim ∧ (at_ 8).getLsbD 8 = t.convoy ∧ (at_ 8).getLsbD 9 = t.triggered ∧
    (at_ 8).getLsbD 10 = t.wake ∧ (at_ 8).extractLsb' 11 5 = t.fpst ∧ (at_ 8).extractLsb' 16 6 = BitVec.ofNat 6 t.asn ∧
    (at_ 8).extractLsb' 22 10 = 0 ∧
    (∀ e ∈ ([(0x0C, t.wlim), (0x10, t.tvec), (0x14, t.upc), (0x18, t.tcause), (0x1C, t.tpc), (0x20, t.tval),
        (0x24, t.qbase), (0x28, t.qstride), (0x2C, t.ecost), (0x30, t.wear), (0x34, t.rank), (0x38, t.npop),
        (0x3C, t.lid), (0x1D0, t.timeLatch), (0x1F4, 0), (0x1F8, 0), (0x1FC, 0)] : List (Nat × Word)),
      at_ e.1 = e.2) ∧
    (∀ n, n < 128 → (at_ (0x40 + 4 * (n / 32))).getLsbD (n % 32) = (decide (n < t.lim) && t.full.getLsbD n)) ∧
    (∀ j, j < 8 → at_ (0x50 + 4 * j) = t.m.extractLsb' (32 * j) 32 ∧ at_ (0x70 + 4 * j) = t.md.extractLsb' (32 * j) 32) ∧
    (∀ n (_ : n < 8), ∀ j, j < 4 → at_ (0x90 + 16 * n + 4 * j) = (t.segs[n]).extractLsb' (32 * j) 32 ∧
      at_ (0x110 + 16 * n + 4 * j) = (t.envs[n]).extractLsb' (32 * j) 32) ∧
    (∀ q, q < 4 →
      let v := streamOf t q
      let r := 0x190 + 16 * q
      (v.bound = false → ∀ j, j < 4 → at_ (r + 4 * j) = 0) ∧
      (v.bound = true → v.reg < 128 →
        at_ (r + 12) = BitVec.ofNat 32 (128 + v.reg) ∧
        (q < 3 → at_ r = v.addr ∧ at_ (r + 4) = BitVec.ofNat 32 v.left ∧ at_ (r + 8) = v.stride) ∧
        (q = 3 → at_ r = 0 ∧ at_ (r + 4) = BitVec.ofNat 32 v.hand.length ∧ at_ (r + 8) = 0))) ∧
    (∀ j, j < 8 → at_ (0x1D4 + 4 * j) =
      if (streamOf t 3).bound ∧ (streamOf t 3).hand ≠ [] then wordAt (streamOf t 3).handAll j else 0) ∧
    ∀ n, n < t.lim → at_ (0x200 + 4 * n) = rdReg t n) ∧
  ∀ (ws : List Word) (go : Bool),
    let t := frameThread ws go
    let at_ (off : Nat) : Word := wordAt ws (off / 4)
    let L := (at_ 8).toNat % 256
    t.pc = at_ 0 ∧ t.f = at_ 4 ||| 1 ∧ t.lim = L ∧ t.convoy = (at_ 8).getLsbD 8 ∧ t.triggered = (at_ 8).getLsbD 9 ∧
    t.wake = true ∧ t.watches = [] ∧ t.fpst = (at_ 8).extractLsb' 11 5 ∧ t.asn = ((at_ 8).extractLsb' 16 6).toNat ∧
    t.wlim = at_ 0x0C ∧ t.tvec = at_ 0x10 &&& 0xFFFFFFFE ∧ t.upc = at_ 0x14 &&& 0xFFFFFFFE ∧
    t.tcause = at_ 0x18 &&& 0x8000FFFF ∧ t.tpc = at_ 0x1C ∧ t.tval = at_ 0x20 ∧ t.qbase = at_ 0x24 &&& 0xFFFFFFFC ∧
    t.qstride = at_ 0x28 &&& 0xFFFC ∧ t.ecost = at_ 0x2C ∧ t.wear = at_ 0x30 ∧ t.rank = at_ 0x34 ∧ t.npop = at_ 0x38 ∧
    t.lid = at_ 0x3C ∧ t.timeLatch = at_ 0x1D0 ∧ t.stopped = !go ∧ t.status = .ready ∧ t.pend = none ∧
    (∀ n, 0 < n → n < 128 → isFull t n = (decide (L ≤ n) || (at_ (0x40 + 4 * (n / 32))).getLsbD (n % 32))) ∧
    (∀ j, j < 8 → t.m.extractLsb' (32 * j) 32 = at_ (0x50 + 4 * j) ∧ t.md.extractLsb' (32 * j) 32 = at_ (0x70 + 4 * j)) ∧
    (∀ n (_ : n < 8), ∃ d e : Desc, t.segs[n] = segClean d ∧ t.envs[n] = segClean e ∧ ∀ j, j < 4 →
      d.extractLsb' (32 * j) 32 = at_ (0x90 + 16 * n + 4 * j) ∧ e.extractLsb' (32 * j) 32 = at_ (0x110 + 16 * n + 4 * j)) ∧
    (∀ q, q < 3 →
      let r := 0x190 + 16 * q
      (streamOf t q).bound = (at_ (r + 12)).getLsbD 7 ∧
      ((at_ (r + 12)).getLsbD 7 = true →
        (streamOf t q).reg = (at_ (r + 12)).toNat % 128 ∧ (streamOf t q).addr = at_ r ∧
        (streamOf t q).left = (at_ (r + 4)).toNat ∧ (streamOf t q).stride = at_ (r + 8))) ∧
    (streamOf t 3).bound = (at_ 0x1CC).getLsbD 7 ∧ (streamOf t 3).reg = (at_ 0x1CC).toNat % 128 ∧
    (streamOf t 3).hand = ((List.range 8).map fun j => at_ (0x1D4 + 4 * j)).drop (8 - (at_ 0x1C4).toNat) ∧
    ∀ n, 0 < n → n < 128 → rdReg t n = if n < L then at_ (0x200 + 4 * n) else 0

/-- CTXSV writes the frame of a stopped thread and frees its slot, or answers 1; CTXLD reads a frame and makes its thread
in the slot asked for or in the lowest vacant one, and answers the slot, 0 for none, all ones for a frame that R270
refuses. A frame whose L the count of its own read changes, in a register frame, is left out (R268, R269, R270, R282, R283). -/
def Claim.ContextFrames : Prop :=
  ∀ (s : State) (t : Thread) (o : ShU),
    let u : Use := { (o.use true) with
      srcs := o.a.toNat :: (o.use true).srcs, names := o.a.toNat :: (o.use true).names, priv := true }
    Issues u s t → Clear s → (getCore s s.turn).pairs = [] →
    let v := issuedThread u s t
    let next := pcAfter t u.words
    let a := rdReg t o.b.toNat
    let ctl := (rdReg t o.a.toNat).toNat
    let counted (s : State) (ps : List (Place × List Place)) : State :=
      ps.foldl (fun s p => countAll s s.turn p.1 p.2) s
    let here (ps : List (Place × List Place)) : Prop := ∀ q ∈ ps, q.1.inside = true
    segType ((t.segs[selOf a]?).getD 0) ∈ [2, 3, 4, 5] →
    ((∀ w, threadAt s s.turn (ctl % 16) = some w → ctl % 16 = 0 ∨ w.stopped = false ∨ w.hold = true) →
      CompletesFrom (.ctxsv o) s s (goesTo (wrReg v o.a.toNat 1) next)) ∧
    (∀ w ps, threadAt s s.turn (ctl % 16) = some w → ctl % 16 ≠ 0 → w.stopped = true → w.hold = false →
      mayEvict s s.turn (ctl % 16) = true →
      locateRange s s.turn t (selOf a) (offOf a) (512 + 4 * w.lim) 64 needW = .ok ps → here ps →
      ∃ s' z, exec (.ctxsv o) s = .next s' ∧ threadAt s' s.turn (curSlot s) = some z ∧ z.pc = next ∧
        rdReg z o.a.toNat = 0 ∧ (getSlot s' s.turn (ctl % 16)).content = .vacant ∧
        s'.front = (moveMember s w none).front ∧
        s'.mem = (writeRange (counted s ps) (ps.map (·.1))
          (frameOf { w with watches := [], wake := true })).mem) ∧
    ∀ ps0 ps, locateRange s s.turn t (selOf a) (offOf a) 512 64 needR = .ok ps0 → here ps0 →
      let lim := frameLim (rangeWords s (ps0.map (·.1)) 512)
      let n := if limOk lim then 512 + 4 * lim else 512
      locateRange s s.turn t (selOf a) (offOf a) n 64 needR = .ok ps → here ps →
      let s2 := counted s ps
      let ws := rangeWords s2 (ps.map (·.1)) n
      frameLim ws = lim →
        ((limOk lim = false ∨ frameOk ws = false) →
          CompletesFrom (.ctxld o) s s2 (goesTo (wrReg v o.a.toNat 0xFFFFFFFF) next)) ∧
        (limOk lim = true → frameOk ws = true → ctl / 2 ^ 9 % 2 = 0 →
          (loadSlot (getCore s s.turn) (ctl % 16) = none →
            CompletesFrom (.ctxld o) s s2 (goesTo (wrReg v o.a.toNat 0) next)) ∧
          (∀ i, loadSlot (getCore s s.turn) (ctl % 16) = some i →
            ∃ s' z, exec (.ctxld o) s = .next s' ∧ threadAt s' s.turn (curSlot s) = some z ∧ z.pc = next ∧
              z.regs = (wrReg t o.a.toNat (BitVec.ofNat 32 i)).regs ∧
              threadAt s' s.turn i = some (frameThread ws (ctl / 2 ^ 8 % 2 = 1))))

/-! ### Events of the part -/

/-- The step has a next state, and it is as `P` says. -/
def Leaves (i : Instr) (s : State) (P : State → Prop) : Prop := ∃ s', exec i s = .next s' ∧ P s'

/-- From `s` to `s'` the replay log has taken this input, stamped, last among its entries and as bytes at its next place in HBM;
memory is otherwise that of `s0` (R367; the place and the bytes are log entries 28 and 78, DESIGN CHOICE). -/
def LoggedIn (s s0 s' : State) (what : Logged) : Prop :=
  ∃ e : Stamped, e.what = what ∧ s'.cc.replay = s.cc.replay ++ [e] ∧
    s'.mem = (storeNat s0 (logPlace s) (stampedBytes e).length (bytesVal (stampedBytes e))).mem

/-- MEMORY_ACCESS_PERFORM: a relaxed load gives its registers what stands at its places, a store puts its bytes there, a
store passes points of its path before its bank, and so performs at a scope (R169, R192, R193, R195). -/
def Claim.AccessesPerform : Prop :=
  ∀ (s : State) (a : Access), findFlight s a.id = some a → s.bads = [] →
    (∀ t, bankReady s a = true → a.kind = .load → a.via = .plain → a.foreign = false → a.group ≠ none → a.rewrite = none →
      threadAt s a.core a.slot = some t → t.role = .alone →
      Leaves (.memoryAccessPerform (.thread a.id 0)) s fun s' =>
        threadAt s' a.core a.slot =
          some (a.parts.foldl (fun t p => wrReg t p.reg (loadPart (countArrival s a) p)) t) ∧
        s'.mem = s.mem ∧ findFlight s' a.id = none) ∧
    (∀ p, bankReady s a = true → a.kind = .store → a.via ≠ .sweep → a.via ≠ .probe → a.parts = [p] → mustQueue s a = false →
      Leaves (.memoryAccessPerform (.thread a.id 0)) s fun s' =>
        s'.mem = (storeNat s p.place p.size (p.data.toNat % 256 ^ p.size)).mem ∧ findFlight s' a.id = none) ∧
    (∀ n m, 1 ≤ n → n ≤ 5 → scopeReady s a n = true → pointsFor s a n = some m → s.cc.cxl = false →
      Leaves (.memoryAccessPerform (.thread a.id n)) s fun s' =>
        findFlight s' a.id = some { a with passed := a.passed ++ List.replicate (m - a.passed.length) s.serial } ∧
        n ≤ scopeWith a m ∧ s'.mem = s.mem)

/-- A copy's word goes from its source to its destination, which is no code store (R207, R217). -/
def Claim.CopiesMoveWords : Prop :=
  ∀ (s : State) (c k : Nat) (o : CopyOp) (p q : Place), Clear s → findCopy s c o.id = some o → moving o = true →
    o.kind = .cpy → o.combined = none → k ∉ o.moved → k < o.bytes / 4 * o.count → engSpace o.dst ≠ 5 →
    engAt s c o.asn needW o.dst (4 * k) false = .at s p →
    engAt s c o.asn needW o.dst (4 * k) (freshAt o o.dst (4 * k) true) = .at s p →
    engAt s c o.asn needR o.src (4 * k) (freshAt o o.src (4 * k) false) = .at s q →
    Leaves (.memoryAccessPerform (.copy c o.id k)) s fun s' =>
      s'.mem = (storeWord s p (loadWord s q)).mem ∧
      findCopy s' c o.id = some { touch (touch o o.dst (4 * k) true) o.src (4 * k) false with
        moved := o.moved ++ [k], written := o.written + 1 }

/-- RESERVATION_GRANT gives the word to the request that stands first in its queue; RESERVATION_TIMEOUT takes it away
64 core cycles after it reached its holder, unless its RLS is on the way, and sets F[3]; REMOTE_REPLY brings the value of a
REMOTE load to its register, once the inbox has a place for it and no earlier reply of its target stands before it (R171,
R173, R179, R180, R332). -/
def Claim.ReservationsAndReplies : Prop :=
  (∀ (s : State) (w : Nat) (a : Access) (p : Part), queueHead s w = some a → a.kind = .rsv → a.parts = [p] →
    wordKey p.place = w → grantReady s w = true → a.remote = false → s.bads = [] →
    Leaves (.reservationGrant w) s fun s' =>
      s'.resvs = s.resvs ++ [⟨w, a.core, a.slot, some (getCore s a.core).cycle⟩] ∧ s'.mem = s.mem) ∧
  (∀ (s : State) (r : Resv) (n : Nat) (t : Thread), r ∈ s.resvs → r.since = some n →
    n + 64 ≤ (getCore s r.core).cycle → (∀ f ∈ s.flight, ¬ (f.core = r.core ∧ f.slot = r.slot ∧ f.kind = .rls)) →
    threadAt s r.core r.slot = some t → t.role = .alone →
    Leaves (.reservationTimeout r.core r.slot) s fun s' =>
      (∀ q ∈ s'.resvs, ¬ (q.core = r.core ∧ q.slot = r.slot)) ∧ s'.mem = s.mem ∧
      threadAt s' r.core r.slot = some (setFlag t 3 true)) ∧
  ∀ (s : State) (a : Access) (p : Part) (w : Word) (t : Thread), findFlight s a.id = some a → a.stage = .replied →
    a.okay = true → a.group = none → a.via = .plain → a.foreign = false → a.kind = .load ∨ a.kind = .lde →
    a.parts = [p] → a.result = [w] → a.rewrite = none → threadAt s a.core a.slot = some t → t.role = .alone →
    (a.remote = true → 64 ≤ (getCore s a.core).inbox.length → exec (.remoteReply a.id) s = .next s) ∧
    (replyFree s a = true → Leaves (.remoteReply a.id) s fun s' =>
      threadAt s' a.core a.slot = some (finish (wrReg t p.reg w)) ∧ findFlight s' a.id = none)

/-- WAITLIM_EXPIRY takes WAITLIM where a bounded wait has lasted WLIM cycles, does nothing where no instruction is in progress
and the thread waits for registers, and asks for a withdrawal where the word is
another core's; WITHDRAWAL_ANSWER takes it with TVAL the address where the owner has withdrawn the request, or gives the
instruction up with nothing changed where a stop asked; STOP_EFFECT stops a thread at a boundary and answers slot 0's PARK
(R16, R178, R267, R281). -/
def Claim.WaitsAndStopsEnd : Prop :=
  ∀ (s : State) (c i : Nat) (t : Thread), threadAt s c i = some t → t.role = .alone →
    (waitOver s c t = true → t.stopped = false →
      ((t.pend = none ∧ tagWait s c t = true) ∨ ∃ n r f, t.pend = some ⟨.park, n, r, f⟩) →
      exec (.waitlimExpiry c i) s = .next (takeTrap s c i (abandon t) ⟨.waitlim, 0, 0, t.pc, false, 0⟩)) ∧
    (t.pend = none → tagWait s c t = false → exec (.waitlimExpiry c i) s = .next s) ∧
    (∀ o : ShAB, fetchInstr s c t = .instr (.waitany o) → isFull t o.b.toNat = false → tagWait s c t = false) ∧
    (∀ a n r f, waitOver s c t = true → t.stopped = false → t.pend = some ⟨.access a.id, n, r, f⟩ →
      findFlight s a.id = some a → a.kind = .lde ∨ a.kind = .ldt → a.stage = .listed →
      (a.remote = false →
        exec (.waitlimExpiry c i) s =
          .next (takeTrap (dropFlight s a.id) c i (abandon t) ⟨.waitlim, 0, a.named, t.pc, false, 0⟩)) ∧
      (a.remote = true →
        Leaves (.waitlimExpiry c i) s fun s' =>
          threadAt s' c i = some { t with pend := some ⟨.withdrawn a.id false, n, r, f⟩ } ∧ s'.mem = s.mem ∧
          ∃ m, s'.net = s.net ++ [m] ∧ m.chan = 2 ∧ m.dst = remoteCore a)) ∧
    (∀ a n r f b, t.pend = some ⟨.withdrawn a.id b, n, r, f⟩ → findFlight s a.id = some a → a.stage = .replied →
      a.okay = false → replyFree s a = true →
      (b = false →
        exec (.withdrawalAnswer c i) s =
          .next (takeTrap (dropFlight s a.id) c i (abandon t) ⟨.waitlim, 0, a.named, t.pc, false, 0⟩)) ∧
      (b = true → exec (.withdrawalAnswer c i) s = .next (setThread (dropFlight s a.id) c i (abandon t)))) ∧
    (0 < i → t.stopReq = true → t.stopped = false → t.pend = none →
      Leaves (.stopEffect c i) s fun s' =>
        threadAt s' c i =
          some { t with status := .ready, waitFrom := none, heldAt := none, missAt := none, stopped := true,
                        stopReq := false, hold := t.hold || t.holdReq, holdReq := false } ∧
        (t.holdReq = false → s'.mem = s.mem) ∧
        ∀ u n r f, threadAt s c 0 = some u → u.pend = some ⟨.stopping i, n, r, f⟩ →
          threadAt s' c 0 = some (finish (wrReg u r 0)))

/-- COMMIT_POINT of a pair that agrees sends its comparator's stores to their banks in order and keeps the leading thread
in the commit area; THREAD_KILL ends its thread with exit code 0xFF and KILLED and scrubs the slot; KILL_SCRUB_COMPLETE
leaves it VACANT (R288, R293). -/
def Claim.PairsAndKills : Prop :=
  (∀ (s : State) (c i : Nat) (p : Pair) (a b : Thread), pairOf s c i = some p → commitReady s c p = true →
    threadAt s c p.s = some a → threadAt s c (p.s + 7) = some b → agree a b = true →
    (∀ e ∈ p.cmp, e.matched = true) → p.leadAt = p.trailAt → p.missed = false →
    Leaves (.commitPoint c i) s fun s' =>
      s'.mem = s.mem ∧ s'.flight.take s.flight.length = s.flight ∧
      (s'.flight.drop s.flight.length).map (·.parts) = p.cmp.map (·.parts) ∧
      (∀ f ∈ s'.flight.drop s.flight.length,
        f.kind = .store ∧ f.via = .commit ∧ f.core = c ∧ f.slot = p.s ∧ f.group = none) ∧
      ∃ q, pairOf s' c i = some q ∧ q.lvq = [] ∧ q.cmp = [] ∧ q.lead = a ∧ q.ahead = 0) ∧
  (∀ (s : State) (c i : Nat) (t : Thread), i < 16 → threadAt s c i = some t → t.killed = true → pairOf s c i = none →
    Leaves (.threadKill c i) s fun s' =>
      (getSlot s' c i).content = .scrubbing ∧ (getSlot s' c i).notice.isSome = true ∧
      s'.front.launches = (leaveLaunch s t 0xFF errKilled).front.launches) ∧
  ∀ (s : State) (c i : Nat), (getSlot s c i).content = .scrubbing →
    exec (.killScrubComplete c i) s = .next (setContent s c i .vacant)

/-- MESSAGE_ARRIVAL puts a message last into its core's inbox, or drops it on an OFF channel, and tells the sender in F[1]
which; HANDLER_DISPATCH and FRESH_DISPATCH make a thread of it at its channel's entry with the eight words in g1 to g8;
while channel 0 names the handler at ENTRY 0, which boot firmware installs (log entry 21), a REMOTE load is served at once
(R171 to R174). -/
def Claim.MessagesArrive : Prop :=
  (∀ (s : State) (n : Nat) (m : Msg), s.net[n]? = some m → canArrive s n = true →
    let off : Bool := m.chan ≥ 4 && entTarget (chanEntry (getCore s m.dst) m.chan) = 0
    Leaves (.messageArrival n) s fun s' =>
      s'.net = s.net.eraseIdx n ∧ s'.mem = s.mem ∧
      (getCore s' m.dst).inbox = (getCore s m.dst).inbox ++ (if off then [] else [m]) ∧
      ∀ t nx r f, (getCore s m.dst).pairs = [] → threadAt s m.srcCore m.srcSlot = some t → t.role = .alone →
        t.pend = some ⟨.send m.id, nx, r, f⟩ →
        threadAt s' m.srcCore m.srcSlot = some (finish (setFlag t 1 !off))) ∧
  (∀ (s : State) (c : Nat) (m : Msg), dispatchMsg (getCore s c) 1 = some m → systemMsg (getCore s c) = none →
    handlerReady s c = true → m.words.length = 8 →
    Leaves (.handlerDispatch c) s fun s' =>
      (getCore s' c).inbox = (getCore s c).inbox.filter (fun e => e.id != m.id) ∧
      ∃ u, threadAt s' c 15 = some u ∧ u.pc = chanEntry (getCore s c) m.chan &&& 0xFFFF ∧ u.kind = .handler ∧
        u.lim = 8 * (((chanEntry (getCore s c) m.chan).extractLsb' 25 4).toNat + 1) ∧
        ∀ k, k < 8 → rdReg u (k + 1) = wordAt m.words k) ∧
  (∀ (s : State) (c : Nat) (m : Msg) (a : Access) (p : Part), systemMsg (getCore s c) = some m → m.chan = 0 →
    chanEntry (getCore s c) 0 &&& 0xFFFF = 0 → handlerReady s c = true → m.about = some a.id →
    findFlight s a.id = some a → a.stage = .remote → a.remote = true → a.foreign = false → a.via ≠ .lead →
    a.kind = .load → a.parts = [p] → a.result = [] → s.bads = [] →
    Leaves (.handlerDispatch c) s fun s' =>
      s'.flight = s.flight.map (fun f =>
        if f.id = a.id then { a with stage := .replied, result := [loadPart s p], okay := true, seq := s.serial } else f) ∧
      s'.mem = s.mem) ∧
  ∀ (s : State) (c i : Nat) (l : List Nat) (m : Msg), dispatchMsg (getCore s c) 2 = some m →
    vacantSlots (getCore s c) = i :: l → m.words.length = 8 →
    Leaves (.freshDispatch c) s fun s' =>
      (getCore s' c).inbox = (getCore s c).inbox.filter (fun e => e.id != m.id) ∧
      ∃ u, threadAt s' c i = some u ∧ u.pc = chanEntry (getCore s c) m.chan &&& 0xFFFF ∧ u.kind = .fresh ∧
        ∀ k, k < 8 → rdReg u (k + 1) = wordAt m.words k

/-- The four queue registers: STREAM_LOAD_FILL gives a register the next word of its stream, or reads a word ahead, which in
another package it asks for over the device link (R333);
STREAM_STORE_TAKE takes a full register's value and sends it to its word; Q3_DELIVERY gives a register the next word of a
message (R189). -/
def Claim.StreamsMove : Prop :=
  ∀ (s : State) (c i : Nat) (t : Thread), threadAt s c i = some t → t.role = .alone →
    (∀ q w ws, q < 2 → (streamOf t q).bound = true → (streamOf t q).failed = none → (streamOf t q).ahead = w :: ws →
      isFull t (streamOf t q).reg = false → heldBack t (streamOf t q).reg = false → engineTakes s c i q = false →
      Leaves (.streamLoadFill c i q) s fun s' => threadAt s' c i =
        some (wrReg (setStream t q { (streamOf t q).next with ahead := if (streamOf t q).left ≤ 1 then [] else ws })
          (streamOf t q).reg w)) ∧
    (∀ q s1 p va l, q < 2 → (streamOf t q).bound = true → (streamOf t q).failed = none → (streamOf t q).ahead = [] →
      0 < (streamOf t q).left → Clear s →
      streamWord s c t (streamOf t q).addr needR = (s1, .here p va l) →
      (p.inside = true → Leaves (.streamLoadFill c i q) s fun s' =>
        threadAt s' c i = some (setStream t q { streamOf t q with ahead := [loadWord (countAll s1 c p l) p] })) ∧
      (p.inside = false → Leaves (.streamLoadFill c i q) s fun s' =>
        threadAt s' c i = some t ∧ s'.mem = s.mem ∧
        ∃ a, s'.flight = [a] ∧ a.kind = .load ∧ a.via = .queue q ∧ a.core = c ∧ a.slot = i ∧
          a.parts.map (fun x => (x.place, x.size)) = [(p, 4)])) ∧
    (∀ s1 p va l, (streamOf t 2).bound = true → (streamOf t 2).failed = none → wordOut s c i 2 = false →
      isFull t (streamOf t 2).reg = true → heldBack t (streamOf t 2).reg = false →
      streamWord s c t (streamOf t 2).addr needW = (s1, .here p va l) →
      Leaves (.streamStoreTake c i) s fun s' =>
        threadAt s' c i = some (emptyReg (setStream t 2 (streamOf t 2).next) (streamOf t 2).reg) ∧ s'.mem = s.mem ∧
        ∃ a, s'.flight = s.flight ++ [a] ∧ a.kind = .store ∧ a.via = .queue 2 ∧ a.core = c ∧ a.slot = i ∧
          a.parts.map (fun q => (q.place, q.size, q.data)) = [(p, 4, rdReg t (streamOf t 2).reg)]) ∧
    (∀ m, (streamOf t 3).bound = true → isFull t (streamOf t 3).reg = false → heldBack t (streamOf t 3).reg = false →
      (streamOf t 3).hand = [] → q3Next (getCore s c) i = some m →
      Leaves (.q3Delivery c i) s fun s' => threadAt s' c i =
        some (wrReg (setStream t 3 { streamOf t 3 with hand := m.words.drop 1, handAll := m.words }) (streamOf t 3).reg
          (m.words.headD 0))) ∧
    (∀ w v ws, (streamOf t 3).bound = true → isFull t (streamOf t 3).reg = false →
      heldBack t (streamOf t 3).reg = false → (streamOf t 3).hand = w :: v :: ws →
      Leaves (.q3Delivery c i) s fun s' => threadAt s' c i =
        some (wrReg (setStream t 3 { streamOf t 3 with hand := v :: ws }) (streamOf t 3).reg w))

/-- PAGE_REQUEST is logged and answered by the control complex with entries written and a notice on its way, and PAGE_NOTICE
brings it into the inbox; TRANSLATION_WALK fills the quad's buffer with its leaf, starts again where the generation has changed,
and marks its waiters where there is no leaf; SHOOTDOWN_COMPLETE ends TLBINV (R259, R261, R265, R266, R280). -/
def Claim.WalksAndPages : Prop :=
  (∀ (s : State) (n : Nat) (r : PageReq) (writes : List (Nat × BitVec 64)) (mapped : Bool), s.xl.pageReqs[n]? = some r →
    s.cc.toReplay = [] →
    Leaves (.pageRequest n writes mapped) s fun s' =>
      s'.xl.pageReqs = s.xl.pageReqs.eraseIdx n ∧
      s'.xl.pageNotes = s.xl.pageNotes ++ [(r, if mapped then 0 else 1)] ∧
      ∃ s1, LoggedIn s s s1 (.interrupt (some (r.core, r.slot)) false) ∧ s'.cc.replay = s1.cc.replay ∧
        s'.mem = (writes.foldl (fun s w => storeNat s (physPlace w.1) 8 w.2.toNat) s1).mem) ∧
  (∀ (s : State) (n : Nat) (r : PageReq) (st : Nat), s.xl.pageNotes[n]? = some (r, st) →
    (getCore s r.core).inbox.length < 64 →
    Leaves (.pageNotice n) s fun s' =>
      s'.xl.pageNotes = s.xl.pageNotes.eraseIdx n ∧ s'.mem = s.mem ∧
      ∃ m, (getCore s' r.core).inbox = (getCore s r.core).inbox ++ [m] ∧ m.chan = 1 ∧
        m.held = some (if r.toZero then 0 else r.slot) ∧
        m.words.drop 1 = [BitVec.ofNat 32 (2 ^ 24 + st * 256 + r.slot), r.tval, BitVec.ofNat 32 r.va,
          BitVec.ofNat 32 (r.va / 2 ^ 32), 0, 0, 0]) ∧
  (∀ (s : State) (q n : Nat) (m : Miss), (quadMisses s q)[n]? = some m →
    (genOf s (q / 4096) ≠ m.gen →
      Leaves (.translationWalk q n) s fun s' => s'.xl.tlb = s.xl.tlb ∧ s'.mem = s.mem ∧
        { m with gen := genOf s (q / 4096) } ∈ s'.xl.misses) ∧
    (genOf s (q / 4096) = m.gen →
      (∀ pa e big k, walk s m.asn (m.page * 2 ^ 16) = (some (pa, e, big), k) →
        Leaves (.translationWalk q n) s fun s' => m ∉ s'.xl.misses ∧ s'.mem = s.mem ∧
          (⟨q, m.asn, m.page, big, e⟩ : TlbEnt) ∈ s'.xl.tlb) ∧
      (∀ k, walk s m.asn (m.page * 2 ^ 16) = (none, k) →
        Leaves (.translationWalk q n) s fun s' => m ∉ s'.xl.misses ∧ s'.xl.tlb = s.xl.tlb ∧
          ∀ c i t, (c, i) ∈ m.waiters → threadAt s c i = some t →
            threadAt s' c i = some { t with faultPage := some m.page }))) ∧
  ∀ (s : State) (h : Shoot) (l : List Shoot) (c i : Nat) (t : Thread) (n : Word) (r : Nat) (f : List (Nat × Word)),
    s.xl.shoots = h :: l → shootReady s = true → h.owner = .tlbinv c i → threadAt s c i = some t → t.role = .alone →
    t.pend = some ⟨.tlbinv, n, r, f⟩ →
    Leaves .shootdownComplete s fun s' => s'.xl.shoots = l ∧ threadAt s' c i = some (finish t)

/-- What the jig does with a request, on the state `s0` after the walk of the source and `s` after that of the destination, as
R314 gives it in order: 5 where an end no longer translates with its page rights, 3 at a fourth mark, then for `.free` the mark is
cleared, or 1 without one; 1 where the source's page lacks M, 2 for a destination that a move cannot take, 3 where the new mark
would be a fourth, 4 where the source is moving, and else the move (R314). -/
def Claim.JigStatuses : Prop :=
  ∀ (s0 s : State) (r : JigReq),
    let q := quadOf r.core
    let src := chase s0 q r.asn needRW 3 r.src []
    let gone : Prop := ∀ e, tlbFind s q r.asn r.dst = some e → leafW e.leaf = false
    ((∀ p va l, src ≠ .ok p va l) → (∀ l, src ≠ .tooFar l) → jigAct s0 s r = .answer 5) ∧
    (r.free = false → gone → jigAct s0 s r = .answer 5) ∧
    (∀ l, src = .tooFar l → r.free = true ∨ ¬ gone → jigAct s0 s r = .answer 3) ∧
    ∀ p va l, src = .ok p va l →
      (r.free = true → jigAct s0 s r = if markedAt s0 q r.asn r.src then .clear else .answer 1) ∧
      (r.free = false → ∀ e d, tlbFind s0 q r.asn va = some e → tlbFind s q r.asn r.dst = some d →
        leafW d.leaf = true →
        let n := leafByte s d.leaf d.big r.dst
        let bad : Prop :=
          (d.big = false ∧ d.leaf.getLsbD (48 + r.dst / 4096 % 16) = true) ∨ tilePending s n = true ∨
          tileMoving s n = true ∨ kernelFrame s d.leaf d.big r.dst = true ∨ flat n / 4096 = flat p / 4096 ∨
          ¬ (leafPlace d.leaf = 0 ∨ (leafPlace d.leaf = 1 ∧ leafFrame d.leaf ≠ 0xFFFFFFFF))
        (e.big = true ∨ e.leaf.getLsbD 14 = false → jigAct s0 s r = .answer 1) ∧
        (e.big = false → e.leaf.getLsbD 14 = true →
          (bad → jigAct s0 s r = .answer 2) ∧
          (¬ bad → 3 ≤ l.length → jigAct s0 s r = .answer 3) ∧
          (¬ bad → l.length < 3 → tileMoving s p = true → jigAct s0 s r = .answer 4) ∧
          (¬ bad → l.length < 3 → tileMoving s p = false →
            jigAct s0 s r = .move ⟨r, va, r.dst, p, n, l.length + 1, false⟩)))

/-- JIG_START answers a request with its status, begins a move, or takes a mark away; JIG_COMMIT writes the new copy, the mark
and MARKED and begins the shootdown, at whose end the requester has status 0 (R305, R308, R312, R314). -/
def Claim.RelocationEvents : Prop :=
  (∀ (s : State) (d : Nat) (r : JigReq) (l : List JigReq), (jigOf s d).queue = r :: l → (jigOf s d).move = none →
    jigStartReady s d = true →
    let s1 := walkAll r.core r.asn needRW 5 (setJig s d ⟨l, none⟩) r.src
    let s2 := if r.free then s1 else walkNow s1 r.core r.asn r.dst
    (∀ n, jigAct s1 s2 r = .answer n →
      exec (.jigStart d) s = .next (answerReloc s2 r (BitVec.ofNat 32 n))) ∧
    (∀ m, jigAct s1 s2 r = .move m → exec (.jigStart d) s = .next (setJig s2 d ⟨l, some m⟩)) ∧
    (d < 4 → jigAct s1 s2 r = .clear → Leaves (.jigStart d) s fun s' =>
      s'.mem = (markLeaf s2 r.asn r.src false).mem ∧ s'.xl.shoots.length = s2.xl.shoots.length + 1 ∧
      ∃ m, (jigOf s' d).move = some m ∧ m.req = r ∧ m.committed = true)) ∧
  (∀ (s : State) (h : Shoot) (l : List Shoot) (d : Nat) (m : JigMove) (t : Thread) (n : Word) (g : Nat)
      (f : List (Nat × Word)),
    s.xl.shoots = h :: l → shootReady s = true → h.owner = .jigMove d ∨ h.owner = .jigFree d → d < 4 →
    (jigOf s d).move = some m → threadAt s m.req.core m.req.slot = some t → t.role = .alone →
    t.pend = some ⟨.reloc m.req.id, n, g, f⟩ →
    Leaves .shootdownComplete s fun s' =>
      s'.xl.shoots = l ∧ (jigOf s' d).move = none ∧ s'.mem = s.mem ∧
      threadAt s' m.req.core m.req.slot = some (finish (wrReg t g 0))) ∧
  ∀ (s : State) (d : Nat) (m : JigMove), d < 4 → (jigOf s d).move = some m → jigCommitReady s d = true →
    Leaves (.jigCommit d) s fun s' =>
      s'.mem = (markLeaf (storeNat (copyTile s m) m.oldAt 8 (markWord m)) m.req.asn m.oldVa true).mem ∧
      (jigOf s' d).move = some { m with committed := true } ∧ s'.xl.shoots.length = s.xl.shoots.length + 1

/-- OVERFLOW_REFILL, LAUNCH_START, TASK_PLACE, PLACING_OVER_NOTICE, DONE_MESSAGE, LAUNCH_COMPLETE and BAR_EPISODE_OPEN: a
record returns to the chip; a record is checked as it comes to the head of its queue; the head record of the chosen queue
becomes a launch, or completes at once; a thread seeded
from its descriptor stands in the lowest vacant slot of the chosen core, and is not placed before a SPAWN that the core issues in
this cycle; the notice and the done messages go through the
tree; the launch ends; every participant goes on from its core's next cycle (R12, R121 to R130, R133, R141). -/
def Claim.LaunchEvents : Prop :=
  (∀ (s : State) (q : Nat) (p : Place), q < 64 → (getQueue s q).halt = false → (getQueue s q).ovCount ≠ 0 →
    (getQueue s q).recs.length < 32 → ringPlace s (getQueue s q) 0 false = some p →
    Leaves (.overflowRefill q) s fun s' =>
      (getQueue s' q).recs = (getQueue s q).recs ++ [⟨loadNat s p 128, (getQueue s q).ovService.headD none⟩] ∧
      (getQueue s' q).ovCount = (getQueue s q).ovCount - 1) ∧
  (∀ (s : State) (q : Nat) (r : Rec) (l : List Rec), q < 64 → startChoice s = some q → (getQueue s q).recs = r :: l →
    (∀ segs shadows, (getQueue s q).checked = some (.good segs shadows) → presentRange s r.desc ≠ [] →
      Leaves (.launchStart q) s fun s' =>
        (getQueue s' q).recs = l ∧ s'.front.lastServed = q ∧
        ∃ n, s'.front.launches = s.front.launches ++ [n] ∧ n.lid = BitVec.ofNat 32 (dLid r.desc) ∧ n.desc = r.desc ∧
          n.asn = (getQueue s q).asn.toNat ∧ n.segs = segs ∧ n.shadows = shadows ∧
          n.tree = presentRange s r.desc ∧ n.next = 0 ∧
          n.members = [] ∧ n.count = 0) ∧
    ((∃ e, (getQueue s q).checked = some (.bad e)) ∨
        ((getQueue s q).checked.isSome = true ∧ presentRange s r.desc = []) →
      Leaves (.launchStart q) s fun s' =>
        (getQueue s' q).recs = l ∧ s'.front.launches = s.front.launches)) ∧
  (∀ (s : State) (q : Nat) (r : Rec) (l : List Rec), q < 64 → (getQueue s q).recs = r :: l → dSegva r.desc = 0 →
    dFmtva r.desc = 0 → (getQueue (headArrives s q) q).checked = some (checkDesc s (getQueue s q).asn.toNat r.desc)) ∧
  (∀ (s : State) (l : Launch) (c i : Nat) (v : List Nat), placeChoice s = some (l, c) → dPair l.desc = false →
    vacantSlots (getCore s c) = i :: v →
    (spawnFirst s c = true → exec (.taskPlace l.lid.toNat) s = .next s) ∧
    (spawnFirst s c = false → Leaves (.taskPlace l.lid.toNat) s fun s' =>
      ∃ t, threadAt s' c i = some t ∧ t.pc = BitVec.ofNat 32 (dEntry l.desc) ∧ t.rank = BitVec.ofNat 32 l.next ∧
        t.npop = BitVec.ofNat 32 (dCount l.desc) ∧ t.lid = l.lid ∧ t.lim = dLim l.desc ∧ t.segs = l.segs ∧
        t.status = .ready ∧ t.f = 0xFFFF0001 ∧
        (∀ k, 1 ≤ k → k ≤ 8 → rdReg t k = BitVec.ofNat 32 (dSeed l.desc (k - 1))) ∧ ∀ k, 8 < k → rdReg t k = 0)) ∧
  (∀ (s : State) (lid c : Nat),
    Leaves (.placingOverNotice lid c) s fun s' =>
      s'.front.launches = s.front.launches.map fun l =>
        if l.lid = BitVec.ofNat 32 lid ∧ dCount l.desc ≤ l.next ∧ c ∈ l.tree ∧ c ∉ l.noticed then
          { l with noticed := setAdd l.noticed c }
        else l) ∧
  (∀ (s : State) (lid c : Nat),
    Leaves (.doneMessage lid c) s fun s' =>
      s'.front.launches = s.front.launches.map fun l =>
        if l.lid = BitVec.ofNat 32 lid ∧ doneReady s l c = true then { l with sent := setAdd l.sent c } else l) ∧
  (∀ (s : State) (lid : Nat) (l : Launch), launchOf s (BitVec.ofNat 32 lid) = some l → completeReady s l = true →
    Leaves (.launchComplete lid) s fun s' =>
      s'.front.launches = s.front.launches.filter (fun x => x.lid != l.lid) ∧
      ∃ s1 : State, s1.mem = s.mem ∧ s' = finishLaunch s1 l.asn l.desc l.service
        (l.count % 2 ^ 32 * 2 ^ 32 + l.exit % 256 * 2 ^ 16 + l.errs.toNat) (l.tree.headD 0)) ∧
  ∀ (s : State) (c i k : Nat) (t : Thread) (l : Launch) (n : Word) (r : Nat) (f : List (Nat × Word)),
    threadAt s c i = some t → t.pend = some ⟨.bar k, n, r, f⟩ → launchOf s t.lid = some l →
    episodeReady s l k c = true →
    (∀ m ∈ participants l k c, ∃ j u, memberThread s l.lid m = some (j, u) ∧ u.role = .alone) →
    Leaves (.barEpisodeOpen c i) s fun s' =>
      s'.mem = s.mem ∧
      ∀ m ∈ participants l k c, ∀ j u, memberThread s l.lid m = some (j, u) →
        threadAt s' m.core j = some { finish u with readyAt := (getCore s m.core).cycle + 1 }

/-- CONVOY_ARRIVAL, ARRIVAL_SLOT_GRANT, PLACE_REQUEST, QUEUED_JOIN_LOOKUP and JOIN_EXPIRY: a convoy takes a vacant slot or
the place held for it; the oldest queued convoy takes a slot; a place is given, and the convoy sets out in its flits, or
refused; a queued convoy's JOIN is looked up; a holder goes on with F[1] = MERGED, from the next cycle on (R144, R150 to
R156). -/
def Claim.ConvoyEvents : Prop :=
  (∀ (c d : Nat) (t : Thread),
    let u := unpackConvoy (packConvoy c d t)
    u.pc = t.pc ∧ (∀ k, k < 24 → rdReg u k = rdReg t k) ∧ u.f = t.f ∧ u.lid = t.lid ∧ u.rank = t.rank ∧ u.m = t.m ∧
      u.md = t.md ∧ u.qbase = t.qbase ∧ u.qstride = t.qstride ∧ u.ecost = t.ecost ∧ u.wear = t.wear ∧
      u.tcause = t.tcause ∧ u.tpc = t.tpc ∧ u.tval = t.tval ∧ u.triggered = t.triggered ∧
      u.joinPending = t.joinPending ∧ u.convoy = true ∧ u.lim = 24) ∧
  (∀ (s : State) (n : Nat) (m : Transit), s.moving[n]? = some m →
    Leaves (.convoyArrival n) s fun s' =>
      s'.moving = s.moving.eraseIdx n ∧
      (∀ i v, vacantSlots (getCore s m.dst) = i :: v →
        threadAt s' m.dst i = some (dress s (unpackConvoy m.flits))) ∧
      (vacantSlots (getCore s m.dst) = [] →
        (getCore s' m.dst).arrivals = (getCore s m.dst).arrivals ++ [⟨s.serial, dress s (unpackConvoy m.flits), false⟩])) ∧
  (∀ (s : State) (c i : Nat) (q : Queued), (getCore s c).arrivals.find? (fun q => !q.parked) = some q →
    (List.range 15).find? (fun i => decide (1 ≤ i) && ((getCore s c).slotAt i).isVacant) = some i →
    Leaves (.arrivalSlotGrant c) s fun s' =>
      threadAt s' c i = some q.th ∧
      (getCore s' c).arrivals = (getCore s c).arrivals.filter fun e => e.id != q.id) ∧
  (∀ (s : State) (c i d : Nat) (t : Thread) (b : Bool) (n : Word) (r : Nat) (f : List (Nat × Word)),
    threadAt s c i = some t → t.pend = some ⟨.migrate d b, n, r, f⟩ → t.stopReq = false → t.holdReq = false → i < 16 →
    (presentCore s d = false → exec (.placeRequest c i) s = .next (setThread s c i (abandon t))) ∧
    (presentCore s d = true → draining s d = false →
      claimsAhead s d t < freePlaces (getCore s d) →
      Leaves (.placeRequest c i) s fun s' =>
        (getSlot s' c i).content = .vacant ∧ s'.moving = s.moving ++ [⟨packConvoy c d (abandon t)⟩] ∧
        (getCore s' d).heldPlaces = (getCore s d).heldPlaces + 1) ∧
    (presentCore s d = true →
      draining s d = true ∨ freePlaces (getCore s d) ≤ claimsAhead s d t →
      Leaves (.placeRequest c i) s fun s' =>
        claimKey t ∈ (getCore s' d).refused ∧
        threadAt s' c i =
          some { t with pend := some ⟨.migrate d true, n, r, f⟩, heldAt := some (t.heldAt.getD s.time.toNat) })) ∧
  (∀ (s : State) (c : Nat) (q : Queued) (o : ShI), queuedJoin (getCore s c) = some q →
    fetchInstr s c q.th = .instr (.join o) →
    (getCore s c).joint.find? (fun j => j.ia = q.th.pc.setWidth 14 && j.node = rdReg q.th o.a.toNat && j.lid = q.th.lid) =
      none →
    let next := q.th.pc + BitVec.ofNat 32 (2 * wordsOfChain true o.p o.imm.k)
    (o.imm.raw = 0 →
      Leaves (.queuedJoinLookup c) s fun s' =>
        (getCore s' c).joint = (getCore s c).joint ∧
        (getCore s' c).arrivals = (getCore s c).arrivals.map fun e =>
          if e.id = q.id then { e with th := { setFlag q.th 1 false with pc := next, joinPending := false } } else e) ∧
    (o.imm.raw ≠ 0 → (getCore s c).joint.length < 32 →
      Leaves (.queuedJoinLookup c) s fun s' =>
        (getCore s' c).joint = (getCore s c).joint ++ [⟨.queue q.id, q.th.pc.setWidth 14,
          BitVec.ofNat 24 ((getCore s c).cycle + o.imm.raw.toNat), rdReg q.th o.a.toNat, q.th.lid, false⟩])) ∧
  ∀ (s : State) (c n i : Nat) (e : Joint) (t : Thread), (getCore s c).joint[n]? = some e →
    joinOver (getCore s c) e = true → e.holder = .slot i → threadAt s c i = some t →
    Leaves (.joinExpiry c n) s fun s' =>
      threadAt s' c i = some { finish (setFlag t 1 e.merged) with readyAt := (getCore s c).cycle + 1 } ∧
      (getCore s' c).joint = (getCore s c).joint.filter fun j => j.holder != e.holder

/-- COPY_START takes the oldest command; COPY_COMPLETE of an operation whose last words have moved frees it and sets its
tag where no other operation has it; COLL_COMBINE combines the sources of a collective, and ends it with status 3, no
failing address and a notice for each participant (log entry 74) where two participants disagree, and with the status of a
source that fails. What other packages bring to a pod collective, the status that their part gives it among this, is free
(log entry 20) (R207, R209, R222). -/
def Claim.CopyEvents : Prop :=
  (∀ (s : State) (c : Nat) (o : CopyOp) (l : List CopyOp), (getCore s c).copyQ = o :: l →
    (getCore s c).copyRun.length < 4 →
    Leaves (.copyStart c) s fun s' =>
      (getCore s' c).copyQ = l ∧ (getCore s' c).copyRun = (getCore s c).copyRun ++ [o] ∧ s'.mem = s.mem) ∧
  (∀ (s : State) (c : Nat) (o : CopyOp), findCopy s c o.id = some o → moving o = true →
    let r := runCopy c s o
    copyOver (setCopy r.1 c r.2) c r.2 = true → r.2.notify = false → r.2.ended = none →
    Leaves (.copyComplete c o.id) s fun s' =>
      s'.mem = r.1.mem ∧ (∀ p ∈ (getCore s' c).copyRun, p.id ≠ r.2.id) ∧
      ((∀ p ∈ (getCore s' c).copyQ ++ (getCore s' c).copyRun, p.tag ≠ r.2.tag) →
        (getCore s' c).tags = putBit (getCore r.1 c).tags r.2.tag true)) ∧
  ∀ (s : State) (c : Nat) (o : CopyOp) (order : List Nat),
    ((getCore s c).copyQ ++ (getCore s c).copyRun).find? (fun p => p.id = o.id) = some o → collReady s c o = true →
    let ps := inOrder (matched s c o) order
    ((∃ p ∈ ps, p.2.bytes ≠ o.bytes ∨ p.2.opw ≠ o.opw) →
      exec (.collCombine c o.id order) s =
        .next (ps.foldl (fun s p => setCopy s p.1 { p.2 with ended := some (3, 0), told := true }) s)) ∧
    (∀ s1 st e w, (∀ p ∈ ps, p.2.bytes = o.bytes ∧ p.2.opw = o.opw) → gatherSources ps s = .fail s1 st e w →
      exec (.collCombine c o.id order) s =
        .next (ps.foldl (fun s p => setCopy s p.1 { p.2 with ended := some (st, e), told := st = 3 || p.2.id = w }) s1)) ∧
    (∀ s1 vs, (∀ p ∈ ps, p.2.bytes = o.bytes ∧ p.2.opw = o.opw) → gatherSources ps s = .val s1 vs →
      let s2 : State := { s1 with free := s1.free + copyWords o + 2 }
      let st := podStatus s1 o
      (podOthers s1 o = false → st = 0) ∧
      (st ≠ 0 →
        exec (.collCombine c o.id order) s =
          .next (ps.foldl (fun s p => setCopy s p.1 { p.2 with
            ended := some (st, if st = 3 then 0 else Config.freeNat (s1.free + 1)), told := st = 3 || p.2.id = 0 }) s2)) ∧
      (st = 0 → o.opw / 256 % 2 = 0 →
        exec (.collCombine c o.id order) s =
          .next (ps.foldl (fun s p => setCopy s p.1 { p.2 with combined := some (combinedWords s1 o vs) }) s2)))

/-- MATRIX_START starts the command of the thread of least ECOST; MATRIX_COMPLETE of an attached command that runs to its
end leaves the weight buffer, the accumulator tiles and memory as the command has written them, charges its cost, and its
thread goes on (R233, R235, R239). -/
def Claim.MatrixEvents : Prop :=
  (∀ (s : State) (c : Nat) (m : MatCmd), startReady (getCore s c) = true →
    leastCmd (getCore s c) (startable [] (getCore s c).matQ) = some m →
    Leaves (.matrixStart c) s fun s' =>
      (getCore s' c).matRun = some m ∧ (getCore s' c).matQ = (getCore s c).matQ.filter fun e => e.id != m.id) ∧
  ∀ (s s1 : State) (c cost : Nat) (m : MatCmd) (t : Thread) (n : Word) (r : Nat) (f : List (Nat × Word)),
    (getCore s c).matRun = some m → m.gone = false → m.detached = false → runCmd s c m = .over s1 cost none →
    (getCore s1 c).pairs = [] → threadAt s1 c m.slot = some t → t.role = .alone →
    t.pend = some ⟨.matrix m.id, n, r, f⟩ →
    Leaves (.matrixComplete c) s fun s' =>
      s'.mem = s1.mem ∧ (getCore s' c).matRun = none ∧ (getCore s' c).acc = (getCore s1 c).acc ∧
      (getCore s' c).accStat = (getCore s1 c).accStat ∧ (getCore s' c).amax = (getCore s1 c).amax ∧
      threadAt s' c m.slot =
        some (finish (chargeThread { t with ecost := satAdd t.ecost cost } (4 * (getCore s c).vt * cost)))

/-- What a WLD, an MMA and a CVTST leave where no operand fails and nothing holds them up: a WLD's bytes in the buffer; an
MMA's sums in the rows and columns it names; a CVTST's codes at its destination, which is not GLOBAL, its status bits, and
its tile as it was (R83, R84, R237, R243, R246). -/
def Claim.MatrixResults : Prop :=
  ∀ (s s1 : State) (c : Nat) (m : MatCmd),
    (∀ v, readOperand s c m (wldLen m.ctl) = .val s1 v →
      runWld s c m =
        .over (storeNat s1 (.wstore c (wldOfs m.tile m.ctl)) (wldLen m.ctl) v) (8 + (wldLen m.ctl + 63) / 64) none) ∧
    (∀ bs data, readChain s c (mmaBlocks m.ctl) (32 * mmaWoff m.ctl) = (bs, none) → mmaReason m (bs, none) = none →
      m.need = 0 → mmaA s c m = .val s1 data → blocksBad s1 c bs = false → m.tile ∉ (getCore s1 c).accBad →
      let p := mmaPlanes m.ctl
      let ts := (List.range (mmaTiles m.ctl m.map)).map fun j =>
        aTile m.pw p (m.tileData p data j)
      let u : Mul :=
        { tiles := ts.map (·.1), blocks := bs.map fun b => (List.range 256).map (b.elem m.pw), map := m.map,
          ta := m.ta, tb := m.tb }
      ∃ s2, runMma s c m = .over s2 (mmaCost m bs) none ∧ s2.mem = s1.mem ∧
        ∀ i j, i < 16 → j < 16 →
          accAt (getCore s2 c) m.tile i j =
            if i < mmaRows m.ctl ∧ j < mmaCols m.ctl then ((u.sum i j).into (accAt (getCore s1 c) m.tile i j)).1
            else accAt (getCore s1 c) m.tile i j) ∧
    (m.va = none → Clear s → m.tile < 4 → m.tile ∉ (getCore s c).accBad →
      let k := getCore s c
      let cs := (List.range 256).map fun i =>
        cvtCode m.ctl (cvtScale m)
          (if m.ta then accAt k m.tile (i % 16) (i / 16) else accAt k m.tile (i / 16) (i % 16))
      ∃ s2, runCvtst s c m = .over s2 24 none ∧
        s2.mem = ((cvtStores m (cs.map (·.1))).foldl (fun s w => storeNat s (m.base.shift w.1) w.2.1 w.2.2) s).mem ∧
        statAt (getCore s2 c) m.tile = statAt k m.tile ||| cvtStatus (cs.foldl (fun f x => f ||| x.2) 0) ∧
        (getCore s2 c).acc = k.acc)

/-- The package works: no fatal error has stopped it, and it is not in recovery mode (R357, R361). -/
def Works (s : State) : Prop := s.cc.fatal = false ∧ s.cc.recovery = false

/-- HOST_WRITE and PEER_REQUEST put bytes into the die's memory, HOST_READ and PEER_REQUEST answer with them, where the
range exists and nothing else is under way; a peer's atomic gives back the old word; HOST_SNOOP is answered with no data; a
request for another package changes no byte of this one (R333, R334, R336, R338; HOST_READ at once and the layout of the HDM
window are log entry 61, DEDUCED; that it finds a byte whose tile's move has committed in the new copy is log entry 76). -/
def Claim.OutsideAccesses : Prop :=
  ∀ (s : State) (d a n : Nat) (bs : List Byte), Works s → s.cc.dies.getLsbD d = true →
    let written : State := storeNat s (.hbm d a) bs.length (bytesVal bs)
    let read : List Byte := (List.range n).map fun i => readByte s (followPending s (.hbm d (a + i)))
    (a + bs.length ≤ 192000000000 → Clear s →
      (Leaves (.hostWrite (.hdm d) a bs) s fun s' => s'.mem = written.mem ∧ s'.flight = [] ∧ s'.cores = s.cores) ∧
      ∀ r : PeerReq, r.src < 1024 → r.core < 65536 → r.pkg = s.cc.pkg → r.die = d → r.addr = a → r.op = .store bs →
        Leaves (.peerRequest r) s fun s' =>
          s'.mem = written.mem ∧ s'.flight = [] ∧ s'.cc.answers = s.cc.answers ++ [some []]) ∧
    (a + n ≤ 192000000000 →
      (Leaves (.hostRead (.hdm d) a n) s fun s' =>
        s'.cc.answers = s.cc.answers ++ [some read] ∧ s'.mem = s.mem ∧ s'.cores = s.cores) ∧
      (Clear s → ∀ r : PeerReq, r.src < 1024 → r.core < 65536 → r.pkg = s.cc.pkg → r.die = d → r.addr = a →
        r.op = .load n →
        Leaves (.peerRequest r) s fun s' => s'.cc.answers = s.cc.answers ++ [some read] ∧ s'.mem = s.mem)) ∧
    (a + 4 ≤ 192000000000 → a % 4 = 0 → Clear s → ∀ (r : PeerReq) (k : Nat) (v : Word), r.src < 1024 →
      r.core < 65536 → r.pkg = s.cc.pkg → r.die = d → r.addr = a → r.op = .amo k v →
      Leaves (.peerRequest r) s fun s' =>
        s'.mem = (storeWord s (.hbm d a) (amoNew k (loadWord s (.hbm d a)) v)).mem ∧
        s'.cc.answers = s.cc.answers ++ [some ((List.range 4).map fun i => readByte s (.hbm d (a + i)))]) ∧
    exec (.hostSnoop a) s = .next { s with cc := { s.cc with answers := s.cc.answers ++ [some []] } } ∧
    (Clear s → ∀ r : PeerReq, r.src < 1024 → r.core < 65536 → r.pkg ≠ s.cc.pkg →
      Leaves (.peerRequest r) s fun s' =>
        ∀ q, PlaceExists q → q.inside = true → readByte s' q = readByte s q)

/-- The host's registers: DOORBELL gives a queue its TAIL and is logged, and in a replay, which takes its inputs from the log at
the counts that stand there, the doorbell is the log's (log entry 78); RING_ENABLE turns a ring on with a legal ORDER and
RBASE and off otherwise; RING_RESTART clears a halt; RING_SKIP passes one record; ERROR_RING_ENABLE does for the error ring
as RING_ENABLE; OBSSEL_WRITE begins a snapshot and OBS_SNAPSHOT_READY ends it with the core's counters; REGISTER_WRITE
writes RETRY, clears DROPS where it writes ones, and changes nothing where it is misaligned; HOST_READ answers with a word
of BAR0, or with none where it is misaligned (R339, R350, R352, R354, R355, R363, R367; SKIP on a ring that is not halted is
log entry 62, DEDUCED). -/
def Claim.HostRegisters : Prop :=
  (∀ (s : State) (n : Nat) (v : BitVec 16), s.cc.recovery = false → n < 64 →
    (s.cc.toReplay = [] → Leaves (.doorbell n v) s fun s' =>
      (getQueue s' n).tail = v ∧ (∀ k, k ≠ n → getQueue s' k = getQueue s k) ∧
      LoggedIn s s s' (.doorbell n v.toNat)) ∧
    (s.cc.toReplay ≠ [] → exec (.doorbell n v) s = .next s) ∧
    ∀ (e : Stamped) (l : List Stamped) (x : BitVec 64), s.cc.fatal = false → s.cc.toReplay = e :: l →
      e.what = .doorbell n v.toNat →
      Leaves (.registerWrite ⟨.replay, 4⟩ 4 x) s fun s' =>
        (getQueue s' n).tail = v ∧ s'.cc.toReplay = l ∧ s'.cc.replay = s.cc.replay ++ [e] ∧
        (e.core < 16 → (ctlCore s' e.core).retired = e.count)) ∧
  (∀ (s : State) (n : Nat) (v : Word), s.cc.recovery = false → n < 64 → v.getLsbD 28 = false → v.getLsbD 29 = false →
    (getQueue s n).enable = false →
    Leaves (.ringEnable n v) s fun s' =>
      (getQueue s' n).enable =
        (v.getLsbD 31 && decide (2 ≤ v.toNat % 16 ∧ v.toNat % 16 ≤ 12) && (getQueue s n).rbase.toNat % 4096 == 0) ∧
      s'.mem = s.mem) ∧
  (∀ (s : State) (n : Nat), s.cc.recovery = false → n < 64 →
    (Leaves (.ringRestart n) s fun s' =>
      (getQueue s' n).halt = false ∧ (getQueue s' n).head = (getQueue s n).head ∧ s'.mem = s.mem) ∧
    Leaves (.ringSkip n) s fun s' =>
      (getQueue s' n).halt = false ∧ s'.mem = s.mem ∧
      (getQueue s' n).head.toNat =
        ((getQueue s n).head.toNat + 1) % 2 ^ ((getQueue s n).order.toNat + 4) % 65536) ∧
  (∀ (s : State) (v : Word), s.cc.recovery = false → s.cc.notices = [] →
    Leaves (.errorRingEnable v) s fun s' =>
      s'.cc.eenable =
        (if v.getLsbD 31 && (v.toNat % 16 < 2 || v.toNat % 16 > 12 || s.cc.ebase.toNat % 4096 != 0) then s.cc.eenable
         else v.getLsbD 31) ∧
      s'.mem = s.mem) ∧
  (∀ (s : State) (v : Word), s.cc.recovery = false →
    Leaves (.obsselWrite v) s fun s' =>
      s'.cc.obs.pending = true ∧ s'.cc.obs.ready = false ∧ s'.cc.obs.core = v.setWidth 16 ∧ s'.mem = s.mem) ∧
  (∀ s : State, obsReady s = true → presentCore s s.cc.obs.core.toNat = true →
    Leaves .obsSnapshotReady s fun s' =>
      let k := getCore s s.cc.obs.core.toNat
      s'.cc.obs.ready = true ∧ s'.cc.obs.pending = false ∧ s'.mem = s.mem ∧
      s'.cc.obs.data = [k.nIssued, k.nMem, k.nMsg, k.nVacant, k.nIdled, k.rot] ++ k.hist.toList) ∧
  ∀ (s : State) (o n e : Nat) (u : RegUnit) (v : BitVec 64), s.cc.recovery = false →
    exec (.registerWrite ⟨.bar0, 8⟩ 4 v) s = .next { s with cc := { s.cc with retry := v.getLsbD 0 } } ∧
    (e < 256 → Leaves (.registerWrite ⟨.service e, 0x1C⟩ 4 v) s fun s' =>
      (serviceAt s' e).drops = (serviceAt s e).drops &&& ~~~ v.setWidth 32) ∧
    (o % n ≠ 0 → exec (.registerWrite ⟨u, o⟩ n v) s = .next s) ∧
    (o % n ≠ 0 →
      exec (.hostRead .bar0 o n) s = .next { s with cc := { s.cc with answers := s.cc.answers ++ [none] } }) ∧
    exec (.hostRead .bar0 0x114 4) s =
      .next { s with cc := { s.cc with
        answers := s.cc.answers ++ [some ((List.range 4).map fun j => s.cc.elost.extractLsb' (8 * j) 8)] } }

/-- RING_RECORD_TAKE puts the descriptor of a good record into its queue and moves HEAD on, and halts the queue at a record
outside the window; NETWORK_FRAME of a frame that no service entry matches goes to the control complex, one that matches becomes
a record with its payload in the buffer, and both are logged; it is counted as dropped where no buffer is free (R339, R340, R353,
R367; the service template in address space 0 is log entry 63, DEDUCED). Frames in a replay are left out. -/
def Claim.RecordsComeIn : Prop :=
  (∀ (s : State) (n : Nat), n < 64 → ringReady s n = true → (getQueue s n).hand = none →
    let q := getQueue s n
    let r := loadNat s (busPlace s (q.rbase.toNat + 64 * q.headAt)) 64
    let d := loadNat s (busPlace s (r % 2 ^ 64)) 128
    (r / 2 ^ 96 = 0 → r % 64 = 0 → inside (r % 2 ^ 64) 128 q.wbase.toNat q.wlen.toNat = true →
      (∀ p ∈ descRanges d, inside p.1 p.2 q.ubase.toNat q.ulen.toNat = true) → q.recs.length < 32 → q.ovCount = 0 →
      Leaves (.ringRecordTake n) s fun s' =>
        (getQueue s' n).recs = q.recs ++ [⟨d, none⟩] ∧ s'.mem = s.mem ∧
        (getQueue s' n).head = BitVec.ofNat 16 ((q.headAt + 1) % q.entries)) ∧
    (inside (r % 2 ^ 64) 128 q.wbase.toNat q.wlen.toNat = false →
      Leaves (.ringRecordTake n) s fun s' =>
        (getQueue s' n).recs = q.recs ∧ (getQueue s' n).head = q.head ∧ (getQueue s' n).halt = true ∧
        (getQueue s' n).capf = true)) ∧
  ∀ (s : State) (f : Frame), Works s → s.cc.toReplay = [] →
    ((∀ e ∈ s.cc.services, serviceMatches e.2 f = false) →
      Leaves (.networkFrame f) s fun s' => s'.cc.inbound = s.cc.inbound ++ [f] ∧ LoggedIn s s s' (.frame f)) ∧
    ∀ e v, s.cc.services.find? (fun e => serviceMatches e.2 f) = some (e, v) →
      (freeBufferNo v = none →
        Leaves (.networkFrame f) s fun s' =>
          smGet s'.cc.services e = some { v with drops := satAdd v.drops 1 } ∧ s'.mem = s.mem) ∧
      ∀ k ps ws, freeBufferNo v = some k → f.payload.length ≤ v.bufsz.toNat →
        bufferPlaces s (v.pool.toNat + k * v.bufsz.toNat) f.payload.length = some ps →
        frontWords s 0 v.descva.toNat 128 = some ws → v.queue.toNat < 64 → (getQueue s v.queue.toNat).halt = false →
        (getQueue s v.queue.toNat).recs.length < 32 → (getQueue s v.queue.toNat).ovCount = 0 →
        Leaves (.networkFrame f) s fun s' =>
          (getQueue s' v.queue.toNat).recs =
            (getQueue s v.queue.toNat).recs ++ [⟨serviceDesc v e k f (wordsNat ws), some (e, k)⟩] ∧
          smGet s'.cc.services e = some { v with used := v.used ++ [k] } ∧
          LoggedIn s (writePayload s ps f.payload) s' (.service v.queue.toNat e k (serviceDesc v e k f (wordsNat ws)))

/-- ROUTE_CHANGE, ROUTE_FAILURE, LINK_FLIT_RETRY, LINK_FAILURE and REQUEST_BOUNCE: a route changes once no request of the
package is on its way; an undelivered request is answered as an uncorrectable error, and its record names the address and
the LID; a flit sent again changes no thread, no access and no launch; a dead link stops the package; a bounced request
stays on its way (R272, R323, R333, R355, R357). -/
def Claim.LinkEvents : Prop :=
  ∀ (s : State) (p l a b : Nat), Works s →
    (s.flight = [] →
      exec (.routeChange p l) s =
        .next { s with cc := { s.cc with routes := smSet s.cc.routes (p % 1024) (l % 16) } }) ∧
    (∀ (x : Access) (t : Thread), findFlight s x.id = some x → peerAccess x = true → x.foreign = false →
      threadAt s x.core x.slot = some t →
      exec (.routeFailure x.id) s =
        .next (errReport (failAccess (countArrival s x) x) 5 (some x.slot) (some x.core) (peerAddr x) t.lid)) ∧
    (Leaves (.linkFlitRetry a b) s fun s' =>
      s'.cores = s.cores ∧ s'.flight = s.flight ∧ s'.front = s.front ∧ s'.cc.fatal = s.cc.fatal) ∧
    (Leaves (.linkFailure a b) s fun s' =>
      s'.cc.fatal = true ∧ ∀ t : State, t.cc.fatal = true → t.agenda = [] → step t = .next t) ∧
    exec (.requestBounce a) s = .next s

/-- SOFT_ERROR leaves a bad word, a thread to be killed or a bad tile to be met, and stops the package where it strikes the
control complex; DRAIN_START takes a quad out of service, DRAIN_COMPLETE gives its logical cores to the spare,
CORE_PRESENCE_END ends the presence of a drained one that does not move (R168, R293, R301, R303, R357). -/
def Claim.ErrorsAndDrains : Prop :=
  ∀ s : State, Works s →
    (∀ a, exec (.softError (.word a) false) s = .next { s with bads := setAdd s.bads (a / 4) }) ∧
    (∀ c i t, threadAt s c i = some t →
      exec (.softError (.thread c i) false) s = .next (setThread s c i { t with killed := true })) ∧
    (∀ c n, n < 4 →
      Leaves (.softError (.tile c n) false) s fun s' => n ∈ (getCore s' c).accBad ∧ s'.mem = s.mem) ∧
    (Leaves (.softError .control false) s fun s' => s'.cc.fatal = true) ∧
    (Leaves (.softError .packageWide false) s fun s' => s'.cc.fatal = true) ∧
    (∀ a, (Leaves (.softError (.word a) true) s fun s' => s'.cores = s.cores ∧ s'.front = s.front)) ∧
    (∀ c, healthOf s c = .healthy →
      Leaves (.drainStart c 3) s fun s' => healthOf s' c = .drained ∧ s'.mem = s.mem ∧
        ∃ d, s'.life.draining = s.life.draining ++ [d] ∧ d.1 = physQuad s (quadOf c)) ∧
    (∀ q l p, s.life.draining.find? (fun d => d.1 = q) = some (q, some p) → drainReady s q = true →
      logicalQuad s q = some l →
      Leaves (.drainComplete q) s fun s' => physQuad s' l = p ∧ ∀ d ∈ s'.life.draining, d.1 ≠ q) ∧
    (∀ q, relocating s (4 * q) = false → (∀ j, j < 4 → healthOf s (4 * q + j) = .drained) →
      Leaves (.corePresenceEnd q) s fun s' =>
        (∀ j, j < 4 → presentCore s' (4 * q + j) = false) ∧ s'.mem = s.mem)

/-- STRESS_TICK sets a core's VT from temperature and voltage; POWER_SAMPLE and POWER_TICK keep the package within its
power; LIFETIME_WRITE writes every core's entry and the die summaries of the record; POWER_LOSS leaves the package without
its own bytes, its cores and its accesses and with the record of the last complete hour, and takes nothing of what lies
outside it: host memory, other packages, the image of a checkpoint at its targets, the firmware images and the package's
names (R295 to R298, R369; what is kept beside the record is the model's choice, log entries 2, 26 and 27). -/
def Claim.PowerAndLife : Prop :=
  ∀ s : State, Works s →
    (∀ c temp mv,
      Leaves (.stressTick c temp mv) s fun s' =>
        s'.mem = s.mem ∧ (liveOf s' (physCore s c)).temp = temp ∧
        (getCore s' c).vt =
          (if temp ≤ 55 then 1 else if temp ≤ 70 then 2 else if temp ≤ 85 then 3 else if temp ≤ 95 then 4
            else if temp ≤ 105 then 6 else 8) * (if mv ≤ 700 then 2 else if mv ≤ 800 then 4 else 6)) ∧
    (∀ w, exec (.powerSample w) s = .next { s with cc := { s.cc with samples := w :: s.cc.samples.take 9 } }) ∧
    (Config.powerLimit < average s.cc.samples → (∃ d, d < 4 ∧ 470 < clockOf s d) →
      Leaves (.powerTick []) s fun s' => ∀ d, d < 4 → clockOf s' d = max 470 (clockOf s d - 10)) ∧
    (Config.powerLimit < average s.cc.samples → (∀ d, d < 4 → clockOf s d ≤ 470) → s.cc.eighths < 7 → s.cc.overMs < 10 →
      exec (.powerTick []) s = .next { s with cc := { s.cc with eighths := s.cc.eighths + 1 } }) ∧
    (Leaves .lifetimeWrite s fun s' =>
      s'.life.recordSums = s.life.sums ∧ s'.life.hoursMade = s.life.hoursMade + 1 ∧ s'.mem = s.mem ∧
      (∀ n, 66560 ≤ n → smGet s'.life.record n = none) ∧
      ∀ n, n < 66560 → ∃ e, smGet s'.life.record n = some e ∧
        let old := (liveOf s n).entry
        e.hours = old.hours + 1 ∧ e.wu = old.wu ∧ e.corr = old.corr ∧ e.uncorr = old.uncorr ∧ e.tmax = old.tmax ∧
        e.lcore = old.lcore ∧ old.bti ≤ e.bti ∧ old.em ≤ e.em ∧ old.cls ≤ e.cls) ∧
    (Leaves .powerLoss s fun s' =>
      s'.mem = s.mem.filter (fun e => !ownByte e) ∧ s'.cores = [] ∧ s'.flight = [] ∧ s'.front = State.reset.front ∧
      s'.life.record = s.life.record ∧ s'.life.sums = s.life.recordSums ∧ s'.cc.saved = s.cc.saved ∧
      s'.cc.images = s.cc.images ∧ s'.cc.image = s.cc.image ∧ s'.cc.retry = s.cc.retry ∧ s'.cc.pkg = s.cc.pkg ∧
      s'.cc.pod = s.cc.pod) ∧
    ∀ p b, PlaceExists p → (∀ d a, p ≠ .frame d a) →
      (ownByte (flat p, b) = true ↔ ∀ a k d, p ≠ .host a ∧ p ≠ .peer k d a)

/-- STARTUP of a new part that finds everything in order brings up every die, control core, link and port, and keeps memory
and the reference counter (which is the model's choice, log entries 2 and 4); FIRMWARE_UPDATE writes image A, RETRY_REQUEST
sets RETRY; SIDEBAND_DUMP of memory answers with up to 48 bytes after a fatal error and with none where the link is down for
another reason, and no dump is answered while the host link works (R359 to R361, R368; log entries 27 and 28). -/
def Claim.StartAndSideBand : Prop :=
  ∀ s : State,
    (s.life.startLog = [] →
      Leaves (.startup .plain) s fun s' =>
        s'.booted = true ∧ s'.cc.dies = 0xF ∧ s'.cc.controls = 0xFFFF ∧ s'.cc.linksUp = 0xFFFF ∧ s'.cc.portsUp = 0xFF ∧
        s'.cc.recovery = false ∧ s'.mem = s.mem ∧ s'.time = s.time ∧ s'.life.starts = s.life.starts + 1 ∧
        s'.cores = []) ∧
    (∀ n, exec (.firmwareUpdate n) s = .next { s with cc := { s.cc with images := s.cc.images.set 0 n } }) ∧
    exec .retryRequest s = .next { s with cc := { s.cc with retry := true } } ∧
    (∀ r o n,
      (s.cc.fatal = true → Leaves (.sidebandDump 5 o n) s fun s' =>
        s'.cc.answers = s.cc.answers ++ [some ((List.range (min n 48)).map fun k => readByte s (physPlace (o + k)))] ∧
        s'.mem = s.mem) ∧
      (s.cc.fatal = false → s.cc.recovery = true ∨ s.booted = false → Leaves (.sidebandDump 5 o n) s fun s' =>
        s'.cc.answers = s.cc.answers ++ [some []] ∧ s'.mem = s.mem) ∧
      (s.cc.fatal = false → s.cc.recovery = false → s.booted = true → exec (.sidebandDump r o n) s = .next s))

/-- An access of `n` bytes at `a` that R349 lets through this capability: tagged, not sealed, with these permissions (bits of
PERMS), within the bounds. -/
def CapLets (v : CapVal) (perms : List Nat) (a n : Nat) : Prop :=
  v.tag = true ∧ v.bits.getLsbD 26 = false ∧ (∀ b ∈ perms, v.bits.getLsbD (24 + b) = true) ∧
  (v.bits.extractLsb' 80 48).toNat ≤ a ∧ a + n ≤ (v.bits.extractLsb' 80 48).toNat + (v.bits.extractLsb' 32 48).toNat

/-- A control core that a write to its unit lets run (log entry 80) goes on past an instruction that it may execute: a load
through a capability reads control-core memory, an ordinary store writes it and clears the tag of every 16-byte word that it
touches, a load or store of a capability moves 16 bytes with their tag. A load or store that its capability does not let
through, and a fetch, is a capability fault: the registers, the memory and the tags are as they were, the PC of the fault is
kept, and the package is stopped (R348, R349, R357; the words of the instructions beside RV64IMAC are log entry 80, DESIGN
CHOICE, and that a sealed capability lets nothing through is there too, PRESUMED). -/
def Obligations.ControlCores : Prop :=
  ∀ (s : State) (n : Nat) (w : BitVec 32) (size : Nat) (x : BitVec 64), n < 16 → Works s →
    s.cc.controls.getLsbD n = true →
    let k := ctlCore s n
    let event : Instr := .registerWrite ⟨.ctl n, 0⟩ 4 x
    let faults : Prop := Leaves event s fun s' =>
      s'.cc.fatal = true ∧ (ctlCore s' n).fault = some k.pc ∧ (ctlCore s' n).regs = k.regs ∧
      s'.cc.ctlMem = s.cc.ctlMem ∧ s'.cc.ctlTags = s.cc.ctlTags
    let goesOn (s' : State) : Prop :=
      (ctlCore s' n).pc = k.pc + BitVec.ofNat 64 size ∧ (ctlCore s' n).retired = k.retired + 1 ∧
      (ctlCore s' n).fault = k.fault ∧ s'.mem = s.mem ∧ s'.cc.fatal = false
    let at_ (r : Nat) (imm : BitVec 64) : Nat := (((k.reg r).bits.extractLsb' 80 48).setWidth 64 + imm).toNat
    let word : Nat := ctlBytes s k.pc.toNat 4
    (¬ CapLets k.pcc [5] k.pc.toNat (rvAt (BitVec.ofNat 32 word)).2 → faults) ∧
    (CapLets k.pcc [5] k.pc.toNat size → w = BitVec.ofNat 32 word →
      (∀ f3 rd r imm, rvAt w = (some (.load f3 rd r imm), size) →
        let z := 2 ^ (f3 % 4)
        (¬ CapLets (k.reg r) [7] (at_ r imm) z → faults) ∧
        (CapLets (k.reg r) [7] (at_ r imm) z → Leaves event s fun s' =>
          goesOn s' ∧ s'.cc.ctlMem = s.cc.ctlMem ∧
          (0 < rd → rd < 32 → (ctlCore s' n).reg rd =
            ⟨((if f3 < 3 then (BitVec.ofNat (8 * z) (ctlBytes s (at_ r imm) z)).signExtend 64
              else BitVec.ofNat 64 (ctlBytes s (at_ r imm) z)) : BitVec 64).setWidth 128, false⟩))) ∧
      (∀ f3 r b imm, f3 < 4 → rvAt w = (some (.store f3 r b imm), size) →
        (¬ CapLets (k.reg r) [6] (at_ r imm) (2 ^ f3) → faults) ∧
        (CapLets (k.reg r) [6] (at_ r imm) (2 ^ f3) → Leaves event s fun s' =>
          goesOn s' ∧ (ctlCore s' n).regs = k.regs ∧
          (∀ a, memRead s'.cc.ctlMem a =
            if at_ r imm ≤ a ∧ a < at_ r imm + 2 ^ f3 then (k.reg b).bits.extractLsb' (8 * (a - at_ r imm)) 8
            else memRead s.cc.ctlMem a) ∧
          ∀ m, m ∈ s'.cc.ctlTags ↔
            m ∈ s.cc.ctlTags ∧ ¬ (at_ r imm / 16 ≤ m ∧ m ≤ (at_ r imm + 2 ^ f3 - 1) / 16))) ∧
      (∀ rd r imm, rvAt w = (some (.loadCap rd r imm), size) →
        (¬ CapLets (k.reg r) [7, 4] (at_ r imm) 16 → faults) ∧
        (CapLets (k.reg r) [7, 4] (at_ r imm) 16 → at_ r imm % 16 = 0 → Leaves event s fun s' =>
          goesOn s' ∧ s'.cc.ctlMem = s.cc.ctlMem ∧
          (0 < rd → rd < 32 → (ctlCore s' n).reg rd =
            ⟨BitVec.ofNat 128 (ctlBytes s (at_ r imm) 16), s.cc.ctlTags.contains (at_ r imm / 16)⟩))) ∧
      ∀ r b imm, rvAt w = (some (.storeCap r b imm), size) →
        (¬ CapLets (k.reg r) [6, 3] (at_ r imm) 16 → faults) ∧
        (CapLets (k.reg r) [6, 3] (at_ r imm) 16 → at_ r imm % 16 = 0 → Leaves event s fun s' =>
          goesOn s' ∧ (ctlCore s' n).regs = k.regs ∧
          (∀ m, m ∈ s'.cc.ctlTags ↔ if m = at_ r imm / 16 then (k.reg b).tag = true else m ∈ s.cc.ctlTags) ∧
          ∀ a, memRead s'.cc.ctlMem a =
            if at_ r imm ≤ a ∧ a < at_ r imm + 16 then (k.reg b).bits.extractLsb' (8 * (a - at_ r imm)) 8
            else memRead s.cc.ctlMem a))

/-- CHECKPOINT is logged and asks every running thread to stop; CHECKPOINT_TIMEOUT ends one that resumes, before or after its image is
staged, and leaves no image; CHECKPOINT_RESTORE brings back the memory and the launches of the image, and is refused with
nothing changed where the image does not verify; TRACE_SAMPLE keeps the time of its sample; BREAKPOINT_HOLD holds a thread,
PRECISE_STOP one that stands at a boundary, and asks one with an instruction in progress to be held at its next one;
DEBUG_HOLD_LIFT lets it go (R342, R343, R364, R366). That a timeout forgets an earlier image and a restore drops what was
under way is the model's choice (log entry 26, DESIGN CHOICE); PRECISE_STOP at once and the flag that a lift leaves are log
entry 59, DEDUCED. -/
def Obligations.HoldsAndCheckpoints : Prop :=
  ∀ s : State, Works s →
    (∀ c i t b, s.cc.checkpoint = none → s.cc.toReplay = [] → threadAt s c i = some t → t.kind ≠ .runtime → t.stopped = false →
      t.role ≠ .trailing →
      Leaves (.checkpoint b) s fun s' =>
        threadAt s' c i = some { t with stopReq := true } ∧ s'.cc.checkpoint = some ⟨b, false, none⟩ ∧
        LoggedIn s s s' (.interrupt none b)) ∧
    (∀ im, s.cc.checkpoint = some ⟨true, false, im⟩ → s.cc.toReplay = [] → Leaves .checkpointTimeout s fun s' =>
      s'.cc.checkpoint = none ∧ s'.cc.saved = none) ∧
    (∀ im, s.cc.checkpoint = some ⟨true, true, some im⟩ → s.cc.toReplay = [] → Leaves .checkpointTimeout s fun s' =>
      s'.cc.checkpoint = none ∧ s'.cc.saved = none ∧ s'.front = s.front) ∧
    (∀ im, s.cc.saved = some im → (∀ m ∈ im.cores, presentCore s m.core = true) →
      Leaves (.checkpointRestore true) s fun s' =>
        s'.cc.checkpoint = none ∧ s'.front = im.front ∧ s'.empties = im.empties ∧ s'.flight = [] ∧
        s'.mem = im.mem.foldl (fun m e => memWrite m e.1 e.2) (s.mem.filter fun e => !ownByte e)) ∧
    exec (.checkpointRestore false) s = .next s ∧
    (∀ c, sampleReady s c = true → Leaves (.traceSample c) s fun s' => (getCore s' c).sampled = s.time) ∧
    ∀ c i t, threadAt s c i = some t → t.role = .alone → pairOf s c i = none →
      (breakReady s c i = true →
        Leaves (.breakpointHold c i) s fun s' => threadAt s' c i = some { t with hold := true }) ∧
      (t.hold = false → t.pend = none →
        Leaves (.preciseStop c i) s fun s' =>
          threadAt s' c i = some { t with
            status := .ready, waitFrom := none, heldAt := none, missAt := none, hold := true, holdReq := false }) ∧
      (i < 16 → t.hold = false → t.pend ≠ none →
        exec (.preciseStop c i) s = .next (setThread s c i { t with holdReq := true })) ∧
      (t.hold = true →
        Leaves (.debugHoldLift c i) s fun s' =>
          threadAt s' c i = some { t with hold := false, lifted := true } ∧ s'.mem = s.mem)

/-- CORE_CYCLE counts the cycle's class and, at a rotation's first cycle, adds one to the rotations and to the histogram's
count for the number of slots that are READY then, gives the next core its turn and lets the reference counter rise by what
is left open (R8, R115, R362). In a core's first cycle of a rotation slot 0's installed runtime takes its turn before the
count (log entries 1 and 4); which cycles count as IDLED and VACANT is log entry 25, the rise of the counter log entry 9:
these are the model's choices. -/
def Obligations.CyclesCount : Prop :=
  ∀ (s : State) (c : Nat),
    let s1 : State :=
      if presentCore s c = true ∧ (getCore s c).halted = false ∧ (getCore s c).cycle % 16 = 0 ∧ isRuntime s c = true then
        runtimeStep s c
      else s
    queuedJoinReady (getCore s c) = false → (getCore s c).sampling = none → s1.cc.checkpoint = none →
    relocating s1 c = false →
    Leaves (.coreCycle c) s fun s' =>
      let k := getCore s1 c
      let k' := getCore s' c
      let ready := ((List.range 16).filter fun i => slotReady (k.slotAt i) || (i = 0 && s.issued)).length
      s'.turn = (c + 1) % 65536 ∧ s'.issued = false ∧ s'.mem = s1.mem ∧ k'.cycle = k.cycle + 1 ∧ k'.slots = k.slots ∧
      (k.cycle % 16 ≠ 0 → k'.hist = k.hist ∧ k'.rot = k.rot) ∧
      (k.cycle % 16 = 0 → k'.rot = k.rot + 1 ∧ ∀ j, j ≤ 16 →
        (k'.hist[j]?).getD 0 = if j = ready then (k.hist[j]?).getD 0 + 1 else (k.hist[j]?).getD 0) ∧
      s'.time = s.time + BitVec.ofNat 64 (Config.ticks s.free) ∧
      k'.nIssued = (if cycleClass s c = .issued then k.nIssued + 1 else k.nIssued) ∧
      k'.nMem = (if cycleClass s c = .nrmem then k.nMem + 1 else k.nMem) ∧
      k'.nMsg = (if cycleClass s c = .nrmsg then k.nMsg + 1 else k.nMsg) ∧
      k'.nVacant = (if cycleClass s c = .vacant then k.nVacant + 1 else k.nVacant) ∧
      k'.nIdled = (if cycleClass s c = .idled then k.nIdled + 1 else k.nIdled)

/-! ### Statements of several parts -/

/-- What is no instruction: chains that are too long, repeated and unknown prefixes are refused, and a step at a chain that
is no instruction, or of which a word cannot be fetched, takes the exception of R18 and R33 (log entries 34 and 36, both
DEDUCED). -/
def Obligations.NoInstruction : Prop := Claim.BadChainsRejected ∧ Claim.StepTrapsUndecoded

/-- What reset leaves where the rules give a value, and a thread as it is created (R12, R13, R329, R351 to R355, R369). -/
def Obligations.ResetAndCreation : Prop := Claim.ResetValues ∧ Claim.ThreadCreation

/-- Writes to registers, flags and lanes change what they name and nothing else (R11, R13, R14, R17, R91). -/
def Obligations.RegisterAccess : Prop := Claim.RegisterWrite ∧ Claim.FlagWrite ∧ Claim.LaneWrite

/-- The instructions of shapes T and U on page 0 (R47 to R49). -/
def Obligations.IntegerArithmetic : Prop := Claim.PageZeroArithmetic

/-- The immediate and bit instructions of pages 0 and 1 (R26, R48, R50, R52, R53). -/
def Obligations.Immediates : Prop := Claim.PageZeroImmediates ∧ Claim.BitInstructions

/-- The arithmetic instructions of page 1: DIV, DIVU, REM and REMU with their identity, the high products, the minima and
the maxima (R51). -/
def Obligations.Division : Prop := Claim.DivisionResults ∧ Claim.DivisionIdentity ∧ Claim.PageOneArithmetic

/-- Compares and flag instructions (R54 to R58). -/
def Obligations.ComparesAndFlags : Prop := Claim.Compares ∧ Claim.FlagInstructions

/-- Lane-wise integer instructions, selection and moves (R91, R97, R99, R100). -/
def Obligations.VectorIntegers : Prop := Claim.VectorInteger ∧ Claim.VectorSelectAndMove

/-- Vector compares, scans and reductions (R98, R101). -/
def Obligations.VectorBitmaps : Prop := Claim.VectorCompares ∧ Claim.VectorReductions

/-- Floating results: the rounding of finite operands, and what infinities, NaNs and zeros give (R77, R79, R80, R104, R105). -/
def Obligations.FloatResults : Prop := Claim.FloatSpecialValues ∧ Claim.FloatRounding

/-- The fixed orders of floating sums (R106, R107). -/
def Obligations.FloatSums : Prop := Claim.FloatReductions ∧ Claim.ScanEndsInReduction

/-- Places are distinct bytes, a store puts its bytes and a load finds them (R6, R20, R324, R329). -/
def Obligations.MemoryBytes : Prop := Claim.PlacesDistinct ∧ Claim.StoreBytes ∧ Claim.LoadAfterStore

/-- Vector loads and stores, gather and scatter (R67, R73, R102). -/
def Obligations.VectorMemory : Prop := Claim.VectorLoadStore ∧ Claim.GatherScatter

/-- Where a trap goes and what it saves, traps in slot 0, and the stop of the package (R252 to R256, R357). -/
def Obligations.TrapDelivery : Prop :=
  Claim.TrapTaken ∧ Claim.VectoredCauses ∧ Claim.SlotZeroTrap ∧ Claim.FatalStops

/-- Atomics, RSV and RLS (R180, R184, R185). -/
def Obligations.AtomicsAndReservations : Prop := Claim.Atomics ∧ Claim.Reservations

/-- Reads of the special registers (R40, R277, R296). -/
def Obligations.SpecialReads : Prop := Claim.SpecialValues ∧ Claim.WearRead

/-- Writes of the special registers and the privileged bank (R40, R277). -/
def Obligations.SpecialWrites : Prop := Claim.OwnBankWrites ∧ Claim.PrivilegedRegisters

/-- LAUNCH and BAR (R133, R140, R141). -/
def Obligations.LaunchesAndBarriers : Prop := Claim.LaunchAnswers ∧ Claim.BarArrives

/-- Channel entries and SEND (R172, R173, R187). -/
def Obligations.MessagesOut : Prop := Claim.Channels ∧ Claim.SendGoesOut

/-- Manifests, the end of a convoy, and query records (R146, R160 to R162). -/
def Obligations.ManifestsAndRecords : Prop := Claim.Manifests ∧ Claim.QueryRecords

/-- Copy commands and tags (R207 to R223). -/
def Obligations.CopiesAndTags : Prop := Claim.CopiesQueued ∧ Claim.Tags

/-- The matrix engine beside its commands (R225 to R232, R245, R247, R249). -/
def Obligations.MatrixRegisters : Prop :=
  Claim.PrecisionAndMap ∧ Claim.AmaxRegisters ∧ Claim.AccumulatorAccess ∧ Claim.OutlierSplit

/-- Instructions that trap, return from a trap and write segments (R274 to R279). -/
def Obligations.TrapsAndReturns : Prop := Claim.RaisedTraps ∧ Claim.TrapReturns ∧ Claim.SegmentWrites

/-- TLBINV, RELOC, SWEEP and WEARRD (R280, R297 to R299, R305, R310, R314 to R316). -/
def Obligations.Relocation : Prop := Claim.Translation ∧ Claim.Sweeps ∧ Claim.WearRecords

/-- PARK, CTXSV and CTXLD (R268 to R270, R281 to R283). -/
def Obligations.ParksAndFrames : Prop := Claim.Parks ∧ Claim.FrameLayout ∧ Claim.ContextFrames

/-- Accesses perform (R169, R171, R179, R180, R192, R195, R207). -/
def Obligations.AccessEvents : Prop := Claim.AccessesPerform ∧ Claim.CopiesMoveWords ∧ Claim.ReservationsAndReplies

/-- Waits, stops, commit points and kills (R178, R267, R288, R293). -/
def Obligations.ThreadEvents : Prop := Claim.WaitsAndStopsEnd ∧ Claim.PairsAndKills

/-- Messages and queue registers (R171 to R174, R189). -/
def Obligations.MessageEvents : Prop := Claim.MessagesArrive ∧ Claim.StreamsMove

/-- Pages, walks, shootdowns and moves (R259, R261, R265, R266, R308, R314). -/
def Obligations.TranslationEvents : Prop := Claim.WalksAndPages ∧ Claim.JigStatuses ∧ Claim.RelocationEvents

/-- Launches and convoys (R122 to R134, R150 to R156). -/
def Obligations.PopulationEvents : Prop := Claim.LaunchEvents ∧ Claim.ConvoyEvents

/-- Copies, collectives and the matrix engine (R207, R209, R222, R233 to R246). -/
def Obligations.EngineEvents : Prop := Claim.CopyEvents ∧ Claim.MatrixEvents ∧ Claim.MatrixResults

/-- The host, its registers and rings, and the network (R333 to R340, R350 to R355, R363). -/
def Obligations.HostEvents : Prop := Claim.OutsideAccesses ∧ Claim.HostRegisters ∧ Claim.RecordsComeIn

/-- Links, errors, drains, power, start-up and the side band (R168, R295 to R303, R323, R333, R357 to R369). -/
def Obligations.PackageEvents : Prop :=
  Claim.LinkEvents ∧ Claim.ErrorsAndDrains ∧ Claim.PowerAndLife ∧ Claim.StartAndSideBand
end

