-- ==== Sys2Proof/Laws/Sparse.lean ====
section
/-! SUPPORT. What sparse tables and memory answer: a read after a write, and the canonical form kept. -/

namespace Sys2Proof.Machine

/-! ### Tables -/

@[simp] theorem smGet_nil {α : Type} (a : Nat) : smGet ([] : List (Nat × α)) a = none := rfl

@[simp] theorem smGet_smSet_same {α : Type} (m : List (Nat × α)) (a : Nat) (v : α) :
    smGet (smSet m a v) a = some v := by
  induction m with
  | nil => simp [smSet, smGet]
  | cons e t ih =>
    obtain ⟨k, w⟩ := e
    simp only [smSet]
    split
    · simp [smGet]
    · split
      · simp [smGet]
      · simp [smGet, *]

theorem smGet_smSet_ne {α : Type} (m : List (Nat × α)) (a b : Nat) (v : α) (h : b ≠ a) :
    smGet (smSet m a v) b = smGet m b := by
  induction m with
  | nil => simp [smSet, smGet, h.symm]
  | cons e t ih =>
    obtain ⟨k, w⟩ := e
    simp only [smSet]
    split
    · rename_i hk
      subst hk
      simp [smGet, h.symm]
    · split
      · simp [smGet, h.symm]
      · simp [smGet, ih]

@[simp] theorem smSet_smSet {α : Type} (m : List (Nat × α)) (a : Nat) (v w : α) :
    smSet (smSet m a v) a w = smSet m a w := by
  induction m with
  | nil => simp [smSet]
  | cons e t ih =>
    obtain ⟨k, x⟩ := e
    simp only [smSet]
    split
    · simp [smSet]
    · split
      · simp [smSet]
      · rename_i h1 h2
        simp [smSet, h1, h2, ih]

/-- Every key of a table is above a bound. -/
def keysAbove {α : Type} (n : Nat) (m : List (Nat × α)) : Prop := ∀ e ∈ m, n < e.1

theorem smSorted_cons {α : Type} (e : Nat × α) (t : List (Nat × α)) :
    smSorted (e :: t) = true ↔ keysAbove e.1 t ∧ smSorted t = true := by
  induction t generalizing e with
  | nil => simp [smSorted, keysAbove]
  | cons b t ih =>
    simp only [smSorted, Bool.and_eq_true, decide_eq_true_eq]
    constructor
    · rintro ⟨h1, h2⟩
      refine ⟨?_, h2⟩
      intro x hx
      rcases List.mem_cons.mp hx with rfl | hx
      · exact h1
      · exact Nat.lt_trans h1 (((ih b).mp h2).1 x hx)
    · rintro ⟨h1, h2⟩
      exact ⟨h1 b (by simp), h2⟩

theorem keysAbove_smSet {α : Type} (n : Nat) (m : List (Nat × α)) (a : Nat) (v : α)
    (h : keysAbove n m) (ha : n < a) : keysAbove n (smSet m a v) := by
  induction m with
  | nil => simpa [smSet, keysAbove] using ha
  | cons e t ih =>
    obtain ⟨k, w⟩ := e
    have ht : keysAbove n t := fun x hx => h x (List.mem_cons_of_mem _ hx)
    have hk : n < k := h (k, w) (by simp)
    simp only [smSet]
    split
    · intro x hx
      rcases List.mem_cons.mp hx with rfl | hx
      · exact ha
      · exact ht x hx
    · split
      · intro x hx
        rcases List.mem_cons.mp hx with rfl | hx
        · exact ha
        · exact h x hx
      · intro x hx
        rcases List.mem_cons.mp hx with rfl | hx
        · exact hk
        · exact ih ht x hx

theorem smSorted_smSet {α : Type} (m : List (Nat × α)) (a : Nat) (v : α) (h : smSorted m = true) :
    smSorted (smSet m a v) = true := by
  induction m with
  | nil => simp [smSet, smSorted]
  | cons e t ih =>
    obtain ⟨k, w⟩ := e
    obtain ⟨h1, h2⟩ := (smSorted_cons _ _).mp h
    simp only [smSet]
    split
    · rename_i hk
      subst hk
      exact (smSorted_cons _ _).mpr ⟨h1, h2⟩
    · split
      · rename_i hne hlt
        refine (smSorted_cons _ _).mpr ⟨?_, h⟩
        intro x hx
        rcases List.mem_cons.mp hx with rfl | hx
        · exact hlt
        · exact Nat.lt_trans hlt (h1 x hx)
      · rename_i hne hlt
        refine (smSorted_cons _ _).mpr ⟨keysAbove_smSet _ _ _ _ h1 ?_, ih h2⟩
        simp only at *
        omega

theorem smSorted_filter {α : Type} (p : Nat × α → Bool) (m : List (Nat × α)) (h : smSorted m = true) :
    smSorted (m.filter p) = true := by
  induction m with
  | nil => simp [smSorted]
  | cons e t ih =>
    obtain ⟨h1, h2⟩ := (smSorted_cons _ _).mp h
    simp only [List.filter]
    split
    · exact (smSorted_cons _ _).mpr ⟨fun x hx => h1 x (List.mem_of_mem_filter hx), ih h2⟩
    · exact ih h2

theorem smSorted_smDel {α : Type} (m : List (Nat × α)) (a : Nat) (h : smSorted m = true) :
    smSorted (smDel m a) = true := smSorted_filter _ m h

@[simp] theorem smGet_smDel_same {α : Type} (m : List (Nat × α)) (a : Nat) : smGet (smDel m a) a = none := by
  induction m with
  | nil => rfl
  | cons e t ih =>
    obtain ⟨k, w⟩ := e
    by_cases h : k = a
    · simpa [smDel, List.filter, h] using ih
    · have : (k != a) = true := by simp [h]
      simpa [smDel, List.filter, this, smGet, h] using ih

theorem smGet_smDel_ne {α : Type} (m : List (Nat × α)) (a b : Nat) (h : b ≠ a) :
    smGet (smDel m a) b = smGet m b := by
  induction m with
  | nil => rfl
  | cons e t ih =>
    obtain ⟨k, w⟩ := e
    by_cases hk : k = a
    · have hb : ¬ k = b := by omega
      simpa [smDel, List.filter, hk, smGet, hb, h.symm] using ih
    · have : (k != a) = true := by simp [hk]
      by_cases hkb : k = b
      · subst hkb
        simp [smDel, hk, smGet]
      · simpa [smDel, List.filter, this, smGet, hkb] using ih

/-! ### Memory -/

/-- A read after a write to the same address gives the byte written. -/
@[simp] theorem memRead_memWrite_same (m : List (Nat × BitVec 8)) (a : Nat) (b : BitVec 8) :
    memRead (memWrite m a b) a = b := by
  unfold memWrite memRead
  split
  · rename_i h
    simp [h]
  · simp

/-- A write leaves every other address alone. -/
theorem memRead_memWrite_ne (m : List (Nat × BitVec 8)) (a x : Nat) (b : BitVec 8) (h : x ≠ a) :
    memRead (memWrite m a b) x = memRead m x := by
  unfold memWrite memRead
  split
  · rw [smGet_smDel_ne m a x h]
  · rw [smGet_smSet_ne m a x b h]

theorem memWf_iff (m : List (Nat × BitVec 8)) :
    memWf m = true ↔ smSorted m = true ∧ ∀ e ∈ m, e.2 ≠ unlistedByte := by
  simp [memWf]

theorem mem_smSet {α : Type} (m : List (Nat × α)) (a : Nat) (v : α) (e : Nat × α) (h : e ∈ smSet m a v) :
    e = (a, v) ∨ e ∈ m := by
  induction m with
  | nil => simpa [smSet] using h
  | cons x t ih =>
    obtain ⟨k, w⟩ := x
    simp only [smSet] at h
    split at h
    · rcases List.mem_cons.mp h with rfl | h
      · exact .inl rfl
      · exact .inr (List.mem_cons_of_mem _ h)
    · split at h
      · rcases List.mem_cons.mp h with rfl | h
        · exact .inl rfl
        · exact .inr h
      · rcases List.mem_cons.mp h with rfl | h
        · exact .inr (by simp)
        · rcases ih h with rfl | h
          · exact .inl rfl
          · exact .inr (List.mem_cons_of_mem _ h)

/-- Writing one byte keeps the canonical form. -/
theorem memWf_memWrite (m : List (Nat × BitVec 8)) (a : Nat) (b : BitVec 8) (h : memWf m = true) :
    memWf (memWrite m a b) = true := by
  obtain ⟨h1, h2⟩ := (memWf_iff m).mp h
  unfold memWrite
  split
  · exact (memWf_iff _).mpr ⟨smSorted_smDel m a h1, fun e he => h2 e (List.mem_of_mem_filter he)⟩
  · rename_i hb
    refine (memWf_iff _).mpr ⟨smSorted_smSet m a b h1, fun e he => ?_⟩
    rcases mem_smSet m a b e he with rfl | he
    · exact hb
    · exact h2 e he

end Sys2Proof.Machine
end

