-- ==== Sys2Proof/Laws/Ops.lean ====
section
/-! SUPPORT. The laws of the shared operations: cores, slots and threads read after a write, what an issue answers, and
what an operation that changes only its thread leaves. -/

namespace Sys2Proof.Machine

/-! ### Cores and slots -/

@[simp] theorem getCore_setCore_same (s : State) (c : Nat) (k : Core) : getCore (setCore s c k) c = k := by
  simp [getCore, setCore]

theorem getCore_setCore_ne (s : State) (c d : Nat) (k : Core) (h : d ≠ c) :
    getCore (setCore s c k) d = getCore s d := by
  simp [getCore, setCore, smGet_smSet_ne _ _ _ _ h]

@[simp] theorem setCore_setCore (s : State) (c : Nat) (k l : Core) : setCore (setCore s c k) c l = setCore s c l := by
  simp [setCore]

theorem slotAt_setSlot_same (k : Core) (i : Nat) (x : Slot) (h : i < 16) : (k.setSlot i x).slotAt i = x := by
  simp [Core.slotAt, Core.setSlot, h]

theorem slotAt_setSlot_ne (k : Core) (i j : Nat) (x : Slot) (h : j ≠ i) : (k.setSlot i x).slotAt j = k.slotAt j := by
  simp only [Core.slotAt, Core.setSlot]
  rw [Vector.getElem?_setIfInBounds_ne h.symm]

@[simp] theorem setSlot_setSlot_core (k : Core) (i : Nat) (x y : Slot) : (k.setSlot i x).setSlot i y = k.setSlot i y := by
  simp only [Core.setSlot]
  congr 1
  apply Vector.ext
  intro j hj
  simp only [Vector.getElem_setIfInBounds]
  split <;> rfl

theorem curSlot_lt (s : State) : curSlot s < 16 := Nat.mod_lt _ (by decide)

theorem getSlot_setSlot_same (s : State) (c i : Nat) (x : Slot) (h : i < 16) : getSlot (setSlot s c i x) c i = x := by
  simp [getSlot, setSlot, slotAt_setSlot_same _ _ _ h]

theorem getSlot_setSlot_ne (s : State) (c i d j : Nat) (x : Slot) (h : (d, j) ≠ (c, i)) :
    getSlot (setSlot s c i x) d j = getSlot s d j := by
  by_cases hd : d = c
  · subst hd
    have hj : j ≠ i := fun e => h (by rw [e])
    simp [getSlot, setSlot, slotAt_setSlot_ne _ _ _ _ hj]
  · simp [getSlot, setSlot, getCore_setCore_ne _ _ _ _ hd]

theorem getSlot_setThread_ne (s : State) (c i d j : Nat) (t : Thread) (h : (d, j) ≠ (c, i)) :
    getSlot (setThread s c i t) d j = getSlot s d j := getSlot_setSlot_ne s c i d j _ h

theorem threadAt_setThread_same (s : State) (c i : Nat) (t : Thread) (h : i < 16) :
    threadAt (setThread s c i t) c i = some t := by
  simp [threadAt, setThread, setContent, getSlot_setSlot_same _ _ _ _ h, Slot.thread?]

theorem threadAt_setThread_ne (s : State) (c i d j : Nat) (t : Thread) (h : (d, j) ≠ (c, i)) :
    threadAt (setThread s c i t) d j = threadAt s d j := by
  simp [threadAt, getSlot_setThread_ne s c i d j t h]

theorem notice_setThread (s : State) (c i : Nat) (t : Thread) (h : i < 16) :
    (getSlot (setThread s c i t) c i).notice = (getSlot s c i).notice := by
  simp [setThread, setContent, getSlot_setSlot_same _ _ _ _ h]

/-- A second thread in the same slot replaces the first. -/
theorem setThread_setThread (s : State) (c i : Nat) (t u : Thread) (h : i < 16) :
    setThread (setThread s c i t) c i u = setThread s c i u := by
  have hn := getSlot_setSlot_same s c i { getSlot s c i with content := .thread t } h
  simp only [setThread, setContent, hn]
  simp [setSlot]

/-- `modThread` where a thread stands. -/
theorem modThread_some (s : State) (c i : Nat) (f : Thread → Thread) (t : Thread) (h : threadAt s c i = some t) :
    modThread s c i f = setThread s c i (f t) := by
  simp [modThread, h]

/-- `modThread` where no thread stands. -/
theorem modThread_none (s : State) (c i : Nat) (f : Thread → Thread) (h : threadAt s c i = none) :
    modThread s c i f = s := by
  simp [modThread, h]

/-- A thread that is written leaves the rest of its core alone. -/
theorem coreRest_setThread (s : State) (c i d : Nat) (t : Thread) :
    { getCore (setThread s c i t) d with slots := (getCore s d).slots } = getCore s d := by
  by_cases hd : d = c
  · subst hd
    simp [setThread, setContent, setSlot, Core.setSlot]
  · simp [setThread, setContent, setSlot, getCore_setCore_ne _ _ _ _ hd]

/-! ### Wear -/

@[simp] theorem threadAt_accrue (s : State) (c n d j : Nat) : threadAt (accrue s c n) d j = threadAt s d j := rfl
@[simp] theorem getCore_accrue (s : State) (c n d : Nat) : getCore (accrue s c n) d = getCore s d := rfl
@[simp] theorem getSlot_accrue (s : State) (c n d j : Nat) : getSlot (accrue s c n) d j = getSlot s d j := rfl
@[simp] theorem threadAt_issued (s : State) (b : Bool) (d j : Nat) :
    threadAt { s with issued := b } d j = threadAt s d j := rfl

theorem accrue_setThread (s : State) (c n d i : Nat) (t : Thread) :
    accrue (setThread s d i t) c n = setThread (accrue s c n) d i t := rfl

/-- The charge of an issue of a thread that stands alone. -/
theorem chargeIssue_alone (s : State) (c i : Nat) (t : Thread) (h : threadAt s c i = some t) (ha : t.role = .alone) :
    chargeIssue s c i = setThread (chargedState s c) c i (chargeThread t (getCore s c).vt) := by
  simp only [chargeIssue]
  rw [modThread_some _ c i _ t (by simpa using h), accrue_setThread]
  simp [ha, chargedState]

@[simp] theorem threadAt_chargedState (s : State) (c d j : Nat) : threadAt (chargedState s c) d j = threadAt s d j := rfl
@[simp] theorem getCore_chargedState (s : State) (c d : Nat) : getCore (chargedState s c) d = getCore s d := rfl
@[simp] theorem getSlot_chargedState (s : State) (c d j : Nat) : getSlot (chargedState s c) d j = getSlot s d j := rfl

/-! ### One issue -/

/-- Where nothing keeps an instruction from its effect, an issue is its operation. -/
theorem issue_issues (u : Use) (op : Ctx → Thread → State → Res) (s : State) (t : Thread) (h : Issues u s t) :
    issue u op s = .next (operate u op s s.turn (curSlot s) t) := by
  obtain ⟨h1, h2, h3, h4, h5, h6, h7, h8, h9, h10⟩ := h
  have hg : (u.guard.toNat != 0 && !getFlag t u.guard.toNat) = false := by
    rcases h4 with h | h <;> simp [h]
  have hp : (u.priv && curSlot s != 0) = false := by
    cases hq : u.priv
    · rfl
    · simp [h5 hq]
  have hn : (u.names.any fun n => decide (t.lim ≤ n)) = false := by
    simpa using h6
  have hf : (u.srcs.all fun n => isFull t n) = true := by
    simpa using h7
  simp only [issue, h1, pairReady, h2, h3, hg, hp, hn, h8, h9, hf, h10]
  simp

/-- What the operation of an issue meets, for a thread that stands alone. -/
theorem operate_alone (u : Use) (op : Ctx → Thread → State → Res) (s : State) (c i : Nat) (t : Thread) (hi : i < 16)
    (h : threadAt s c i = some t) (ha : t.role = .alone) :
    operate u op s c i t =
      settle s ⟨c, i, t.pc, t.pc + BitVec.ofNat 32 (2 * u.words)⟩ t u.sync
        (op ⟨c, i, t.pc, t.pc + BitVec.ofNat 32 (2 * u.words)⟩ (emptyRegs (chargeThread t (getCore s c).vt) u.sync)
          (setThread (chargedState s c) c i (emptyRegs (chargeThread t (getCore s c).vt) u.sync))) := by
  have h1 : modThread (chargeIssue s c i) c i (fun t => emptyRegs t u.sync) =
      setThread (chargedState s c) c i (emptyRegs (chargeThread t (getCore s c).vt) u.sync) := by
    rw [chargeIssue_alone s c i t h ha, modThread_some _ c i _ _ (threadAt_setThread_same _ c i _ hi),
      setThread_setThread _ c i _ _ hi]
  simp only [operate, h1, threadAt_setThread_same _ c i _ hi, Option.getD_some]

/-- The end of an instruction whose operation wrote its thread. -/
theorem advance_setThread (s : State) (c i : Nat) (t : Thread) (pc : Word) (hi : i < 16) :
    advance (setThread s c i t) c i pc = setThread s c i (goesTo t pc) := by
  simp only [advance]
  rw [modThread_some _ c i _ t (threadAt_setThread_same s c i t hi), setThread_setThread _ c i _ _ hi]
  rfl

@[simp] theorem readByte_setThread (s : State) (c i : Nat) (t : Thread) (p : Place) :
    readByte (setThread s c i t) p = readByte s p := by cases p <;> rfl
@[simp] theorem readByte_chargedState (s : State) (c : Nat) (p : Place) : readByte (chargedState s c) p = readByte s p := by
  cases p <;> rfl

/-- A charged state with the issuing slot's thread written is the old state but for that thread. -/
theorem onlyThread_charged (s : State) (t' : Thread) :
    OnlyThread s (setThread (chargedState s s.turn) s.turn (curSlot s) t') t' where
  thread := threadAt_setThread_same _ _ _ _ (curSlot_lt s)
  slots c i h := by rw [getSlot_setThread_ne _ _ _ _ _ _ h]; rfl
  notice := notice_setThread _ _ _ _ (curSlot_lt s)
  cores c := coreRest_setThread (chargedState s s.turn) s.turn (curSlot s) c t'
  bytes p := by simp
  rest := rfl
  wear := rfl

/-- Where an instruction issues. -/
def issueCtx (u : Use) (s : State) (t : Thread) : Ctx := ⟨s.turn, curSlot s, t.pc, pcAfter t u.words⟩

/-- What an instruction that issues answers, by what its operation answers. -/
theorem exec_issues (i : Instr) (u : Use) (op : Ctx → Thread → State → Res) (s : State) (t : Thread)
    (he : exec i s = issue u op s) (h : Issues u s t) :
    exec i s = .next (settle s (issueCtx u s t) t u.sync
      (op (issueCtx u s t) (issuedThread u s t)
        (setThread (chargedState s s.turn) s.turn (curSlot s) (issuedThread u s t)))) := by
  rw [he, issue_issues u op s t h, operate_alone u op s _ _ t (curSlot_lt s) h.here h.alone]
  rfl

/-- An operation that ends by writing its thread completes with the address after it. -/
theorem completes_ok (i : Instr) (u : Use) (op : Ctx → Thread → State → Res) (s : State) (t t' : Thread)
    (he : exec i s = issue u op s) (h : Issues u s t)
    (hop : ∀ s', op (issueCtx u s t) (issuedThread u s t) s' = .ok (setThread s' s.turn (curSlot s) t')) :
    Completes i s (goesTo t' (pcAfter t u.words)) := by
  refine ⟨_, exec_issues i u op s t he h, ?_⟩
  rw [hop]
  simp only [settle, h.alone, pairStep, issueCtx]
  rw [setThread_setThread _ _ _ _ _ (curSlot_lt s), advance_setThread _ _ _ _ _ (curSlot_lt s)]
  exact onlyThread_charged s _

/-- An operation that ends by writing its thread and jumping completes at the target. -/
theorem completes_jump (i : Instr) (u : Use) (op : Ctx → Thread → State → Res) (s : State) (t t' : Thread) (pc : Word)
    (he : exec i s = issue u op s) (h : Issues u s t)
    (hop : ∀ s', op (issueCtx u s t) (issuedThread u s t) s' = .jump (setThread s' s.turn (curSlot s) t') pc) :
    Completes i s (goesTo t' pc) := by
  refine ⟨_, exec_issues i u op s t he h, ?_⟩
  rw [hop]
  simp only [settle, h.alone, pairStep, issueCtx]
  rw [setThread_setThread _ _ _ _ _ (curSlot_lt s), advance_setThread _ _ _ _ _ (curSlot_lt s)]
  exact onlyThread_charged s _

end Sys2Proof.Machine
end

