-- ==== Sys2Proof/Laws/Thread.lean ====
section
/-! SUPPORT. The laws of one thread's registers and flags: what each update writes and what it leaves. -/

namespace Sys2Proof.Machine

/-! ### Bits -/

theorem getLsbD_putBit {w : Nat} (x : BitVec w) (i j : Nat) (b : Bool) (hj : j < w) :
    (putBit x i b).getLsbD j = if j = i then b else x.getLsbD j := by
  unfold putBit
  cases b
  · by_cases h : j = i
    · simp [BitVec.getLsbD_twoPow, h]
    · simp [h, hj]
  · by_cases h : j = i
    · subst h
      simp [hj]
    · have : ¬ i = j := fun e => h e.symm
      simp [BitVec.getLsbD_twoPow, h, this]

/-! ### Registers -/

@[simp] theorem rdReg_zero (t : Thread) : rdReg t 0 = 0 := rfl
@[simp] theorem wrReg_zero (t : Thread) (v : Word) : wrReg t 0 v = t := rfl

theorem rdReg_wrReg_same (t : Thread) (n : Nat) (v : Word) (h0 : n ≠ 0) (h : n < 128) : rdReg (wrReg t n v) n = v := by
  simp [rdReg, wrReg, h0, h]

theorem rdReg_wrReg_ne (t : Thread) (n m : Nat) (v : Word) (h : m ≠ n) : rdReg (wrReg t n v) m = rdReg t m := by
  by_cases hn : n = 0
  · simp [wrReg, hn]
  · simp only [rdReg, wrReg, hn, if_false]
    rw [Vector.getElem?_setIfInBounds_ne h.symm]

theorem isFull_wrReg (t : Thread) (n m : Nat) (v : Word) (hm : m < 128) :
    isFull (wrReg t n v) m = if m = n then true else isFull t m := by
  by_cases hn : n = 0
  · subst hn
    by_cases h : m = 0 <;> simp [isFull, h]
  · simp only [isFull, wrReg, hn, if_false]
    rw [getLsbD_putBit _ _ _ _ hm]
    split <;> simp

theorem isFull_emptyReg (t : Thread) (n m : Nat) (hm : m < 128) :
    isFull (emptyReg t n) m = if m = n ∧ n ≠ 0 then false else isFull t m := by
  by_cases hn : n = 0
  · simp [emptyReg, hn]
  · simp only [isFull, emptyReg, hn, if_false]
    rw [getLsbD_putBit _ _ _ _ hm]
    by_cases h : m = n
    · simp [h, hn]
    · simp [h]

@[simp] theorem rdReg_emptyReg (t : Thread) (n m : Nat) : rdReg (emptyReg t n) m = rdReg t m := by
  unfold emptyReg
  split <;> rfl

@[simp] theorem f_emptyReg (t : Thread) (n : Nat) : (emptyReg t n).f = t.f := by
  unfold emptyReg
  split <;> rfl

/-- Emptying registers changes their full bits alone. -/
theorem emptyRegs_eq (t : Thread) (ns : List Nat) : ∃ b, emptyRegs t ns = { t with full := b } := by
  unfold emptyRegs
  induction ns generalizing t with
  | nil => exact ⟨t.full, rfl⟩
  | cons n ns ih =>
    obtain ⟨b, hb⟩ := ih (emptyReg t n)
    refine ⟨b, ?_⟩
    rw [List.foldl_cons, hb]
    unfold emptyReg
    split <;> rfl

/-- What an issue does to its thread before the operation: its charge and its full bits, and nothing else. -/
theorem issuedThread_eq (u : Use) (s : State) (t : Thread) :
    ∃ b p w, issuedThread u s t = { t with full := b, wearPart := p, wear := w } := by
  obtain ⟨b, hb⟩ := emptyRegs_eq (chargeThread t (getCore s s.turn).vt) u.sync
  exact ⟨b, _, _, by rw [issuedThread, hb]; rfl⟩

@[simp] theorem rdReg_issuedThread (u : Use) (s : State) (t : Thread) (n : Nat) :
    rdReg (issuedThread u s t) n = rdReg t n := by
  obtain ⟨b, p, w, h⟩ := issuedThread_eq u s t
  rw [h]
  rfl

@[simp] theorem getFlag_issuedThread (u : Use) (s : State) (t : Thread) (n : Nat) :
    getFlag (issuedThread u s t) n = getFlag t n := by
  obtain ⟨b, p, w, h⟩ := issuedThread_eq u s t
  rw [h]
  rfl

@[simp] theorem f_issuedThread (u : Use) (s : State) (t : Thread) : (issuedThread u s t).f = t.f := by
  obtain ⟨b, p, w, h⟩ := issuedThread_eq u s t
  rw [h]

@[simp] theorem segs_issuedThread (u : Use) (s : State) (t : Thread) : (issuedThread u s t).segs = t.segs := by
  obtain ⟨b, p, w, h⟩ := issuedThread_eq u s t
  rw [h]

@[simp] theorem role_issuedThread (u : Use) (s : State) (t : Thread) : (issuedThread u s t).role = t.role := by
  obtain ⟨b, p, w, h⟩ := issuedThread_eq u s t
  rw [h]

/-! ### Flags -/

theorem getFlag_setFlag (t : Thread) (i j : Nat) (b : Bool) (hj : j < 32) :
    getFlag (setFlag t i b) j = if j = i ∧ i ≠ 0 then b else getFlag t j := by
  by_cases hi : i = 0
  · simp [setFlag, hi]
  · simp only [getFlag, setFlag, hi, if_false]
    rw [getLsbD_putBit _ _ _ _ hj]
    by_cases h : j = i
    · simp [h, hi]
    · simp [h]

@[simp] theorem rdReg_setFlag (t : Thread) (i n : Nat) (b : Bool) : rdReg (setFlag t i b) n = rdReg t n := by
  unfold setFlag
  split <;> rfl

/-! ### The effects of the shapes -/

/-- An operation that ends by writing its thread, in terms of the thread before the issue. -/
theorem effect_ok_of (i : Instr) (u : Use) (op : Ctx → Thread → State → Res) (s : State) (t : Thread)
    (f g : Thread → Thread) (he : exec i s = issue u op s) (h : Issues u s t)
    (hop : ∀ x v s', op x v s' = .ok (setThread s' x.core x.slot (f v)))
    (hg : f (issuedThread u s t) = g (issuedThread u s t)) : Effect i u s t g (pcAfter t u.words) := by
  have := completes_ok i u op s t (f (issuedThread u s t)) he h (fun s' => hop _ _ s')
  simpa only [Effect, hg] using this

/-- The effect of shape T. -/
theorem gives_T (mk : ShT → Instr) (paged : Bool) (f : Word → Word → Word)
    (he : ∀ o s, exec (mk o) s = runT paged o f s) : GivesT mk paged f := fun s t o h =>
  effect_ok_of (mk o) _ _ s t _ _ (he o s) h (fun _ _ _ => rfl) (by simp)

/-- The effect of shape U. -/
theorem gives_U (mk : ShU → Instr) (paged : Bool) (f : Word → Word)
    (he : ∀ o s, exec (mk o) s = runU paged o f s) : GivesU mk paged f := fun s t o h =>
  effect_ok_of (mk o) _ _ s t _ _ (he o s) h (fun _ _ _ => rfl) (by simp)

/-- The effect of shape K. -/
theorem gives_K (mk : ShK → Instr) (f : Word → Word → Bool)
    (he : ∀ o s, exec (mk o) s = runK o f s) : GivesK mk f := fun s t o h =>
  effect_ok_of (mk o) _ _ s t _ _ (he o s) h (fun _ _ _ => rfl) (by simp)

/-- The effect of shape L. -/
theorem gives_L (mk : ShL → Instr) (f : Bool → Bool → Bool)
    (he : ∀ o s, exec (mk o) s = runL o f s) : GivesL mk f := fun s t o h =>
  effect_ok_of (mk o) _ _ s t _ _ (he o s) h (fun _ _ _ => rfl) (by simp)

end Sys2Proof.Machine
end

