-- ==== Sys2Proof/Laws/Memory.lean ====
section
/-! SUPPORT. The laws of memory: what a store writes, the canonical form kept, what an issue leaves to the resolution of an
address, and an access that nothing holds. -/

namespace Sys2Proof.Machine

/-! ### Bytes -/

/-- Writing bytes keeps the canonical form. -/
theorem memWf_writeBytes (m : List (Nat × Byte)) (a n v : Nat) (h : memWf m = true) :
    memWf (writeBytes m a n v) = true := by
  induction n generalizing m a v with
  | zero => exact h
  | succ n ih => exact ih _ _ _ (memWf_memWrite m a _ h)

/-- A byte after `n` bytes are written: the number's byte inside the range, the old one outside it. -/
theorem memRead_writeBytes (m : List (Nat × Byte)) (a n v x : Nat) :
    memRead (writeBytes m a n v) x =
      if a ≤ x ∧ x < a + n then BitVec.ofNat 8 (v / 256 ^ (x - a)) else memRead m x := by
  induction n generalizing m a v with
  | zero =>
    rw [if_neg (by omega)]
    rfl
  | succ n ih =>
    rw [writeBytes, ih]
    by_cases h1 : a + 1 ≤ x ∧ x < a + 1 + n
    · rw [if_pos h1, if_pos (by omega)]
      have : x - a = (x - (a + 1)) + 1 := by omega
      rw [this, pow_succ, Nat.mul_comm, ← Nat.div_div_eq_div_mul]
    · rw [if_neg h1]
      by_cases h2 : x = a
      · subst h2
        rw [memRead_memWrite_same, if_pos (by omega)]
        simp
      · rw [memRead_memWrite_ne _ _ _ _ h2, if_neg (by omega)]

@[simp] theorem wakeCore_mem (s : State) (c line : Nat) : (wakeCore s c line).mem = s.mem := by
  unfold wakeCore
  split
  · rfl
  · split <;> rfl

@[simp] theorem wakeLine_mem (s : State) (p : Place) : (wakeLine s p).mem = s.mem := by
  unfold wakeLine
  split <;> simp

@[simp] theorem wakeCore_counters (s : State) (c line : Nat) : (wakeCore s c line).counters = s.counters := by
  unfold wakeCore
  split
  · rfl
  · split <;> rfl

@[simp] theorem wakeLine_counters (s : State) (p : Place) : (wakeLine s p).counters = s.counters := by
  unfold wakeLine
  split <;> simp

theorem storeNat_mem (s : State) (p : Place) (n v : Nat) (h : ∀ d a, p ≠ .frame d a) :
    (storeNat s p n v).mem = writeBytes s.mem (flat p) n v := by
  unfold storeNat
  split
  · rename_i d a
    exact absurd rfl (h d a)
  · simp

@[simp] theorem storeNat_counters (s : State) (p : Place) (n v : Nat) : (storeNat s p n v).counters = s.counters := by
  unfold storeNat
  split <;> simp

@[simp] theorem storeNat_frame (s : State) (d a n v : Nat) : storeNat s (.frame d a) n v = s := rfl

/-- A store keeps the canonical form of memory. -/
theorem memOk_storeNat (s : State) (p : Place) (n v : Nat) (h : s.MemOk) : (storeNat s p n v).MemOk := by
  unfold State.MemOk
  by_cases hp : ∃ d a, p = .frame d a
  · obtain ⟨d, a, rfl⟩ := hp
    exact h
  · rw [storeNat_mem s p n v (fun d a e => hp ⟨d, a, e⟩)]
    exact memWf_writeBytes _ _ _ _ h

/-- What is not written keeps the canonical form: the law for every operation that leaves `mem` alone. -/
theorem memOk_of_mem_eq {s s' : State} (h : s'.mem = s.mem) (hs : s.MemOk) : s'.MemOk := by
  unfold State.MemOk
  rw [h]
  exact hs

/-! ### What reads only a part of the state -/

theorem loadNat_congr (s s' : State) (hm : s'.mem = s.mem) (hc : s'.counters = s.counters) (p : Place) (n : Nat) :
    loadNat s' p n = loadNat s p n := by
  induction n generalizing p with
  | zero => rfl
  | succ n ih =>
    have hb : readByte s' p = readByte s p := by
      cases p <;> simp [readByte, frameByte, hm, hc]
    simp [loadNat, ih, hb]

/-! ### What an issue leaves to the resolution of an address -/

theorem pairs_setThread (s : State) (c i d : Nat) (t : Thread) :
    (getCore (setThread s c i t) d).pairs = (getCore s d).pairs := by
  have := congrArg Core.pairs (coreRest_setThread s c i d t)
  simpa using this

theorem commitArea_eq (s : State) (c la n : Nat) :
    commitArea s c la n = (decide (la < 0xFC00) && decide (la + n > 0xE000) && !(getCore s c).pairs.isEmpty) := by
  unfold commitArea getCore
  cases smGet s.cores c
  · simp [Core.blank]
  · simp

theorem resolve_issuedState (u : Use) (s : State) (t : Thread) (c : Nat) (d : Desc) (off : Int) (n al : Nat)
    (need : Need) : resolve (issuedState u s t) c d off n al need = resolve s c d off n al need := by
  have h1 : ∀ c la n, commitArea (issuedState u s t) c la n = commitArea s c la n := fun c la n => by
    rw [commitArea_eq, commitArea_eq, issuedState, pairs_setThread]
    rfl
  have h2 : ∀ c, presentCore (issuedState u s t) c = presentCore s c := fun c => rfl
  simp only [resolve, h1, h2]

/-! #### Requests that wait in the miss table (R194) -/

theorem any_slots (k : Core) (P : Slot → Bool) : k.slots.toList.any P = (List.range 16).any fun j => P (k.slotAt j) := by
  rw [Bool.eq_iff_iff]
  simp only [List.any_eq_true, List.mem_range, Vector.mem_toList_iff, Vector.mem_iff_getElem]
  constructor
  · rintro ⟨x, ⟨i, hi, rfl⟩, hp⟩
    exact ⟨i, hi, by simpa [Core.slotAt, hi] using hp⟩
  · rintro ⟨i, hi, hp⟩
    exact ⟨k.slots[i], ⟨i, hi, rfl⟩, by simpa [Core.slotAt, hi] using hp⟩

/-- A thread that is replaced by one that a test does not tell from it. -/
theorem any_setThread (s : State) (c i d : Nat) (t t' : Thread) (P : Slot → Bool) (hi : i < 16)
    (h : threadAt s c i = some t) (hP : ∀ n, P ⟨.thread t', n⟩ = P ⟨.thread t, n⟩) :
    (getCore (setThread s c i t') d).slots.toList.any P = (getCore s d).slots.toList.any P := by
  have hs : ∀ j, P (getSlot (setThread s c i t') d j) = P (getSlot s d j) := fun j => by
    by_cases e : (d, j) = (c, i)
    · obtain ⟨rfl, rfl⟩ := Prod.mk.inj e
      have hc : (getSlot s d j).content = .thread t := by
        simp only [threadAt, Slot.thread?] at h
        split at h
        · rename_i u hu
          rw [hu, Option.some.inj h]
        · cases h
      have h1 : getSlot (setThread s d j t') d j = ⟨.thread t', (getSlot s d j).notice⟩ :=
        getSlot_setSlot_same s d j _ hi
      have h2 : getSlot s d j = ⟨.thread t, (getSlot s d j).notice⟩ := by rw [← hc]
      rw [h1, hP, ← h2]
    · rw [getSlot_setThread_ne s c i d j t' e]
  rw [any_slots, any_slots]
  exact congrArg _ (funext hs)

/-- A core that the state does not list has no thread that a test finds, where a blank core has none. -/
theorem any_listed (s : State) (d : Nat) (P : Slot → Bool) (hb : ∀ b, (Core.blank b).slots.toList.any P = false) :
    (((smGet s.cores d).map fun q => q.slots.toList).any fun xs => xs.any P) = (getCore s d).slots.toList.any P := by
  unfold getCore
  cases smGet s.cores d
  · simpa using (hb s.booted).symm
  · simp

theorem missAhead_issuedState (u : Use) (s : State) (t : Thread) (h : threadAt s s.turn (curSlot s) = some t) (c asn : Nat)
    (mine : Option (Nat × Nat)) (big : Bool) (va : Nat) :
    missAhead (issuedState u s t) c asn mine big va = missAhead s c asn mine big va := by
  obtain ⟨b, p, w, e⟩ := issuedThread_eq u s t
  have hb : ∀ (f : Thread → Bool), f Thread.firmware = false → ∀ b,
      (Core.blank b).slots.toList.any (fun x => x.thread?.any f) = false := fun f hf b => by
    rw [any_slots]
    simp only [List.any_eq_false, List.mem_range]
    intro j hj
    interval_cases j <;> cases b <;> simp [Core.blank, Core.slotAt, Slot.empty, Slot.thread?, hf]
  simp only [missAhead]
  refine congrArg (List.any _) (funext fun k => ?_)
  rw [any_listed _ _ _ (hb _ (by simp [atMiss, Thread.firmware, Thread.blank])),
    any_listed _ _ _ (hb _ (by simp [atMiss, Thread.firmware, Thread.blank]))]
  exact any_setThread (chargedState s s.turn) s.turn (curSlot s) _ t _ _ (curSlot_lt s) h
    (fun n => by rw [e]; rfl)

theorem behindMiss_issuedState (u : Use) (s : State) (t : Thread) (h : threadAt s s.turn (curSlot s) = some t) (c asn : Nat)
    (mine : Option (Nat × Nat)) (va : Nat) :
    behindMiss (issuedState u s t) c asn mine va = behindMiss s c asn mine va := by
  simp only [behindMiss, missAhead_issuedState u s t h]
  rfl

theorem chase_congr (s s' : State) (hx : s'.xl = s.xl) (hj : s'.jigs = s.jigs) (hm : s'.mem = s.mem)
    (hc : s'.counters = s.counters) (hcc : s'.cc = s.cc) (q asn : Nat) (need : Need) (h va : Nat) (l : List Place) :
    chase s' q asn need h va l = chase s q asn need h va l := by
  have h1 : tlbFind s' = tlbFind s := by
    funext a b c
    simp [tlbFind, hx]
  have h2 : tilePending s' = tilePending s := by
    funext p
    simp only [tilePending, hj]
  have h3 : leafByte s' = leafByte s := by
    funext a b c
    simp only [leafByte, hcc]
  have h4 : kernelFrame s' = kernelFrame s := by
    funext a b c
    simp only [kernelFrame, hx, h3]
  have h5 : markTarget s' = markTarget s := by
    funext p
    simp only [markTarget, loadNat_congr s s' hm hc]
  induction h generalizing va l with
  | zero =>
    unfold chase
    simp only [h1, h2, h3, h4]
  | succ h ih =>
    unfold chase
    simp only [h1, h2, h3, h4, h5, ih]

theorem locate_issuedState (u : Use) (s : State) (t : Thread) (ht : threadAt s s.turn (curSlot s) = some t) (sel : Nat) (off : Int) (n al : Nat) (need : Need) :
    locate (issuedState u s t) s.turn (issuedThread u s t) sel off n al need = locate s s.turn t sel off n al need := by
  obtain ⟨b, p, w, h⟩ := issuedThread_eq u s t
  simp only [locate, resolve_issuedState, behindMiss_issuedState u s t ht]
  rw [h]
  have hx : (issuedState u s t).xl = s.xl := rfl
  have hj : (issuedState u s t).jigs = s.jigs := rfl
  have hm : (issuedState u s t).mem = s.mem := rfl
  have hc : (issuedState u s t).counters = s.counters := rfl
  have hcc : (issuedState u s t).cc = s.cc := rfl
  simp only [chase_congr s (issuedState u s t) hx hj hm hc hcc]

/-! ### Counted requests (R328, R336) -/

/-- What a count changes: the counters, and what the control complex has sent. -/
def recount (s k : State) : State := { s with counters := k.counters, cc := k.cc }

/-- Two states in which the same is counted and sent. -/
def SameCounts (s s' : State) : Prop := s'.counters = s.counters ∧ s'.cc = s.cc

/-- A count that depends on what is counted and sent alone, and changes nothing else. -/
def Counts (f : State → State) : Prop := ∀ s s', SameCounts s s' → f s' = recount s' (f s)

theorem Counts.same {f : State → State} (h : Counts f) {s s' : State} (e : SameCounts s s') : SameCounts (f s) (f s') := by
  rw [h s s' e]
  exact ⟨rfl, rfl⟩

theorem Counts.id : Counts fun s => s := fun s s' ⟨h, k⟩ => by simp only [recount, ← h, ← k]

theorem Counts.comp {f g : State → State} (hg : Counts g) (hf : Counts f) : Counts fun s => g (f s) := fun s s' e => by
  show g (f s') = _
  rw [hg (f s) (f s') (hf.same e), hf s s' e]
  rfl

theorem Counts.foldl {α : Type} (f : State → α → State) (hf : ∀ q, Counts fun s => f s q) (l : List α) :
    Counts fun s => l.foldl f s := by
  induction l with
  | nil => exact Counts.id
  | cons q l ih => exact ih.comp (hf q)

theorem counts_countReq (d k : Nat) : Counts fun s => countReq s d k := fun s s' ⟨h, c⟩ => by
  simp only [countReq, recount, h, ← c]

theorem counts_countOut (c : Nat) (p : Place) : Counts fun s => countOut s c p := by
  cases p with
  | hbm h a => exact (counts_countReq _ _).comp (counts_countReq _ _)
  | host a => exact counts_countReq _ _
  | peer k d a => exact counts_countReq _ _
  | _ => exact Counts.id

theorem counts_backInvalidate (p : Place) : Counts fun s => backInvalidate s p := fun s s' ⟨h, c⟩ => by
  simp only [backInvalidate, c]
  split <;> simp only [recount, ← h, ← c]

theorem counts_countIn (c : Nat) (p : Place) : Counts fun s => countIn s c p := by
  cases p with
  | hbm h a =>
    by_cases e : h = dieOf c
    · simpa only [countIn, if_pos e] using counts_backInvalidate _
    · simpa only [countIn, if_neg e] using (counts_backInvalidate _).comp (counts_countReq _ _)
  | _ => exact Counts.id

theorem counts_countPlace (c : Nat) (p : Place) : Counts fun s => countPlace s c p :=
  (counts_countIn c p).comp (counts_countOut c p)

theorem counts_countMarks (c : Nat) (l : List Place) : Counts fun s => countMarks s c l :=
  Counts.foldl _ (fun q => (counts_countReq _ _).comp (counts_countPlace c q)) l

theorem counts_countAll (c : Nat) (p : Place) (l : List Place) : Counts fun s => countAll s c p l :=
  (counts_countPlace c p).comp (counts_countMarks c l)

theorem counts_countForeign (p : Place) : Counts fun s => countForeign s p := by
  cases p with
  | hbm h a => exact counts_countReq _ _
  | _ => exact Counts.id

theorem Counts.ite {f g : State → State} (b : Prop) [Decidable b] (hf : Counts f) (hg : Counts g) :
    Counts fun s => if b then f s else g s := by
  split <;> assumption

theorem counts_countArrival (a : Access) : Counts fun s => countArrival s a := by
  unfold countArrival
  have back : Counts fun s => a.parts.foldl (fun s p => backInvalidate s p.place) s :=
    Counts.foldl _ (fun q => counts_backInvalidate q.place) a.parts
  refine .ite _ .id (.ite _ back (.ite _ ?_ ?_))
  · exact (Counts.foldl _ (fun q : Part => counts_countForeign q.place) _).comp back
  · refine Counts.foldl _ (fun q => ?_) _
    cases a.passed.isEmpty
    · exact counts_countIn _ _
    · exact counts_countPlace _ _

/-! ### An access that nothing holds -/

theorem settleEarlier_none (s : State) (c : Nat) (ps : List Place) (ws : List Nat) (h : s.flight = []) :
    settleEarlier s c ps ws = s := by
  simp [settleEarlier, h]

theorem pathHeld_none (s : State) (c : Nat) (ps : List Place) (ws : List Nat) (h : s.flight = []) :
    pathHeld s c ps ws = false := by
  simp [pathHeld, h]

theorem mustQueue_clear (s : State) (a : Access) (hf : s.flight = []) (hr : s.resvs = []) : mustQueue s a = false := by
  simp [mustQueue, heldByOther, queuedBefore, hf, hr]

theorem heldUpByMove_clear (s : State) (a : Access) (hj : ∀ j ∈ s.jigs.toList, j.move = none) :
    heldUpByMove s a = false := by
  have : ∀ p, tileMoving s p = false := fun p => by
    simp only [tileMoving, List.any_eq_false]
    intro j hj'
    simp [hj j hj']
  simp [heldUpByMove, this]

theorem anyBad_clear (s : State) (p : Place) (n : Nat) (h : s.bads = []) : anyBad s p n = false := by
  simp [anyBad, h]

theorem clear_recount (s k : State) (h : Clear s) : Clear (recount s k) := ⟨h.1, h.2, h.3, h.4⟩

theorem clear_countArrival (s : State) (a : Access) (h : Clear s) : Clear (countArrival s a) := by
  have e : countArrival s a = recount s (countArrival s a) := counts_countArrival a s s ⟨rfl, rfl⟩
  rw [e]
  exact clear_recount s _ h

theorem clear_issuedState (u : Use) (s : State) (t : Thread) (h : Clear s) : Clear (issuedState u s t) :=
  ⟨h.1, h.2, h.3, h.4⟩

/-- A default access that nothing holds performs at once, and counts as it arrives. -/
theorem performNow_clear (x : Ctx) (s s' : State) (a : Access) (vals : List Word) (okay : Bool) (h : Clear s)
    (hp : peerAccess a = false) (hs : serve (countArrival s a) a = .done s' vals okay) :
    performNow x s a = .ok (afterServe (modThread s' x.core x.slot (takeVals a vals okay)) a) := by
  simp only [performNow, settleEarlier_none s _ _ _ h.flight, heldUpByMove_clear s a h.jigs, hp,
    pathHeld_none s _ _ _ h.flight, hs]
  rfl

theorem badPart_clear (s : State) (a : Access) (p : Part) (h : s.bads = []) : badPart s a p = false := by
  simp [badPart, anyBad_clear s _ _ h]

/-- A load that nothing holds answers the bytes at its parts. -/
theorem serve_load (s : State) (a : Access) (h : Clear s) (hk : a.kind = .load) :
    serve s a = .done s (a.parts.map (loadPart s)) true := by
  simp [serve, mustQueue_clear s a h.flight h.resvs, badPart_clear s a _ h.bads, hk]

/-- A store that nothing holds writes its parts in order. -/
theorem serve_store (s : State) (a : Access) (h : Clear s) (hk : a.kind = .store) :
    serve s a = .done (a.parts.foldl storePart s) [] true := by
  simp [serve, mustQueue_clear s a h.flight h.resvs, badPart_clear s a _ h.bads, hk]

theorem mayIssue_clear (s : State) (x : Ctx) (h : s.flight = []) : mayIssue s x none = true := by
  simp [mayIssue, ownRelaxed, streamIdle, h]

/-- A default access of a thread that stands alone, whose address leads to a place of its own path, is an access at its
bank. -/
theorem memAccess_here (u : Use) (s : State) (t : Thread) (x : Ctx) (sel : Nat) (off : Int) (n al : Nat) (need : Need)
    (kno : Nat) (base : Option (Nat × Bool)) (dsts : List Nat) (kind : AccKind) (d2 : Word)
    (parts : Place → Option Nat → Word → List Part) (p : Place) (va : Option Nat) (hx : x.core = s.turn)
    (ha : t.role = .alone) (ht : threadAt s s.turn (curSlot s) = some t) (hc : Clear s) (hl : locate s s.turn t sel off n al need = .here p va []) :
    memAccess x (issuedThread u s t) (issuedState u s t) sel off n al need kno none base dsts kind d2 parts =
      performNow x (issuedState u s t)
        (newAccess (issuedState u s t) x (issuedThread u s t) kind (hopped 0 (parts p va (namedAddr sel off))) none
          (namedAddr sel off) d2 none false false) := by
  simp only [memAccess, mayIssue_clear (issuedState u s t) x hc.flight, hx, locate_issuedState u s t ht, hl]
  simp only [access, role_issuedThread, ha, issueAccess, newAccess, countMarks, throughVas]
  simp

/-- An operation that ends by changing its thread over counted requests completes. -/
theorem completes_counted (i : Instr) (u : Use) (op : Ctx → Thread → State → Res) (s k : State) (t : Thread)
    (f : Thread → Thread) (he : exec i s = issue u op s) (h : Issues u s t)
    (hop : op (issueCtx u s t) (issuedThread u s t) (issuedState u s t) =
      .ok (modThread (recount (issuedState u s t) k) s.turn (curSlot s) f)) :
    CompletesFrom i s (recount s k) (goesTo (f (issuedThread u s t)) (pcAfter t u.words)) := by
  refine ⟨_, exec_issues i u op s t he h, ?_⟩
  have e : setThread (chargedState s s.turn) s.turn (curSlot s) (issuedThread u s t) = issuedState u s t := rfl
  have hk : recount (issuedState u s t) k =
      setThread (chargedState (recount s k) s.turn) s.turn (curSlot s) (issuedThread u s t) := rfl
  rw [e, hop, hk, modThread_some _ _ _ _ (issuedThread u s t) (threadAt_setThread_same _ _ _ _ (curSlot_lt s)),
    setThread_setThread _ _ _ _ _ (curSlot_lt s)]
  simp only [settle, h.alone, pairStep, issueCtx]
  rw [advance_setThread _ _ _ _ _ (curSlot_lt s)]
  exact onlyThread_charged (recount s k) _

end Sys2Proof.Machine
end

