-- ==== Sys2Proof/Laws/PerInstr.lean ====
section
/-! SUPPORT. For every instruction of the table: where its encoding has its opcode and its page, and that an event has no
words (R22, R25, R28, R37). -/

namespace Sys2Proof.Laws.Encoding

/-- The six opcode bits of the base word are the instruction's and the XP word names its page; an event has no words. -/
def Statement (i : Instr) : Prop :=
  match i.opcode with
  | none => encode i = []
  | some (p, v) => ∃ ch, i.chain = some ch ∧ ch.base.extractLsb' 10 6 = BitVec.ofNat 6 v ∧
      ch.xp = if p = 0 then none else some (BitVec.ofNat 4 p ++ 0#5)

/-- The six bits above two fields of five. -/
theorem extract_top (w : BitVec 6) (a5 b5 : BitVec 5) : (w ++ a5 ++ b5 : BitVec 16).extractLsb' 10 6 = w := by
  apply BitVec.eq_of_getLsbD_eq
  intro i hi
  have h1 : ¬ (10 + i < 5) := by omega
  have h2 : ¬ (10 + i - 5 < 5) := by omega
  have h3 : 10 + i - 5 - 5 = i := by omega
  have g := (BitVec.getLsbD_append (x := w ++ a5) (y := b5) (i := 10 + i)).trans (if_neg h1)
  have g2 := (BitVec.getLsbD_append (x := w) (y := a5) (i := 10 + i - 5)).trans (if_neg h2)
  rw [h3] at g2
  rw [BitVec.getLsbD_extractLsb', decide_eq_true hi, Bool.true_and]
  exact g.trans g2

/-- The opcode stands in bits 15:10 of the base word that `mkChain` makes. -/
theorem mkChain_opcode (op : Nat × Nat) (p : Pfx) (aHi bHi : BitVec 2) (a5 b5 : BitVec 5)
    (xt rlx : Option (BitVec 9)) (xi : List (BitVec 9)) :
    (mkChain op p aHi bHi a5 b5 xt rlx xi).base.extractLsb' 10 6 = BitVec.ofNat 6 op.2 := by
  exact extract_top _ a5 b5

theorem add (x0) : Statement (.add x0) := ⟨_, rfl, mkChain_opcode .., rfl⟩
theorem sub (x0) : Statement (.sub x0) := ⟨_, rfl, mkChain_opcode .., rfl⟩
theorem and (x0) : Statement (.and x0) := ⟨_, rfl, mkChain_opcode .., rfl⟩
theorem or (x0) : Statement (.or x0) := ⟨_, rfl, mkChain_opcode .., rfl⟩
theorem xor (x0) : Statement (.xor x0) := ⟨_, rfl, mkChain_opcode .., rfl⟩
theorem andn (x0) : Statement (.andn x0) := ⟨_, rfl, mkChain_opcode .., rfl⟩
theorem shl (x0) : Statement (.shl x0) := ⟨_, rfl, mkChain_opcode .., rfl⟩
theorem shr (x0) : Statement (.shr x0) := ⟨_, rfl, mkChain_opcode .., rfl⟩
theorem sra (x0) : Statement (.sra x0) := ⟨_, rfl, mkChain_opcode .., rfl⟩
theorem mul (x0) : Statement (.mul x0) := ⟨_, rfl, mkChain_opcode .., rfl⟩
theorem mov (x0) : Statement (.mov x0) := ⟨_, rfl, mkChain_opcode .., rfl⟩
theorem addi (x0) : Statement (.addi x0) := ⟨_, rfl, mkChain_opcode .., rfl⟩
theorem movi (x0) : Statement (.movi x0) := ⟨_, rfl, mkChain_opcode .., rfl⟩
theorem andi (x0) : Statement (.andi x0) := ⟨_, rfl, mkChain_opcode .., rfl⟩
theorem shli (x0) : Statement (.shli x0) := ⟨_, rfl, mkChain_opcode .., rfl⟩
theorem shri (x0) : Statement (.shri x0) := ⟨_, rfl, mkChain_opcode .., rfl⟩
theorem srai (x0) : Statement (.srai x0) := ⟨_, rfl, mkChain_opcode .., rfl⟩
theorem ceq (x0) : Statement (.ceq x0) := ⟨_, rfl, mkChain_opcode .., rfl⟩
theorem cne (x0) : Statement (.cne x0) := ⟨_, rfl, mkChain_opcode .., rfl⟩
theorem clt (x0) : Statement (.clt x0) := ⟨_, rfl, mkChain_opcode .., rfl⟩
theorem cltu (x0) : Statement (.cltu x0) := ⟨_, rfl, mkChain_opcode .., rfl⟩
theorem cle (x0) : Statement (.cle x0) := ⟨_, rfl, mkChain_opcode .., rfl⟩
theorem cleu (x0) : Statement (.cleu x0) := ⟨_, rfl, mkChain_opcode .., rfl⟩
theorem ceqi (x0) : Statement (.ceqi x0) := ⟨_, rfl, mkChain_opcode .., rfl⟩
theorem clti (x0) : Statement (.clti x0) := ⟨_, rfl, mkChain_opcode .., rfl⟩
theorem ldb (x0) : Statement (.ldb x0) := ⟨_, rfl, mkChain_opcode .., rfl⟩
theorem ldbs (x0) : Statement (.ldbs x0) := ⟨_, rfl, mkChain_opcode .., rfl⟩
theorem ldh (x0) : Statement (.ldh x0) := ⟨_, rfl, mkChain_opcode .., rfl⟩
theorem ldhs (x0) : Statement (.ldhs x0) := ⟨_, rfl, mkChain_opcode .., rfl⟩
theorem ldw (x0) : Statement (.ldw x0) := ⟨_, rfl, mkChain_opcode .., rfl⟩
theorem stb (x0) : Statement (.stb x0) := ⟨_, rfl, mkChain_opcode .., rfl⟩
theorem sth (x0) : Statement (.sth x0) := ⟨_, rfl, mkChain_opcode .., rfl⟩
theorem stw (x0) : Statement (.stw x0) := ⟨_, rfl, mkChain_opcode .., rfl⟩
theorem ldv (x0) : Statement (.ldv x0) := ⟨_, rfl, mkChain_opcode .., rfl⟩
theorem stv (x0) : Statement (.stv x0) := ⟨_, rfl, mkChain_opcode .., rfl⟩
theorem br (x0) : Statement (.br x0) := ⟨_, rfl, mkChain_opcode .., rfl⟩
theorem bf (x0) : Statement (.bf x0) := ⟨_, rfl, mkChain_opcode .., rfl⟩
theorem bnf (x0) : Statement (.bnf x0) := ⟨_, rfl, mkChain_opcode .., rfl⟩
theorem call (x0) : Statement (.call x0) := ⟨_, rfl, mkChain_opcode .., rfl⟩
theorem jr (x0) : Statement (.jr x0) := ⟨_, rfl, mkChain_opcode .., rfl⟩
theorem jalr (x0) : Statement (.jalr x0) := ⟨_, rfl, mkChain_opcode .., rfl⟩
theorem div (x0) : Statement (.div x0) := ⟨_, rfl, mkChain_opcode .., rfl⟩
theorem divu (x0) : Statement (.divu x0) := ⟨_, rfl, mkChain_opcode .., rfl⟩
theorem rem (x0) : Statement (.rem x0) := ⟨_, rfl, mkChain_opcode .., rfl⟩
theorem remu (x0) : Statement (.remu x0) := ⟨_, rfl, mkChain_opcode .., rfl⟩
theorem mulh (x0) : Statement (.mulh x0) := ⟨_, rfl, mkChain_opcode .., rfl⟩
theorem mulhu (x0) : Statement (.mulhu x0) := ⟨_, rfl, mkChain_opcode .., rfl⟩
theorem min (x0) : Statement (.min x0) := ⟨_, rfl, mkChain_opcode .., rfl⟩
theorem max (x0) : Statement (.max x0) := ⟨_, rfl, mkChain_opcode .., rfl⟩
theorem minu (x0) : Statement (.minu x0) := ⟨_, rfl, mkChain_opcode .., rfl⟩
theorem maxu (x0) : Statement (.maxu x0) := ⟨_, rfl, mkChain_opcode .., rfl⟩
theorem clz (x0) : Statement (.clz x0) := ⟨_, rfl, mkChain_opcode .., rfl⟩
theorem ctz (x0) : Statement (.ctz x0) := ⟨_, rfl, mkChain_opcode .., rfl⟩
theorem popc (x0) : Statement (.popc x0) := ⟨_, rfl, mkChain_opcode .., rfl⟩
theorem brev (x0) : Statement (.brev x0) := ⟨_, rfl, mkChain_opcode .., rfl⟩
theorem rot (x0) : Statement (.rot x0) := ⟨_, rfl, mkChain_opcode .., rfl⟩
theorem sext (x0) : Statement (.sext x0) := ⟨_, rfl, mkChain_opcode .., rfl⟩
theorem zext (x0) : Statement (.zext x0) := ⟨_, rfl, mkChain_opcode .., rfl⟩
theorem sel (x0) : Statement (.sel x0) := ⟨_, rfl, mkChain_opcode .., rfl⟩
theorem fAnd (x0) : Statement (.fAnd x0) := ⟨_, rfl, mkChain_opcode .., rfl⟩
theorem fOr (x0) : Statement (.fOr x0) := ⟨_, rfl, mkChain_opcode .., rfl⟩
theorem fXor (x0) : Statement (.fXor x0) := ⟨_, rfl, mkChain_opcode .., rfl⟩
theorem fNot (x0) : Statement (.fNot x0) := ⟨_, rfl, mkChain_opcode .., rfl⟩
theorem mff (x0) : Statement (.mff x0) := ⟨_, rfl, mkChain_opcode .., rfl⟩
theorem mtf (x0) : Statement (.mtf x0) := ⟨_, rfl, mkChain_opcode .., rfl⟩
theorem loop (x0) : Statement (.loop x0) := ⟨_, rfl, mkChain_opcode .., rfl⟩
theorem vadd (x0) : Statement (.vadd x0) := ⟨_, rfl, mkChain_opcode .., rfl⟩
theorem vsub (x0) : Statement (.vsub x0) := ⟨_, rfl, mkChain_opcode .., rfl⟩
theorem vmul (x0) : Statement (.vmul x0) := ⟨_, rfl, mkChain_opcode .., rfl⟩
theorem vmin (x0) : Statement (.vmin x0) := ⟨_, rfl, mkChain_opcode .., rfl⟩
theorem vmax (x0) : Statement (.vmax x0) := ⟨_, rfl, mkChain_opcode .., rfl⟩
theorem vand (x0) : Statement (.vand x0) := ⟨_, rfl, mkChain_opcode .., rfl⟩
theorem vor (x0) : Statement (.vor x0) := ⟨_, rfl, mkChain_opcode .., rfl⟩
theorem vxor (x0) : Statement (.vxor x0) := ⟨_, rfl, mkChain_opcode .., rfl⟩
theorem vshl (x0) : Statement (.vshl x0) := ⟨_, rfl, mkChain_opcode .., rfl⟩
theorem vshr (x0) : Statement (.vshr x0) := ⟨_, rfl, mkChain_opcode .., rfl⟩
theorem vsra (x0) : Statement (.vsra x0) := ⟨_, rfl, mkChain_opcode .., rfl⟩
theorem vceq (x0) : Statement (.vceq x0) := ⟨_, rfl, mkChain_opcode .., rfl⟩
theorem vclt (x0) : Statement (.vclt x0) := ⟨_, rfl, mkChain_opcode .., rfl⟩
theorem vsel (x0) : Statement (.vsel x0) := ⟨_, rfl, mkChain_opcode .., rfl⟩
theorem vbcast (x0) : Statement (.vbcast x0) := ⟨_, rfl, mkChain_opcode .., rfl⟩
theorem vext (x0) : Statement (.vext x0) := ⟨_, rfl, mkChain_opcode .., rfl⟩
theorem vins (x0) : Statement (.vins x0) := ⟨_, rfl, mkChain_opcode .., rfl⟩
theorem vperm (x0) : Statement (.vperm x0) := ⟨_, rfl, mkChain_opcode .., rfl⟩
theorem vscan (x0) : Statement (.vscan x0) := ⟨_, rfl, mkChain_opcode .., rfl⟩
theorem vredadd (x0) : Statement (.vredadd x0) := ⟨_, rfl, mkChain_opcode .., rfl⟩
theorem vredmin (x0) : Statement (.vredmin x0) := ⟨_, rfl, mkChain_opcode .., rfl⟩
theorem vredmax (x0) : Statement (.vredmax x0) := ⟨_, rfl, mkChain_opcode .., rfl⟩
theorem vgath (x0) : Statement (.vgath x0) := ⟨_, rfl, mkChain_opcode .., rfl⟩
theorem vscat (x0) : Statement (.vscat x0) := ⟨_, rfl, mkChain_opcode .., rfl⟩
theorem vfadd (x0) : Statement (.vfadd x0) := ⟨_, rfl, mkChain_opcode .., rfl⟩
theorem vfsub (x0) : Statement (.vfsub x0) := ⟨_, rfl, mkChain_opcode .., rfl⟩
theorem vfmul (x0) : Statement (.vfmul x0) := ⟨_, rfl, mkChain_opcode .., rfl⟩
theorem vfma (x0) : Statement (.vfma x0) := ⟨_, rfl, mkChain_opcode .., rfl⟩
theorem vfmin (x0) : Statement (.vfmin x0) := ⟨_, rfl, mkChain_opcode .., rfl⟩
theorem vfmax (x0) : Statement (.vfmax x0) := ⟨_, rfl, mkChain_opcode .., rfl⟩
theorem vfabs (x0) : Statement (.vfabs x0) := ⟨_, rfl, mkChain_opcode .., rfl⟩
theorem vfclt (x0) : Statement (.vfclt x0) := ⟨_, rfl, mkChain_opcode .., rfl⟩
theorem vfceq (x0) : Statement (.vfceq x0) := ⟨_, rfl, mkChain_opcode .., rfl⟩
theorem vfred (x0) : Statement (.vfred x0) := ⟨_, rfl, mkChain_opcode .., rfl⟩
theorem vfscan (x0) : Statement (.vfscan x0) := ⟨_, rfl, mkChain_opcode .., rfl⟩
theorem vcvtif (x0) : Statement (.vcvtif x0) := ⟨_, rfl, mkChain_opcode .., rfl⟩
theorem vcvtfi (x0) : Statement (.vcvtfi x0) := ⟨_, rfl, mkChain_opcode .., rfl⟩
theorem vcvt (x0) : Statement (.vcvt x0) := ⟨_, rfl, mkChain_opcode .., rfl⟩
theorem vamax (x0) : Statement (.vamax x0) := ⟨_, rfl, mkChain_opcode .., rfl⟩
theorem vrcp (x0) : Statement (.vrcp x0) := ⟨_, rfl, mkChain_opcode .., rfl⟩
theorem vrsq (x0) : Statement (.vrsq x0) := ⟨_, rfl, mkChain_opcode .., rfl⟩
theorem lde (x0) : Statement (.lde x0) := ⟨_, rfl, mkChain_opcode .., rfl⟩
theorem ldt (x0) : Statement (.ldt x0) := ⟨_, rfl, mkChain_opcode .., rfl⟩
theorem stf (x0) : Statement (.stf x0) := ⟨_, rfl, mkChain_opcode .., rfl⟩
theorem ste (x0) : Statement (.ste x0) := ⟨_, rfl, mkChain_opcode .., rfl⟩
theorem tagrd (x0) : Statement (.tagrd x0) := ⟨_, rfl, mkChain_opcode .., rfl⟩
theorem watch (x0) : Statement (.watch x0) := ⟨_, rfl, mkChain_opcode .., rfl⟩
theorem unwatch (x0) : Statement (.unwatch x0) := ⟨_, rfl, mkChain_opcode .., rfl⟩
theorem wait (x0) : Statement (.wait x0) := ⟨_, rfl, mkChain_opcode .., rfl⟩
theorem amoadd (x0) : Statement (.amoadd x0) := ⟨_, rfl, mkChain_opcode .., rfl⟩
theorem amomin (x0) : Statement (.amomin x0) := ⟨_, rfl, mkChain_opcode .., rfl⟩
theorem amomax (x0) : Statement (.amomax x0) := ⟨_, rfl, mkChain_opcode .., rfl⟩
theorem amoand (x0) : Statement (.amoand x0) := ⟨_, rfl, mkChain_opcode .., rfl⟩
theorem amoor (x0) : Statement (.amoor x0) := ⟨_, rfl, mkChain_opcode .., rfl⟩
theorem amoxor (x0) : Statement (.amoxor x0) := ⟨_, rfl, mkChain_opcode .., rfl⟩
theorem amoswp (x0) : Statement (.amoswp x0) := ⟨_, rfl, mkChain_opcode .., rfl⟩
theorem amocas (x0) : Statement (.amocas x0) := ⟨_, rfl, mkChain_opcode .., rfl⟩
theorem rsv (x0) : Statement (.rsv x0) := ⟨_, rfl, mkChain_opcode .., rfl⟩
theorem rls (x0) : Statement (.rls x0) := ⟨_, rfl, mkChain_opcode .., rfl⟩
theorem fence (x0) : Statement (.fence x0) := ⟨_, rfl, mkChain_opcode .., rfl⟩
theorem bar (x0) : Statement (.bar x0) := ⟨_, rfl, mkChain_opcode .., rfl⟩
theorem spawn (x0) : Statement (.spawn x0) := ⟨_, rfl, mkChain_opcode .., rfl⟩
theorem reap (x0) : Statement (.reap x0) := ⟨_, rfl, mkChain_opcode .., rfl⟩
theorem exit (x0) : Statement (.exit x0) := ⟨_, rfl, mkChain_opcode .., rfl⟩
theorem trigger (x0) : Statement (.trigger x0) := ⟨_, rfl, mkChain_opcode .., rfl⟩
theorem launch (x0) : Statement (.launch x0) := ⟨_, rfl, mkChain_opcode .., rfl⟩
theorem send (x0) : Statement (.send x0) := ⟨_, rfl, mkChain_opcode .., rfl⟩
theorem chset (x0) : Statement (.chset x0) := ⟨_, rfl, mkChain_opcode .., rfl⟩
theorem chblk (x0) : Statement (.chblk x0) := ⟨_, rfl, mkChain_opcode .., rfl⟩
theorem chunb (x0) : Statement (.chunb x0) := ⟨_, rfl, mkChain_opcode .., rfl⟩
theorem bind (x0) : Statement (.bind x0) := ⟨_, rfl, mkChain_opcode .., rfl⟩
theorem unbind (x0) : Statement (.unbind x0) := ⟨_, rfl, mkChain_opcode .., rfl⟩
theorem mfs (x0) : Statement (.mfs x0) := ⟨_, rfl, mkChain_opcode .., rfl⟩
theorem mts (x0) : Statement (.mts x0) := ⟨_, rfl, mkChain_opcode .., rfl⟩
theorem cvy (x0) : Statement (.cvy x0) := ⟨_, rfl, mkChain_opcode .., rfl⟩
theorem join (x0) : Statement (.join x0) := ⟨_, rfl, mkChain_opcode .., rfl⟩
theorem split (x0) : Statement (.split x0) := ⟨_, rfl, mkChain_opcode .., rfl⟩
theorem spliti (x0) : Statement (.spliti x0) := ⟨_, rfl, mkChain_opcode .., rfl⟩
theorem mpop (x0) : Statement (.mpop x0) := ⟨_, rfl, mkChain_opcode .., rfl⟩
theorem mcnt (x0) : Statement (.mcnt x0) := ⟨_, rfl, mkChain_opcode .., rfl⟩
theorem mfm (x0) : Statement (.mfm x0) := ⟨_, rfl, mkChain_opcode .., rfl⟩
theorem mtm (x0) : Statement (.mtm x0) := ⟨_, rfl, mkChain_opcode .., rfl⟩
theorem qld (x0) : Statement (.qld x0) := ⟨_, rfl, mkChain_opcode .., rfl⟩
theorem qst (x0) : Statement (.qst x0) := ⟨_, rfl, mkChain_opcode .., rfl⟩
theorem qadd (x0) : Statement (.qadd x0) := ⟨_, rfl, mkChain_opcode .., rfl⟩
theorem cexit (x0) : Statement (.cexit x0) := ⟨_, rfl, mkChain_opcode .., rfl⟩
theorem cpy (x0) : Statement (.cpy x0) := ⟨_, rfl, mkChain_opcode .., rfl⟩
theorem cpy2 (x0) : Statement (.cpy2 x0) := ⟨_, rfl, mkChain_opcode .., rfl⟩
theorem gth (x0) : Statement (.gth x0) := ⟨_, rfl, mkChain_opcode .., rfl⟩
theorem sct (x0) : Statement (.sct x0) := ⟨_, rfl, mkChain_opcode .., rfl⟩
theorem coll (x0) : Statement (.coll x0) := ⟨_, rfl, mkChain_opcode .., rfl⟩
theorem waitany (x0) : Statement (.waitany x0) := ⟨_, rfl, mkChain_opcode .., rfl⟩
theorem waitall (x0) : Statement (.waitall x0) := ⟨_, rfl, mkChain_opcode .., rfl⟩
theorem tagff (x0) : Statement (.tagff x0) := ⟨_, rfl, mkChain_opcode .., rfl⟩
theorem tagclr (x0) : Statement (.tagclr x0) := ⟨_, rfl, mkChain_opcode .., rfl⟩
theorem prec (x0) : Statement (.prec x0) := ⟨_, rfl, mkChain_opcode .., rfl⟩
theorem wld (x0) : Statement (.wld x0) := ⟨_, rfl, mkChain_opcode .., rfl⟩
theorem mma (x0) : Statement (.mma x0) := ⟨_, rfl, mkChain_opcode .., rfl⟩
theorem accz (x0) : Statement (.accz x0) := ⟨_, rfl, mkChain_opcode .., rfl⟩
theorem accrd (x0) : Statement (.accrd x0) := ⟨_, rfl, mkChain_opcode .., rfl⟩
theorem accwr (x0) : Statement (.accwr x0) := ⟨_, rfl, mkChain_opcode .., rfl⟩
theorem cvtst (x0) : Statement (.cvtst x0) := ⟨_, rfl, mkChain_opcode .., rfl⟩
theorem amaxrd (x0) : Statement (.amaxrd x0) := ⟨_, rfl, mkChain_opcode .., rfl⟩
theorem amaxclr (x0) : Statement (.amaxclr x0) := ⟨_, rfl, mkChain_opcode .., rfl⟩
theorem dupset (x0) : Statement (.dupset x0) := ⟨_, rfl, mkChain_opcode .., rfl⟩
theorem osplit (x0) : Statement (.osplit x0) := ⟨_, rfl, mkChain_opcode .., rfl⟩
theorem trap (x0) : Statement (.trap x0) := ⟨_, rfl, mkChain_opcode .., rfl⟩
theorem sys (x0) : Statement (.sys x0) := ⟨_, rfl, mkChain_opcode .., rfl⟩
theorem brk (x0) : Statement (.brk x0) := ⟨_, rfl, mkChain_opcode .., rfl⟩
theorem eret (x0) : Statement (.eret x0) := ⟨_, rfl, mkChain_opcode .., rfl⟩
theorem mfsp (x0) : Statement (.mfsp x0) := ⟨_, rfl, mkChain_opcode .., rfl⟩
theorem mtsp (x0) : Statement (.mtsp x0) := ⟨_, rfl, mkChain_opcode .., rfl⟩
theorem segset (x0) : Statement (.segset x0) := ⟨_, rfl, mkChain_opcode .., rfl⟩
theorem tlbinv (x0) : Statement (.tlbinv x0) := ⟨_, rfl, mkChain_opcode .., rfl⟩
theorem reloc (x0) : Statement (.reloc x0) := ⟨_, rfl, mkChain_opcode .., rfl⟩
theorem sweep (x0) : Statement (.sweep x0) := ⟨_, rfl, mkChain_opcode .., rfl⟩
theorem wearrd (x0) : Statement (.wearrd x0) := ⟨_, rfl, mkChain_opcode .., rfl⟩
theorem ctxsv (x0) : Statement (.ctxsv x0) := ⟨_, rfl, mkChain_opcode .., rfl⟩
theorem ctxld (x0) : Statement (.ctxld x0) := ⟨_, rfl, mkChain_opcode .., rfl⟩
theorem resume (x0) : Statement (.resume x0) := ⟨_, rfl, mkChain_opcode .., rfl⟩
theorem park (x0) : Statement (.park x0) := ⟨_, rfl, mkChain_opcode .., rfl⟩
theorem memoryAccessPerform (x0) : Statement (.memoryAccessPerform x0) := rfl
theorem reservationGrant (x0) : Statement (.reservationGrant x0) := rfl
theorem reservationTimeout (x0 x1) : Statement (.reservationTimeout x0 x1) := rfl
theorem waitlimExpiry (x0 x1) : Statement (.waitlimExpiry x0 x1) := rfl
theorem withdrawalAnswer (x0 x1) : Statement (.withdrawalAnswer x0 x1) := rfl
theorem remoteReply (x0) : Statement (.remoteReply x0) := rfl
theorem messageArrival (x0) : Statement (.messageArrival x0) := rfl
theorem handlerDispatch (x0) : Statement (.handlerDispatch x0) := rfl
theorem freshDispatch (x0) : Statement (.freshDispatch x0) := rfl
theorem streamLoadFill (x0 x1 x2) : Statement (.streamLoadFill x0 x1 x2) := rfl
theorem streamStoreTake (x0 x1) : Statement (.streamStoreTake x0 x1) := rfl
theorem q3Delivery (x0 x1) : Statement (.q3Delivery x0 x1) := rfl
theorem pageNotice (x0) : Statement (.pageNotice x0) := rfl
theorem pageRequest (x0 x1 x2) : Statement (.pageRequest x0 x1 x2) := rfl
theorem translationWalk (x0 x1) : Statement (.translationWalk x0 x1) := rfl
theorem shootdownComplete : Statement .shootdownComplete := rfl
theorem stopEffect (x0 x1) : Statement (.stopEffect x0 x1) := rfl
theorem overflowRefill (x0) : Statement (.overflowRefill x0) := rfl
theorem launchStart (x0) : Statement (.launchStart x0) := rfl
theorem taskPlace (x0) : Statement (.taskPlace x0) := rfl
theorem placingOverNotice (x0 x1) : Statement (.placingOverNotice x0 x1) := rfl
theorem doneMessage (x0 x1) : Statement (.doneMessage x0 x1) := rfl
theorem launchComplete (x0) : Statement (.launchComplete x0) := rfl
theorem barEpisodeOpen (x0 x1) : Statement (.barEpisodeOpen x0 x1) := rfl
theorem convoyArrival (x0) : Statement (.convoyArrival x0) := rfl
theorem arrivalSlotGrant (x0) : Statement (.arrivalSlotGrant x0) := rfl
theorem placeRequest (x0 x1) : Statement (.placeRequest x0 x1) := rfl
theorem queuedJoinLookup (x0) : Statement (.queuedJoinLookup x0) := rfl
theorem joinExpiry (x0 x1) : Statement (.joinExpiry x0 x1) := rfl
theorem copyStart (x0) : Statement (.copyStart x0) := rfl
theorem copyComplete (x0 x1) : Statement (.copyComplete x0 x1) := rfl
theorem collCombine (x0 x1 x2) : Statement (.collCombine x0 x1 x2) := rfl
theorem matrixStart (x0) : Statement (.matrixStart x0) := rfl
theorem matrixComplete (x0) : Statement (.matrixComplete x0) := rfl
theorem commitPoint (x0 x1) : Statement (.commitPoint x0 x1) := rfl
theorem threadKill (x0 x1) : Statement (.threadKill x0 x1) := rfl
theorem killScrubComplete (x0 x1) : Statement (.killScrubComplete x0 x1) := rfl
theorem drainStart (x0 x1) : Statement (.drainStart x0 x1) := rfl
theorem drainComplete (x0) : Statement (.drainComplete x0) := rfl
theorem requestBounce (x0) : Statement (.requestBounce x0) := rfl
theorem jigStart (x0) : Statement (.jigStart x0) := rfl
theorem jigCommit (x0) : Statement (.jigCommit x0) := rfl
theorem ringRecordTake (x0) : Statement (.ringRecordTake x0) := rfl
theorem obsSnapshotReady : Statement .obsSnapshotReady := rfl
theorem traceSample (x0) : Statement (.traceSample x0) := rfl
theorem breakpointHold (x0 x1) : Statement (.breakpointHold x0 x1) := rfl
theorem startup (x0) : Statement (.startup x0) := rfl
theorem coreCycle (x0) : Statement (.coreCycle x0) := rfl
theorem hostWrite (x0 x1 x2) : Statement (.hostWrite x0 x1 x2) := rfl
theorem hostRead (x0 x1 x2) : Statement (.hostRead x0 x1 x2) := rfl
theorem hostSnoop (x0) : Statement (.hostSnoop x0) := rfl
theorem networkFrame (x0) : Statement (.networkFrame x0) := rfl
theorem checkpoint (x0) : Statement (.checkpoint x0) := rfl
theorem checkpointTimeout : Statement .checkpointTimeout := rfl
theorem checkpointRestore (x0) : Statement (.checkpointRestore x0) := rfl
theorem doorbell (x0 x1) : Statement (.doorbell x0 x1) := rfl
theorem ringEnable (x0 x1) : Statement (.ringEnable x0 x1) := rfl
theorem ringRestart (x0) : Statement (.ringRestart x0) := rfl
theorem ringSkip (x0) : Statement (.ringSkip x0) := rfl
theorem errorRingEnable (x0) : Statement (.errorRingEnable x0) := rfl
theorem registerWrite (x0 x1 x2) : Statement (.registerWrite x0 x1 x2) := rfl
theorem obsselWrite (x0) : Statement (.obsselWrite x0) := rfl
theorem preciseStop (x0 x1) : Statement (.preciseStop x0 x1) := rfl
theorem debugHoldLift (x0 x1) : Statement (.debugHoldLift x0 x1) := rfl
theorem sidebandDump (x0 x1 x2) : Statement (.sidebandDump x0 x1 x2) := rfl
theorem powerSample (x0) : Statement (.powerSample x0) := rfl
theorem powerTick (x0) : Statement (.powerTick x0) := rfl
theorem firmwareUpdate (x0) : Statement (.firmwareUpdate x0) := rfl
theorem softError (x0 x1) : Statement (.softError x0 x1) := rfl
theorem powerLoss : Statement .powerLoss := rfl
theorem peerRequest (x0) : Statement (.peerRequest x0) := rfl
theorem corePresenceEnd (x0) : Statement (.corePresenceEnd x0) := rfl
theorem retryRequest : Statement .retryRequest := rfl
theorem stressTick (x0 x1 x2) : Statement (.stressTick x0 x1 x2) := rfl
theorem lifetimeWrite : Statement .lifetimeWrite := rfl
theorem linkFlitRetry (x0 x1) : Statement (.linkFlitRetry x0 x1) := rfl
theorem linkFailure (x0 x1) : Statement (.linkFailure x0 x1) := rfl
theorem routeFailure (x0) : Statement (.routeFailure x0) := rfl
theorem routeChange (x0 x1) : Statement (.routeChange x0 x1) := rfl

end Sys2Proof.Laws.Encoding
end

