-- ==== Sys2Proof/Laws/State.lean ====
section
/-! SUPPORT. One lemma for each field that an update of the state, of a core or of a thread leaves as it was. -/

namespace Sys2Proof.Machine

/-! ### The state -/

@[simp] theorem setCore_mem (s : State) (c : Nat) (k : Core) : (setCore s c k).mem = s.mem := rfl
@[simp] theorem setCore_empties (s : State) (c : Nat) (k : Core) : (setCore s c k).empties = s.empties := rfl
@[simp] theorem setCore_bads (s : State) (c : Nat) (k : Core) : (setCore s c k).bads = s.bads := rfl
@[simp] theorem setCore_flight (s : State) (c : Nat) (k : Core) : (setCore s c k).flight = s.flight := rfl
@[simp] theorem setCore_resvs (s : State) (c : Nat) (k : Core) : (setCore s c k).resvs = s.resvs := rfl
@[simp] theorem setCore_bankErrs (s : State) (c : Nat) (k : Core) : (setCore s c k).bankErrs = s.bankErrs := rfl
@[simp] theorem setCore_net (s : State) (c : Nat) (k : Core) : (setCore s c k).net = s.net := rfl
@[simp] theorem setCore_moving (s : State) (c : Nat) (k : Core) : (setCore s c k).moving = s.moving := rfl
@[simp] theorem setCore_xl (s : State) (c : Nat) (k : Core) : (setCore s c k).xl = s.xl := rfl
@[simp] theorem setCore_jigs (s : State) (c : Nat) (k : Core) : (setCore s c k).jigs = s.jigs := rfl
@[simp] theorem setCore_counters (s : State) (c : Nat) (k : Core) : (setCore s c k).counters = s.counters := rfl
@[simp] theorem setCore_front (s : State) (c : Nat) (k : Core) : (setCore s c k).front = s.front := rfl
@[simp] theorem setCore_life (s : State) (c : Nat) (k : Core) : (setCore s c k).life = s.life := rfl
@[simp] theorem setCore_cc (s : State) (c : Nat) (k : Core) : (setCore s c k).cc = s.cc := rfl
@[simp] theorem setCore_time (s : State) (c : Nat) (k : Core) : (setCore s c k).time = s.time := rfl
@[simp] theorem setCore_booted (s : State) (c : Nat) (k : Core) : (setCore s c k).booted = s.booted := rfl
@[simp] theorem setCore_agenda (s : State) (c : Nat) (k : Core) : (setCore s c k).agenda = s.agenda := rfl
@[simp] theorem setCore_turn (s : State) (c : Nat) (k : Core) : (setCore s c k).turn = s.turn := rfl
@[simp] theorem setCore_serial (s : State) (c : Nat) (k : Core) : (setCore s c k).serial = s.serial := rfl
@[simp] theorem setCore_free (s : State) (c : Nat) (k : Core) : (setCore s c k).free = s.free := rfl
@[simp] theorem setCore_issued (s : State) (c : Nat) (k : Core) : (setCore s c k).issued = s.issued := rfl

@[simp] theorem modCore_mem (s : State) (c : Nat) (f : Core → Core) : (modCore s c f).mem = s.mem := rfl
@[simp] theorem modCore_empties (s : State) (c : Nat) (f : Core → Core) : (modCore s c f).empties = s.empties := rfl
@[simp] theorem modCore_bads (s : State) (c : Nat) (f : Core → Core) : (modCore s c f).bads = s.bads := rfl
@[simp] theorem modCore_flight (s : State) (c : Nat) (f : Core → Core) : (modCore s c f).flight = s.flight := rfl
@[simp] theorem modCore_resvs (s : State) (c : Nat) (f : Core → Core) : (modCore s c f).resvs = s.resvs := rfl
@[simp] theorem modCore_bankErrs (s : State) (c : Nat) (f : Core → Core) :
    (modCore s c f).bankErrs = s.bankErrs := rfl
@[simp] theorem modCore_net (s : State) (c : Nat) (f : Core → Core) : (modCore s c f).net = s.net := rfl
@[simp] theorem modCore_moving (s : State) (c : Nat) (f : Core → Core) : (modCore s c f).moving = s.moving := rfl
@[simp] theorem modCore_xl (s : State) (c : Nat) (f : Core → Core) : (modCore s c f).xl = s.xl := rfl
@[simp] theorem modCore_jigs (s : State) (c : Nat) (f : Core → Core) : (modCore s c f).jigs = s.jigs := rfl
@[simp] theorem modCore_counters (s : State) (c : Nat) (f : Core → Core) :
    (modCore s c f).counters = s.counters := rfl
@[simp] theorem modCore_front (s : State) (c : Nat) (f : Core → Core) : (modCore s c f).front = s.front := rfl
@[simp] theorem modCore_life (s : State) (c : Nat) (f : Core → Core) : (modCore s c f).life = s.life := rfl
@[simp] theorem modCore_cc (s : State) (c : Nat) (f : Core → Core) : (modCore s c f).cc = s.cc := rfl
@[simp] theorem modCore_time (s : State) (c : Nat) (f : Core → Core) : (modCore s c f).time = s.time := rfl
@[simp] theorem modCore_booted (s : State) (c : Nat) (f : Core → Core) : (modCore s c f).booted = s.booted := rfl
@[simp] theorem modCore_agenda (s : State) (c : Nat) (f : Core → Core) : (modCore s c f).agenda = s.agenda := rfl
@[simp] theorem modCore_turn (s : State) (c : Nat) (f : Core → Core) : (modCore s c f).turn = s.turn := rfl
@[simp] theorem modCore_serial (s : State) (c : Nat) (f : Core → Core) : (modCore s c f).serial = s.serial := rfl
@[simp] theorem modCore_free (s : State) (c : Nat) (f : Core → Core) : (modCore s c f).free = s.free := rfl
@[simp] theorem modCore_issued (s : State) (c : Nat) (f : Core → Core) : (modCore s c f).issued = s.issued := rfl

@[simp] theorem setSlot_mem (s : State) (c i : Nat) (x : Slot) : (setSlot s c i x).mem = s.mem := rfl
@[simp] theorem setSlot_empties (s : State) (c i : Nat) (x : Slot) : (setSlot s c i x).empties = s.empties := rfl
@[simp] theorem setSlot_bads (s : State) (c i : Nat) (x : Slot) : (setSlot s c i x).bads = s.bads := rfl
@[simp] theorem setSlot_flight (s : State) (c i : Nat) (x : Slot) : (setSlot s c i x).flight = s.flight := rfl
@[simp] theorem setSlot_resvs (s : State) (c i : Nat) (x : Slot) : (setSlot s c i x).resvs = s.resvs := rfl
@[simp] theorem setSlot_bankErrs (s : State) (c i : Nat) (x : Slot) : (setSlot s c i x).bankErrs = s.bankErrs := rfl
@[simp] theorem setSlot_net (s : State) (c i : Nat) (x : Slot) : (setSlot s c i x).net = s.net := rfl
@[simp] theorem setSlot_moving (s : State) (c i : Nat) (x : Slot) : (setSlot s c i x).moving = s.moving := rfl
@[simp] theorem setSlot_xl (s : State) (c i : Nat) (x : Slot) : (setSlot s c i x).xl = s.xl := rfl
@[simp] theorem setSlot_jigs (s : State) (c i : Nat) (x : Slot) : (setSlot s c i x).jigs = s.jigs := rfl
@[simp] theorem setSlot_counters (s : State) (c i : Nat) (x : Slot) : (setSlot s c i x).counters = s.counters := rfl
@[simp] theorem setSlot_front (s : State) (c i : Nat) (x : Slot) : (setSlot s c i x).front = s.front := rfl
@[simp] theorem setSlot_life (s : State) (c i : Nat) (x : Slot) : (setSlot s c i x).life = s.life := rfl
@[simp] theorem setSlot_cc (s : State) (c i : Nat) (x : Slot) : (setSlot s c i x).cc = s.cc := rfl
@[simp] theorem setSlot_time (s : State) (c i : Nat) (x : Slot) : (setSlot s c i x).time = s.time := rfl
@[simp] theorem setSlot_booted (s : State) (c i : Nat) (x : Slot) : (setSlot s c i x).booted = s.booted := rfl
@[simp] theorem setSlot_agenda (s : State) (c i : Nat) (x : Slot) : (setSlot s c i x).agenda = s.agenda := rfl
@[simp] theorem setSlot_turn (s : State) (c i : Nat) (x : Slot) : (setSlot s c i x).turn = s.turn := rfl
@[simp] theorem setSlot_serial (s : State) (c i : Nat) (x : Slot) : (setSlot s c i x).serial = s.serial := rfl
@[simp] theorem setSlot_free (s : State) (c i : Nat) (x : Slot) : (setSlot s c i x).free = s.free := rfl
@[simp] theorem setSlot_issued (s : State) (c i : Nat) (x : Slot) : (setSlot s c i x).issued = s.issued := rfl

@[simp] theorem setContent_mem (s : State) (c i : Nat) (x : Content) : (setContent s c i x).mem = s.mem := rfl
@[simp] theorem setContent_empties (s : State) (c i : Nat) (x : Content) :
    (setContent s c i x).empties = s.empties := rfl
@[simp] theorem setContent_bads (s : State) (c i : Nat) (x : Content) : (setContent s c i x).bads = s.bads := rfl
@[simp] theorem setContent_flight (s : State) (c i : Nat) (x : Content) :
    (setContent s c i x).flight = s.flight := rfl
@[simp] theorem setContent_resvs (s : State) (c i : Nat) (x : Content) : (setContent s c i x).resvs = s.resvs := rfl
@[simp] theorem setContent_bankErrs (s : State) (c i : Nat) (x : Content) :
    (setContent s c i x).bankErrs = s.bankErrs := rfl
@[simp] theorem setContent_net (s : State) (c i : Nat) (x : Content) : (setContent s c i x).net = s.net := rfl
@[simp] theorem setContent_moving (s : State) (c i : Nat) (x : Content) :
    (setContent s c i x).moving = s.moving := rfl
@[simp] theorem setContent_xl (s : State) (c i : Nat) (x : Content) : (setContent s c i x).xl = s.xl := rfl
@[simp] theorem setContent_jigs (s : State) (c i : Nat) (x : Content) : (setContent s c i x).jigs = s.jigs := rfl
@[simp] theorem setContent_counters (s : State) (c i : Nat) (x : Content) :
    (setContent s c i x).counters = s.counters := rfl
@[simp] theorem setContent_front (s : State) (c i : Nat) (x : Content) : (setContent s c i x).front = s.front := rfl
@[simp] theorem setContent_life (s : State) (c i : Nat) (x : Content) : (setContent s c i x).life = s.life := rfl
@[simp] theorem setContent_cc (s : State) (c i : Nat) (x : Content) : (setContent s c i x).cc = s.cc := rfl
@[simp] theorem setContent_time (s : State) (c i : Nat) (x : Content) : (setContent s c i x).time = s.time := rfl
@[simp] theorem setContent_booted (s : State) (c i : Nat) (x : Content) :
    (setContent s c i x).booted = s.booted := rfl
@[simp] theorem setContent_agenda (s : State) (c i : Nat) (x : Content) :
    (setContent s c i x).agenda = s.agenda := rfl
@[simp] theorem setContent_turn (s : State) (c i : Nat) (x : Content) : (setContent s c i x).turn = s.turn := rfl
@[simp] theorem setContent_serial (s : State) (c i : Nat) (x : Content) :
    (setContent s c i x).serial = s.serial := rfl
@[simp] theorem setContent_free (s : State) (c i : Nat) (x : Content) : (setContent s c i x).free = s.free := rfl
@[simp] theorem setContent_issued (s : State) (c i : Nat) (x : Content) :
    (setContent s c i x).issued = s.issued := rfl

@[simp] theorem setThread_mem (s : State) (c i : Nat) (t : Thread) : (setThread s c i t).mem = s.mem := rfl
@[simp] theorem setThread_empties (s : State) (c i : Nat) (t : Thread) :
    (setThread s c i t).empties = s.empties := rfl
@[simp] theorem setThread_bads (s : State) (c i : Nat) (t : Thread) : (setThread s c i t).bads = s.bads := rfl
@[simp] theorem setThread_flight (s : State) (c i : Nat) (t : Thread) : (setThread s c i t).flight = s.flight := rfl
@[simp] theorem setThread_resvs (s : State) (c i : Nat) (t : Thread) : (setThread s c i t).resvs = s.resvs := rfl
@[simp] theorem setThread_bankErrs (s : State) (c i : Nat) (t : Thread) :
    (setThread s c i t).bankErrs = s.bankErrs := rfl
@[simp] theorem setThread_net (s : State) (c i : Nat) (t : Thread) : (setThread s c i t).net = s.net := rfl
@[simp] theorem setThread_moving (s : State) (c i : Nat) (t : Thread) : (setThread s c i t).moving = s.moving := rfl
@[simp] theorem setThread_xl (s : State) (c i : Nat) (t : Thread) : (setThread s c i t).xl = s.xl := rfl
@[simp] theorem setThread_jigs (s : State) (c i : Nat) (t : Thread) : (setThread s c i t).jigs = s.jigs := rfl
@[simp] theorem setThread_counters (s : State) (c i : Nat) (t : Thread) :
    (setThread s c i t).counters = s.counters := rfl
@[simp] theorem setThread_front (s : State) (c i : Nat) (t : Thread) : (setThread s c i t).front = s.front := rfl
@[simp] theorem setThread_life (s : State) (c i : Nat) (t : Thread) : (setThread s c i t).life = s.life := rfl
@[simp] theorem setThread_cc (s : State) (c i : Nat) (t : Thread) : (setThread s c i t).cc = s.cc := rfl
@[simp] theorem setThread_time (s : State) (c i : Nat) (t : Thread) : (setThread s c i t).time = s.time := rfl
@[simp] theorem setThread_booted (s : State) (c i : Nat) (t : Thread) : (setThread s c i t).booted = s.booted := rfl
@[simp] theorem setThread_agenda (s : State) (c i : Nat) (t : Thread) : (setThread s c i t).agenda = s.agenda := rfl
@[simp] theorem setThread_turn (s : State) (c i : Nat) (t : Thread) : (setThread s c i t).turn = s.turn := rfl
@[simp] theorem setThread_serial (s : State) (c i : Nat) (t : Thread) : (setThread s c i t).serial = s.serial := rfl
@[simp] theorem setThread_free (s : State) (c i : Nat) (t : Thread) : (setThread s c i t).free = s.free := rfl
@[simp] theorem setThread_issued (s : State) (c i : Nat) (t : Thread) : (setThread s c i t).issued = s.issued := rfl

@[simp] theorem setFullWord_mem (s : State) (p : Place) (b : Bool) : (setFullWord s p b).mem = s.mem := rfl
@[simp] theorem setFullWord_bads (s : State) (p : Place) (b : Bool) : (setFullWord s p b).bads = s.bads := rfl
@[simp] theorem setFullWord_cores (s : State) (p : Place) (b : Bool) : (setFullWord s p b).cores = s.cores := rfl
@[simp] theorem setFullWord_flight (s : State) (p : Place) (b : Bool) : (setFullWord s p b).flight = s.flight := rfl
@[simp] theorem setFullWord_resvs (s : State) (p : Place) (b : Bool) : (setFullWord s p b).resvs = s.resvs := rfl
@[simp] theorem setFullWord_bankErrs (s : State) (p : Place) (b : Bool) :
    (setFullWord s p b).bankErrs = s.bankErrs := rfl
@[simp] theorem setFullWord_net (s : State) (p : Place) (b : Bool) : (setFullWord s p b).net = s.net := rfl
@[simp] theorem setFullWord_moving (s : State) (p : Place) (b : Bool) : (setFullWord s p b).moving = s.moving := rfl
@[simp] theorem setFullWord_xl (s : State) (p : Place) (b : Bool) : (setFullWord s p b).xl = s.xl := rfl
@[simp] theorem setFullWord_jigs (s : State) (p : Place) (b : Bool) : (setFullWord s p b).jigs = s.jigs := rfl
@[simp] theorem setFullWord_counters (s : State) (p : Place) (b : Bool) :
    (setFullWord s p b).counters = s.counters := rfl
@[simp] theorem setFullWord_front (s : State) (p : Place) (b : Bool) : (setFullWord s p b).front = s.front := rfl
@[simp] theorem setFullWord_life (s : State) (p : Place) (b : Bool) : (setFullWord s p b).life = s.life := rfl
@[simp] theorem setFullWord_cc (s : State) (p : Place) (b : Bool) : (setFullWord s p b).cc = s.cc := rfl
@[simp] theorem setFullWord_time (s : State) (p : Place) (b : Bool) : (setFullWord s p b).time = s.time := rfl
@[simp] theorem setFullWord_booted (s : State) (p : Place) (b : Bool) : (setFullWord s p b).booted = s.booted := rfl
@[simp] theorem setFullWord_agenda (s : State) (p : Place) (b : Bool) : (setFullWord s p b).agenda = s.agenda := rfl
@[simp] theorem setFullWord_turn (s : State) (p : Place) (b : Bool) : (setFullWord s p b).turn = s.turn := rfl
@[simp] theorem setFullWord_serial (s : State) (p : Place) (b : Bool) : (setFullWord s p b).serial = s.serial := rfl
@[simp] theorem setFullWord_free (s : State) (p : Place) (b : Bool) : (setFullWord s p b).free = s.free := rfl
@[simp] theorem setFullWord_issued (s : State) (p : Place) (b : Bool) : (setFullWord s p b).issued = s.issued := rfl

@[simp] theorem setLive_mem (s : State) (n : Nat) (l : Live) : (setLive s n l).mem = s.mem := rfl
@[simp] theorem setLive_empties (s : State) (n : Nat) (l : Live) : (setLive s n l).empties = s.empties := rfl
@[simp] theorem setLive_bads (s : State) (n : Nat) (l : Live) : (setLive s n l).bads = s.bads := rfl
@[simp] theorem setLive_cores (s : State) (n : Nat) (l : Live) : (setLive s n l).cores = s.cores := rfl
@[simp] theorem setLive_flight (s : State) (n : Nat) (l : Live) : (setLive s n l).flight = s.flight := rfl
@[simp] theorem setLive_resvs (s : State) (n : Nat) (l : Live) : (setLive s n l).resvs = s.resvs := rfl
@[simp] theorem setLive_bankErrs (s : State) (n : Nat) (l : Live) : (setLive s n l).bankErrs = s.bankErrs := rfl
@[simp] theorem setLive_net (s : State) (n : Nat) (l : Live) : (setLive s n l).net = s.net := rfl
@[simp] theorem setLive_moving (s : State) (n : Nat) (l : Live) : (setLive s n l).moving = s.moving := rfl
@[simp] theorem setLive_xl (s : State) (n : Nat) (l : Live) : (setLive s n l).xl = s.xl := rfl
@[simp] theorem setLive_jigs (s : State) (n : Nat) (l : Live) : (setLive s n l).jigs = s.jigs := rfl
@[simp] theorem setLive_counters (s : State) (n : Nat) (l : Live) : (setLive s n l).counters = s.counters := rfl
@[simp] theorem setLive_front (s : State) (n : Nat) (l : Live) : (setLive s n l).front = s.front := rfl
@[simp] theorem setLive_cc (s : State) (n : Nat) (l : Live) : (setLive s n l).cc = s.cc := rfl
@[simp] theorem setLive_time (s : State) (n : Nat) (l : Live) : (setLive s n l).time = s.time := rfl
@[simp] theorem setLive_booted (s : State) (n : Nat) (l : Live) : (setLive s n l).booted = s.booted := rfl
@[simp] theorem setLive_agenda (s : State) (n : Nat) (l : Live) : (setLive s n l).agenda = s.agenda := rfl
@[simp] theorem setLive_turn (s : State) (n : Nat) (l : Live) : (setLive s n l).turn = s.turn := rfl
@[simp] theorem setLive_serial (s : State) (n : Nat) (l : Live) : (setLive s n l).serial = s.serial := rfl
@[simp] theorem setLive_free (s : State) (n : Nat) (l : Live) : (setLive s n l).free = s.free := rfl
@[simp] theorem setLive_issued (s : State) (n : Nat) (l : Live) : (setLive s n l).issued = s.issued := rfl

@[simp] theorem countReq_mem (s : State) (d k : Nat) : (countReq s d k).mem = s.mem := rfl
@[simp] theorem countReq_empties (s : State) (d k : Nat) : (countReq s d k).empties = s.empties := rfl
@[simp] theorem countReq_bads (s : State) (d k : Nat) : (countReq s d k).bads = s.bads := rfl
@[simp] theorem countReq_cores (s : State) (d k : Nat) : (countReq s d k).cores = s.cores := rfl
@[simp] theorem countReq_flight (s : State) (d k : Nat) : (countReq s d k).flight = s.flight := rfl
@[simp] theorem countReq_resvs (s : State) (d k : Nat) : (countReq s d k).resvs = s.resvs := rfl
@[simp] theorem countReq_bankErrs (s : State) (d k : Nat) : (countReq s d k).bankErrs = s.bankErrs := rfl
@[simp] theorem countReq_net (s : State) (d k : Nat) : (countReq s d k).net = s.net := rfl
@[simp] theorem countReq_moving (s : State) (d k : Nat) : (countReq s d k).moving = s.moving := rfl
@[simp] theorem countReq_xl (s : State) (d k : Nat) : (countReq s d k).xl = s.xl := rfl
@[simp] theorem countReq_jigs (s : State) (d k : Nat) : (countReq s d k).jigs = s.jigs := rfl
@[simp] theorem countReq_front (s : State) (d k : Nat) : (countReq s d k).front = s.front := rfl
@[simp] theorem countReq_life (s : State) (d k : Nat) : (countReq s d k).life = s.life := rfl
@[simp] theorem countReq_cc (s : State) (d k : Nat) : (countReq s d k).cc = s.cc := rfl
@[simp] theorem countReq_time (s : State) (d k : Nat) : (countReq s d k).time = s.time := rfl
@[simp] theorem countReq_booted (s : State) (d k : Nat) : (countReq s d k).booted = s.booted := rfl
@[simp] theorem countReq_agenda (s : State) (d k : Nat) : (countReq s d k).agenda = s.agenda := rfl
@[simp] theorem countReq_turn (s : State) (d k : Nat) : (countReq s d k).turn = s.turn := rfl
@[simp] theorem countReq_serial (s : State) (d k : Nat) : (countReq s d k).serial = s.serial := rfl
@[simp] theorem countReq_free (s : State) (d k : Nat) : (countReq s d k).free = s.free := rfl
@[simp] theorem countReq_issued (s : State) (d k : Nat) : (countReq s d k).issued = s.issued := rfl

@[simp] theorem setCtl_mem (s : State) (n : Nat) (k : CtlCore) : (setCtl s n k).mem = s.mem := rfl
@[simp] theorem setCtl_empties (s : State) (n : Nat) (k : CtlCore) : (setCtl s n k).empties = s.empties := rfl
@[simp] theorem setCtl_bads (s : State) (n : Nat) (k : CtlCore) : (setCtl s n k).bads = s.bads := rfl
@[simp] theorem setCtl_cores (s : State) (n : Nat) (k : CtlCore) : (setCtl s n k).cores = s.cores := rfl
@[simp] theorem setCtl_flight (s : State) (n : Nat) (k : CtlCore) : (setCtl s n k).flight = s.flight := rfl
@[simp] theorem setCtl_resvs (s : State) (n : Nat) (k : CtlCore) : (setCtl s n k).resvs = s.resvs := rfl
@[simp] theorem setCtl_bankErrs (s : State) (n : Nat) (k : CtlCore) : (setCtl s n k).bankErrs = s.bankErrs := rfl
@[simp] theorem setCtl_net (s : State) (n : Nat) (k : CtlCore) : (setCtl s n k).net = s.net := rfl
@[simp] theorem setCtl_moving (s : State) (n : Nat) (k : CtlCore) : (setCtl s n k).moving = s.moving := rfl
@[simp] theorem setCtl_xl (s : State) (n : Nat) (k : CtlCore) : (setCtl s n k).xl = s.xl := rfl
@[simp] theorem setCtl_jigs (s : State) (n : Nat) (k : CtlCore) : (setCtl s n k).jigs = s.jigs := rfl
@[simp] theorem setCtl_counters (s : State) (n : Nat) (k : CtlCore) : (setCtl s n k).counters = s.counters := rfl
@[simp] theorem setCtl_front (s : State) (n : Nat) (k : CtlCore) : (setCtl s n k).front = s.front := rfl
@[simp] theorem setCtl_life (s : State) (n : Nat) (k : CtlCore) : (setCtl s n k).life = s.life := rfl
@[simp] theorem setCtl_time (s : State) (n : Nat) (k : CtlCore) : (setCtl s n k).time = s.time := rfl
@[simp] theorem setCtl_booted (s : State) (n : Nat) (k : CtlCore) : (setCtl s n k).booted = s.booted := rfl
@[simp] theorem setCtl_agenda (s : State) (n : Nat) (k : CtlCore) : (setCtl s n k).agenda = s.agenda := rfl
@[simp] theorem setCtl_turn (s : State) (n : Nat) (k : CtlCore) : (setCtl s n k).turn = s.turn := rfl
@[simp] theorem setCtl_serial (s : State) (n : Nat) (k : CtlCore) : (setCtl s n k).serial = s.serial := rfl
@[simp] theorem setCtl_free (s : State) (n : Nat) (k : CtlCore) : (setCtl s n k).free = s.free := rfl
@[simp] theorem setCtl_issued (s : State) (n : Nat) (k : CtlCore) : (setCtl s n k).issued = s.issued := rfl

@[simp] theorem dropFlight_mem (s : State) (n : Nat) : (dropFlight s n).mem = s.mem := rfl
@[simp] theorem dropFlight_empties (s : State) (n : Nat) : (dropFlight s n).empties = s.empties := rfl
@[simp] theorem dropFlight_bads (s : State) (n : Nat) : (dropFlight s n).bads = s.bads := rfl
@[simp] theorem dropFlight_cores (s : State) (n : Nat) : (dropFlight s n).cores = s.cores := rfl
@[simp] theorem dropFlight_resvs (s : State) (n : Nat) : (dropFlight s n).resvs = s.resvs := rfl
@[simp] theorem dropFlight_bankErrs (s : State) (n : Nat) : (dropFlight s n).bankErrs = s.bankErrs := rfl
@[simp] theorem dropFlight_net (s : State) (n : Nat) : (dropFlight s n).net = s.net := rfl
@[simp] theorem dropFlight_moving (s : State) (n : Nat) : (dropFlight s n).moving = s.moving := rfl
@[simp] theorem dropFlight_xl (s : State) (n : Nat) : (dropFlight s n).xl = s.xl := rfl
@[simp] theorem dropFlight_jigs (s : State) (n : Nat) : (dropFlight s n).jigs = s.jigs := rfl
@[simp] theorem dropFlight_counters (s : State) (n : Nat) : (dropFlight s n).counters = s.counters := rfl
@[simp] theorem dropFlight_front (s : State) (n : Nat) : (dropFlight s n).front = s.front := rfl
@[simp] theorem dropFlight_life (s : State) (n : Nat) : (dropFlight s n).life = s.life := rfl
@[simp] theorem dropFlight_cc (s : State) (n : Nat) : (dropFlight s n).cc = s.cc := rfl
@[simp] theorem dropFlight_time (s : State) (n : Nat) : (dropFlight s n).time = s.time := rfl
@[simp] theorem dropFlight_booted (s : State) (n : Nat) : (dropFlight s n).booted = s.booted := rfl
@[simp] theorem dropFlight_agenda (s : State) (n : Nat) : (dropFlight s n).agenda = s.agenda := rfl
@[simp] theorem dropFlight_turn (s : State) (n : Nat) : (dropFlight s n).turn = s.turn := rfl
@[simp] theorem dropFlight_serial (s : State) (n : Nat) : (dropFlight s n).serial = s.serial := rfl
@[simp] theorem dropFlight_free (s : State) (n : Nat) : (dropFlight s n).free = s.free := rfl
@[simp] theorem dropFlight_issued (s : State) (n : Nat) : (dropFlight s n).issued = s.issued := rfl

@[simp] theorem setFlight_mem (s : State) (a : Access) : (setFlight s a).mem = s.mem := rfl
@[simp] theorem setFlight_empties (s : State) (a : Access) : (setFlight s a).empties = s.empties := rfl
@[simp] theorem setFlight_bads (s : State) (a : Access) : (setFlight s a).bads = s.bads := rfl
@[simp] theorem setFlight_cores (s : State) (a : Access) : (setFlight s a).cores = s.cores := rfl
@[simp] theorem setFlight_resvs (s : State) (a : Access) : (setFlight s a).resvs = s.resvs := rfl
@[simp] theorem setFlight_bankErrs (s : State) (a : Access) : (setFlight s a).bankErrs = s.bankErrs := rfl
@[simp] theorem setFlight_net (s : State) (a : Access) : (setFlight s a).net = s.net := rfl
@[simp] theorem setFlight_moving (s : State) (a : Access) : (setFlight s a).moving = s.moving := rfl
@[simp] theorem setFlight_xl (s : State) (a : Access) : (setFlight s a).xl = s.xl := rfl
@[simp] theorem setFlight_jigs (s : State) (a : Access) : (setFlight s a).jigs = s.jigs := rfl
@[simp] theorem setFlight_counters (s : State) (a : Access) : (setFlight s a).counters = s.counters := rfl
@[simp] theorem setFlight_front (s : State) (a : Access) : (setFlight s a).front = s.front := rfl
@[simp] theorem setFlight_life (s : State) (a : Access) : (setFlight s a).life = s.life := rfl
@[simp] theorem setFlight_cc (s : State) (a : Access) : (setFlight s a).cc = s.cc := rfl
@[simp] theorem setFlight_time (s : State) (a : Access) : (setFlight s a).time = s.time := rfl
@[simp] theorem setFlight_booted (s : State) (a : Access) : (setFlight s a).booted = s.booted := rfl
@[simp] theorem setFlight_agenda (s : State) (a : Access) : (setFlight s a).agenda = s.agenda := rfl
@[simp] theorem setFlight_turn (s : State) (a : Access) : (setFlight s a).turn = s.turn := rfl
@[simp] theorem setFlight_serial (s : State) (a : Access) : (setFlight s a).serial = s.serial := rfl
@[simp] theorem setFlight_free (s : State) (a : Access) : (setFlight s a).free = s.free := rfl
@[simp] theorem setFlight_issued (s : State) (a : Access) : (setFlight s a).issued = s.issued := rfl


/-! ### A core -/

@[simp] theorem Core_setSlot_cycle (k : Core) (i : Nat) (x : Slot) : (k.setSlot i x).cycle = k.cycle := rfl
@[simp] theorem Core_setSlot_shared (k : Core) (i : Nat) (x : Slot) : (k.setSlot i x).shared = k.shared := rfl
@[simp] theorem Core_setSlot_hsegs (k : Core) (i : Nat) (x : Slot) : (k.setSlot i x).hsegs = k.hsegs := rfl
@[simp] theorem Core_setSlot_chan (k : Core) (i : Nat) (x : Slot) : (k.setSlot i x).chan = k.chan := rfl
@[simp] theorem Core_setSlot_inbox (k : Core) (i : Nat) (x : Slot) : (k.setSlot i x).inbox = k.inbox := rfl
@[simp] theorem Core_setSlot_joint (k : Core) (i : Nat) (x : Slot) : (k.setSlot i x).joint = k.joint := rfl
@[simp] theorem Core_setSlot_arrivals (k : Core) (i : Nat) (x : Slot) : (k.setSlot i x).arrivals = k.arrivals := rfl
@[simp] theorem Core_setSlot_heldPlaces (k : Core) (i : Nat) (x : Slot) :
    (k.setSlot i x).heldPlaces = k.heldPlaces := rfl
@[simp] theorem Core_setSlot_refused (k : Core) (i : Nat) (x : Slot) : (k.setSlot i x).refused = k.refused := rfl
@[simp] theorem Core_setSlot_lookup (k : Core) (i : Nat) (x : Slot) : (k.setSlot i x).lookup = k.lookup := rfl
@[simp] theorem Core_setSlot_tags (k : Core) (i : Nat) (x : Slot) : (k.setSlot i x).tags = k.tags := rfl
@[simp] theorem Core_setSlot_copyQ (k : Core) (i : Nat) (x : Slot) : (k.setSlot i x).copyQ = k.copyQ := rfl
@[simp] theorem Core_setSlot_copyRun (k : Core) (i : Nat) (x : Slot) : (k.setSlot i x).copyRun = k.copyRun := rfl
@[simp] theorem Core_setSlot_matQ (k : Core) (i : Nat) (x : Slot) : (k.setSlot i x).matQ = k.matQ := rfl
@[simp] theorem Core_setSlot_matRun (k : Core) (i : Nat) (x : Slot) : (k.setSlot i x).matRun = k.matRun := rfl
@[simp] theorem Core_setSlot_matWait (k : Core) (i : Nat) (x : Slot) : (k.setSlot i x).matWait = k.matWait := rfl
@[simp] theorem Core_setSlot_matGrant (k : Core) (i : Nat) (x : Slot) : (k.setSlot i x).matGrant = k.matGrant := rfl
@[simp] theorem Core_setSlot_acc (k : Core) (i : Nat) (x : Slot) : (k.setSlot i x).acc = k.acc := rfl
@[simp] theorem Core_setSlot_accStat (k : Core) (i : Nat) (x : Slot) : (k.setSlot i x).accStat = k.accStat := rfl
@[simp] theorem Core_setSlot_accBad (k : Core) (i : Nat) (x : Slot) : (k.setSlot i x).accBad = k.accBad := rfl
@[simp] theorem Core_setSlot_amax (k : Core) (i : Nat) (x : Slot) : (k.setSlot i x).amax = k.amax := rfl
@[simp] theorem Core_setSlot_pwShadow (k : Core) (i : Nat) (x : Slot) : (k.setSlot i x).pwShadow = k.pwShadow := rfl
@[simp] theorem Core_setSlot_pwOver (k : Core) (i : Nat) (x : Slot) : (k.setSlot i x).pwOver = k.pwOver := rfl
@[simp] theorem Core_setSlot_dup (k : Core) (i : Nat) (x : Slot) : (k.setSlot i x).dup = k.dup := rfl
@[simp] theorem Core_setSlot_pairs (k : Core) (i : Nat) (x : Slot) : (k.setSlot i x).pairs = k.pairs := rfl
@[simp] theorem Core_setSlot_store (k : Core) (i : Nat) (x : Slot) : (k.setSlot i x).store = k.store := rfl
@[simp] theorem Core_setSlot_evicting (k : Core) (i : Nat) (x : Slot) : (k.setSlot i x).evicting = k.evicting := rfl
@[simp] theorem Core_setSlot_asked (k : Core) (i : Nat) (x : Slot) : (k.setSlot i x).asked = k.asked := rfl
@[simp] theorem Core_setSlot_paused (k : Core) (i : Nat) (x : Slot) : (k.setSlot i x).paused = k.paused := rfl
@[simp] theorem Core_setSlot_vt (k : Core) (i : Nat) (x : Slot) : (k.setSlot i x).vt = k.vt := rfl
@[simp] theorem Core_setSlot_halted (k : Core) (i : Nat) (x : Slot) : (k.setSlot i x).halted = k.halted := rfl
@[simp] theorem Core_setSlot_breakpoints (k : Core) (i : Nat) (x : Slot) :
    (k.setSlot i x).breakpoints = k.breakpoints := rfl
@[simp] theorem Core_setSlot_nIssued (k : Core) (i : Nat) (x : Slot) : (k.setSlot i x).nIssued = k.nIssued := rfl
@[simp] theorem Core_setSlot_nIdled (k : Core) (i : Nat) (x : Slot) : (k.setSlot i x).nIdled = k.nIdled := rfl
@[simp] theorem Core_setSlot_nVacant (k : Core) (i : Nat) (x : Slot) : (k.setSlot i x).nVacant = k.nVacant := rfl
@[simp] theorem Core_setSlot_nMem (k : Core) (i : Nat) (x : Slot) : (k.setSlot i x).nMem = k.nMem := rfl
@[simp] theorem Core_setSlot_nMsg (k : Core) (i : Nat) (x : Slot) : (k.setSlot i x).nMsg = k.nMsg := rfl
@[simp] theorem Core_setSlot_rot (k : Core) (i : Nat) (x : Slot) : (k.setSlot i x).rot = k.rot := rfl
@[simp] theorem Core_setSlot_hist (k : Core) (i : Nat) (x : Slot) : (k.setSlot i x).hist = k.hist := rfl
@[simp] theorem Core_setSlot_lastTrace (k : Core) (i : Nat) (x : Slot) :
    (k.setSlot i x).lastTrace = k.lastTrace := rfl
@[simp] theorem Core_setSlot_sampled (k : Core) (i : Nat) (x : Slot) : (k.setSlot i x).sampled = k.sampled := rfl
@[simp] theorem Core_setSlot_sampling (k : Core) (i : Nat) (x : Slot) : (k.setSlot i x).sampling = k.sampling := rfl


/-! ### A thread -/

@[simp] theorem wrReg_pc (t : Thread) (n : Nat) (v : Word) : (wrReg t n v).pc = t.pc := by unfold wrReg; split <;> rfl
@[simp] theorem wrReg_f (t : Thread) (n : Nat) (v : Word) : (wrReg t n v).f = t.f := by unfold wrReg; split <;> rfl
@[simp] theorem wrReg_lim (t : Thread) (n : Nat) (v : Word) :
    (wrReg t n v).lim = t.lim := by unfold wrReg; split <;> rfl
@[simp] theorem wrReg_fpst (t : Thread) (n : Nat) (v : Word) :
    (wrReg t n v).fpst = t.fpst := by unfold wrReg; split <;> rfl
@[simp] theorem wrReg_wlim (t : Thread) (n : Nat) (v : Word) :
    (wrReg t n v).wlim = t.wlim := by unfold wrReg; split <;> rfl
@[simp] theorem wrReg_tvec (t : Thread) (n : Nat) (v : Word) :
    (wrReg t n v).tvec = t.tvec := by unfold wrReg; split <;> rfl
@[simp] theorem wrReg_upc (t : Thread) (n : Nat) (v : Word) :
    (wrReg t n v).upc = t.upc := by unfold wrReg; split <;> rfl
@[simp] theorem wrReg_tcause (t : Thread) (n : Nat) (v : Word) :
    (wrReg t n v).tcause = t.tcause := by unfold wrReg; split <;> rfl
@[simp] theorem wrReg_tpc (t : Thread) (n : Nat) (v : Word) :
    (wrReg t n v).tpc = t.tpc := by unfold wrReg; split <;> rfl
@[simp] theorem wrReg_tval (t : Thread) (n : Nat) (v : Word) :
    (wrReg t n v).tval = t.tval := by unfold wrReg; split <;> rfl
@[simp] theorem wrReg_qbase (t : Thread) (n : Nat) (v : Word) :
    (wrReg t n v).qbase = t.qbase := by unfold wrReg; split <;> rfl
@[simp] theorem wrReg_qstride (t : Thread) (n : Nat) (v : Word) :
    (wrReg t n v).qstride = t.qstride := by unfold wrReg; split <;> rfl
@[simp] theorem wrReg_ecost (t : Thread) (n : Nat) (v : Word) :
    (wrReg t n v).ecost = t.ecost := by unfold wrReg; split <;> rfl
@[simp] theorem wrReg_wear (t : Thread) (n : Nat) (v : Word) :
    (wrReg t n v).wear = t.wear := by unfold wrReg; split <;> rfl
@[simp] theorem wrReg_wearPart (t : Thread) (n : Nat) (v : Word) :
    (wrReg t n v).wearPart = t.wearPart := by unfold wrReg; split <;> rfl
@[simp] theorem wrReg_rank (t : Thread) (n : Nat) (v : Word) :
    (wrReg t n v).rank = t.rank := by unfold wrReg; split <;> rfl
@[simp] theorem wrReg_npop (t : Thread) (n : Nat) (v : Word) :
    (wrReg t n v).npop = t.npop := by unfold wrReg; split <;> rfl
@[simp] theorem wrReg_lid (t : Thread) (n : Nat) (v : Word) :
    (wrReg t n v).lid = t.lid := by unfold wrReg; split <;> rfl
@[simp] theorem wrReg_asn (t : Thread) (n : Nat) (v : Word) :
    (wrReg t n v).asn = t.asn := by unfold wrReg; split <;> rfl
@[simp] theorem wrReg_timeLatch (t : Thread) (n : Nat) (v : Word) :
    (wrReg t n v).timeLatch = t.timeLatch := by unfold wrReg; split <;> rfl
@[simp] theorem wrReg_m (t : Thread) (n : Nat) (v : Word) : (wrReg t n v).m = t.m := by unfold wrReg; split <;> rfl
@[simp] theorem wrReg_md (t : Thread) (n : Nat) (v : Word) : (wrReg t n v).md = t.md := by unfold wrReg; split <;> rfl
@[simp] theorem wrReg_convoy (t : Thread) (n : Nat) (v : Word) :
    (wrReg t n v).convoy = t.convoy := by unfold wrReg; split <;> rfl
@[simp] theorem wrReg_triggered (t : Thread) (n : Nat) (v : Word) :
    (wrReg t n v).triggered = t.triggered := by unfold wrReg; split <;> rfl
@[simp] theorem wrReg_segs (t : Thread) (n : Nat) (v : Word) :
    (wrReg t n v).segs = t.segs := by unfold wrReg; split <;> rfl
@[simp] theorem wrReg_envs (t : Thread) (n : Nat) (v : Word) :
    (wrReg t n v).envs = t.envs := by unfold wrReg; split <;> rfl
@[simp] theorem wrReg_streams (t : Thread) (n : Nat) (v : Word) :
    (wrReg t n v).streams = t.streams := by unfold wrReg; split <;> rfl
@[simp] theorem wrReg_watches (t : Thread) (n : Nat) (v : Word) :
    (wrReg t n v).watches = t.watches := by unfold wrReg; split <;> rfl
@[simp] theorem wrReg_wake (t : Thread) (n : Nat) (v : Word) :
    (wrReg t n v).wake = t.wake := by unfold wrReg; split <;> rfl
@[simp] theorem wrReg_kind (t : Thread) (n : Nat) (v : Word) :
    (wrReg t n v).kind = t.kind := by unfold wrReg; split <;> rfl
@[simp] theorem wrReg_role (t : Thread) (n : Nat) (v : Word) :
    (wrReg t n v).role = t.role := by unfold wrReg; split <;> rfl
@[simp] theorem wrReg_status (t : Thread) (n : Nat) (v : Word) :
    (wrReg t n v).status = t.status := by unfold wrReg; split <;> rfl
@[simp] theorem wrReg_stopped (t : Thread) (n : Nat) (v : Word) :
    (wrReg t n v).stopped = t.stopped := by unfold wrReg; split <;> rfl
@[simp] theorem wrReg_stopReq (t : Thread) (n : Nat) (v : Word) :
    (wrReg t n v).stopReq = t.stopReq := by unfold wrReg; split <;> rfl
@[simp] theorem wrReg_hold (t : Thread) (n : Nat) (v : Word) :
    (wrReg t n v).hold = t.hold := by unfold wrReg; split <;> rfl
@[simp] theorem wrReg_lifted (t : Thread) (n : Nat) (v : Word) :
    (wrReg t n v).lifted = t.lifted := by unfold wrReg; split <;> rfl
@[simp] theorem wrReg_pend (t : Thread) (n : Nat) (v : Word) :
    (wrReg t n v).pend = t.pend := by unfold wrReg; split <;> rfl
@[simp] theorem wrReg_waitFrom (t : Thread) (n : Nat) (v : Word) :
    (wrReg t n v).waitFrom = t.waitFrom := by unfold wrReg; split <;> rfl
@[simp] theorem wrReg_readyAt (t : Thread) (n : Nat) (v : Word) :
    (wrReg t n v).readyAt = t.readyAt := by unfold wrReg; split <;> rfl
@[simp] theorem wrReg_faultPage (t : Thread) (n : Nat) (v : Word) :
    (wrReg t n v).faultPage = t.faultPage := by unfold wrReg; split <;> rfl
@[simp] theorem wrReg_missAt (t : Thread) (n : Nat) (v : Word) :
    (wrReg t n v).missAt = t.missAt := by unfold wrReg; split <;> rfl
@[simp] theorem wrReg_late (t : Thread) (n : Nat) (v : Word) :
    (wrReg t n v).late = t.late := by unfold wrReg; split <;> rfl
@[simp] theorem wrReg_killed (t : Thread) (n : Nat) (v : Word) :
    (wrReg t n v).killed = t.killed := by unfold wrReg; split <;> rfl
@[simp] theorem wrReg_joinPending (t : Thread) (n : Nat) (v : Word) :
    (wrReg t n v).joinPending = t.joinPending := by unfold wrReg; split <;> rfl
@[simp] theorem wrReg_holdReq (t : Thread) (n : Nat) (v : Word) :
    (wrReg t n v).holdReq = t.holdReq := by unfold wrReg; split <;> rfl
@[simp] theorem wrReg_byError (t : Thread) (n : Nat) (v : Word) :
    (wrReg t n v).byError = t.byError := by unfold wrReg; split <;> rfl
@[simp] theorem wrReg_heldAt (t : Thread) (n : Nat) (v : Word) :
    (wrReg t n v).heldAt = t.heldAt := by unfold wrReg; split <;> rfl

@[simp] theorem emptyReg_pc (t : Thread) (n : Nat) : (emptyReg t n).pc = t.pc := by unfold emptyReg; split <;> rfl
@[simp] theorem emptyReg_regs (t : Thread) (n : Nat) :
    (emptyReg t n).regs = t.regs := by unfold emptyReg; split <;> rfl
@[simp] theorem emptyReg_f (t : Thread) (n : Nat) : (emptyReg t n).f = t.f := by unfold emptyReg; split <;> rfl
@[simp] theorem emptyReg_lim (t : Thread) (n : Nat) : (emptyReg t n).lim = t.lim := by unfold emptyReg; split <;> rfl
@[simp] theorem emptyReg_fpst (t : Thread) (n : Nat) :
    (emptyReg t n).fpst = t.fpst := by unfold emptyReg; split <;> rfl
@[simp] theorem emptyReg_wlim (t : Thread) (n : Nat) :
    (emptyReg t n).wlim = t.wlim := by unfold emptyReg; split <;> rfl
@[simp] theorem emptyReg_tvec (t : Thread) (n : Nat) :
    (emptyReg t n).tvec = t.tvec := by unfold emptyReg; split <;> rfl
@[simp] theorem emptyReg_upc (t : Thread) (n : Nat) : (emptyReg t n).upc = t.upc := by unfold emptyReg; split <;> rfl
@[simp] theorem emptyReg_tcause (t : Thread) (n : Nat) :
    (emptyReg t n).tcause = t.tcause := by unfold emptyReg; split <;> rfl
@[simp] theorem emptyReg_tpc (t : Thread) (n : Nat) : (emptyReg t n).tpc = t.tpc := by unfold emptyReg; split <;> rfl
@[simp] theorem emptyReg_tval (t : Thread) (n : Nat) :
    (emptyReg t n).tval = t.tval := by unfold emptyReg; split <;> rfl
@[simp] theorem emptyReg_qbase (t : Thread) (n : Nat) :
    (emptyReg t n).qbase = t.qbase := by unfold emptyReg; split <;> rfl
@[simp] theorem emptyReg_qstride (t : Thread) (n : Nat) :
    (emptyReg t n).qstride = t.qstride := by unfold emptyReg; split <;> rfl
@[simp] theorem emptyReg_ecost (t : Thread) (n : Nat) :
    (emptyReg t n).ecost = t.ecost := by unfold emptyReg; split <;> rfl
@[simp] theorem emptyReg_wear (t : Thread) (n : Nat) :
    (emptyReg t n).wear = t.wear := by unfold emptyReg; split <;> rfl
@[simp] theorem emptyReg_wearPart (t : Thread) (n : Nat) :
    (emptyReg t n).wearPart = t.wearPart := by unfold emptyReg; split <;> rfl
@[simp] theorem emptyReg_rank (t : Thread) (n : Nat) :
    (emptyReg t n).rank = t.rank := by unfold emptyReg; split <;> rfl
@[simp] theorem emptyReg_npop (t : Thread) (n : Nat) :
    (emptyReg t n).npop = t.npop := by unfold emptyReg; split <;> rfl
@[simp] theorem emptyReg_lid (t : Thread) (n : Nat) : (emptyReg t n).lid = t.lid := by unfold emptyReg; split <;> rfl
@[simp] theorem emptyReg_asn (t : Thread) (n : Nat) : (emptyReg t n).asn = t.asn := by unfold emptyReg; split <;> rfl
@[simp] theorem emptyReg_timeLatch (t : Thread) (n : Nat) :
    (emptyReg t n).timeLatch = t.timeLatch := by unfold emptyReg; split <;> rfl
@[simp] theorem emptyReg_m (t : Thread) (n : Nat) : (emptyReg t n).m = t.m := by unfold emptyReg; split <;> rfl
@[simp] theorem emptyReg_md (t : Thread) (n : Nat) : (emptyReg t n).md = t.md := by unfold emptyReg; split <;> rfl
@[simp] theorem emptyReg_convoy (t : Thread) (n : Nat) :
    (emptyReg t n).convoy = t.convoy := by unfold emptyReg; split <;> rfl
@[simp] theorem emptyReg_triggered (t : Thread) (n : Nat) :
    (emptyReg t n).triggered = t.triggered := by unfold emptyReg; split <;> rfl
@[simp] theorem emptyReg_segs (t : Thread) (n : Nat) :
    (emptyReg t n).segs = t.segs := by unfold emptyReg; split <;> rfl
@[simp] theorem emptyReg_envs (t : Thread) (n : Nat) :
    (emptyReg t n).envs = t.envs := by unfold emptyReg; split <;> rfl
@[simp] theorem emptyReg_streams (t : Thread) (n : Nat) :
    (emptyReg t n).streams = t.streams := by unfold emptyReg; split <;> rfl
@[simp] theorem emptyReg_watches (t : Thread) (n : Nat) :
    (emptyReg t n).watches = t.watches := by unfold emptyReg; split <;> rfl
@[simp] theorem emptyReg_wake (t : Thread) (n : Nat) :
    (emptyReg t n).wake = t.wake := by unfold emptyReg; split <;> rfl
@[simp] theorem emptyReg_kind (t : Thread) (n : Nat) :
    (emptyReg t n).kind = t.kind := by unfold emptyReg; split <;> rfl
@[simp] theorem emptyReg_role (t : Thread) (n : Nat) :
    (emptyReg t n).role = t.role := by unfold emptyReg; split <;> rfl
@[simp] theorem emptyReg_status (t : Thread) (n : Nat) :
    (emptyReg t n).status = t.status := by unfold emptyReg; split <;> rfl
@[simp] theorem emptyReg_stopped (t : Thread) (n : Nat) :
    (emptyReg t n).stopped = t.stopped := by unfold emptyReg; split <;> rfl
@[simp] theorem emptyReg_stopReq (t : Thread) (n : Nat) :
    (emptyReg t n).stopReq = t.stopReq := by unfold emptyReg; split <;> rfl
@[simp] theorem emptyReg_hold (t : Thread) (n : Nat) :
    (emptyReg t n).hold = t.hold := by unfold emptyReg; split <;> rfl
@[simp] theorem emptyReg_lifted (t : Thread) (n : Nat) :
    (emptyReg t n).lifted = t.lifted := by unfold emptyReg; split <;> rfl
@[simp] theorem emptyReg_pend (t : Thread) (n : Nat) :
    (emptyReg t n).pend = t.pend := by unfold emptyReg; split <;> rfl
@[simp] theorem emptyReg_waitFrom (t : Thread) (n : Nat) :
    (emptyReg t n).waitFrom = t.waitFrom := by unfold emptyReg; split <;> rfl
@[simp] theorem emptyReg_readyAt (t : Thread) (n : Nat) :
    (emptyReg t n).readyAt = t.readyAt := by unfold emptyReg; split <;> rfl
@[simp] theorem emptyReg_faultPage (t : Thread) (n : Nat) :
    (emptyReg t n).faultPage = t.faultPage := by unfold emptyReg; split <;> rfl
@[simp] theorem emptyReg_missAt (t : Thread) (n : Nat) :
    (emptyReg t n).missAt = t.missAt := by unfold emptyReg; split <;> rfl
@[simp] theorem emptyReg_late (t : Thread) (n : Nat) :
    (emptyReg t n).late = t.late := by unfold emptyReg; split <;> rfl
@[simp] theorem emptyReg_killed (t : Thread) (n : Nat) :
    (emptyReg t n).killed = t.killed := by unfold emptyReg; split <;> rfl
@[simp] theorem emptyReg_joinPending (t : Thread) (n : Nat) :
    (emptyReg t n).joinPending = t.joinPending := by unfold emptyReg; split <;> rfl
@[simp] theorem emptyReg_holdReq (t : Thread) (n : Nat) :
    (emptyReg t n).holdReq = t.holdReq := by unfold emptyReg; split <;> rfl
@[simp] theorem emptyReg_byError (t : Thread) (n : Nat) :
    (emptyReg t n).byError = t.byError := by unfold emptyReg; split <;> rfl
@[simp] theorem emptyReg_heldAt (t : Thread) (n : Nat) :
    (emptyReg t n).heldAt = t.heldAt := by unfold emptyReg; split <;> rfl

@[simp] theorem setFlag_pc (t : Thread) (n : Nat) (b : Bool) :
    (setFlag t n b).pc = t.pc := by unfold setFlag; split <;> rfl
@[simp] theorem setFlag_regs (t : Thread) (n : Nat) (b : Bool) :
    (setFlag t n b).regs = t.regs := by unfold setFlag; split <;> rfl
@[simp] theorem setFlag_full (t : Thread) (n : Nat) (b : Bool) :
    (setFlag t n b).full = t.full := by unfold setFlag; split <;> rfl
@[simp] theorem setFlag_lim (t : Thread) (n : Nat) (b : Bool) :
    (setFlag t n b).lim = t.lim := by unfold setFlag; split <;> rfl
@[simp] theorem setFlag_fpst (t : Thread) (n : Nat) (b : Bool) :
    (setFlag t n b).fpst = t.fpst := by unfold setFlag; split <;> rfl
@[simp] theorem setFlag_wlim (t : Thread) (n : Nat) (b : Bool) :
    (setFlag t n b).wlim = t.wlim := by unfold setFlag; split <;> rfl
@[simp] theorem setFlag_tvec (t : Thread) (n : Nat) (b : Bool) :
    (setFlag t n b).tvec = t.tvec := by unfold setFlag; split <;> rfl
@[simp] theorem setFlag_upc (t : Thread) (n : Nat) (b : Bool) :
    (setFlag t n b).upc = t.upc := by unfold setFlag; split <;> rfl
@[simp] theorem setFlag_tcause (t : Thread) (n : Nat) (b : Bool) :
    (setFlag t n b).tcause = t.tcause := by unfold setFlag; split <;> rfl
@[simp] theorem setFlag_tpc (t : Thread) (n : Nat) (b : Bool) :
    (setFlag t n b).tpc = t.tpc := by unfold setFlag; split <;> rfl
@[simp] theorem setFlag_tval (t : Thread) (n : Nat) (b : Bool) :
    (setFlag t n b).tval = t.tval := by unfold setFlag; split <;> rfl
@[simp] theorem setFlag_qbase (t : Thread) (n : Nat) (b : Bool) :
    (setFlag t n b).qbase = t.qbase := by unfold setFlag; split <;> rfl
@[simp] theorem setFlag_qstride (t : Thread) (n : Nat) (b : Bool) :
    (setFlag t n b).qstride = t.qstride := by unfold setFlag; split <;> rfl
@[simp] theorem setFlag_ecost (t : Thread) (n : Nat) (b : Bool) :
    (setFlag t n b).ecost = t.ecost := by unfold setFlag; split <;> rfl
@[simp] theorem setFlag_wear (t : Thread) (n : Nat) (b : Bool) :
    (setFlag t n b).wear = t.wear := by unfold setFlag; split <;> rfl
@[simp] theorem setFlag_wearPart (t : Thread) (n : Nat) (b : Bool) :
    (setFlag t n b).wearPart = t.wearPart := by unfold setFlag; split <;> rfl
@[simp] theorem setFlag_rank (t : Thread) (n : Nat) (b : Bool) :
    (setFlag t n b).rank = t.rank := by unfold setFlag; split <;> rfl
@[simp] theorem setFlag_npop (t : Thread) (n : Nat) (b : Bool) :
    (setFlag t n b).npop = t.npop := by unfold setFlag; split <;> rfl
@[simp] theorem setFlag_lid (t : Thread) (n : Nat) (b : Bool) :
    (setFlag t n b).lid = t.lid := by unfold setFlag; split <;> rfl
@[simp] theorem setFlag_asn (t : Thread) (n : Nat) (b : Bool) :
    (setFlag t n b).asn = t.asn := by unfold setFlag; split <;> rfl
@[simp] theorem setFlag_timeLatch (t : Thread) (n : Nat) (b : Bool) :
    (setFlag t n b).timeLatch = t.timeLatch := by unfold setFlag; split <;> rfl
@[simp] theorem setFlag_m (t : Thread) (n : Nat) (b : Bool) :
    (setFlag t n b).m = t.m := by unfold setFlag; split <;> rfl
@[simp] theorem setFlag_md (t : Thread) (n : Nat) (b : Bool) :
    (setFlag t n b).md = t.md := by unfold setFlag; split <;> rfl
@[simp] theorem setFlag_convoy (t : Thread) (n : Nat) (b : Bool) :
    (setFlag t n b).convoy = t.convoy := by unfold setFlag; split <;> rfl
@[simp] theorem setFlag_triggered (t : Thread) (n : Nat) (b : Bool) :
    (setFlag t n b).triggered = t.triggered := by unfold setFlag; split <;> rfl
@[simp] theorem setFlag_segs (t : Thread) (n : Nat) (b : Bool) :
    (setFlag t n b).segs = t.segs := by unfold setFlag; split <;> rfl
@[simp] theorem setFlag_envs (t : Thread) (n : Nat) (b : Bool) :
    (setFlag t n b).envs = t.envs := by unfold setFlag; split <;> rfl
@[simp] theorem setFlag_streams (t : Thread) (n : Nat) (b : Bool) :
    (setFlag t n b).streams = t.streams := by unfold setFlag; split <;> rfl
@[simp] theorem setFlag_watches (t : Thread) (n : Nat) (b : Bool) :
    (setFlag t n b).watches = t.watches := by unfold setFlag; split <;> rfl
@[simp] theorem setFlag_wake (t : Thread) (n : Nat) (b : Bool) :
    (setFlag t n b).wake = t.wake := by unfold setFlag; split <;> rfl
@[simp] theorem setFlag_kind (t : Thread) (n : Nat) (b : Bool) :
    (setFlag t n b).kind = t.kind := by unfold setFlag; split <;> rfl
@[simp] theorem setFlag_role (t : Thread) (n : Nat) (b : Bool) :
    (setFlag t n b).role = t.role := by unfold setFlag; split <;> rfl
@[simp] theorem setFlag_status (t : Thread) (n : Nat) (b : Bool) :
    (setFlag t n b).status = t.status := by unfold setFlag; split <;> rfl
@[simp] theorem setFlag_stopped (t : Thread) (n : Nat) (b : Bool) :
    (setFlag t n b).stopped = t.stopped := by unfold setFlag; split <;> rfl
@[simp] theorem setFlag_stopReq (t : Thread) (n : Nat) (b : Bool) :
    (setFlag t n b).stopReq = t.stopReq := by unfold setFlag; split <;> rfl
@[simp] theorem setFlag_hold (t : Thread) (n : Nat) (b : Bool) :
    (setFlag t n b).hold = t.hold := by unfold setFlag; split <;> rfl
@[simp] theorem setFlag_lifted (t : Thread) (n : Nat) (b : Bool) :
    (setFlag t n b).lifted = t.lifted := by unfold setFlag; split <;> rfl
@[simp] theorem setFlag_pend (t : Thread) (n : Nat) (b : Bool) :
    (setFlag t n b).pend = t.pend := by unfold setFlag; split <;> rfl
@[simp] theorem setFlag_waitFrom (t : Thread) (n : Nat) (b : Bool) :
    (setFlag t n b).waitFrom = t.waitFrom := by unfold setFlag; split <;> rfl
@[simp] theorem setFlag_readyAt (t : Thread) (n : Nat) (b : Bool) :
    (setFlag t n b).readyAt = t.readyAt := by unfold setFlag; split <;> rfl
@[simp] theorem setFlag_faultPage (t : Thread) (n : Nat) (b : Bool) :
    (setFlag t n b).faultPage = t.faultPage := by unfold setFlag; split <;> rfl
@[simp] theorem setFlag_missAt (t : Thread) (n : Nat) (b : Bool) :
    (setFlag t n b).missAt = t.missAt := by unfold setFlag; split <;> rfl
@[simp] theorem setFlag_late (t : Thread) (n : Nat) (b : Bool) :
    (setFlag t n b).late = t.late := by unfold setFlag; split <;> rfl
@[simp] theorem setFlag_killed (t : Thread) (n : Nat) (b : Bool) :
    (setFlag t n b).killed = t.killed := by unfold setFlag; split <;> rfl
@[simp] theorem setFlag_joinPending (t : Thread) (n : Nat) (b : Bool) :
    (setFlag t n b).joinPending = t.joinPending := by unfold setFlag; split <;> rfl
@[simp] theorem setFlag_holdReq (t : Thread) (n : Nat) (b : Bool) :
    (setFlag t n b).holdReq = t.holdReq := by unfold setFlag; split <;> rfl
@[simp] theorem setFlag_byError (t : Thread) (n : Nat) (b : Bool) :
    (setFlag t n b).byError = t.byError := by unfold setFlag; split <;> rfl
@[simp] theorem setFlag_heldAt (t : Thread) (n : Nat) (b : Bool) :
    (setFlag t n b).heldAt = t.heldAt := by unfold setFlag; split <;> rfl

@[simp] theorem chargeThread_pc (t : Thread) (n : Nat) : (chargeThread t n).pc = t.pc := rfl
@[simp] theorem chargeThread_regs (t : Thread) (n : Nat) : (chargeThread t n).regs = t.regs := rfl
@[simp] theorem chargeThread_full (t : Thread) (n : Nat) : (chargeThread t n).full = t.full := rfl
@[simp] theorem chargeThread_f (t : Thread) (n : Nat) : (chargeThread t n).f = t.f := rfl
@[simp] theorem chargeThread_lim (t : Thread) (n : Nat) : (chargeThread t n).lim = t.lim := rfl
@[simp] theorem chargeThread_fpst (t : Thread) (n : Nat) : (chargeThread t n).fpst = t.fpst := rfl
@[simp] theorem chargeThread_wlim (t : Thread) (n : Nat) : (chargeThread t n).wlim = t.wlim := rfl
@[simp] theorem chargeThread_tvec (t : Thread) (n : Nat) : (chargeThread t n).tvec = t.tvec := rfl
@[simp] theorem chargeThread_upc (t : Thread) (n : Nat) : (chargeThread t n).upc = t.upc := rfl
@[simp] theorem chargeThread_tcause (t : Thread) (n : Nat) : (chargeThread t n).tcause = t.tcause := rfl
@[simp] theorem chargeThread_tpc (t : Thread) (n : Nat) : (chargeThread t n).tpc = t.tpc := rfl
@[simp] theorem chargeThread_tval (t : Thread) (n : Nat) : (chargeThread t n).tval = t.tval := rfl
@[simp] theorem chargeThread_qbase (t : Thread) (n : Nat) : (chargeThread t n).qbase = t.qbase := rfl
@[simp] theorem chargeThread_qstride (t : Thread) (n : Nat) : (chargeThread t n).qstride = t.qstride := rfl
@[simp] theorem chargeThread_ecost (t : Thread) (n : Nat) : (chargeThread t n).ecost = t.ecost := rfl
@[simp] theorem chargeThread_rank (t : Thread) (n : Nat) : (chargeThread t n).rank = t.rank := rfl
@[simp] theorem chargeThread_npop (t : Thread) (n : Nat) : (chargeThread t n).npop = t.npop := rfl
@[simp] theorem chargeThread_lid (t : Thread) (n : Nat) : (chargeThread t n).lid = t.lid := rfl
@[simp] theorem chargeThread_asn (t : Thread) (n : Nat) : (chargeThread t n).asn = t.asn := rfl
@[simp] theorem chargeThread_timeLatch (t : Thread) (n : Nat) : (chargeThread t n).timeLatch = t.timeLatch := rfl
@[simp] theorem chargeThread_m (t : Thread) (n : Nat) : (chargeThread t n).m = t.m := rfl
@[simp] theorem chargeThread_md (t : Thread) (n : Nat) : (chargeThread t n).md = t.md := rfl
@[simp] theorem chargeThread_convoy (t : Thread) (n : Nat) : (chargeThread t n).convoy = t.convoy := rfl
@[simp] theorem chargeThread_triggered (t : Thread) (n : Nat) : (chargeThread t n).triggered = t.triggered := rfl
@[simp] theorem chargeThread_segs (t : Thread) (n : Nat) : (chargeThread t n).segs = t.segs := rfl
@[simp] theorem chargeThread_envs (t : Thread) (n : Nat) : (chargeThread t n).envs = t.envs := rfl
@[simp] theorem chargeThread_streams (t : Thread) (n : Nat) : (chargeThread t n).streams = t.streams := rfl
@[simp] theorem chargeThread_watches (t : Thread) (n : Nat) : (chargeThread t n).watches = t.watches := rfl
@[simp] theorem chargeThread_wake (t : Thread) (n : Nat) : (chargeThread t n).wake = t.wake := rfl
@[simp] theorem chargeThread_kind (t : Thread) (n : Nat) : (chargeThread t n).kind = t.kind := rfl
@[simp] theorem chargeThread_role (t : Thread) (n : Nat) : (chargeThread t n).role = t.role := rfl
@[simp] theorem chargeThread_status (t : Thread) (n : Nat) : (chargeThread t n).status = t.status := rfl
@[simp] theorem chargeThread_stopped (t : Thread) (n : Nat) : (chargeThread t n).stopped = t.stopped := rfl
@[simp] theorem chargeThread_stopReq (t : Thread) (n : Nat) : (chargeThread t n).stopReq = t.stopReq := rfl
@[simp] theorem chargeThread_hold (t : Thread) (n : Nat) : (chargeThread t n).hold = t.hold := rfl
@[simp] theorem chargeThread_lifted (t : Thread) (n : Nat) : (chargeThread t n).lifted = t.lifted := rfl
@[simp] theorem chargeThread_pend (t : Thread) (n : Nat) : (chargeThread t n).pend = t.pend := rfl
@[simp] theorem chargeThread_waitFrom (t : Thread) (n : Nat) : (chargeThread t n).waitFrom = t.waitFrom := rfl
@[simp] theorem chargeThread_readyAt (t : Thread) (n : Nat) : (chargeThread t n).readyAt = t.readyAt := rfl
@[simp] theorem chargeThread_faultPage (t : Thread) (n : Nat) : (chargeThread t n).faultPage = t.faultPage := rfl
@[simp] theorem chargeThread_missAt (t : Thread) (n : Nat) : (chargeThread t n).missAt = t.missAt := rfl
@[simp] theorem chargeThread_late (t : Thread) (n : Nat) : (chargeThread t n).late = t.late := rfl
@[simp] theorem chargeThread_killed (t : Thread) (n : Nat) : (chargeThread t n).killed = t.killed := rfl
@[simp] theorem chargeThread_joinPending (t : Thread) (n : Nat) :
    (chargeThread t n).joinPending = t.joinPending := rfl
@[simp] theorem chargeThread_holdReq (t : Thread) (n : Nat) : (chargeThread t n).holdReq = t.holdReq := rfl
@[simp] theorem chargeThread_byError (t : Thread) (n : Nat) : (chargeThread t n).byError = t.byError := rfl
@[simp] theorem chargeThread_heldAt (t : Thread) (n : Nat) : (chargeThread t n).heldAt = t.heldAt := rfl

end Sys2Proof.Machine
end

