-- ==== Sys2Proof/Tests/Slice0.lean ====
section
/-! SUPPORT. Tests: ill-formed instructions are refused, words written out from the spec's encodings decode to what they
stand for, single steps give the values that the rules give, and the hypotheses of every statement are met together. -/

namespace Sys2Proof.Tests

open Sys2Proof Sys2Proof.Machine

set_option Elab.async false

/-! ### Small states -/

def p0 : Pfx := ⟨false, 0⟩
def i0 : Imm := ⟨0, 0⟩

/-- A segment of each type: sg0 CODE, sg1 LOCAL, sg2 QUAD, sg3 DIE, sg4 GLOBAL, sg5 SPREAD over core 0, sg6 REMOTE to core
0, sg7 NONE. -/
def segs0 : Vector (BitVec 128) 8 :=
  #v[mkSeg 1 0 0x3FFF 0b101000 0, mkSeg 2 0 0xFFFF 0b110111 0, mkSeg 3 0 0x1FFFF 0b110111 0,
    mkSeg 4 0 0xFFFFF 0b110101 0, mkSeg 5 0 0xFFFFF 0b110101 0, mkSeg 6 0 0xFFFF 0b110110 0,
    mkSeg 7 0 0xFFFF 0b110110 0, 0]

def t0 : Thread := { Thread.blank with lim := 128, segs := segs0 }

/-- Core 0 alone, in the cycle of slot `i`, which holds `t`. -/
def core0 (i : Nat) (t : Thread) : Core :=
  { Core.blank true with cycle := i, slots := (Vector.replicate 16 Slot.empty).set! i ⟨.thread t, none⟩ }
def st (i : Nat) (t : Thread) : State :=
  { State.reset with cores := [(0, core0 i t)], booted := true, agenda := [], cc := { Control.blank with dies := 0xF } }
/-- A state with its one core changed. -/
def withCore (s : State) (f : Core → Core) : State := { s with cores := s.cores.map fun e => (e.1, f e.2) }

/-- A thread with registers written. -/
def regsOf (t : Thread) (l : List (Nat × Word)) : Thread := l.foldl (fun t e => wrReg t e.1 e.2) t
def tr (l : List (Nat × Word)) : Thread := regsOf t0 l

def issuesB (u : Use) (s : State) (t : Thread) : Bool :=
  decide (threadAt s s.turn (curSlot s) = some t) && decide (t.role = .alone) && decide (t.late = none) &&
    (decide (u.guard = 0) || getFlag t u.guard.toNat) && (!u.priv || curSlot s == 0) &&
    u.names.all (fun n => decide (n < t.lim)) && u.srcs.all (isFull t) &&
    (streamTrap t (u.sync ++ u.writes t)).isNone &&
    !streamBusy (getCore s s.turn) (curSlot s) t (u.srcs ++ u.writes t) && !storeBusy t (u.writes t)

theorem issues_of {u : Use} {s : State} {t : Thread} (h : issuesB u s t = true) : Issues u s t := by
  simp only [issuesB, Bool.and_eq_true, Bool.or_eq_true, decide_eq_true_eq, List.all_eq_true, Bool.not_eq_true',
    beq_iff_eq, Option.isNone_iff_eq_none] at h
  obtain ⟨⟨⟨⟨⟨⟨⟨⟨⟨a, b⟩, c⟩, d⟩, e⟩, f⟩, g⟩, i⟩, j⟩, k⟩ := h
  exact ⟨a, b, c, d, fun hp => e.resolve_left (by simp [hp]), f, g, i, j, k⟩

/-- The slot whose cycle it is, where core 0 stands alone and its slots hold `t` in slot `i`. -/
theorem here_in (i : Nat) {s : State} {t : Thread} {k : Core} (hi : i < 16 := by decide)
    (hc : s.cores = [(0, k)] := by rfl) (ht : s.turn = 0 := by rfl) (hs : k.slots = (core0 i t).slots := by rfl)
    (hy : k.cycle = i := by rfl) : threadAt s s.turn (curSlot s) = some t ∧ curSlot s = i := by
  have hk : getCore s 0 = k := by rw [getCore, hc]; rfl
  have h : curSlot s = i := by rw [curSlot, ht, hk, Core.turnSlot, hy]; exact Nat.mod_eq_of_lt hi
  refine ⟨?_, h⟩
  rw [ht, h, threadAt, getSlot, hk, Core.slotAt, hs]
  simp [core0, Slot.thread?, hi]

/-- What an issue in slot `i` of `st i t` still asks for. -/
def mayB (u : Use) (i : Nat) (t : Thread) : Bool :=
  decide (t.role = .alone) && t.late.isNone && (decide (u.guard = 0) || getFlag t u.guard.toNat) && (!u.priv || i == 0) &&
    u.names.all (fun n => decide (n < t.lim)) && u.srcs.all (isFull t) &&
    (streamTrap t (u.sync ++ u.writes t)).isNone && !storeBusy t (u.writes t)

theorem issues_in (i : Nat) {u : Use} {s : State} {t : Thread} {k : Core} (hi : i < 16 := by decide)
    (h : mayB u i t = true := by decide +kernel) (hc : s.cores = [(0, k)] := by rfl) (ht : s.turn = 0 := by rfl)
    (hs : k.slots = (core0 i t).slots := by rfl) (hy : k.cycle = i := by rfl)
    (hb : streamBusy k i t (u.srcs ++ u.writes t) = false := by decide +kernel) : Issues u s t := by
  simp only [mayB, Bool.and_eq_true, Bool.or_eq_true, decide_eq_true_eq, List.all_eq_true, Bool.not_eq_true',
    beq_iff_eq, Option.isNone_iff_eq_none] at h
  obtain ⟨⟨⟨⟨⟨⟨⟨b, c⟩, d⟩, e⟩, f⟩, g⟩, l⟩, m⟩ := h
  obtain ⟨here, hn⟩ := here_in i hi hc ht hs hy
  refine ⟨here, b, c, d, fun hp => hn.trans (e.resolve_left (by simp [hp])), f, g, l, ?_, m⟩
  rw [hn, ht, getCore, hc]; exact hb

theorem clear_in {s : State} (hf : s.flight = [] := by rfl) (hr : s.resvs = [] := by rfl)
    (hb : s.bads = [] := by rfl) (hj : s.jigs = State.reset.jigs := by rfl) : Clear s :=
  ⟨hf, hr, hb, by rw [hj]; simp [State.reset, Vector.toList_replicate]⟩

theorem test_issues : Issues ((⟨p0, 4, 5, none⟩ : ShT).use false) (st 1 t0) t0 := issues_in 1

/-! ### Ill-formed terms, one for each check -/

def xg (g : BitVec 5) : Pfx := ⟨true, g⟩

/-- R27: a guard and a register above 31 need XG. -/
theorem test_wf_carries : (Instr.add ⟨⟨false, 3⟩, 1, 2, none⟩).wf = false ∧ (Instr.add ⟨p0, 32, 2, none⟩).wf = false ∧
    (Instr.add ⟨xg 3, 32, 127, none⟩).wf = true := by decide
/-- R26: immediates of `w + 9k` bits, with at most the words that the shape takes. -/
theorem test_wf_imm : (Instr.addi ⟨p0, 1, ⟨0, 32⟩⟩).wf = false ∧ (Instr.addi ⟨p0, 1, ⟨0, 31⟩⟩).wf = true ∧
    (Instr.shli ⟨p0, 1, ⟨1, 0⟩⟩).wf = false ∧ (Instr.br ⟨p0, ⟨3, 0⟩⟩).wf = false := by decide
/-- R31: at most four prefix words. -/
theorem test_wf_four : (Instr.ldw ⟨xg 0, 1, 2, some ⟨3, false, false⟩, ⟨3, 0⟩, none⟩).wf = false ∧
    (Instr.ldw ⟨xg 0, 1, 2, some ⟨3, false, false⟩, ⟨2, 0⟩, none⟩).wf = true ∧
    (Instr.amoadd ⟨xg 0, 1, 2, some ⟨3, false, false⟩, ⟨2, 0⟩, none⟩).wf = false := by decide
/-- R57: MTF's XT word has bit 1 set. -/
theorem test_wf_mtf : (Instr.mtf ⟨p0, 1, 2, some false⟩).wf = false ∧ (Instr.mtf ⟨p0, 1, 2, some true⟩).wf = true := by
  decide
/-- R220: mask registers are even and not g0. -/
theorem test_wf_masks : (Instr.waitall ⟨p0, 3⟩).wf = false ∧ (Instr.waitall ⟨p0, 0⟩).wf = false ∧
    (Instr.waitany ⟨p0, 1, 3⟩).wf = false ∧ (Instr.tagff ⟨p0, 1, 0⟩).wf = false ∧ (Instr.tagclr ⟨p0, 2⟩).wf = true := by
  decide
/-- R187: SEND's payload group. -/
theorem test_wf_send : (Instr.send ⟨p0, 1, 12⟩).wf = false ∧ (Instr.send ⟨p0, 1, 0⟩).wf = true := by decide
/-- R181: AMOCAS takes an even register that is not g0. -/
theorem test_wf_cas : (Instr.amocas ⟨p0, 3, 1, none, i0, none⟩).wf = false ∧
    (Instr.amocas ⟨p0, 0, 1, none, i0, none⟩).wf = false ∧ (Instr.amocas ⟨p0, 2, 1, none, i0, none⟩).wf = true := by decide
/-- R102: VGATH's XP and XT stand always. -/
theorem test_wf_gather : (Instr.vgath ⟨xg 0, 1, 2, 3, false, false, ⟨2, 0⟩, none⟩).wf = false ∧
    (Instr.vgath ⟨p0, 1, 2, 3, false, false, ⟨1, 0⟩, some 0⟩).wf = true := by decide
/-- R94: without XT a compare's C is A, which must name a vector register. -/
theorem test_wf_bitmap : (Instr.vceq ⟨p0, 8, 1, none⟩).wf = false ∧ (Instr.vceq ⟨p0, 7, 1, none⟩).wf = true := by decide
/-- R39: the scope codes. -/
theorem test_wf_scope : (Instr.fence ⟨p0, 6⟩).wf = false ∧ (Instr.bar ⟨p0, 7⟩).wf = false ∧ (Instr.fence ⟨p0, 5⟩).wf = true :=
  by decide
/-- R188: g0 cannot be bound. -/
theorem test_wf_bind : (Instr.bind ⟨p0, 0, 0, 1, false, false⟩).wf = false := by decide
/-- R40, R119: the numbers of each bank; bank bits need XG. -/
theorem test_wf_special : (Instr.mfs ⟨p0, 1, 0, 25⟩).wf = false ∧ (Instr.mfs ⟨xg 0, 1, 1, 8⟩).wf = false ∧
    (Instr.mfsp ⟨xg 0, 1, 2, 2⟩).wf = false ∧ (Instr.mfs ⟨xg 0, 1, 3, 0⟩).wf = false ∧
    (Instr.mfs ⟨p0, 1, 1, 0⟩).wf = false ∧ (Instr.mfs ⟨xg 0, 1, 1, 7⟩).wf = true := by decide
/-- R153: MFM and MTM take a multiple of 8 from 8 to 120. -/
theorem test_wf_manifest : (Instr.mfm ⟨p0, 0, false⟩).wf = false ∧ (Instr.mtm ⟨p0, 12, false⟩).wf = false ∧
    (Instr.mfm ⟨xg 0, 120, true⟩).wf = true := by decide
/-- R313: SWEEP's C is not 0. -/
theorem test_wf_sweep : (Instr.sweep ⟨p0, 1, 2, 0, false⟩).wf = false := by decide
/-- R273: SEGSET's group. -/
theorem test_wf_segset : (Instr.segset ⟨p0, 1, 2⟩).wf = false ∧ (Instr.segset ⟨p0, 1, 0⟩).wf = false ∧
    (Instr.segset ⟨p0, 1, 4⟩).wf = true := by decide
/-- The other shapes refuse a register above 31 without XG. -/
theorem test_wf_shapes : ∀ i ∈ ([.mov ⟨p0, 32, 1, none⟩, .ceq ⟨p0, 1, 32, none⟩, .fAnd ⟨⟨false, 1⟩, 1, 2, none⟩,
    .fNot ⟨⟨false, 1⟩, 1, 2⟩, .bf ⟨⟨false, 1⟩, 1, i0⟩, .jr ⟨p0, 32, none⟩, .mff ⟨p0, 32⟩, .wait ⟨⟨false, 1⟩⟩,
    .ldv ⟨p0, 1, 32, none, i0, none⟩, .tagrd ⟨p0, 32, 1, none, i0⟩, .watch ⟨p0, 32, none, i0⟩, .vadd ⟨⟨false, 1⟩, 1, 2, none⟩,
    .vscan ⟨⟨false, 1⟩, 1, 2, none⟩, .vbcast ⟨p0, 1, 32, none⟩, .vredadd ⟨p0, 32, 1, none⟩, .vext ⟨p0, 32, 1, none⟩,
    .vins ⟨p0, 1, 32, none⟩, .vcvt ⟨⟨false, 1⟩, 1, 2, none⟩, .vamax ⟨⟨false, 1⟩, 1, 2, none⟩, .unbind ⟨⟨false, 1⟩, 1, 0⟩,
    .mcnt ⟨p0, 32, false⟩, .prec ⟨p0, 1, 32⟩, .wld ⟨p0, 1, 32, 3, false, false⟩, .mma ⟨p0, 1, false, false, 32, 3, false, false⟩,
    .cvtst ⟨p0, 1, false, 32, 3, false, false⟩, .accz ⟨⟨false, 1⟩, 1⟩, .accrd ⟨p0, 32, 1, 2, false⟩, .amaxrd ⟨p0, 32, 1⟩,
    .osplit ⟨p0, 32, 1, 2, false, false⟩, .trap ⟨p0, ⟨0, 32⟩⟩] : List Instr), i.wf = false := by decide

/-! ### Decoding -/

/-- What the words of a chain decode to. -/
def reads (ws : List Half) (i : Instr) : Bool := decide (decode ws = .ok (i, ws.length))
/-- Why the words of a chain are no instruction. -/
def refuses (ws : List Half) : Bool := match decode ws with | .error _ => true | .ok _ => false

/-- A word of each instruction of page 0 (R22 to R44 and the table of the page). -/
theorem test_decode_page0 : ([
    ([0xF60E, 0x00A9], .add ⟨p0, 5, 9, some ⟨3, true, false⟩⟩),
    ([0xF60E, 0x04A9], .sub ⟨p0, 5, 9, some ⟨3, true, false⟩⟩),
    ([0xF60E, 0x08A9], .and ⟨p0, 5, 9, some ⟨3, true, false⟩⟩),
    ([0xF60E, 0x0CA9], .or ⟨p0, 5, 9, some ⟨3, true, false⟩⟩),
    ([0xF60E, 0x10A9], .xor ⟨p0, 5, 9, some ⟨3, true, false⟩⟩),
    ([0xF60E, 0x14A9], .andn ⟨p0, 5, 9, some ⟨3, true, false⟩⟩),
    ([0xF60E, 0x18A9], .shl ⟨p0, 5, 9, some ⟨3, true, false⟩⟩),
    ([0xF60E, 0x1CA9], .shr ⟨p0, 5, 9, some ⟨3, true, false⟩⟩),
    ([0xF60E, 0x20A9], .sra ⟨p0, 5, 9, some ⟨3, true, false⟩⟩),
    ([0xF60E, 0x24A9], .mul ⟨p0, 5, 9, some ⟨3, true, false⟩⟩),
    ([0x28A9], .mov ⟨p0, 5, 9, none⟩),
    ([0x2CA9], .addi ⟨p0, 5, ⟨0, 9⟩⟩),
    ([0x30A9], .movi ⟨p0, 5, ⟨0, 9⟩⟩),
    ([0x34A9], .andi ⟨p0, 5, ⟨0, 9⟩⟩),
    ([0x38A9], .shli ⟨p0, 5, ⟨0, 9⟩⟩),
    ([0x3CA9], .shri ⟨p0, 5, ⟨0, 9⟩⟩),
    ([0x40A9], .srai ⟨p0, 5, ⟨0, 9⟩⟩),
    ([0xF60D, 0x44A9], .ceq ⟨p0, 5, 9, some ⟨3, false, true⟩⟩),
    ([0xF60D, 0x48A9], .cne ⟨p0, 5, 9, some ⟨3, false, true⟩⟩),
    ([0xF60D, 0x4CA9], .clt ⟨p0, 5, 9, some ⟨3, false, true⟩⟩),
    ([0xF60D, 0x50A9], .cltu ⟨p0, 5, 9, some ⟨3, false, true⟩⟩),
    ([0xF60D, 0x54A9], .cle ⟨p0, 5, 9, some ⟨3, false, true⟩⟩),
    ([0xF60D, 0x58A9], .cleu ⟨p0, 5, 9, some ⟨3, false, true⟩⟩),
    ([0x5CA9], .ceqi ⟨p0, 5, ⟨0, 9⟩⟩),
    ([0x60A9], .clti ⟨p0, 5, ⟨0, 9⟩⟩),
    ([0xF002, 0x64A9], .ldb ⟨p0, 5, 9, none, ⟨1, 2⟩, none⟩),
    ([0xF002, 0x68A9], .ldbs ⟨p0, 5, 9, none, ⟨1, 2⟩, none⟩),
    ([0xF002, 0x6CA9], .ldh ⟨p0, 5, 9, none, ⟨1, 2⟩, none⟩),
    ([0xF002, 0x70A9], .ldhs ⟨p0, 5, 9, none, ⟨1, 2⟩, none⟩),
    ([0xF002, 0x74A9], .ldw ⟨p0, 5, 9, none, ⟨1, 2⟩, none⟩),
    ([0xF002, 0x78A9], .stb ⟨p0, 5, 9, none, ⟨1, 2⟩, none⟩),
    ([0xF002, 0x7CA9], .sth ⟨p0, 5, 9, none, ⟨1, 2⟩, none⟩),
    ([0xF002, 0x80A9], .stw ⟨p0, 5, 9, none, ⟨1, 2⟩, none⟩),
    ([0xF60D, 0x84A9], .ldv ⟨p0, 5, 9, some ⟨3, false, true⟩, i0, none⟩),
    ([0xF60D, 0x88A9], .stv ⟨p0, 5, 9, some ⟨3, false, true⟩, i0, none⟩),
    ([0x8CA9], .br ⟨p0, ⟨0, 169⟩⟩),
    ([0x90A9], .bf ⟨p0, 5, ⟨0, 9⟩⟩),
    ([0x94A9], .bnf ⟨p0, 5, ⟨0, 9⟩⟩),
    ([0x98A9], .call ⟨p0, ⟨0, 169⟩⟩),
    ([0x9C09], .jr ⟨p0, 9, none⟩),
    ([0xA0A9], .jalr ⟨p0, 5, 9, none⟩)] : List (List Half × Instr)).all (fun e => reads e.1 e.2) = true := by decide +kernel

/-- A word of each instruction of page 1 (R22 to R44 and the table of the page). -/
theorem test_decode_page1 : ([
    ([0xF420, 0xF60E, 0x00A9], .div ⟨p0, 5, 9, some ⟨3, true, false⟩⟩),
    ([0xF420, 0xF60E, 0x04A9], .divu ⟨p0, 5, 9, some ⟨3, true, false⟩⟩),
    ([0xF420, 0xF60E, 0x08A9], .rem ⟨p0, 5, 9, some ⟨3, true, false⟩⟩),
    ([0xF420, 0xF60E, 0x0CA9], .remu ⟨p0, 5, 9, some ⟨3, true, false⟩⟩),
    ([0xF420, 0xF60E, 0x10A9], .mulh ⟨p0, 5, 9, some ⟨3, true, false⟩⟩),
    ([0xF420, 0xF60E, 0x14A9], .mulhu ⟨p0, 5, 9, some ⟨3, true, false⟩⟩),
    ([0xF420, 0xF60E, 0x18A9], .min ⟨p0, 5, 9, some ⟨3, true, false⟩⟩),
    ([0xF420, 0xF60E, 0x1CA9], .max ⟨p0, 5, 9, some ⟨3, true, false⟩⟩),
    ([0xF420, 0xF60E, 0x20A9], .minu ⟨p0, 5, 9, some ⟨3, true, false⟩⟩),
    ([0xF420, 0xF60E, 0x24A9], .maxu ⟨p0, 5, 9, some ⟨3, true, false⟩⟩),
    ([0xF420, 0x28A9], .clz ⟨p0, 5, 9, none⟩),
    ([0xF420, 0x2CA9], .ctz ⟨p0, 5, 9, none⟩),
    ([0xF420, 0x30A9], .popc ⟨p0, 5, 9, none⟩),
    ([0xF420, 0x34A9], .brev ⟨p0, 5, 9, none⟩),
    ([0xF420, 0xF60E, 0x38A9], .rot ⟨p0, 5, 9, some ⟨3, true, false⟩⟩),
    ([0xF420, 0x3CA9], .sext ⟨p0, 5, ⟨0, 9⟩⟩),
    ([0xF420, 0x40A9], .zext ⟨p0, 5, ⟨0, 9⟩⟩),
    ([0xF420, 0xF60E, 0x44A9], .sel ⟨p0, 5, 9, some ⟨3, true, false⟩⟩),
    ([0xF420, 0xF60C, 0x48A9], .fAnd ⟨p0, 5, 9, some 3⟩),
    ([0xF420, 0xF60C, 0x4CA9], .fOr ⟨p0, 5, 9, some 3⟩),
    ([0xF420, 0xF60C, 0x50A9], .fXor ⟨p0, 5, 9, some 3⟩),
    ([0xF420, 0x54A9], .fNot ⟨p0, 5, 9⟩),
    ([0xF420, 0x58A0], .mff ⟨p0, 5⟩),
    ([0xF420, 0x5CA9], .mtf ⟨p0, 5, 9, none⟩),
    ([0xF420, 0x60A9], .loop ⟨p0, 5, ⟨0, 9⟩⟩)] : List (List Half × Instr)).all (fun e => reads e.1 e.2) = true := by decide +kernel

/-- A word of each instruction of page 2, vectors (R22 to R44 and the table of the page). -/
theorem test_decode_page2 : ([
    ([0xF440, 0xF60D, 0x00A6], .vadd ⟨p0, 5, 6, some ⟨3, false, true⟩⟩),
    ([0xF440, 0xF60D, 0x04A6], .vsub ⟨p0, 5, 6, some ⟨3, false, true⟩⟩),
    ([0xF440, 0xF60D, 0x08A6], .vmul ⟨p0, 5, 6, some ⟨3, false, true⟩⟩),
    ([0xF440, 0xF60D, 0x0CA6], .vmin ⟨p0, 5, 6, some ⟨3, false, true⟩⟩),
    ([0xF440, 0xF60D, 0x10A6], .vmax ⟨p0, 5, 6, some ⟨3, false, true⟩⟩),
    ([0xF440, 0xF60D, 0x14A6], .vand ⟨p0, 5, 6, some ⟨3, false, true⟩⟩),
    ([0xF440, 0xF60D, 0x18A6], .vor ⟨p0, 5, 6, some ⟨3, false, true⟩⟩),
    ([0xF440, 0xF60D, 0x1CA6], .vxor ⟨p0, 5, 6, some ⟨3, false, true⟩⟩),
    ([0xF440, 0xF60D, 0x20A6], .vshl ⟨p0, 5, 6, some ⟨3, false, true⟩⟩),
    ([0xF440, 0xF60D, 0x24A6], .vshr ⟨p0, 5, 6, some ⟨3, false, true⟩⟩),
    ([0xF440, 0xF60D, 0x28A6], .vsra ⟨p0, 5, 6, some ⟨3, false, true⟩⟩),
    ([0xF440, 0xF60C, 0x2D26], .vceq ⟨p0, 9, 6, some ⟨3, false, false⟩⟩),
    ([0xF440, 0xF60C, 0x3126], .vclt ⟨p0, 9, 6, some ⟨3, false, false⟩⟩),
    ([0xF440, 0xF60D, 0x34A6], .vsel ⟨p0, 5, 6, some ⟨3, false, true⟩⟩),
    ([0xF440, 0x38A9], .vbcast ⟨p0, 5, 9, none⟩),
    ([0xF440, 0xF634, 0x3D26], .vext ⟨p0, 9, 6, some ⟨13, false, false⟩⟩),
    ([0xF440, 0xF634, 0x40A9], .vins ⟨p0, 5, 9, some ⟨13, false, false⟩⟩),
    ([0xF440, 0xF60D, 0x44A6], .vperm ⟨p0, 5, 6, some ⟨3, false, true⟩⟩),
    ([0xF440, 0x48A6], .vscan ⟨p0, 5, 6, none⟩),
    ([0xF440, 0x4D26], .vredadd ⟨p0, 9, 6, none⟩),
    ([0xF440, 0x5126], .vredmin ⟨p0, 9, 6, none⟩),
    ([0xF440, 0x5526], .vredmax ⟨p0, 9, 6, none⟩),
    ([0xF440, 0xF60E, 0x58A9], .vgath ⟨p0, 5, 9, 3, true, false, i0, none⟩),
    ([0xF440, 0xF60E, 0x5CA9], .vscat ⟨p0, 5, 9, 3, true, false, i0, none⟩)] : List (List Half × Instr)).all (fun e => reads e.1 e.2) = true := by decide +kernel

/-- A word of each instruction of page 3, floating point (R22 to R44 and the table of the page). -/
theorem test_decode_page3 : ([
    ([0xF460, 0xF60D, 0x00A6], .vfadd ⟨p0, 5, 6, some ⟨3, false, true⟩⟩),
    ([0xF460, 0xF60D, 0x04A6], .vfsub ⟨p0, 5, 6, some ⟨3, false, true⟩⟩),
    ([0xF460, 0xF60D, 0x08A6], .vfmul ⟨p0, 5, 6, some ⟨3, false, true⟩⟩),
    ([0xF460, 0xF60D, 0x0CA6], .vfma ⟨p0, 5, 6, some ⟨3, false, true⟩⟩),
    ([0xF460, 0xF60D, 0x10A6], .vfmin ⟨p0, 5, 6, some ⟨3, false, true⟩⟩),
    ([0xF460, 0xF60D, 0x14A6], .vfmax ⟨p0, 5, 6, some ⟨3, false, true⟩⟩),
    ([0xF460, 0x18A6], .vfabs ⟨p0, 5, 6, none⟩),
    ([0xF460, 0xF60C, 0x1D26], .vfclt ⟨p0, 9, 6, some ⟨3, false, false⟩⟩),
    ([0xF460, 0xF60C, 0x2126], .vfceq ⟨p0, 9, 6, some ⟨3, false, false⟩⟩),
    ([0xF460, 0x2526], .vfred ⟨p0, 9, 6, none⟩),
    ([0xF460, 0x28A6], .vfscan ⟨p0, 5, 6, none⟩),
    ([0xF460, 0xF634, 0x2CA6], .vcvtif ⟨p0, 5, 6, some ⟨13, false, false⟩⟩),
    ([0xF460, 0xF634, 0x30A6], .vcvtfi ⟨p0, 5, 6, some ⟨13, false, false⟩⟩),
    ([0xF460, 0xF634, 0x34A6], .vcvt ⟨p0, 5, 6, some ⟨13, false, false⟩⟩),
    ([0xF460, 0x3846], .vamax ⟨p0, 2, 6, none⟩),
    ([0xF460, 0x3CA6], .vrcp ⟨p0, 5, 6, none⟩),
    ([0xF460, 0x40A6], .vrsq ⟨p0, 5, 6, none⟩)] : List (List Half × Instr)).all (fun e => reads e.1 e.2) = true := by decide +kernel

/-- A word of each instruction of page 4, memory (R22 to R44 and the table of the page). -/
theorem test_decode_page4 : ([
    ([0xF480, 0xF002, 0x00A9], .lde ⟨p0, 5, 9, none, ⟨1, 2⟩, none⟩),
    ([0xF480, 0xF002, 0x04A9], .ldt ⟨p0, 5, 9, none, ⟨1, 2⟩, none⟩),
    ([0xF480, 0xF002, 0x08A9], .stf ⟨p0, 5, 9, none, ⟨1, 2⟩, none⟩),
    ([0xF480, 0xF002, 0x0CA9], .ste ⟨p0, 5, 9, none, ⟨1, 2⟩, none⟩),
    ([0xF480, 0xF002, 0x10A9], .tagrd ⟨p0, 5, 9, none, ⟨1, 2⟩⟩),
    ([0xF480, 0xF002, 0x1409], .watch ⟨p0, 9, none, ⟨1, 2⟩⟩),
    ([0xF480, 0xF002, 0x1809], .unwatch ⟨p0, 9, none, ⟨1, 2⟩⟩),
    ([0xF480, 0x1C00], .wait ⟨p0⟩),
    ([0xF480, 0xF002, 0x20A9], .amoadd ⟨p0, 5, 9, none, ⟨1, 2⟩, none⟩),
    ([0xF480, 0xF002, 0x24A9], .amomin ⟨p0, 5, 9, none, ⟨1, 2⟩, none⟩),
    ([0xF480, 0xF002, 0x28A9], .amomax ⟨p0, 5, 9, none, ⟨1, 2⟩, none⟩),
    ([0xF480, 0xF002, 0x2CA9], .amoand ⟨p0, 5, 9, none, ⟨1, 2⟩, none⟩),
    ([0xF480, 0xF002, 0x30A9], .amoor ⟨p0, 5, 9, none, ⟨1, 2⟩, none⟩),
    ([0xF480, 0xF002, 0x34A9], .amoxor ⟨p0, 5, 9, none, ⟨1, 2⟩, none⟩),
    ([0xF480, 0xF002, 0x38A9], .amoswp ⟨p0, 5, 9, none, ⟨1, 2⟩, none⟩),
    ([0xF480, 0xF002, 0x3C89], .amocas ⟨p0, 4, 9, none, ⟨1, 2⟩, none⟩),
    ([0xF480, 0xF002, 0x40A9], .rsv ⟨p0, 5, 9, none, ⟨1, 2⟩⟩),
    ([0xF480, 0xF002, 0x44A9], .rls ⟨p0, 5, 9, none, ⟨1, 2⟩⟩),
    ([0xF480, 0x4805], .fence ⟨p0, 5⟩),
    ([0xF480, 0x4C05], .bar ⟨p0, 5⟩)] : List (List Half × Instr)).all (fun e => reads e.1 e.2) = true := by decide +kernel

/-- A word of each instruction of page 5, threads and messages (R22 to R44 and the table of the page). -/
theorem test_decode_page5 : ([
    ([0xF4A0, 0x00A9], .spawn ⟨p0, 5, 9, none⟩),
    ([0xF4A0, 0x04A9], .reap ⟨p0, 5, 9, none⟩),
    ([0xF4A0, 0x08A0], .exit ⟨p0, 5⟩),
    ([0xF4A0, 0x0C00], .trigger ⟨p0⟩),
    ([0xF4A0, 0xF60E, 0x10A9], .launch ⟨p0, 5, 9, some ⟨3, true, false⟩⟩),
    ([0xF4A0, 0x14B0], .send ⟨p0, 5, 16⟩),
    ([0xF4A0, 0x18A9], .chset ⟨p0, 5, 9⟩),
    ([0xF4A0, 0x1CA0], .chblk ⟨p0, 5⟩),
    ([0xF4A0, 0x20A0], .chunb ⟨p0, 5⟩),
    ([0xF4A0, 0xF635, 0x2449], .bind ⟨p0, 2, 9, 13, false, true⟩),
    ([0xF4A0, 0x2803], .unbind ⟨p0, 3, 0⟩),
    ([0xF4A0, 0xF000, 0x2802], .unbind ⟨p0, 2, 1⟩),
    ([0xF4A0, 0x2CB8], .mfs ⟨p0, 5, 0, 24⟩),
    ([0xF4A0, 0x30B8], .mts ⟨p0, 5, 0, 24⟩)] : List (List Half × Instr)).all (fun e => reads e.1 e.2) = true := by decide +kernel

/-- A word of each instruction of page 6, convoys (R22 to R44 and the table of the page). -/
theorem test_decode_page6 : ([
    ([0xF4C0, 0x00A9], .cvy ⟨p0, 5, 9, none⟩),
    ([0xF4C0, 0x04A9], .join ⟨p0, 5, ⟨0, 9⟩⟩),
    ([0xF4C0, 0x08A9], .split ⟨p0, 5, 9, none⟩),
    ([0xF4C0, 0x0CA9], .spliti ⟨p0, 5, ⟨0, 9⟩⟩),
    ([0xF4C0, 0x10A9], .mpop ⟨p0, 5, 9, none⟩),
    ([0xF4C0, 0x14A1], .mcnt ⟨p0, 5, true⟩),
    ([0xF4C0, 0x1901], .mfm ⟨p0, 8, true⟩),
    ([0xF4C0, 0x1D01], .mtm ⟨p0, 8, true⟩),
    ([0xF4C0, 0xF002, 0x20A9], .qld ⟨p0, 5, 9, none, ⟨1, 2⟩, none⟩),
    ([0xF4C0, 0xF002, 0x24A9], .qst ⟨p0, 5, 9, none, ⟨1, 2⟩, none⟩),
    ([0xF4C0, 0xF002, 0x28A9], .qadd ⟨p0, 5, 9, none, ⟨1, 2⟩, none⟩),
    ([0xF4C0, 0x2CA0], .cexit ⟨p0, 5⟩)] : List (List Half × Instr)).all (fun e => reads e.1 e.2) = true := by decide +kernel

/-- A word of each instruction of page 7, copies (R22 to R44 and the table of the page). -/
theorem test_decode_page7 : ([
    ([0xF4E0, 0x00A9], .cpy ⟨p0, 5, 9, none⟩),
    ([0xF4E0, 0x04A9], .cpy2 ⟨p0, 5, 9, none⟩),
    ([0xF4E0, 0x08A9], .gth ⟨p0, 5, 9, none⟩),
    ([0xF4E0, 0x0CA9], .sct ⟨p0, 5, 9, none⟩),
    ([0xF4E0, 0x10A9], .coll ⟨p0, 5, 9, none⟩),
    ([0xF4E0, 0x14AA], .waitany ⟨p0, 5, 10⟩),
    ([0xF4E0, 0x180A], .waitall ⟨p0, 10⟩),
    ([0xF4E0, 0x1CAA], .tagff ⟨p0, 5, 10⟩),
    ([0xF4E0, 0x200A], .tagclr ⟨p0, 10⟩)] : List (List Half × Instr)).all (fun e => reads e.1 e.2) = true := by decide +kernel

/-- A word of each instruction of page 8, the matrix engine (R22 to R44 and the table of the page). -/
theorem test_decode_page8 : ([
    ([0xF500, 0x0069], .prec ⟨p0, 3, 9⟩),
    ([0xF500, 0xF635, 0x0469], .wld ⟨p0, 3, 9, 13, false, true⟩),
    ([0xF500, 0xF636, 0x0949], .mma ⟨p0, 2, false, true, 9, 13, true, false⟩),
    ([0xF500, 0x0C60], .accz ⟨p0, 3⟩),
    ([0xF500, 0xF635, 0x10A3], .accrd ⟨p0, 5, 3, 13, true⟩),
    ([0xF500, 0xF635, 0x1469], .accwr ⟨p0, 3, 9, 13, false, true⟩),
    ([0xF500, 0xF634, 0x18C9], .cvtst ⟨p0, 2, true, 9, 13, false, false⟩),
    ([0xF500, 0x1CA3], .amaxrd ⟨p0, 5, 3⟩),
    ([0xF500, 0x2060], .amaxclr ⟨p0, 3⟩),
    ([0xF500, 0x2469], .dupset ⟨p0, 3, 9⟩),
    ([0xF500, 0xF636, 0x28A9], .osplit ⟨p0, 5, 9, 13, true, false⟩)] : List (List Half × Instr)).all (fun e => reads e.1 e.2) = true := by decide +kernel

/-- A word of each instruction of page 9, system (R22 to R44 and the table of the page). -/
theorem test_decode_page9 : ([
    ([0xF520, 0xF001, 0x0009], .trap ⟨p0, ⟨1, 41⟩⟩),
    ([0xF520, 0xF001, 0x0409], .sys ⟨p0, ⟨1, 41⟩⟩),
    ([0xF520, 0xF001, 0x0809], .brk ⟨p0, ⟨1, 41⟩⟩),
    ([0xF520, 0x0C00], .eret ⟨p0⟩),
    ([0xF520, 0x10B8], .mfsp ⟨p0, 5, 0, 24⟩),
    ([0xF520, 0x14B8], .mtsp ⟨p0, 5, 0, 24⟩),
    ([0xF520, 0x1868], .segset ⟨p0, 3, 8⟩),
    ([0xF520, 0x1CA9], .tlbinv ⟨p0, 5, 9⟩),
    ([0xF520, 0xF636, 0x20A9], .reloc ⟨p0, 5, 9, 13, true, false⟩),
    ([0xF520, 0xF635, 0x24A9], .sweep ⟨p0, 5, 9, 13, true⟩),
    ([0xF520, 0x28A9], .wearrd ⟨p0, 5, 9, none⟩),
    ([0xF520, 0x2CA9], .ctxsv ⟨p0, 5, 9, none⟩),
    ([0xF520, 0x30A9], .ctxld ⟨p0, 5, 9, none⟩),
    ([0xF520, 0x34A9], .resume ⟨p0, 5, 9, none⟩),
    ([0xF520, 0x38A9], .park ⟨p0, 5, 9, none⟩)] : List (List Half × Instr)).all (fun e => reads e.1 e.2) = true := by decide +kernel


/-! ### The hypotheses of the statements are met: encoding, fetch, registers, flow and vectors -/

theorem witness_DecodeOfEncode : (Instr.add ⟨xg 31, 127, 127, some ⟨127, true, true⟩⟩).wf = true ∧
    (Instr.add ⟨xg 31, 127, 127, some ⟨127, true, true⟩⟩).opcode.isSome = true ∧
    decode (encode (.add ⟨xg 31, 127, 127, some ⟨127, true, true⟩⟩)) =
      .ok (.add ⟨xg 31, 127, 127, some ⟨127, true, true⟩⟩, 3) := by decide

/-- Five prefix words; an unknown kind at its least and its greatest; a kind twice. -/
theorem witness_NoInstruction :
    ([0xF000, 0xF001, 0xF002, 0xF003, 0xF201] : List Half).all isPrefixWord = true ∧
    isPrefixWord 0xFA00 = true ∧ ((0xFA00 : Half).extractLsb' 9 3).toNat = 5 ∧
    isPrefixWord 0xFE00 = true ∧ ((0xFE00 : Half).extractLsb' 9 3).toNat = 7 ∧
    isPrefixWord 0xF201 = true ∧ isPrefixWord 0xF202 = true ∧ ((0xF201 : Half).extractLsb' 9 3).toNat = 1 ∧
    isPrefixWord 0xF801 = true ∧ ((0xF801 : Half).extractLsb' 9 3).toNat = 4 := by decide +kernel

/-- The state in which the words of a chain are next. -/
def fetchState (ws : List Half) : State :=
  let s := State.reset.withFetchWord 16 0x2D01
  { s with mem := placeCode [] ws }
def canStep (s : State) : Bool := match step s with | .next _ => true | _ => false
/-- `issuer` finds slot 0's thread, nothing is due, and the words stand at its PC. -/
def standsB (ws : List Half) : Bool :=
  let s := fetchState ws
  (due s).isNone && decide (issuer s 0 = some Thread.probe) &&
    (List.range ws.length).all fun k =>
      decide (fetchFault Thread.probe (BitVec.ofNat 32 (2 * k)) = none) &&
        decide (readByte s (.cstore 0 (BitVec.ofNat 32 (2 * k)).toNat) = (ws[k]?.getD 0).setWidth 8) &&
        decide (readByte s (.cstore 0 ((BitVec.ofNat 32 (2 * k)).toNat + 1)) = (ws[k]?.getD 0).extractLsb' 8 8)

theorem stands_of {ws : List Half} (h : standsB ws = true) :
    StandsAtPc (fetchState ws) (fetchState ws).turn Thread.probe ws ∧ (fetchState ws).agenda = [] ∧
      isDown (fetchState ws) = false ∧ due (fetchState ws) = none ∧
      issuer (fetchState ws) (fetchState ws).turn = some Thread.probe := by
  have e : (fetchState ws).turn = 0 := rfl
  have a : (fetchState ws).agenda = [] := rfl
  have b : isDown (fetchState ws) = false := rfl
  simp only [standsB, Bool.and_eq_true, decide_eq_true_eq, List.all_eq_true, List.mem_range,
    Option.isNone_iff_eq_none] at h
  obtain ⟨⟨c, d⟩, f⟩ := h
  refine ⟨fun k hk => ?_, a, b, c, by rw [e]; exact d⟩
  · obtain ⟨⟨x, y⟩, z⟩ := f k hk
    have hg : ws[k]?.getD 0 = ws[k] := by simp [hk]
    rw [hg] at y z
    have hp : Thread.probe.pc + BitVec.ofNat 32 (2 * k) = BitVec.ofNat 32 (2 * k) := by simp [Thread.probe, Thread.blank]
    rw [hp, e]
    have hs : segBase ((Thread.probe.segs[0]?).getD 0) = 0 := by decide
    rw [hs, Nat.zero_add]
    exact ⟨x, y, z⟩

/-- One word, and the longest chain. -/
theorem witness_StepRunsDecoded :
    standsB [0x2D01] = true ∧ decode [0x2D01] = .ok (.addi ⟨p0, 8, ⟨0, 1⟩⟩, 1) ∧
    standsB [0xF285, 0xF800, 0xF002, 0xF000, 0x7508] = true ∧
    decode [0xF285, 0xF800, 0xF002, 0xF000, 0x7508] = .ok (.ldw ⟨xg 5, 40, 8, none, ⟨2, 0x400⟩, some 0⟩, 5) ∧
    ([0xF285, 0xF800, 0xF002, 0xF000] : List Half).all isPrefixWord = true ∧ isPrefixWord 0x7508 = false := by
  decide +kernel

/-- The thread at the last word of the code store, which is a prefix. -/
def edgeState : State :=
  let s := fetchState []
  let t : Thread := { Thread.probe with pc := 0x3FFE }
  { setThread s 0 0 t with mem := writeBytes [] (flat (.cstore 0 0x3FFE)) 2 0xF201 }
/-- A word that is no instruction, alone and behind a prefix; five prefixes; a PC that is not even and one past the code
store; a prefix in the last word of the code store. -/
theorem witness_StepTrapsUndecoded : standsB [0xEC00] = true ∧ isPrefixWord 0xEC00 = false ∧ refuses [0xEC00] = true ∧
    standsB [0xF201, 0xEC00] = true ∧ isPrefixWord 0xF201 = true ∧ refuses [0xF201, 0xEC00] = true ∧
    standsB [0xF201, 0xF201, 0xF201, 0xF201, 0xF201] = true ∧ refuses [0xF201, 0xF201, 0xF201, 0xF201, 0xF201] = true ∧
    fetchFault Thread.probe 1 = some .align ∧ fetchFault Thread.probe 0x4000 = some .segv ∧
    (due edgeState).isNone = true ∧ ((issuer edgeState 0).any fun t => t.pc == 0x3FFE) = true ∧
    readByte edgeState (.cstore 0 0x3FFE) = 0x01 ∧ readByte edgeState (.cstore 0 0x3FFF) = 0xF2 ∧
    fetchFault { Thread.probe with pc := 0x3FFE } 0x3FFE = none := by decide +kernel

theorem witness_StepKeepsMemoryCanonical :
    memWf (fetchState [0x2D01]).mem = true ∧ canStep (fetchState [0x2D01]) = true := by decide +kernel

theorem witness_RegisterAccess : (0 < 1 ∧ (1 : Nat) < 128 ∧ 0 < 127 ∧ (127 : Nat) < 128 ∧ 0 < 31 ∧ (31 : Nat) < 32) ∧
    (16 * (0 : VReg).toNat + 1 ≠ 0 ∧ 16 * (7 : VReg).toNat + 15 ≠ 0 ∧ (127 : Nat) / 16 ≠ (0 : VReg).toNat) := by decide

/-- Uses of every shape, with registers at the ends of their range. -/
theorem witness_issues : ([
    (⟨p0, 1, 2, none⟩ : ShT).use false, (⟨xg 16, 127, 126, some ⟨0, true, true⟩⟩ : ShT).use true,
    (⟨p0, 0, 31, none⟩ : ShU).use false, (⟨xg 0, 127, 127, some true⟩ : ShU).use true,
    (⟨p0, 1, ⟨0, 31⟩⟩ : ShI).use false, (⟨p0, 1, ⟨3, 0⟩⟩ : ShI).use true,
    { (⟨p0, 1, ⟨0, 31⟩⟩ : ShI).use false with srcs := [] }, { (⟨p0, 1, ⟨0, 31⟩⟩ : ShI).use false with dsts := [] },
    (⟨p0, 0, 1, none⟩ : ShK).use, (⟨p0, 31, 1, some ⟨2, false, true⟩⟩ : ShK).use, (⟨p0, 31, 30, some 1⟩ : ShL).use,
    (⟨p0, 0, 31⟩ : ShFF).use, (⟨p0, 5⟩ : ShA).use [] [5],
    { (⟨p0, 1, 2, some true⟩ : ShU).use true with srcs := [1, 2], dsts := [] }, (⟨p0, ⟨2, 0⟩⟩ : ShJ).use,
    (⟨p0, 31, ⟨2, 0⟩⟩ : ShFB).use, { (⟨p0, ⟨2, 0⟩⟩ : ShJ).use with names := [7], dsts := [7] },
    (⟨p0, 31, none⟩ : ShBU).use, (⟨p0, 7, 0, some ⟨7, true, true⟩⟩ : ShVV).use, (⟨p0, 0, 7, some true⟩ : ShVU).use,
    (⟨p0, 7, 31, none⟩ : ShVS).use, (⟨p0, 31, 7, none⟩ : ShSV).use, (⟨p0, 7, 1, none⟩ : ShSVV).use,
    (⟨p0, 31, 7, none⟩ : ShSVS).use, (⟨p0, 7, 31, some ⟨127, true, true⟩⟩ : ShVSS).use,
    (⟨p0, 7, 0, some ⟨127, false, false⟩⟩ : ShVVS).use,
    { (⟨p0, 1, 2, some ⟨3, false, false⟩⟩ : ShVV).use with
      srcs := lanesOf 1 ++ (⟨p0, 1, 2, some ⟨3, false, false⟩⟩ : ShVV).use.srcs }] : List Use).all
      (fun u => mayB u 1 t0) = true := by decide +kernel

/-- IntegerArithmetic, Immediates, Division and ComparesAndFlags ask for nothing but an issue. -/
theorem witness_IntegerArithmetic : Issues ((⟨xg 16, 127, 126, some ⟨0, true, true⟩⟩ : ShT).use false) (st 1 t0) t0 ∧
    Issues ((⟨p0, 1, 2, none⟩ : ShT).use true) (st 1 t0) t0 := by
  and_intros <;> exact issues_in 1
theorem witness_Immediates : Issues ((⟨p0, 1, ⟨0, 31⟩⟩ : ShI).use false) (st 1 t0) t0 ∧
    Issues { (⟨p0, 1, ⟨0, 31⟩⟩ : ShI).use false with srcs := [] } (st 1 t0) t0 ∧
    Issues ((⟨p0, 1, ⟨0, 31⟩⟩ : ShI).use true) (st 1 t0) t0 ∧ Issues ((⟨p0, 1, 2, none⟩ : ShU).use true) (st 1 t0) t0 := by
  and_intros <;> exact issues_in 1
/-- A zero divisor, the signed overflow and an ordinary division. -/
theorem witness_Division : ∀ e ∈ ([tr [(1, 7), (2, 0)], tr [(1, 0x80000000), (2, 0xFFFFFFFF)],
    tr [(1, 0xFFFFFFF9), (2, 2)]] : List Thread), mayB ((⟨p0, 3, 1, some ⟨2, false, false⟩⟩ : ShT).use true) 1 e = true := by
  decide +kernel
theorem witness_ComparesAndFlags : Issues ((⟨p0, 0, 1, none⟩ : ShK).use) (st 1 t0) t0 ∧
    Issues { (⟨p0, 1, ⟨0, 31⟩⟩ : ShI).use false with dsts := [] } (st 1 t0) t0 ∧
    Issues ((⟨p0, 31, 30, some 1⟩ : ShL).use) (st 1 t0) t0 ∧ Issues ((⟨p0, 0, 31⟩ : ShFF).use) (st 1 t0) t0 ∧
    Issues ((⟨p0, 5⟩ : ShA).use [] [5]) (st 1 t0) t0 ∧
    Issues { (⟨p0, 1, 2, none⟩ : ShU).use true with srcs := [1, 2], dsts := [] } (st 1 t0) t0 ∧
    Issues ((⟨p0, 1, 2, none⟩ : ShT).use true) (st 1 t0) t0 := by
  and_intros <;> exact issues_in 1
/-- LOOP's three cases: 0, 1 and above. -/
theorem witness_ControlFlow : ∀ e ∈ ([t0, tr [(1, 1)], tr [(1, 2)], tr [(1, 0xFFFFFFFF)]] : List Thread),
    mayB ((⟨p0, 1, ⟨0, 31⟩⟩ : ShI).use true) 1 e = true ∧ mayB ((⟨p0, ⟨2, 0⟩⟩ : ShJ).use) 1 e = true ∧
    mayB ((⟨p0, 31, ⟨2, 0⟩⟩ : ShFB).use) 1 e = true ∧
    mayB { (⟨p0, ⟨2, 0⟩⟩ : ShJ).use with names := [7], dsts := [7] } 1 e = true ∧
    mayB ((⟨p0, 31, none⟩ : ShBU).use) 1 e = true ∧ mayB ((⟨p0, 1, 2, none⟩ : ShU).use false) 1 e = true := by
  decide +kernel
theorem witness_VectorIntegers : Issues ((⟨p0, 7, 0, some ⟨7, true, true⟩⟩ : ShVV).use) (st 1 t0) t0 ∧
    Issues ((⟨p0, 7, 31, none⟩ : ShVS).use) (st 1 t0) t0 ∧ Issues ((⟨p0, 31, 7, none⟩ : ShSVS).use) (st 1 t0) t0 ∧
    Issues ((⟨p0, 7, 31, some ⟨127, true, true⟩⟩ : ShVSS).use) (st 1 t0) t0 := by
  and_intros <;> exact issues_in 1
theorem witness_VectorBitmaps : Issues ((⟨p0, 7, 1, none⟩ : ShSVV).use) (st 1 t0) t0 ∧
    Issues ((⟨p0, 0, 7, some true⟩ : ShVU).use) (st 1 t0) t0 ∧ Issues ((⟨p0, 31, 7, none⟩ : ShSV).use) (st 1 t0) t0 ∧
    isNaN 0x7F800001 = true ∧ isNaN 0xFFC00000 = true := by
  and_intros <;> first | exact issues_in 1 | exact issues_in 0 | exact clear_in | decide +kernel
theorem witness_VectorFloat : Issues ((⟨p0, 1, 2, some ⟨3, false, false⟩⟩ : ShVV).use) (st 1 t0) t0 ∧
    Issues { (⟨p0, 1, 2, some ⟨3, false, false⟩⟩ : ShVV).use with
      srcs := lanesOf 1 ++ (⟨p0, 1, 2, some ⟨3, false, false⟩⟩ : ShVV).use.srcs } (st 1 t0) t0 ∧
    Issues ((⟨p0, 0, 7, some true⟩ : ShVU).use) (st 1 t0) t0 := by
  and_intros <;> exact issues_in 1
/-- Values below zero for the square root, down to the least; NaNs and numbers; an infinity with each sum; zeros, the least and
the greatest of the finite codes, positive and not; a format and a denominator. -/
theorem witness_FloatResults : (0x80000001 : Word).getLsbD 31 = true ∧ isNaN 0x80000001 = false ∧
    (0xFF800000 : Word).getLsbD 31 = true ∧ isNaN 0xFF800000 = false ∧ isNaN 0x7F800001 = true ∧ isNaN 0x7F800000 = false ∧
    (isNaN 1 = false ∧ (1 : Word) &&& 0x7FFFFFFF ≠ 0 ∧ (0x7F800000 ^^^ 1 : Word).getLsbD 31 = false ∧
      (0xFF800000 : Word) = 0x7F800000 ^^^ 0x80000000 ∧ (0x7F800000 : Word) ≠ 0x7F800000 ^^^ 0x80000000) ∧
    ¬ (((0 : Word) &&& 0x7FFFFFFF = 0 ∧ (0 : Word) &&& 0x7FFFFFFF = 0x7F800000) ∨
      ((0 : Word) &&& 0x7FFFFFFF = 0x7F800000 ∧ (0 : Word) &&& 0x7FFFFFFF = 0)) ∧
    (([0, 0x80000000, 1, 0x7F7FFFFF, 0xFF7FFFFF] : List Word).all fun w => w.extractLsb' 23 8 != 255) = true ∧
    fpUnits 1 ≠ 0 ∧ fpUnits 0x00800000 ≠ 0 ∧ (0x7F7FFFFF : Word).getLsbD 31 = false ∧ Fmt.fp32 ≠ .log6 ∧ 0 < 1 := by
  decide +kernel
theorem witness_FloatSums : Issues ((⟨p0, 31, 7, none⟩ : ShSV).use) (st 1 t0) t0 ∧
    Issues ((⟨p0, 0, 7, some true⟩ : ShVU).use) (st 1 t0) t0 ∧ (List.replicate 16 (0 : Word)).length = 16 := by
  and_intros <;> first | exact issues_in 1 | exact issues_in 0 | exact clear_in | decide +kernel
/-- VCVT's format fields: 0, 1, 5, 6 and 15, narrowing and widening. -/
theorem witness_Conversions : ([0, 0x100, 0x500, 0x1100, 0x1500, 0x600, 0xF00] : List Word).all
      (fun w => mayB ((⟨p0, 7, 0, some ⟨8, false, false⟩⟩ : ShVVS).use) 1 (tr [(8, w)])) = true ∧
    ((0x000 : Word).extractLsb' 8 4).toNat = 0 ∧ 6 ≤ ((0x600 : Word).extractLsb' 8 4).toNat ∧
    6 ≤ ((0xF00 : Word).extractLsb' 8 4).toNat ∧ (cvtFmt ((0x100 : Word).extractLsb' 8 4).toNat).isSome = true ∧
    (cvtFmt ((0x500 : Word).extractLsb' 8 4).toNat).isSome = true ∧ (0x1100 : Word).getLsbD 12 = true := by decide +kernel

/-! ### Memory, traps and page 4 -/

theorem witness_MemoryBytes : PlaceExists (.lstore 65535 0xFFFF) ∧ PlaceExists (.hbm 3 191999999999) ∧
    PlaceExists (.peer 1023 3 191999999999) ∧ PlaceExists (.host 0xFFFFFFFFFFFF) ∧ PlaceExists (.frame 3 0xFFFF) ∧
    PlaceExists (.qstore 16383 0x1FFFF) ∧ PlaceExists (.dstore 3 0x7FFFFFF) ∧ PlaceExists (.cstore 16383 0x3FFF) ∧
    PlaceExists (.wstore 65535 0x3FFF) := by simp [PlaceExists]

/-- Each clause at a boundary: offsets -1, 2^29 and the last byte; the limit; the end of what each type names; a SPREAD address
of this core and of the next; a REMOTE one of 64 bytes, at the last byte and past it, of a core that is there and of one that is
not. -/
theorem witness_Resolution :
    segType 0 = 0 ∧ segType (mkSeg 1 0 0x3FFF 0b101000 0) = 1 ∧ segType (mkSeg 2 0 0xFFFF 0b110111 0) = 2 ∧
    segR (mkSeg 2 0 0xFFFF 0b010000 0) = false ∧ segW (mkSeg 2 0 0xFFFF 0b100000 0) = false ∧
    (-1 : Int) < 0 ∧ (2 : Int) ^ 29 ≤ 536870912 ∧ 1 % 2 ≠ 0 ∧ 63 % 64 ≠ 0 ∧
    0x10000 % 1 = 0 ∧ segLimit (mkSeg 2 0 0xFFFF 0b110111 0) < 0x10000 + 1 - 1 ∧
    0xFFFF + 1 - 1 ≤ segLimit (mkSeg 2 0 0xFFFF 0b110111 0) ∧
    segBase (mkSeg 2 0 0xFFFF 0b110111 0) + 0xFFFF + 1 - 1 < 0x10000 ∧
    0x8000 + 1 - 1 ≤ segLimit (mkSeg 2 0x8000 0xFFFF 0b110111 0) ∧
    0x10000 ≤ segBase (mkSeg 2 0x8000 0xFFFF 0b110111 0) + 0x8000 + 1 - 1 ∧
    segBase (mkSeg 1 0 0x3FFF 0b101000 0) + 0x3FFC + 4 - 1 < 0x4000 ∧
    0x4000 ≤ segBase (mkSeg 1 0x3FFE 0x3FFF 0b101000 0) + 2 + 2 - 1 ∧ (getCore (st 1 t0) 0).pairs = [] ∧
    (∀ e ∈ ([(3, 0x20000), (4, 0x8000000), (5, 2 ^ 48)] : List (Nat × Nat)),
      let d := mkSeg e.1 (e.2 - 0x100) 0x1FF 0b110101 0
      segType d = e.1 ∧ segR d = true ∧ segW d = true ∧ 0xFC + 4 - 1 ≤ segLimit d ∧ segBase d + 0xFC + 4 - 1 < e.2 ∧
        0x100 + 4 - 1 ≤ segLimit d ∧ e.2 ≤ segBase d + 0x100 + 4 - 1) ∧
    (let d := mkSeg 6 (2 ^ 32 + 0xFFC0) 0xFFFF 0b110110 0
     segType d = 6 ∧ segTarg d % 8 + 6 = 6 ∧ segBase d / 2 ^ 32 % 2 ^ 16 + 1 = 2 ∧ segBase d / 2 ^ 16 % 2 ^ 16 = 0 ∧
      63 / 2 ^ 6 % 2 = 0 ∧ 64 / 2 ^ 6 % 2 = 1 ∧ segBase d % 2 ^ 16 + 63 / 2 ^ 6 / 2 * 2 ^ 6 + 63 % 2 ^ 6 + 1 - 1 < 0x10000 ∧
      0x10000 ≤ segBase d % 2 ^ 16 + 128 / 2 ^ 6 / 2 * 2 ^ 6 + 128 % 2 ^ 6 + 1 - 1 ∧ (getCore (st 1 t0) 1).pairs = []) ∧
    (let d := mkSeg 7 0xFFC0 0xFFFF 0b110110 0
     segType d = 7 ∧ segBase d / 2 ^ 16 % 2 ^ 16 = 0 ∧ segBase d % 2 ^ 16 + 60 + 4 - 1 < 0x10000 ∧
      0x10000 ≤ segBase d % 2 ^ 16 + 64 + 1 - 1 ∧ presentCore (st 1 t0) 0 = true ∧
      presentCore { st 1 t0 with cc := Control.blank } 0 = false) := by
  decide +kernel

/-- A base register g8 and a memory operand without index. -/
def mem8 : ShM := ⟨p0, 9, 8, none, i0, none⟩
def at8 (a : Word) : Thread := tr [(8, a)]
/-- Where g8 leads, as a place. -/
def leads (s : State) (t : Thread) (n : Nat) (need : Need) (p : Place) : Bool :=
  decide (locate s s.turn t (selOf (rdReg t 8)) (offOf (rdReg t 8) + (0 : Int) * n + (0 : Int) * n) n n need = .here p none []) &&
    p.inside

theorem witness_Loads : Issues (mem8.useLoad false) (st 1 (at8 0x20000100)) (at8 0x20000100) ∧ mem8.rlx = none ∧
    Clear (st 1 (at8 0x20000100)) ∧
    ([1, 2, 4].all fun n => leads (st 1 (at8 0x20000100)) (at8 0x20000100) n needR (.lstore 0 0x100)) = true := by
  and_intros <;> first | exact issues_in 1 | exact clear_in | decide +kernel
theorem witness_Stores : Issues (mem8.useStore false) (st 1 (at8 0x20000100)) (at8 0x20000100) ∧ mem8.rlx = none ∧
    Clear (st 1 (at8 0x20000100)) ∧ (at8 0x20000100).pend = none ∧
    ([1, 2, 4].all fun n => leads (st 1 (at8 0x20000100)) (at8 0x20000100) n needW (.lstore 0 0x100)) = true := by
  and_intros <;> first | exact issues_in 1 | exact clear_in | decide +kernel

/-- The last 64 bytes of the local store; a SPREAD and a REMOTE base; the gather's lanes all at one place; no lane
enabled. -/
theorem witness_VectorMemory :
    Issues (⟨p0, 7, 8, none, i0, none⟩ : ShMV).useLoad (st 1 (at8 0x2000FFC0)) (at8 0x2000FFC0) ∧
    Issues (⟨p0, 7, 8, none, i0, none⟩ : ShMV).useStore (st 1 (at8 0x2000FFC0)) (at8 0x2000FFC0) ∧
    ([needR, needW].all fun n => leads (st 1 (at8 0x2000FFC0)) (at8 0x2000FFC0) 64 n (.lstore 0 0xFFC0)) = true ∧
    Issues (⟨p0, 7, 8, 2, false, false, i0, none⟩ : ShVG).useLoad (st 1 (at8 0x2000FFC0)) (at8 0x2000FFC0) ∧
    Issues (⟨p0, 7, 8, 2, false, false, i0, none⟩ : ShVG).useStore (st 1 (at8 0x2000FFC0)) (at8 0x2000FFC0) ∧
    (at8 0x2000FFC0).pend = none ∧ Clear (st 1 (at8 0x2000FFC0)) ∧
    ([needR, needW].all fun n => leads (st 1 (at8 0x2000FFC0)) (at8 0x2000FFC0) 4 n (.lstore 0 0xFFC0)) = true ∧
    segType ((segs0[selOf (rdReg (at8 0x2000FFC0) 8)]?).getD 0) = 2 ∧
    segType ((segs0[selOf 0xA0000000]?).getD 0) = 6 ∧ segType ((segs0[selOf 0xC0000000]?).getD 0) = 7 ∧
    Issues (⟨p0, 7, 8, 2, false, false, i0, none⟩ : ShVG).useLoad (st 1 (at8 0xA0000000)) (at8 0xA0000000) ∧
    enabledLanes { at8 0x2000FFC0 with f := 1 } = [] := by
  and_intros <;> first | exact issues_in 1 | exact clear_in | decide +kernel

/-- A relaxed store of slot 1, as it stands outstanding. -/
def acc1 (id : Nat) : Access :=
  { id := id, core := 0, slot := 1, kind := .store, parts := [⟨0, .lstore 0 0x200, 4, 7, false, none, 0x20000200, 0⟩],
    group := some 0, vas := [], passed := [], stage := .going, seq := 0, data2 := 0, named := 0x20000200, asn := 0, rewrite := none,
    result := [], okay := true, remote := false, via := .plain, each := false, left := none, trail := [] }
def stFlight (i : Nat) (t : Thread) (l : List Access) : State := { st i t with flight := l, serial := 100 }

def relaxed (n : Nat) : State := stFlight 1 (at8 0x20000100) ((List.range n).map acc1)
/-- With three accesses outstanding a fourth may issue, with four none; a vector's 64 bytes and a gather's words. -/
theorem witness_RelaxedIssue :
    (∀ n ∈ ([3, 4] : List Nat), (ownRelaxed (relaxed n) 0 1).length = n ∧
      ([1, 2, 4].all fun z => [needR, needW].all fun w => leads (relaxed n) (at8 0x20000100) z w (.lstore 0 0x100)) = true) ∧
    leads (relaxed 3) (at8 0x20000100) 64 needR (.lstore 0 0x100) = true ∧
    leads (relaxed 3) (at8 0x20000100) 64 needW (.lstore 0 0x100) = true ∧
    segType ((segs0[selOf (rdReg (at8 0x20000100) 8)]?).getD 0) = 2 ∧ enabledLanes (at8 0x20000100) = List.range 16 ∧
    Issues ((⟨p0, 9, 8, none, i0, some 7⟩ : ShM).useLoad false) (relaxed 3) (at8 0x20000100) ∧
    Issues ((⟨p0, 9, 8, none, i0, some 7⟩ : ShM).useStore false) (relaxed 3) (at8 0x20000100) ∧
    Issues ((⟨p0, 9, 8, none, i0, some 0⟩ : ShM).useLoad false) (relaxed 4) (at8 0x20000100) ∧
    Issues ((⟨p0, 9, 8, none, i0, some 0⟩ : ShM).useStore false) (relaxed 4) (at8 0x20000100) ∧
    Issues (⟨p0, 7, 8, none, i0, some 7⟩ : ShMV).useLoad (relaxed 3) (at8 0x20000100) ∧
    Issues (⟨p0, 7, 8, none, i0, some 7⟩ : ShMV).useStore (relaxed 3) (at8 0x20000100) ∧
    Issues (⟨p0, 7, 8, none, i0, some 7⟩ : ShMV).useLoad (relaxed 4) (at8 0x20000100) ∧
    Issues (⟨p0, 7, 8, none, i0, some 7⟩ : ShMV).useStore (relaxed 4) (at8 0x20000100) ∧
    Issues (⟨p0, 7, 8, 2, false, false, i0, some 7⟩ : ShVG).useLoad (relaxed 3) (at8 0x20000100) ∧
    Issues (⟨p0, 7, 8, 2, false, false, i0, some 7⟩ : ShVG).useStore (relaxed 3) (at8 0x20000100) ∧
    Issues (⟨p0, 7, 8, 2, false, false, i0, some 7⟩ : ShVG).useLoad (relaxed 4) (at8 0x20000100) ∧
    Issues (⟨p0, 7, 8, 2, false, false, i0, some 7⟩ : ShVG).useStore (relaxed 4) (at8 0x20000100) := by
  and_intros <;> first | exact issues_in 1 | decide +kernel

def stops (s : State) (t : Thread) (n : Nat) (need : Need) (e : Cause) : Bool :=
  match resolve s s.turn ((t.segs[selOf (rdReg t 8)]?).getD 0) (offOf (rdReg t 8) + (0 : Int) * n + (0 : Int) * n) n n need with
  | .error x => x = e
  | .ok _ => false

/-- A NONE segment, an offset that is not aligned, the end of the store. -/
theorem witness_AccessTraps : mayIssue (st 1 (at8 0xE0000000)) ⟨0, 1, 0, 0⟩ none = true ∧
    Issues (mem8.useLoad false) (st 1 (at8 0xE0000000)) (at8 0xE0000000) ∧
    Issues (mem8.useStore false) (st 1 (at8 0xE0000000)) (at8 0xE0000000) ∧
    ([1, 2, 4].all fun n => stops (st 1 t0) (at8 0xE0000000) n needR .segv) = true ∧
    ([2, 4].all fun n => stops (st 1 t0) (at8 0x20000001) n needW .align) = true ∧
    ([1, 2, 4].all fun n => stops (st 1 t0) (at8 0x20010000) n needW .segv) = true := by
  and_intros <;> first | exact issues_in 1 | decide +kernel

/-- A guard flag of 0; SPAWN in slot 1; a register at the thread's count; an empty source. -/
theorem witness_IssueOrder :
    threadAt (st 1 t0) (st 1 t0).turn (curSlot (st 1 t0)) = some t0 ∧ t0.role = .alone ∧ t0.late = none ∧
    ((⟨xg 1, 1, 2, none⟩ : ShT).use false).guard ≠ 0 ∧ getFlag t0 1 = false ∧
    ((⟨p0, 1, 2, none⟩ : ShU).use true).slot0.priv = true ∧ curSlot (st 1 t0) ≠ 0 ∧
    8 ∈ ((⟨p0, 8, 2, none⟩ : ShT).use false).names ∧ { t0 with lim := 8 }.lim ≤ 8 ∧
    2 ∈ ((⟨p0, 1, 2, none⟩ : ShT).use false).srcs ∧ isFull (emptyReg t0 2) 2 = false ∧
    streamTrap (emptyReg t0 2) (((⟨p0, 1, 2, none⟩ : ShT).use false).sync ++ ((⟨p0, 1, 2, none⟩ : ShT).use false).dsts) = none := by
  and_intros <;> first | exact (here_in 1).1 | decide +kernel

def vectored : Thread := { t0 with tvec := 0x100, upc := 0x200 }
theorem witness_TrapDelivery :
    goesToVector vectored 1 ⟨.brk, 0, 5, 0, false, 0⟩ = true ∧ goesToVector vectored 14 ⟨.page, 1, 5, 0, false, 0⟩ = true ∧
    goesToVector vectored 15 ⟨.brk, 0, 5, 0, false, 0⟩ = false ∧ goesToVector t0 1 ⟨.brk, 0, 5, 0, false, 0⟩ = false ∧
    goesToVector vectored 1 ⟨.page, 1, 5, 0, true, 0⟩ = false ∧ goesToVector vectored 1 ⟨.sys, 0, 5, 0, false, 0⟩ = false ∧
    inTrap vectored = false ∧ inTrap { vectored with tcause := 0x80000000 } = true ∧
    (traceOf (st 1 t0) (dieOf 0)).ctl.getLsbD 31 = false := by decide +kernel
theorem witness_TrapDelivery_slotZero : inTrap t0 = false ∧ inTrap { t0 with tcause := 0x80000001 } = true ∧
    (st 1 t0).agenda = [] ∧ { st 1 t0 with cc := { (st 1 t0).cc with fatal := true } }.cc.fatal = true := by decide +kernel

/-- A full and an empty word. -/
theorem witness_TaggedAccesses :
    Issues (mem8.useLoad true).oncely (st 1 (at8 0x20000100)) (at8 0x20000100) ∧
    Issues (mem8.useStore true).oncely (st 1 (at8 0x20000100)) (at8 0x20000100) ∧
    Issues (plainLoadUse ⟨p0, 9, 8, none, i0⟩).oncely (st 1 (at8 0x20000100)) (at8 0x20000100) ∧
    Clear (st 1 (at8 0x20000100)) ∧ (at8 0x20000100).pend = none ∧
    ([needRT, needRWT, needWT].all fun n => leads (st 1 (at8 0x20000100)) (at8 0x20000100) 4 n (.lstore 0 0x100)) = true ∧
    isFullWord (st 1 t0) (.lstore 0 0x100) = true ∧
    isFullWord (setFullWord (st 1 t0) (.lstore 0 0x100) false) (.lstore 0 0x100) = false := by
  and_intros <;> first | exact issues_in 1 | exact clear_in | decide +kernel

/-- The core's slot 1 holds the reservation of the word at 0x100. -/
def held1 : State :=
  { st 1 (at8 0x20000100) with resvs := [⟨wordKey (.lstore 0 0x100), 0, 1, some 1⟩] }
/-- AMOCAS with a word that is equal and one that is not; RSV with the word free; RLS with and without the reservation. -/
theorem witness_AtomicsAndReservations :
    Issues (mem8.useBoth true).oncely (st 1 (at8 0x20000100)) (at8 0x20000100) ∧
    Issues (casUse ⟨p0, 2, 8, none, i0, none⟩).oncely (st 1 (at8 0x20000100)) (at8 0x20000100) ∧
    Issues (plainLoadUse ⟨p0, 9, 8, none, i0⟩).oncely (st 1 (at8 0x20000100)) (at8 0x20000100) ∧
    Issues (plainStoreUse ⟨p0, 9, 8, none, i0⟩).oncely (st 1 (at8 0x20000100)) (at8 0x20000100) ∧
    Issues (plainStoreUse ⟨p0, 9, 8, none, i0⟩).oncely held1 (at8 0x20000100) ∧
    Clear (st 1 (at8 0x20000100)) ∧ (at8 0x20000100).pend = none ∧
    ([needRWA, needWA].all fun n => leads (st 1 (at8 0x20000100)) (at8 0x20000100) 4 n (.lstore 0 0x100)) = true ∧
    leads held1 (at8 0x20000100) 4 needWA (.lstore 0 0x100) = true ∧
    BitVec.ofNat 32 (loadNat (st 1 t0) (.lstore 0 0x100) 4) = rdReg (at8 0x20000100) 2 ∧
    BitVec.ofNat 32 (loadNat (st 1 t0) (.lstore 0 0x100) 4) ≠ rdReg (at8 0x20000100) 8 ∧
    (st 1 t0).resvs = [] ∧ held1.flight = [] ∧ held1.resvs = [⟨wordKey (.lstore 0 0x100), 0, 1, some 1⟩] := by
  and_intros <;> first | exact issues_in 1 | exact clear_in | decide +kernel

/-- A stream of slot 1's q2 whose word is on its way. -/
def q2Store : Access := { acc1 7 with group := none, via := .queue 2 }
/-- A line that is armed, one for which a register is free and one for which none is; WAKE set and clear; FENCE at scope
0, with nothing outstanding, with a store outstanding, with a stream's word unwritten. -/
theorem witness_WatchesAndFences :
    Issues (watchUse ⟨p0, 8, none, i0⟩).oncely (st 1 (at8 0x20000100)) (at8 0x20000100) ∧ Clear (st 1 (at8 0x20000100)) ∧
    leads (st 1 (at8 0x20000100)) (at8 0x20000100) 4 needRT (.lstore 0 0x100) = true ∧
    lineKey (.lstore 0 0x100) = 4 ∧ ({ t0 with watches := [4] } : Thread).watches.contains 4 = true ∧
    ({ t0 with watches := [1, 2, 3] } : Thread).watches.length < 4 ∧
    ¬ ({ t0 with watches := [1, 2, 3, 5] } : Thread).watches.length < 4 ∧
    Issues (⟨p0⟩ : ShZ).use.oncely (st 1 t0) t0 ∧ t0.wake = false ∧ { t0 with wake := true }.wake = true ∧
    Issues (⟨p0, 5⟩ : ShSc).use.oncely (st 1 t0) t0 ∧ allPerformed (st 1 t0) 0 1 5 = true ∧
    Issues (⟨p0, 5⟩ : ShSc).use.oncely (stFlight 1 t0 [acc1 1]) t0 ∧ allPerformed (stFlight 1 t0 [acc1 1]) 0 1 5 = false ∧
    Issues (⟨p0, 1⟩ : ShSc).use.oncely (stFlight 1 t0 [q2Store]) t0 ∧ allPerformed (stFlight 1 t0 [q2Store]) 0 1 1 = false := by
  and_intros <;> first | exact issues_in 1 | exact clear_in | decide +kernel

/-! ### Special registers, threads, launches, messages and streams -/

def sp (bank : BitVec 2) (num : BitVec 5) : ShSp := ⟨xg 0, 9, bank, num⟩

theorem witness_SpecialReads : Issues ((sp 0 0).use [] [9]) (st 1 t0) t0 ∧ Issues ((sp 0 24).use [] [9]).slot0 (st 0 t0) t0 ∧
    Issues ((sp 0 16).use [] [9]) (st 1 t0) t0 ∧ (sp 0 0).bank = 0 ∧ (sp 0 16).num = 16 := by
  and_intros <;> first | exact issues_in 1 | exact issues_in 0 | rfl
/-- HSEGS with a multiple of 64 and with another value. -/
theorem witness_SpecialWrites : Issues ((sp 0 10).use [9] []) (st 1 t0) t0 ∧ Issues ((sp 0 22).use [9] []).slot0 (st 0 t0) t0 ∧
    Issues ((sp 2 0).use [] []) (st 1 t0) t0 ∧ Issues ((sp 2 1).use [] [9]).slot0 (st 0 t0) t0 ∧
    Issues ((sp 2 0).use [9] []).slot0 (st 0 (tr [(9, 0xFFC0)])) (tr [(9, 0xFFC0)]) ∧
    (rdReg (tr [(9, 0xFFC0)]) 9).toNat % 65536 % 64 = 0 ∧ (rdReg (tr [(9, 1)]) 9).toNat % 65536 % 64 ≠ 0 ∧
    (sp 2 0).bank = 2 := by
  and_intros <;> first | exact issues_in 1 | exact issues_in 0 | decide +kernel
/-- A register with no write, with one 16 cycles old, with one 15 cycles old. -/
theorem witness_SharedRegisters : Issues ((sp 1 7).use [9] []).oncely (st 1 t0) t0 ∧ Issues ((sp 1 7).use [] [9]) (st 1 t0) t0 ∧
    (sp 1 7).bank = 1 ∧ (sp 1 7).num.toNat < 8 ∧ 0 + 16 ≤ 16 ∧ ¬ 1 + 16 ≤ 16 := by
  and_intros <;> first | exact issues_in 1 | decide

/-- A register g9 at byte 0x100 of the local store, and memory with words there. -/
def rec9 : Thread := tr [(9, 0x20000100)]
def stMem (i : Nat) (t : Thread) (ws : List Word) : State :=
  { st i t with mem := writeBytes [] (flat (.lstore 0 0x100)) (4 * ws.length) (wordsNat ws) }
def recordB (s : State) (t : Thread) (a : Word) (off : Nat) (p : Place) : Bool :=
  decide (locateRange s s.turn t (selOf a) (offOf a + off : Nat) 64 64 needR = .ok [(p, [])]) && p.inside
theorem record_of {s : State} {t : Thread} {a : Word} {off : Nat} {p : Place}
    (h : recordB s t a off p = true := by decide +kernel) : RecordAt s t a off p := by simpa [recordB, RecordAt] using h
/-- The sixteen words at the record. -/
def record (s : State) : List Word := rangeWords s [.lstore 0 0x100] 64

/-- A record of zeros is out of range; one with a count of 8 is good; all slots but slot 0 vacant, and none vacant. -/
theorem witness_Spawn : Issues ((⟨p0, 8, 9, none⟩ : ShU).use true).slot0 (stMem 0 rec9 [0, 8]) rec9 ∧
    Clear (stMem 0 rec9 [0, 8]) ∧ RecordAt (stMem 0 rec9 [0, 8]) rec9 (rdReg rec9 9) 0 (.lstore 0 0x100) ∧
    spawnOk (record (st 0 rec9)) = false ∧ spawnOk (record (stMem 0 rec9 [0, 8])) = true ∧
    spawnOk (record (stMem 0 rec9 [0, 0xE80])) = true ∧ spawnOk (record (stMem 0 rec9 [0, 0xF80])) = false ∧
    (spawnSegs (stMem 0 rec9 [0, 8]) 0 rec9 (record (stMem 0 rec9 [0, 8]))).toList.all segValid = true ∧
    (getCore (stMem 0 rec9 [0, 8]) 0).pairs = [] ∧
    spawnSlot (core0 0 rec9) 0 = some 1 ∧ spawnSlot (core0 0 rec9) 14 = some 14 ∧
    spawnSlot { core0 0 rec9 with slots := .replicate 16 ⟨.thread rec9, none⟩ } 0 = none := by
  and_intros <;> first | exact issues_in 0 | exact clear_in | exact record_of | decide +kernel

/-- An EXITED slot and one that is not; EXIT of a convoy, of slot 0, of slot 1 with and without a relaxed access; TRIGGER
with nothing outstanding and with a store outstanding, of a spawned thread and of another. -/
theorem witness_ReapExitTrigger : Issues ((⟨p0, 8, 9, none⟩ : ShU).use true).slot0 (st 0 t0) t0 ∧
    (getSlot (setContent (st 0 t0) 0 1 (.exited 5)) 0 1).content = .exited 5 ∧
    (getSlot (st 0 t0) 0 1).content = .vacant ∧ Issues ((⟨p0, 9⟩ : ShA).use [9] []).oncely (st 1 t0) t0 ∧
    Issues ((⟨p0, 9⟩ : ShA).use [9] []).oncely (st 0 t0) t0 ∧ curSlot (st 0 t0) = 0 ∧
    Issues ((⟨p0, 9⟩ : ShA).use [9] []).oncely (st 1 { t0 with convoy := true }) { t0 with convoy := true } ∧
    t0.convoy = false ∧ curSlot (st 1 t0) ≠ 0 ∧ ownFlight (st 1 t0) 0 1 = [] ∧
    Issues ((⟨p0, 9⟩ : ShA).use [9] []).oncely (stFlight 1 t0 [acc1 1]) t0 ∧ ownRelaxed (stFlight 1 t0 [acc1 1]) 0 1 ≠ [] ∧
    Issues (⟨p0⟩ : ShZ).use.oncely (st 1 t0) t0 ∧ allPerformed (st 1 t0) 0 1 4 = true ∧ t0.kind ≠ .spawned ∧
    Issues (⟨p0⟩ : ShZ).use.oncely (st 1 { t0 with kind := .spawned }) { t0 with kind := .spawned } ∧
    Issues (⟨p0⟩ : ShZ).use.oncely (stFlight 1 t0 [acc1 1]) t0 ∧ allPerformed (stFlight 1 t0 [acc1 1]) 0 1 4 = false := by
  and_intros <;> first | exact issues_in 1 | exact issues_in 0 | decide +kernel

def popThread : Thread := { tr [(9, 0x20000100)] with lid := 5 }
/-- Queue 63: closed, halted, open with 31 records; BAR of a convoy and of a thread of a population. -/
theorem witness_LaunchesAndBarriers :
    Issues ((⟨p0, 8, 9, none⟩ : ShT).use true).oncely (st 1 rec9) rec9 ∧ Clear (st 1 rec9) ∧
    RecordAt (st 1 rec9) rec9 (rdReg rec9 9) 0 (.lstore 0 0x100) ∧
    RecordAt (st 1 rec9) rec9 (rdReg rec9 9) 64 (.lstore 0 0x140) ∧
    (getQueue (st 1 rec9) 63).devq = false ∧
    (getQueue (setQueue (st 1 rec9) 63 { Queue.blank with devq := true, halt := true }) 63).halt = true ∧
    (getQueue (setQueue (st 1 rec9) 63 { Queue.blank with devq := true, recs := .replicate 31 ⟨0, none⟩ }) 63).recs.length < 32 ∧
    Issues (⟨p0, 4⟩ : ShSc).use.oncely (st 1 popThread) popThread ∧ popThread.kind = .launch ∧ popThread.lid ≠ 0 ∧
    popThread.convoy = false ∧ { popThread with convoy := true }.convoy = true ∧ (4 : BitVec 3).toNat < 5 := by
  and_intros <;> first | exact issues_in 1 | exact clear_in | exact record_of | decide +kernel

/-- Channels 7 and 8; a good and a bad entry; SEND on channels 3, 4 and 8, to a core that is present and one that is not. -/
theorem witness_MessagesOut : Issues ((⟨p0, 9, 8⟩ : ShAB).use [9, 8] [9]).oncely (st 1 (tr [(9, 8)])) (tr [(9, 8)]) ∧
    Issues ((⟨p0, 9, 8⟩ : ShAB).use [9, 8] [9]).oncely (st 1 (tr [(9, 7)])) (tr [(9, 7)]) ∧
    (rdReg (tr [(9, 7)]) 9).toNat % 64 < 8 ∧ 8 ≤ (rdReg (tr [(9, 8)]) 9).toNat % 64 ∧ curSlot (st 1 t0) ≠ 0 ∧
    entOk 0 = true ∧ entOk 0xFFFFFFFF = false ∧ Issues ((⟨p0, 9⟩ : ShA).use [9] []).oncely (st 1 t0) t0 ∧
    Issues ((⟨p0, 9, 0⟩ : ShAB).use (9 :: payloadRegs ⟨p0, 9, 0⟩) []).oncely (st 1 (tr [(9, 0x80000)])) (tr [(9, 0x80000)]) ∧
    (rdReg (tr [(9, 0x30000)]) 9).toNat / 65536 % 64 < 4 ∧ 8 ≤ (rdReg (tr [(9, 0x80000)]) 9).toNat / 65536 % 64 ∧
    allPerformed (st 1 (tr [(9, 0x80000)])) 0 1 4 = true ∧
    presentCore (st 1 t0) 0 = true ∧ presentCore (st 1 t0) 65535 = true ∧
    presentCore { st 1 t0 with cc := Control.blank } 0 = false := by
  and_intros <;> first | exact issues_in 1 | decide +kernel

/-- A GLOBAL segment whose page lies in package 1. -/
def peerT : Thread := { tr [(8, 0x80000000)] with segs := segs0.set! 4 (mkSeg 5 0 0xFFFFF 0b111111 0) }
def stPeer (t : Thread) : State :=
  { st 1 t with xl := { State.reset.xl with tlb := [⟨0, 0, 0, false, BitVec.ofNat 64 ((2 ^ 22 + 1) * 2 ^ 16 + 0xC8F)⟩] } }
/-- A free queue register and one bound elsewhere; a record in another package; a good descriptor and one of zeros; q3; UNBIND of q2 with all it took
written, and with a word on its way. -/
theorem witness_BindUnbind : Issues (⟨p0, 2, 8, 9, false, false⟩ : ShBind).use (stMem 1 rec9 [0x20000000, 1, 4]) rec9 ∧
    Clear (stMem 1 rec9 [0x20000000, 1, 4]) ∧
    RecordAt (stMem 1 rec9 [0x20000000, 1, 4]) rec9 (rdReg rec9 9) 0 (.lstore 0 0x100) ∧
    boundElsewhere rec9 2 8 = false ∧
    boundElsewhere { rec9 with streams := rec9.streams.set! 0 { Stream.off with bound := true, reg := 8 } } 2 8 = true ∧
    streamDescOk (record (stMem 1 rec9 [0x20000000, 1, 4])) = true ∧
    streamDescOk (record (stMem 1 rec9 [0x20000000, 0x1000001, 4])) = false ∧
    streamDescOk (record (stMem 1 rec9 [0x20000000, 0x1000000, 4])) = true ∧
    Issues (⟨p0, 2, 9, 8, false, false⟩ : ShBind).use (stPeer peerT) peerT ∧ Clear (stPeer peerT) ∧
    (match locateRange (stPeer peerT) 0 peerT 4 0 64 64 needR with
      | .ok l => decide (l = [(.peer 1 0 0x10000, [])]) | .error _ => false) = true ∧
    Place.inside (.peer 1 0 0x10000) = false ∧
    Issues (⟨p0, 3, 8, 9, false, false⟩ : ShBind).use (st 1 rec9) rec9 ∧
    Issues (⟨p0, 2, 3⟩ : ShQ).use.oncely (st 1 t0) t0 ∧ streamIdle (st 1 t0) 0 1 = true ∧
    Issues (⟨p0, 2, 0⟩ : ShQ).use.oncely (stFlight 1 t0 [q2Store]) t0 ∧ streamIdle (stFlight 1 t0 [q2Store]) 0 1 = false := by
  and_intros <;> first | exact issues_in 1 | exact clear_in | exact record_of | decide +kernel

/-! ### Convoys, copies and the matrix engine -/

/-- A launch over core 0 with a descriptor of zeros but for FIRST 0 and NCORE 1. -/
def launch5 : Launch :=
  { lid := 5, queue := 0, desc := 2 ^ (8 * 0x24), asn := 0, service := none, segs := segs0, shadows := none, next := 0,
    lastCore := none, tree := [0], noticed := [], sent := [], members := [], errs := 0, exit := 0, count := 0,
    convoys := 0, untriggered := 0, codeIn := [], localIn := [], conv := false }
def stPop (t : Thread) (ws : List Word) : State :=
  { stMem 1 t ws with front := ⟨.replicate 64 .blank, 63, [launch5]⟩ }
/-- A convoy of members 0 and 1 with records of 64 bytes at 0x100 of the local store. -/
def convoy : Thread :=
  { tr [(9, 0xA0000100), (10, 0x40000)] with
    lid := 5, convoy := true, lim := 24, m := 3, md := 0, qbase := 0x20000100, qstride := 64 }

/-- Every slot of the core taken, and its arrival places with them or not. -/
def convoysFull (n : Nat) : State :=
  withCore (stPop popThread [0, 0, 0, 0, 0, 0, 0, 0, 1]) fun k =>
    { k with slots := .replicate 16 ⟨.thread popThread, none⟩, heldPlaces := n }
/-- In place, with the least and the greatest register; a record that is good, of no member, out of range. -/
theorem witness_ConvoyCreation : Issues ((⟨p0, 23, 0, none⟩ : ShU).use true) (st 1 t0) t0 ∧ Issues ((⟨p0, 23, 0, none⟩ : ShU).use true) (stPop popThread []) popThread ∧
    (23 : Reg).toNat < 24 ∧ mayConvoy (stPop popThread []) popThread = true ∧ popThread.convoy = false ∧
    24 ≤ popThread.lim ∧ Issues ((⟨p0, 8, 9, none⟩ : ShU).use true) (stPop popThread [0, 0, 0, 0, 0, 0, 0, 0, 1]) popThread ∧
    mayConvoy (st 1 t0) t0 = false ∧ Clear (stPop popThread [0, 0, 0, 0, 0, 0, 0, 0, 1]) ∧
    RecordAt (stPop popThread []) popThread (rdReg popThread 9) 0 (.lstore 0 0x100) ∧
    codeAddrOk (wordAt (record (stPop popThread [1])) 0) = false ∧ wordAt (record (stPop popThread [0, 1])) 1 ≠ 0 ∧
    ((record (stPop popThread [])).drop 8).all (· == 0) = true ∧
    ((record (stPop popThread [0, 0, 0, 0, 0, 0, 0, 0, 1])).drop 8).any (· != 0) = true ∧
    (vacantSlots (core0 1 popThread)).length = 13 ∧
    Issues ((⟨p0, 8, 9, none⟩ : ShU).use true) (convoysFull 16) popThread ∧ Clear (convoysFull 16) ∧
    vacantSlots (getCore (convoysFull 16) 0) = [] ∧
    freePlaces (getCore (convoysFull 16) 0) ≤ (getCore (convoysFull 16) 0).refused.length ∧
    (getCore (convoysFull 0) 0).refused.length < freePlaces (getCore (convoysFull 0) 0) := by
  and_intros <;> first | exact issues_of (by decide +kernel) | exact issues_in 1 | exact clear_in | exact record_of | decide +kernel

def joinUse (k : Nat) : Use := Use.of p0 (wordsOfChain true p0 k) [9] [] []
def joint0 : Joint := ⟨.slot 2, 0, 100, 0xA0000100, 5, false⟩
/-- A table with a matching entry, whose holder is in slot 2. -/
def joinState : State :=
  withCore (stPop convoy []) fun k =>
    { k with joint := [joint0], slots := k.slots.set! 2 ⟨.thread convoy, none⟩ }
/-- No entry, a matching one of a holder in slot 2, a full table, a window of 0. -/
theorem witness_JoinOutcomes : Issues (joinUse 0) (stPop convoy []) convoy ∧
    segType ((convoy.segs[selOf (rdReg convoy 9)]?).getD 0) = 6 ∧ { convoy with convoy := false }.convoy = false ∧
    (match resolve (stPop convoy []) 0 (segs0[5]) (offOf (rdReg convoy 9)) 4 4 needR with
      | .ok q => decide (q = .at (.lstore 0 0x100)) | .error _ => false) = true ∧
    (stPop convoy []).flight = [] ∧
    (core0 1 convoy).joint.find? (fun j => j.ia = convoy.pc.setWidth 14 && j.node = rdReg convoy 9 && j.lid = convoy.lid) = none ∧
    Issues (joinUse 0) joinState convoy ∧ joinState.flight = [] ∧
    (getCore joinState 0).joint.find? (fun j => j.ia = convoy.pc.setWidth 14 && j.node = rdReg convoy 9 && j.lid = convoy.lid) =
      some joint0 ∧
    threadAt joinState 0 2 = some convoy ∧ 32 ≤ (List.replicate 32 joint0).length ∧
    (List.replicate 31 joint0).length < 32 ∧ i0.raw = 0 ∧ (⟨0, 31⟩ : Imm).raw ≠ 0 := by
  and_intros <;> first | exact issues_in 1 | exact issues_of (by decide +kernel) | decide +kernel

/-- Two members whose words are 0 and 7, against thresholds that neither, both or one of them is above. -/
def splitState : State := stPop convoy (0 :: List.replicate 15 0 ++ [7])
theorem witness_Splits : SplitForm convoy (.spliti ⟨p0, 10, ⟨0, 0⟩⟩) 10 (.of p0 (wordsOfChain true p0 0) [10] [] []) 0 ∧
    SplitForm convoy (.split ⟨p0, 10, 11, none⟩) 10 (.of p0 (wordsOfChain true p0 0) [10, 11] [] []) (rdReg convoy 11) ∧
    Issues (.of p0 (wordsOfChain true p0 0) [10] [] []) splitState convoy ∧ (rdReg convoy 10).extractLsb' 17 2 ≠ 3 ∧
    (0x60000 : Word).extractLsb' 17 2 = 3 ∧ Clear splitState ∧
    (match memberPlaces splitState 0 convoy ((rdReg convoy 10).toNat % 65536) (membersOf convoy.m) with
      | .ok l => decide (l = [(0, .lstore 0 0x100, []), (1, .lstore 0 0x140, [])]) | .error _ => false) = true ∧
    ([0, 7, 0xFFFFFFFF] : List Word).map (fun thr =>
        ((goesUp (rdReg convoy 10) thr (loadWord splitState (.lstore 0 0x100))),
          goesUp (rdReg convoy 10) thr (loadWord splitState (.lstore 0 0x140)))) =
      [(false, true), (false, false), (false, false)] ∧
    goesUp 0x20000 0xFFFFFFFF (loadWord splitState (.lstore 0 0x100)) = true ∧ vacantSlots (core0 1 convoy) ≠ [] := by
  refine ⟨.inr ⟨_, rfl, rfl, by decide, rfl⟩, .inl ⟨_, rfl, rfl, rfl, rfl⟩, ?_⟩
  and_intros <;> first | exact issues_in 1 | exact clear_in | decide +kernel

/-- MPOP with a member at or above and with none; QLD of member 1, of no member, of a number above 255. -/
theorem witness_ManifestsAndRecords : Issues ((⟨p0, 8, 11, none⟩ : ShU).use true) (stPop convoy []) convoy ∧
    convoy.m.getLsbD 1 = true ∧ (List.range 256).all (fun j => j < 2 || !convoy.m.getLsbD j) = true ∧
    Issues ((⟨p0, 9, true⟩ : ShMan).use [] [9]) (stPop convoy []) convoy ∧
    Issues ((⟨p0, 16, true⟩ : ShMan).use [] (groupOf 16)) (stPop convoy []) convoy ∧
    Issues ((⟨p0, 16, true⟩ : ShMan).use (groupOf 16) []) (stPop convoy []) convoy ∧
    Issues ((⟨p0, 9⟩ : ShA).use [9] []) (stPop convoy []) convoy ∧ (stPop convoy []).flight = [] ∧
    Issues ((⟨p0, 9⟩ : ShA).use [9] []) { stPop convoy [] with flight := [acc1 1] } convoy ∧
    ownAccess (stPop convoy []) 0 1 (acc1 1) = true ∧
    Issues ((⟨p0, 9⟩ : ShA).use [9] []) (st 1 t0) t0 ∧ t0.convoy = false ∧
    Issues ((⟨p0, 8, 11, none, i0, none⟩ : ShM).useLoad true) (stPop convoy []) convoy ∧
    Issues ((⟨p0, 8, 11, none, i0, none⟩ : ShM).useStore true) (stPop convoy []) convoy ∧
    (rdReg convoy 11).toNat ≤ 255 ∧ convoy.m.getLsbD (rdReg convoy 11).toNat = true ∧ convoy.m.getLsbD 255 = false ∧
    255 < (256 : Nat) ∧ Clear (stPop convoy []) ∧ convoy.pend = none ∧
    (match recAddr convoy 1 0 with | .ok q => decide (q = (1, 0x140)) | .error _ => false) = true ∧
    ([needR, needW, ⟨false, true, true, false⟩].all fun n =>
      decide (locate (stPop convoy []) 0 convoy 1 0x140 4 4 n = .here (.lstore 0 0x140) none [])) = true := by
  and_intros <;> first | exact issues_in 1 | exact clear_in | decide +kernel

/-- A descriptor of a copy of 4 bytes inside the local store; of no bytes; of a gather of one element of 4 bytes; with the
queue full. -/
def cpyWords : List Word := [0x1000, 0, 0x2000, 0, 4]
def gthWords : List Word := [0x1000, 0, 0x2000, 0, 4, 1, 0, 0, 0x3000, 0]
def copyState (ws : List Word) : State := issuedState (copyUse ⟨p0, 8, 9, none⟩).oncely (stMem 1 rec9 ws) rec9
def cpyOp (kind : CopyKind) (ws : List Word) : CopyOp :=
  copyOf (copyState ws) ⟨0, 1, 0, 4⟩ rec9 kind 0 (record (copyState ws))
def readsIndices (s : State) (o : CopyOp) (l : List Index) : Bool :=
  match indicesOf s 0 o with
  | some r => decide (r.2 = l)
  | none => false
def coversAll (s : State) (o : CopyOp) : Bool :=
  !(writeRanges o).any pastCode && (readRanges o).all (covered s 0 rec9 false) &&
    (writeRanges o).all (covered s 0 rec9 true)
def copiesFull : State := withCore (stMem 1 rec9 cpyWords) fun k => { k with copyQ := [cpyOp .cpy [], cpyOp .cpy []] }
theorem witness_CopiesAndTags : Issues (copyUse ⟨p0, 8, 9, none⟩).oncely copiesFull rec9 ∧
    2 ≤ (getCore copiesFull 0).copyQ.length ∧ Issues (copyUse ⟨p0, 8, 9, none⟩).oncely (stMem 1 rec9 cpyWords) rec9 ∧
    (core0 1 rec9).copyQ.length < 2 ∧ (0 : Word).getLsbD 15 = false ∧
    rec9.convoy = false ∧ (0 : Word).toNat / 4096 % 8 ≤ 5 ∧ Clear (stMem 1 rec9 cpyWords) ∧
    RecordAt (stMem 1 rec9 cpyWords) rec9 (rdReg rec9 9) 0 (.lstore 0 0x100) ∧
    copyDescOk (cpyOp .cpy []) (record (copyState [])) = false ∧
    copyDescOk (cpyOp .cpy cpyWords) (record (copyState cpyWords)) = true ∧
    readsIndices (copyState cpyWords) (cpyOp .cpy cpyWords) [] = true ∧ engSpace (cpyOp .cpy cpyWords).dst ≠ 5 ∧
    coversAll (copyState cpyWords) (cpyOp .cpy cpyWords) = true ∧
    copyDescOk (cpyOp .gth gthWords) (record (copyState gthWords)) = true ∧
    readsIndices (copyState gthWords) (cpyOp .gth gthWords) [.at 0] = true ∧
    coversAll (copyState gthWords) { cpyOp .gth gthWords with index := [.at 0] } = true ∧
    collPending (copyState cpyWords) 0 (cpyOp .coll cpyWords) = false ∧
    Issues ((⟨p0, 9, 2⟩ : ShAB).use (pairRegs 2) [9]).oncely (st 1 t0) t0 ∧
    Issues ((⟨p0, 2⟩ : ShB).use (pairRegs 2)).oncely (st 1 t0) t0 ∧
    (rdReg t0 3 ++ rdReg t0 2 : BitVec 64) = 0 ∧ (core0 1 t0).tags &&& (1 : BitVec 64) ≠ 0 ∧
    { core0 1 t0 with tags := 0 }.tags &&& (1 : BitVec 64) = 0 := by
  and_intros <;> first | exact issues_in 1 | exact clear_in | exact record_of | decide +kernel

def mat0 : MatCmd := commandOf (st 1 t0) t0 .mma 3 0 0
/-- Tile 3 locked by a command. -/
def stLock : State := withCore (st 1 t0) fun k => { k with matQ := [mat0] }
/-- A free and a locked tile; the index word's bit 8 set and clear; registers 125 and 126 as the first of three; both
tiles of OSPLIT inside the local store, and one past its end. -/
theorem witness_MatrixRegisters : Issues (⟨p0, 3, 9⟩ : ShFB4).use.oncely (st 1 t0) t0 ∧ (0x10000 : Word).getLsbD 16 = true ∧
    pwValid 0xFFFEFFFF = false ∧ pwValid 0x00700700 = true ∧ (0x80000000 : Word).getLsbD 31 = true ∧
    Issues (⟨p0, 3, 7, none⟩ : ShAmV).use.oncely (st 1 t0) t0 ∧ Issues (⟨p0, 9, 3⟩ : ShA4).use.oncely (st 1 t0) t0 ∧
    Issues (⟨p0, 3⟩ : ShT4).use.oncely (st 1 t0) t0 ∧ tileLocked (core0 1 t0) 3 = false ∧
    Issues (⟨p0, 3⟩ : ShT4).use.oncely stLock t0 ∧ tileLocked (getCore stLock 0) 3 = true ∧
    Issues ((⟨xg 0, 125, 3, 9, false⟩ : ShArd).use [125]).oncely stLock t0 ∧
    Issues ((⟨xg 0, 3, 125, 9, false, false⟩ : ShF4).use [125, 9]).oncely stLock t0 ∧
    Issues ((⟨xg 0, 125, 3, 9, false⟩ : ShArd).use [125]).oncely (st 1 t0) t0 ∧ (0x100 : Word).getLsbD 8 = true ∧
    t0.lim ≤ 126 + 2 ∧ 125 + 2 < t0.lim ∧ streamTrap t0 [126, 127] = none ∧ storeBusy t0 [126, 127] = false ∧
    streamBusy (core0 1 t0) 1 t0 [126, 127] = false ∧ 3 ∉ (core0 1 t0).accBad ∧
    Issues ((⟨xg 0, 3, 125, 9, false, false⟩ : ShF4).use [125, 9]).oncely (st 1 t0) t0 ∧
    isFull t0 126 = true ∧ isFull t0 127 = true ∧
    Issues { ((⟨p0, 8, 10, 9, false, false⟩ : ShR3).use []) with
      srcs := [8, 10, 9], names := [8, 10, 9], once := true } (st 1 (tr [(8, 0x20001000), (9, 0x20002000)]))
        (tr [(8, 0x20001000), (9, 0x20002000)]) ∧
    Clear (st 1 (tr [(8, 0x20001000), (9, 0x20002000)])) ∧ (tr [(8, 0x20001000), (9, 0x20002000)]).pend = none ∧
    (match ownRange (st 1 t0) ⟨0, 1, 0, 6⟩ t0 0x20001000 32 needRW with | .ok p => decide (p = .lstore 0 0x1000) | .error _ => false) = true ∧
    (match ownRange (st 1 t0) ⟨0, 1, 0, 6⟩ t0 0x20002000 32 needW with | .ok p => decide (p = .lstore 0 0x2000) | .error _ => false) = true ∧
    (match ownRange (st 1 t0) ⟨0, 1, 0, 6⟩ t0 0x20010000 32 needRW with | .ok _ => false | .error e => decide (e = .segv)) = true := by
  and_intros <;> first | exact issues_in 1 | exact clear_in | decide +kernel

/-- WLD at the end of its section and past it; MMA's four sources; CVTST with a good and a reserved format; a free entry
and none. -/
theorem witness_MatrixCommands : allPerformed (st 1 t0) 0 1 1 = true ∧ streamIdle (st 1 t0) 0 1 = true ∧
    Issues ((⟨p0, 3, 8, 9, false, false⟩ : ShF4).use [8, 9]).oncely (st 1 t0) t0 ∧
    Issues (⟨p0, 3, false, false, 8, 9, false, false⟩ : ShMma).use.oncely (st 1 t0) t0 ∧
    Issues (⟨p0, 3, false, 8, 9, false, false⟩ : ShCvt).use.oncely (st 1 t0) t0 ∧
    32 * (0x7F % 128) + 32 * (0x007F / 256 % 128 + 1) ≤ 4096 ∧ 4096 < 32 * (0x17F % 128) + 32 * (0x17F / 256 % 128 + 1) ∧
    (match operandAt (st 1 t0) ⟨0, 1, 0, 6⟩ t0 [2, 3, 4, 5] 0x20001000 32 32 needR with
      | .ok q => decide (q = (.lstore 0 0x1000, none)) | .error _ => false) = true ∧
    (match operandAt (st 1 t0) ⟨0, 1, 0, 6⟩ t0 [2] 0x40001000 32 32 needR with
      | .ok _ => false | .error e => decide (e = .segv)) = true ∧
    0x40000000 / 2 ^ 30 = 0 + 1 ∧ 0x80000000 / 2 ^ 30 = 1 + 1 ∧ 0xC0000000 / 2 ^ 30 = 3 ∧ (streamOf t0 0).bound = false ∧
    (streamOf { t0 with streams := t0.streams.set! 1 { Stream.off with bound := true, reg := 8 } } 1).bound = true ∧
    8 ≤ 0x08000000 / 2 ^ 24 % 16 ∧ ¬ 8 ≤ 0x07000000 / 2 ^ 24 % 16 ∧
    (core0 1 t0).matQ.length + (core0 1 t0).matGrant.length < 2 ∧ 2 ≤ [mat0, mat0].length + (core0 1 t0).matGrant.length ∧
    curSlot (st 1 t0) ∉ (core0 1 t0).matGrant ∧ curSlot (st 1 t0) ∈ [1] := by
  and_intros <;> first | exact issues_in 1 | decide +kernel

/-! ### Slot 0's instructions -/

def imm7 : ShImm := ⟨p0, ⟨7, 0⟩⟩
def inTr : Thread := { t0 with tcause := 0x80000001 }
/-- TRAP, BRK and SYS, SYS with a relaxed store outstanding; ERET in and out of a trap; a frame that is aligned to 16 and
one that is not; SEGSET outside slot 0 of sg0, outside the envelope, of an invalid descriptor, of a stream's segment, of a
good one. -/
theorem witness_TrapsAndReturns :
    Issues imm7.use.oncely (st 1 t0) t0 ∧ ownRelaxed (st 1 t0) 0 1 = [] ∧ streamIdle (st 1 t0) 0 1 = true ∧
    Issues imm7.use.oncely (stFlight 1 t0 [acc1 1]) t0 ∧ (ownRelaxed (stFlight 1 t0 [acc1 1]) 0 1).length = 1 ∧
    Issues (⟨p0⟩ : ShZ).use (st 1 t0) t0 ∧ inTrap t0 = false ∧ Issues (⟨p0⟩ : ShZ).use (st 1 inTr) inTr ∧ inTrap inTr = true ∧
    Issues ((⟨p0, 1, 9, none⟩ : ShU).use true) (st 1 rec9) rec9 ∧ offOf (rdReg rec9 9) % 16 = 0 ∧
    offOf (rdReg (tr [(9, 0x20000108)]) 9) % 16 ≠ 0 ∧ Clear (st 1 rec9) ∧
    (match frameWords (st 1 rec9) 0 rec9 1 0x100 [0, 1, 2, 3] with
      | .ok q => decide (q = [(.lstore 0 0x100, []), (.lstore 0 0x104, []), (.lstore 0 0x108, []), (.lstore 0 0x10C, [])])
      | .error _ => false) = true ∧
    Issues { segsetUse ⟨p0, 0, 8⟩ with names := [], srcs := [] } (st 1 t0) t0 ∧
    Issues (segsetUse ⟨p0, 1, 8⟩) (st 1 t0) t0 ∧ Issues (segsetUse ⟨p0, 0, 8⟩) (st 0 t0) t0 ∧
    withinEnvelope 0 0 = true ∧ segValid 0 = true ∧ withinEnvelope (mkSeg 2 0 0xFF 0b110000 0) 0 = false ∧
    segValid (mkSeg 1 0x4000 0 0b101000 0) = false ∧ streamUses t0 1 = false ∧
    streamUses { t0 with streams := t0.streams.set! 0 { Stream.off with bound := true, addr := 0x20000000 } } 1 = true := by
  and_intros <;> first | exact issues_in 1 | exact issues_in 0 | exact clear_in | decide +kernel

/-- A GLOBAL segment with M, its page in quad 0's buffer with R, W and A, in frame 1 of die 0's HBM. -/
def glob : Thread := { tr [(8, 0x80000000), (9, 0x80001000), (10, 0xC0010002)] with
  segs := segs0.set! 4 (mkSeg 5 0 0xFFFFF 0b111111 0) }
def stTlb (i : Nat) (t : Thread) : State :=
  { st i t with xl := { State.reset.xl with tlb := [⟨0, 0, 0, false, 0x1048F⟩] } }
/-- Page 0's tile is marked, and its mark names this address; pages 1 and 32 are plain. -/
def stMarks (a : Nat) : State :=
  let s := stTlb 1 glob
  storeNat { s with xl := { s.xl with tlb :=
      [⟨0, 0, 0, false, BitVec.ofNat 64 (2 ^ 48 + 0x1448F)⟩, ⟨0, 0, 1, false, 0x2448F⟩, ⟨0, 0, 32, false, 0x3448F⟩] } }
    (.hbm 0 0x10000) 8 (a + 1)
def plainAt (x : Xlated) (p : Place) (va : Nat) : Bool :=
  match x with
  | .ok q v l => decide (q = p) && decide (v = va) && l.isEmpty
  | _ => false
def operandIs (s : State) (t : Thread) (a : Word) (n : Need) (m : Bool) (va : Nat) : Bool :=
  match tileOperand s 0 t a n m with | .ok v => decide (v = va) | .error _ => false
def operandStops (s : State) (t : Thread) (a : Word) (n : Need) (m : Bool) : Bool :=
  match tileOperand s 0 t a n m with | .ok _ => false | .error e => decide (e = .segv)
def swp (n : Nat) : Thread := tr [(8, 0x20000100), (9, BitVec.ofNat 32 n)]
def sw : ShSw := ⟨p0, 7, 8, 9, false⟩
/-- A sweep of slot 1 whose word has come back: a fresh one, and a compare that has won. -/
def sweepPend : Pend := ⟨.sweep 0x20000100 0x40000002 0 0 0, 6, 7, []⟩
def sweepT : Thread := { swp 0 with pend := some sweepPend }
def sweepAcc (kind : AccKind) : Access :=
  { acc1 7 with kind := kind, group := none, via := .sweep, stage := .replied, result := [0x20000000] }
def stSweep (kind : AccKind) : State := { st 1 sweepT with flight := [sweepAcc kind], serial := 100 }

/-- No shootdown open and one open; RELOC's operands in GLOBAL with M, and in LOCAL; SWEEP over registers, over words of
four and of eight bytes, with a count of 0, with mode 3, past the thread's registers; the four kinds of WEARRD. -/
theorem witness_Relocation :
    Issues ((⟨p0, 8, 9⟩ : ShAB).use [8, 9] []).slot0 (st 0 t0) t0 ∧ (st 0 t0).xl.shoots = [] ∧
    (startShoot (st 0 t0) (.tlbinv 0 0) 0 0 0).xl.shoots.length = 1 ∧
    Issues (relocUse ⟨p0, 7, 8, 9, false, false⟩) (stTlb 1 glob) glob ∧
    Issues (relocUse ⟨p0, 7, 8, 0, false, false⟩) (stTlb 1 glob) glob ∧
    operandIs (stTlb 1 glob) glob 0x80000000 needRW true 0 = true ∧
    operandIs (stTlb 1 glob) glob 0x80001000 needW false 4096 = true ∧
    operandStops (stTlb 1 glob) glob 0x20000000 needRW true = true ∧
    allPerformed (stTlb 1 glob) 0 1 4 = true ∧
    plainAt (chase (stTlb 1 glob) 0 0 needRW 3 0 []) (.hbm 0 0x10000) 0 = true ∧
    plainAt (plainXlate (stTlb 1 glob) 0 0 4096) (.hbm 0 0x11000) 4096 = true ∧
    segType ((segs0[1]?).getD 0) ≠ 5 ∧
    ([2, 0x40000001, 0x80000002, 0, 0xC0000001, 200].all fun n =>
      mayB { sw.use [sw.c.toNat] [sw.a.toNat] with names := [7, 8, 9], once := true } 1 (swp n)) = true ∧
    (swp 200).lim < 8 + 200 ∧ 8 + 120 ≤ (swp 0).lim ∧ streamTrap (swp 2) [8, 9] = none ∧ storeBusy (swp 2) [8, 9] = false ∧
    streamBusy (core0 1 (swp 2)) 1 (swp 2) [8, 9] = false ∧ isFull (swp 2) 8 = true ∧
    mayIssue (st 1 (swp 0)) ⟨0, 1, 0, 0⟩ none = true ∧
    threadAt (stSweep .swap) 0 1 = some sweepT ∧ sweepT.role = .alone ∧ sweepT.pend = some sweepPend ∧
    sweepFlight (stSweep .swap) 0 1 = some (sweepAcc .swap) ∧ sweepFlight (stSweep .load) 0 1 = some (sweepAcc .load) ∧
    (sweepAcc .load).stage = .replied ∧ (sweepAcc .load).result = [0x20000000] ∧ (0x40000002 : Word).toNat / 2 ^ 30 = 1 ∧
    (stale32 (st 1 sweepT) 0 sweepT 0x20000000).2 = .fresh ∧
    segType ((glob.segs[selOf 0x80000000]?).getD 0) = 5 ∧ segM ((glob.segs[selOf 0x80000000]?).getD 0) = true ∧
    segLimit ((glob.segs[selOf 0x80100000]?).getD 0) < offOf 0x80100000 ∧
    offOf 0x800FFFFF ≤ segLimit ((glob.segs[selOf 0x800FFFFF]?).getD 0) ∧
    markedAt (stTlb 1 glob) 0 0 0 = false ∧ (∀ a ∈ ([0, 0x10000, 0x200000] : List Nat), markedAt (stMarks a) 0 0 0 = true) ∧
    (match chase (stMarks 0) 0 0 needR 3 0 [] with | .tooFar _ => true | _ => false) = true ∧
    (match chase (stMarks 0x10000) 0 0 needR 3 0 [] with | .ok _ v _ => v == 0x10000 | _ => false) = true ∧
    (match chase (stMarks 0x200000) 0 0 needR 3 0 [] with | .ok _ v _ => v == 0x200000 | _ => false) = true ∧
    Issues ((⟨p0, 7, 8, none⟩ : ShU).use true) (st 1 t0) t0 ∧
    (wearWord (st 1 t0) 0).isSome = true ∧ (wearWord (st 1 t0) 0x00080000).isSome = true ∧
    (wearWord (st 1 t0) 0x00100000).isSome = true ∧ (wearWord (st 1 t0) 0x00180003).isSome = true ∧
    wearWord { st 1 t0 with cc := Control.blank } 0 = none := by
  and_intros <;> first | exact issues_in 1 | exact issues_in 0 | decide +kernel

/-- Core 0 with a second thread in a slot. -/
def st2 (t : Thread) (i : Nat) (w : Thread) : State := setSlot (st 0 t) 0 i ⟨.thread w, none⟩
def stoppedT : Thread := { t0 with stopped := true }
def parkU : Use := ((⟨p0, 7, 8, none⟩ : ShU).use true).slot0
def ctxU : Use :=
  { ((⟨p0, 8, 9, none⟩ : ShU).use true) with
    srcs := 8 :: ((⟨p0, 8, 9, none⟩ : ShU).use true).srcs, names := 8 :: ((⟨p0, 8, 9, none⟩ : ShU).use true).names, priv := true }
def ctxT (slot : Nat) : Thread := tr [(8, BitVec.ofNat 32 slot), (9, 0x20000100)]
/-- A frame of a thread with eight registers. -/
def frame8 : List Word := frameOf { Thread.blank with lim := 8, pc := 0x40 }
def frameRange (s : State) (t : Thread) (n : Nat) (need : Need) : Bool :=
  match locateRange s 0 t 1 0x100 n 64 need with | .ok q => decide (q.length = pieceCount n) | .error _ => false

def streamT (q : Nat) (f : Stream) : Thread := { t0 with streams := t0.streams.setIfInBounds q f }
def bound0 : Stream := { Stream.off with bound := true, reg := 9, addr := 0x20000100, left := 2, stride := 4 }
/-- The states of a slot that PARK tells apart: slot 0, vacant, running, held, stopped; a frame that is good and one of
zeros; a thread that may be evicted and one that runs. -/
theorem witness_ParksAndFrames :
    Issues parkU (st 0 t0) t0 ∧ (getCore (st 0 t0) 0).pairs = [] ∧ threadAt (st 0 t0) 0 1 = none ∧
    Issues parkU (st2 t0 1 t0) t0 ∧ t0.stopped = false ∧ t0.hold = false ∧ { t0 with hold := true }.hold = true ∧
    threadAt (st2 t0 1 stoppedT) 0 1 = some stoppedT ∧ stoppedT.stopped = true ∧ stoppedT.byError = false ∧
    ownRelaxed (st2 t0 1 stoppedT) 0 1 = [] ∧ streamIdle (st2 t0 1 stoppedT) 0 1 = true ∧
    Issues ctxU (st2 (ctxT 1) 1 stoppedT) (ctxT 1) ∧ Clear (st2 (ctxT 1) 1 stoppedT) ∧
    segType ((segs0[selOf (rdReg (ctxT 1) 9)]?).getD 0) = 2 ∧ mayEvict (st2 (ctxT 1) 1 stoppedT) 0 1 = true ∧
    frameRange (st2 (ctxT 1) 1 stoppedT) (ctxT 1) (512 + 4 * 128) needW = true ∧
    Issues ctxU (stMem 0 (ctxT 0) frame8) (ctxT 0) ∧ frameRange (stMem 0 (ctxT 0) frame8) (ctxT 0) (512 + 4 * 8) needR = true ∧
    Clear (stMem 0 (ctxT 0) frame8) ∧ (t0.lim ≤ 128 ∧ t0.asn < 64 ∧ (streamOf t0 3).bound = false) ∧
    ((streamOf (streamT 3 { bound0 with hand := [5] }) 3).bound = true ∧
      (streamOf (streamT 3 { bound0 with reg := 127 }) 3).reg < 128) ∧
    frameLim (rangeWords (stMem 0 (ctxT 0) frame8) ((List.range 8).map fun k => .lstore 0 (0x100 + 64 * k)) 512) = 8 ∧
    frameLim frame8 = 8 ∧ limOk 8 = true ∧ frameOk frame8 = true ∧ limOk (frameLim (List.replicate 136 0)) = false ∧
    frameOk (frame8.set 0 1) = false ∧ loadSlot (core0 0 t0) 0 = some 1 ∧ loadSlot (core0 0 t0) 15 = none ∧
    loadSlot (core0 0 t0) 14 = some 14 := by
  and_intros <;> first | exact issues_in 0 | exact issues_of (by decide +kernel) | exact clear_in | decide +kernel

/-! ### Events -/

/-- A relaxed load of slot 1 that nothing holds up. -/
def load1 : Access := { acc1 1 with kind := .load, parts := [⟨9, .lstore 0 0x200, 4, 0, false, none, 0x20000200, 0⟩] }
/-- An RSV of slot 1 in its queue, and the reservation of slot 2, 64 and 63 cycles old. -/
def rsv1 : Access := { acc1 2 with kind := .rsv, group := none, stage := .queued, parts := [⟨0, .lstore 0 0x200, 4, 0, false, none, 0x20000200, 0⟩] }
/-- A REMOTE load whose reply is on its way. -/
def reply1 : Access := { load1 with group := none, stage := .replied, result := [5] }
def running : CopyOp := cpyOp .cpy cpyWords
def stCopy : State := withCore (stMem 1 rec9 cpyWords) fun k => { k with copyRun := [running] }
def engIs (s : State) (o : CopyOp) (need : Need) (e : Nat) (w : Bool) (p : Place) : Bool :=
  match engAt s 0 0 need e 0 (freshAt o e 0 w) with | .at s' q => decide (s'.turn = s.turn ∧ q = p) | _ => false

/-- A store into HBM, which performs before its bank. -/
def far1 : Access := { acc1 1 with parts := [⟨0, .hbm 0 0x200, 4, 7, false, none, 0x80000200, 0⟩] }
theorem witness_AccessEvents :
    (findFlight (stFlight 1 t0 [load1]) 1 = some load1 ∧ bankReady (stFlight 1 t0 [load1]) load1 = true ∧
      load1.via = .plain ∧ load1.foreign = false ∧ load1.group ≠ none ∧ load1.rewrite = none ∧
      threadAt (stFlight 1 t0 [load1]) 0 1 = some t0 ∧ (stFlight 1 t0 [load1]).bads = []) ∧
    (findFlight (stFlight 1 t0 [acc1 1]) 1 = some (acc1 1) ∧ bankReady (stFlight 1 t0 [acc1 1]) (acc1 1) = true ∧
      (acc1 1).via ≠ .sweep ∧ (acc1 1).via ≠ .probe ∧ mustQueue (stFlight 1 t0 [acc1 1]) (acc1 1) = false) ∧
    (scopeReady (stFlight 1 t0 [far1]) far1 2 = true ∧ (pointsFor (stFlight 1 t0 [far1]) far1 2).isSome = true ∧
      scopeReady (stFlight 1 t0 [far1]) far1 5 = false ∧ (stFlight 1 t0 [far1]).cc.cxl = false) ∧
    Clear stCopy ∧
    (findCopy stCopy 0 running.id = some running ∧ moving running = true ∧ running.kind = .cpy ∧ running.combined = none ∧
      0 ∉ running.moved ∧ 0 < running.bytes / 4 * running.count ∧ engSpace running.dst ≠ 5 ∧
      engIs stCopy running needW running.dst true (.lstore 0 0x2000) = true ∧
      (match engAt stCopy 0 0 needW running.dst 0 false with | .at _ q => decide (q = .lstore 0 0x2000) | _ => false) = true ∧
      engIs stCopy running needR running.src false (.lstore 0 0x1000) = true) ∧
    (queueHead (stFlight 1 t0 [rsv1]) (wordKey (.lstore 0 0x200)) = some rsv1 ∧
      grantReady (stFlight 1 t0 [rsv1]) (wordKey (.lstore 0 0x200)) = true ∧ rsv1.remote = false) ∧
    (0 + 64 ≤ ({ core0 1 t0 with cycle := 64 } : Core).cycle ∧ ¬ 0 + 64 ≤ ({ core0 1 t0 with cycle := 63 } : Core).cycle ∧
      (st 1 t0).flight = [] ∧ threadAt (st 1 t0) 0 1 = some t0 ∧ t0.role = .alone) ∧
    (findFlight (stFlight 1 t0 [reply1]) 1 = some reply1 ∧ reply1.stage = .replied ∧ reply1.okay = true ∧
      reply1.via = .plain ∧ reply1.foreign = false ∧ reply1.rewrite = none ∧ reply1.result = [5] ∧
      replyFree (stFlight 1 t0 [reply1]) reply1 = true ∧
      replyFree (stFlight 1 t0 [{ reply1 with remote := true }]) { reply1 with remote := true } = true ∧
      ({ core0 1 t0 with inbox := .replicate 64 ⟨7, 0, 1, 0, 8, [], none, none, false, 0⟩ } : Core).inbox.length = 64) := by
  and_intros <;> first | exact clear_in | decide +kernel

/-- A wait of 8 cycles that began at cycle 0, at cycle 9 and at cycle 8; a tagged load on a waiting list and a withdrawn one; PARK STOP's wait. -/
def waiting (w : Waiting) : Thread := { t0 with wlim := 8, waitFrom := some 0, pend := some ⟨w, 4, 9, []⟩ }
def ldt1 : Access := { load1 with kind := .ldt, group := none, stage := .listed }
def pairOk : Pair := ⟨1, .replicate 64 ⟨0, 4, [0], none, none⟩,
  [⟨5, [⟨0, .lstore 0 0x100, 4, 7, false, none, 0x20000100, 0⟩], true, 0, false, false, false, none, []⟩], t0, t0, 64, 64, 0, false, false⟩
def stPair : State :=
  withCore (setSlot (setSlot (st 1 t0) 0 1 ⟨.thread { t0 with role := .leading }, none⟩) 0 8
    ⟨.thread { t0 with role := .trailing }, none⟩) fun k => { k with pairs := [pairOk] }
/-- A WAITANY on g10 and g11 in slot 9, with its mask registers full, and with g10 empty. -/
def tagT (f : Bool) : Thread :=
  { (if f then t0 else emptyReg t0 10) with wlim := 8, waitFrom := some 0, status := .waitMem }
def stTag (f : Bool) : State := { st 9 (tagT f) with mem := writeBytes [] (flat (.cstore 0 0)) 4 0x14AAF4E0 }
theorem witness_ThreadEvents :
    (threadAt (stTag true) 0 9 = some (tagT true) ∧ waitOver (stTag true) 0 (tagT true) = true ∧
      tagWait (stTag true) 0 (tagT true) = true ∧ tagWait (stTag false) 0 (tagT false) = false ∧
      (tagT true).pend = none ∧ isFull (tagT false) 10 = false ∧
      (match fetchInstr (stTag false) 0 (tagT false) with | .instr (.waitany o) => decide (o = ⟨p0, 5, 10⟩) | _ => false) = true) ∧
    (waitOver (st 9 (waiting .park)) 0 (waiting .park) = true ∧ waitOver (st 8 (waiting .park)) 0 (waiting .park) = false ∧
      threadAt (st 9 (waiting .park)) 0 9 = some (waiting .park) ∧ (waiting .park).stopped = false) ∧
    (findFlight { st 9 (waiting (.access 1)) with flight := [ldt1] } 1 = some ldt1 ∧ ldt1.stage = .listed ∧
      ldt1.remote = false) ∧
    (findFlight { st 9 (waiting (.access 1)) with flight := [{ ldt1 with remote := true }] } 1 = some { ldt1 with remote := true }) ∧
    (findFlight { st 9 (waiting (.withdrawn 1 false)) with flight := [{ reply1 with okay := false }] } 1 =
      some { reply1 with okay := false } ∧
      replyFree { st 9 (waiting (.withdrawn 1 false)) with flight := [{ reply1 with okay := false }] }
        { reply1 with okay := false } = true) ∧
    (threadAt (st2 t0 1 { t0 with stopReq := true }) 0 1 = some { t0 with stopReq := true }) ∧
    (pairOf stPair 0 1 = some pairOk ∧ commitReady stPair 0 pairOk = true ∧ agree t0 t0 = true ∧
      threadAt stPair 0 1 = some { t0 with role := .leading } ∧ threadAt stPair 0 8 = some { t0 with role := .trailing } ∧
      (pairOk.cmp.all fun e => e.matched) = true) ∧
    (threadAt (st2 t0 1 { t0 with killed := true }) 0 1 = some { t0 with killed := true } ∧
      pairOf (st2 t0 1 { t0 with killed := true }) 0 1 = none) ∧
    (getSlot (setContent (st 0 t0) 0 15 .scrubbing) 0 15).content = .scrubbing := by and_intros <;> decide +kernel

/-- A message from slot 1 of core 0 on a channel; an entry for slot 15 with eight registers, and one for a fresh thread. -/
def msgOn (chan : Nat) : Msg := ⟨7, 0, 1, 0, chan, [1, 2, 3, 4, 5, 6, 7, 8], none, none, false, 0⟩
def entOf (target : Nat) : Word := BitVec.ofNat 32 (target * 2 ^ 19 + 0x100)
def stInbox (chan : Nat) (e : Word) (l : List Msg) : State :=
  withCore (st 1 (waiting (.send 7))) fun k => { k with chan := k.chan.setIfInBounds chan e, inbox := l }
/-- A stream in a page of another package. -/
def globS : Thread :=
  { streamT 0 { bound0 with addr := 0x80000000 } with segs := segs0.set! 4 (mkSeg 5 0 0xFFFFF 0b111111 0) }
def streamIs (t : Thread) (q : Nat) (need : Need) : Bool :=
  match (streamWord (st 1 t) 0 t (streamOf t q).addr need).2 with | .here p _ _ => decide (p = .lstore 0 0x100) | _ => false

/-- A REMOTE load of slot 1 whose request stands in the inbox, before the handler that boot firmware installs. -/
def asked1 : Access := { load1 with remote := true, stage := .remote, group := none }
def stAsk : State :=
  { stInbox 0 (BitVec.ofNat 32 (2 ^ 19)) [{ msgOn 0 with about := some 1 }] with flight := [asked1] }
/-- A channel that is OFF and one that is not; messages for slot 15 and for a fresh thread, with a slot for each; a REMOTE
load's system message; a queue register whose next word has been read ahead, has not, the last one; a value to take; a
message for q3 and two words left of one. -/
theorem witness_MessageEvents :
    ([(8, 0), (8, entOf 1)].all fun e => canArrive { stInbox e.1 e.2 [] with net := [msgOn 8] } 0) = true ∧
    entTarget (chanEntry (getCore (stInbox 8 0 []) 0) 8) = 0 ∧ entTarget (chanEntry (getCore (stInbox 8 (entOf 1) []) 0) 8) = 1 ∧
    (getCore (stInbox 8 0 []) 0).pairs = [] ∧
    (dispatchMsg (getCore (stInbox 8 (entOf 1) [msgOn 8]) 0) 1 = some (msgOn 8) ∧
      systemMsg (getCore (stInbox 8 (entOf 1) [msgOn 8]) 0) = none ∧
      handlerReady (stInbox 8 (entOf 1) [msgOn 8]) 0 = true ∧ (msgOn 8).words.length = 8) ∧
    (systemMsg (getCore stAsk 0) = some { msgOn 0 with about := some 1 } ∧ handlerReady stAsk 0 = true ∧
      chanEntry (getCore stAsk 0) 0 &&& 0xFFFF = 0 ∧ findFlight stAsk 1 = some asked1 ∧ asked1.via ≠ .lead ∧
      asked1.result = [] ∧ stAsk.bads = []) ∧
    (dispatchMsg (getCore (stInbox 8 (entOf 2) [msgOn 8]) 0) 2 = some (msgOn 8) ∧
      (vacantSlots (getCore (stInbox 8 (entOf 2) [msgOn 8]) 0)).head? = some 2) ∧
    (isFull (emptyReg (streamT 0 { bound0 with ahead := [5, 6] }) 9) (streamOf (streamT 0 { bound0 with ahead := [5, 6] }) 0).reg =
        false ∧ engineTakes (st 1 t0) 0 1 0 = false ∧ (streamOf (streamT 0 { bound0 with left := 1 }) 0).left ≤ 1) ∧
    (streamIs (streamT 1 bound0) 1 needR = true ∧ streamIs (streamT 2 bound0) 2 needW = true ∧
      isFull (streamT 2 bound0) (streamOf (streamT 2 bound0) 2).reg = true ∧ 0 < (streamOf (streamT 1 bound0) 1).left) ∧
    ((streamWord (stPeer globS) 0 globS 0x80000000 needR).2 |> fun r =>
      match r with | .here p _ _ => decide (p = .peer 1 0 0x10000) && !p.inside | _ => false) = true ∧
    wordOut (st 1 (streamT 2 bound0)) 0 1 2 = false ∧ heldBack (streamT 2 bound0) 9 = false ∧
    (streamOf (streamT 3 bound0) 3).hand = [] ∧ isFull (emptyReg (streamT 3 bound0) 9) 9 = false ∧
    (q3Next (getCore (stInbox 8 (entOf 4) [{ msgOn 8 with held := some 1 }]) 0) 1).isSome = true ∧
    (streamOf (streamT 3 { bound0 with hand := [5, 6] }) 3).hand = [5, 6] := by and_intros <;> decide +kernel

/-- Tables for address space 0 in die 0's HBM, with one leaf for the page of address 0. -/
def tables (s : State) : State :=
  ([(0, 0x10001), (0x10000, 0x20001), (0x20000, 0x30001), (0x30000, 0x40487)] : List (Nat × Nat)).foldl
    (fun s w => storeNat s (physPlace w.1) 8 w.2) s
def miss0 : Miss := ⟨0, 0, 0, 0, [(0, 1)]⟩
def stMiss (m : Miss) : State := let s := tables (st 1 t0); { s with xl := { s.xl with misses := [m] } }
def req0 : PageReq := ⟨0, 1, 0, 0x10000, 0x80010000, false⟩
def shoot0 : Shoot := ⟨.tlbinv 0 1, 0, 0, 0, []⟩
def stShoot : State := let s := st 1 (waiting .tlbinv); { s with xl := { s.xl with shoots := [shoot0] } }
/-- Two pages with M: tiles of frames 1 and 2 of die 0. -/
def stJig (src : Nat) (l : List JigReq) : State :=
  let s := st 1 glob
  { s with
    xl := { s.xl with tlb := [⟨0, 0, 0, false, 0x1448F⟩, ⟨0, 0, 1, false, 0x2448F⟩] }
    jigs := s.jigs.setIfInBounds 0 ⟨l ++ [⟨1, 0, 1, 0, src, 0x10000, false, 0x80000000⟩], none⟩ }
def jigIs (s : State) (r : JigReq) : Option Nat :=
  let s1 := walkAll r.core r.asn needRW 5 s r.src
  match jigAct s1 (if r.free then s1 else walkNow s1 r.core r.asn r.dst) r with | .answer n => some n | .clear => some 98 | .move _ => some 99
/-- A jig's pages: 0, 1 and 5 plain, 2, 3 and 4 marked in a chain that ends at page 0, 6 marked with itself, 7 without M; page
5's tile is being moved. -/
def stTiles : State :=
  let s := st 1 glob
  let leaf (n : Nat) : BitVec 64 := BitVec.ofNat 64 (n * 2 ^ 16 + 0x448F)
  let mark (n : Nat) : BitVec 64 := leaf n + BitVec.ofNat 64 (2 ^ 48)
  [(3, 0), (4, 0x20000), (5, 0x30000), (7, 0x60000)].foldl (fun (s : State) (e : Nat × Nat) => storeNat s (.hbm 0 (e.1 * 2 ^ 16)) 8 (e.2 + 1))
    { s with
      xl := { s.xl with tlb :=
        [⟨0, 0, 0, false, leaf 1⟩, ⟨0, 0, 1, false, leaf 2⟩, ⟨0, 0, 2, false, mark 3⟩, ⟨0, 0, 3, false, mark 4⟩,
          ⟨0, 0, 4, false, mark 5⟩, ⟨0, 0, 5, false, leaf 6⟩, ⟨0, 0, 6, false, mark 7⟩, ⟨0, 0, 7, false, 0x8048F⟩] }
      jigs := s.jigs.setIfInBounds 0
        ⟨[], some ⟨⟨1, 0, 1, 0, 0x50000, 0x10000, false, 0⟩, 0x50000, 0x10000, .hbm 0 0x60000, .hbm 0 0x20000, 1, false⟩⟩ }
def jigReq (src dst : Nat) (free : Bool) : JigReq := ⟨1, 0, 1, 0, src, dst, free, 0⟩
def jigAnswers (r : JigReq) : Option Nat :=
  match jigAct stTiles stTiles r with | .answer n => some n | .clear => some 98 | .move _ => some 99
/-- How the chase of a page ends: its marks where it reaches one, 9 at a fourth mark, none elsewhere. -/
def chased (va : Nat) : Option Nat :=
  match chase stTiles 0 0 needRW 3 va [] with | .ok _ _ l => some l.length | .tooFar _ => some 9 | _ => none
/-- A source of no page and of no destination page; a fourth mark; a mark to be taken away and none; a page without M; a
destination that is marked, and the source itself; a mark that would be the fourth; a moving source; a move. -/
theorem witness_JigStatuses :
    chased 0x90000 = none ∧ tlbFind stTiles 0 0 0x90000 = none ∧ chased 0x60000 = some 9 ∧ chased 0x20000 = some 1 ∧
    chased 0 = some 0 ∧ chased 0x40000 = some 3 ∧ chased 0x70000 = some 0 ∧ chased 0x50000 = some 0 ∧
    (∀ n ∈ ([1, 2] : List Nat), ((tlbFind stTiles 0 0 (n * 2 ^ 16)).any fun e => leafW e.leaf) = true) ∧
    ((tlbFind stTiles 0 0 0x20000).any fun e => e.leaf.getLsbD 48) = true ∧
    ((tlbFind stTiles 0 0 0).any fun e => !e.big && e.leaf.getLsbD 14) = true ∧
    ((tlbFind stTiles 0 0 0x70000).any fun e => !e.leaf.getLsbD 14) = true ∧
    markedAt stTiles 0 0 0x20000 = true ∧ markedAt stTiles 0 0 0 = false ∧ tileMoving stTiles (.hbm 0 0x60000) = true ∧
    [jigReq 0x90000 0x10000 false, jigReq 0 0x90000 false, jigReq 0x60000 0x10000 false, jigReq 0x20000 0 true,
      jigReq 0 0 true, jigReq 0x70000 0x10000 false, jigReq 0 0x20000 false, jigReq 0 0 false, jigReq 0x40000 0x10000 false,
      jigReq 0x50000 0x10000 false, jigReq 0 0x10000 false].map jigAnswers =
      [some 5, some 5, some 3, some 98, some 1, some 1, some 2, some 2, some 3, some 4, some 99] := by decide +kernel

def move0 : JigMove := ⟨⟨1, 0, 1, 0, 0, 0x10000, false, 0x80000000⟩, 0, 0x10000, .hbm 0 0x10000, .hbm 0 0x20000, 1, false⟩
def stMove : State := let s := st 1 glob; { s with jigs := s.jigs.setIfInBounds 0 ⟨[], some move0⟩ }

/-- A move whose shootdown is over. -/
def stMoved (o : ShootFor) : State :=
  let s := st 1 (waiting (.reloc 1))
  { s with jigs := s.jigs.setIfInBounds 0 ⟨[], some move0⟩, xl := { s.xl with shoots := [{ shoot0 with owner := o }] } }

/-- A walk that ends at a leaf and one that does not, in the miss's generation and in another. -/
theorem witness_TranslationEvents :
    ((st 1 t0).cc.toReplay = [] ∧ [req0][0]? = some req0 ∧ [(req0, 1)][0]? = some (req0, 1) ∧ (getCore (st 1 t0) 0).inbox.length < 64) ∧
    ((quadMisses (stMiss miss0) 0)[0]? = some miss0 ∧ genOf (stMiss miss0) 0 = miss0.gen ∧
      genOf (stMiss miss0) 0 ≠ { miss0 with gen := 1 }.gen ∧
      ((walk (stMiss miss0) 0 0).1.map fun r => (r.1, r.2.1.toNat, r.2.2)) = some (0x30000, 0x40487, false) ∧
      (walk (stMiss miss0) 0 0x10000).1 = none) ∧
    (shootReady stShoot = true ∧ stShoot.xl.shoots = [shoot0] ∧ threadAt stShoot 0 1 = some (waiting .tlbinv)) ∧
    ((jigOf (stJig 0 []) 0).move = none ∧ jigStartReady (stJig 0 []) 0 = true ∧
      jigIs (stJig 0 []) ⟨1, 0, 1, 0, 0, 0x10000, false, 0x80000000⟩ = some 99 ∧
      jigIs (stJig 0 []) ⟨1, 0, 1, 0, 0x20000, 0x10000, false, 0x80000000⟩ = some 5) ∧
    (jigIs (stMarks 0x10000) ⟨1, 0, 1, 0, 0, 0, true, 0⟩ = some 98 ∧
      threadAt (stMoved (.jigMove 0)) 0 1 = some (waiting (.reloc 1)) ∧ move0.req.id = 1 ∧
      (∀ o ∈ ([.jigMove 0, .jigFree 0] : List ShootFor), shootReady (stMoved o) = true ∧ (jigOf (stMoved o) 0).move = some move0)) ∧
    ((jigOf stMove 0).move = some move0 ∧ jigCommitReady stMove 0 = true) := by and_intros <;> decide +kernel

/-- A good descriptor: 64 bytes of code at 0, eight registers, one task on core 0, identifier 5; and with done buffer's
address misaligned. -/
def descOf (extra : Nat) : Nat :=
  2 ^ (8 * 0x08) * 64 + 2 ^ (8 * 0x1C) * 0x108 + 2 ^ (8 * 0x24) + 2 ^ (8 * 0x28) + 2 ^ (8 * 0x2C) * 5 + extra
def queueOf (l : List Rec) : Queue := { Queue.blank with recs := l, devq := true, ovSize := 8, order := 2 }
def stQueue (q : Queue) : State := setQueue (tables (st 1 t0)) 0 q
/-- A queue whose head record has been checked. -/
def stHead (d : Nat) : State := headArrives (stQueue (queueOf [⟨d, none⟩])) 0
def checked (s : State) : Option Bool :=
  match (getQueue s 0).checked with | some (.good ..) => some true | some (.bad _) => some false | none => none
def launchIn (f : Launch → Launch) : State :=
  { st 1 t0 with front := ⟨.replicate 64 .blank, 63, [f { launch5 with desc := descOf 0 }]⟩ }
def member0 : Member := ⟨0, 0, false, false⟩
/-- Slot 0's thread issues a SPAWN in the cycle in which the front end would place a task. -/
def stSpawns : State :=
  { st 0 t0 with
    mem := writeBytes [] (flat (.cstore 0 0)) 4 0x00A9F4A0
    front := ⟨.replicate 64 .blank, 63, [{ launch5 with desc := descOf 0 }]⟩ }
def barT : Thread := { waiting (.bar 1) with lid := 5 }
def stBar : State :=
  { st 1 barT with
    front := ⟨.replicate 64 .blank, 63,
      [{ launch5 with desc := descOf 0, next := 1, members := [member0], noticed := [0] }]⟩ }
def transit0 : Transit := ⟨packConvoy 0 0 convoy⟩
def fullCore (k : Core) : Core := { k with slots := .replicate 16 ⟨.thread t0, none⟩ }
def queued0 (t : Thread) : Queued := ⟨3, t, false⟩
def joinIn : Thread := { convoy with joinPending := true }
/-- A JOIN with a window of 0 and of 5 stands at the convoy's PC. -/
def stJoin (n : Word) : State :=
  let ws := encode (.join ⟨p0, 9, ⟨0, n⟩⟩)
  { st 1 t0 with
    mem := writeBytes [] (flat (.cstore 0 0)) (2 * ws.length) (ws.foldr (fun w v => v * 65536 + w.toNat) 0)
    cores := [(0, { core0 1 t0 with arrivals := [queued0 joinIn] })] }

theorem witness_LaunchEvents :
    (ringPlace (stQueue { queueOf [] with ovCount := 1 }) { queueOf [] with ovCount := 1 } 0 false =
        some (.hbm 0 0x40000) ∧ (getQueue (stQueue { queueOf [] with ovCount := 1 }) 0).ovCount = 1) ∧
    (startChoice (stHead (descOf 0)) = some 0 ∧ checked (stHead (descOf 0)) = some true ∧
      presentRange (stHead (descOf 0)) (descOf 0) = [0] ∧ dSegva (descOf 0) = 0 ∧ dFmtva (descOf 0) = 0 ∧
      startChoice (stHead (descOf (2 ^ (8 * 0x40)))) = some 0 ∧ checked (stHead (descOf (2 ^ (8 * 0x40)))) = some false) ∧
    (((placeChoice (launchIn id)).map fun r => (r.1.lid.toNat, r.2)) = some (5, 0) ∧ dPair (descOf 0) = false ∧
      (vacantSlots (core0 1 t0)).head? = some 2 ∧ spawnFirst (launchIn id) 0 = false ∧ spawnFirst stSpawns 0 = true ∧
      ((placeChoice stSpawns).map fun r => (r.1.lid.toNat, r.2)) = some (5, 0) ∧ vacantSlots (getCore stSpawns 0) ≠ []) ∧
    ((launchOf (launchIn fun l => { l with next := 1, sent := [0] }) 5).isSome = true ∧
      completeReady (launchIn fun l => { l with next := 1, sent := [0] })
        { launch5 with desc := descOf 0, next := 1, sent := [0] } = true) ∧
    ((stBar.front.launches.all fun l => episodeReady stBar l 1 0 &&
        (participants l 1 0).all fun m => ((memberThread stBar l.lid m).map fun e => e.1) == some 1) = true ∧
      (launchOf stBar barT.lid).isSome = true) := by and_intros <;> decide +kernel

theorem witness_ConvoyEvents :
    (vacantSlots (core0 1 t0) ≠ [] ∧ vacantSlots (fullCore (core0 1 t0)) = []) ∧
    (({ core0 1 t0 with arrivals := [queued0 convoy] } : Core).arrivals.find? (fun q => !q.parked) = some (queued0 convoy) ∧
      (List.range 15).find? (fun i => decide (1 ≤ i) && ((core0 1 t0).slotAt i).isVacant) = some 2) ∧
    (presentCore (st 1 t0) 0 = true ∧ presentCore { st 1 t0 with cc := Control.blank } 0 = false ∧
      { convoy with pend := some ⟨.migrate 0 false, 4, 9, []⟩ }.stopReq = false ∧
      { convoy with pend := some ⟨.migrate 0 false, 4, 9, []⟩ }.holdReq = false ∧
      draining (st 1 t0) 0 = false ∧ claimsAhead (st 1 t0) 0 convoy < freePlaces (core0 1 t0) ∧
      freePlaces { core0 1 t0 with heldPlaces := 16 } ≤ claimsAhead (st 1 t0) 0 convoy) ∧
    (([0, 5] : List (Word)).all fun n =>
      (match fetchInstr (stJoin n) 0 joinIn with | .instr (.join o) => decide (o = ⟨p0, 9, ⟨0, n⟩⟩) | _ => false) &&
        (queuedJoin (getCore (stJoin n) 0) == some (queued0 joinIn)) && (getCore (stJoin n) 0).joint.isEmpty) = true ∧
    (joinOver { core0 1 t0 with cycle := 100 } joint0 = true ∧ joinOver { core0 1 t0 with cycle := 99 } joint0 = false ∧
      joint0.holder = .slot 2) := by and_intros <;> decide +kernel

/-- A copy whose words have still to move; a collective of this thread alone, and two that disagree. -/
def coll0 : CopyOp := { running with kind := .coll, opw := 0, scope := 0, collId := 1 }
def stColl : State := withCore (stMem 1 rec9 cpyWords) fun k => { k with copyQ := [coll0] }
/-- A collective of a launch's two tasks on core 0, one of which gives twice as many bytes. -/
def collA : CopyOp := { coll0 with scope := 1, lid := 5 }
def stDiffer : State :=
  let s := withCore (stMem 1 rec9 cpyWords) fun k =>
    { k with copyQ := [collA, { collA with id := 99, slot := 2, rank := 1, bytes := 2 * coll0.bytes }] }
  { s with
    front := ⟨.replicate 64 .blank, 63,
      [{ launch5 with desc := descOf 0, next := 1, members := [member0, { member0 with rank := 1 }], noticed := [0] }]⟩ }
def matT : Thread := waiting (.matrix mat0.id)
def stMat (m : MatCmd) : State := withCore (st 1 matT) fun k => { k with matRun := some m }
def wld0 : MatCmd := { commandOf (st 1 t0) t0 .wld 0 0 0 with base := .lstore 0 0x100, slot := 1 }
def mma0 : MatCmd := { wld0 with kind := .mma, tile := 3 }
def cvt0 : MatCmd := { wld0 with kind := .cvtst, tile := 3 }
def isVal : Operand → Bool | .val _ _ => true | _ => false
def isOver : Ran → Bool | .over _ _ none => true | _ => false
theorem witness_EngineEvents :
    ((core0 1 t0).copyRun.length < 4 ∧ ({ core0 1 t0 with copyQ := [running] } : Core).copyQ = [running]) ∧
    (findCopy stCopy 0 running.id = some running ∧
      (let r := moveAll 0 (leftWords running) stCopy running
       copyOver (setCopy r.1 0 r.2) 0 r.2 = true ∧ r.2.notify = false ∧ r.2.ended = none)) ∧
    (collReady stColl 0 coll0 = true ∧ (inOrder (matched stColl 0 coll0) []).length = 1 ∧ coll0.opw / 256 % 2 = 0 ∧
      (match gatherSources (inOrder (matched stColl 0 coll0) []) stColl with | .val _ v => v.length == 1 | _ => false) = true ∧
      podOthers stColl coll0 = false ∧
      (match gatherSources (inOrder (matched stColl 0 coll0) []) { stColl with bads := [flat (.lstore 0 0x1000) / 4] } with
        | .fail _ 2 _ _ => true | _ => false) = true ∧ collReady { stColl with bads := [flat (.lstore 0 0x1000) / 4] } 0 coll0 = true ∧
      collReady stDiffer 0 collA = true ∧
      ((inOrder (matched stDiffer 0 collA) []).any fun p => decide (p.2.bytes ≠ collA.bytes)) = true) ∧
    (startReady { core0 1 t0 with matQ := [mat0] } = true ∧
      leastCmd { core0 1 t0 with matQ := [mat0] } (startable [] [mat0]) = some mat0) ∧
    (wld0.gone = false ∧ wld0.detached = false ∧ isOver (runCmd (stMat wld0) 0 wld0) = true ∧
      matT.pend = some ⟨.matrix wld0.id, 4, 9, []⟩) ∧
    (isVal (readOperand (stMat wld0) 0 wld0 (wldLen wld0.ctl)) = true ∧ wldLen wld0.ctl = 32 ∧
      (match Machine.readChain (stMat mma0) 0 (mmaBlocks mma0.ctl) (32 * mmaWoff mma0.ctl) with
        | (bs, none) => decide (bs.length = 1) && (mmaReason mma0 (bs, none)).isNone && !blocksBad (stMat mma0) 0 bs
        | _ => false) = true ∧
      isVal (mmaA (stMat mma0) 0 mma0) = true ∧ mma0.need = 0 ∧
      mma0.tile ∉ (core0 1 matT).accBad ∧ isOver (runMma (stMat mma0) 0 mma0) = true) ∧
    cvt0.va = none ∧ Clear (stMat cvt0) ∧ cvt0.tile < 4 ∧ cvt0.tile ∉ (core0 1 matT).accBad := by
  and_intros <;> first | exact clear_in | decide +kernel

/-- A ring of the host with one record, whose descriptor lies in the window, and one outside it. -/
def ringQ (wlen : Nat) : Queue :=
  { Queue.blank with enable := true, order := 2, tail := 1, wbase := 0x1000, wlen := BitVec.ofNat 64 wlen, ulen := 0xFFFF }
def stRing (wlen : Nat) : State :=
  setQueue (storeNat { st 1 t0 with mem := [] } (.host 0) 64 0x1000) 0 (ringQ wlen)
def recOf (s : State) : Nat := loadNat s (.host 0) 64
def frame0 (port : Nat) : Frame := ⟨0, false, true, port, [1, 2, 3, 4]⟩
def service0 (used : List Nat) : Service :=
  { valid := true, proto := 2, uport := 9, pattern := 0, mask := 0, queue := 0, nbuf := 1, pool := 0x8000, bufsz := 64,
    drops := 0, descva := 0x9000, crva := 0, used := used }
def stService (used : List Nat) : State :=
  let s := tables (st 1 t0)
  { s with cc := { s.cc with services := [(3, service0 used)] } }

/-- A replay whose next input is a doorbell. -/
def replays : State := { st 1 t0 with cc := { (st 1 t0).cc with toReplay := [⟨.doorbell 63 65535, 0, 9⟩] } }

/-- A range at the end of a die's memory; a ring to turn on and one that is misaligned; a queue register 63; a snapshot of
a core at its rotation's start; a record inside its window and one outside; a frame that no entry matches, one that
matches with a buffer free and with none. -/
theorem witness_HostEvents :
    (Works (st 1 t0) ∧ Clear (st 1 t0)) ∧
    ((st 1 t0).cc.dies.getLsbD 3 = true ∧ 191999999996 + 4 ≤ 192000000000 ∧ 191999999996 % 4 = 0 ∧
      (st 1 t0).cc.pkg = 0 ∧ (⟨1023, 65535, 0, 0, 3, 191999999996, .store [1, 2, 3, 4]⟩ : PeerReq).pkg = 0 ∧
      (⟨1, 0, 0, 3, 0, 0, .load 4⟩ : PeerReq).pkg ≠ 0 ∧ ¬ PeerOp.amo 0 5 = .load 4) ∧
    ((0x80000002 : Word).getLsbD 28 = false ∧ (0x8000000C : Word).getLsbD 29 = false ∧
      (getQueue (st 1 t0) 63).enable = false ∧ (st 1 t0).cc.toReplay = [] ∧ replays.cc.fatal = false ∧
      replays.cc.toReplay = [⟨.doorbell 63 (65535 : BitVec 16).toNat, 0, 9⟩] ∧ (st 1 t0).cc.notices = [] ∧ (st 1 t0).cc.recovery = false) ∧
    (obsReady { st 16 t0 with cc := { (st 16 t0).cc with obs := ⟨true, [], false, false, 0, []⟩ } } = true ∧
      presentCore (st 16 t0) 0 = true ∧ 12 % 4 = 0 ∧ 12 % 8 ≠ 0) ∧
    (ringReady (stRing 128) 0 = true ∧ (getQueue (stRing 128) 0).hand = none ∧ recOf (stRing 128) / 2 ^ 96 = 0 ∧ recOf (stRing 128) % 64 = 0 ∧
      inside (recOf (stRing 128) % 2 ^ 64) 128 0x1000 128 = true ∧
      (descRanges (loadNat (stRing 128) (.host 0x1000) 128)).all (fun p => inside p.1 p.2 0 0xFFFF) = true ∧
      inside (recOf (stRing 127) % 2 ^ 64) 128 0x1000 127 = false ∧ ringReady (stRing 127) 0 = true) ∧
    (serviceMatches (service0 []) (frame0 8) = false ∧
      ((stService []).cc.services.find? fun e => serviceMatches e.2 (frame0 9)) = some (3, service0 []) ∧
      freeBufferNo (service0 []) = some 0 ∧ freeBufferNo (service0 [0]) = none ∧
      (bufferPlaces (stService []) 0x8000 4).isSome = true ∧ (frontWords (stService []) 0 0x9000 128).isSome = true ∧
      (getQueue (stService []) 0).halt = false) := by
  and_intros <;> first | exact clear_in | decide +kernel

def peer1 : Access := { acc1 9 with group := none, parts := [⟨0, .peer 1 0 0x200, 4, 7, false, none, 0x80000200, 0⟩] }
def stDrain (spare : Option Nat) : State :=
  { st 1 { t0 with stopped := true } with life := { State.reset.life with draining := [(0, spare)] } }
def drainedLife : Life :=
  { State.reset.life with
    live := (List.range 4).map fun j => (j, { liveOf (st 1 t0) j with entry := { (liveOf (st 1 t0) j).entry with state := .drained } }) }
/-- A control core at this word, with this capability in register 1 and the data half of its memory to fetch from. -/
def stCtl (w : Nat) (c : Cap) : State :=
  let s := st 1 t0
  { s with cc := { s.cc with
      controls := 0xFFFF, ctlMem := writeBytes [] 0 4 w
      ctl := s.cc.ctl.set 15 { CtlCore.start with
        pc := 0, pcc := ⟨Cap.bits ⟨0, 2 ^ 40, 0xFF - 4, true⟩, true⟩, regs := CtlCore.blank.regs.set 1 c.val } } }
def lets (c : CapVal) (perms : List Nat) (a n : Nat) : Bool :=
  c.tag && !c.bits.getLsbD 26 && perms.all (fun b => c.bits.getLsbD (24 + b)) &&
    decide ((c.bits.extractLsb' 80 48).toNat ≤ a ∧ a + n ≤ (c.bits.extractLsb' 80 48).toNat + (c.bits.extractLsb' 32 48).toNat)
theorem lets_iff (c : CapVal) (perms : List Nat) (a n : Nat) : lets c perms a n = true ↔ CapLets c perms a n := by
  simp [lets, CapLets, and_assoc]
/-- Loads and stores at 8 past the start of the capability in register 1, of the least and the greatest width: `lw x2, 8(x1)`,
`ld`, `lbu`, `sb x2, 8(x1)`, `sd`, and the capability's own at 16 past it. -/
def ctlWords : List (Nat × RvOp × List Nat × Nat × Nat) :=
  [(0x0080A103, .load 2 2 1 8, [7], 8, 4), (0x0080B103, .load 3 2 1 8, [7], 8, 8), (0x0080C103, .load 4 2 1 8, [7], 8, 1),
    (0x00208423, .store 0 1 2 8, [6], 8, 1), (0x0020B423, .store 3 1 2 8, [6], 8, 8),
    (0x0100A10F, .loadCap 2 1 16, [7, 4], 16, 16), (0x0020C823, .storeCap 1 2 16, [6, 3], 16, 16)]
/-- Each of these words at the PC, with a capability that lets it through, one that ends a byte short, one without the
permissions, a sealed one and an untagged one; a word that does not fit in what the core may fetch. -/
theorem witness_ControlCores :
    (∀ e ∈ ctlWords, rvAt (BitVec.ofNat 32 e.1) = (some e.2.1, 4) ∧
      ctlBytes (stCtl e.1 ⟨0x100, e.2.2.2.1 + e.2.2.2.2, 0xF8, true⟩) 0 4 = e.1 ∧
      ([(⟨0x100, e.2.2.2.1 + e.2.2.2.2, 0xF8, true⟩, true), (⟨0x100, e.2.2.2.1 + e.2.2.2.2 - 1, 0xF8, true⟩, false),
          (⟨0x100, 0x1000, 0x20, true⟩, false), (⟨0x100, 0x1000, 0xFC, true⟩, false), (⟨0x100, 0x1000, 0xF8, false⟩, false)] :
          List (Cap × Bool)).all (fun c =>
        lets ((ctlCore (stCtl e.1 c.1) 15).reg 1) e.2.2.1 (0x100 + e.2.2.2.1) e.2.2.2.2 == c.2) = true) ∧
    Works (stCtl 0 rootCap) ∧ (stCtl 0 rootCap).cc.controls.getLsbD 15 = true ∧
    lets (ctlCore (stCtl 0 rootCap) 15).pcc [5] 0 4 = true ∧ (rvAt 0x0080A103).2 = 4 ∧ (rvAt 0x4509).2 = 2 ∧
    lets CtlCore.start.pcc [5] 0 4 = false := by and_intros <;> decide +kernel

/-- A request of another package; a thread to be killed; a healthy core, a drain with a spare, a drained quad; samples above
the limit at a clock above 470 and at 470; a new part. -/
theorem witness_PackageEvents :
    (Works (st 1 t0) ∧ peer1.foreign = false ∧ (st 1 t0).flight = [] ∧ findFlight (stFlight 1 t0 [peer1]) 9 = some peer1 ∧ threadAt (stFlight 1 t0 [peer1]) 0 1 = some t0 ∧ peerAccess peer1 = true ∧
      { (st 1 t0) with cc := { (st 1 t0).cc with fatal := true } }.cc.fatal = true) ∧
    (threadAt (st 1 t0) 0 1 = some t0 ∧ healthOf (st 1 t0) 0 = .healthy ∧
      (stDrain (some 4097)).life.draining.find? (fun d => d.1 = 0) = some (0, some 4097) ∧
      drainReady (stDrain (some 4097)) 0 = true ∧ logicalQuad (stDrain (some 4097)) 0 = some 0 ∧
      ((List.range 4).all fun j => decide (healthOf { st 1 t0 with life := drainedLife } j = .drained)) = true ∧
      relocating { st 1 t0 with life := drainedLife } 0 = false) ∧
    (Config.powerLimit < average (.replicate 10 3000001) ∧ 470 < clockOf (st 1 t0) 3 ∧
      ((List.range 4).all fun d => decide (clockOf { st 1 t0 with cc := { (st 1 t0).cc with clock := .replicate 4 470 } } d ≤ 470)) =
        true ∧ (st 1 t0).cc.eighths < 7 ∧ (st 1 t0).cc.overMs < 10) ∧
    (PlaceExists (.hbm 3 191999999999) ∧ ownByte (flat (.hbm 3 191999999999), 0) = true ∧
      ownByte (flat (.host 0), 0) = false ∧ ownByte (flat (.peer 0 0 0), 0) = false) ∧
    (State.reset.life.startLog = [] ∧ min 100 48 = 48 ∧ (st 1 t0).booted = true ∧ State.reset.booted = false ∧
      State.reset.cc.fatal = false ∧ { Control.blank with recovery := true }.fatal = false) := by and_intros <;> decide +kernel

def stCheck (c : Checkpoint) : State := { st 1 t0 with cc := { (st 1 t0).cc with checkpoint := some c } }
/-- What a checkpoint saves of core 0 and of one byte of die 0. -/
def image0 : Image := imageOf { st 1 { t0 with stopped := true } with mem := [(flat (.hbm 0 0), 1)] }
def stTrace (time : BitVec 64) : State :=
  { st 1 t0 with time := time, cc := { (st 1 t0).cc with traces := .replicate 4 ⟨0, 0, 0, 0, 0x80010002, 0⟩ } }
/-- No checkpoint, one that resumes before and after its image is staged, an image that is kept; a sample that is due at time 2 and not at 1; a breakpoint at the
thread's PC and elsewhere; a held thread. -/
theorem witness_HoldsAndCheckpoints :
    Works (st 1 t0) ∧ (st 1 t0).cc.checkpoint = none ∧ (st 1 t0).cc.toReplay = [] ∧ t0.kind ≠ .runtime ∧ t0.stopped = false ∧ t0.role ≠ .trailing ∧
    (stCheck ⟨true, false, none⟩).cc.checkpoint = some ⟨true, false, none⟩ ∧
    (stCheck ⟨true, true, some image0⟩).cc.checkpoint = some ⟨true, true, some image0⟩ ∧
    image0.mem = [(flat (.hbm 0 0), 1)] ∧ (∀ m ∈ image0.cores, presentCore (st 1 t0) m.core = true) ∧
    sampleReady (stTrace 2) 0 = true ∧
    sampleReady (stTrace 1) 0 = false ∧ threadAt (st 1 t0) 0 1 = some t0 ∧ t0.role = .alone ∧ pairOf (st 1 t0) 0 1 = none ∧
    breakReady (withCore (st 1 t0) fun k => { k with breakpoints := [(0, 2)] }) 0 1 = true ∧
    breakReady (withCore (st 1 t0) fun k => { k with breakpoints := [(0, 4)] }) 0 1 = false ∧ t0.hold = false ∧ t0.pend = none ∧
    { t0 with hold := true }.hold = true ∧ (waiting .park).hold = false ∧ (waiting .park).pend ≠ none := by and_intros <;> decide +kernel

def runtimeT : Thread := { t0 with kind := .runtime }
/-- Slots 1 and 15; a rotation's first cycle with the installed runtime in slot 0 and without. -/
theorem witness_CyclesCount :
    (∀ s ∈ [st 1 t0, st 15 t0, st 16 t0, st 0 runtimeT, runtimeStep (st 0 runtimeT) 0],
      queuedJoinReady (getCore s 0) = false ∧ (getCore s 0).sampling = none ∧ s.cc.checkpoint = none ∧
        relocating s 0 = false) ∧
    (getCore (st 1 t0) 0).cycle % 16 ≠ 0 ∧ (getCore (st 15 t0) 0).cycle % 16 ≠ 0 ∧
    (getCore (st 16 t0) 0).cycle % 16 = 0 ∧ isRuntime (st 16 t0) 0 = false ∧
    presentCore (st 0 runtimeT) 0 = true ∧ (getCore (st 0 runtimeT) 0).halted = false ∧ isRuntime (st 0 runtimeT) 0 = true := by
  decide +kernel

/-! ### Single steps of the spec's worked examples -/

def after (i : Instr) (s : State) : Option Thread := match exec i s with | .next s' => threadAt s' 0 1 | _ => none
def gives (i : Instr) (s : State) (n : Nat) (w : Word) : Bool := (after i s).any fun t => rdReg t n == w && isFull t n
def flagAfter (i : Instr) (s : State) (n : Nat) (b : Bool) : Bool := (after i s).any fun t => getFlag t n == b
def pcAfterStep (i : Instr) (s : State) (a : Word) : Bool := (after i s).any fun t => t.pc == a

/-- Words of the RISC-V manuals: `addi x5, x0, -1`, `lui x5, 0x80000`, `c.li a0, 2`, `divw a0, a1, a2` (R348, log entry 80). -/
theorem test_control_words : rvAt 0xFFF00293 = (some (.opImm 0 false false 5 0 (-1)), 4) ∧
    rvAt 0x800002B7 = (some (.lui 5 0xFFFFFFFF80000000), 4) ∧ rvAt 0x00004509 = (some (.opImm 0 false false 10 0 2), 2) ∧
    rvAt 0x02C5C53B = (some (.mul 4 true 10 11 12), 4) ∧ rvAt 0 = (none, 2) := by decide +kernel
/-- A store through a capability clears the tag of the word that it touches (R349). -/
theorem test_control_store_untags : (ctlStep 15 (let s := stCtl 0x00208423 ⟨0x100, 0x10, 0xF8, true⟩
    { s with cc := { s.cc with ctlTags := [16, 17] } })).cc.ctlTags = [17] := by decide +kernel

/-- A 64-bit add: four lines (03, worked example). -/
theorem test_add_wraps : gives (.add ⟨p0, 9, 11, some ⟨9, false, false⟩⟩) (st 1 (tr [(9, 0xFFFFFFF0), (11, 0x20)])) 9 0x10 = true := by
  decide +kernel
theorem test_cltu : flagAfter (.cltu ⟨p0, 1, 9, some ⟨11, false, false⟩⟩) (st 1 (tr [(9, 0x10), (11, 0x20)])) 1 true = true := by
  decide +kernel
theorem test_guard_runs : gives (.addi ⟨xg 1, 8, ⟨0, 1⟩⟩) (st 1 (setFlag (tr [(8, 3)]) 1 true)) 8 4 = true := by decide +kernel
theorem test_guard_skips : gives (.addi ⟨xg 1, 8, ⟨0, 1⟩⟩) (st 1 (tr [(8, 3)])) 8 3 = true := by decide +kernel
/-- The greatest common divisor (03, worked example). -/
theorem test_remu : gives (.remu ⟨p0, 11, 9, some ⟨10, false, false⟩⟩) (st 1 (tr [(9, 84), (10, 36)])) 11 12 = true := by
  decide +kernel
theorem test_br_back : pcAfterStep (.br ⟨p0, ⟨0, -7⟩⟩) (st 1 { t0 with pc := 0x20E }) 0x200 = true := by decide +kernel
theorem test_bf_not_taken : pcAfterStep (.bf ⟨p0, 1, ⟨0, 7⟩⟩) (st 1 { t0 with pc := 0x202 }) 0x204 = true := by decide +kernel
theorem test_bf_taken : pcAfterStep (.bf ⟨p0, 1, ⟨0, 7⟩⟩) (st 1 (setFlag { t0 with pc := 0x202 } 1 true)) 0x210 = true := by
  decide +kernel
theorem test_jr : pcAfterStep (.jr ⟨p0, 7, none⟩) (st 1 (tr [(7, 0x188)])) 0x188 = true := by decide +kernel
/-- R51: division by zero, and the least number by -1. -/
theorem test_div_zero : gives (.div ⟨p0, 9, 8, some ⟨10, false, false⟩⟩) (st 1 (tr [(8, 5), (10, 0)])) 9 0xFFFFFFFF = true := by
  decide +kernel
theorem test_div_least : gives (.div ⟨p0, 9, 8, some ⟨10, false, false⟩⟩) (st 1 (tr [(8, 0x80000000), (10, 0xFFFFFFFF)])) 9 0x80000000 =
    true := by decide +kernel
/-- Widths and signs (04, worked example). -/
def bytes8 : List Word := [0xFE017F80, 0x12348001]
def ld8 (off : Word) : ShM := ⟨p0, 9, 8, none, ⟨1, off⟩, none⟩
theorem test_ldbs : gives (.ldbs { ld8 0 with imm := i0 }) (stMem 1 (at8 0x20000100) bytes8) 9 0xFFFFFF80 = true := by decide +kernel
theorem test_ldb : gives (.ldb (ld8 1)) (stMem 1 (at8 0x20000100) bytes8) 9 0x7F = true := by decide +kernel
theorem test_ldh : gives (.ldh (ld8 2)) (stMem 1 (at8 0x20000100) bytes8) 9 0x8001 = true := by decide +kernel
theorem test_ldhs : gives (.ldhs (ld8 2)) (stMem 1 (at8 0x20000100) bytes8) 9 0xFFFF8001 = true := by decide +kernel
theorem test_ldw : gives (.ldw (ld8 1)) (stMem 1 (at8 0x20000100) bytes8) 9 0x12348001 = true := by decide +kernel
theorem test_ldb_index : gives (.ldb ⟨p0, 14, 8, some ⟨13, false, false⟩, i0, none⟩)
    (stMem 1 (regsOf (at8 0x20000100) [(13, 3)]) bytes8) 14 0xFE = true := by decide +kernel
theorem test_stw : (match exec (.stw ⟨p0, 15, 8, none, ⟨1, 2⟩, none⟩) (st 1 (regsOf (at8 0x20000100) [(15, 0x7E)])) with
    | .next s' => loadNat s' (.lstore 0 0x108) 4 == 0x7E | _ => false) = true := by decide +kernel
/-- One vector, one fixed sum (06, worked example). -/
def vec1 : Thread :=
  { tr ((32, 0x4B800000) :: (List.range 15).map fun k => (33 + k, 0x3F800000)) with lim := 128 }
theorem test_vfred : gives (.vfred ⟨p0, 9, 2, none⟩) (st 1 vec1) 9 0x4B800007 = true ∧
    ((after (.vfred ⟨p0, 9, 2, none⟩) (st 1 vec1)).any fun t => t.fpst == 0x10) = true := by decide +kernel
theorem test_vfscan : ((after (.vfscan ⟨p0, 3, 2, none⟩) (st 1 vec1)).any fun t =>
    (List.range 16).all fun k => rdReg t (48 + k) == 0x4B800000 + BitVec.ofNat 32 (k / 2)) = true := by decide +kernel
theorem test_vcvt : ((after (.vcvt ⟨p0, 3, 2, some ⟨10, false, false⟩⟩) (st 1 (regsOf vec1 [(10, 0x3F7)]))).any fun t =>
    rdRegs t 48 16 == [0x18181878, 0x18181818, 0x18181818, 0x18181818] ++ List.replicate 12 0) = true := by decide +kernel

end Sys2Proof.Tests
end

/-! Memory bytes (O39): a place is recovered from its flat address, and a load reads back the digits to base 256 that a
store has put. -/

namespace Sys2Proof.Machine

/-! ### Flat addresses -/

/-- The place whose byte lies at a flat address: the inverse of `flat` on the places of the part (log entry 2). -/
def placeAt (x : Nat) : Place :=
  let a := x % 2 ^ 56
  match x / 2 ^ 56 with
  | 0 => .lstore (a / 2 ^ 16) (a % 2 ^ 16)
  | 1 => .qstore (a / 2 ^ 17) (a % 2 ^ 17)
  | 2 => .dstore (a / 2 ^ 27) (a % 2 ^ 27)
  | 3 => .cstore (a / 2 ^ 14) (a % 2 ^ 14)
  | 4 => .wstore (a / 2 ^ 14) (a % 2 ^ 14)
  | 5 => .hbm (a / 2 ^ 38) (a % 2 ^ 38)
  | 6 => .host a
  | 7 => .peer (a / 2 ^ 40) (a / 2 ^ 38 % 4) (a % 2 ^ 38)
  | _ => .frame (a / 2 ^ 16) (a % 2 ^ 16)

/-- Number of the region of `flat` that a place lies in. -/
def Place.region : Place → Nat
  | .lstore .. => 0
  | .qstore .. => 1
  | .dstore .. => 2
  | .cstore .. => 3
  | .wstore .. => 4
  | .hbm .. => 5
  | .host .. => 6
  | .peer .. => 7
  | .frame .. => 8

/-- Every level of memory fits in its region: the next region begins after its last byte. -/
theorem flat_div_region {p : Place} (h : PlaceExists p) : flat p / 2 ^ 56 = p.region := by
  cases p
  all_goals
    simp only [PlaceExists, flat, Place.region] at h ⊢
    omega

theorem placeAt_flat {p : Place} (h : PlaceExists p) : placeAt (flat p) = p := by
  have hr := flat_div_region h
  cases p
  all_goals
    simp only [placeAt, hr, Place.region]
    simp only [PlaceExists, flat] at h ⊢
    congr 1 <;> omega

/-- No level of memory aliases another (R324, R329). -/
theorem flat_injOn : Set.InjOn flat {p | PlaceExists p} :=
  Set.LeftInvOn.injOn fun _ h => placeAt_flat h

theorem flat_shift (p : Place) (k : Nat) : flat (p.shift k) = flat p + k := by
  cases p <;> simp only [Place.shift, flat] <;> omega

theorem Place.shift_shift (p : Place) (j k : Nat) : (p.shift j).shift k = p.shift (j + k) := by
  cases p <;> simp [Place.shift, Nat.add_assoc]

@[simp] theorem Place.shift_zero (p : Place) : p.shift 0 = p := by cases p <;> rfl

/-- A move inside a level of memory stays out of the register frames. -/
theorem Place.shift_ne_frame {p : Place} (h : ∀ d a, p ≠ .frame d a) (k d a : Nat) : p.shift k ≠ .frame d a := by
  cases p with
  | frame e b => exact absurd rfl (h e b)
  | _ => nofun

/-! ### What a store leaves to be read -/

theorem readByte_of_ne_frame (s : State) {p : Place} (h : ∀ d a, p ≠ .frame d a) :
    readByte s p = memRead s.mem (flat p) := by
  cases p with
  | frame d a => exact absurd rfl (h d a)
  | _ => rfl

theorem readByte_storeNat (s : State) {p q : Place} (n v : Nat) (hp : ∀ d a, p ≠ .frame d a)
    (hq : ∀ d a, q ≠ .frame d a) :
    readByte (storeNat s p n v) q =
      if flat p ≤ flat q ∧ flat q < flat p + n then BitVec.ofNat 8 (v / 256 ^ (flat q - flat p)) else readByte s q := by
  rw [readByte_of_ne_frame _ hq, readByte_of_ne_frame _ hq, storeNat_mem s p n v hp, memRead_writeBytes]

/-- The counters of a register frame are read-only (R329). -/
@[simp] theorem readByte_storeNat_frame (s : State) (p : Place) (n v d a : Nat) :
    readByte (storeNat s p n v) (.frame d a) = readByte s (.frame d a) := by
  simp only [readByte, frameByte, storeNat_counters]

/-- Byte `k` of a stored number is its digit `k` to base 256. -/
theorem readByte_storeNat_shift (s : State) {p : Place} {n k : Nat} (v : Nat) (hp : ∀ d a, p ≠ .frame d a) (hk : k < n) :
    readByte (storeNat s p n v) (p.shift k) = BitVec.ofNat 8 (v / 256 ^ k) := by
  rw [readByte_storeNat s n v hp (Place.shift_ne_frame hp k), flat_shift, if_pos (by omega), Nat.add_sub_cancel_left]

/-- A load of `m` of the bytes of a stored number, from byte `k` on, gives digits `k` to `k + m - 1`. -/
theorem loadNat_storeNat_shift (s : State) {p : Place} {n k m : Nat} (v : Nat) (hp : ∀ d a, p ≠ .frame d a)
    (hkm : k + m ≤ n) : loadNat (storeNat s p n v) (p.shift k) m = v / 256 ^ k % 256 ^ m := by
  induction m generalizing k with
  | zero => simp [loadNat, Nat.mod_one]
  | succ m ih =>
    have hrest : v / 256 ^ (k + 1) = v / 256 ^ k / 256 := by rw [pow_succ, Nat.div_div_eq_div_mul]
    calc loadNat (storeNat s p n v) (p.shift k) (m + 1)
        = (readByte (storeNat s p n v) (p.shift k)).toNat + 256 * loadNat (storeNat s p n v) (p.shift (k + 1)) m := by
          rw [loadNat, Place.shift_shift]
      _ = v / 256 ^ k % 256 + 256 * (v / 256 ^ k / 256 % 256 ^ m) := by
          rw [readByte_storeNat_shift s v hp (by omega), ih (by omega), hrest, BitVec.toNat_ofNat]
      _ = v / 256 ^ k % 256 ^ (m + 1) := by rw [pow_succ', Nat.mod_mul]

theorem loadNat_storeNat (s : State) {p : Place} (n v : Nat) (hp : ∀ d a, p ≠ .frame d a) :
    loadNat (storeNat s p n v) p n = v % 256 ^ n := by
  simpa using loadNat_storeNat_shift s (k := 0) v hp (Nat.zero_add n).le

/-! ### The obligation -/

theorem placesDistinct : Claim.PlacesDistinct := fun _ _ hp hq h => flat_injOn hp hq h

theorem storeBytes : Claim.StoreBytes := fun s p _ n v hp =>
  ⟨readByte_storeNat s n v hp, readByte_storeNat_frame s p n v, fun d a => storeNat_frame s d a n v⟩

theorem loadAfterStore : Claim.LoadAfterStore := fun s _ n v hp => loadNat_storeNat s n v hp

/-- Settles O39: `placeAt` inverts `flat` on the places of the part, and the bytes of a store are the digits to base 256
that a load adds up. -/
theorem memoryBytes : Obligations.MemoryBytes := ⟨placesDistinct, storeBytes, loadAfterStore⟩

end Sys2Proof.Machine

/-! Writes to registers, flags and lanes (O30): what each names takes its value, and everything else stays. -/

namespace Sys2Proof.Machine

/-! ### Registers and flags -/

@[simp] theorem isFull_zero (t : Thread) : isFull t 0 = true := rfl

/-- A write changes a thread's registers and full bits alone. -/
theorem wrReg_eq (t : Thread) (n : Nat) (v : Word) : ∃ r b, wrReg t n v = { t with regs := r, full := b } := by
  unfold wrReg
  split
  · exact ⟨t.regs, t.full, rfl⟩
  · exact ⟨_, _, rfl⟩

theorem wrReg_rest (t : Thread) (n : Nat) (v : Word) : { wrReg t n v with regs := t.regs, full := t.full } = t := by
  obtain ⟨r, b, h⟩ := wrReg_eq t n v
  rw [h]

theorem setFlag_rest (t : Thread) (i : Nat) (b : Bool) : { setFlag t i b with f := t.f } = t := by
  unfold setFlag
  split <;> rfl

theorem registerWrite : Claim.RegisterWrite := by
  intro t v
  refine ⟨wrReg_zero t v, rdReg_zero t, isFull_zero t, rfl, fun n h0 hn => ?_⟩
  have hn0 : n ≠ 0 := by omega
  refine ⟨rdReg_wrReg_same t n v hn0 hn, ?_, ?_, rdReg_emptyReg t n n, fun m hm hne => ⟨?_, ?_, ?_⟩, wrReg_rest t n v⟩
  · rw [isFull_wrReg t n n v hn, if_pos rfl]
  · rw [isFull_emptyReg t n n hn, if_pos ⟨rfl, hn0⟩]
  · exact rdReg_wrReg_ne t n m v hne
  · rw [isFull_wrReg t n m v hm, if_neg hne]
  · rw [isFull_emptyReg t n m hm, if_neg (fun h => hne h.1)]

theorem flagWrite : Claim.FlagWrite := by
  intro t b
  refine ⟨rfl, fun v => by simp [getFlag, setFlags], fun i h0 hi => ⟨?_, fun j hj hne => ?_, setFlag_rest t i b⟩⟩
  · rw [getFlag_setFlag t i i b hi, if_pos ⟨rfl, by omega⟩]
  · rw [getFlag_setFlag t i j b hj, if_neg (fun h => hne h.1)]

/-! ### Lanes -/

/-- The lanes below `k` of a vector register, written one after another as `wrLanes` does. -/
def wrLanesTo (t : Thread) (v : VReg) (f : Nat → Option Word) (k : Nat) : Thread :=
  (List.range k).foldl (fun t i => match f i with | none => t | some x => wrReg t (16 * v.toNat + i) x) t

theorem wrLanes_eq_wrLanesTo (t : Thread) (v : VReg) (f : Nat → Option Word) : wrLanes t v f = wrLanesTo t v f 16 := rfl

theorem wrLanesTo_succ (t : Thread) (v : VReg) (f : Nat → Option Word) (k : Nat) :
    wrLanesTo t v f (k + 1) =
      match f k with
      | none => wrLanesTo t v f k
      | some x => wrReg (wrLanesTo t v f k) (16 * v.toNat + k) x := by
  simp only [wrLanesTo, List.range_succ, List.foldl_append, List.foldl_cons, List.foldl_nil]

/-- The register `n` is lane `i` of `v`, for some `i` below `k` that has a value. -/
def LaneGiven (v : VReg) (f : Nat → Option Word) (k n : Nat) : Prop :=
  ∃ i x, i < k ∧ f i = some x ∧ n = 16 * v.toNat + i

/-- A register that is no lane with a value keeps its value and its full bit. -/
theorem wrLanesTo_other (t : Thread) (v : VReg) (f : Nat → Option Word) {k n : Nat} (hn : n < 128)
    (h : ¬ LaneGiven v f k n) :
    rdReg (wrLanesTo t v f k) n = rdReg t n ∧ isFull (wrLanesTo t v f k) n = isFull t n := by
  induction k with
  | zero => exact ⟨rfl, rfl⟩
  | succ k ih =>
    obtain ⟨hr, hf⟩ := ih fun ⟨i, x, hi, hx, e⟩ => h ⟨i, x, by omega, hx, e⟩
    rw [wrLanesTo_succ]
    cases hx : f k with
    | none => exact ⟨hr, hf⟩
    | some x =>
      have hne : n ≠ 16 * v.toNat + k := fun e => h ⟨k, x, by omega, hx, e⟩
      exact ⟨by rw [rdReg_wrReg_ne _ _ _ _ hne, hr], by rw [isFull_wrReg _ _ _ _ hn, if_neg hne, hf]⟩

/-- A lane with a value takes it and is full: a later lane is another register. -/
theorem wrLanesTo_given (t : Thread) (v : VReg) (f : Nat → Option Word) {k i : Nat} {w : Word} (hi : i < k)
    (hf : f i = some w) (h0 : 16 * v.toNat + i ≠ 0) (hn : 16 * v.toNat + i < 128) :
    rdReg (wrLanesTo t v f k) (16 * v.toNat + i) = w ∧ isFull (wrLanesTo t v f k) (16 * v.toNat + i) = true := by
  induction k with
  | zero => omega
  | succ k ih =>
    rw [wrLanesTo_succ]
    by_cases hik : i = k
    · subst hik
      rw [hf]
      exact ⟨rdReg_wrReg_same _ _ _ h0 hn, by rw [isFull_wrReg _ _ _ _ hn, if_pos rfl]⟩
    · obtain ⟨hr, hfull⟩ := ih (by omega)
      have hne : 16 * v.toNat + i ≠ 16 * v.toNat + k := by omega
      cases f k with
      | none => exact ⟨hr, hfull⟩
      | some x => exact ⟨by rw [rdReg_wrReg_ne _ _ _ _ hne, hr], by rw [isFull_wrReg _ _ _ _ hn, if_neg hne, hfull]⟩

theorem wrLanesTo_rest (t : Thread) (v : VReg) (f : Nat → Option Word) (k : Nat) :
    { wrLanesTo t v f k with regs := t.regs, full := t.full } = t := by
  induction k with
  | zero => rfl
  | succ k ih =>
    rw [wrLanesTo_succ]
    cases f k with
    | none => exact ih
    | some x =>
      obtain ⟨r, b, h⟩ := wrReg_eq (wrLanesTo t v f k) (16 * v.toNat + k) x
      simp only [h]
      exact ih

theorem laneWrite : Claim.LaneWrite := by
  intro t v f
  have hv := v.isLt
  simp only [wrLanes_eq_wrLanesTo, lane]
  refine ⟨fun i hi h0 w hw => wrLanesTo_given t v f hi hw h0 (by omega), fun i hi hf => ?_, fun n hn hne => ?_,
    wrLanesTo_rest t v f 16⟩
  · refine wrLanesTo_other t v f (by omega) fun ⟨j, x, hj, hx, e⟩ => ?_
    obtain rfl : i = j := by omega
    simp [hf] at hx
  · exact wrLanesTo_other t v f hn fun ⟨j, x, hj, hx, e⟩ => hne (by omega)

/-- Settles O30: register and flag writes by the laws of one write, lanes by induction on the number of lanes written. -/
theorem registerAccess : Obligations.RegisterAccess := ⟨registerWrite, flagWrite, laneWrite⟩

end Sys2Proof.Machine

/-! What stands at the PC (O3, O28): the words that fetch reads, the chains that no decoder accepts, and the step that runs
an instruction or takes the exception of fetch or decoding. -/

namespace Sys2Proof.Machine

open Host (Outcome)

/-! ### Fetching -/

/-- The halfwords `ws` can be fetched one after another from address `a` on. -/
def FetchedFrom (s : State) (c : Nat) (t : Thread) (a : Word) (ws : List Half) : Prop :=
  ∀ k (h : k < ws.length),
    fetchFault t (a + BitVec.ofNat 32 (2 * k)) = none ∧ fetchHalf s c t (a + BitVec.ofNat 32 (2 * k)) = ws[k]

theorem add_two_mul_succ (a : Word) (k : Nat) : a + BitVec.ofNat 32 (2 * (k + 1)) = a + 2 + BitVec.ofNat 32 (2 * k) := by
  bv_omega

theorem fetchedFrom_cons (s : State) (c : Nat) (t : Thread) (a : Word) (w : Half) (ws : List Half) :
    FetchedFrom s c t a (w :: ws) ↔
      fetchFault t a = none ∧ fetchHalf s c t a = w ∧ FetchedFrom s c t (a + 2) ws := by
  constructor
  · intro h
    obtain ⟨hf, hw⟩ := h 0 (by simp)
    refine ⟨by simpa using hf, by simpa using hw, fun k hk => ?_⟩
    have := h (k + 1) (by simpa using hk)
    rwa [add_two_mul_succ] at this
  · rintro ⟨hf, hw, hs⟩ k hk
    cases k with
    | zero => exact ⟨by simpa using hf, by simpa using hw⟩
    | succ k =>
      rw [add_two_mul_succ]
      exact hs k (by simpa using hk)

/-- A halfword is its two bytes, the low one first (R6). -/
theorem ofNat_bytes (w : Half) :
    BitVec.ofNat 16 ((w.setWidth 8).toNat + 256 * (w.extractLsb' 8 8).toNat) = w := by
  have := w.isLt
  apply BitVec.eq_of_toNat_eq
  simp only [BitVec.toNat_ofNat, BitVec.toNat_setWidth, BitVec.extractLsb'_toNat, Nat.shiftRight_eq_div_pow]
  omega

theorem fetchedFrom_of_standsAtPc {s : State} {c : Nat} {t : Thread} {ws : List Half} (h : StandsAtPc s c t ws) :
    FetchedFrom s c t t.pc ws := by
  intro k hk
  obtain ⟨hf, hlo, hhi⟩ := h k hk
  refine ⟨hf, ?_⟩
  simp only [fetchHalf, loadNat, Place.shift, hlo, hhi, Nat.mul_zero, Nat.add_zero, ofNat_bytes]

/-- Fetch ends at the first base word, or at the fifth word (R22, R31). -/
theorem fetchWords_chain {s : State} {c : Nat} {t : Thread} {ws : List Half} {n : Nat} {a : Word}
    (h : FetchedFrom s c t a ws) (hn : ws ≠ []) (hl : ws.length ≤ n) (hp : ∀ w ∈ ws.dropLast, isPrefixWord w = true)
    (he : ws.length = n ∨ ∀ w ∈ ws.getLast?, isPrefixWord w = false) : fetchWords s c t n a = .ok ws := by
  induction ws generalizing n a with
  | nil => exact absurd rfl hn
  | cons w ws ih =>
    obtain ⟨hf, hw, hs⟩ := (fetchedFrom_cons ..).mp h
    obtain ⟨n, rfl⟩ : ∃ m, n = m + 1 := ⟨n - 1, by simp only [List.length_cons] at hl; omega⟩
    simp only [List.length_cons, Nat.add_le_add_iff_right] at hl
    simp only [List.length_cons, Nat.add_right_cancel_iff] at he
    simp only [fetchWords, hf, hw]
    cases ws with
    | nil =>
      rcases he with rfl | he
      · cases isPrefixWord w <;> rfl
      · rw [if_neg (by simp [he w rfl])]
    | cons v ws =>
      have hpw : isPrefixWord w = true := hp w (by simp)
      rw [if_pos hpw, ih hs (by simp) hl (fun u hu => hp u (by simp [hu])) (by simpa using he)]

/-- Behind prefixes alone, fetch stops at the first word that it cannot fetch (R18; log entry 34). -/
theorem fetchWords_fault {s : State} {c : Nat} {t : Thread} {ws : List Half} {n : Nat} {a : Word} {f : Cause}
    (h : FetchedFrom s c t a ws) (hl : ws.length < n) (hp : ∀ w ∈ ws, isPrefixWord w = true)
    (hf : fetchFault t (a + BitVec.ofNat 32 (2 * ws.length)) = some f) :
    fetchWords s c t n a = .error (f, a + BitVec.ofNat 32 (2 * ws.length)) := by
  induction ws generalizing n a with
  | nil =>
    obtain ⟨n, rfl⟩ : ∃ m, n = m + 1 := ⟨n - 1, by simp only [List.length_nil] at hl; omega⟩
    simp only [List.length_nil, Nat.mul_zero, BitVec.add_zero] at hf ⊢
    simp only [fetchWords, hf]
  | cons w ws ih =>
    obtain ⟨h0, hw, hs⟩ := (fetchedFrom_cons ..).mp h
    obtain ⟨n, rfl⟩ : ∃ m, n = m + 1 := ⟨n - 1, by simp only [List.length_cons] at hl; omega⟩
    simp only [List.length_cons, Nat.add_lt_add_iff_right] at hl
    rw [List.length_cons, add_two_mul_succ] at hf ⊢
    simp only [fetchWords, h0, hw, if_pos (hp w List.mem_cons_self),
      ih hs hl (fun u hu => hp u (List.mem_cons_of_mem _ hu)) hf]

/-! ### The step at a slot that may issue -/

theorem step_of_issuer {s : State} {t : Thread} (ha : s.agenda = []) (hd : isDown s = false) (hdue : due s = none)
    (hi : issuer s s.turn = some t) :
    step s = match fetchInstr s s.turn t with
      | .instr i => exec i { s with agenda := [.event (.coreCycle s.turn)] }
      | .trap x => .next (issueTrap { s with agenda := [.event (.coreCycle s.turn)] } s.turn (curSlot s) t x) := by
  simp only [step, ha, hd, hdue, cycleOf, hi]
  rfl

/-- Settles O3: fetch reads the words that stand at the PC up to the base word, and the cycle runs what they decode to. -/
theorem stepRunsDecoded : Obligations.StepRunsDecoded := by
  intro s t ws i n ha hd hdue hi hne hlen hpre hlast hst hdec
  have hw := fetchWords_chain (fetchedFrom_of_standsAtPc hst) hne hlen hpre (.inr hlast)
  have hf : fetchInstr s s.turn t = .instr i := by simp only [fetchInstr, hw, hdec]
  rw [step_of_issuer ha hd hdue hi, hf]

theorem stepTrapsUndecoded : Claim.StepTrapsUndecoded := by
  intro s t ws ha hd hdue hi hst
  have hfrom := fetchedFrom_of_standsAtPc hst
  refine ⟨fun f hlen hpre hfault => ?_, fun hne hlen hpre hend hdec => ?_⟩
  · have hf : fetchInstr s s.turn t =
        .trap ⟨f, 0, t.pc + BitVec.ofNat 32 (2 * ws.length), t.pc, false, 0⟩ := by
      simp only [fetchInstr, fetchWords_fault hfrom hlen hpre hfault]
    rw [step_of_issuer ha hd hdue hi, hf]
  · have hf : fetchInstr s s.turn t = .trap ⟨.illegal, 0, 0, t.pc, false, 0⟩ := by
      cases hdw : decode ws with
      | ok r => exact absurd hdw (hdec r)
      | error e => simp only [fetchInstr, fetchWords_chain hfrom hne hlen hpre hend, hdw]
    rw [step_of_issuer ha hd hdue hi, hf]

end Sys2Proof.Machine

namespace Sys2Proof

/-! ### Chains that are no instruction -/

/-- Each of a chain's prefixes ends it with an error, or leaves the rest of it to be read (R25, R31). -/
theorem readChain_prefix {w : Half} (hw : isPrefixWord w = true) (ws : List Half) (ch : Chain) (n : Nat) :
    (∃ e, readChain (w :: ws) ch n = .error e) ∨
      n < 4 ∧ ∃ ch', readChain (w :: ws) ch n = readChain ws ch' (n + 1) := by
  simp only [readChain, hw, if_true]
  by_cases h4 : n ≥ 4
  · exact .inl ⟨.tooLong, if_pos h4⟩
  · have goes {x : Except Reject (Chain × Nat)} (h : ∃ ch', x = readChain ws ch' (n + 1)) :
        (∃ e, x = .error e) ∨ n < 4 ∧ ∃ ch', x = readChain ws ch' (n + 1) := .inr ⟨by omega, h⟩
    have once {b : Bool} {x : Except Reject (Chain × Nat)} (h : ∃ ch', x = readChain ws ch' (n + 1)) :
        (∃ e, (if b then .error .twice else x) = .error e) ∨
          n < 4 ∧ ∃ ch', (if b then .error .twice else x) = readChain ws ch' (n + 1) := by
      cases b with
      | true => exact .inl ⟨.twice, rfl⟩
      | false => exact goes h
    rw [if_neg h4]
    split
    · exact goes ⟨_, rfl⟩
    · exact once ⟨_, rfl⟩
    · exact once ⟨_, rfl⟩
    · exact once ⟨_, rfl⟩
    · exact once ⟨_, rfl⟩
    · exact .inl ⟨.reservedKind, rfl⟩

/-- The fifth of its prefixes ends a chain, unless one before it has (R31). -/
theorem readChain_five_prefixes {ws : List Half} {ch : Chain} {n : Nat} (hl : 5 ≤ n + ws.length)
    (hn : n ≤ 4) (hp : ∀ w ∈ ws.take (5 - n), isPrefixWord w = true) : ∃ e, readChain ws ch n = .error e := by
  induction ws generalizing ch n with
  | nil => exact ⟨.short, rfl⟩
  | cons w ws ih =>
    have hk : 5 - n = 5 - (n + 1) + 1 := by omega
    rw [hk, List.take_succ_cons] at hp
    rcases readChain_prefix (hp w List.mem_cons_self) ws ch n with h | ⟨h4, ch', h⟩
    · exact h
    · rw [h]
      simp only [List.length_cons] at hl
      exact ih (by omega) (by omega) fun v hv => hp v (List.mem_cons_of_mem _ hv)

theorem decode_error {ws : List Half} {e : Reject} (h : readChain ws .empty 0 = .error e) : decode ws = .error e := by
  simp only [decode, h]

theorem readChain_reservedKind {w : Half} {ws : List Half} {ch : Chain} {n : Nat} (hn : n < 4)
    (hw : isPrefixWord w = true) (hk : 5 ≤ (w.extractLsb' 9 3).toNat) :
    readChain (w :: ws) ch n = .error .reservedKind := by
  obtain ⟨m, hm⟩ := Nat.exists_eq_add_of_le' hk
  simp only [readChain, hw, if_true, if_neg (Nat.not_le.mpr hn), hm]

theorem badChainsRejected : Claim.BadChainsRejected := by
  refine ⟨fun ws hl hp => ?_, fun w ws hw hk => ?_, fun w v ws hw hv hwv h1 h4 => ?_⟩
  · obtain ⟨e, h⟩ := readChain_five_prefixes (ch := .empty) (n := 0) (by omega) (by omega) hp
    exact ⟨e, decode_error h⟩
  · exact decode_error (readChain_reservedKind (by omega) hw hk)
  · refine decode_error ?_
    simp only [readChain, hw, hv, if_true, ← hwv]
    generalize (w.extractLsb' 9 3).toNat = k at h1 h4
    interval_cases k <;> rfl

end Sys2Proof

namespace Sys2Proof.Machine

/-- Settles O28: a chain of five prefixes, of an unknown one or of one twice is refused, and the step takes the trap that
fetch or decoding raises. -/
theorem noInstruction : Obligations.NoInstruction := ⟨badChainsRejected, stepTrapsUndecoded⟩

end Sys2Proof.Machine

/-! What reset leaves, and a thread as it is created (O29). -/

namespace Sys2Proof.Machine

theorem resetValues : Claim.ResetValues := by
  refine ⟨rfl, rfl, rfl, rfl, rfl, rfl, rfl, fun q => ?_, rfl, rfl, rfl, rfl, rfl, rfl, fun d k => ?_, fun d => ?_,
    rfl, fun d hd => ?_⟩
  · exact Vector.getElem_replicate ..
  · simp [State.reset]
  · exact Vector.getElem_replicate ..
  · simp [genOf, State.reset, hd]

theorem rdReg_blank (n : Nat) : rdReg Thread.blank n = 0 := by
  have h : Thread.blank.regs = .replicate 128 0 := rfl
  rw [rdReg, h, Vector.getElem?_replicate]
  split
  · rfl
  · split <;> rfl

theorem isFull_blank (n : Nat) : isFull Thread.blank n = decide (n < 128) := by
  have h : Thread.blank.full = .allOnes 128 := rfl
  rw [isFull, h, BitVec.getLsbD_allOnes, Bool.or_eq_right_iff_imp]
  simp +contextual

theorem threadCreation : Claim.ThreadCreation :=
  ⟨fun n => ⟨rdReg_blank n, by simp [isFull_blank]⟩, rfl, rfl, rfl, rfl, rfl, rfl, rfl, rfl, rfl, rfl, fun q =>
    congrArg Stream.bound (Vector.getElem_replicate ..)⟩

/-- Settles O29: the values stand in the states that reset and creation begin with. -/
theorem resetAndCreation : Obligations.ResetAndCreation := ⟨resetValues, threadCreation⟩

end Sys2Proof.Machine

/-! The end of a core cycle (O27): what CORE_CYCLE counts, and what of it no rule but the count changes. -/

namespace Sys2Proof.Machine

/-! ### Counting a cycle's class and a rotation -/

/-- The class of a cycle changes the five class counters of its core alone. -/
theorem count_eq (y : CycleClass) (k : Core) :
    y.count k =
      { k with
        nIssued := if y = .issued then k.nIssued + 1 else k.nIssued
        nMem := if y = .nrmem then k.nMem + 1 else k.nMem
        nMsg := if y = .nrmsg then k.nMsg + 1 else k.nMsg
        nVacant := if y = .vacant then k.nVacant + 1 else k.nVacant
        nIdled := if y = .idled then k.nIdled + 1 else k.nIdled } := by
  cases y <;> rfl

@[simp] theorem count_cycle (y : CycleClass) (k : Core) : (y.count k).cycle = k.cycle := by cases y <;> rfl
@[simp] theorem count_hist (y : CycleClass) (k : Core) : (y.count k).hist = k.hist := by cases y <;> rfl
@[simp] theorem count_rot (y : CycleClass) (k : Core) : (y.count k).rot = k.rot := by cases y <;> rfl
@[simp] theorem count_slots (y : CycleClass) (k : Core) : (y.count k).slots = k.slots := by cases y <;> rfl

/-- The number of slots that are READY at a rotation's first cycle. -/
def readyCount (k : Core) (issued : Bool) : Nat :=
  ((List.range 16).filter fun i => slotReady (k.slotAt i) || (i = 0 && issued)).length

theorem readyCount_le (k : Core) (issued : Bool) : readyCount k issued ≤ 16 :=
  (List.length_filter_le _ _).trans_eq List.length_range

theorem countRotation_within (k : Core) (issued : Bool) (h : k.cycle % 16 ≠ 0) : countRotation issued k = k := by
  simp only [countRotation, bne_iff_ne, ne_eq, h, not_false_eq_true, if_true]

theorem countRotation_first (k : Core) (issued : Bool) (h : k.cycle % 16 = 0) :
    countRotation issued k =
      { k with
        hist := k.hist.setIfInBounds (readyCount k issued) ((k.hist[readyCount k issued]?).getD 0 + 1)
        rot := k.rot + 1 } := by
  simp only [countRotation, bne_iff_ne, ne_eq, h, not_true_eq_false, if_false]
  rfl

/-! ### What follows a count -/

theorem askStops_idle {s : State} {c : Nat} (hr : relocating s c = false) (hc : s.cc.checkpoint = none) :
    askStops s c = s := by
  simp only [askStops, hr, hc, Option.any_none, Bool.or_false, Bool.false_eq_true, if_false]

theorem checkpointStep_none {s : State} (hc : s.cc.checkpoint = none) : checkpointStep s = s := by
  simp only [checkpointStep, hc]

/-- The state in which a cycle is counted: slot 0's installed runtime has taken its turn in the first cycle of a rotation. -/
def afterRuntime (s : State) (c : Nat) : State :=
  if presentCore s c = true ∧ (getCore s c).halted = false ∧ (getCore s c).cycle % 16 = 0 ∧ isRuntime s c = true then
    runtimeStep s c
  else s

/-- A core after the count of a cycle. -/
def countCycle (s : State) (c : Nat) (k : Core) : Core :=
  { countRotation s.issued ((cycleClass s c).count k) with cycle := k.cycle + 1 }

/-- CORE_CYCLE where no queued JOIN, sample, checkpoint or move of the quad comes with it. -/
theorem exec_coreCycle {s : State} {c : Nat} (hj : queuedJoinReady (getCore s c) = false)
    (hs : (getCore s c).sampling = none) (hc : (afterRuntime s c).cc.checkpoint = none)
    (hr : relocating (afterRuntime s c) c = false) :
    exec (.coreCycle c) s = .next { modCore (afterRuntime s c) c (countCycle s c) with
      issued := false, turn := (c + 1) % 65536, time := s.time + BitVec.ofNat 64 (Config.ticks s.free)
      free := s.free + 1 } := by
  have e : (if presentCore s c && !(getCore s c).halted then
      if (getCore s c).turnSlot = 0 && isRuntime s c then runtimeStep s c else s else s) = afterRuntime s c := by
    unfold afterRuntime Core.turnSlot
    cases presentCore s c <;> cases (getCore s c).halted <;> simp
  have hc2 : (modCore (afterRuntime s c) c (countCycle s c)).cc.checkpoint = none := hc
  have hr2 : relocating (modCore (afterRuntime s c) c (countCycle s c)) c = false := hr
  show Host.Outcome.next _ = _
  simp only [joinsFirst, hj, hs, e]
  change Host.Outcome.next { checkpointStep (askStops (modCore (afterRuntime s c) c (countCycle s c)) c) with
      issued := false, turn := (c + 1) % 65536, time := s.time + BitVec.ofNat 64 (Config.ticks s.free)
      free := s.free + 1 } = _
  rw [askStops_idle hr2 hc2, checkpointStep_none hc2]

/-- The histogram of a rotation's first cycle has one more at the number of READY slots. -/
theorem hist_countRotation (k : Core) (issued : Bool) (h : k.cycle % 16 = 0) (j : Nat) :
    ((countRotation issued k).hist[j]?).getD 0 =
      if j = readyCount k issued then (k.hist[j]?).getD 0 + 1 else (k.hist[j]?).getD 0 := by
  have hn := readyCount_le k issued
  rw [countRotation_first k issued h]
  by_cases hj : j = readyCount k issued
  · subst hj
    rw [if_pos rfl, Vector.getElem?_setIfInBounds_self_of_lt (by omega), Option.getD_some]
  · rw [if_neg hj, Vector.getElem?_setIfInBounds_ne (Ne.symm hj)]

/-- The count of a rotation changes the histogram and the rotations alone. -/
theorem countRotation_eq (k : Core) (issued : Bool) :
    ∃ h r, countRotation issued k = { k with hist := h, rot := r } := by
  by_cases h : k.cycle % 16 = 0
  · exact ⟨_, _, countRotation_first k issued h⟩
  · exact ⟨k.hist, k.rot, countRotation_within k issued h⟩

/-- A cycle counts in its class, and moves the core's cycle on. -/
theorem countCycle_eq (s : State) (c : Nat) (k : Core) :
    ∃ h r, countCycle s c k = { (cycleClass s c).count k with hist := h, rot := r, cycle := k.cycle + 1 } := by
  obtain ⟨h, r, e⟩ := countRotation_eq ((cycleClass s c).count k) s.issued
  exact ⟨h, r, by rw [countCycle, e]⟩

theorem countCycle_within (s : State) (c : Nat) (k : Core) (h : k.cycle % 16 ≠ 0) :
    (countCycle s c k).hist = k.hist ∧ (countCycle s c k).rot = k.rot := by
  have e := countRotation_within ((cycleClass s c).count k) s.issued (by rwa [count_cycle])
  exact ⟨by simp only [countCycle, e, count_hist], by simp only [countCycle, e, count_rot]⟩

theorem countCycle_first (s : State) (c : Nat) (k : Core) (h : k.cycle % 16 = 0) :
    (countCycle s c k).rot = k.rot + 1 ∧ ∀ j, ((countCycle s c k).hist[j]?).getD 0 =
      if j = readyCount k s.issued then (k.hist[j]?).getD 0 + 1 else (k.hist[j]?).getD 0 := by
  have h' : ((cycleClass s c).count k).cycle % 16 = 0 := by rwa [count_cycle]
  have hn : readyCount ((cycleClass s c).count k) s.issued = readyCount k s.issued := by
    simp only [readyCount, Core.slotAt, count_slots]
  refine ⟨by simp only [countCycle, countRotation_first _ _ h', count_rot], fun j => ?_⟩
  simpa only [countCycle, hn, count_hist] using hist_countRotation _ s.issued h' j

/-- Settles O27: CORE_CYCLE is the turn of slot 0's runtime, where it has one, and one count. -/
theorem cyclesCount : Obligations.CyclesCount := by
  intro s c s1 hj hs hc hr
  refine ⟨_, exec_coreCycle hj hs hc hr, ?_⟩
  have hcore : getCore { modCore s1 c (countCycle s c) with
      issued := false, turn := (c + 1) % 65536, time := s.time + BitVec.ofNat 64 (Config.ticks s.free)
      free := s.free + 1 } c = countCycle s c (getCore s1 c) := getCore_setCore_same s1 c _
  obtain ⟨h, r, e⟩ := countCycle_eq s c (getCore s1 c)
  refine ⟨rfl, rfl, rfl, ?_⟩
  rw [show afterRuntime s c = s1 from rfl, hcore]
  refine ⟨by rw [e], by rw [e, count_eq], countCycle_within s c _, fun h0 => ?_, rfl, ?_⟩
  · obtain ⟨hrot, hhist⟩ := countCycle_first s c _ h0
    exact ⟨hrot, fun j _ => hhist j⟩
  · simp only [e, count_eq, and_self]

end Sys2Proof.Machine

/-! What an issue answers where its access does not go to its bank at once (O12, O13): the trap of an address that does not
resolve, the wait for the limit of outstanding accesses, and a relaxed access that goes out. -/

namespace Sys2Proof.Machine

/-! ### What an instruction answers, by its operation -/

/-- An operation that traps leaves its thread as it was before the instruction, but for the charge (R19). -/
theorem traps_of {i : Instr} {u : Use} {op : Ctx → Thread → State → Res} {s : State} {t : Thread} {c : Cause} {k : Nat}
    {v : Word} (he : exec i s = issue u op s) (h : Issues u s t)
    (hop : op (issueCtx u s t) (issuedThread u s t) (issuedState u s t) = .trap c k v) :
    Traps i s t ⟨c, k, v, t.pc, false, 0⟩ := by
  have hc : threadAt (chargeIssue s s.turn (curSlot s)) s.turn (curSlot s) =
      some (chargeThread t (getCore s s.turn).vt) := by
    rw [chargeIssue_alone s _ _ t h.here h.alone, threadAt_setThread_same _ _ _ _ (curSlot_lt s)]
  rw [Traps, exec_issues i u op s t he h, ← issuedState, hop]
  simp only [settle, issueTrap, h.alone, issueCtx, hc, Option.getD_some]

/-- An operation that is not ready leaves everything but its thread's status (R19, R114). -/
theorem waits_of {i : Instr} {u : Use} {op : Ctx → Thread → State → Res} {s : State} {t : Thread} {st : Status}
    (he : exec i s = issue u op s) (h : Issues u s t)
    (hop : op (issueCtx u s t) (issuedThread u s t) (issuedState u s t) = .wait st id) : Waits i s s t st := by
  rw [Waits, exec_issues i u op s t he h, ← issuedState, hop]
  simp only [settle, notReady, issueCtx, id_eq, modThread_some _ _ _ _ t h.here]

/-! ### What an issue leaves as it is -/

@[simp] theorem lane_issuedThread (u : Use) (s : State) (t : Thread) (v : VReg) (i : Nat) :
    lane (issuedThread u s t) v i = lane t v i := rdReg_issuedThread u s t _

@[simp] theorem enabled_issuedThread (u : Use) (s : State) (t : Thread) :
    enabled (issuedThread u s t) = enabledLanes t := by
  have h : laneOn (issuedThread u s t) = fun i => getFlag t (16 + i) := funext fun i => getFlag_issuedThread u s t _
  rw [enabled, firsts, h, enabledLanes]

@[simp] theorem idxVal_issuedThread (u : Use) (s : State) (t : Thread) (m : MemOp) :
    m.idxVal (issuedThread u s t) = m.idxVal t := by
  unfold MemOp.idxVal
  split <;> simp

@[simp] theorem issueCtx_core (u : Use) (s : State) (t : Thread) : (issueCtx u s t).core = s.turn := rfl
@[simp] theorem issueCtx_slot (u : Use) (s : State) (t : Thread) : (issueCtx u s t).slot = curSlot s := rfl

theorem threadAt_issuedState (u : Use) (s : State) (t : Thread) :
    threadAt (issuedState u s t) s.turn (curSlot s) = some (issuedThread u s t) :=
  threadAt_setThread_same _ _ _ _ (curSlot_lt s)

theorem keyAt_issuedState {u : Use} {s : State} {t : Thread} (h : threadAt s s.turn (curSlot s) = some t) :
    keyAt (issuedState u s t) s.turn (curSlot s) = keyAt s s.turn (curSlot s) := by
  obtain ⟨b, p, w, e⟩ := issuedThread_eq u s t
  simp only [keyAt, threadAt_issuedState, h, e, Option.map_some]

theorem ownAccess_issuedState {u : Use} {s : State} {t : Thread} (h : threadAt s s.turn (curSlot s) = some t)
    (f : Access) :
    ownAccess (issuedState u s t) s.turn (curSlot s) f = ownAccess s s.turn (curSlot s) f := by
  simp only [ownAccess, leftBy, keyAt_issuedState h]

theorem ownRelaxed_issuedState {u : Use} {s : State} {t : Thread} (h : threadAt s s.turn (curSlot s) = some t) :
    ownRelaxed (issuedState u s t) s.turn (curSlot s) = ownRelaxed s s.turn (curSlot s) := by
  have hf : (issuedState u s t).flight = s.flight := rfl
  simp only [ownRelaxed, ownAccess_issuedState h, hf]

theorem streamIdle_issuedState {u : Use} {s : State} {t : Thread} (h : threadAt s s.turn (curSlot s) = some t) :
    streamIdle (issuedState u s t) s.turn (curSlot s) = streamIdle s s.turn (curSlot s) := by
  have hf : (issuedState u s t).flight = s.flight := rfl
  simp only [streamIdle, ownAccess_issuedState h, hf]

theorem mayIssue_issuedState {u : Use} {s : State} {t : Thread} (h : threadAt s s.turn (curSlot s) = some t)
    (a b : Word) (g : Option (BitVec 3)) :
    mayIssue (issuedState u s t) (issueCtx u s t) g = mayIssue s ⟨s.turn, curSlot s, a, b⟩ g := by
  unfold mayIssue
  rw [issueCtx_core, issueCtx_slot, ownRelaxed_issuedState h, streamIdle_issuedState h]

/-- A relaxed access may issue while fewer than four of its thread are outstanding (R169). -/
theorem mayIssue_relaxed {u : Use} {s : State} {t : Thread} (h : threadAt s s.turn (curSlot s) = some t)
    (g : BitVec 3) :
    mayIssue (issuedState u s t) (issueCtx u s t) (some g) =
      decide ((ownRelaxed s s.turn (curSlot s)).length < 4) := by
  rw [mayIssue_issuedState h 0 0]
  rfl

/-! ### A memory access of an issue -/

section
variable {u : Use} {s : State} {t : Thread} {sel : Nat} {off : Int} {n al : Nat} {need : Need} {kno : Nat}
  {group : Option (BitVec 3)} {base : Option (Nat × Bool)} {dsts : List Nat} {kind : AccKind} {d2 : Word}
  {parts : Place → Option Nat → Word → List Part}

/-- The access of an issue, as `memAccess` makes it of a thread that stands alone. -/
def issueMem (u : Use) (s : State) (t : Thread) (sel : Nat) (off : Int) (n al : Nat) (need : Need) (kno : Nat)
    (group : Option (BitVec 3)) (base : Option (Nat × Bool)) (dsts : List Nat) (kind : AccKind) (d2 : Word)
    (parts : Place → Option Nat → Word → List Part) : Res :=
  memAccess (issueCtx u s t) (issuedThread u s t) (issuedState u s t) sel off n al need kno group base dsts kind d2 parts

theorem issueMem_wait (h : mayIssue (issuedState u s t) (issueCtx u s t) group = false) :
    issueMem u s t sel off n al need kno group base dsts kind d2 parts = .wait .waitMem id := by
  simp only [issueMem, memAccess, h, Bool.not_false, if_true]

theorem issueMem_trap {e : Cause} (hi : Issues u s t)
    (hm : mayIssue (issuedState u s t) (issueCtx u s t) group = true)
    (hr : resolve s s.turn ((t.segs[sel]?).getD 0) off n al need = .error e) :
    issueMem u s t sel off n al need kno group base dsts kind d2 parts = .trap e kno (namedAddr sel off) := by
  have hl : locate s s.turn t sel off n al need = .trap e [] := by simp only [locate, hr]
  have hl' := locate_issuedState u s t hi.here sel off n al need
  rw [hl] at hl'
  simp only [issueMem, memAccess, hm, role_issuedThread, hi.alone, issueCtx_core, hl', locTrap]
  rfl

/-- The access that goes out where a relaxed one leads to its place at once, by no mark. -/
def relaxedAccess (u : Use) (s : State) (t : Thread) (kind : AccKind) (ps : List Part) (g : BitVec 3) (named : Word)
    (each : Bool) : Access :=
  newAccess (issuedState u s t) (issueCtx u s t) (issuedThread u s t) kind ps (some g) named 0 none false each

theorem issueMem_relaxed {p : Place} {va : Option Nat} {g : BitVec 3} (hi : Issues u s t)
    (hm : mayIssue (issuedState u s t) (issueCtx u s t) (some g) = true)
    (hl : locate s s.turn t sel off n al need = .here p va []) :
    issueMem u s t sel off n al need kno (some g) base dsts kind 0 parts =
      performLater (issueCtx u s t) (issuedState u s t)
        (relaxedAccess u s t kind (hopped 0 (parts p va (namedAddr sel off))) g (namedAddr sel off) false) := by
  have hl' := locate_issuedState u s t hi.here sel off n al need
  rw [hl] at hl'
  simp only [issueMem, memAccess, hm, role_issuedThread, hi.alone, issueCtx_core, hl', access]
  rfl

end

/-- An operation whose relaxed access goes out is done with its instruction (R74, R169). -/
theorem goesOut_of {i : Instr} {u : Use} {op : Ctx → Thread → State → Res} {s : State} {t : Thread} {kind : AccKind}
    {ps : List Part} {g : BitVec 3} {named : Word} {each : Bool} {dests : List Nat} (he : exec i s = issue u op s)
    (h : Issues u s t)
    (hop : op (issueCtx u s t) (issuedThread u s t) (issuedState u s t) =
      performLater (issueCtx u s t) (issuedState u s t) (relaxedAccess u s t kind ps g named each))
    (hd : destRegs (relaxedAccess u s t kind ps g named each) = dests) :
    GoesOut i u s t g kind each ps dests := by
  subst hd
  refine ⟨relaxedAccess u s t kind ps g named each, ⟨rfl, rfl, rfl, rfl, rfl, rfl, rfl⟩, _, exec_issues i u op s t he h, ?_⟩
  generalize relaxedAccess u s t kind ps g named each = a at hop ⊢
  rw [← issuedState, hop]
  simp only [performLater, issueCtx, settle, h.alone, pairStep]
  rw [modThread_some _ _ _ _ _ (threadAt_issuedState u s t), issuedState, setThread_setThread _ _ _ _ _ (curSlot_lt s)]
  have e (v : Thread) : addFlight (setThread (chargedState s s.turn) s.turn (curSlot s) v) a =
      setThread (chargedState (addFlight s a) s.turn) s.turn (curSlot s) v := rfl
  rw [e, advance_setThread _ _ _ _ _ (curSlot_lt s)]
  exact onlyThread_charged (addFlight s a) _

/-! ### The plain loads and stores -/

/-- The plain loads with their sizes, and whether they extend the sign (R72, R73). -/
def loadForms (o : ShM) : List (Instr × Nat × Bool) :=
  [(.ldb o, 1, false), (.ldbs o, 1, true), (.ldh o, 2, false), (.ldhs o, 2, true), (.ldw o, 4, false)]

/-- The plain stores with their sizes. -/
def storeForms (o : ShM) : List (Instr × Nat) := [(.stb o, 1), (.sth o, 2), (.stw o, 4)]

theorem exec_loadForms {o : ShM} {m : Instr × Nat × Bool} (hm : m ∈ loadForms o) (s : State) :
    exec m.1 s = issue (o.useLoad false) (loadOp o m.2.1 m.2.2) s := by
  simp only [loadForms, List.mem_cons, List.not_mem_nil, or_false] at hm
  rcases hm with rfl | rfl | rfl | rfl | rfl <;> rfl

theorem exec_storeForms {o : ShM} {m : Instr × Nat} (hm : m ∈ storeForms o) (s : State) :
    exec m.1 s = issue (o.useStore false) (storeOp o m.2) s := by
  simp only [storeForms, List.mem_cons, List.not_mem_nil, or_false] at hm
  rcases hm with rfl | rfl | rfl <;> rfl

/-- The offset that a memory operand of size `n` names (R63). -/
def memOffset (o : ShM) (t : Thread) (n : Nat) : Int :=
  offOf (rdReg t o.b.toNat) + o.imm.value 0 * n + o.mem.idxVal t * n

theorem loadOp_issued (o : ShM) (n : Nat) (signed : Bool) (u : Use) (s : State) (t : Thread) :
    loadOp o n signed (issueCtx u s t) (issuedThread u s t) (issuedState u s t) =
      issueMem u s t (selOf (rdReg t o.b.toNat)) (memOffset o t n) n n needR 1 o.rlx (some (o.b.toNat, o.mem.sb))
        [o.a.toNat] .load 0 (onePart o.a.toNat n 0 signed) := by
  simp only [loadOp, MemOp.sel, MemOp.off, idxVal_issuedThread, rdReg_issuedThread]
  rfl

theorem storeOp_issued (o : ShM) (n : Nat) (u : Use) (s : State) (t : Thread) :
    storeOp o n (issueCtx u s t) (issuedThread u s t) (issuedState u s t) =
      issueMem u s t (selOf (rdReg t o.b.toNat)) (memOffset o t n) n n needW 2 o.rlx (some (o.b.toNat, o.mem.sb)) [] .store 0
        (onePart 0 n (rdReg t o.a.toNat) false) := by
  simp only [storeOp, MemOp.sel, MemOp.off, idxVal_issuedThread, rdReg_issuedThread]
  rfl

/-! ### Traps of addresses that do not resolve -/

theorem mem_loadForms {o : ShM} {m : Instr × Nat}
    (hm : m ∈ ([(.ldb o, 1), (.ldbs o, 1), (.ldh o, 2), (.ldhs o, 2), (.ldw o, 4)] : List (Instr × Nat))) :
    ∃ b, (m.1, m.2, b) ∈ loadForms o := by
  simp only [List.mem_cons, List.not_mem_nil, or_false] at hm
  rcases hm with rfl | rfl | rfl | rfl | rfl <;> simp [loadForms]

/-- Settles O13: resolution comes first in `locate`, and what it refuses is the operation's trap. -/
theorem accessTraps : Obligations.AccessTraps := by
  intro s t o e hmay
  refine ⟨fun hi m hm => ?_, fun hi m hm => ?_⟩ <;> intro off hr
  · obtain ⟨b, hm⟩ := mem_loadForms hm
    refine traps_of (exec_loadForms hm s) hi ?_
    rw [loadOp_issued]
    exact issueMem_trap hi ((mayIssue_issuedState hi.here 0 0 _).trans hmay) hr
  · refine traps_of (exec_storeForms hm s) hi ?_
    rw [storeOp_issued]
    exact issueMem_trap hi ((mayIssue_issuedState hi.here 0 0 _).trans hmay) hr

/-! ### Relaxed accesses -/

section
variable {s : State} {t : Thread} {g : BitVec 3}

theorem mayIssue_full {u : Use} (hi : Issues u s t) (h : 4 ≤ (ownRelaxed s s.turn (curSlot s)).length) :
    mayIssue (issuedState u s t) (issueCtx u s t) (some g) = false := by
  rw [mayIssue_relaxed hi.here, decide_eq_false (Nat.not_lt.mpr h)]

theorem mayIssue_room {u : Use} (hi : Issues u s t) (h : (ownRelaxed s s.turn (curSlot s)).length < 4) :
    mayIssue (issuedState u s t) (issueCtx u s t) (some g) = true := by
  rw [mayIssue_relaxed hi.here, decide_eq_true h]

theorem relaxed_plain {o : ShM} (hg : o.rlx = some g) :
    (Issues (o.useLoad false) s t → ∀ m ∈ loadForms o,
      (4 ≤ (ownRelaxed s s.turn (curSlot s)).length → Waits m.1 s s t .waitMem) ∧
      ∀ (p : Place) (va : Option Nat), (ownRelaxed s s.turn (curSlot s)).length < 4 →
        locate s s.turn t (selOf (rdReg t o.b.toNat)) (memOffset o t m.2.1) m.2.1 m.2.1 needR = .here p va [] →
        GoesOut m.1 (o.useLoad false) s t g .load false
          [⟨o.a.toNat, p, m.2.1, 0, m.2.2, va, namedAddr (selOf (rdReg t o.b.toNat)) (memOffset o t m.2.1), 0⟩]
          [o.a.toNat]) ∧
    (Issues (o.useStore false) s t → ∀ m ∈ storeForms o,
      (4 ≤ (ownRelaxed s s.turn (curSlot s)).length → Waits m.1 s s t .waitMem) ∧
      ∀ (p : Place) (va : Option Nat), (ownRelaxed s s.turn (curSlot s)).length < 4 →
        locate s s.turn t (selOf (rdReg t o.b.toNat)) (memOffset o t m.2) m.2 m.2 needW = .here p va [] →
        GoesOut m.1 (o.useStore false) s t g .store false
          [⟨0, p, m.2, rdReg t o.a.toNat, false, va, namedAddr (selOf (rdReg t o.b.toNat)) (memOffset o t m.2), 0⟩]
          []) := by
  refine ⟨fun hi m hm => ⟨fun h => ?_, fun p va h hl => ?_⟩, fun hi m hm => ⟨fun h => ?_, fun p va h hl => ?_⟩⟩
  · refine waits_of (exec_loadForms hm s) hi ?_
    rw [loadOp_issued, hg]
    exact issueMem_wait (mayIssue_full hi h)
  · refine goesOut_of (named := namedAddr (selOf (rdReg t o.b.toNat)) (memOffset o t m.2.1)) (exec_loadForms hm s) hi ?_ rfl
    rw [loadOp_issued, hg]
    exact issueMem_relaxed hi (mayIssue_room hi h) hl
  · refine waits_of (exec_storeForms hm s) hi ?_
    rw [storeOp_issued, hg]
    exact issueMem_wait (mayIssue_full hi h)
  · refine goesOut_of (named := namedAddr (selOf (rdReg t o.b.toNat)) (memOffset o t m.2)) (exec_storeForms hm s) hi ?_ rfl
    rw [storeOp_issued, hg]
    exact issueMem_relaxed hi (mayIssue_room hi h) hl

/-! #### Vectors -/

/-- The offset that a vector's memory operand names (R73). -/
def vecOffset (o : ShMV) (t : Thread) : Int := offOf (rdReg t o.b.toNat) + o.imm.value 0 * 64 + o.mem.idxVal t * 64

/-- The words of a vector's access, one for each enabled lane (R73). -/
def vecWords (o : ShMV) (t : Thread) (p : Place) (va : Option Nat) : List Part :=
  (enabledLanes t).map fun i =>
    ⟨16 * o.a.toNat + i, p.shift (4 * i), 4, lane t o.a i, false, va.map (· + 4 * i),
      namedAddr (selOf (rdReg t o.b.toNat)) (vecOffset o t) + BitVec.ofNat 32 (4 * i), 0⟩

theorem hopped_laneParts (u : Use) (o : ShMV) (p : Place) (va : Option Nat) :
    hopped 0 (laneParts (issuedThread u s t) o.a p va (namedAddr (selOf (rdReg t o.b.toNat)) (vecOffset o t))) =
      vecWords o t p va := by
  simp only [hopped, laneParts, vecWords, List.map_map, enabled_issuedThread, lane_issuedThread]
  rfl

theorem ldv_issued (o : ShMV) (s : State) : exec (.ldv o) s = issue o.useLoad (fun x t s =>
    memAccess x t s (o.mem.sel t) (o.mem.off t 64) 64 64 needR 1 o.rlx (some (o.b.toNat, o.mem.sb)) (lanesOf o.a) .load
      0 (laneParts t o.a)) s := rfl

theorem stv_issued (o : ShMV) (s : State) : exec (.stv o) s = issue o.useStore (fun x t s =>
    memAccess x t s (o.mem.sel t) (o.mem.off t 64) 64 64 needW 2 o.rlx (some (o.b.toNat, o.mem.sb)) [] .store 0
      (laneParts t o.a)) s := rfl

theorem sel_issued (u : Use) (o : ShMV) : o.mem.sel (issuedThread u s t) = selOf (rdReg t o.b.toNat) := by
  rw [MemOp.sel, rdReg_issuedThread]
  rfl

theorem off_issued (u : Use) (o : ShMV) : o.mem.off (issuedThread u s t) 64 = vecOffset o t := by
  rw [MemOp.off, rdReg_issuedThread, idxVal_issuedThread]
  rfl

theorem relaxed_vector {o : ShMV} (hg : o.rlx = some g) :
    (Issues o.useLoad s t →
      (4 ≤ (ownRelaxed s s.turn (curSlot s)).length → Waits (.ldv o) s s t .waitMem) ∧
      ∀ (p : Place) (va : Option Nat), (ownRelaxed s s.turn (curSlot s)).length < 4 →
        locate s s.turn t (selOf (rdReg t o.b.toNat)) (vecOffset o t) 64 64 needR = .here p va [] →
        GoesOut (.ldv o) o.useLoad s t g .load false (vecWords o t p va)
          ((enabledLanes t).map fun i => 16 * o.a.toNat + i)) ∧
    (Issues o.useStore s t →
      (4 ≤ (ownRelaxed s s.turn (curSlot s)).length → Waits (.stv o) s s t .waitMem) ∧
      ∀ (p : Place) (va : Option Nat), (ownRelaxed s s.turn (curSlot s)).length < 4 →
        locate s s.turn t (selOf (rdReg t o.b.toNat)) (vecOffset o t) 64 64 needW = .here p va [] →
        GoesOut (.stv o) o.useStore s t g .store false (vecWords o t p va) []) := by
  refine ⟨fun hi => ⟨fun h => ?_, fun p va h hl => ?_⟩, fun hi => ⟨fun h => ?_, fun p va h hl => ?_⟩⟩
  · refine waits_of (ldv_issued o s) hi ?_
    rw [hg]
    exact issueMem_wait (mayIssue_full hi h)
  · refine goesOut_of (named := namedAddr (selOf (rdReg t o.b.toNat)) (vecOffset o t)) (ldv_issued o s) hi ?_
      (List.map_map ..)
    rw [hg, sel_issued, off_issued, ← hopped_laneParts (s := s) o.useLoad]
    exact issueMem_relaxed hi (mayIssue_room hi h) hl
  · refine waits_of (stv_issued o s) hi ?_
    rw [hg]
    exact issueMem_wait (mayIssue_full hi h)
  · refine goesOut_of (named := namedAddr (selOf (rdReg t o.b.toNat)) (vecOffset o t)) (stv_issued o s) hi ?_ rfl
    rw [hg, sel_issued, off_issued, ← hopped_laneParts (s := s) o.useStore]
    exact issueMem_relaxed hi (mayIssue_room hi h) hl

/-! #### Gather and scatter -/

/-- The words of a gather or scatter whose lanes lead to these places (R102). -/
def gatherWords (o : ShVG) (t : Thread) (p : Nat → Place) (va : Nat → Option Nat) : List Part :=
  (enabledLanes t).map fun i => ⟨16 * o.a.toNat + i, p i, 4, lane t o.a i, false, va i, lanNamed o t i, 0⟩

@[simp] theorem lanOff_issuedThread (u : Use) (o : ShVG) (i : Nat) :
    lanOff o (issuedThread u s t) i = lanOff o t i := by
  simp only [lanOff, rdReg_issuedThread, lane_issuedThread]

@[simp] theorem lanNamed_issuedThread (u : Use) (o : ShVG) (i : Nat) :
    lanNamed o (issuedThread u s t) i = lanNamed o t i := by
  simp only [lanNamed, rdReg_issuedThread, lanOff_issuedThread]

/-- Lanes that all lead to places of their own path, by no mark. -/
theorem lanePlaces_here {u : Use} {o : ShVG} {need : Need} {p : Nat → Place} {va : Nat → Option Nat} {l : List Nat}
    (hi : Issues u s t)
    (hl : ∀ i ∈ l, locate s s.turn t (selOf (rdReg t o.b.toNat)) (lanOff o t i) 4 4 need = .here (p i) (va i) []) :
    lanePlaces (issuedState u s t) s.turn (issuedThread u s t) o need l = .ok (l.map fun i => (i, p i, va i, [])) := by
  induction l with
  | nil => rfl
  | cons i l ih =>
    have h0 : lanLoc (issuedState u s t) s.turn (issuedThread u s t) o need i = .here (p i) (va i) [] := by
      simp only [lanLoc, role_issuedThread, hi.alone, rdReg_issuedThread, lanOff_issuedThread,
        locate_issuedState u s t hi.here]
      exact hl i List.mem_cons_self
    simp only [lanePlaces, h0, ih fun j hj => hl j (List.mem_cons_of_mem _ hj), List.map_cons]

/-- A gather or scatter of an issue. -/
def issueVec (u : Use) (s : State) (t : Thread) (o : ShVG) (kind : AccKind) (need : Need) (kno : Nat) : Res :=
  vecAccess o kind need kno (issueCtx u s t) (issuedThread u s t) (issuedState u s t)

section
variable {u : Use} {o : ShVG} {kind : AccKind} {need : Need} {kno : Nat}
  (h6 : segType ((t.segs[selOf (rdReg t o.b.toNat)]?).getD 0) ≠ 6)
  (h7 : segType ((t.segs[selOf (rdReg t o.b.toNat)]?).getD 0) ≠ 7)
include h6 h7

theorem issueVec_wait (hm : mayIssue (issuedState u s t) (issueCtx u s t) o.rlx = false) :
    issueVec u s t o kind need kno = .wait .waitMem id := by
  simp only [issueVec, vecAccess, rdReg_issuedThread, segs_issuedThread, h6, h7, hm, decide_false, Bool.or_self,
    Bool.false_eq_true, if_false, Bool.not_false, if_true]

theorem issueVec_relaxed {p : Nat → Place} {va : Nat → Option Nat} (hg : o.rlx = some g) (hi : Issues u s t)
    (hm : mayIssue (issuedState u s t) (issueCtx u s t) (some g) = true)
    (hl : ∀ i ∈ enabledLanes t,
      locate s s.turn t (selOf (rdReg t o.b.toNat)) (lanOff o t i) 4 4 need = .here (p i) (va i) []) :
    ∃ named, issueVec u s t o kind need kno =
      performLater (issueCtx u s t) (issuedState u s t) (relaxedAccess u s t kind (gatherWords o t p va) g named true) := by
  have hm' : mayIssue (issuedState u s t) (issueCtx u s t) o.rlx = true := by rw [hg, hm]
  have hnil {α : Type} (l : List Nat) : l.flatMap (fun _ => ([] : List α)) = [] := by simp
  simp only [issueVec, vecAccess, rdReg_issuedThread, segs_issuedThread, h6, h7, hm', enabled_issuedThread,
    issueCtx_core, lanePlaces_here hi hl, List.flatMap_map, throughVas, List.isEmpty_nil, if_true, hnil]
  simp only [access, role_issuedThread, hi.alone, hg, lane_issuedThread, lanNamed_issuedThread, List.map_map]
  exact ⟨_, rfl⟩

end

theorem exec_vgath (o : ShVG) (s : State) : exec (.vgath o) s = issue o.useLoad (vecAccess o .load needR 1) s := rfl
theorem exec_vscat (o : ShVG) (s : State) : exec (.vscat o) s = issue o.useStore (vecAccess o .store needW 2) s := rfl

theorem relaxed_gather {o : ShVG} (hg : o.rlx = some g)
    (h6 : segType ((t.segs[selOf (rdReg t o.b.toNat)]?).getD 0) ≠ 6)
    (h7 : segType ((t.segs[selOf (rdReg t o.b.toNat)]?).getD 0) ≠ 7) :
    (Issues o.useLoad s t →
      (4 ≤ (ownRelaxed s s.turn (curSlot s)).length → Waits (.vgath o) s s t .waitMem) ∧
      ∀ (p : Nat → Place) (va : Nat → Option Nat), (ownRelaxed s s.turn (curSlot s)).length < 4 →
        (∀ i ∈ enabledLanes t,
          locate s s.turn t (selOf (rdReg t o.b.toNat)) (lanOff o t i) 4 4 needR = .here (p i) (va i) []) →
        GoesOut (.vgath o) o.useLoad s t g .load true (gatherWords o t p va)
          ((enabledLanes t).map fun i => 16 * o.a.toNat + i)) ∧
    (Issues o.useStore s t →
      (4 ≤ (ownRelaxed s s.turn (curSlot s)).length → Waits (.vscat o) s s t .waitMem) ∧
      ∀ (p : Nat → Place) (va : Nat → Option Nat), (ownRelaxed s s.turn (curSlot s)).length < 4 →
        (∀ i ∈ enabledLanes t,
          locate s s.turn t (selOf (rdReg t o.b.toNat)) (lanOff o t i) 4 4 needW = .here (p i) (va i) []) →
        GoesOut (.vscat o) o.useStore s t g .store true (gatherWords o t p va) []) := by
  refine ⟨fun hi => ⟨fun h => ?_, fun p va h hl => ?_⟩, fun hi => ⟨fun h => ?_, fun p va h hl => ?_⟩⟩
  · exact waits_of (exec_vgath o s) hi (issueVec_wait h6 h7 (hg ▸ mayIssue_full hi h))
  · obtain ⟨named, e⟩ := issueVec_relaxed (kind := .load) (kno := 1) h6 h7 hg hi (mayIssue_room hi h) hl
    exact goesOut_of (exec_vgath o s) hi e (List.map_map ..)
  · exact waits_of (exec_vscat o s) hi (issueVec_wait h6 h7 (hg ▸ mayIssue_full hi h))
  · obtain ⟨named, e⟩ := issueVec_relaxed (kind := .store) (kno := 2) h6 h7 hg hi (mayIssue_room hi h) hl
    exact goesOut_of (exec_vscat o s) hi e rfl

end

/-- Settles O12: with fewer than four outstanding each form's access is put in flight as it stands, else its thread waits. -/
theorem relaxedIssue : Obligations.RelaxedIssue := fun _ _ _ =>
  ⟨fun _ hg => relaxed_plain hg, fun _ hg => relaxed_vector hg, fun _ hg h6 h7 => relaxed_gather hg h6 h7⟩

end Sys2Proof.Machine

/-! SPAWN (O18): the record that a default access reads, the thread made of it, and its place. -/

namespace Sys2Proof.Machine

/-! ### A record that a default access reads -/

theorem locatePieces_issuedState {u : Use} {s : State} {t : Thread} (ht : threadAt s s.turn (curSlot s) = some t)
    (sel : Nat) (off : Int) (n : Nat) (need : Need) (ks : List Nat) :
    locatePieces (issuedState u s t) s.turn (issuedThread u s t) sel off n need ks =
      locatePieces s s.turn t sel off n need ks := by
  induction ks with
  | nil => rfl
  | cons k ks ih => simp only [locatePieces, locate_issuedState u s t ht, ih]

theorem locateRange_issuedState {u : Use} {s : State} {t : Thread} (ht : threadAt s s.turn (curSlot s) = some t)
    (sel : Nat) (off : Int) (n al : Nat) (need : Need) :
    locateRange (issuedState u s t) s.turn (issuedThread u s t) sel off n al need =
      locateRange s s.turn t sel off n al need := by
  simp only [locateRange, resolve_issuedState, segs_issuedThread, locatePieces_issuedState ht]

/-- The state that an operation meets once its requests are counted. -/
def countedState (u : Use) (s : State) (t : Thread) (p : Place) : State :=
  recount (issuedState u s t) (countAll s s.turn p [])

theorem countAll_issuedState (u : Use) (s : State) (t : Thread) (p : Place) :
    countAll (issuedState u s t) s.turn p [] = countedState u s t p :=
  counts_countAll s.turn p [] s (issuedState u s t) ⟨rfl, rfl⟩

/-- A default access to one piece of this package, where nothing stands in its way, goes on with its place. -/
theorem rangeOp_clear {u : Use} {s : State} {t : Thread} {sel : Nat} {off : Int} {n al : Nat} {kno : Nat}
    {k : State → List Place → Res} {p : Place} (hi : Issues u s t) (hc : Clear s) (hp : p.inside = true)
    (hl : locateRange s s.turn t sel off n al needR = .ok [(p, [])]) :
    rangeOp (issueCtx u s t) (issuedThread u s t) (issuedState u s t) sel off n al needR kno k =
      k (countedState u s t p) [p] := by
  have hpeer : p.isPeer = false := by
    cases p with
    | peer => cases hp
    | _ => rfl
  have hf : (countedState u s t p).flight = [] := hc.flight
  have hb : (countedState u s t p).bads = [] := hc.bads
  simp only [rangeOp, piecesOp, mayIssue_clear (issuedState u s t) _ hc.flight, issueCtx_core,
    locateRange_issuedState hi.here, hl, reaching, List.any_cons, List.any_nil, hpeer, List.foldl_cons, List.foldl_nil,
    countAll_issuedState, settleEarlier_none _ _ _ _ hf, pathHeld_none _ _ _ _ hf, badOffset, hb]
  rfl

/-! ### Threads in two slots of a core -/

theorem setSlot_comm (k : Core) {i j : Nat} (h : i ≠ j) (x y : Slot) :
    (k.setSlot i x).setSlot j y = (k.setSlot j y).setSlot i x := by
  have hs : (k.slots.setIfInBounds i x).setIfInBounds j y = (k.slots.setIfInBounds j y).setIfInBounds i x := by
    refine Vector.ext fun n hn => ?_
    simp only [Vector.getElem_setIfInBounds]
    split
    · rw [if_neg (by omega)]
    · rfl
  simp only [Core.setSlot, hs]

theorem setThread_eq_setCore (s : State) (c i : Nat) (t : Thread) :
    setThread s c i t = setCore s c ((getCore s c).setSlot i ⟨.thread t, ((getCore s c).slotAt i).notice⟩) := rfl

theorem setThread_comm (s : State) (c : Nat) {i j : Nat} (h : i ≠ j) (t u : Thread) :
    setThread (setThread s c i t) c j u = setThread (setThread s c j u) c i t := by
  simp only [setThread_eq_setCore, getCore_setCore_same, setCore_setCore, slotAt_setSlot_ne _ _ _ _ h,
    slotAt_setSlot_ne _ _ _ _ h.symm, setSlot_comm _ h]

theorem getCore_setThread_same (s : State) (c i : Nat) (t : Thread) :
    getCore (setThread s c i t) c = (getCore s c).setSlot i ⟨.thread t, ((getCore s c).slotAt i).notice⟩ :=
  getCore_setCore_same s c _

theorem chargedState_setThread (s : State) (c i : Nat) (t : Thread) :
    chargedState (setThread s c i t) c = setThread (chargedState s c) c i t := by
  have hvt : (getCore (setThread s c i t) c).vt = (getCore s c).vt := by rw [getCore_setThread_same, Core_setSlot_vt]
  rw [chargedState, hvt]
  rfl

theorem curSlot_setThread (s : State) (c i : Nat) (t : Thread) (h : c = s.turn) :
    curSlot (setThread s c i t) = curSlot s := by
  subst h
  rw [curSlot, setThread_turn, getCore_setThread_same]
  rfl

/-! ### What an instruction over counted requests completes with -/

section
variable {i : Instr} {u : Use} {op : Ctx → Thread → State → Res} {s k : State} {t v : Thread}

/-- An operation that ends by writing its thread over counted requests. -/
theorem completes_counted_done (he : exec i s = issue u op s) (h : Issues u s t)
    (hop : op (issueCtx u s t) (issuedThread u s t) (issuedState u s t) =
      done (recount (issuedState u s t) k) (issueCtx u s t) v) :
    CompletesFrom i s (recount s k) (goesTo v (pcAfter t u.words)) := by
  refine completes_counted i u op s k t (fun _ => v) he h ?_
  have hat : threadAt (recount (issuedState u s t) k) s.turn (curSlot s) = some (issuedThread u s t) :=
    threadAt_issuedState u s t
  rw [hop, modThread_some _ _ _ _ _ hat]
  rfl

/-- One that makes a thread in another slot of its core too. -/
theorem completes_counted_making {j : Nat} {w : Thread} (hj : j ≠ curSlot s) (he : exec i s = issue u op s)
    (h : Issues u s t)
    (hop : op (issueCtx u s t) (issuedThread u s t) (issuedState u s t) =
      done (setThread (recount (issuedState u s t) k) s.turn j w) (issueCtx u s t) v) :
    CompletesFrom i s (setThread (recount s k) s.turn j w) (goesTo v (pcAfter t u.words)) := by
  refine ⟨_, exec_issues i u op s t he h, ?_⟩
  have hk : recount (issuedState u s t) k =
      setThread (chargedState (recount s k) s.turn) s.turn (curSlot s) (issuedThread u s t) := rfl
  have hcur : curSlot (setThread (recount s k) s.turn j w) = curSlot s :=
    curSlot_setThread (recount s k) s.turn j w rfl
  have hlast := onlyThread_charged (setThread (recount s k) s.turn j w) (goesTo v (pcAfter t u.words))
  rw [hcur, setThread_turn, show (recount s k).turn = s.turn from rfl, chargedState_setThread] at hlast
  rw [← issuedState, hop, hk]
  simp only [done, settle, h.alone, pairStep, issueCtx]
  rwa [advance_setThread _ _ _ _ _ (curSlot_lt s), setThread_comm _ _ hj.symm, setThread_setThread _ _ _ _ _ (curSlot_lt s)]

end

/-! ### The thread of a record -/

theorem wrRegs_eq (t : Thread) (n : Nat) (vs : List Word) : ∃ r b, wrRegs t n vs = { t with regs := r, full := b } := by
  induction vs generalizing t n with
  | nil => exact ⟨t.regs, t.full, rfl⟩
  | cons v vs ih =>
    obtain ⟨r, b, h⟩ := wrReg_eq t n v
    obtain ⟨r', b', h'⟩ := ih (wrReg t n v) (n + 1)
    exact ⟨r', b', by rw [wrRegs, h', h]⟩

theorem rdReg_wrRegs (t : Thread) (n : Nat) (vs : List Word) (m : Nat) (h0 : n ≠ 0) (hn : n + vs.length ≤ 128) :
    rdReg (wrRegs t n vs) m = if n ≤ m ∧ m < n + vs.length then (vs[m - n]?).getD 0 else rdReg t m := by
  induction vs generalizing t n with
  | nil =>
    rw [if_neg (by simp only [List.length_nil]; omega)]
    rfl
  | cons v vs ih =>
    simp only [List.length_cons] at hn ⊢
    rw [wrRegs, ih _ _ (by omega) (by omega)]
    rcases Nat.lt_trichotomy m n with h | rfl | h
    · rw [if_neg (by omega), if_neg (by omega), rdReg_wrReg_ne _ _ _ _ (by omega)]
    · rw [if_neg (by omega), if_pos (by omega), rdReg_wrReg_same _ _ _ h0 (by omega), Nat.sub_self]
      rfl
    · have e : m - n = m - (n + 1) + 1 := by omega
      rw [rdReg_wrReg_ne _ _ _ _ (by omega), e, List.getElem?_cons_succ]
      exact if_congr (by omega) rfl rfl

theorem isFull_wrRegs (t : Thread) (n : Nat) (vs : List Word) {m : Nat} (hm : m < 128) (h : isFull t m = true) :
    isFull (wrRegs t n vs) m = true := by
  induction vs generalizing t n with
  | nil => exact h
  | cons v vs ih =>
    refine ih _ _ ?_
    rw [isFull_wrReg _ _ _ _ hm]
    split
    · rfl
    · exact h

/-- The words of a record from word `a` on are the registers g1 to g8 of its thread. -/
theorem rdReg_spawnThread (t : Thread) (ws : List Word) (segs : Vector (BitVec 128) 8) (k : Nat) :
    rdReg (spawnThread t ws segs) k = if 1 ≤ k ∧ k ≤ 8 then wordAt ws (3 + k) else 0 := by
  have e : rdReg (spawnThread t ws segs) k = rdReg (wrRegs Thread.blank 1 (spawnThread.rdFrom ws 4 8)) k := rfl
  have hl : (spawnThread.rdFrom ws 4 8).length = 8 := by simp [spawnThread.rdFrom]
  rw [e, rdReg_wrRegs _ _ _ _ (by omega) (by omega), hl, rdReg_blank]
  by_cases h : 1 ≤ k ∧ k ≤ 8
  · have hk : 4 + (k - 1) = 3 + k := by omega
    rw [if_pos (by omega), if_pos h]
    simp [spawnThread.rdFrom, List.getElem?_range (show k - 1 < 8 by omega), hk]
  · rw [if_neg (by omega), if_neg h]

theorem isFull_spawnThread (t : Thread) (ws : List Word) (segs : Vector (BitVec 128) 8) {k : Nat} (hk : k < 128) :
    isFull (spawnThread t ws segs) k = true :=
  isFull_wrRegs _ _ _ hk (by rw [isFull_blank, decide_eq_true hk])

/-! ### Its slot -/

theorem mem_vacantSlots {k : Core} {i : Nat} (h : i ∈ vacantSlots k) :
    1 ≤ i ∧ i ≤ 14 ∧ (k.slotAt i).isVacant = true := by
  obtain ⟨hr, hv⟩ := List.mem_filter.mp (List.mem_of_mem_drop h)
  simp only [List.mem_range, Bool.and_eq_true, decide_eq_true_eq] at hr hv
  exact ⟨hv.1, by omega, hv.2⟩

/-- A slot that a record gets is a vacant work slot, and the one it asks for where it asks for one. -/
theorem spawnSlot_some {k : Core} {want i : Nat} (h : spawnSlot k want = some i) :
    i ∈ vacantSlots k ∧ (want ≠ 0 → i = want) := by
  unfold spawnSlot at h
  split at h
  · rename_i h0
    exact ⟨List.mem_of_head? h, fun hw => absurd h0 hw⟩
  · split at h
    · rename_i hc
      obtain rfl := Option.some.inj h
      exact ⟨by simpa using hc, fun _ => rfl⟩
    · cases h

/-- Slot 0 is no work slot: what stands in it changes no vacant slot. -/
theorem vacantSlots_setSlot_zero (k : Core) (x : Slot) : vacantSlots (k.setSlot 0 x) = vacantSlots k := by
  unfold vacantSlots
  congr 1
  refine List.filter_congr fun i _ => ?_
  by_cases hi : i = 0
  · subst hi
    rfl
  · rw [slotAt_setSlot_ne _ _ _ _ hi]

/-! ### What SPAWN answers (R136) -/

theorem countAll_eq_recount (s : State) (c : Nat) (p : Place) : countAll s c p [] = recount s (countAll s c p []) :=
  counts_countAll c p [] s s ⟨rfl, rfl⟩

theorem rangeWords_countedState (u : Use) (s : State) (t : Thread) (p : Place) (ps : List Place) (n : Nat) :
    rangeWords (countedState u s t p) ps n = rangeWords (countAll s s.turn p []) ps n := by
  have hm : (countedState u s t p).mem = (countAll s s.turn p []).mem := by
    rw [countAll_eq_recount]
    rfl
  simp only [rangeWords, loadWord, loadNat_congr (countAll s s.turn p []) _ hm rfl]

/-- A record of one piece is read with a default access. -/
theorem recordOp_clear {u : Use} {s : State} {t : Thread} {a : Word} {k : State → List Word → Res} {p : Place}
    (hi : Issues u s t) (hc : Clear s) (hr : RecordAt s t a 0 p) :
    recordOp (issueCtx u s t) (issuedThread u s t) (issuedState u s t) a 64 k =
      k (countedState u s t p) (rangeWords (countAll s s.turn p []) [p] 64) := by
  obtain ⟨hl, hp⟩ := hr
  rw [Nat.add_zero] at hl
  rw [recordOp, rangeOp_clear hi hc hp hl, rangeWords_countedState]

section
variable {s : State} {t : Thread} {o : ShU} {p : Place} {ws : List Word}

/-- SPAWN with a record, where an issue meets the counted requests. -/
def issueSpawn (s : State) (t : Thread) (o : ShU) (p : Place) (ws : List Word) : Res :=
  spawnWith (issueCtx (o.use true).slot0 s t) (issuedThread (o.use true).slot0 s t) o.a.toNat
    (countedState (o.use true).slot0 s t p) ws

theorem spawnSegs_countedState (u : Use) :
    spawnSegs (countedState u s t p) s.turn (issuedThread u s t) ws = spawnSegs (countAll s s.turn p []) s.turn t ws := by
  simp only [spawnSegs, segs_issuedThread, localSegs, rangeWords_countedState]

theorem getCore_countedState (u : Use) (h : curSlot s = 0) :
    ∃ x, getCore (countedState u s t p) s.turn = (getCore s s.turn).setSlot 0 x :=
  ⟨_, by rw [← h]; exact getCore_setThread_same (chargedState s s.turn) s.turn (curSlot s) _⟩

theorem issueSpawn_bad (h : spawnOk ws = false) :
    issueSpawn s t o p ws =
      done (countedState (o.use true).slot0 s t p) (issueCtx (o.use true).slot0 s t)
        (wrReg (issuedThread (o.use true).slot0 s t) o.a.toNat 0xFFFFFFFF) := by
  simp only [issueSpawn, spawnWith, h, Bool.not_false, if_true]

/-- A good record's answer is by the slot that it gets. -/
theorem issueSpawn_good (h0 : curSlot s = 0) (h : spawnOk ws = true)
    (hs : (spawnSegs (countAll s s.turn p []) s.turn t ws).toList.all segValid = true)
    (hp : (getCore s s.turn).pairs = []) :
    issueSpawn s t o p ws =
      match spawnSlot (getCore s s.turn) (recWant ws) with
      | none =>
        done (countedState (o.use true).slot0 s t p) (issueCtx (o.use true).slot0 s t)
          (wrReg (issuedThread (o.use true).slot0 s t) o.a.toNat 0)
      | some i =>
        done
          (setThread (countedState (o.use true).slot0 s t p) s.turn i
            (spawnThread (issuedThread (o.use true).slot0 s t) ws
              ((spawnSegs (countAll s s.turn p []) s.turn t ws).map segClean)))
          (issueCtx (o.use true).slot0 s t) (wrReg (issuedThread (o.use true).slot0 s t) o.a.toNat (BitVec.ofNat 32 i)) := by
  obtain ⟨x, hx⟩ := getCore_countedState (t := t) (p := p) (o.use true).slot0 h0
  simp only [issueSpawn, spawnWith, h, issueCtx_core, spawnSegs_countedState, hs, hx, Core_setSlot_pairs, hp, spawnSlot,
    vacantSlots_setSlot_zero]
  rfl

end

theorem exec_spawn (o : ShU) (s : State) : exec (.spawn o) s =
    issue (o.use true).slot0 (fun x t s => recordOp x t s (rdReg t o.b.toNat) 64 (spawnWith x t o.a.toNat)) s := rfl

/-- The thread that a record makes, but for its registers (R12, R136). -/
theorem spawnThread_fields (t : Thread) (ws : List Word) (segs : Vector (BitVec 128) 8) :
    (spawnThread t ws segs).pc = wordAt ws 0 ∧ (spawnThread t ws segs).lim = (wordAt ws 1).toNat % 256 ∧
      (spawnThread t ws segs).rank = wordAt ws 2 ∧ (spawnThread t ws segs).wlim = wordAt ws 3 ∧
      (spawnThread t ws segs).tvec = wordAt ws 13 ∧ (spawnThread t ws segs).upc = wordAt ws 14 ∧
      (spawnThread t ws segs).status = .ready ∧ (spawnThread t ws segs).kind = .spawned ∧
      (spawnThread t ws segs).lid = 0 ∧ (spawnThread t ws segs).asn = t.asn ∧
      (spawnThread t ws segs).f = 0xFFFF0001 := by
  obtain ⟨r, b, h⟩ := wrRegs_eq Thread.blank 1 (spawnThread.rdFrom ws 4 8)
  have hlim : recLim ws = (wordAt ws 1).toNat % 256 := by
    simp only [recLim, BitVec.extractLsb'_toNat, Nat.shiftRight_zero]
  refine ⟨rfl, hlim, rfl, rfl, rfl, rfl, ?_, rfl, ?_, rfl, ?_⟩ <;> simp only [spawnThread, h] <;> rfl

/-- Settles O18: SPAWN's operation is `spawnWith` on the record over counted requests, and its thread is `spawnThread`'s. -/
theorem spawn : Obligations.Spawn := by
  intro s t o p hi hc hr s1 ws v next
  have hop : recordOp (issueCtx (o.use true).slot0 s t) v (issuedState (o.use true).slot0 s t) (rdReg v o.b.toNat) 64
      (spawnWith (issueCtx (o.use true).slot0 s t) v o.a.toNat) = issueSpawn s t o p ws := by
    rw [rdReg_issuedThread, recordOp_clear hi hc hr]
    rfl
  have h0 : curSlot s = 0 := hi.mode rfl
  refine ⟨fun hbad => ?_, fun hgood hsegs hpairs => ⟨fun hnone => ?_, fun i hsome => ?_⟩⟩
  · have h := completes_counted_done (exec_spawn o s) hi (hop.trans (issueSpawn_bad hbad))
    rwa [← countAll_eq_recount] at h
  · have hgives := issueSpawn_good (o := o) h0 hgood hsegs hpairs
    rw [hnone] at hgives
    have h := completes_counted_done (exec_spawn o s) hi (hop.trans hgives)
    rwa [← countAll_eq_recount] at h
  · have hgives := issueSpawn_good (o := o) h0 hgood hsegs hpairs
    rw [hsome] at hgives
    obtain ⟨hmem, hwant⟩ := spawnSlot_some hsome
    obtain ⟨h1, h14, hvac⟩ := mem_vacantSlots hmem
    have h := completes_counted_making (by omega) (exec_spawn o s) hi (hop.trans hgives)
    rw [← countAll_eq_recount] at h
    have hasn : v.asn = t.asn := by
      obtain ⟨b, q, w, e⟩ := issuedThread_eq (o.use true).slot0 s t
      simp only [v, e]
    obtain ⟨hpc, hlim, hrank, hwlim, htvec, hupc, hst, hkind, hlid, ha, hf⟩ :=
      spawnThread_fields v ws ((spawnSegs s1 s.turn t ws).map segClean)
    refine ⟨_, h, h1, h14, hwant, hvac, hpc, hlim, hrank, hwlim, htvec, hupc, hst, hkind, hlid, ha.trans hasn, hf,
      fun k hk hk8 => ?_, fun k hk => ?_, fun k hk => isFull_spawnThread v ws _ hk⟩
    · rw [rdReg_spawnThread, if_pos ⟨hk, hk8⟩]
    · rw [rdReg_spawnThread, if_neg (by omega)]

end Sys2Proof.Machine

/-! The counting of plain loads and stores (O10, O11): an access whose core number is that of the host port counts no
request, so a state whose turn stands at that number refutes the count. -/

namespace Sys2Proof.Machine

/-! ### A state whose turn is the host port's number -/

/-- A thread whose g8 names byte 0 of its GLOBAL segment 1. -/
def portThread : Thread :=
  { wrReg Thread.blank 8 0x20000000 with
    lim := 16, segs := (Vector.replicate 8 segNone).set 1 (mkSeg 5 0 0xFFFFF 0b110101 0) }

def portCore : Core :=
  { Core.blank true with
    cycle := 1, slots := (Vector.replicate 16 Slot.empty).set 1 ⟨.thread portThread, none⟩ }

/-- The turn at `hostCore`, which is past the cores of the package and stands for the host port (R338; log entry 61). The
thread's page 0 leads to frame 1 of die 0. -/
def portState : State :=
  { State.reset with
    booted := true, agenda := [], turn := hostCore, cores := [(hostCore, portCore)]
    xl := { State.reset.xl with tlb := [⟨quadOf hostCore, 0, 0, false, 0x1048F⟩] } }

/-- Byte 0 of frame 1 of die 0. -/
def portPlace : Place := .hbm 0 0x10000

/-- g9 and the word that g8 names. -/
def portOperand : ShM := ⟨⟨false, 0⟩, 9, 8, none, ⟨0, 0⟩, none⟩

theorem issues_portLoad : Issues (portOperand.useLoad false) portState portThread := by
  constructor <;> decide +kernel

theorem issues_portStore : Issues (portOperand.useStore false) portState portThread := by
  constructor <;> decide +kernel

theorem clear_portState : Clear portState := by constructor <;> decide +kernel

/-- The instruction has a next state, with the request counters as they were. -/
def keepsCounters (i : Instr) (s : State) : Bool :=
  match exec i s with
  | .next s' => s'.counters = s.counters
  | _ => false

/-- An access of the host port's number counts nowhere (R328). -/
theorem keepsCounters_port :
    keepsCounters (.ldw portOperand) portState = true ∧ keepsCounters (.stw portOperand) portState = true := by
  decide +kernel

/-- The request that the statements count is one to another die's HBM. -/
theorem countAll_portState : (countAll portState portState.turn portPlace []).counters ≠ portState.counters := by
  decide +kernel

/-- An instruction that keeps the counters does not complete over a state that counts otherwise. -/
theorem not_completesFrom {i : Instr} {s s0 : State} {t : Thread} (hk : keepsCounters i s = true)
    (h0 : s0.counters ≠ s.counters) : ¬ CompletesFrom i s s0 t := by
  rintro ⟨s', he, ho⟩
  have h := congrArg State.counters ho.rest
  simp only [keepsCounters, he, decide_eq_true_eq] at hk
  exact h0 (h.symm.trans hk)

/-- Refutes O10: nothing in its hypotheses keeps the turn below the cores of the package, and at the number of the host
port a LDW of a GLOBAL word completes with no request counted, where the statement counts one in die 0's frame. -/
theorem not_loads : ¬ Obligations.Loads := by
  intro h
  refine not_completesFrom keepsCounters_port.1 countAll_portState
    (h portState portThread portOperand portPlace (some 0) issues_portLoad rfl clear_portState rfl
      (.ldw portOperand, 4, false) (by simp) ?_)
  decide +kernel

/-- Refutes O11: the same turn, where STW stores its word with no request counted. -/
theorem not_stores : ¬ Obligations.Stores := by
  intro h
  refine not_completesFrom keepsCounters_port.2 (by rw [storeNat_counters]; exact countAll_portState)
    (h portState portThread portOperand portPlace (some 0) issues_portStore rfl clear_portState rfl rfl
      (.stw portOperand, 4) (by simp) ?_)
  decide +kernel

end Sys2Proof.Machine

/-! What the control complex's bookkeeping leaves alone: stores outside the cores, the replay log, error, trace and lifetime
records (R293, R349, R355 to R367). -/

namespace Sys2Proof.Machine

/-- From `s` to `s'` the control complex has kept its books: no core has changed, nothing of the front end and
no convoy on its way. -/
structure Booked (s s' : State) : Prop where
  cores : s'.cores = s.cores
  booted : s'.booted = s.booted
  front : s'.front = s.front
  moving : s'.moving = s.moving
  serial : s'.serial = s.serial

theorem Booked.refl (s : State) : Booked s s := ⟨rfl, rfl, rfl, rfl, rfl⟩

theorem Booked.trans {s s' s'' : State} (h : Booked s s') (g : Booked s' s'') : Booked s s'' :=
  ⟨g.cores.trans h.cores, g.booted.trans h.booted, g.front.trans h.front, g.moving.trans h.moving,
    g.serial.trans h.serial⟩

theorem getCore_congr {s s' : State} (hc : s'.cores = s.cores) (hb : s'.booted = s.booted) (c : Nat) :
    getCore s' c = getCore s c := by rw [getCore, hc, hb, getCore]

theorem Booked.getCore {s s' : State} (h : Booked s s') (c : Nat) : getCore s' c = Machine.getCore s c :=
  getCore_congr h.cores h.booted c

theorem Booked.getSlot {s s' : State} (h : Booked s s') (c i : Nat) : getSlot s' c i = Machine.getSlot s c i := by
  rw [Machine.getSlot, h.getCore, Machine.getSlot]

theorem Booked.foldl {α : Type} {f : State → α → State} (h : ∀ s a, Booked s (f s a)) (l : List α) (s : State) :
    Booked s (l.foldl f s) := by
  induction l generalizing s with
  | nil => exact .refl s
  | cons a l ih => exact (h s a).trans (ih _)

theorem booked_backInvalidate (s : State) (p : Place) : Booked s (backInvalidate s p) := by
  unfold backInvalidate
  split <;> exact ⟨rfl, rfl, rfl, rfl, rfl⟩

theorem booked_takeBack (s : State) (p : Place) (n : Nat) : Booked s (takeBack s p n) := by
  unfold takeBack
  split
  · exact .refl s
  · exact Booked.foldl (fun s j => booked_backInvalidate s _) _ s

theorem booked_logEntry (s : State) (e : Stamped) : Booked s (logEntry s e) :=
  (booked_takeBack s (logPlace s) (stampedBytes e).length).trans ⟨rfl, rfl, rfl, rfl, rfl⟩

theorem booked_replayTake (s : State) (e : Stamped) : Booked s (replayTake s e) :=
  Booked.trans (s' := setCtl { s with cc := { s.cc with toReplay := s.cc.toReplay.drop 1 } } e.core
    { ctlCore s e.core with retired := e.count }) ⟨rfl, rfl, rfl, rfl, rfl⟩ (booked_logEntry _ e)

theorem booked_logInput (s : State) (x : Logged) : Booked s (logInput s x) := by
  unfold logInput
  split
  · exact booked_replayTake s _
  · exact Booked.trans (s' := { setCtl s _ _ with free := s.free + 1 }) ⟨rfl, rfl, rfl, rfl, rfl⟩ (booked_logEntry _ _)

theorem booked_errWrite (s : State) (r : ErrRec) : Booked s (errWrite s r) := by
  unfold errWrite
  dsimp only
  split
  · exact (booked_logInput s _).trans ⟨rfl, rfl, rfl, rfl, rfl⟩
  · exact ⟨rfl, rfl, rfl, rfl, rfl⟩

theorem booked_errAer (s : State) (kind : Nat) (r : ErrRec) : Booked s (errAer s kind r) := by
  unfold errAer
  repeat' split
  all_goals exact ⟨rfl, rfl, rfl, rfl, rfl⟩

theorem booked_errReport (s : State) (kind : Nat) (slot core : Option Nat) (addr : Nat) (tag : Word) :
    Booked s (errReport s kind slot core addr tag) := by
  refine (booked_errAer s kind (errRec s kind slot core addr tag)).trans ?_
  unfold errReport
  dsimp only
  split
  · split
    · exact ⟨rfl, rfl, rfl, rfl, rfl⟩
    · exact booked_errWrite _ _
  · exact booked_errWrite _ _

theorem booked_life (s : State) (l : Life) : Booked s { s with life := l } := ⟨rfl, rfl, rfl, rfl, rfl⟩

theorem booked_drainQuad (s : State) (c cause : Nat) : Booked s (drainQuad s c cause) := by
  unfold drainQuad
  split
  · exact (Booked.foldl (fun s k => booked_life s _) (List.range 4) s).trans (booked_life _ _)
  · exact .refl s

theorem booked_consumed (s : State) (c : Nat) : Booked s (consumed s c) := by
  unfold consumed
  dsimp only
  split
  · exact Booked.trans (s' := setLive s _ _) ⟨rfl, rfl, rfl, rfl, rfl⟩ (booked_drainQuad _ _ _)
  · exact ⟨rfl, rfl, rfl, rfl, rfl⟩

theorem booked_tracePut (s : State) (d v : Nat) : Booked s (tracePut s d v) :=
  (booked_takeBack s (.hbm d ((traceOf s d).base.toNat + (traceOf s d).wr.toNat)) 32).trans ⟨rfl, rfl, rfl, rfl, rfl⟩

theorem booked_setTrace (s : State) (d : Nat) (t : Trace) : Booked s (setTrace s d t) := ⟨rfl, rfl, rfl, rfl, rfl⟩

/-! ### Trace records, which alone note their time in the cores -/

theorem smGet_map {α : Type} (f : Nat → α → α) (m : List (Nat × α)) (a : Nat) :
    smGet (m.map fun e => (e.1, f e.1 e.2)) a = (smGet m a).map (f a) := by
  induction m with
  | nil => rfl
  | cons e m ih =>
    by_cases h : e.1 = a
    · simp [smGet, h]
    · simpa [smGet, h] using ih

/-- What `forgetTimes` makes of a core. -/
def forgetTime (d c : Nat) (k : Core) : Core := if dieOf c = d then { k with lastTrace := none } else k

theorem forgetTimes_cores (s : State) (d : Nat) :
    (forgetTimes s d).cores = s.cores.map fun e => (e.1, forgetTime d e.1 e.2) := by
  refine List.map_congr_left fun e _ => ?_
  unfold forgetTime
  split <;> rfl

theorem slots_forgetTimes (s : State) (d c : Nat) : (getCore (forgetTimes s d) c).slots = (getCore s c).slots := by
  have hb : (forgetTimes s d).booted = s.booted := rfl
  rw [getCore, forgetTimes_cores, hb, smGet_map (forgetTime d), getCore]
  cases smGet s.cores c with
  | none => rfl
  | some k =>
    dsimp only [Option.map_some, Option.getD_some, forgetTime]
    split <;> rfl

theorem slots_modCore {s : State} {c : Nat} {f : Core → Core} (h : (f (getCore s c)).slots = (getCore s c).slots) (d : Nat) :
    (getCore (modCore s c f) d).slots = (getCore s d).slots := by
  by_cases hd : d = c
  · subst hd
    rw [modCore, getCore_setCore_same, h]
  · rw [modCore, getCore_setCore_ne _ _ _ _ hd]

theorem getSlot_congr {s s' : State} {c : Nat} (h : (getCore s' c).slots = (getCore s c).slots) (i : Nat) :
    getSlot s' c i = getSlot s c i := by
  simp only [getSlot, Core.slotAt, h]

/-- A trace record leaves every slot and the front end alone. -/
theorem traceRecord_keeps (s : State) (ty c i : Nat) (pc : Word) (payload : List Word) :
    (∀ d j, getSlot (traceRecord s ty c i pc payload) d j = getSlot s d j) ∧
      (traceRecord s ty c i pc payload).front = s.front := by
  unfold traceRecord
  dsimp only
  split
  · split
    · exact ⟨fun d j => getSlot_congr (slots_forgetTimes (setTrace s (dieOf c) _) _ d) j, rfl⟩
    · set s1 := if (traceOf s (dieOf c)).lost != 0 then setTrace _ _ _ else s with hs1
      have h1 : Booked s s1 := by
        rw [hs1]
        split
        · exact (booked_tracePut s _ _).trans (booked_setTrace _ _ _)
        · exact .refl s
      exact ⟨fun d j => (getSlot_congr (slots_modCore rfl d) j).trans ((h1.trans (booked_tracePut s1 _ _)).getSlot d j),
        (modCore_front _ _ _).trans (h1.trans (booked_tracePut s1 _ _)).front⟩
  · exact ⟨fun _ _ => rfl, rfl⟩

end Sys2Proof.Machine

/-! Waits and stops that end (the first part of O54; R178, R264, R267, R281). -/

namespace Sys2Proof.Machine

/-! ### A thread that gives up its instruction -/

@[simp] theorem putBack_role (t : Thread) (vs : List (Nat × Word)) : (putBack t vs).role = t.role := by
  unfold putBack
  induction vs generalizing t with
  | nil => rfl
  | cons v vs ih => rw [List.foldl_cons, ih, wrReg_role]

@[simp] theorem abandon_role (t : Thread) : (abandon t).role = t.role := by
  unfold abandon
  split
  · rfl
  · exact putBack_role t _

theorem abandon_none {t : Thread} (h : t.pend = none) :
    abandon t = { t with status := .ready, waitFrom := none, heldAt := none, missAt := none } := by
  simp only [abandon, h]

/-- Only sixteen slots hold threads. -/
theorem threadAt_lt {s : State} {c i : Nat} {t : Thread} (h : threadAt s c i = some t) : i < 16 := by
  by_contra hi
  have : getSlot s c i = .empty := by simp [getSlot, Core.slotAt, Nat.le_of_not_lt hi]
  rw [threadAt, this] at h
  cases h

/-! ### Threads that stand alone -/

theorem trapPend_alone {s : State} {c i : Nat} {t : Thread} {x : TrapInfo} (h : t.role = .alone) :
    trapPend s c i t x = takeTrap s c i t x := by
  simp [trapPend, h]

theorem modPend_alone {s : State} {c i : Nat} {t : Thread} (f : Thread → Thread) (ht : threadAt s c i = some t)
    (h : t.role = .alone) : modPend s c i f = setThread s c i (f t) := by
  simp [modPend, ht, h]

theorem onThread_alone {s : State} {c i : Nat} {t : Thread} (f : State → State) (ht : threadAt s c i = some t)
    (h : t.role = .alone) : onThread s c i f = f s := by
  simp only [onThread, ht, h]

/-! ### The wait limit -/

theorem boundedWait_access {s : State} {c : Nat} {t : Thread} {a : Access} {n : Word} {r : Nat} {f : List (Nat × Word)}
    (hp : t.pend = some ⟨.access a.id, n, r, f⟩) (hf : findFlight s a.id = some a) (hk : a.kind = .lde ∨ a.kind = .ldt)
    (hg : a.stage = .listed) : boundedWait s c t = true := by
  simp only [boundedWait, hp, hf, hg]
  rcases hk with hk | hk <;> simp [hk]

section
variable {s : State} {c i : Nat} {t : Thread} (ht : threadAt s c i = some t) (ha : t.role = .alone)
include ht ha

/-- The limit of a wait that holds no access. -/
theorem waitlimExpiry_over (ho : waitOver s c t = true) (hs : t.stopped = false)
    (hp : (t.pend = none ∧ tagWait s c t = true) ∨ ∃ n r f, t.pend = some ⟨.park, n, r, f⟩) :
    exec (.waitlimExpiry c i) s = .next (takeTrap s c i (abandon t) ⟨.waitlim, 0, 0, t.pc, false, 0⟩) := by
  have hr : (abandon t).role = .alone := (abandon_role t).trans ha
  show execWaitlimExpiry c i s = _
  rcases hp with ⟨hp, hw⟩ | ⟨n, r, f, hp⟩
  · simp [execWaitlimExpiry, ht, ho, boundedWait, hp, hw, hs, ha, trapPend_alone hr]
  · simp [execWaitlimExpiry, ht, ho, boundedWait, hp, hs, ha, trapPend_alone hr]

/-- The limit of a wait for a tagged word. -/
theorem waitlimExpiry_access {a : Access} {n : Word} {r : Nat} {f : List (Nat × Word)} (ho : waitOver s c t = true)
    (hs : t.stopped = false) (hp : t.pend = some ⟨.access a.id, n, r, f⟩) (hf : findFlight s a.id = some a)
    (hk : a.kind = .lde ∨ a.kind = .ldt) (hg : a.stage = .listed) :
    exec (.waitlimExpiry c i) s = .next (if a.remote then askWithdrawal s c i a.id a false else
      takeTrap (dropFlight s a.id) c i (abandon t) ⟨.waitlim, 0, a.named, t.pc, false, 0⟩) := by
  have hr : (abandon t).role = .alone := (abandon_role t).trans ha
  show execWaitlimExpiry c i s = _
  simp [execWaitlimExpiry, ht, ho, boundedWait_access hp hf hk hg, hp, hf, hs, ha, trapPend_alone hr]

/-- A request to be withdrawn: the message to the word's owner, and a thread that waits for the answer. -/
theorem askWithdrawal_eq (a : Access) (b : Bool) : ∃ m : Msg, m.chan = 2 ∧ m.dst = remoteCore a ∧
    askWithdrawal s c i a.id a b = setThread { s with net := s.net ++ [m], serial := s.serial + 1 } c i
      { t with pend := t.pend.map fun p => { p with what := .withdrawn a.id b } } :=
  ⟨_, rfl, rfl, modPend_alone _ ht ha⟩

/-- The owner has withdrawn the request. -/
theorem withdrawalAnswer_refused {a : Access} {n : Word} {r : Nat} {f : List (Nat × Word)} {b : Bool}
    (hp : t.pend = some ⟨.withdrawn a.id b, n, r, f⟩) (hf : findFlight s a.id = some a) (hg : a.stage = .replied)
    (hk : a.okay = false) (hr : replyFree s a = true) :
    exec (.withdrawalAnswer c i) s = .next (if b then setThread (dropFlight s a.id) c i (abandon t) else
      takeTrap (dropFlight s a.id) c i (abandon t) ⟨.waitlim, 0, a.named, t.pc, false, 0⟩) := by
  have hl : (abandon t).role = .alone := (abandon_role t).trans ha
  have hd : threadAt (dropFlight s a.id) c i = some t := ht
  have hf' : s.flight.find? (fun f => f.id = a.id) = some a := hf
  show execWithdrawalAnswer c i s = _
  simp [execWithdrawalAnswer, ht, hp, hf', hg, hk, hr, trapPend_alone hl, modPend_alone abandon hd ha]

end

/-! ### A stop takes effect -/

theorem matRegrant_eq (n : Nat) (k : Core) : ∃ w g, matRegrant n k = { k with matWait := w, matGrant := g } := by
  induction n generalizing k with
  | zero => exact ⟨_, _, rfl⟩
  | succ n ih =>
    rw [matRegrant]
    split
    · exact ⟨_, _, rfl⟩
    · split
      · exact ⟨_, _, rfl⟩
      · obtain ⟨w, g, h⟩ := ih _
        exact ⟨w, g, h⟩

/-- A slot that waits for the matrix engine no longer changes its queue's waiting list and grants alone. -/
theorem matForget_eq (i : Nat) (k : Core) : ∃ w g, matForget i k = { k with matWait := w, matGrant := g } := by
  unfold matForget
  split
  · exact ⟨_, _, rfl⟩
  · exact matRegrant_eq 2 _

theorem slots_matForget (i : Nat) (k : Core) : (matForget i k).slots = k.slots := by
  obtain ⟨w, g, h⟩ := matForget_eq i k
  rw [h]

theorem notePaused_keeps (s : State) (c i : Nat) :
    (∀ d j, getSlot (notePaused s c i) d j = getSlot s d j) ∧ (notePaused s c i).mem = s.mem := by
  unfold notePaused
  split
  · exact ⟨fun _ _ => rfl, rfl⟩
  · exact ⟨fun d j => getSlot_congr (slots_modCore rfl d) j, rfl⟩

theorem modThread_mem (s : State) (c i : Nat) (f : Thread → Thread) : (modThread s c i f).mem = s.mem := by
  unfold modThread
  split <;> rfl

theorem threadAt_modThread_ne (s : State) (c i d j : Nat) (f : Thread → Thread) (h : (d, j) ≠ (c, i)) :
    threadAt (modThread s c i f) d j = threadAt s d j := by
  unfold modThread
  split
  · rfl
  · exact threadAt_setThread_ne s c i d j _ h

theorem parkStops_mem (s : State) (c i : Nat) : (parkStops s c i).mem = s.mem := by
  unfold parkStops
  split
  · exact modThread_mem ..
  · rfl

theorem threadAt_parkStops (s : State) (c : Nat) {i : Nat} (hi : 0 < i) :
    threadAt (parkStops s c i) c i = threadAt s c i := by
  unfold parkStops
  split
  · exact threadAt_modThread_ne _ _ _ _ _ _ (by simp [hi.ne'])
  · rfl

/-- Slot 0's PARK STOP is answered with 0. -/
theorem threadAt_parkStops_zero {s : State} {c i : Nat} {u : Thread} {n : Word} {r : Nat} {f : List (Nat × Word)}
    (hu : threadAt s c 0 = some u) (hp : u.pend = some ⟨.stopping i, n, r, f⟩) :
    threadAt (parkStops s c i) c 0 = some (finish (wrReg u r 0)) := by
  have hw : parkWaits s c i = true := by simp [parkWaits, hu, hp]
  rw [parkStops, if_pos hw, modThread_some _ _ _ _ _ hu, threadAt_setThread_same _ _ _ _ (by decide), hp]
  rfl

/-- The state in which a thread that has no instruction in progress is marked as stopped. -/
def stopBase (s : State) (c i : Nat) : State := modCore (notePaused s c i) c (matForget i)

theorem getSlot_stopBase (s : State) (c i d j : Nat) : getSlot (stopBase s c i) d j = getSlot s d j :=
  (getSlot_congr (slots_modCore (slots_matForget _ _) d) j).trans ((notePaused_keeps s c i).1 d j)

theorem threadAt_stopBase (s : State) (c i d j : Nat) : threadAt (stopBase s c i) d j = threadAt s d j := by
  rw [threadAt, getSlot_stopBase, threadAt]

/-- A thread without an instruction in progress as its stop leaves it. -/
theorem markStopped_abandon {t : Thread} (hp : t.pend = none) (hr : t.stopReq = true) (hs : t.stopped = false) :
    markStopped (abandon t) =
      { t with status := .ready, waitFrom := none, heldAt := none, missAt := none, stopped := true, stopReq := false,
               hold := t.hold || t.holdReq, holdReq := false } := by
  simp [markStopped, abandon_none hp, hr, hs]

section
variable {s : State} {c i : Nat} {t : Thread} (ht : threadAt s c i = some t) (hp : t.pend = none)
  (hs : t.stopped = false)
include ht hp hs

theorem stopNow_none : stopNow c i s = parkStops (setThread (stopBase s c i) c i (markStopped (abandon t))) c i := by
  have ha : atStop s c i t = .drop s := by simp only [atStop, hp]
  simp only [stopNow, ht, hs, ha, Bool.false_eq_true, if_false]
  rw [← stopBase, modThread_some _ _ _ _ t ((threadAt_stopBase ..).trans ht)]

theorem exec_stopEffect (hi : 0 < i) (ha : t.role = .alone) (hr : t.stopReq = true) :
    exec (.stopEffect c i) s = .next (if t.holdReq then
      traceRecord (stopNow c i s) 3 c i (markStopped (abandon t)).pc [] else stopNow c i s) := by
  have hd : atStop s c i t = .drop s := by simp only [atStop, hp]
  have h1 : threadAt (stopNow c i s) c i = some (markStopped (abandon t)) := by
    rw [stopNow_none ht hp hs, threadAt_parkStops _ _ hi, threadAt_setThread_same _ _ _ _ (threadAt_lt ht)]
  have hready : stopReady s c i t = true := by simp [stopReady, hr, ha, hd]
  have hq : ((markStopped (abandon t)).stopReq || (markStopped (abandon t)).holdReq) = false := rfl
  show execStopEffect c i s = _
  simp [execStopEffect, ht, hready, hd, hs, onThread_alone _ ht ha, h1, hq, ha]

end

/-- A stop may be traced, and no thread takes notice of it. -/
theorem threadAt_traceIf (b : Bool) (s : State) (ty c i : Nat) (pc : Word) (l : List Word) (d j : Nat) :
    threadAt (if b then traceRecord s ty c i pc l else s) d j = threadAt s d j := by
  split
  · rw [threadAt, (traceRecord_keeps s ty c i pc l).1, threadAt]
  · rfl

theorem waitsAndStopsEnd : Claim.WaitsAndStopsEnd := by
  intro s c i t ht ha
  refine ⟨waitlimExpiry_over ht ha, fun hp hw => ?_, fun o ho hf => ?_, ?_, ?_, ?_⟩
  · show execWaitlimExpiry c i s = _
    simp [execWaitlimExpiry, ht, boundedWait, hp, hw]
  · simp [tagWait, ho, hf]
  · intro a n r f ho hs hp hf hk hg
    have he := waitlimExpiry_access ht ha ho hs hp hf hk hg
    refine ⟨fun hl => by simpa [hl] using he, fun hl => ?_⟩
    obtain ⟨m, hm, hd, hw⟩ := askWithdrawal_eq ht ha a false
    rw [if_pos hl, hw] at he
    refine ⟨_, he, ?_, rfl, m, rfl, hm, hd⟩
    rw [threadAt_setThread_same _ _ _ _ (threadAt_lt ht), hp]
    rfl
  · intro a n r f b hp hf hg hk hr
    have he := withdrawalAnswer_refused ht ha hp hf hg hk hr
    exact ⟨fun hb => by simpa [hb] using he, fun hb => by simpa [hb] using he⟩
  · intro hi hr hs hp
    have he := exec_stopEffect ht hp hs hi ha hr
    have hn := stopNow_none ht hp hs
    refine ⟨_, he, ?_, fun hh => ?_, fun u n r f hu hup => ?_⟩
    · rw [threadAt_traceIf, hn, threadAt_parkStops _ _ hi, threadAt_setThread_same _ _ _ _ (threadAt_lt ht),
        markStopped_abandon hp hr hs]
    · rw [if_neg (by simp [hh]), hn, parkStops_mem]
      exact (notePaused_keeps s c i).2
    · rw [threadAt_traceIf, hn]
      refine threadAt_parkStops_zero ?_ hup
      rw [threadAt_setThread_ne _ _ _ _ _ _ (by simp [hi.ne]), threadAt_stopBase, hu]

end Sys2Proof.Machine

/-! Commit points and kills, and with them the obligation on waits, stops, commit points and kills (O54; R288, R293). -/

namespace Sys2Proof.Machine

/-! ### A commit point -/

theorem releaseStores_eq (c i : Nat) (s : State) (es : List CmpEntry) :
    releaseStores c i s es = { s with flight := s.flight ++ es.map (commitAccess c i) } := by
  induction es generalizing s with
  | nil => simp [releaseStores]
  | cons e es ih => simp [releaseStores, ih]

/-- A pair that is written is the one its slots find: the numbers of the slots are what a pair is found by. -/
theorem pairOf_setPair {s : State} {c i : Nat} {p q : Pair} (h : pairOf s c i = some p) (hq : q.s = p.s) :
    pairOf (setPair s c q) c i = some q := by
  have hc : ((fun x : Pair => decide (x.s = i) || decide (x.s + 7 = i)) ∘ fun x => if x.s = p.s then q else x) =
      fun x => decide (x.s = i) || decide (x.s + 7 = i) := by
    funext x
    by_cases hx : x.s = p.s <;> simp [hx, hq]
  simp only [pairOf] at h
  simp only [pairOf, setPair, modCore, getCore_setCore_same, List.find?_map, hc, h, Option.map_some, hq, if_true]

/-- The trailing thread of a pair that agrees, as a commit point leaves it. -/
def trailAfter (a b : Thread) : Thread :=
  { b with ecost := a.ecost, wear := a.wear, wearPart := a.wearPart, timeLatch := a.timeLatch, streams := a.streams }

/-- The pair after a commit point. -/
def committed (p : Pair) (a b : Thread) : Pair :=
  { p with lvq := [], cmp := [], lead := a, trail := trailAfter a b, leadAt := 0, trailAt := 0, ahead := 0, missed := false
           full := false }

theorem exec_commitPoint {s : State} {c i : Nat} {p : Pair} {a b : Thread} (hp : pairOf s c i = some p)
    (hr : commitReady s c p = true) (ha : threadAt s c p.s = some a) (hb : threadAt s c (p.s + 7) = some b)
    (hg : pairAgrees a b p = true) (hm : p.missed = false) :
    exec (.commitPoint c i) s = .next (setPair (setThread
      { s with flight := s.flight ++ p.cmp.map (commitAccess c p.s) } c (p.s + 7) (trailAfter a b)) c
      (committed p a b)) := by
  show execCommitPoint c i s = _
  simp only [execCommitPoint, hp, hr, commitPoint, ha, hb, hg, hm, releaseStores_eq, Bool.false_eq_true, if_true, if_false]
  rfl

theorem commitPoint_leaves {s : State} {c i : Nat} {p : Pair} {a b : Thread} (hp : pairOf s c i = some p)
    (hr : commitReady s c p = true) (ha : threadAt s c p.s = some a) (hb : threadAt s c (p.s + 7) = some b)
    (hg : agree a b = true) (hc : ∀ e ∈ p.cmp, e.matched = true) (hl : p.leadAt = p.trailAt) (hm : p.missed = false) :
    Leaves (.commitPoint c i) s fun s' =>
      s'.mem = s.mem ∧ s'.flight.take s.flight.length = s.flight ∧
      (s'.flight.drop s.flight.length).map (·.parts) = p.cmp.map (·.parts) ∧
      (∀ f ∈ s'.flight.drop s.flight.length,
        f.kind = .store ∧ f.via = .commit ∧ f.core = c ∧ f.slot = p.s ∧ f.group = none) ∧
      ∃ q, pairOf s' c i = some q ∧ q.lvq = [] ∧ q.cmp = [] ∧ q.lead = a ∧ q.ahead = 0 := by
  have hagree : pairAgrees a b p = true := by
    simp only [pairAgrees, hg, hl, Bool.true_and, decide_true, Bool.and_true, List.all_eq_true]
    exact hc
  refine ⟨_, exec_commitPoint hp hr ha hb hagree hm, rfl, ?_, ?_, ?_, committed p a b,
    pairOf_setPair (p := p) ?_ rfl, rfl, rfl, rfl, rfl⟩
  · exact List.take_left
  · show ((s.flight ++ p.cmp.map (commitAccess c p.s)).drop s.flight.length).map (·.parts) = _
    rw [List.drop_left, List.map_map]
    rfl
  · show ∀ f ∈ (s.flight ++ p.cmp.map (commitAccess c p.s)).drop s.flight.length, _
    rw [List.drop_left]
    intro f hf
    obtain ⟨e, -, rfl⟩ := List.mem_map.mp hf
    exact ⟨rfl, rfl, rfl, rfl, rfl⟩
  · rw [pairOf, pairs_setThread]
    exact hp

/-! ### A kill -/

theorem slots_emptied (i : Nat) (k : Core) :
    (enginesGone i (matForget i (unhand i (dropOverrides k)))).slots = k.slots := slots_matForget i _

theorem getSlot_clearSlot (s : State) (c : Nat) {i : Nat} (key : Option (Word × Word)) (x : Content) (hi : i < 16) :
    getSlot (clearSlot s c i key x) c i = { getSlot s c i with content := x } :=
  (getSlot_congr (slots_modCore (slots_emptied i _) c) i).trans (getSlot_setSlot_same _ c i _ hi)

theorem modThread_front (s : State) (c i : Nat) (f : Thread → Thread) : (modThread s c i f).front = s.front := by
  unfold modThread
  split <;> rfl

theorem dropClaim_front (s : State) (d : Nat) (t : Thread) : (dropClaim s d t).front = s.front := by
  unfold dropClaim
  split <;> rfl

theorem dropClaims_front (s : State) (t : Thread) : (dropClaims s t).front = s.front := by
  have h : ∀ (l : List (Nat × Core)) (u : State), (l.foldl (fun u k => dropClaim u k.1 t) u).front = u.front := fun l => by
    induction l with
    | nil => exact fun _ => rfl
    | cons k l ih => exact fun u => (ih _).trans (dropClaim_front u k.1 t)
  exact h s.cores s

theorem leaveLaunch_front {s u : State} (h : u.front = s.front) (t : Thread) (code : Nat) (err : BitVec 4) :
    (leaveLaunch u t code err).front = (leaveLaunch s t code err).front := by
  unfold leaveLaunch
  split
  · exact h
  · simp only [modLaunch, h]

/-- A slot without a thread is not touched by what wakes slot 0. -/
theorem getSlot_wakeParked {s : State} {c i : Nat} (h : threadAt s c i = none) (j : Nat) :
    getSlot (wakeParked s c j) c i = getSlot s c i := by
  by_cases hj : i = j
  · subst hj
    rw [wakeParked, modThread_none _ _ _ _ h]
  · unfold wakeParked modThread
    split
    · rfl
    · exact getSlot_setThread_ne _ _ _ _ _ _ (by simp [hj])

theorem booked_killed (s : State) (c i : Nat) (a : Nat) (w : Word) :
    Booked s (errReport (consumed s c) 4 (some i) (some c) a w) :=
  (booked_consumed s c).trans (booked_errReport ..)

theorem threadKill_leaves {s : State} {c i : Nat} {t : Thread} (hi : i < 16) (ht : threadAt s c i = some t)
    (hk : t.killed = true) (hp : pairOf s c i = none) :
    Leaves (.threadKill c i) s fun s' =>
      (getSlot s' c i).content = .scrubbing ∧ (getSlot s' c i).notice.isSome = true ∧
      s'.front.launches = (leaveLaunch s t 0xFF errKilled).front.launches := by
  have he : exec (.threadKill c i) s = .next (killThread s c i) := by
    show execThreadKill c i s = _
    simp [execThreadKill, ht, hk, hp]
  refine ⟨_, he, ?_⟩
  simp only [killThread, ht]
  generalize hs1 : modCore (leaveLaunch (dropClaims (dropResv s c i) t) t 0xFF errKilled) c _ = s1
  have hf1 : s1.front = (leaveLaunch s t 0xFF errKilled).front := by
    rw [← hs1]
    exact leaveLaunch_front (s := s) (dropClaims_front (dropResv s c i) t) t _ _
  generalize trapNotice c i _ _ = note
  have h3 : getSlot (setSlot (vacate s1 c i .scrubbing) c i
      { getSlot (vacate s1 c i .scrubbing) c i with notice := some note }) c i = ⟨.scrubbing, some note⟩ := by
    rw [getSlot_setSlot_same _ _ _ _ hi, vacate, getSlot_clearSlot _ _ _ _ hi]
  have h4 : getSlot (wakeParked (setSlot (vacate s1 c i .scrubbing) c i
      { getSlot (vacate s1 c i .scrubbing) c i with notice := some note }) c 0) c i = ⟨.scrubbing, some note⟩ := by
    rw [getSlot_wakeParked (by rw [threadAt, h3]; rfl), h3]
  rw [(booked_killed ..).getSlot, (booked_killed ..).front, h4]
  exact ⟨rfl, rfl, congrArg Front.launches ((modThread_front _ c 0 _).trans hf1)⟩

theorem pairsAndKills : Claim.PairsAndKills := by
  refine ⟨fun s c i p a b hp hr ha hb hg hc hl hm => commitPoint_leaves hp hr ha hb hg hc hl hm,
    fun s c i t hi ht hk hp => threadKill_leaves hi ht hk hp, fun s c i h => ?_⟩
  show execKillScrubComplete c i s = _
  simp only [execKillScrubComplete, h]

/-- Settles O54: each event by the equation of its definition; what follows it by what a stop, a commit point and a kill leave
in the slots, in the front end and in flight. -/
theorem threadEvents : Obligations.ThreadEvents := ⟨waitsAndStopsEnd, pairsAndKills⟩

end Sys2Proof.Machine

/-! The front end's queues: what its reads and writes of memory leave alone, and the events that bring a record to a queue's
head and start a launch (the first part of O57; R121 to R124, R130, R131). -/

namespace Sys2Proof.Machine

/-! ### What a store leaves alone: everything but memory, the watchers' wakes and the bad words -/

theorem wakeCore_eq (s : State) (c line : Nat) : ∃ k, wakeCore s c line = { s with cores := k } := by
  unfold wakeCore
  split
  · exact ⟨_, rfl⟩
  · split <;> exact ⟨_, rfl⟩

theorem wakeCore_front (s : State) (c line : Nat) : (wakeCore s c line).front = s.front := by
  obtain ⟨k, h⟩ := wakeCore_eq s c line
  rw [h]

theorem wakeLine_front (s : State) (p : Place) : (wakeLine s p).front = s.front := by
  unfold wakeLine
  split
  · exact wakeCore_front ..
  · simp only [wakeCore_front]
  · rfl

theorem storeNat_front (s : State) (p : Place) (n v : Nat) : (storeNat s p n v).front = s.front := by
  unfold storeNat
  split
  · rfl
  · exact wakeLine_front _ p

/-! ### The queues of the front end -/

theorem getQueue_setQueue (s : State) {q : Nat} (x : Queue) (h : q < 64) : getQueue (setQueue s q x) q = x := by
  simp [getQueue, setQueue, h]

theorem getQueue_congr {s s' : State} (h : s'.front = s.front) (q : Nat) : getQueue s' q = getQueue s q := by
  rw [getQueue, h, getQueue]

theorem booked_frontTouch (s : State) (asn va n : Nat) : Booked s (frontTouch s asn va n) := by
  unfold frontTouch
  refine Booked.foldl (fun s p => ?_) _ s
  split
  · exact .refl s
  · exact booked_takeBack ..

/-- The state in which the head of a queue is checked: the lines of its records are the device's. -/
def headTouched (s : State) (asn : Nat) (r : Rec) : State :=
  let s1 := if dSegva r.desc = 0 then s else frontTouch s asn (dSegva r.desc) 128
  if dFmtva r.desc = 0 then s1 else frontTouch s1 asn (dFmtva r.desc) 64

theorem booked_headTouched (s : State) (asn : Nat) (r : Rec) : Booked s (headTouched s asn r) := by
  have h : ∀ (b : Prop) [Decidable b] (u : State) (va n : Nat), Booked u (if b then u else frontTouch u asn va n) :=
    fun b _ u va n => by
      split
      · exact .refl u
      · exact booked_frontTouch ..
  exact (h _ s _ _).trans (h _ _ _ _)

/-- A record that comes to the head of its queue: only what the queue knows of its head changes in the front end. -/
theorem headArrives_eq (s : State) (q : Nat) : ∃ u x w, Booked s u ∧
    headArrives s q = setQueue u q { getQueue u q with checked := x, waits := w } := by
  unfold headArrives
  split
  · exact ⟨s, _, _, .refl s, rfl⟩
  · rename_i r _ _
    exact ⟨headTouched s (getQueue s q).asn.toNat r, _, _, booked_headTouched .., rfl⟩

theorem headArrives_front (s : State) (q : Nat) : ∃ x w,
    (headArrives s q).front = (setQueue s q { getQueue s q with checked := x, waits := w }).front := by
  obtain ⟨u, x, w, hb, h⟩ := headArrives_eq s q
  exact ⟨x, w, by rw [h, getQueue_congr hb.front]; simp only [setQueue, hb.front]⟩

theorem headArrives_recs (s : State) {q : Nat} (h : q < 64) :
    (getQueue (headArrives s q) q).recs = (getQueue s q).recs ∧
      (getQueue (headArrives s q) q).ovCount = (getQueue s q).ovCount := by
  obtain ⟨x, w, hf⟩ := headArrives_front s q
  rw [getQueue_congr hf, getQueue_setQueue _ _ h]
  exact ⟨rfl, rfl⟩

theorem headArrives_rest (s : State) (q : Nat) : (headArrives s q).front.launches = s.front.launches ∧
    (headArrives s q).front.lastServed = s.front.lastServed := by
  obtain ⟨x, w, hf⟩ := headArrives_front s q
  rw [hf]
  exact ⟨rfl, rfl⟩

/-- A head without records of its own is checked as it stands. -/
theorem headArrives_checked {s : State} {q : Nat} {r : Rec} {l : List Rec} (hq : q < 64) (hr : (getQueue s q).recs = r :: l)
    (hs : dSegva r.desc = 0) (hf : dFmtva r.desc = 0) :
    (getQueue (headArrives s q) q).checked = some (checkDesc s (getQueue s q).asn.toNat r.desc) := by
  unfold headArrives
  simp only [hr, hs, hf, if_true]
  rw [getQueue_setQueue _ _ hq]

/-! ### OVERFLOW_REFILL -/

theorem overflowRefill_leaves {s : State} {q : Nat} {p : Place} (hq : q < 64) (hh : (getQueue s q).halt = false)
    (ho : (getQueue s q).ovCount ≠ 0) (hl : (getQueue s q).recs.length < 32)
    (hp : ringPlace s (getQueue s q) 0 false = some p) :
    Leaves (.overflowRefill q) s fun s' =>
      (getQueue s' q).recs = (getQueue s q).recs ++ [⟨loadNat s p 128, (getQueue s q).ovService.headD none⟩] ∧
      (getQueue s' q).ovCount = (getQueue s q).ovCount - 1 := by
  have he : exec (.overflowRefill q) s = execOverflowRefill q s := rfl
  simp only [execOverflowRefill, hh, ho, hp, Nat.not_le.mpr hl, Bool.false_or, decide_false,
    Bool.false_eq_true, if_false] at he
  refine ⟨_, he, ?_⟩
  split
  · rw [(headArrives_recs _ hq).1, (headArrives_recs _ hq).2, getQueue_setQueue _ _ hq]
    exact ⟨rfl, rfl⟩
  · rw [getQueue_setQueue _ _ hq]
    exact ⟨rfl, rfl⟩

/-! ### The end of a launch, which the front end's queues see only in what they wait for -/

theorem frontStore_front (s : State) (p : Place) (n v : Nat) : (frontStore s p n v).front = s.front :=
  (storeNat_front _ p n v).trans (booked_takeBack s p n).front

theorem frontWrite_front (s : State) (asn va n v : Nat) : (frontWrite s asn va n v).1.front = s.front := by
  unfold frontWrite
  dsimp only
  split
  · rfl
  · split
    · exact frontStore_front ..
    · split
      · exact frontStore_front ..
      · exact (frontStore_front ..).trans (frontStore_front ..)

theorem frontWrites_front (asn : Nat) (ws : List (Nat × Nat × Nat)) (s : State) :
    (frontWrites asn ws s).1.front = s.front := by
  induction ws generalizing s with
  | nil => rfl
  | cons w ws ih =>
    have hw := frontWrite_front s asn w.1 w.2.1 w.2.2
    rw [frontWrites]
    split
    · rename_i s1 h1
      rw [h1] at hw
      exact (ih s1).trans hw
    · exact hw

theorem writeDone_front (s : State) (asn d status : Nat) : (writeDone s asn d status).front = s.front := by
  unfold writeDone
  dsimp only
  have hw := fun l => frontWrites_front asn l s
  split
  · rename_i s1 h1
    rw [← hw, h1]
  · rename_i s1 h1
    rw [(booked_errReport ..).front, ← hw, h1]

theorem freeBuffer_front (s : State) (b : Option (Nat × Nat)) : (freeBuffer s b).front = s.front := by
  unfold freeBuffer
  split
  · rfl
  · split <;> rfl

theorem finishLaunch_front (s : State) (asn d : Nat) (service : Option (Nat × Nat)) (status core : Nat) :
    (finishLaunch s asn d service status core).front = (dropWaits s (dLid d)).front := by
  unfold finishLaunch
  rw [(traceRecord_keeps _ _ _ _ _ _).2, freeBuffer_front, writeDone_front]

theorem finishLaunch_recs (s : State) (asn d : Nat) (service : Option (Nat × Nat)) (status core q : Nat) :
    (getQueue (finishLaunch s asn d service status core) q).recs = (getQueue s q).recs := by
  rw [getQueue_congr (finishLaunch_front ..)]
  by_cases hq : q < 64 <;> simp [getQueue, dropWaits, hq]

/-! ### LAUNCH_START -/

/-- The front end as it takes the head record of a queue. -/
def served (s : State) (q : Nat) (l : List Rec) : State :=
  setQueue { s with front := { s.front with lastServed := q } } q { getQueue s q with recs := l, qfull := false }

/-- A head record that is not run completes at once. -/
def refused (s : State) (q : Nat) (r : Rec) (l : List Rec) (e : BitVec 4) : State :=
  headArrives (finishLaunch (served s q l) (getQueue s q).asn.toNat r.desc r.service (doneStatus 0 0 e) (dFirst r.desc)) q

theorem refused_leaves (s : State) {q : Nat} (r : Rec) (l : List Rec) (e : BitVec 4) (hq : q < 64) :
    (getQueue (refused s q r l e) q).recs = l ∧ (refused s q r l e).front.launches = s.front.launches := by
  unfold refused
  rw [(headArrives_recs _ hq).1, finishLaunch_recs, (headArrives_rest _ q).1, finishLaunch_front, served,
    getQueue_setQueue _ _ hq]
  exact ⟨rfl, rfl⟩

/-- The launch that a head record becomes. -/
def launchedAs (s : State) (q : Nat) (r : Rec) (segs : Vector (BitVec 128) 8) (shadows : Option (Vector (BitVec 32) 4)) :
    Launch :=
  { lid := BitVec.ofNat 32 (dLid r.desc), queue := q, desc := r.desc, asn := (getQueue s q).asn.toNat, service := r.service,
    segs := segs, shadows := shadows, next := 0, lastCore := none, tree := presentRange s r.desc, noticed := [], sent := [],
    members := [], errs := 0, exit := 0, count := 0, convoys := 0, untriggered := 0, codeIn := [], localIn := [],
    conv := false }

/-- The front end with the launch that the head record becomes, before the next record comes to the head. -/
def launched (s : State) (q : Nat) (r : Rec) (l : List Rec) (segs : Vector (BitVec 128) 8)
    (shadows : Option (Vector (BitVec 32) 4)) : State :=
  { served s q l with front := { (served s q l).front with
      launches := s.front.launches ++ [launchedAs s q r segs shadows] } }

theorem launched_recs (s : State) {q : Nat} (r : Rec) (l : List Rec) (segs : Vector (BitVec 128) 8)
    (shadows : Option (Vector (BitVec 32) 4)) (hq : q < 64) : (getQueue (launched s q r l segs shadows) q).recs = l :=
  congrArg Queue.recs (getQueue_setQueue { s with front := { s.front with
    lastServed := q, launches := s.front.launches ++ [launchedAs s q r segs shadows] } } _ hq)

section
variable {s : State} {q : Nat} {r : Rec} {l : List Rec} (hc : startChoice s = some q) (hr : (getQueue s q).recs = r :: l)
include hc hr

theorem exec_launchStart_good {segs : Vector (BitVec 128) 8} {shadows : Option (Vector (BitVec 32) 4)}
    (hk : (getQueue s q).checked = some (.good segs shadows)) (hp : presentRange s r.desc ≠ []) :
    exec (.launchStart q) s = .next (traceRecord (headArrives (launched s q r l segs shadows) q) 7
      ((presentRange s r.desc).headD 0) 0 0 [BitVec.ofNat 32 (dLid r.desc), 0, 0]) := by
  obtain ⟨c, cs, hcs⟩ := List.exists_cons_of_ne_nil hp
  show execLaunchStart q s = _
  simp only [execLaunchStart, launched, served, launchedAs, hc, hr, hk, hcs, bne_self_eq_false, Bool.false_eq_true, if_false]
  rfl

theorem exec_launchStart_refused {e : BitVec 4}
    (hk : (getQueue s q).checked = some (.bad e) ∨
      (∃ segs shadows, (getQueue s q).checked = some (.good segs shadows)) ∧ presentRange s r.desc = [] ∧ e = errNoCore) :
    exec (.launchStart q) s = .next (refused s q r l e) := by
  show execLaunchStart q s = _
  rcases hk with hk | ⟨⟨segs, shadows, hk⟩, hp, rfl⟩
  · simp only [execLaunchStart, refused, served, hc, hr, hk, bne_self_eq_false, Bool.false_eq_true, if_false]
  · simp only [execLaunchStart, refused, served, hc, hr, hk, hp, bne_self_eq_false, Bool.false_eq_true, if_false]

theorem launchStart_good (hq : q < 64) {segs : Vector (BitVec 128) 8} {shadows : Option (Vector (BitVec 32) 4)}
    (hk : (getQueue s q).checked = some (.good segs shadows)) (hp : presentRange s r.desc ≠ []) :
    Leaves (.launchStart q) s fun s' =>
      (getQueue s' q).recs = l ∧ s'.front.lastServed = q ∧
      ∃ n, s'.front.launches = s.front.launches ++ [n] ∧ n.lid = BitVec.ofNat 32 (dLid r.desc) ∧ n.desc = r.desc ∧
        n.asn = (getQueue s q).asn.toNat ∧ n.segs = segs ∧ n.shadows = shadows ∧ n.tree = presentRange s r.desc ∧
        n.next = 0 ∧ n.members = [] ∧ n.count = 0 := by
  refine ⟨_, exec_launchStart_good hc hr hk hp, ?_⟩
  dsimp only
  rw [getQueue_congr (traceRecord_keeps ..).2, (traceRecord_keeps ..).2, (headArrives_recs _ hq).1,
    (headArrives_rest _ q).1, (headArrives_rest _ q).2]
  exact ⟨launched_recs s r l segs shadows hq, rfl, launchedAs s q r segs shadows, rfl, rfl, rfl, rfl, rfl, rfl, rfl, rfl, rfl,
    rfl⟩

theorem launchStart_refused (hq : q < 64)
    (hk : (∃ e, (getQueue s q).checked = some (.bad e)) ∨
      ((getQueue s q).checked.isSome = true ∧ presentRange s r.desc = [])) :
    Leaves (.launchStart q) s fun s' => (getQueue s' q).recs = l ∧ s'.front.launches = s.front.launches := by
  rcases hk with ⟨e, hk⟩ | ⟨hk, hp⟩
  · exact ⟨_, exec_launchStart_refused hc hr (.inl hk), refused_leaves s r l e hq⟩
  · obtain ⟨x, hx⟩ := Option.isSome_iff_exists.mp hk
    cases x with
    | bad e => exact ⟨_, exec_launchStart_refused hc hr (.inl hx), refused_leaves s r l e hq⟩
    | good segs shadows =>
      exact ⟨_, exec_launchStart_refused hc hr (.inr ⟨⟨segs, shadows, hx⟩, hp, rfl⟩), refused_leaves s r l _ hq⟩

end

end Sys2Proof.Machine

/-! Placement, the done tree and barriers (the second part of O57; R12, R125 to R134, R141). -/

namespace Sys2Proof.Machine

/-! ### What a store leaves of a core's places -/

/-- From `s` to `s'` no slot has become VACANT or taken, no convoy has come or gone. -/
structure KeepsPlaces (s s' : State) : Prop where
  moving : s'.moving = s.moving
  serial : s'.serial = s.serial
  arrivals : ∀ c, (getCore s' c).arrivals = (getCore s c).arrivals
  vacant : ∀ c i, (getSlot s' c i).isVacant = (getSlot s c i).isVacant

theorem KeepsPlaces.refl (s : State) : KeepsPlaces s s := ⟨rfl, rfl, fun _ => rfl, fun _ _ => rfl⟩

theorem KeepsPlaces.trans {s s' s'' : State} (h : KeepsPlaces s s') (g : KeepsPlaces s' s'') : KeepsPlaces s s'' :=
  ⟨g.moving.trans h.moving, g.serial.trans h.serial, fun c => (g.arrivals c).trans (h.arrivals c),
    fun c i => (g.vacant c i).trans (h.vacant c i)⟩

theorem Booked.keepsPlaces {s s' : State} (h : Booked s s') : KeepsPlaces s s' :=
  ⟨h.moving, h.serial, fun c => by rw [h.getCore], fun c i => by rw [h.getSlot]⟩

theorem KeepsPlaces.vacantSlots {s s' : State} (h : KeepsPlaces s s') (c : Nat) :
    vacantSlots (getCore s' c) = Machine.vacantSlots (getCore s c) := by
  have hv : ∀ i, ((getCore s' c).slotAt i).isVacant = ((getCore s c).slotAt i).isVacant := h.vacant c
  simp only [Machine.vacantSlots, hv, h.arrivals]

theorem isVacant_wakeSlot (line : Nat) (x : Slot) : (wakeSlot line x).isVacant = x.isVacant := by
  unfold wakeSlot
  split
  · rename_i t ht
    split
    · simp only [Slot.isVacant, ht]
    · rfl
  · rfl

theorem keepsPlaces_wakeCore (s : State) (c line : Nat) : KeepsPlaces s (wakeCore s c line) := by
  unfold wakeCore
  split
  · exact .refl s
  · rename_i k hk
    have hk' : getCore s c = k := by rw [getCore, hk]; rfl
    split
    · refine ⟨rfl, rfl, fun d => ?_, fun d i => ?_⟩
      all_goals by_cases hd : d = c
      · rw [hd, getCore_setCore_same, hk']
      · rw [getCore_setCore_ne _ _ _ _ hd]
      · by_cases hi : i < 16
        · simp [getSlot, hd, hk', Core.slotAt, hi, isVacant_wakeSlot]
        · simp [getSlot, hd, Core.slotAt, hi]
      · rw [getSlot, getCore_setCore_ne _ _ _ _ hd, getSlot]
    · exact .refl s

theorem keepsPlaces_wakeLine (s : State) (p : Place) : KeepsPlaces s (wakeLine s p) := by
  unfold wakeLine
  split
  · exact keepsPlaces_wakeCore ..
  · exact (((keepsPlaces_wakeCore ..).trans (keepsPlaces_wakeCore ..)).trans (keepsPlaces_wakeCore ..)).trans
      (keepsPlaces_wakeCore ..)
  · exact .refl s

theorem keepsPlaces_storeNat (s : State) (p : Place) (n v : Nat) : KeepsPlaces s (storeNat s p n v) := by
  unfold storeNat
  split
  · exact .refl s
  · refine KeepsPlaces.trans ?_ (keepsPlaces_wakeLine _ p)
    exact ⟨rfl, rfl, fun _ => rfl, fun _ _ => rfl⟩

theorem keepsPlaces_copyImage (s : State) (asn va n : Nat) (dst : Place) : KeepsPlaces s (copyImage s asn va n dst) := by
  unfold copyImage
  generalize alignedPieces va n = l
  induction l generalizing s with
  | nil => exact .refl s
  | cons k l ih =>
    rw [List.foldl_cons]
    refine KeepsPlaces.trans ?_ (ih _)
    split
    · exact .refl s
    · exact (booked_takeBack ..).keepsPlaces.trans (keepsPlaces_storeNat ..)

theorem keepsPlaces_modLaunch (s : State) (lid : Word) (f : Launch → Launch) : KeepsPlaces s (modLaunch s lid f) :=
  ⟨rfl, rfl, fun _ => rfl, fun _ _ => rfl⟩

theorem keepsPlaces_placeImages (s : State) (l : Launch) (c : Nat) (loc : Bool) :
    KeepsPlaces s (placeImages s l c loc) := by
  have h : ∀ (b : Prop) [Decidable b] (u : State) (asn va n : Nat) (dst : Place),
      KeepsPlaces u (if b then u else copyImage u asn va n dst) := fun b _ u asn va n dst => by
    split
    · exact .refl u
    · exact keepsPlaces_copyImage ..
  exact ((h _ s _ _ _ _).trans (h _ _ _ _ _ _)).trans (keepsPlaces_modLaunch ..)

theorem keepsPlaces_modCore {s : State} {c : Nat} {f : Core → Core} (hs : (f (getCore s c)).slots = (getCore s c).slots)
    (ha : (f (getCore s c)).arrivals = (getCore s c).arrivals) : KeepsPlaces s (modCore s c f) := by
  refine ⟨rfl, rfl, fun d => ?_, fun d i => by rw [getSlot_congr (slots_modCore hs d)]⟩
  by_cases hd : d = c
  · rw [hd, modCore, getCore_setCore_same, ha]
  · rw [modCore, getCore_setCore_ne _ _ _ _ hd]

theorem keepsPlaces_readyCore (s : State) (l : Launch) (c : Nat) : KeepsPlaces s (readyCore s l c) := by
  unfold readyCore
  dsimp only
  split
  · exact keepsPlaces_placeImages ..
  · exact (keepsPlaces_placeImages ..).trans (keepsPlaces_modCore rfl rfl)

/-! ### TASK_PLACE -/

/-- The registers of a thread that a launch seeds. -/
theorem rdReg_seedThread (l : Launch) (rank k : Nat) :
    rdReg (seedThread l rank) k = if 1 ≤ k ∧ k ≤ 8 then BitVec.ofNat 32 (dSeed l.desc (k - 1)) else 0 := by
  by_cases h0 : k = 0
  · simp [rdReg, h0]
  · by_cases hk : k < 128
    · simp [rdReg, seedThread, h0, hk]
    · simp [rdReg, seedThread, h0, hk, show ¬ k ≤ 8 by omega]

theorem seedAt_single {s : State} {l : Launch} {c i : Nat} {v : List Nat} (hp : dPair l.desc = false)
    (hv : vacantSlots (getCore s c) = i :: v) :
    seedAt s l c = setThread s c i { seedThread l l.next with readyAt := (getCore s c).cycle + 1 } := by
  simp only [seedAt, hp, hv, Bool.false_eq_true, if_false]

section
variable {s : State} {l : Launch} {c i : Nat} {v : List Nat} (hc : placeChoice s = some (l, c))
include hc

theorem exec_taskPlace_spawn (hs : spawnFirst s c = true) : exec (.taskPlace l.lid.toNat) s = .next s := by
  have hn : placeNow s = none := by simp [placeNow, hc, Option.filter, hs]
  show execTaskPlace l.lid.toNat s = _
  simp only [execTaskPlace, hn]

theorem exec_taskPlace (hs : spawnFirst s c = false) :
    exec (.taskPlace l.lid.toNat) s = .next (modLaunch (seedAt (readyCore s l c) l c) l.lid fun l =>
      { l with next := l.next + 1, lastCore := some c, members := l.members ++ [⟨l.next, c, false, false⟩] }) := by
  have hn : placeNow s = some (l, c) := by simp [placeNow, hc, Option.filter, hs]
  show execTaskPlace l.lid.toNat s = _
  simp only [execTaskPlace, hn, bne_self_eq_false, Bool.false_eq_true, if_false]

theorem taskPlace_leaves (hp : dPair l.desc = false) (hv : vacantSlots (getCore s c) = i :: v)
    (hs : spawnFirst s c = false) : Leaves (.taskPlace l.lid.toNat) s fun s' =>
      ∃ t, threadAt s' c i = some t ∧ t.pc = BitVec.ofNat 32 (dEntry l.desc) ∧ t.rank = BitVec.ofNat 32 l.next ∧
        t.npop = BitVec.ofNat 32 (dCount l.desc) ∧ t.lid = l.lid ∧ t.lim = dLim l.desc ∧ t.segs = l.segs ∧
        t.status = .ready ∧ t.f = 0xFFFF0001 ∧
        (∀ k, 1 ≤ k → k ≤ 8 → rdReg t k = BitVec.ofNat 32 (dSeed l.desc (k - 1))) ∧ ∀ k, 8 < k → rdReg t k = 0 := by
  have hi : i < 16 := by
    have := (mem_vacantSlots (hv ▸ List.mem_cons_self : i ∈ vacantSlots (getCore s c))).2.1
    omega
  have hr : vacantSlots (getCore (readyCore s l c) c) = i :: v := by
    rw [(keepsPlaces_readyCore s l c).vacantSlots, hv]
  refine ⟨_, exec_taskPlace hc hs, { seedThread l l.next with readyAt := (getCore (readyCore s l c) c).cycle + 1 }, ?_, rfl,
    rfl, rfl, rfl, rfl, rfl, rfl, rfl, fun k h1 h8 => ?_, fun k h8 => ?_⟩
  · rw [seedAt_single hp hr]
    exact threadAt_setThread_same _ _ _ _ hi
  · exact (rdReg_seedThread l l.next k).trans (if_pos ⟨h1, h8⟩)
  · exact (rdReg_seedThread l l.next k).trans (if_neg (by omega))

end

/-! ### The done tree -/

/-- A guarded change of one launch, with the guard among the conditions on the launch. -/
theorem modLaunch_if (s : State) (w : Word) (p : Launch → Prop) [DecidablePred p] (f : Launch → Launch) :
    (modLaunch s w fun l => if p l then f l else l).front.launches =
      s.front.launches.map fun l => if l.lid = w ∧ p l then f l else l := by
  refine List.map_congr_left fun l _ => ?_
  by_cases h : l.lid = w <;> simp [h]

theorem placingOverNotice_leaves (s : State) (lid c : Nat) : Leaves (.placingOverNotice lid c) s fun s' =>
    s'.front.launches = s.front.launches.map fun l =>
      if l.lid = BitVec.ofNat 32 lid ∧ dCount l.desc ≤ l.next ∧ c ∈ l.tree ∧ c ∉ l.noticed then
        { l with noticed := setAdd l.noticed c }
      else l := by
  refine ⟨_, rfl, (modLaunch_if s _ _ _).trans (List.map_congr_left fun l _ => if_congr ?_ rfl rfl)⟩
  simp [and_assoc]

/-- The front end without a launch. -/
def withoutLaunch (s : State) (l : Launch) : State :=
  { s with front := { s.front with launches := s.front.launches.filter fun x => x.lid != l.lid } }

theorem exec_launchComplete {s : State} {lid : Nat} {l : Launch} (hl : launchOf s (BitVec.ofNat 32 lid) = some l)
    (hr : completeReady s l = true) : exec (.launchComplete lid) s = .next (finishLaunch (withoutLaunch s l) l.asn l.desc
      l.service (l.count % 2 ^ 32 * 2 ^ 32 + l.exit % 256 * 2 ^ 16 + l.errs.toNat) (l.tree.headD 0)) := by
  show execLaunchComplete lid s = _
  simp only [execLaunchComplete, hl, hr, if_true, withoutLaunch, doneStatus]

theorem launchComplete_leaves {s : State} {lid : Nat} {l : Launch} (hl : launchOf s (BitVec.ofNat 32 lid) = some l)
    (hr : completeReady s l = true) : Leaves (.launchComplete lid) s fun s' =>
      s'.front.launches = s.front.launches.filter (fun x => x.lid != l.lid) ∧
      ∃ s1 : State, s1.mem = s.mem ∧ s' = finishLaunch s1 l.asn l.desc l.service
        (l.count % 2 ^ 32 * 2 ^ 32 + l.exit % 256 * 2 ^ 16 + l.errs.toNat) (l.tree.headD 0) :=
  ⟨_, exec_launchComplete hl hr, congrArg Front.launches (finishLaunch_front ..), withoutLaunch s l, rfl, rfl⟩

/-! ### Barriers -/

theorem mem_slotThreads {k : Core} {i : Nat} {t : Thread} :
    (i, t) ∈ slotThreads k ↔ i < 16 ∧ (k.slotAt i).thread? = some t := by
  simp [slotThreads]

/-- The threads of a core, where one of them is replaced. -/
theorem slotThreads_setSlot {k : Core} {i : Nat} {t : Thread} {n : Option Msg} (f : Thread → Thread)
    (h : (k.slotAt i).thread? = some t) (hi : i < 16) :
    slotThreads (k.setSlot i ⟨.thread (f t), n⟩) =
      (slotThreads k).map fun e => if e.1 = i then (e.1, f e.2) else e := by
  unfold slotThreads
  rw [List.map_filterMap]
  refine List.filterMap_congr fun j _ => ?_
  by_cases hj : j = i
  · rw [hj, slotAt_setSlot_same _ _ _ hi, h]
    simp [Slot.thread?]
  · rw [slotAt_setSlot_ne _ _ _ _ hj]
    cases (k.slotAt j).thread? <;> simp [hj]

/-- What tells a member's thread apart. -/
def isMember (lid : Word) (m : Member) (t : Thread) : Bool :=
  t.lid = lid && t.rank.toNat = m.rank && t.kind = .launch && !t.convoy && t.role != .trailing

theorem memberThread_eq (s : State) (lid : Word) (m : Member) :
    memberThread s lid m = (slotThreads (getCore s m.core)).find? fun e => isMember lid m e.2 := rfl

theorem threadAt_of_memberThread {s : State} {lid : Word} {m : Member} {i : Nat} {t : Thread}
    (h : memberThread s lid m = some (i, t)) : threadAt s m.core i = some t :=
  (mem_slotThreads.mp (List.mem_of_find?_eq_some h)).2

/-- A change of one thread that no member's test tells from the thread before it. -/
theorem memberThread_setThread {s : State} {c i : Nat} {t : Thread} {f : Thread → Thread} (ht : threadAt s c i = some t)
    (hf : ∀ lid m u, isMember lid m (f u) = isMember lid m u) (lid : Word) (m : Member) :
    memberThread (setThread s c i (f t)) lid m =
      (memberThread s lid m).map fun e => if m.core = c ∧ e.1 = i then (e.1, f e.2) else e := by
  simp only [memberThread_eq]
  by_cases hc : m.core = c
  · have hp : ((fun e : Nat × Thread => isMember lid m e.2) ∘ fun e => if e.1 = i then (e.1, f e.2) else e) =
        fun e => isMember lid m e.2 := by
      funext e
      by_cases he : e.1 = i <;> simp [he, hf]
    simp only [hc, true_and]
    rw [setThread_eq_setCore, getCore_setCore_same, slotThreads_setSlot f ht (threadAt_lt ht), List.find?_map, hp]
  · rw [show getCore (setThread s c i (f t)) m.core = getCore s m.core from getCore_setCore_ne _ _ _ _ hc]
    simp [hc]

theorem finish_keeps (t : Thread) : ∃ p u, finish t = { t with
    pc := p, pend := none, status := u, waitFrom := (finish t).waitFrom, lifted := (finish t).lifted
    heldAt := (finish t).heldAt, faultPage := (finish t).faultPage, missAt := (finish t).missAt } := by
  unfold finish
  split
  · rename_i h
    exact ⟨t.pc, t.status, by rw [← h]⟩
  · exact ⟨_, _, rfl⟩

@[simp] theorem openBar_pend (n : Nat) (t : Thread) : (openBar n t).pend = none := by
  obtain ⟨p, u, h⟩ := finish_keeps t
  rw [openBar, h]

theorem isMember_openBar (n : Nat) (lid : Word) (m : Member) (t : Thread) :
    isMember lid m (openBar n t) = isMember lid m t := by
  obtain ⟨p, u, h⟩ := finish_keeps t
  rw [openBar, h]
  rfl

@[simp] theorem openBar_role (n : Nat) (t : Thread) : (openBar n t).role = t.role := by
  obtain ⟨p, u, h⟩ := finish_keeps t
  rw [openBar, h]

/-- A participant that has been let go stays as it is when it is let go again. -/
theorem openBar_openBar (n : Nat) (t : Thread) : openBar n (openBar n t) = openBar n t := by
  rw [openBar, finish, openBar_pend]
  rfl

theorem cycle_setThread (s : State) (c i d : Nat) (t : Thread) :
    (getCore (setThread s c i t) d).cycle = (getCore s d).cycle := by
  have h := congrArg Core.cycle (coreRest_setThread s c i d t)
  simpa using h

/-- One participant of an episode is let go. -/
def openOne (lid : Word) (s : State) (m : Member) : State :=
  match memberThread s lid m with
  | some (i, _) => modPend s m.core i (openBar (getCore s m.core).cycle)
  | none => s

/-- All of them have a thread that stands alone. -/
def AllAlone (s : State) (lid : Word) (ms : List Member) : Prop :=
  ∀ m ∈ ms, ∃ j u, memberThread s lid m = some (j, u) ∧ u.role = .alone

theorem openOne_alone {s : State} {lid : Word} {m : Member} {i : Nat} {t : Thread} (h : memberThread s lid m = some (i, t))
    (ha : t.role = .alone) :
    openOne lid s m = setThread s m.core i (openBar (getCore s m.core).cycle t) := by
  simp only [openOne, h]
  exact modPend_alone _ (threadAt_of_memberThread h) ha

/-- The participants of an episode that opens: memory stays, each participant goes on, and no other thread changes. -/
theorem openBars (lid : Word) (ms : List Member) (s : State) (ha : AllAlone s lid ms) :
    (ms.foldl (openOne lid) s).mem = s.mem ∧
      (∀ m ∈ ms, ∀ j u, memberThread s lid m = some (j, u) →
        threadAt (ms.foldl (openOne lid) s) m.core j = some (openBar (getCore s m.core).cycle u)) ∧
      ∀ d j u, threadAt s d j = some u → threadAt (ms.foldl (openOne lid) s) d j = some u ∨
        threadAt (ms.foldl (openOne lid) s) d j = some (openBar (getCore s d).cycle u) := by
  induction ms generalizing s with
  | nil => exact ⟨rfl, fun m hm => absurd hm List.not_mem_nil, fun _ _ _ h => .inl h⟩
  | cons m ms ih =>
    obtain ⟨i, t, hm, htr⟩ := ha m List.mem_cons_self
    have ht := threadAt_of_memberThread hm
    have hi := threadAt_lt ht
    set s1 := setThread s m.core i (openBar (getCore s m.core).cycle t) with hs1
    have hcyc : ∀ d, (getCore s1 d).cycle = (getCore s d).cycle := fun d => cycle_setThread ..
    have hmem : ∀ m', memberThread s1 lid m' = (memberThread s lid m').map fun e =>
        if m'.core = m.core ∧ e.1 = i then (e.1, openBar (getCore s m.core).cycle e.2) else e :=
      memberThread_setThread ht (isMember_openBar _) lid
    have ha1 : AllAlone s1 lid ms := fun m' h' => by
      obtain ⟨j, u, hj, hu⟩ := ha m' (List.mem_cons_of_mem _ h')
      rw [hmem, hj, Option.map_some]
      split
      · exact ⟨_, _, rfl, by rw [openBar_role, hu]⟩
      · exact ⟨_, _, rfl, hu⟩
    obtain ⟨h1, h2, h3⟩ := ih s1 ha1
    have hfirst : threadAt (ms.foldl (openOne lid) s1) m.core i = some (openBar (getCore s m.core).cycle t) := by
      have := h3 m.core i _ (threadAt_setThread_same s m.core i _ hi)
      rwa [hcyc, openBar_openBar, or_self] at this
    rw [List.foldl_cons, openOne_alone hm htr, ← hs1]
    refine ⟨h1, fun m' hm' j u hj => ?_, fun d j u hu => ?_⟩
    · rcases List.mem_cons.mp hm' with rfl | hm'
      · obtain ⟨rfl, rfl⟩ := Prod.mk.inj (Option.some.inj (hm.symm.trans hj))
        exact hfirst
      · have hj1 := (hmem m').trans (congrArg _ hj)
        rw [Option.map_some] at hj1
        split at hj1
        · rename_i he
          rw [h2 m' hm' _ _ hj1, hcyc, he.1, openBar_openBar]
        · rw [h2 m' hm' _ _ hj1, hcyc]
    · by_cases he : (d, j) = (m.core, i)
      · obtain ⟨rfl, rfl⟩ := Prod.mk.inj he.symm
        obtain rfl := Option.some.inj (ht.symm.trans hu)
        exact .inr hfirst
      · have := h3 d j u ((threadAt_setThread_ne s m.core i d j _ he).trans hu)
        rwa [hcyc] at this

theorem exec_barEpisodeOpen {s : State} {c i k : Nat} {t : Thread} {l : Launch} {n : Word} {r : Nat}
    {f : List (Nat × Word)} (ht : threadAt s c i = some t) (hp : t.pend = some ⟨.bar k, n, r, f⟩)
    (hl : launchOf s t.lid = some l) (hr : episodeReady s l k c = true) :
    exec (.barEpisodeOpen c i) s = .next ((participants l k c).foldl (openOne l.lid) s) := by
  show execBarEpisodeOpen c i s = _
  simp only [execBarEpisodeOpen, ht, hp, hl, hr, if_true]
  rfl

theorem launchEvents : Claim.LaunchEvents := by
  refine ⟨fun s q p hq hh ho hl hp => overflowRefill_leaves hq hh ho hl hp,
    fun s q r l hq hc hr => ⟨fun _ _ hk hp => launchStart_good hc hr hq hk hp, launchStart_refused hc hr hq⟩,
    fun s q r l hq hr hs hf => headArrives_checked hq hr hs hf,
    fun s l c i v hc hp hv => ⟨exec_taskPlace_spawn hc, taskPlace_leaves hc hp hv⟩, placingOverNotice_leaves,
    fun s lid c => ⟨_, rfl, modLaunch_if s _ (fun l => doneReady s l c = true) _⟩,
    fun s lid l hl hr => launchComplete_leaves hl hr, fun s c i k t l n r f ht hp hl hr ha => ?_⟩
  obtain ⟨hmem, hopen, -⟩ := openBars l.lid (participants l k c) s ha
  exact ⟨_, exec_barEpisodeOpen ht hp hl hr, hmem, hopen⟩

end Sys2Proof.Machine

/-! Convoys on their way, in queues and at joins, and with them the obligation on launches and convoys (O57; R144, R150 to
R156). -/

namespace Sys2Proof.Machine

/-! ### The flits of a convoy (R144) -/

theorem wordsNat_append (ws : List Word) (w : Word) :
    wordsNat (ws ++ [w]) = wordsNat ws + 2 ^ (32 * ws.length) * w.toNat := by
  induction ws with
  | nil => simp [wordsNat]
  | cons v ws ih =>
    rw [List.cons_append, wordsNat, ih, wordsNat, List.length_cons, Nat.mul_succ, pow_add]
    ring

/-- The words of a bit vector's low part are its low bits. -/
theorem wordsNat_extract {w : Nat} (x : BitVec w) (n : Nat) :
    wordsNat ((List.range n).map fun i => x.extractLsb' (32 * i) 32) = x.toNat % 2 ^ (32 * n) := by
  induction n with
  | zero => simp [wordsNat, Nat.mod_one]
  | succ n ih =>
    rw [List.range_succ, List.map_append, List.map_singleton, wordsNat_append, ih, List.length_map, List.length_range,
      BitVec.extractLsb'_toNat, Nat.shiftRight_eq_div_pow, Nat.mul_succ, pow_add, Nat.mod_mul]

theorem ofNat_wordsNat_extract (x : BitVec 256) :
    BitVec.ofNat 256 (wordsNat ((List.range 8).map fun i => x.extractLsb' (32 * i) 32)) = x := by
  rw [wordsNat_extract]
  exact BitVec.eq_of_toNat_eq (by rw [BitVec.toNat_ofNat, Nat.mod_mod, Nat.mod_eq_of_lt x.isLt])

/-- Bits 18 and 19 of a convoy's first word. -/
theorem header_flags (n : Nat) (a b : Bool) :
    (BitVec.ofNat 32 (n % 2 ^ 16 + a.toNat * 2 ^ 18 + b.toNat * 2 ^ 19)).getLsbD 18 = a ∧
      (BitVec.ofNat 32 (n % 2 ^ 16 + a.toNat * 2 ^ 18 + b.toNat * 2 ^ 19)).getLsbD 19 = b := by
  have hn : n % 2 ^ 16 < 2 ^ 16 := Nat.mod_lt _ (by decide)
  simp only [BitVec.getLsbD_ofNat, Nat.testBit_eq_decide_div_mod_eq]
  cases a <;> cases b <;> simp <;> omega

/-- The seventeen words before a convoy's registers. -/
def convoyHeader (src dst : Nat) (t : Thread) : List Word :=
  [BitVec.ofNat 32 (dst % 2 ^ 16 + t.joinPending.toNat * 2 ^ 18 + t.triggered.toNat * 2 ^ 19), t.lid, t.f, t.qbase,
    t.qstride, BitVec.ofNat 32 (t.full.toNat / 2 % 2 ^ 23 + t.fpst.toNat * 2 ^ 23), t.rank, BitVec.ofNat 32 (src % 2 ^ 16),
    t.ecost, t.wear, t.tcause, t.tpc, t.tval, 0, 0, 0, t.pc]

/-- The words of a manifest. -/
def maskWords (m : BitVec 256) : List Word := (List.range 8).map fun i => m.extractLsb' (32 * i) 32

theorem packConvoy_eq (c d : Nat) (t : Thread) :
    packConvoy c d t = convoyHeader c d t ++ (rdRegs t 1 23 ++ (maskWords t.m ++ maskWords t.md)) := by
  simp only [packConvoy, convoyHeader, maskWords, List.append_assoc]

theorem wordAt_packConvoy (c d : Nat) (t : Thread) {k : Nat} (hk : k < 17) :
    wordAt (packConvoy c d t) k = wordAt (convoyHeader c d t) k := by
  rw [packConvoy_eq, wordAt, List.getElem?_append_left hk, wordAt]

/-- The registers, the manifest and the done manifest of a convoy stand in its data flits. -/
theorem packConvoy_parts (c d : Nat) (t : Thread) :
    ((packConvoy c d t).drop 17).take 23 = rdRegs t 1 23 ∧ ((packConvoy c d t).drop 40).take 8 = maskWords t.m ∧
      ((packConvoy c d t).drop 48).take 8 = maskWords t.md := by
  have hh : (convoyHeader c d t).length = 17 := rfl
  have hr : (rdRegs t 1 23).length = 23 := by simp [rdRegs]
  have hm : ∀ m, (maskWords m).length = 8 := by simp [maskWords]
  rw [packConvoy_eq]
  refine ⟨?_, ?_, ?_⟩ <;>
    simp [List.drop_append, List.drop_eq_nil_of_le, List.take_of_length_le, hh, hr, hm]

theorem rdRegs_getD (t : Thread) (n k j : Nat) (h : j < k) : ((rdRegs t n k)[j]?).getD 0 = rdReg t (n + j) := by
  simp [rdRegs, h]

section
variable {ws : List Word} {c d : Nat} {t : Thread}

theorem rdReg_unpackConvoy (hr : (ws.drop 17).take 23 = rdRegs t 1 23) {k : Nat} (hk : k < 24) :
    rdReg (unpackConvoy ws) k = rdReg t k := by
  have hl : (rdRegs t 1 23).length = 23 := by simp [rdRegs]
  show rdReg (wrRegs Thread.blank 1 ((ws.drop 17).take 23)) k = _
  rw [hr, rdReg_wrRegs _ _ _ _ (by decide) (by omega)]
  by_cases h0 : k = 0
  · subst h0
    rfl
  · rw [if_pos (by omega), rdRegs_getD _ _ _ _ (by omega)]
    congr 1
    omega

/-- The words of a transfer that carry a convoy give that convoy back. -/
theorem unpackConvoy_of (hw : ∀ k, k < 17 → wordAt ws k = wordAt (convoyHeader c d t) k)
    (hr : (ws.drop 17).take 23 = rdRegs t 1 23) (hm : (ws.drop 40).take 8 = maskWords t.m)
    (hd : (ws.drop 48).take 8 = maskWords t.md) :
    let u := unpackConvoy ws
    u.pc = t.pc ∧ (∀ k, k < 24 → rdReg u k = rdReg t k) ∧ u.f = t.f ∧ u.lid = t.lid ∧ u.rank = t.rank ∧ u.m = t.m ∧
      u.md = t.md ∧ u.qbase = t.qbase ∧ u.qstride = t.qstride ∧ u.ecost = t.ecost ∧ u.wear = t.wear ∧
      u.tcause = t.tcause ∧ u.tpc = t.tpc ∧ u.tval = t.tval ∧ u.triggered = t.triggered ∧
      u.joinPending = t.joinPending ∧ u.convoy = true ∧ u.lim = 24 := by
  have hf := header_flags d t.joinPending t.triggered
  exact ⟨hw 16 (by decide), fun _ hk => rdReg_unpackConvoy hr hk, hw 2 (by decide), hw 1 (by decide), hw 6 (by decide),
    (congrArg (fun ws => BitVec.ofNat 256 (wordsNat ws)) hm).trans (ofNat_wordsNat_extract t.m),
    (congrArg (fun ws => BitVec.ofNat 256 (wordsNat ws)) hd).trans (ofNat_wordsNat_extract t.md),
    hw 3 (by decide), hw 4 (by decide), hw 8 (by decide), hw 9 (by decide), hw 10 (by decide), hw 11 (by decide),
    hw 12 (by decide), (congrArg (fun w => w.getLsbD 19) (hw 0 (by decide))).trans hf.2,
    (congrArg (fun w => w.getLsbD 18) (hw 0 (by decide))).trans hf.1, rfl, rfl⟩

end

/-! ### Arrivals (R150, R151) -/

/-- The state in which an arriving convoy takes its place: it is no longer on its way, and its images are on the core. -/
def landed (s : State) (n : Nat) (m : Transit) : State :=
  modCore (arriveImages { s with moving := s.moving.eraseIdx n } (dress s (unpackConvoy m.flits)) m.dst true) m.dst fun k =>
    { k with heldPlaces := k.heldPlaces - 1 }

theorem keepsPlaces_landed (s : State) (n : Nat) (m : Transit) :
    KeepsPlaces { s with moving := s.moving.eraseIdx n } (landed s n m) := by
  refine KeepsPlaces.trans ?_ (keepsPlaces_modCore rfl rfl)
  unfold arriveImages
  split
  · exact .refl _
  · exact keepsPlaces_placeImages ..

section
variable {s : State} {n : Nat} {m : Transit} (h : s.moving[n]? = some m)
include h

theorem exec_convoyArrival_slot {i : Nat} {v : List Nat} (hv : vacantSlots (getCore (landed s n m) m.dst) = i :: v) :
    exec (.convoyArrival n) s = .next (setThread (landed s n m) m.dst i (dress s (unpackConvoy m.flits))) := by
  rw [landed] at hv
  show execConvoyArrival n s = _
  simp only [execConvoyArrival, h, hv, landed]

theorem exec_convoyArrival_queue (hv : vacantSlots (getCore (landed s n m) m.dst) = []) :
    exec (.convoyArrival n) s = .next (modCore { landed s n m with serial := (landed s n m).serial + 1 } m.dst fun k =>
      { k with arrivals := k.arrivals ++ [⟨(landed s n m).serial, dress s (unpackConvoy m.flits), false⟩] }) := by
  rw [landed] at hv
  show execConvoyArrival n s = _
  simp only [execConvoyArrival, h, hv, landed]

theorem convoyArrival_leaves :
    Leaves (.convoyArrival n) s fun s' =>
      s'.moving = s.moving.eraseIdx n ∧
      (∀ i v, vacantSlots (getCore s m.dst) = i :: v → threadAt s' m.dst i = some (dress s (unpackConvoy m.flits))) ∧
      (vacantSlots (getCore s m.dst) = [] →
        (getCore s' m.dst).arrivals =
          (getCore s m.dst).arrivals ++ [⟨s.serial, dress s (unpackConvoy m.flits), false⟩]) := by
  have hk := keepsPlaces_landed s n m
  have hv : vacantSlots (getCore (landed s n m) m.dst) = vacantSlots (getCore s m.dst) := hk.vacantSlots m.dst
  cases hs : vacantSlots (getCore s m.dst) with
  | nil =>
    refine ⟨_, exec_convoyArrival_queue h (hv.trans hs), hk.moving, fun i v e => (by cases e), fun _ => ?_⟩
    rw [modCore, getCore_setCore_same]
    exact congrArg₂ (fun l k => l ++ [(⟨k, dress s (unpackConvoy m.flits), false⟩ : Queued)]) (hk.arrivals m.dst) hk.serial
  | cons i v =>
    refine ⟨_, exec_convoyArrival_slot h (hv.trans hs), hk.moving, fun j w e => ?_, fun e => (by cases e)⟩
    obtain ⟨rfl, -⟩ := List.cons.inj e
    have hi := (mem_vacantSlots (hs ▸ List.mem_cons_self : i ∈ vacantSlots (getCore s m.dst))).2.1
    exact threadAt_setThread_same _ _ _ _ (by omega)

end

/-- A field of a core that no slot is part of, after a thread is written. -/
theorem arrivals_setThread (s : State) (c i d : Nat) (t : Thread) :
    (getCore (setThread s c i t) d).arrivals = (getCore s d).arrivals := by
  have h := congrArg Core.arrivals (coreRest_setThread s c i d t)
  simpa using h

theorem arrivalSlotGrant_leaves {s : State} {c i : Nat} {q : Queued}
    (hq : (getCore s c).arrivals.find? (fun q => !q.parked) = some q)
    (hi : (List.range 15).find? (fun i => decide (1 ≤ i) && ((getCore s c).slotAt i).isVacant) = some i) :
    Leaves (.arrivalSlotGrant c) s fun s' =>
      threadAt s' c i = some q.th ∧
      (getCore s' c).arrivals = (getCore s c).arrivals.filter fun e => e.id != q.id := by
  have he : exec (.arrivalSlotGrant c) s = .next (setThread (modCore s c fun k =>
      { k with arrivals := k.arrivals.filter fun e => e.id != q.id }) c i q.th) := by
    show execArrivalSlotGrant c s = _
    simp only [execArrivalSlotGrant, hq, hi]
  have hl : i < 15 := List.mem_range.mp (List.mem_of_find?_eq_some hi)
  refine ⟨_, he, threadAt_setThread_same _ _ _ _ (by omega), ?_⟩
  rw [arrivals_setThread, modCore, getCore_setCore_same]

/-! ### Place requests (R150, R152) -/

theorem getSlot_withMoving (s : State) (l : List Transit) (c i : Nat) :
    getSlot { s with moving := l } c i = getSlot s c i := rfl

theorem content_moveOut (s : State) (c : Nat) {i : Nat} (hi : i < 16) : (getSlot (moveOut s c i) c i).content = .vacant := by
  rw [moveOut, getSlot_clearSlot _ _ _ _ hi]

theorem heldPlaces_emptied (i : Nat) (k : Core) :
    (enginesGone i (matForget i (unhand i (dropOverrides k)))).heldPlaces = k.heldPlaces := by
  obtain ⟨w, g, h⟩ := matForget_eq i (unhand i (dropOverrides k))
  rw [h]
  rfl

theorem heldPlaces_moveOut (s : State) (c i d : Nat) :
    (getCore (moveOut s c i) d).heldPlaces = (getCore s d).heldPlaces := by
  unfold moveOut clearSlot
  by_cases hd : d = c
  · rw [hd, modCore, getCore_setCore_same, heldPlaces_emptied, setContent, setSlot, getCore_setCore_same]
    rfl
  · rw [modCore, getCore_setCore_ne _ _ _ _ hd, setContent, setSlot, getCore_setCore_ne _ _ _ _ hd]
    rfl

theorem heldPlaces_dropClaim (s : State) (d : Nat) (t : Thread) (e : Nat) :
    (getCore (dropClaim s d t) e).heldPlaces = (getCore s e).heldPlaces := by
  unfold dropClaim
  split
  · by_cases he : e = d
    · rw [he, modCore, getCore_setCore_same]
    · rw [modCore, getCore_setCore_ne _ _ _ _ he]
  · rfl

/-- The state in which the claim of a refused convoy stands among those of the core. -/
def claimed (s : State) (d : Nat) (t : Thread) : State :=
  modCore s d fun k =>
    { k with refused := if ownsClaim s d t && k.refused.contains (claimKey t) then k.refused
        else k.refused ++ [claimKey t] }

theorem mem_refused_claimed (s : State) (d : Nat) (t : Thread) : claimKey t ∈ (getCore (claimed s d t) d).refused := by
  rw [claimed, modCore, getCore_setCore_same]
  dsimp only
  split
  · rename_i h
    obtain ⟨-, hc⟩ := Bool.and_eq_true_iff.mp h
    simpa using hc
  · simp

theorem threadAt_claimed (s : State) (d c i : Nat) (t : Thread) : threadAt (claimed s d t) c i = threadAt s c i := by
  rw [threadAt, claimed, getSlot_congr (slots_modCore rfl c), ← threadAt]

section
variable {s : State} {c i d : Nat} {t : Thread} {b : Bool} {n : Word} {r : Nat} {f : List (Nat × Word)}
  (ht : threadAt s c i = some t) (hp : t.pend = some ⟨.migrate d b, n, r, f⟩) (hs : t.stopReq = false)
  (hh : t.holdReq = false)
include ht hp hs hh

theorem placeRequest_absent (hd : presentCore s d = false) :
    exec (.placeRequest c i) s = .next (setThread s c i (abandon t)) := by
  show execPlaceRequest c i s = _
  simp only [execPlaceRequest, ht, hp, hs, hh, hd, Bool.or_self, Bool.false_eq_true, if_false, Bool.not_false, if_true]

theorem placeRequest_given (hd : presentCore s d = true) (hr : draining s d = false)
    (hf : claimsAhead s d t < freePlaces (getCore s d)) :
    Leaves (.placeRequest c i) s fun s' =>
      (getSlot s' c i).content = .vacant ∧ s'.moving = s.moving ++ [⟨packConvoy c d (abandon t)⟩] ∧
      (getCore s' d).heldPlaces = (getCore s d).heldPlaces + 1 := by
  have he : exec (.placeRequest c i) s = .next { moveOut (modCore (dropClaim s d t) d fun k =>
      { k with heldPlaces := k.heldPlaces + 1 }) c i with moving := s.moving ++ [⟨packConvoy c d (abandon t)⟩] } := by
    show execPlaceRequest c i s = _
    simp only [execPlaceRequest, ht, hp, hs, hh, hd, hr, hf, Bool.or_self, Bool.false_eq_true, if_false, Bool.not_true,
      Bool.not_false, Bool.true_and, decide_true, if_true]
  refine ⟨_, he, ?_, rfl, ?_⟩
  · rw [getSlot_withMoving]
    exact content_moveOut _ c (threadAt_lt ht)
  · refine (heldPlaces_moveOut _ c i d).trans ?_
    rw [modCore, getCore_setCore_same, heldPlaces_dropClaim]

theorem placeRequest_refused (hd : presentCore s d = true)
    (hf : draining s d = true ∨ freePlaces (getCore s d) ≤ claimsAhead s d t) :
    Leaves (.placeRequest c i) s fun s' =>
      claimKey t ∈ (getCore s' d).refused ∧
      threadAt s' c i =
        some { t with pend := some ⟨.migrate d true, n, r, f⟩, heldAt := some (t.heldAt.getD s.time.toNat) } := by
  have hno : (!draining s d && decide (freePlaces (getCore s d) > claimsAhead s d t)) = false := by
    rcases hf with h | h
    · simp [h]
    · simp [Nat.not_lt.mpr h]
  have hc : threadAt (claimed s d t) c i = some t := (threadAt_claimed ..).trans ht
  have hu : heldFrom s { t with pend := t.pend.map fun p => { p with what := .migrate d true } } =
      { t with pend := some ⟨.migrate d true, n, r, f⟩, heldAt := some (t.heldAt.getD s.time.toNat) } := by
    simp only [heldFrom, hp, Option.map_some]
  have he : exec (.placeRequest c i) s = .next (setThread (claimed s d t) c i
      { t with pend := some ⟨.migrate d true, n, r, f⟩, heldAt := some (t.heldAt.getD s.time.toNat) }) := by
    rw [← hu, ← modThread_some (claimed s d t) c i
      (fun t => heldFrom s { t with pend := t.pend.map fun p => { p with what := .migrate d true } }) t hc]
    show execPlaceRequest c i s = _
    simp only [execPlaceRequest, ht, hp, hs, hh, hd, hno, Bool.or_self, Bool.false_eq_true, if_false, Bool.not_true]
    rfl
  refine ⟨_, he, ?_, threadAt_setThread_same _ _ _ _ (threadAt_lt ht)⟩
  have hr := congrArg Core.refused (coreRest_setThread (claimed s d t) c i d
    { t with pend := some ⟨.migrate d true, n, r, f⟩, heldAt := some (t.heldAt.getD s.time.toNat) })
  exact hr ▸ mem_refused_claimed s d t

end

/-! ### Joins (R154 to R156) -/

/-- The joint table has served a lookup in this cycle. -/
def lookedUp (s : State) (c : Nat) : State := modCore s c fun k => { k with lookup := some k.cycle }

section
variable {s : State} {c : Nat} {q : Queued} {o : ShI} (hq : queuedJoin (getCore s c) = some q)
  (hf : fetchInstr s c q.th = .instr (.join o))
  (hn : (getCore s c).joint.find? (fun j => j.ia = q.th.pc.setWidth 14 && j.node = rdReg q.th o.a.toNat &&
    j.lid = q.th.lid) = none)
include hq hf hn

theorem queuedJoinLookup_passed (h : o.imm.raw = 0) :
    Leaves (.queuedJoinLookup c) s fun s' =>
      (getCore s' c).joint = (getCore s c).joint ∧
      (getCore s' c).arrivals = (getCore s c).arrivals.map fun e =>
        if e.id = q.id then { e with th := { setFlag q.th 1 false with
          pc := q.th.pc + BitVec.ofNat 32 (2 * wordsOfChain true o.p o.imm.k), joinPending := false } } else e := by
  have he : exec (.queuedJoinLookup c) s = .next (setQueued (lookedUp s c) c q.id fun e =>
      { e with th := passJoin q.th (q.th.pc + BitVec.ofNat 32 (2 * wordsOfChain true o.p o.imm.k)) }) := by
    show execQueuedJoinLookup c s = _
    simp [execQueuedJoinLookup, hq, hf, lookupJoin, hn, h, lookedUp]
  refine ⟨_, he, ?_⟩
  simp only [setQueued, lookedUp, modCore, getCore_setCore_same]
  exact ⟨trivial, rfl⟩

theorem queuedJoinLookup_parked (h : o.imm.raw ≠ 0) (hl : (getCore s c).joint.length < 32) :
    Leaves (.queuedJoinLookup c) s fun s' =>
      (getCore s' c).joint = (getCore s c).joint ++ [⟨.queue q.id, q.th.pc.setWidth 14,
        BitVec.ofNat 24 ((getCore s c).cycle + o.imm.raw.toNat), rdReg q.th o.a.toNat, q.th.lid, false⟩] := by
  have h0 : o.imm.raw.toNat ≠ 0 := fun e => h (BitVec.eq_of_toNat_eq e)
  have he : exec (.queuedJoinLookup c) s = .next (setQueued (modCore (lookedUp s c) c fun k =>
      { k with joint := k.joint ++ [⟨.queue q.id, q.th.pc.setWidth 14,
          BitVec.ofNat 24 (k.cycle + o.imm.raw.toNat), rdReg q.th o.a.toNat, q.th.lid, false⟩] }) c q.id fun e =>
      { e with th := parkJoin q.th (q.th.pc + BitVec.ofNat 32 (2 * wordsOfChain true o.p o.imm.k)), parked := true }) := by
    show execQueuedJoinLookup c s = _
    simp [execQueuedJoinLookup, hq, hf, lookupJoin, hn, h0, Nat.not_le.mpr hl, lookedUp]
  refine ⟨_, he, ?_⟩
  simp only [setQueued, lookedUp, modCore, getCore_setCore_same]

end

/-- The joint table without the entries of a holder. -/
def unheld (s : State) (c : Nat) (e : Joint) : State :=
  modCore s c fun k => { k with joint := k.joint.filter fun j => j.holder != e.holder }

theorem joinExpiry_leaves {s : State} {c n i : Nat} {e : Joint} {t : Thread} (he : (getCore s c).joint[n]? = some e)
    (ho : joinOver (getCore s c) e = true) (hi : e.holder = .slot i) (ht : threadAt s c i = some t) :
    Leaves (.joinExpiry c n) s fun s' =>
      threadAt s' c i = some { finish (setFlag t 1 e.merged) with readyAt := (getCore s c).cycle + 1 } ∧
      (getCore s' c).joint = (getCore s c).joint.filter fun j => j.holder != e.holder := by
  have hk : threadAt (unheld s c e) c i = some t := by
    rw [threadAt, unheld, getSlot_congr (slots_modCore rfl c), ← threadAt, ht]
  have hx : exec (.joinExpiry c n) s = .next (setThread (unheld s c e) c i (goOn (getCore s c).cycle e.merged t)) := by
    rw [← modThread_some (unheld s c e) c i (goOn (getCore s c).cycle e.merged) t hk]
    show execJoinExpiry c n s = _
    simp only [execJoinExpiry, he, ho, if_true, releaseHolder, hi, unheld]
  refine ⟨_, hx, threadAt_setThread_same _ _ _ _ (threadAt_lt ht), ?_⟩
  refine (congrArg Core.joint (coreRest_setThread (unheld s c e) c i c (goOn (getCore s c).cycle e.merged t))).trans ?_
  rw [unheld, modCore, getCore_setCore_same]

theorem convoyEvents : Claim.ConvoyEvents := by
  refine ⟨fun c d t => ?_, fun s n m h => convoyArrival_leaves h, fun s c i q hq hi => arrivalSlotGrant_leaves hq hi,
    fun s c i d t b n r f ht hp hs hh _ => ⟨placeRequest_absent ht hp hs hh, placeRequest_given ht hp hs hh,
      placeRequest_refused ht hp hs hh⟩, fun s c q o hq hf hn => ?_,
    fun s c n i e t he ho hi ht => joinExpiry_leaves he ho hi ht⟩
  · obtain ⟨hr, hm, hd⟩ := packConvoy_parts c d t
    exact unpackConvoy_of (fun k hk => wordAt_packConvoy c d t hk) hr hm hd
  · exact ⟨queuedJoinLookup_passed hq hf hn, queuedJoinLookup_parked hq hf hn⟩

/-- Settles O57: each event by the equation of its definition; the images that an event copies keep every core's places, the
front end's own stores keep its queues and launches, and an episode lets its participants go one by one. -/
theorem populationEvents : Obligations.PopulationEvents := ⟨launchEvents, convoyEvents⟩

end Sys2Proof.Machine

/-! Decoding what the encoder writes (O1, O2): the leading words of a chain are read back in the encoder's order (R25, R31,
R44), each field is recovered from the word that carries it (R22 to R30), and so each shape's parser gives back the
operands. -/

namespace Sys2Proof

/-! ### Three fields of a word -/

section
variable {a b c : Nat} (x : BitVec a) (y : BitVec b) (z : BitVec c)

theorem extract_append_high : (x ++ y ++ z).extractLsb' (b + c) a = x := by
  rw [BitVec.extractLsb'_append_eq_of_le (Nat.le_add_left c b), Nat.add_sub_cancel, BitVec.extractLsb'_append_eq_left]

theorem extract_append_mid : (x ++ y ++ z).extractLsb' c b = y := by
  rw [BitVec.extractLsb'_append_eq_of_le le_rfl, Nat.sub_self, BitVec.extractLsb'_append_eq_right]

theorem extract_append_low : (x ++ y ++ z).extractLsb' 0 (b + c) = y ++ z := by
  apply BitVec.eq_of_getLsbD_eq
  intro i hi
  simp only [BitVec.getLsbD_extractLsb', hi, decide_true, Bool.true_and, Nat.zero_add, BitVec.getLsbD_append]
  by_cases hc : i < c
  · simp only [hc, if_true]
  · have hb : i - c < b := by omega
    simp only [hc, hb, if_true, if_false]

theorem getLsbD_append_ofBool (d e : Bool) :
    (x ++ BitVec.ofBool d ++ BitVec.ofBool e).getLsbD 1 = d ∧
      (x ++ BitVec.ofBool d ++ BitVec.ofBool e).getLsbD 0 = e := by
  simp [BitVec.getElem_append]

end

/-! ### Reading the words of a chain -/

@[simp] theorem isPrefixWord_prefixWord (k : BitVec 3) (x : BitVec 9) : isPrefixWord (prefixWord k x) = true :=
  beq_iff_eq.mpr (extract_append_high 0xF#4 k x)

@[simp] theorem kind_prefixWord (k : BitVec 3) (x : BitVec 9) : (prefixWord k x).extractLsb' 9 3 = k :=
  extract_append_mid 0xF#4 k x

@[simp] theorem payload_prefixWord (k : BitVec 3) (x : BitVec 9) : (prefixWord k x).extractLsb' 0 9 = x :=
  BitVec.extractLsb'_append_eq_right

/-- One leading word that a chain may do without: `f` says what its payload makes of the chain read so far. -/
theorem readChain_optional {ws : List Half} {n : Nat} (k : BitVec 3) (x : Option (BitVec 9))
    (f : Option (BitVec 9) → Chain) (hn : n + x.isSome.toNat ≤ 4)
    (hk : ∀ y m, m < 4 → readChain (prefixWord k y :: ws) (f none) m = readChain ws (f (some y)) (m + 1)) :
    readChain ((x.map (prefixWord k)).toList ++ ws) (f none) n = readChain ws (f x) (n + x.isSome.toNat) := by
  cases x with
  | none => rfl
  | some y => exact hk y n hn

theorem readChain_xi {ch : Chain} {ws : List Half} {n : Nat} {xi : List (BitVec 9)} (hn : n + xi.length ≤ 4) :
    readChain (xi.map (prefixWord 0) ++ ws) ch n = readChain ws { ch with xi := ch.xi ++ xi } (n + xi.length) := by
  induction xi generalizing ch n with
  | nil => simp
  | cons x xi ih =>
    simp only [List.length_cons] at hn
    have h4 : ¬ n ≥ 4 := by omega
    rw [List.map_cons, List.cons_append, readChain]
    simp only [isPrefixWord_prefixWord, kind_prefixWord, payload_prefixWord, if_true, h4, if_false]
    rw [ih (by omega)]
    simp [Nat.add_assoc, Nat.add_comm 1]

theorem length_toList_map {α β : Type} (f : α → β) (x : Option α) : (x.map f).toList.length = x.isSome.toNat := by
  cases x <;> rfl

/-- The leading words of a chain. -/
def Chain.prefixes (ch : Chain) : Nat :=
  ch.xp.isSome.toNat + ch.xg.isSome.toNat + ch.xt.isSome.toNat + ch.rlx.isSome.toNat + ch.xi.length

theorem Chain.length_words (ch : Chain) : ch.words.length = ch.prefixes + 1 := by
  simp only [words, prefixes, List.length_append, length_toList_map, List.length_map, List.length_cons, List.length_nil]

/-- A chain of at most four leading words is read back as it stands (R31, R44). -/
theorem readChain_words {ch : Chain} (hl : ch.prefixes ≤ 4) (hb : isPrefixWord ch.base = false) :
    readChain ch.words .empty 0 = .ok (ch, ch.words.length) := by
  obtain ⟨xp, xg, xt, rlx, xi, base⟩ := ch
  have hlen := Chain.length_words ⟨xp, xg, xt, rlx, xi, base⟩
  simp only [Chain.prefixes] at hl hlen
  rw [hlen]
  simp only [Chain.words, List.append_assoc, Chain.empty]
  rw [readChain_optional 2 xp (fun x => ⟨x, none, none, none, [], 0⟩) (by omega) fun y m h => by
      simp [readChain, Nat.not_le.mpr h],
    readChain_optional 1 xg (fun x => ⟨xp, x, none, none, [], 0⟩) (by omega) fun y m h => by
      simp [readChain, Nat.not_le.mpr h],
    readChain_optional 3 xt (fun x => ⟨xp, xg, x, none, [], 0⟩) (by omega) fun y m h => by
      simp [readChain, Nat.not_le.mpr h],
    readChain_optional 4 rlx (fun x => ⟨xp, xg, xt, x, [], 0⟩) (by omega) fun y m h => by
      simp [readChain, Nat.not_le.mpr h],
    readChain_xi (by omega)]
  simp only [readChain, hb, List.nil_append, Nat.zero_add, Bool.false_eq_true, if_false]

/-! ### Fields of a chain -/

theorem regHi_eq_zero {r : Reg} (h : r.toNat < 32) : regHi r = 0 := by
  apply BitVec.eq_of_toNat_eq
  have h0 : r.toNat / 2 ^ 5 % 2 ^ 2 = 0 := by omega
  simpa [regHi, BitVec.extractLsb'_toNat, Nat.shiftRight_eq_div_pow] using h0

/-- Without an XG word there is no guard. -/
theorem Pfx.guard_of_carries {p : Pfx} {l : List Reg} (h : p.carries l = true) : p.xg = true ∨ p.guard = 0 := by
  simp only [Pfx.carries, Bool.or_eq_true, Bool.and_eq_true, beq_iff_eq] at h
  exact h.imp_right And.left

/-- Without an XG word no register number has high bits. -/
theorem Pfx.regHi_of_carries {p : Pfx} {l : List Reg} {r : Reg} (h : p.carries l = true) (hr : r ∈ l) :
    p.xg = true ∨ regHi r = 0 := by
  simp only [Pfx.carries, Bool.or_eq_true, Bool.and_eq_true, beq_iff_eq, List.all_eq_true, decide_eq_true_eq] at h
  exact h.imp_right fun ⟨_, hl⟩ => regHi_eq_zero (hl r hr)

@[simp] theorem regHi_append_regLo (r : Reg) : regHi r ++ regLo r = r :=
  (BitVec.extractLsb'_append_extractLsb'_eq_extractLsb' rfl).trans BitVec.extractLsb'_eq_self

section
variable {op : Nat × Nat} {p : Pfx} {aHi bHi : BitVec 2} {a5 b5 : BitVec 5} {xt rlx : Option (BitVec 9)}
  {xi : List (BitVec 9)}

@[simp] theorem mkChain_a5 : (mkChain op p aHi bHi a5 b5 xt rlx xi).a5 = a5 :=
  extract_append_mid (BitVec.ofNat 6 op.2) a5 b5
@[simp] theorem mkChain_b5 : (mkChain op p aHi bHi a5 b5 xt rlx xi).b5 = b5 := BitVec.extractLsb'_append_eq_right
@[simp] theorem mkChain_base10 : (mkChain op p aHi bHi a5 b5 xt rlx xi).base.extractLsb' 0 10 = a5 ++ b5 :=
  extract_append_low (BitVec.ofNat 6 op.2) a5 b5
@[simp] theorem mkChain_xt : (mkChain op p aHi bHi a5 b5 xt rlx xi).xt = xt := rfl
@[simp] theorem mkChain_rlx : (mkChain op p aHi bHi a5 b5 xt rlx xi).rlx = rlx := rfl
@[simp] theorem mkChain_xi : (mkChain op p aHi bHi a5 b5 xt rlx xi).xi = xi := rfl

theorem mkChain_pfx {l : List Reg} (h : p.carries l = true) : (mkChain op p aHi bHi a5 b5 xt rlx xi).pfx = p := by
  have hg := p.guard_of_carries h
  obtain ⟨xg, g⟩ := p
  cases xg with
  | true => exact congrArg (Pfx.mk true) BitVec.extractLsb'_append_eq_right
  | false =>
    obtain rfl : g = 0 := by simpa using hg
    rfl

theorem mkChain_aHi (h : p.xg = true ∨ aHi = 0) : (mkChain op p aHi bHi a5 b5 xt rlx xi).aHi = aHi := by
  obtain ⟨xg, g⟩ := p
  cases xg with
  | true => exact extract_append_high aHi bHi g
  | false => exact (by simpa using h : aHi = 0).symm

theorem mkChain_bHi (h : p.xg = true ∨ bHi = 0) : (mkChain op p aHi bHi a5 b5 xt rlx xi).bHi = bHi := by
  obtain ⟨xg, g⟩ := p
  cases xg with
  | true => exact extract_append_mid aHi bHi g
  | false => exact (by simpa using h : bHi = 0).symm

@[simp] theorem mkChain_aHi_zero : (mkChain op p 0#2 bHi a5 b5 xt rlx xi).aHi = 0 := mkChain_aHi (.inr rfl)
@[simp] theorem mkChain_bHi_zero : (mkChain op p aHi 0#2 a5 b5 xt rlx xi).bHi = 0 := mkChain_bHi (.inr rfl)

@[simp] theorem mkChain_aReg_zero : (mkChain op p 0#2 bHi 0#5 b5 xt rlx xi).aReg = 0 := by
  rw [Chain.aReg, mkChain_aHi_zero, mkChain_a5]
  rfl

@[simp] theorem mkChain_bReg_zero : (mkChain op p aHi 0#2 a5 0#5 xt rlx xi).bReg = 0 := by
  rw [Chain.bReg, mkChain_bHi_zero, mkChain_b5]
  rfl

theorem mkChain_aReg {l : List Reg} {r : Reg} (h : p.carries l = true) (hr : r ∈ l) :
    (mkChain op p (regHi r) bHi (regLo r) b5 xt rlx xi).aReg = r := by
  rw [Chain.aReg, mkChain_aHi (p.regHi_of_carries h hr), mkChain_a5, regHi_append_regLo]

theorem mkChain_bReg {l : List Reg} {r : Reg} (h : p.carries l = true) (hr : r ∈ l) :
    (mkChain op p aHi (regHi r) a5 (regLo r) xt rlx xi).bReg = r := by
  rw [Chain.bReg, mkChain_bHi (p.regHi_of_carries h hr), mkChain_b5, regHi_append_regLo]

theorem mkChain_prefixes : (mkChain op p aHi bHi a5 b5 xt rlx xi).prefixes =
    (decide (op.1 ≠ 0)).toNat + p.xg.toNat + xt.isSome.toNat + rlx.isSome.toNat + xi.length := by
  cases hg : p.xg <;> by_cases h : op.1 = 0 <;> simp [mkChain, Chain.prefixes, h, hg]

end

/-! ### Payloads -/

@[simp] theorem xtC_xtPayload (c : Reg) (sb sc : Bool) : xtC (xtPayload c sb sc) = c :=
  extract_append_high c (BitVec.ofBool sb) (BitVec.ofBool sc)
@[simp] theorem xtB_xtPayload (c : Reg) (sb sc : Bool) : xtB (xtPayload c sb sc) = sb :=
  (getLsbD_append_ofBool c sb sc).1
@[simp] theorem xtS_xtPayload (c : Reg) (sb sc : Bool) : xtS (xtPayload c sb sc) = sc :=
  (getLsbD_append_ofBool c sb sc).2

@[simp] theorem rlxGroup_payload (g : Option (BitVec 3)) : rlxGroup (g.map rlxPayload) = g := by
  cases g with
  | none => rfl
  | some g =>
    exact congrArg some ((BitVec.extractLsb'_setWidth_of_le (by omega)).trans BitVec.extractLsb'_eq_self)

@[simp] theorem rlxOk_payload (g : Option (BitVec 3)) : rlxOk (g.map rlxPayload) = true := by
  cases g with
  | none => rfl
  | some g =>
    have h : (g.setWidth 9).extractLsb' 3 6 = 0 := by
      apply BitVec.eq_of_toNat_eq
      have h0 : g.toNat % 512 / 8 % 64 = 0 := by omega
      simpa [BitVec.extractLsb'_toNat, Nat.shiftRight_eq_div_pow] using h0
    simp [rlxOk, rlxPayload, h]

@[simp] theorem toXt_comp_payload : toXt ∘ Xt.payload = id := by
  funext x
  simp [toXt, Xt.payload]

@[simp] theorem toXtV_comp_payload : toXtV ∘ XtV.payload = id := by
  funext x
  simp [toXtV, XtV.payload]

@[simp] theorem xtVec_payload (x : Option XtV) : xtVec (x.map XtV.payload) = true := by
  cases x with
  | none => rfl
  | some x => simp [xtVec, XtV.payload]; omega

@[simp] theorem xtVec_xtPayload (c : VReg) (sb sc : Bool) : xtVec (some (xtPayload (c.setWidth 7) sb sc)) = true :=
  xtVec_payload (some ⟨c, sb, sc⟩)

@[simp] theorem xtOnlyB_sbPayload (x : Option Bool) : xtOnlyB (x.map sbPayload) = true := by
  cases x <;> simp [xtOnlyB, sbPayload]

@[simp] theorem syncB_sbPayload (x : Option Bool) : syncB (x.map sbPayload) = x := by
  cases x <;> simp [syncB, sbPayload]

@[simp] theorem xtOr_some (x : BitVec 9) : xtOr (some x) = x := rfl

@[simp] theorem isVReg_setWidth (v : VReg) : isVReg (v.setWidth 5) = true := by
  simp [isVReg]; omega

@[simp] theorem vOf_setWidth (v : VReg) : vOf (v.setWidth 5) = v := by simp [vOf]

@[simp] theorem isFour_setWidth (v : Four) : isFour (v.setWidth 5) = true := by
  simp [isFour]; omega

@[simp] theorem fourOf_setWidth (v : Four) : fourOf (v.setWidth 5) = v := by simp [fourOf]

/-! ### Immediates (R26) -/

@[simp] theorem length_xiWords (k : Nat) (v : BitVec 32) : (xiWords k v).length = k := by
  induction k with
  | zero => rfl
  | succ k ih => simp [xiWords, ih]

/-- The bits of `k` gathered XI words, under those gathered before. -/
theorem getLsbD_foldl_xiWords (k : Nat) (acc v : BitVec 32) {i : Nat} (hi : i < 32) :
    ((xiWords k v).foldl (fun (acc : BitVec 32) x => (acc <<< 9) ||| x.setWidth 32) acc).getLsbD i =
      if i < 9 * k then v.getLsbD i else acc.getLsbD (i - 9 * k) := by
  induction k generalizing acc with
  | zero => rfl
  | succ k ih =>
    rw [xiWords, List.foldl_cons, ih]
    by_cases h1 : i < 9 * k
    · rw [if_pos h1, if_pos (by omega)]
    · have h2 : i - 9 * k < 32 := by omega
      have h3 : 9 * k + (i - 9 * k) = i := by omega
      rw [if_neg h1, BitVec.getLsbD_or, BitVec.getLsbD_shiftLeft, BitVec.getLsbD_setWidth, BitVec.getLsbD_setWidth,
        BitVec.getLsbD_ushiftRight, h3]
      by_cases h4 : i < 9 * (k + 1)
      · have h5 : i - 9 * k < 9 := by omega
        simp [h2, h4, h5]
      · have h5 : ¬ i - 9 * k < 9 := by omega
        have h6 : i - 9 * k - 9 = i - 9 * (k + 1) := by omega
        simp [h2, h4, h5, h6]

theorem getLsbD_gatherXi_xiWords (k : Nat) (v : BitVec 32) {i : Nat} (hi : i < 32) :
    (gatherXi (xiWords k v)).getLsbD i = (decide (i < 9 * k) && v.getLsbD i) := by
  rw [gatherXi, getLsbD_foldl_xiWords k 0 v hi]
  split <;> simp [*]

/-- The low `w` bits of a value in the base word and the rest in `k` XI words make the value again. -/
theorem gatherXi_shiftLeft_or {w k : Nat} {v : BitVec 32} (hv : v.toNat < 2 ^ (w + 9 * k)) :
    (gatherXi (xiWords k (v >>> w)) <<< w) ||| (v.setWidth w).setWidth 32 = v := by
  apply BitVec.eq_of_getLsbD_eq
  intro i hi
  rw [BitVec.getLsbD_or, BitVec.getLsbD_shiftLeft, BitVec.getLsbD_setWidth, BitVec.getLsbD_setWidth]
  by_cases h1 : i < w
  · simp [h1, hi]
  · have h2 : i - w < 32 := by omega
    have h3 : w + (i - w) = i := by omega
    rw [getLsbD_gatherXi_xiWords _ _ h2, BitVec.getLsbD_ushiftRight, h3]
    by_cases h4 : i - w < 9 * k
    · simp [h1, h4, hi]
    · have h5 : v.getLsbD i = false :=
        Nat.testBit_lt_two_pow (lt_of_lt_of_le hv (Nat.pow_le_pow_right (by omega) (by omega)))
      simp [h1, h4, h5]

@[simp] theorem gatherXi_xiWords_zero (k : Nat) : gatherXi (xiWords k 0#32) = 0 := by
  apply BitVec.eq_of_getLsbD_eq
  intro i hi
  rw [getLsbD_gatherXi_xiWords _ _ hi]
  simp

theorem Imm.bounds_of_fits {i : Imm} {w m : Nat} (h : i.fits w m = true) :
    i.k ≤ m ∧ i.raw.toNat < 2 ^ (w + 9 * i.k) := by
  simpa [Imm.fits] using h

section
variable {op : Nat × Nat} {p : Pfx} {aHi bHi : BitVec 2} {a5 : BitVec 5} {xt rlx : Option (BitVec 9)} {i : Imm} {m : Nat}

theorem mkChain_imm5 (h : i.fits 5 m = true) :
    (mkChain op p aHi bHi a5 (immLo i) xt rlx (xiWords i.k (i.raw >>> 5))).imm5 = i := by
  simp [Chain.imm5, immLo, gatherXi_shiftLeft_or (Imm.bounds_of_fits h).2]

theorem extract_append_immLo (i : Imm) : i.raw.extractLsb' 5 5 ++ immLo i = i.raw.setWidth 10 := by
  have h := BitVec.extractLsb'_append_extractLsb'_eq_extractLsb' (x := i.raw) (start₁ := 0) (len₁ := 5) (len₂ := 5) rfl
  simpa only [immLo, BitVec.setWidth_eq_extractLsb' (show 5 ≤ 32 by omega),
    BitVec.setWidth_eq_extractLsb' (show 10 ≤ 32 by omega)] using h

theorem mkChain_imm10 (h : i.fits 10 m = true) :
    (mkChain op p aHi bHi (i.raw.extractLsb' 5 5) (immLo i) xt rlx (xiWords i.k (i.raw >>> 10))).imm10 = i := by
  rw [Chain.imm10, mkChain_base10, extract_append_immLo]
  simp [gatherXi_shiftLeft_or (Imm.bounds_of_fits h).2]

theorem mkChain_immM {b5 : BitVec 5} (h : i.fits 0 m = true) :
    (mkChain op p aHi bHi a5 b5 xt rlx (xiWords i.k i.raw)).immM = i := by
  have hr := gatherXi_shiftLeft_or (Imm.bounds_of_fits h).2
  rw [BitVec.ushiftRight_zero, BitVec.shiftLeft_zero, BitVec.of_length_zero (x := i.raw.setWidth 0)] at hr
  rw [Chain.immM, mkChain_xi, length_xiWords]
  exact congrArg (Imm.mk i.k) ((BitVec.or_zero ..).symm.trans hr)

end

/-! ### Shapes -/

/-- A chain carries the operands `o` under the opcode `op`: the shape's parser gives them back, the opcode and its page
stand where the decoder looks for them, and the leading words are not too many (R22, R28, R31, R37). -/
structure Carried {σ : Type} (parse : Chain → Except Reject σ) (op : Nat × Nat) (ch : Chain) (o : σ) : Prop where
  parsed : parse ch = .ok o
  short : ch.prefixes ≤ 4
  page : ch.xp = if op.1 = 0 then none else some (BitVec.ofNat 4 op.1 ++ 0#5)
  opcode : ch.base.extractLsb' 10 6 = BitVec.ofNat 6 op.2

@[simp] theorem accept_true {α : Type} (x : α) : accept true true x = .ok x := rfl

section
variable {σ : Type} {parse : Chain → Except Reject σ} {o : σ} {op : Nat × Nat} {p : Pfx} {aHi bHi : BitVec 2}
  {a5 b5 : BitVec 5} {xt rlx : Option (BitVec 9)} {xi : List (BitVec 9)}

theorem carried_mkChain {paged : Bool} (hp : op.1 ≠ 0 → paged = true)
    (hn : atMostFour paged p xt.isSome rlx.isSome xi.length = true)
    (h : parse (mkChain op p aHi bHi a5 b5 xt rlx xi) = .ok o) :
    Carried parse op (mkChain op p aHi bHi a5 b5 xt rlx xi) o := by
  refine ⟨h, ?_, rfl, Laws.Encoding.mkChain_opcode ..⟩
  have hpage : (decide (op.1 ≠ 0)).toNat ≤ paged.toNat := by
    by_cases h0 : op.1 = 0
    · simp [h0]
    · rw [hp h0]
      exact Bool.toNat_le _
  simp only [atMostFour, decide_eq_true_eq] at hn
  rw [mkChain_prefixes]
  omega

/-- A chain without RLX and XI words is never too long. -/
theorem carried_few (h : parse (mkChain op p aHi bHi a5 b5 xt none []) = .ok o) :
    Carried parse op (mkChain op p aHi bHi a5 b5 xt none []) o := by
  refine carried_mkChain (paged := true) (fun _ => rfl) ?_ h
  have h1 := p.xg.toNat_le
  have h2 := xt.isSome.toNat_le
  simp only [atMostFour, decide_eq_true_eq, Bool.toNat_true, Option.isSome_none, Bool.toNat_false, List.length_nil]
  omega

end

section
variable {op : Nat × Nat} {paged : Bool}

/-! #### Integer, flag and control shapes (R46, R56, R59, R60) -/

theorem ShT.carried {o : ShT} (h : o.wf paged = true) : Carried parseT op (o.chain op) o := by
  obtain ⟨hc, -⟩ := Bool.and_eq_true_iff.mp h
  exact carried_few (by simp [parseT, Chain.allows, mkChain_pfx hc, mkChain_aReg hc, mkChain_bReg hc])

theorem ShU.carried {o : ShU} (h : o.wf paged = true) : Carried parseU op (o.chain op) o := by
  obtain ⟨hc, -⟩ := Bool.and_eq_true_iff.mp h
  exact carried_few (by simp [parseU, Chain.allows, mkChain_pfx hc, mkChain_aReg hc, mkChain_bReg hc])

/-- An XT word of MTF has bit 1 set (R57). -/
theorem ShU.carried_mtf {o : ShU} (h : o.wfMtf = true) : Carried parseMtf op (o.chain op) o := by
  simp only [ShU.wfMtf, ShU.wf, Bool.and_eq_true, bne_iff_ne, ne_eq] at h
  obtain ⟨⟨hc, -⟩, hs⟩ := h
  refine carried_few ?_
  obtain ⟨p, a, b, sb⟩ := o
  cases sb with
  | none => simp [parseMtf, Chain.allows, mkChain_pfx hc, mkChain_aReg hc, mkChain_bReg hc, syncB]
  | some x =>
    obtain rfl : x = true := by simpa using hs
    simp [parseMtf, Chain.allows, mkChain_pfx hc, mkChain_aReg hc, mkChain_bReg hc, syncB, sbPayload]

theorem ShI.carried {o : ShI} {m : Nat} (hp : op.1 ≠ 0 → paged = true) (h : o.wf paged m = true) :
    Carried (parseI m) op (o.chain op) o := by
  simp only [ShI.wf, Bool.and_eq_true] at h
  obtain ⟨⟨hc, hf⟩, hn⟩ := h
  refine carried_mkChain hp (by simpa using hn) ?_
  simp [parseI, Chain.allows, mkChain_pfx hc, mkChain_aReg hc, mkChain_imm5 hf, (Imm.bounds_of_fits hf).1]

theorem ShK.carried {o : ShK} (h : o.wf paged = true) : Carried parseK op (o.chain op) o := by
  obtain ⟨hc, -⟩ := Bool.and_eq_true_iff.mp h
  exact carried_few (by simp [parseK, Chain.allows, mkChain_pfx hc, mkChain_bReg hc])

theorem ShL.carried {o : ShL} (h : o.wf = true) : Carried parseL op (o.chain op) o := by
  refine carried_few ?_
  obtain ⟨p, fa, fb, fc⟩ := o
  cases fc with
  | none => simp [parseL, Chain.allows, mkChain_pfx h]
  | some f =>
    have hlt : f.toNat % 128 < 32 := by omega
    simp [parseL, Chain.allows, mkChain_pfx h, hlt]

theorem ShFF.carried {o : ShFF} (h : o.wf = true) : Carried parseFF op (o.chain op) o :=
  carried_few (by simp [parseFF, Chain.allows, mkChain_pfx h])

theorem ShJ.carried {o : ShJ} (hp : op.1 = 0) (h : o.wf = true) : Carried parseJ op (o.chain op) o := by
  simp only [ShJ.wf, Bool.and_eq_true] at h
  obtain ⟨⟨hc, hf⟩, hn⟩ := h
  refine carried_mkChain (paged := false) (absurd hp) (by simpa using hn) ?_
  simp [parseJ, Chain.allows, mkChain_pfx hc, mkChain_imm10 hf, (Imm.bounds_of_fits hf).1]

theorem ShFB.carried {o : ShFB} (hp : op.1 = 0) (h : o.wf = true) : Carried parseFB op (o.chain op) o := by
  simp only [ShFB.wf, Bool.and_eq_true] at h
  obtain ⟨⟨hc, hf⟩, hn⟩ := h
  refine carried_mkChain (paged := false) (absurd hp) (by simpa using hn) ?_
  simp [parseFB, Chain.allows, mkChain_pfx hc, mkChain_imm5 hf, (Imm.bounds_of_fits hf).1]

theorem ShA.carried {o : ShA} (h : o.wf = true) : Carried parseA op (o.chain op) o :=
  carried_few (by simp [parseA, Chain.allows, mkChain_pfx h, mkChain_aReg h])

/-- The mask register is even and not g0 (R220). -/
theorem ShB.carried_even {o : ShB} (h : o.wfEven = true) : Carried parseBEven op (o.chain op) o := by
  simp only [ShB.wfEven, ShB.wf, Bool.and_eq_true] at h
  obtain ⟨⟨hc, he⟩, h0⟩ := h
  exact carried_few (by simp [parseBEven, Chain.allows, mkChain_pfx hc, mkChain_bReg hc, beq_iff_eq.mp he,
      show (o.b != 0#7) = true from h0])

theorem ShBU.carried {o : ShBU} (h : o.wf = true) : Carried parseBU op (o.chain op) o :=
  carried_few (by simp [parseBU, Chain.allows, mkChain_pfx h, mkChain_bReg h])

theorem ShAB.carried {o : ShAB} (h : o.wf = true) : Carried parseAB op (o.chain op) o :=
  carried_few (by simp [parseAB, Chain.allows, mkChain_pfx h, mkChain_aReg h, mkChain_bReg h])

/-- The mask register is even and not g0 (R220). -/
theorem ShAB.carried_even {o : ShAB} (h : o.wfEven = true) : Carried parseABEven op (o.chain op) o := by
  simp only [ShAB.wfEven, ShAB.wf, Bool.and_eq_true] at h
  obtain ⟨⟨hc, he⟩, h0⟩ := h
  exact carried_few (by simp [parseABEven, Chain.allows, mkChain_pfx hc, mkChain_aReg hc, mkChain_bReg hc,
      beq_iff_eq.mp he, show (o.b != 0#7) = true from h0])

/-- SEND's payload group starts at a multiple of 8 (R187). -/
theorem ShAB.carried_send {o : ShAB} (h : o.wfSend = true) : Carried parseSend op (o.chain op) o := by
  simp only [ShAB.wfSend, ShAB.wf, Bool.and_eq_true] at h
  obtain ⟨hc, he⟩ := h
  exact carried_few (by simp [parseSend, Chain.allows, mkChain_pfx hc, mkChain_aReg hc, mkChain_bReg hc,
      beq_iff_eq.mp he])

theorem ShZ.carried {o : ShZ} (h : o.wf = true) : Carried parseZ op (o.chain op) o :=
  carried_few (by simp [parseZ, Chain.allows, mkChain_pfx h])

/-! #### Memory shapes (R72, R102, R181) -/

theorem ShM.carried {o : ShM} (hp : op.1 ≠ 0 → paged = true) (h : o.wf paged = true) :
    Carried parseM op (o.chain op) o := by
  simp only [ShM.wf, Bool.and_eq_true] at h
  obtain ⟨⟨hc, hf⟩, hn⟩ := h
  refine carried_mkChain hp (by simpa using hn) ?_
  simp [parseM, Chain.allows, mkChain_pfx hc, mkChain_aReg hc, mkChain_bReg hc, mkChain_immM hf,
    (Imm.bounds_of_fits hf).1]

/-- AMOCAS takes an even register and not g0 (R181). -/
theorem ShM.carried_cas {o : ShM} (h : o.wfCas = true) : Carried parseCas op (o.chain op) o := by
  simp only [ShM.wfCas, ShM.wf, Bool.and_eq_true] at h
  obtain ⟨⟨⟨⟨hc, hf⟩, hn⟩, he⟩, h0⟩ := h
  refine carried_mkChain (paged := true) (fun _ => rfl) (by simpa using hn) ?_
  simp [parseCas, Chain.allows, mkChain_pfx hc, mkChain_aReg hc, mkChain_bReg hc, mkChain_immM hf,
    (Imm.bounds_of_fits hf).1, beq_iff_eq.mp he, show (o.a != 0#7) = true from h0]

theorem ShMN.carried {o : ShMN} (h : o.wf = true) : Carried parseMN op (o.chain op) o := by
  simp only [ShMN.wf, Bool.and_eq_true] at h
  obtain ⟨⟨hc, hf⟩, hn⟩ := h
  refine carried_mkChain (paged := true) (fun _ => rfl) (by simpa using hn) ?_
  simp [parseMN, Chain.allows, mkChain_pfx hc, mkChain_aReg hc, mkChain_bReg hc, mkChain_immM hf,
    (Imm.bounds_of_fits hf).1]

theorem ShMZ.carried {o : ShMZ} (h : o.wf = true) : Carried parseMZ op (o.chain op) o := by
  simp only [ShMZ.wf, Bool.and_eq_true] at h
  obtain ⟨⟨hc, hf⟩, hn⟩ := h
  refine carried_mkChain (paged := true) (fun _ => rfl) (by simpa using hn) ?_
  simp [parseMZ, Chain.allows, mkChain_pfx hc, mkChain_bReg hc, mkChain_immM hf, (Imm.bounds_of_fits hf).1]

theorem ShMV.carried {o : ShMV} (hp : op.1 = 0) (h : o.wf = true) : Carried parseMV op (o.chain op) o := by
  simp only [ShMV.wf, Bool.and_eq_true] at h
  obtain ⟨⟨hc, hf⟩, hn⟩ := h
  refine carried_mkChain (paged := false) (absurd hp) (by simpa using hn) ?_
  simp [parseMV, Chain.allows, mkChain_pfx hc, mkChain_bReg hc, mkChain_immM hf, (Imm.bounds_of_fits hf).1]

theorem ShVG.carried {o : ShVG} (h : o.wf = true) : Carried parseVG op (o.chain op) o := by
  simp only [ShVG.wf, Bool.and_eq_true] at h
  obtain ⟨⟨hc, hf⟩, hn⟩ := h
  refine carried_mkChain (paged := true) (fun _ => rfl) (by simpa using hn) ?_
  simp [parseVG, Chain.allows, mkChain_pfx hc, mkChain_bReg hc, mkChain_immM hf, (Imm.bounds_of_fits hf).1]

/-! #### Vector shapes (R94) -/

theorem ShVV.carried {o : ShVV} (h : o.wf = true) : Carried parseVV op (o.chain op) o :=
  carried_few (by simp [parseVV, Chain.allows, mkChain_pfx h])

theorem ShVU.carried {o : ShVU} (h : o.wf = true) : Carried parseVU op (o.chain op) o :=
  carried_few (by simp [parseVU, Chain.allows, mkChain_pfx h])

theorem ShVS.carried {o : ShVS} (h : o.wf = true) : Carried parseVS op (o.chain op) o :=
  carried_few (by simp [parseVS, Chain.allows, mkChain_pfx h, mkChain_bReg h])

theorem ShSV.carried {o : ShSV} (h : o.wf = true) : Carried parseSV op (o.chain op) o :=
  carried_few (by simp [parseSV, Chain.allows, mkChain_pfx h, mkChain_aReg h])

theorem ShSVV.carried {o : ShSVV} (h : o.wf = true) : Carried parseSVV op (o.chain op) o := by
  simp only [ShSVV.wf, Bool.and_eq_true] at h
  obtain ⟨hc, hv⟩ := h
  exact carried_few (by simp [parseSVV, Chain.allows, mkChain_pfx hc, mkChain_aReg hc, hv])

theorem ShSVS.carried {o : ShSVS} (h : o.wf = true) : Carried parseSVS op (o.chain op) o :=
  carried_few (by simp [parseSVS, Chain.allows, mkChain_pfx h, mkChain_aReg h])

theorem ShVSS.carried {o : ShVSS} (h : o.wf = true) : Carried parseVSS op (o.chain op) o :=
  carried_few (by simp [parseVSS, Chain.allows, mkChain_pfx h, mkChain_bReg h])

theorem ShVVS.carried {o : ShVVS} (h : o.wf = true) : Carried parseVVS op (o.chain op) o :=
  carried_few (by simp [parseVVS, Chain.allows, mkChain_pfx h])

theorem ShAmV.carried {o : ShAmV} (h : o.wf = true) : Carried parseAmV op (o.chain op) o :=
  carried_few (by simp [parseAmV, Chain.allows, mkChain_pfx h])

/-! #### The other shapes (R39, R119, R153, R188, R190, R241, R273, R313) -/

theorem ShSc.carried {o : ShSc} (h : o.wf = true) : Carried parseSc op (o.chain op) o := by
  simp only [ShSc.wf, Bool.and_eq_true] at h
  obtain ⟨hc, hv⟩ := h
  have hm : o.scope.toNat % 32 = o.scope.toNat := Nat.mod_eq_of_lt (by omega)
  exact carried_few (by simp [parseSc, Chain.allows, mkChain_pfx hc, hm, of_decide_eq_true hv])

theorem ShBind.carried {o : ShBind} (h : o.wf = true) : Carried parseBind op (o.chain op) o := by
  simp only [ShBind.wf, Bool.and_eq_true] at h
  obtain ⟨hc, h0⟩ := h
  exact carried_few (by simp [parseBind, Chain.allows, mkChain_pfx hc, mkChain_bReg hc,
      show (o.b != 0#7) = true from h0])

theorem ShQ.carried {o : ShQ} (h : o.wf = true) : Carried parseQ op (o.chain op) o := by
  simp only [ShQ.wf, Bool.and_eq_true] at h
  obtain ⟨⟨hc, hk⟩, hn⟩ := h
  refine carried_mkChain (paged := true) (fun _ => rfl) (by simpa using hn) ?_
  simp [parseQ, Chain.allows, mkChain_pfx hc, of_decide_eq_true hk]

theorem ShSp.carried {o : ShSp} (h : o.wf = true) : Carried parseSp op (o.chain op) o := by
  simp only [ShSp.wf, Bool.and_eq_true, Bool.or_eq_true, beq_iff_eq] at h
  obtain ⟨⟨hc, hb⟩, hv⟩ := h
  refine carried_few ?_
  rw [parseSp, mkChain_pfx hc, mkChain_aReg hc List.mem_cons_self, mkChain_bHi hb, mkChain_b5]
  exact if_pos hv

theorem ShMan.carried {o : ShMan} (h : o.wf = true) : Carried parseMan op (o.chain op) o := by
  refine carried_few ?_
  obtain ⟨p, a, md⟩ := o
  cases md <;> simp [parseMan, Chain.allows, mkChain_pfx h, mkChain_aReg h]

/-- MFM and MTM take a multiple of 8 and not g0 (R153). -/
theorem ShMan.carried8 {o : ShMan} (h : o.wf8 = true) : Carried parseMan8 op (o.chain op) o := by
  simp only [ShMan.wf8, ShMan.wf, Bool.and_eq_true] at h
  obtain ⟨⟨hc, he⟩, h0⟩ := h
  refine carried_few ?_
  obtain ⟨p, a, md⟩ := o
  cases md <;> simp [parseMan8, Chain.allows, mkChain_pfx hc, mkChain_aReg hc, beq_iff_eq.mp he,
    show (a != 0#7) = true from h0]

theorem ShFB4.carried {o : ShFB4} (h : o.wf = true) : Carried parseFB4 op (o.chain op) o :=
  carried_few (by simp [parseFB4, Chain.allows, mkChain_pfx h, mkChain_bReg h])

theorem ShF4.carried {o : ShF4} (h : o.wf = true) : Carried parseF4 op (o.chain op) o :=
  carried_few (by simp [parseF4, Chain.allows, mkChain_pfx h, mkChain_bReg h])

/-- Field A of MMA: its two low bits are the tile, and the transposes stand above them (R241). -/
theorem mmaField (ta tb : Bool) (t : Four) :
    (0#1 ++ BitVec.ofBool tb ++ BitVec.ofBool ta ++ t).toNat < 16 ∧
      fourOf (0#1 ++ BitVec.ofBool tb ++ BitVec.ofBool ta ++ t) = t ∧
      (0#1 ++ BitVec.ofBool tb ++ BitVec.ofBool ta ++ t)[2] = ta ∧
      (0#1 ++ BitVec.ofBool tb ++ BitVec.ofBool ta ++ t)[3] = tb := by
  revert ta tb t
  decide

theorem ShMma.carried {o : ShMma} (h : o.wf = true) : Carried parseMma op (o.chain op) o :=
  carried_few (by simp [parseMma, Chain.allows, mkChain_pfx h, mkChain_bReg h, mmaField])

/-- Field A of CVTST: its two low bits are the tile, and the transpose stands above them (R241). -/
theorem cvtField (tr : Bool) (t : Four) :
    (0#2 ++ BitVec.ofBool tr ++ t).toNat < 8 ∧ fourOf (0#2 ++ BitVec.ofBool tr ++ t) = t ∧
      (0#2 ++ BitVec.ofBool tr ++ t)[2] = tr := by
  revert tr t
  decide

theorem ShCvt.carried {o : ShCvt} (h : o.wf = true) : Carried parseCvt op (o.chain op) o :=
  carried_few (by simp [parseCvt, Chain.allows, mkChain_pfx h, mkChain_bReg h, cvtField])

theorem ShT4.carried {o : ShT4} (h : o.wf = true) : Carried parseT4 op (o.chain op) o :=
  carried_few (by simp [parseT4, Chain.allows, mkChain_pfx h])

theorem ShArd.carried {o : ShArd} (h : o.wf = true) : Carried parseArd op (o.chain op) o :=
  carried_few (by simp [parseArd, Chain.allows, mkChain_pfx h, mkChain_aReg h])

theorem ShA4.carried {o : ShA4} (h : o.wf = true) : Carried parseA4 op (o.chain op) o :=
  carried_few (by simp [parseA4, Chain.allows, mkChain_pfx h, mkChain_aReg h])

theorem ShR3.carried {o : ShR3} (h : o.wf = true) : Carried parseR3 op (o.chain op) o :=
  carried_few (by simp [parseR3, Chain.allows, mkChain_pfx h, mkChain_aReg h, mkChain_bReg h])

theorem ShSw.carried {o : ShSw} (h : o.wf = true) : Carried parseSw op (o.chain op) o := by
  simp only [ShSw.wf, Bool.and_eq_true] at h
  obtain ⟨hc, h0⟩ := h
  exact carried_few (by simp [parseSw, Chain.allows, mkChain_pfx hc, mkChain_aReg hc, mkChain_bReg hc,
      show (o.c != 0#7) = true from h0])

theorem ShImm.carried {o : ShImm} (h : o.wf = true) : Carried parseImm op (o.chain op) o := by
  simp only [ShImm.wf, Bool.and_eq_true] at h
  obtain ⟨⟨hc, hf⟩, hn⟩ := h
  refine carried_mkChain (paged := true) (fun _ => rfl) (by simpa using hn) ?_
  simp [parseImm, Chain.allows, mkChain_pfx hc, mkChain_imm5 hf, (Imm.bounds_of_fits hf).1]

theorem ShSeg.carried {o : ShSeg} (h : o.wf = true) : Carried parseSeg op (o.chain op) o := by
  simp only [ShSeg.wf, Bool.and_eq_true] at h
  obtain ⟨⟨hc, he⟩, h0⟩ := h
  exact carried_few (by simp [parseSeg, Chain.allows, mkChain_pfx hc, mkChain_bReg hc, beq_iff_eq.mp he,
      show (o.b != 0#7) = true from h0])

end

/-! ### The opcode map (R37, R38) -/

/-- The decoder of a page. -/
def decodePage : Nat → Nat → Chain → Except Reject Instr
  | 0 => decodePage0
  | 1 => decodePage1
  | 2 => decodePage2
  | 3 => decodePage3
  | 4 => decodePage4
  | 5 => decodePage5
  | 6 => decodePage6
  | 7 => decodePage7
  | 8 => decodePage8
  | 9 => decodePage9
  | _ => fun _ _ => .error .badPage

/-- An opcode of the table: pages 0 to 9, and below the values that would make a base word a leading word (R25, R37). -/
def OpcodeOk (op : Nat × Nat) : Prop := op.1 ≤ 9 ∧ op.2 < 60

section
variable {ch : Chain} {op : Nat × Nat}

theorem page_of_xp (h9 : op.1 ≤ 9) (h : ch.xp = if op.1 = 0 then none else some (BitVec.ofNat 4 op.1 ++ 0#5)) :
    ch.page = .ok op.1 := by
  by_cases h0 : op.1 = 0
  · simp [Chain.page, h, h0]
  · have hlo : (BitVec.ofNat 4 op.1 ++ 0#5).extractLsb' 0 5 = 0 := BitVec.extractLsb'_append_eq_right
    have hhi : (BitVec.ofNat 4 op.1 ++ 0#5).extractLsb' 5 4 = BitVec.ofNat 4 op.1 := BitVec.extractLsb'_append_eq_left
    have hn : op.1 % 16 = op.1 := Nat.mod_eq_of_lt (by omega)
    have h1 : 1 ≤ op.1 := by omega
    simp [Chain.page, h, h0, hlo, hhi, hn, h1, h9]

theorem toNat_opcode (h60 : op.2 < 60) (h : ch.base.extractLsb' 10 6 = BitVec.ofNat 6 op.2) :
    (ch.base.extractLsb' 10 6).toNat = op.2 := by
  rw [h, BitVec.toNat_ofNat]
  omega

/-- The top bits of an opcode below 60 are not all set, so its word is no leading word (R25). -/
theorem isPrefixWord_base (h60 : op.2 < 60) (h : ch.base.extractLsb' 10 6 = BitVec.ofNat 6 op.2) :
    isPrefixWord ch.base = false := by
  have hv := toNat_opcode h60 h
  have hlt := ch.base.isLt
  rw [BitVec.extractLsb'_toNat, Nat.shiftRight_eq_div_pow] at hv
  refine beq_eq_false_iff_ne.mpr fun he => ?_
  have ht := congrArg BitVec.toNat he
  rw [BitVec.extractLsb'_toNat, Nat.shiftRight_eq_div_pow, BitVec.toNat_ofNat] at ht
  omega

theorem decodeChain_eq (hop : OpcodeOk op) (hp : ch.page = .ok op.1) (hv : (ch.base.extractLsb' 10 6).toNat = op.2) :
    decodeChain ch = decodePage op.1 op.2 ch := by
  obtain ⟨page, v⟩ := op
  obtain ⟨h9, -⟩ := hop
  simp only [decodeChain, hp, hv]
  interval_cases page <;> rfl

/-- A chain that carries the operands of the instruction at its opcode decodes to that instruction. -/
theorem Carried.decodes {σ : Type} {parse : Chain → Except Reject σ} {o : σ} {mk : σ → Instr}
    (h : Carried parse op ch o) (hop : OpcodeOk op) (hm : decodePage op.1 op.2 ch = (parse ch).map mk) :
    decode ch.words = .ok (mk o, ch.words.length) := by
  obtain ⟨hparse, hshort, hpage, hopc⟩ := h
  obtain ⟨h9, h60⟩ := hop
  have hd : decodeChain ch = .ok (mk o) := by
    rw [decodeChain_eq ⟨h9, h60⟩ (page_of_xp h9 hpage) (toNat_opcode h60 hopc), hm, hparse]
    rfl
  simp only [decode, readChain_words hshort (isPrefixWord_base h60 hopc), hd]

end

/-- Every instruction of the table is decoded from its words: its shape's operands are carried under its opcode. -/
theorem decode_encode (i : Instr) (hwf : i.wf = true) (hop : i.opcode.isSome = true) :
    decode (encode i) = .ok (i, (encode i).length) := by
  cases i with
  | add o | sub o | and o | or o | xor o | andn o | shl o | shr o | sra o | mul o | div o | divu o | rem o | remu o
  | mulh o | mulhu o | min o | max o | minu o | maxu o | rot o | sel o | launch o =>
    exact (ShT.carried hwf).decodes ⟨by decide, by decide⟩ rfl
  | mov o | jalr o | clz o | ctz o | popc o | brev o | spawn o | reap o | cvy o | split o | mpop o | cpy o | cpy2 o
  | gth o | sct o | coll o | wearrd o | ctxsv o | ctxld o | resume o | park o =>
    exact (ShU.carried hwf).decodes ⟨by decide, by decide⟩ rfl
  | addi o | movi o | andi o | shli o | shri o | srai o | ceqi o | clti o | sext o | zext o | loop o | join o
  | spliti o =>
    exact (ShI.carried (by decide) hwf).decodes ⟨by decide, by decide⟩ rfl
  | ceq o | cne o | clt o | cltu o | cle o | cleu o =>
    exact (ShK.carried hwf).decodes ⟨by decide, by decide⟩ rfl
  | ldb o | ldbs o | ldh o | ldhs o | ldw o | stb o | sth o | stw o | lde o | ldt o | stf o | ste o | amoadd o
  | amomin o | amomax o | amoand o | amoor o | amoxor o | amoswp o | qld o | qst o | qadd o =>
    exact (ShM.carried (by decide) hwf).decodes ⟨by decide, by decide⟩ rfl
  | ldv o | stv o =>
    exact (ShMV.carried rfl hwf).decodes ⟨by decide, by decide⟩ rfl
  | br o | call o =>
    exact (ShJ.carried rfl hwf).decodes ⟨by decide, by decide⟩ rfl
  | bf o | bnf o =>
    exact (ShFB.carried rfl hwf).decodes ⟨by decide, by decide⟩ rfl
  | jr o =>
    exact (ShBU.carried hwf).decodes ⟨by decide, by decide⟩ rfl
  | fAnd o | fOr o | fXor o =>
    exact (ShL.carried hwf).decodes ⟨by decide, by decide⟩ rfl
  | fNot o =>
    exact (ShFF.carried hwf).decodes ⟨by decide, by decide⟩ rfl
  | mff o | exit o | chblk o | chunb o | cexit o =>
    exact (ShA.carried hwf).decodes ⟨by decide, by decide⟩ rfl
  | mtf o =>
    exact (ShU.carried_mtf hwf).decodes ⟨by decide, by decide⟩ rfl
  | vadd o | vsub o | vmul o | vmin o | vmax o | vand o | vor o | vxor o | vshl o | vshr o | vsra o | vsel o | vperm o
  | vfadd o | vfsub o | vfmul o | vfma o | vfmin o | vfmax o =>
    exact (ShVV.carried hwf).decodes ⟨by decide, by decide⟩ rfl
  | vceq o | vclt o | vfclt o | vfceq o =>
    exact (ShSVV.carried hwf).decodes ⟨by decide, by decide⟩ rfl
  | vbcast o =>
    exact (ShVS.carried hwf).decodes ⟨by decide, by decide⟩ rfl
  | vext o =>
    exact (ShSVS.carried hwf).decodes ⟨by decide, by decide⟩ rfl
  | vins o =>
    exact (ShVSS.carried hwf).decodes ⟨by decide, by decide⟩ rfl
  | vscan o | vfabs o | vfscan o | vrcp o | vrsq o =>
    exact (ShVU.carried hwf).decodes ⟨by decide, by decide⟩ rfl
  | vredadd o | vredmin o | vredmax o | vfred o =>
    exact (ShSV.carried hwf).decodes ⟨by decide, by decide⟩ rfl
  | vgath o | vscat o =>
    exact (ShVG.carried hwf).decodes ⟨by decide, by decide⟩ rfl
  | vcvtif o | vcvtfi o | vcvt o =>
    exact (ShVVS.carried hwf).decodes ⟨by decide, by decide⟩ rfl
  | vamax o =>
    exact (ShAmV.carried hwf).decodes ⟨by decide, by decide⟩ rfl
  | tagrd o | rsv o | rls o =>
    exact (ShMN.carried hwf).decodes ⟨by decide, by decide⟩ rfl
  | watch o | unwatch o =>
    exact (ShMZ.carried hwf).decodes ⟨by decide, by decide⟩ rfl
  | wait o | trigger o | eret o =>
    exact (ShZ.carried hwf).decodes ⟨by decide, by decide⟩ rfl
  | amocas o =>
    exact (ShM.carried_cas hwf).decodes ⟨by decide, by decide⟩ rfl
  | fence o | bar o =>
    exact (ShSc.carried hwf).decodes ⟨by decide, by decide⟩ rfl
  | send o =>
    exact (ShAB.carried_send hwf).decodes ⟨by decide, by decide⟩ rfl
  | chset o | tlbinv o =>
    exact (ShAB.carried hwf).decodes ⟨by decide, by decide⟩ rfl
  | bind o =>
    exact (ShBind.carried hwf).decodes ⟨by decide, by decide⟩ rfl
  | unbind o =>
    exact (ShQ.carried hwf).decodes ⟨by decide, by decide⟩ rfl
  | mfs o | mts o | mfsp o | mtsp o =>
    exact (ShSp.carried hwf).decodes ⟨by decide, by decide⟩ rfl
  | mcnt o =>
    exact (ShMan.carried hwf).decodes ⟨by decide, by decide⟩ rfl
  | mfm o | mtm o =>
    exact (ShMan.carried8 hwf).decodes ⟨by decide, by decide⟩ rfl
  | waitany o | tagff o =>
    exact (ShAB.carried_even hwf).decodes ⟨by decide, by decide⟩ rfl
  | waitall o | tagclr o =>
    exact (ShB.carried_even hwf).decodes ⟨by decide, by decide⟩ rfl
  | prec o | dupset o =>
    exact (ShFB4.carried hwf).decodes ⟨by decide, by decide⟩ rfl
  | wld o | accwr o =>
    exact (ShF4.carried hwf).decodes ⟨by decide, by decide⟩ rfl
  | mma o =>
    exact (ShMma.carried hwf).decodes ⟨by decide, by decide⟩ rfl
  | accz o | amaxclr o =>
    exact (ShT4.carried hwf).decodes ⟨by decide, by decide⟩ rfl
  | accrd o =>
    exact (ShArd.carried hwf).decodes ⟨by decide, by decide⟩ rfl
  | cvtst o =>
    exact (ShCvt.carried hwf).decodes ⟨by decide, by decide⟩ rfl
  | amaxrd o =>
    exact (ShA4.carried hwf).decodes ⟨by decide, by decide⟩ rfl
  | osplit o | reloc o =>
    exact (ShR3.carried hwf).decodes ⟨by decide, by decide⟩ rfl
  | trap o | sys o | brk o =>
    exact (ShImm.carried hwf).decodes ⟨by decide, by decide⟩ rfl
  | segset o =>
    exact (ShSeg.carried hwf).decodes ⟨by decide, by decide⟩ rfl
  | sweep o =>
    exact (ShSw.carried hwf).decodes ⟨by decide, by decide⟩ rfl
  | _ => cases hop

/-- Settles O2: the reader gives the encoder's chain back, and each shape's parser its operands. -/
theorem decodeOfEncode : Obligations.DecodeOfEncode := decode_encode

/-- Settles O1: the decoder evaluated at each of the manual's words. -/
theorem workedEncodingsDecode : Obligations.WorkedEncodingsDecode :=
  ⟨rfl, rfl, rfl, rfl, rfl, rfl, rfl, rfl, rfl, rfl, rfl, rfl, rfl, rfl⟩

end Sys2Proof

/-! SUPPORT. O14: what keeps an instruction of a thread that stands alone from its effect, one lemma per check of R33. -/

namespace Sys2Proof.Machine

/-- The trap of an issue, for a thread that stands alone. -/
theorem issueTrap_alone {s : State} {t : Thread} (ht : threadAt s s.turn (curSlot s) = some t) (ha : t.role = .alone)
    (x : TrapInfo) :
    issueTrap s s.turn (curSlot s) t x = takeTrap (chargeIssue s s.turn (curSlot s)) s.turn (curSlot s)
      (chargeThread t (getCore s s.turn).vt) x := by
  have hc : threadAt (chargeIssue s s.turn (curSlot s)) s.turn (curSlot s) =
      some (chargeThread t (getCore s s.turn).vt) := by
    rw [chargeIssue_alone s _ _ t ht ha, threadAt_setThread_same _ _ _ _ (curSlot_lt s)]
  simp only [issueTrap, ha, hc, Option.getD_some]

section
variable {u : Use} {op : Ctx → Thread → State → Res} {s : State} {t : Thread}
  (ht : threadAt s s.turn (curSlot s) = some t) (ha : t.role = .alone) (hl : t.late = none)

/-- The guard's test, as an issue makes it. -/
theorem guardPasses (hg : u.guard = 0 ∨ getFlag t u.guard.toNat = true) :
    (u.guard.toNat != 0 && !getFlag t u.guard.toNat) = false := by
  rcases hg with h | h <;> simp [h]

/-- The test for PRIV, as an issue makes it. -/
theorem privPasses (hp : u.priv = false ∨ curSlot s = 0) : (u.priv && curSlot s != 0) = false := by
  rcases hp with h | h <;> simp [h]

include ht ha hl

/-- A guard flag of 0 ends the instruction with its charge and the move of the PC past it. -/
theorem issue_guarded (hg : u.guard ≠ 0) (hf : getFlag t u.guard.toNat = false) :
    issue u op s = .next (setThread (chargedState s s.turn) s.turn (curSlot s)
      (goesTo (chargeThread t (getCore s s.turn).vt) (pcAfter t u.words))) := by
  have hn : (u.guard.toNat != 0) = true := by
    simpa using fun h => hg (BitVec.eq_of_toNat_eq (by simpa using h))
  rw [← advance_setThread _ _ _ _ _ (curSlot_lt s), ← chargeIssue_alone s _ _ t ht ha]
  simp only [issue, ht, pairReady, ha, hl, hn, hf, pairStep, pcAfter]
  simp

/-- Past its guard, a privileged instruction outside slot 0 traps PRIV. -/
theorem issue_priv (hg : u.guard = 0 ∨ getFlag t u.guard.toNat = true) (hp : u.priv = true) (hi : curSlot s ≠ 0) :
    issue u op s = .next (issueTrap s s.turn (curSlot s) t ⟨.priv, 0, 0, t.pc, false, 0⟩) := by
  simp only [issue, ht, pairReady, ha, hl, guardPasses hg, hp]
  simp [hi]

/-- Past guard and privilege, a register beyond the thread's count traps REGLIM. -/
theorem issue_reglim (hg : u.guard = 0 ∨ getFlag t u.guard.toNat = true) (hp : u.priv = false ∨ curSlot s = 0)
    {n : Nat} (hn : n ∈ u.names) (hlim : t.lim ≤ n) :
    issue u op s = .next (issueTrap s s.turn (curSlot s) t ⟨.reglim, 0, 0, t.pc, false, 0⟩) := by
  have hany : (u.names.any fun n => decide (t.lim ≤ n)) = true := List.any_eq_true.mpr ⟨n, hn, by simpa using hlim⟩
  simp only [issue, ht, pairReady, ha, hl, guardPasses hg, privPasses hp, hany]
  simp

/-- Past guard, privilege and count, an empty source makes the instruction wait: for the engine, where that holds a
register's words, else for the register. -/
theorem issue_notFull (hg : u.guard = 0 ∨ getFlag t u.guard.toNat = true) (hp : u.priv = false ∨ curSlot s = 0)
    (hlim : ∀ n ∈ u.names, n < t.lim) (hs : streamTrap t (u.sync ++ u.writes t) = none)
    {n : Nat} (hn : n ∈ u.srcs) (hf : isFull t n = false) :
    issue u op s = .next (setThread s s.turn (curSlot s)
      (if streamBusy (getCore s s.turn) (curSlot s) t (u.srcs ++ u.writes t) then { t with status := .waitMem }
        else { t with status := .waitMem, waitFrom := none })) := by
  have hany : (u.names.any fun n => decide (t.lim ≤ n)) = false := by simpa using hlim
  have hall : (u.srcs.all fun n => isFull t n) = false := List.all_eq_false.mpr ⟨n, hn, by simp [hf]⟩
  simp only [issue, ht, pairReady, ha, hl, guardPasses hg, privPasses hp, hany, hs, hall, notReady, regWait,
    modThread_some _ _ _ _ t ht]
  cases streamBusy (getCore s s.turn) (curSlot s) t (u.srcs ++ u.writes t) <;> simp

end

/-- The four families whose issue O14 follows, each with its use. -/
def orderForms (oT : ShT) (oM : ShM) (oU : ShU) (oS : ShSp) : List (Instr × Use) :=
  [(.add oT, oT.use false), (.ldw oM, oM.useLoad false), (.spawn oU, (oU.use true).slot0),
    (.mtsp oS, (oS.use [oS.a.toNat] []).slot0)]

/-- Each of the four is an issue of its use, and writes its destinations whole. -/
theorem exec_orderForms {oT : ShT} {oM : ShM} {oU : ShU} {oS : ShSp} {q : Instr × Use}
    (hq : q ∈ orderForms oT oM oU oS) : (∃ op, ∀ s, exec q.1 s = issue q.2 op s) ∧ ∀ t, q.2.writes t = q.2.dsts := by
  simp only [orderForms, List.mem_cons, List.not_mem_nil, or_false] at hq
  rcases hq with rfl | rfl | rfl | rfl
  · exact ⟨⟨_, fun _ => rfl⟩, fun _ => rfl⟩
  · exact ⟨⟨_, fun s => exec_loadForms (o := oM) (m := (.ldw oM, 4, false)) (by simp [loadForms]) s⟩, fun _ => rfl⟩
  · exact ⟨⟨_, exec_spawn oU⟩, fun _ => rfl⟩
  · exact ⟨⟨_, fun _ => rfl⟩, fun _ => rfl⟩

/-- Settles O14, check by check in the order of R33. -/
theorem issueOrder : Obligations.IssueOrder := by
  intro s t oT oM oU oS ht ha hl q hq
  obtain ⟨⟨op, he⟩, hw⟩ := exec_orderForms hq
  refine ⟨fun hg hf => ?_, fun hg => ⟨fun hp hi => ?_, fun hp => ⟨fun n hn hlim => ?_, fun hlim hs n hn hf => ?_⟩⟩⟩
  · exact ⟨_, (he s).trans (issue_guarded ht ha hl hg hf), onlyThread_charged s _⟩
  · rw [Traps, he, issue_priv ht ha hl hg hp hi, issueTrap_alone ht ha]
  · rw [Traps, he, issue_reglim ht ha hl hg hp hn hlim, issueTrap_alone ht ha]
  · rw [he, issue_notFull ht ha hl hg hp hlim (by rwa [hw]) hn hf]

end Sys2Proof.Machine

/-! SUPPORT. What an instruction completes with whose operation changes the package beside its thread, and an operation
that changes its core beside the slots. -/

namespace Sys2Proof.Machine

/-! ### A core changed beside its slots -/

/-- The change of a core leaves its slots, its place in the cycle and its charge alone, and does not look at the slots. -/
structure LeavesSlots (f : Core → Core) : Prop where
  slots : ∀ (k : Core) (x : Vector Slot 16), f { k with slots := x } = { f k with slots := x }
  cycle : ∀ k, (f k).cycle = k.cycle
  vt : ∀ k, (f k).vt = k.vt

section
variable {f : Core → Core} (hf : LeavesSlots f)
include hf

theorem LeavesSlots.slots_eq (k : Core) : (f k).slots = k.slots := by rw [← congrArg Core.slots (hf.slots k k.slots)]

theorem LeavesSlots.setSlot (k : Core) (i : Nat) (x : Slot) : f (k.setSlot i x) = (f k).setSlot i x := by
  rw [Core.setSlot, hf.slots, Core.setSlot, hf.slots_eq]

/-- The change of a core and the write of a thread on it are one, in either order. -/
theorem modCore_setThread (s : State) (c i : Nat) (t : Thread) :
    modCore (setThread s c i t) c f = setThread (modCore s c f) c i t := by
  simp only [modCore, setThread_eq_setCore, getCore_setCore_same, setCore_setCore, hf.setSlot, Core.slotAt, hf.slots_eq]

theorem curSlot_modCore (s : State) : curSlot (modCore s s.turn f) = curSlot s := by
  have hk : getCore (modCore s s.turn f) (modCore s s.turn f).turn = f (getCore s s.turn) := getCore_setCore_same s s.turn _
  rw [curSlot, hk, Core.turnSlot, hf.cycle]
  rfl

theorem chargedState_modCore (s : State) :
    chargedState (modCore s s.turn f) s.turn = modCore (chargedState s s.turn) s.turn f := by
  have hk : getCore (modCore s s.turn f) s.turn = f (getCore s s.turn) := getCore_setCore_same s s.turn _
  rw [chargedState, hk, hf.vt]
  rfl

/-- What the change makes of the state that an operation meets. -/
theorem modCore_issuedState (u : Use) (s : State) (t : Thread) :
    modCore (issuedState u s t) s.turn f =
      setThread (chargedState (modCore s s.turn f) s.turn) s.turn (curSlot s) (issuedThread u s t) := by
  rw [issuedState, modCore_setThread hf, chargedState_modCore hf]

end

/-- A rewrite of a core that leaves it as it is, after a thread has been written on it. -/
theorem modCore_setThread_self {s : State} {c i : Nat} {t : Thread} {f : Core → Core}
    (hf : f (getCore (setThread s c i t) c) = getCore (setThread s c i t) c) :
    modCore (setThread s c i t) c f = setThread s c i t := by
  rw [modCore, hf, getCore_setThread_same, setThread_eq_setCore, setCore_setCore]

/-- A core that an operation rewrites as it meets it stays as it is. -/
theorem modCore_self_issuedState (u : Use) (s : State) (t : Thread) :
    modCore (issuedState u s t) s.turn (fun k => k) = issuedState u s t := modCore_setThread_self rfl

/-! ### What an instruction completes with -/

section
variable {i : Instr} {u : Use} {op : Ctx → Thread → State → Res} {s : State} {t v : Thread}

/-- An operation that ends in the charged state of `s0` with its thread written: `s0` is what else it did. -/
theorem completes_onto {s0 : State} (hturn : s0.turn = s.turn) (hcur : curSlot s0 = curSlot s)
    (he : exec i s = issue u op s) (h : Issues u s t)
    (hop : op (issueCtx u s t) (issuedThread u s t) (issuedState u s t) =
      .ok (setThread (chargedState s0 s.turn) s.turn (curSlot s) v)) :
    CompletesFrom i s s0 (goesTo v (pcAfter t u.words)) := by
  refine ⟨_, exec_issues i u op s t he h, ?_⟩
  have hlast := onlyThread_charged s0 (goesTo v (pcAfter t u.words))
  rw [hturn, hcur] at hlast
  rw [← issuedState, hop]
  simp only [settle, h.alone, pairStep, issueCtx]
  rwa [advance_setThread _ _ _ _ _ (curSlot_lt s)]

/-- An operation that changes its core beside the slots, and then its thread. -/
theorem completes_modCore {f : Core → Core} (hf : LeavesSlots f) (he : exec i s = issue u op s) (h : Issues u s t)
    (hop : op (issueCtx u s t) (issuedThread u s t) (issuedState u s t) =
      .ok (setThread (modCore (issuedState u s t) s.turn f) s.turn (curSlot s) v)) :
    CompletesFrom i s (modCore s s.turn f) (goesTo v (pcAfter t u.words)) := by
  refine completes_onto rfl (curSlot_modCore hf s) he h ?_
  rw [hop, modCore_issuedState hf, setThread_setThread _ _ _ _ _ (curSlot_lt s)]

/-- An operation that changes its core beside the slots, and its thread not at all. -/
theorem completes_modCore_only {f : Core → Core} (hf : LeavesSlots f) (he : exec i s = issue u op s) (h : Issues u s t)
    (hop : op (issueCtx u s t) (issuedThread u s t) (issuedState u s t) = .ok (modCore (issuedState u s t) s.turn f)) :
    CompletesFrom i s (modCore s s.turn f) (goesTo (issuedThread u s t) (pcAfter t u.words)) :=
  completes_onto rfl (curSlot_modCore hf s) he h (by rw [hop, modCore_issuedState hf])

/-- An operation that ends by writing its thread, whatever it read of the state. -/
theorem completes_written (he : exec i s = issue u op s) (h : Issues u s t)
    (hop : op (issueCtx u s t) (issuedThread u s t) (issuedState u s t) =
      .ok (setThread (issuedState u s t) s.turn (curSlot s) v)) :
    Completes i s (goesTo v (pcAfter t u.words)) := by
  refine completes_onto (s0 := s) rfl rfl he h ?_
  rw [hop, issuedState, setThread_setThread _ _ _ _ _ (curSlot_lt s)]

end

/-- The core that an operation meets is the old one but for its thread. -/
theorem getCore_issuedState (u : Use) (s : State) (t : Thread) :
    getCore (issuedState u s t) s.turn = (getCore s s.turn).setSlot (curSlot s)
      ⟨.thread (issuedThread u s t), ((getCore s s.turn).slotAt (curSlot s)).notice⟩ :=
  getCore_setThread_same (chargedState s s.turn) s.turn (curSlot s) (issuedThread u s t)

end Sys2Proof.Machine

/-! SUPPORT. O43, O44: the special registers. -/

namespace Sys2Proof.Machine

/-! ### Reads -/

/-- A read of bank 00 by a thread that stands alone writes its register, and with TIMELO the time latch. -/
theorem readBank_own {o : ShSp} {x : Ctx} {t : Thread} {s : State} (hb : o.bank = 0) (ha : t.role = .alone)
    (hat : threadAt s x.core x.slot = some t) :
    readBank o x t s = .ok (setThread s x.core x.slot
      (wrReg (latchTime t o.num.toNat (s.time.extractLsb' 32 32)) o.a.toNat
        (specialValue s x.core x.slot t o.num.toNat))) := by
  have hb1 : ¬ o.bank = 1 := by rw [hb]; decide
  simp only [readBank, hb1, if_false]
  split
  · simp only [takeOutside, ha, specialWords, modThread_some _ _ _ _ t hat]
    by_cases h14 : o.num.toNat = 14 <;> simp [latchTime, h14]
  next hout =>
    have h14 : ¬ o.num.toNat = 14 := fun h => hout (by rw [h]; decide)
    simp only [latchTime, h14, if_false, done]

/-- The value of a special register does not see the issue of its read, but for the thread's charge. -/
theorem specialValue_issuedState (u : Use) (s : State) (t v : Thread) (n : Nat) :
    specialValue (issuedState u s t) s.turn (curSlot s) v n = specialValue s s.turn (curSlot s) v n := by
  have hcc : (issuedState u s t).cc = s.cc := rfl
  have htime : (issuedState u s t).time = s.time := rfl
  simp only [specialValue, getCore_issuedState, Core_setSlot_tags, hcc, htime]

/-- A read of bank 00, as it completes. -/
theorem readBank_completes {i : Instr} {u : Use} {s : State} {t : Thread} {o : ShSp} (hb : o.bank = 0)
    (he : exec i s = issue u (readBank o) s) (h : Issues u s t) :
    Effect i u s t
      (fun v => wrReg (latchTime v o.num.toNat (s.time.extractLsb' 32 32)) o.a.toNat
        (specialValue s s.turn (curSlot s) v o.num.toNat)) (pcAfter t u.words) := by
  refine completes_written he h ?_
  rw [readBank_own hb ((role_issuedThread u s t).trans h.alone) (threadAt_issuedState u s t)]
  exact congrArg (fun w => Res.ok (setThread _ _ _ (wrReg _ _ w))) (specialValue_issuedState u s t _ _)

theorem exec_mfs_own {o : ShSp} (hb : o.bank = 0) (s : State) :
    exec (.mfs o) s = issue (o.use [] [o.a.toNat]) (readBank o) s := by
  have hb2 : ¬ o.bank = 2 := by rw [hb]; decide
  simp only [exec, execMfs, hb2, if_false]

theorem exec_mfsp_own {o : ShSp} (hb : o.bank = 0) (s : State) :
    exec (.mfsp o) s = issue (o.use [] [o.a.toNat]).slot0 (readBank o) s := by
  have hb2 : ¬ o.bank = 2 := by rw [hb]; decide
  simp only [exec, execMfsp, hb2, if_false]

/-- The numbers of the special registers but WEAR. -/
def specialNumbers : List Nat := [0, 1, 2, 3, 4, 5, 6, 7, 8, 9, 10, 11, 12, 13, 14, 15, 17, 18, 19, 20, 21, 22, 23, 24]

theorem specialValues : Claim.SpecialValues := by
  intro s t o hb q hq hn
  have hlist : q ∈ specialNumbers.map fun n =>
      (n, specialValue s s.turn (curSlot s) (chargeThread t (getCore s s.turn).vt) n) := hq
  obtain ⟨n, -, rfl⟩ := List.mem_map.mp hlist
  subst hn
  exact ⟨fun h => readBank_completes hb (exec_mfs_own hb s) h, fun h => readBank_completes hb (exec_mfsp_own hb s) h⟩

theorem wearRead : Claim.WearRead := by
  intro s t o hb hn h
  have hread := readBank_completes hb (exec_mfs_own hb s) h
  rw [hn] at hread
  exact hread

/-- Settles O43: a read of bank 00 gives `specialValue`, and an issue changes nothing that it reads but WEAR. -/
theorem specialReads : Obligations.SpecialReads := ⟨specialValues, wearRead⟩

/-! ### Writes -/

theorem exec_mts_own {o : ShSp} (hb : o.bank = 0) (s : State) :
    exec (.mts o) s = issue (o.use [o.a.toNat] []) (writeBank o false) s := by
  have hb2 : ¬ o.bank = 2 := by rw [hb]; decide
  have hb1 : ¬ o.bank = 1 := by rw [hb]; decide
  simp only [exec, execMts, hb2, hb1, if_false]

theorem exec_mtsp_own {o : ShSp} (hb : o.bank = 0) (s : State) :
    exec (.mtsp o) s = issue (o.use [o.a.toNat] []).slot0 (writeBank o true) s := by
  have hb2 : ¬ o.bank = 2 := by rw [hb]; decide
  simp only [exec, execMtsp, hb2, if_false]

/-- A write of bank 00, as it completes. -/
theorem writeBank_completes {i : Instr} {u : Use} {s : State} {t : Thread} {o : ShSp} {all : Bool} (hb : o.bank = 0)
    (he : exec i s = issue u (writeBank o all) s) (h : Issues u s t) :
    Effect i u s t (fun v => writeSpecial v o.num.toNat (rdReg t o.a.toNat) all) (pcAfter t u.words) := by
  have hb1 : ¬ o.bank = 1 := by rw [hb]; decide
  refine completes_written he h ?_
  simp only [writeBank, hb1, if_false, done, rdReg_issuedThread]
  rfl

theorem ownBankWrites : Claim.OwnBankWrites := by
  intro s t o hb w q hq
  have hmts : Issues (o.use [o.a.toNat] []) s t → Effect (.mts o) (o.use [o.a.toNat] []) s t
      (fun v => writeSpecial v o.num.toNat w false) (pcAfter t (o.use [] []).words) :=
    fun h => writeBank_completes hb (exec_mts_own hb s) h
  have hmtsp : Issues (o.use [o.a.toNat] []).slot0 s t → Effect (.mtsp o) (o.use [o.a.toNat] []).slot0 s t
      (fun v => writeSpecial v o.num.toNat w true) (pcAfter t (o.use [] []).words) :=
    fun h => writeBank_completes hb (exec_mtsp_own hb s) h
  refine ⟨fun hn => ?_, fun hn h => ?_, fun h => ⟨fun hn => ?_, fun hn => ?_⟩⟩
  · have hwrites : ∀ all, (fun v => writeSpecial v q.1 w all) = q.2 := by
      simp only [List.mem_cons, List.not_mem_nil, or_false] at hq
      rcases hq with rfl | rfl | rfl | rfl | rfl | rfl | rfl <;> exact fun _ => rfl
    rw [hn, hwrites] at hmts hmtsp
    exact ⟨hmts, hmtsp⟩
  · have hkeeps : ∀ n ∈ [0, 1, 2, 3, 4, 5, 6, 7, 8, 9, 12, 13, 14, 15, 16, 17, 22, 24],
        (fun v => writeSpecial v n w false) = id := by
      simp only [List.forall_mem_cons]
      exact ⟨rfl, rfl, rfl, rfl, rfl, rfl, rfl, rfl, rfl, rfl, rfl, rfl, rfl, rfl, rfl, rfl, rfl, rfl, by simp⟩
    rw [← hkeeps _ hn]
    exact hmts h
  · rw [hn] at hmtsp
    exact hmtsp h
  · rw [hn] at hmtsp
    exact hmtsp h

/-! ### The privileged bank -/

/-- The low halfword of a word, as a number. -/
theorem toNat_lowHalf (w : Word) : (w &&& 0xFFFF).toNat = w.toNat % 65536 := by
  rw [BitVec.toNat_and]
  exact Nat.and_two_pow_sub_one_eq_mod w.toNat 16

/-- MTSP on the privileged bank, as an operation. -/
theorem exec_mtsp_bank2 {o : ShSp} (hb : o.bank = 2) (s : State) : exec (.mtsp o) s =
    issue (o.use [o.a.toNat] []).slot0 (fun x t s =>
      .ok (if o.num = 0 then modCore s x.core fun k => writeHsegs k (rdReg t o.a.toNat) else s)) s := by
  simp only [exec, execMtsp, hb, if_true]

/-- MFSP on the privileged bank, as an operation. -/
theorem exec_mfsp_bank2 {o : ShSp} (hb : o.bank = 2) (s : State) : exec (.mfsp o) s =
    issue (o.use [] [o.a.toNat]).slot0 (fun x t s =>
      done s x (wrReg t o.a.toNat (if o.num = 0 then (getCore s x.core).hsegs else BitVec.ofNat 32 t.asn))) s := by
  simp only [exec, execMfsp, hb, if_true]

theorem asn_issuedThread (u : Use) (s : State) (t : Thread) : (issuedThread u s t).asn = t.asn := by
  obtain ⟨b, p, w, h⟩ := issuedThread_eq u s t
  rw [h]

theorem mfsp_bank2 {s : State} {t : Thread} {o : ShSp} (hb : o.bank = 2) (h : Issues (o.use [] [o.a.toNat]).slot0 s t) :
    Effect (.mfsp o) (o.use [] [o.a.toNat]).slot0 s t
      (fun v => wrReg v o.a.toNat (if o.num = 0 then (getCore s s.turn).hsegs else BitVec.ofNat 32 t.asn))
      (pcAfter t (o.use [] []).words) := by
  refine completes_written (u := (o.use [] [o.a.toNat]).slot0) (exec_mfsp_bank2 hb s) h ?_
  simp only [done, issueCtx, getCore_issuedState, Core_setSlot_hsegs, asn_issuedThread]

theorem leavesSlots_hsegs (v : Word) : LeavesSlots fun k => { k with hsegs := v } :=
  ⟨fun _ _ => rfl, fun _ => rfl, fun _ => rfl⟩

theorem privilegedRegisters : Claim.PrivilegedRegisters := by
  intro s t o hb
  refine ⟨fun h => ⟨?_, ?_⟩, fun h => ⟨fun hn => ?_, fun hn => ?_⟩, fun h => ⟨fun hn hv => ?_, fun hn => ?_⟩⟩
  · exact traps_of (op := privOp) (by simp only [exec, execMfs, hb, if_true]) h rfl
  · exact traps_of (op := privOp) (by simp only [exec, execMts, hb, if_true]) h rfl
  · simpa only [hn, if_true] using mfsp_bank2 hb h
  · have h0 : ¬ (1 : BitVec 5) = 0 := by decide
    simpa only [hn, h0, if_false] using mfsp_bank2 hb h
  · refine completes_modCore_only (leavesSlots_hsegs _) (exec_mtsp_bank2 hb s) h ?_
    simp only [hn, if_true, issueCtx, rdReg_issuedThread, writeHsegs, toNat_lowHalf, hv]
  · refine completes_written (u := (o.use [o.a.toNat] []).slot0) (v := issuedThread _ s t) (exec_mtsp_bank2 hb s) h ?_
    rw [issuedState, setThread_setThread _ _ _ _ _ (curSlot_lt s), ← issuedState]
    rcases hn with hn | hv
    · have h0 : ¬ (1 : BitVec 5) = 0 := by decide
      simp only [hn, h0, if_false]
    · simp only [issueCtx, rdReg_issuedThread, writeHsegs, toNat_lowHalf, hv, if_false, modCore_self_issuedState, ite_self]

/-- Settles O44: a write of bank 00 is `writeSpecial`, and bank 10 answers by its own cases. -/
theorem specialWrites : Obligations.SpecialWrites := ⟨ownBankWrites, privilegedRegisters⟩

end Sys2Proof.Machine

/-! SUPPORT. O49: the precision overrides, the duplication map, the amax registers and the accumulator tiles. -/

namespace Sys2Proof.Machine

/-! ### What an instruction in progress leaves -/

/-- An operation that goes in progress leaves its thread with what it waits for. -/
theorem completes_hold {i : Instr} {u : Use} {op : Ctx → Thread → State → Res} {s : State} {t : Thread} {w : Waiting}
    {st : Status} {reg : Nat} (he : exec i s = issue u op s) (h : Issues u s t)
    (hop : op (issueCtx u s t) (issuedThread u s t) (issuedState u s t) = .hold (issuedState u s t) w st reg) :
    CompletesFrom i s s (inProgress s u t w reg st) := by
  refine ⟨_, exec_issues i u op s t he h, ?_⟩
  rw [← issuedState, hop]
  simp only [settle, issueCtx]
  rw [modThread_some _ _ _ _ _ (threadAt_issuedState u s t), issuedState, setThread_setThread _ _ _ _ _ (curSlot_lt s)]
  exact onlyThread_charged s _

/-! ### What an issue leaves of its thread and its core -/

theorem lid_issuedThread (u : Use) (s : State) (t : Thread) : (issuedThread u s t).lid = t.lid := by
  obtain ⟨b, p, w, h⟩ := issuedThread_eq u s t
  rw [h]

theorem lim_issuedThread (u : Use) (s : State) (t : Thread) : (issuedThread u s t).lim = t.lim := by
  obtain ⟨b, p, w, h⟩ := issuedThread_eq u s t
  rw [h]

theorem streamOf_issuedThread (u : Use) (s : State) (t : Thread) (q : Nat) :
    streamOf (issuedThread u s t) q = streamOf t q := by
  obtain ⟨b, p, w, h⟩ := issuedThread_eq u s t
  rw [h]
  rfl

/-- Of a core the locks of its tiles look at the matrix engine alone. -/
theorem tileLocked_issuedState (u : Use) (s : State) (t : Thread) (n : Nat) :
    tileLocked (getCore (issuedState u s t) s.turn) n = tileLocked (getCore s s.turn) n := by
  simp only [tileLocked, getCore_issuedState, Core_setSlot_matQ, Core_setSlot_matRun]

theorem streamBusy_issued (u : Use) (s : State) (t : Thread) (i : Nat) (ns : List Nat) :
    streamBusy (getCore (issuedState u s t) s.turn) i (issuedThread u s t) ns = streamBusy (getCore s s.turn) i t ns := by
  simp only [streamBusy, getCore_issuedState, Core_setSlot_matQ, Core_setSlot_matRun, streamOf_issuedThread]

/-- A stop of a stream does not see the issue; its trap names the instruction. -/
theorem streamTrap_issued (u : Use) (s : State) (t : Thread) (ns : List Nat) :
    streamTrap { issuedThread u s t with pc := t.pc } ns = streamTrap t ns := by
  obtain ⟨b, p, w, h⟩ := issuedThread_eq u s t
  rw [h]
  rfl

/-- A register that is full once others are emptied was full before. -/
theorem isFull_of_emptyReg {t : Thread} {m n : Nat} (h : isFull (emptyReg t m) n = true) : isFull t n = true := by
  by_cases hm : m = 0
  · simpa only [emptyReg, hm, if_true] using h
  · simp only [isFull, emptyReg, hm, if_false, putBit, Bool.or_eq_true, decide_eq_true_eq] at h ⊢
    refine h.imp_right fun hb => ?_
    simp only [Bool.false_eq_true, if_false, BitVec.getLsbD_and, Bool.and_eq_true] at hb
    exact hb.1

theorem isFull_of_emptyRegs {ns : List Nat} {t : Thread} {n : Nat} (h : isFull (emptyRegs t ns) n = true) :
    isFull t n = true := by
  induction ns generalizing t with
  | nil => exact h
  | cons m ns ih => exact isFull_of_emptyReg (ih h)

/-- What emptying registers does not empty stays full. -/
theorem isFull_emptyRegs_of_notMem {ns : List Nat} {t : Thread} {n : Nat} (h : isFull t n = true) (hn : n ∉ ns) :
    isFull (emptyRegs t ns) n = true := by
  induction ns generalizing t with
  | nil => exact h
  | cons m ns ih =>
    obtain ⟨hm, hns⟩ : n ≠ m ∧ n ∉ ns := by simpa using hn
    refine ih ?_ hns
    by_cases h128 : n < 128
    · rw [isFull_emptyReg t m n h128, if_neg fun e => hm e.1, h]
    · have : isFull t n = false := by
        simp only [isFull, Bool.or_eq_false_iff, decide_eq_false_iff_not]
        exact ⟨by omega, BitVec.getLsbD_of_ge _ _ (by omega)⟩
      rw [this] at h
      exact absurd h (by decide)

/-- A register that was full before the issue is full, or the issue has emptied it. -/
theorem wasFull_issued {u u' : Use} {s : State} {t : Thread} {n : Nat} (hu : u'.sync = u.sync) (h : isFull t n = true) :
    wasFull u' (issuedThread u s t) n = true := by
  simp only [wasFull, hu, Bool.or_eq_true, List.contains_iff_mem]
  exact (em (n ∈ u.sync)).symm.imp_left fun hn => isFull_emptyRegs_of_notMem (by exact h) hn

/-- A store stream that has room before the issue has room after it. -/
theorem storeBusy_issued {u : Use} {s : State} {t : Thread} {ns : List Nat} (h : storeBusy t ns = false) :
    storeBusy (issuedThread u s t) ns = false := by
  simp only [storeBusy, streamOf_issuedThread, Bool.and_eq_false_iff] at h ⊢
  refine h.imp_right fun hf => ?_
  by_contra hc
  have := isFull_of_emptyRegs (Bool.not_eq_false _ ▸ hc)
  rw [show isFull t _ = true from this] at hf
  exact absurd hf (by decide)

/-! ### Precision overrides and the duplication map -/

theorem leavesSlots_over (n : Nat) (v : Option (Word × Word)) :
    LeavesSlots fun k => { k with pwOver := k.pwOver.setIfInBounds n v } := ⟨fun _ _ => rfl, fun _ => rfl, fun _ => rfl⟩

theorem leavesSlots_setDup (n : Nat) (e : Word) : LeavesSlots fun k => setDup k n e := by
  cases he : e.getLsbD 31 <;> simp only [setDup, he] <;> exact ⟨fun _ _ => rfl, fun _ => rfl, fun _ => rfl⟩

/-- PREC, as an operation. -/
def precOp (o : ShFB4) (x : Ctx) (t : Thread) (s : State) : Res :=
  if (rdReg t o.b.toNat).getLsbD 16 then .ok (modCore s x.core fun k => setOver k o.t.toNat none)
  else if !pwValid (rdReg t o.b.toNat) then .trap .queue 0 0
  else .ok (modCore s x.core fun k => setOver k o.t.toNat (some (t.lid, rdReg t o.b.toNat)))

theorem exec_prec (o : ShFB4) (s : State) : exec (.prec o) s = issue o.use.oncely (precOp o) s := rfl

/-- DUPSET, as an operation. -/
def dupsetOp (o : ShFB4) (x : Ctx) (t : Thread) (s : State) : Res :=
  .ok (modCore s x.core fun k => setDup k o.t.toNat (rdReg t o.b.toNat))

theorem exec_dupset (o : ShFB4) (s : State) : exec (.dupset o) s = issue o.use.oncely (dupsetOp o) s := rfl

/-- DUPSET completes over its change of the map. -/
theorem dupset_completes {s : State} {t : Thread} {o : ShFB4} (h : Issues o.use.oncely s t) :
    CompletesFrom (.dupset o) s (modCore s s.turn fun k => setDup k o.t.toNat (rdReg t o.b.toNat))
      (goesTo (issuedThread o.use.oncely s t) (pcAfter t o.use.oncely.words)) :=
  completes_modCore_only (leavesSlots_setDup _ _) (exec_dupset o s) h (by
    simp only [dupsetOp, rdReg_issuedThread, issueCtx])

theorem precisionAndMap : Claim.PrecisionAndMap := by
  intro s t o h
  refine ⟨fun hdrop => ?_, fun hset hbad => ?_, fun hset hgood => ?_, fun hclear => ?_, fun hentry => ?_⟩
  · refine completes_modCore_only (leavesSlots_over _ _) (exec_prec o s) h ?_
    simp only [precOp, rdReg_issuedThread, hdrop, if_true]
    rfl
  · refine traps_of (exec_prec o s) h ?_
    simp only [precOp, rdReg_issuedThread, hset, hbad]
    rfl
  · refine completes_modCore_only (leavesSlots_over _ _) (exec_prec o s) h ?_
    simp only [precOp, rdReg_issuedThread, lid_issuedThread, hset, hgood]
    rfl
  · simpa only [setDup, hclear, if_true] using dupset_completes h
  · have hkey : nbits (rdReg t o.b.toNat).toNat 3 0 = (rdReg t o.b.toNat).toNat % 16 := by simp [nbits]
    simpa only [setDup, hentry, Bool.false_eq_true, if_false, hkey] using dupset_completes h

/-! ### Amax registers -/

theorem magOf_eq (w : Word) : magOf w = (w &&& 0x7FFFFFFF).toNat := by
  rw [BitVec.toNat_and]
  exact (Nat.and_two_pow_sub_one_eq_mod w.toNat 31).symm

theorem amaxTake_eq_amaxOf (m x : Word) : amaxTake m x = amaxOf m x := by
  simp only [amaxTake, amaxOf, magOf_eq, BitVec.lt_def, gt_iff_lt]

theorem leavesSlots_updAmax (n : Nat) (g : Word → Word) : LeavesSlots fun k => updAmax k n g :=
  ⟨fun _ _ => rfl, fun _ => rfl, fun _ => rfl⟩

theorem amaxRegisters : Claim.AmaxRegisters := by
  intro s t
  refine ⟨fun o h => ?_, fun o h => ?_, fun o h => ?_⟩
  · refine completes_modCore_only (op := fun x t s => .ok (modCore (setThread s x.core x.slot t) x.core fun k =>
      updAmax k o.a.toNat fun m => (enabled t).foldl (fun m i => amaxTake m (lane t o.b i)) m))
      (leavesSlots_updAmax o.a.toNat fun m => (enabledLanes t).foldl (fun m i => amaxOf m (lane t o.b i)) m) rfl h ?_
    simp only [issueCtx, enabled_issuedThread, lane_issuedThread, amaxTake_eq_amaxOf]
    rw [issuedState, setThread_setThread _ _ _ _ _ (curSlot_lt s)]
    rfl
  · refine completes_written (u := o.use.oncely) (op := fun x t s =>
      done s x (wrReg t o.a.toNat (((getCore s x.core).amax[o.t.toNat]?).getD 0))) rfl h ?_
    simp only [done, issueCtx, getCore_issuedState, Core_setSlot_amax]
  · exact completes_modCore_only (op := fun x _ s => .ok (modCore s x.core fun k => updAmax k o.t.toNat fun _ => 0))
      (leavesSlots_updAmax o.t.toNat fun _ => 0) rfl h rfl

/-! ### Accumulator tiles -/

section
variable {i : Instr} {u : Use} {op : Ctx → Thread → State → Res} {s : State} {t : Thread} {n : Nat} {r : Res}
  (he : exec i s = issue u op s) (h : Issues u s t)
  (hop : op (issueCtx u s t) (issuedThread u s t) (issuedState u s t) = onTile (issueCtx u s t) (issuedState u s t) n r)

/-- A tile that no command locks lets the operation through. -/
theorem onTile_unlocked (u : Use) {s : State} (t : Thread) {n : Nat} (r : Res)
    (hl : tileLocked (getCore s s.turn) n = false) :
    onTile (issueCtx u s t) (issuedState u s t) n r = r := by
  rw [onTile, issueCtx_core, tileLocked_issuedState, hl]
  rfl

include he h hop

/-- On a locked tile the instruction waits for it. -/
theorem completes_locked (hl : tileLocked (getCore s s.turn) n = true) :
    CompletesFrom i s s (inProgress s u t (.tile n) 0 .waitMem) := by
  refine completes_hold he h ?_
  rw [hop, onTile, issueCtx_core, tileLocked_issuedState, hl]
  rfl

end

theorem leavesSlots_zeroTile (n : Nat) : LeavesSlots fun k => zeroTile k n := ⟨fun _ _ => rfl, fun _ => rfl, fun _ => rfl⟩
theorem leavesSlots_setStat (n : Nat) (v : BitVec 8) : LeavesSlots fun k => setStat k n v :=
  ⟨fun _ _ => rfl, fun _ => rfl, fun _ => rfl⟩
theorem leavesSlots_setAcc (n r c : Nat) (v : BitVec 96) : LeavesSlots fun k => setAcc k n r c v :=
  ⟨fun _ _ => rfl, fun _ => rfl, fun _ => rfl⟩

/-- The status word of a tile that no command locks is its status. -/
theorem statWord_unlocked {k : Core} {n : Nat} (hl : tileLocked k n = false) :
    statWord k n = ((k.accStat[n]?).getD 0).setWidth 32 := by
  simp [statWord, hl, statAt, BitVec.ofNat_toNat]

theorem accIdx_eq (i : Word) : accIdx i = (i.toNat / 16 % 16, i.toNat % 16) := by
  simp [accIdx, nbits]

/-- Where no stream stands in the way of the registers that an operation finds it writes, it goes through. -/
theorem moreDsts_passes (u : Use) {s : State} {t : Thread} {rs : List Nat} (r : Res) (hs : streamTrap t rs = none)
    (hb : streamBusy (getCore s s.turn) (curSlot s) t rs = false) (hst : storeBusy t rs = false) :
    moreDsts (issueCtx u s t) (issuedThread u s t) (issuedState u s t) rs r = r := by
  have hpc : (issueCtx u s t).ia = t.pc := rfl
  simp only [moreDsts, hpc, streamTrap_issued, hs, issueCtx_core, issueCtx_slot, streamBusy_issued, hb,
    storeBusy_issued hst]
  rfl

/-- ACCRD, as an operation. -/
def accrdOp (o : ShArd) (x : Ctx) (t : Thread) (s : State) : Res :=
  if (rdReg t o.c.toNat).getLsbD 8 then
    onTile x s o.t.toNat
      (done (if (rdReg t o.c.toNat).getLsbD 9 then modCore s x.core fun k => setStat k o.t.toNat 0 else s) x
        (wrReg t o.a.toNat (statWord (getCore s x.core) o.t.toNat)))
  else if t.lim ≤ o.a.toNat + 2 then .trap .reglim 0 0
  else
    moreDsts x t s [o.a.toNat + 1, o.a.toNat + 2]
      (onTile x s o.t.toNat
        (if (getCore s x.core).accBad.contains o.t.toNat then
          .trapX ⟨.memerr, 0, 0, x.ia, false, 0⟩ fun s => consumed s x.core
        else done s x (wrRegs t o.a.toNat (accTriple (accAt (getCore s x.core) o.t.toNat
          (accIdx (rdReg t o.c.toNat)).1 (accIdx (rdReg t o.c.toNat)).2)))))

theorem exec_accrd (o : ShArd) (s : State) : exec (.accrd o) s = issue (o.use [o.a.toNat]).oncely (accrdOp o) s := rfl

/-- ACCWR, as an operation. -/
def accwrOp (o : ShF4) (x : Ctx) (t : Thread) (s : State) : Res :=
  if (rdReg t o.c.toNat).getLsbD 8 then
    onTile x s o.t.toNat (.ok (modCore s x.core fun k => setStat k o.t.toNat ((rdReg t o.b.toNat).setWidth 8)))
  else if t.lim ≤ o.b.toNat + 2 then .trap .reglim 0 0
  else if streamBusy (getCore s x.core) x.slot t [o.b.toNat + 1, o.b.toNat + 2] ||
      !wasFull (o.use [o.b.toNat, o.c.toNat]) t (o.b.toNat + 1) ||
      !wasFull (o.use [o.b.toNat, o.c.toNat]) t (o.b.toNat + 2) then .wait .waitMem id
  else
    onTile x s o.t.toNat
      (.ok (modCore s x.core fun k => setAcc k o.t.toNat (accIdx (rdReg t o.c.toNat)).1 (accIdx (rdReg t o.c.toNat)).2
        (rdReg t (o.b.toNat + 2) ++ rdReg t (o.b.toNat + 1) ++ rdReg t o.b.toNat)))

theorem exec_accwr (o : ShF4) (s : State) :
    exec (.accwr o) s = issue (o.use [o.b.toNat, o.c.toNat]).oncely (accwrOp o) s := rfl

/-! ACCZ -/

theorem exec_accz (o : ShT4) (s : State) : exec (.accz o) s = issue o.use.oncely
    (fun x _ s => onTile x s o.t.toNat (.ok (modCore s x.core fun k => zeroTile k o.t.toNat))) s := rfl

theorem accz_unlocked {s : State} {t : Thread} {o : ShT4} (h : Issues o.use.oncely s t)
    (hl : tileLocked (getCore s s.turn) o.t.toNat = false) :
    CompletesFrom (.accz o) s (modCore s s.turn fun k => zeroTile k o.t.toNat)
      (goesTo (issuedThread o.use.oncely s t) (pcAfter t o.use.oncely.words)) :=
  completes_modCore_only (leavesSlots_zeroTile _) (exec_accz o s) h (onTile_unlocked _ t _ hl)

/-! ACCRD -/

section
variable {s : State} {t : Thread} {o : ShArd}

/-- The status form is on the tile alone. -/
theorem accrdOp_status (s : State) (hi : (rdReg t o.c.toNat).getLsbD 8 = true) (x : Ctx) (u : Use) (s' : State) :
    accrdOp o x (issuedThread u s t) s' = onTile x s' o.t.toNat
      (done (if (rdReg t o.c.toNat).getLsbD 9 then modCore s' x.core fun k => setStat k o.t.toNat 0 else s') x
        (wrReg (issuedThread u s t) o.a.toNat (statWord (getCore s' x.core) o.t.toNat))) := by
  simp only [accrdOp, rdReg_issuedThread, hi, if_true]

/-- The element form, once its three registers are the thread's and no stream stands in their way, is on the tile alone. -/
theorem accrdOp_element (u : Use) (hi : (rdReg t o.c.toNat).getLsbD 8 = false) (hlim : o.a.toNat + 2 < t.lim)
    (hs : streamTrap t [o.a.toNat + 1, o.a.toNat + 2] = none) (hst : storeBusy t [o.a.toNat + 1, o.a.toNat + 2] = false)
    (hb : streamBusy (getCore s s.turn) (curSlot s) t [o.a.toNat + 1, o.a.toNat + 2] = false) :
    accrdOp o (issueCtx u s t) (issuedThread u s t) (issuedState u s t) =
      onTile (issueCtx u s t) (issuedState u s t) o.t.toNat
        (if (getCore s s.turn).accBad.contains o.t.toNat then
          .trapX ⟨.memerr, 0, 0, t.pc, false, 0⟩ fun s' => consumed s' s.turn
        else done (issuedState u s t) (issueCtx u s t) (wrRegs (issuedThread u s t) o.a.toNat
          (accTriple (accAt (getCore s s.turn) o.t.toNat ((rdReg t o.c.toNat).toNat / 16 % 16)
            ((rdReg t o.c.toNat).toNat % 16))))) := by
  simp only [accrdOp, rdReg_issuedThread, hi, lim_issuedThread, Nat.not_le.mpr hlim, if_false, Bool.false_eq_true,
    moreDsts_passes u _ hs hb hst, accIdx_eq, accAt, issueCtx_core, getCore_issuedState, Core_setSlot_accBad,
    Core_setSlot_acc]
  rfl

/-- ACCRD of the status of a tile that no command locks. -/
theorem accrd_status (h : Issues (o.use [o.a.toNat]).oncely s t) (hi : (rdReg t o.c.toNat).getLsbD 8 = true)
    (hl : tileLocked (getCore s s.turn) o.t.toNat = false) :
    CompletesFrom (.accrd o) s
      (if (rdReg t o.c.toNat).getLsbD 9 then modCore s s.turn fun k => setStat k o.t.toNat 0 else s)
      (goesTo (wrReg (issuedThread (o.use [o.a.toNat]).oncely s t) o.a.toNat
        ((((getCore s s.turn).accStat[o.t.toNat]?).getD 0).setWidth 32)) (pcAfter t (o.use [o.a.toNat]).oncely.words)) := by
  have hword : statWord (getCore (issuedState (o.use [o.a.toNat]).oncely s t) s.turn) o.t.toNat =
      (((getCore s s.turn).accStat[o.t.toNat]?).getD 0).setWidth 32 := by
    rw [statWord_unlocked ((tileLocked_issuedState _ s t _).trans hl), getCore_issuedState, Core_setSlot_accStat]
  have hop := (accrdOp_status s hi (issueCtx (o.use [o.a.toNat]).oncely s t) (o.use [o.a.toNat]).oncely
    (issuedState (o.use [o.a.toNat]).oncely s t)).trans (onTile_unlocked _ t _ hl)
  rw [issueCtx_core, hword] at hop
  cases h9 : (rdReg t o.c.toNat).getLsbD 9
  · rw [h9] at hop
    exact completes_written (exec_accrd o s) h hop
  · rw [h9] at hop
    exact completes_modCore (leavesSlots_setStat _ _) (exec_accrd o s) h hop

end

/-! ACCWR -/

section
variable {s : State} {t : Thread} {o : ShF4}

theorem accwrOp_status (s : State) (hi : (rdReg t o.c.toNat).getLsbD 8 = true) (x : Ctx) (u : Use) (s' : State) :
    accwrOp o x (issuedThread u s t) s' = onTile x s' o.t.toNat
      (.ok (modCore s' x.core fun k => setStat k o.t.toNat ((rdReg t o.b.toNat).setWidth 8))) := by
  simp only [accwrOp, rdReg_issuedThread, hi, if_true]

/-- The element form, once its three registers are the thread's and full, is on the tile alone. -/
theorem accwrOp_element (hi : (rdReg t o.c.toNat).getLsbD 8 = false) (hlim : o.b.toNat + 2 < t.lim)
    (hb : streamBusy (getCore s s.turn) (curSlot s) t [o.b.toNat + 1, o.b.toNat + 2] = false)
    (h1 : isFull t (o.b.toNat + 1) = true) (h2 : isFull t (o.b.toNat + 2) = true) :
    let u := (o.use [o.b.toNat, o.c.toNat]).oncely
    accwrOp o (issueCtx u s t) (issuedThread u s t) (issuedState u s t) =
      onTile (issueCtx u s t) (issuedState u s t) o.t.toNat
        (.ok (modCore (issuedState u s t) s.turn fun k => setAcc k o.t.toNat ((rdReg t o.c.toNat).toNat / 16 % 16)
          ((rdReg t o.c.toNat).toNat % 16) (rdReg t (o.b.toNat + 2) ++ rdReg t (o.b.toNat + 1) ++ rdReg t o.b.toNat))) := by
  intro u
  have hw : ∀ n, isFull t n = true → wasFull (o.use [o.b.toNat, o.c.toNat]) (issuedThread u s t) n = true :=
    fun n hn => wasFull_issued (u := u) rfl hn
  simp only [accwrOp, rdReg_issuedThread, hi, lim_issuedThread, Nat.not_le.mpr hlim, if_false, Bool.false_eq_true,
    issueCtx_core, issueCtx_slot, streamBusy_issued, hb, hw _ h1, hw _ h2, Bool.not_true, Bool.or_self, accIdx_eq]

end

theorem accumulatorAccess : Claim.AccumulatorAccess := by
  intro s t
  refine ⟨fun o h => ⟨completes_locked (exec_accz o s) h rfl, accz_unlocked h⟩, fun o h => ?_, fun o h => ?_⟩
  · refine ⟨fun hi hl => ?_, fun hi hlim hs hst hb hl => ?_, fun hi hl => accrd_status h hi hl, fun hi hlim => ?_,
      fun hi hlim hs hst hb hl hbad => ?_⟩
    · exact completes_locked (exec_accrd o s) h (accrdOp_status s hi _ _ _) hl
    · exact completes_locked (exec_accrd o s) h (accrdOp_element _ hi hlim hs hst hb) hl
    · refine traps_of (exec_accrd o s) h ?_
      simp only [accrdOp, rdReg_issuedThread, hi, lim_issuedThread, hlim, if_true, Bool.false_eq_true, if_false]
    · refine completes_written (exec_accrd o s) h ?_
      have hc : (getCore s s.turn).accBad.contains o.t.toNat = false := by simpa using hbad
      rw [accrdOp_element _ hi hlim hs hst hb, onTile_unlocked _ t _ hl, hc]
      rfl
  · refine ⟨fun hi hl => ?_, fun hi hlim hb h1 h2 hl => ?_, fun hi hl => ?_, fun hi hlim => ?_,
      fun hi hlim hb h1 h2 hl => ?_⟩
    · exact completes_locked (exec_accwr o s) h (accwrOp_status s hi _ _ _) hl
    · exact completes_locked (exec_accwr o s) h (accwrOp_element hi hlim hb h1 h2) hl
    · exact completes_modCore_only (leavesSlots_setStat _ _) (exec_accwr o s) h
        ((accwrOp_status s hi _ _ _).trans (onTile_unlocked _ t _ hl))
    · refine traps_of (exec_accwr o s) h ?_
      simp only [accwrOp, rdReg_issuedThread, hi, lim_issuedThread, hlim, if_true, Bool.false_eq_true, if_false]
    · exact completes_modCore_only (leavesSlots_setAcc _ _ _ _) (exec_accwr o s) h
        ((accwrOp_element hi hlim hb h1 h2).trans (onTile_unlocked _ t _ hl))

end Sys2Proof.Machine

/-! SUPPORT. O49: OSPLIT. A store of the issuing thread to its own local store, the bits of a plane tile, and the two halves
of a code. -/

namespace Sys2Proof.Machine

/-! ### A store to the local store, seen by the thread that issues it -/

/-- A core whose watchers of a line have been woken. -/
def wakeSlots (line : Nat) (k : Core) : Core := { k with slots := k.slots.map (wakeSlot line) }

/-- A thread whose WAKE is set too where `b` says so. -/
def woken (t : Thread) (b : Bool) : Thread := { t with wake := t.wake || b }

theorem woken_woken (t : Thread) (a b : Bool) : woken (woken t a) b = woken t (a || b) := by
  simp only [woken, Bool.or_assoc]

theorem woken_false (t : Thread) : woken t false = t := by simp only [woken, Bool.or_false]

/-- A slot with no watcher of the line stays as it is. -/
theorem wakeSlot_eq_self {line : Nat} {x : Slot} (h : ∀ t, x.content = .thread t → t.watches.contains line = false) :
    wakeSlot line x = x := by
  unfold wakeSlot
  split
  next t ht => rw [if_neg (by rw [h t ht]; decide)]
  · rfl

/-- A slot whose thread has no instruction in progress only has its WAKE set. -/
theorem wakeSlot_thread {line : Nat} {t : Thread} (n : Option Msg) (hp : t.pend = none) :
    wakeSlot line ⟨.thread t, n⟩ = ⟨.thread (woken t (t.watches.contains line)), n⟩ := by
  cases hw : t.watches.contains line
  · rw [woken_false]
    refine wakeSlot_eq_self fun u hu => ?_
    cases hu
    exact hw
  · have hwake : wakeThread t = woken t true := by simp only [wakeThread, hp, woken, Bool.or_true]
    simp only [wakeSlot, hw, if_true, hwake]

theorem wakeSlots_blank (line : Nat) (b : Bool) : wakeSlots line (Core.blank b) = Core.blank b := by
  have hempty : wakeSlot line Slot.empty = Slot.empty := rfl
  have hfirm : wakeSlot line ⟨.thread .firmware, none⟩ = ⟨.thread .firmware, none⟩ := rfl
  cases b <;> simp [wakeSlots, Core.blank, Vector.map_set, hempty, hfirm]

/-- A wake either finds no watcher, or wakes the slots of the core. -/
theorem wakeCore_cases (s : State) (c line : Nat) :
    (wakeCore s c line = s ∧ wakeSlots line (getCore s c) = getCore s c) ∨
      wakeCore s c line = modCore s c (wakeSlots line) := by
  unfold wakeCore
  split
  next h => exact .inl ⟨rfl, by rw [getCore, h]; exact wakeSlots_blank line s.booted⟩
  next k h =>
    have hk : getCore s c = k := by rw [getCore, h]; rfl
    split
    · exact .inr (by rw [modCore, hk]; rfl)
    next hany =>
      refine .inl ⟨rfl, ?_⟩
      rw [hk, wakeSlots]
      have hslots : k.slots.map (wakeSlot line) = k.slots := by
        refine Vector.ext fun j hj => ?_
        rw [Vector.getElem_map]
        refine wakeSlot_eq_self fun t ht => ?_
        by_contra hw
        refine hany (List.any_eq_true.mpr ⟨k.slots[j], by simp, ?_⟩)
        simpa only [ht] using Bool.eq_true_of_not_eq_false hw
      rw [hslots]

/-- Waking a core's watchers changes nothing of any core but slots. -/
theorem coreRest_wakeCore (s : State) (c line d : Nat) :
    { getCore (wakeCore s c line) d with slots := (getCore s d).slots } = getCore s d := by
  rcases wakeCore_cases s c line with ⟨h, -⟩ | h
  · rw [h]
  · rw [h, modCore]
    by_cases hd : d = c
    · subst hd
      rw [getCore_setCore_same]
      rfl
    · rw [getCore_setCore_ne _ _ _ _ hd]

/-- The write of a thread covers a rewrite of the core that it stands on. -/
theorem setThread_modCore_self {s : State} {c : Nat} {f : Core → Core} (hf : f (getCore s c) = getCore s c) (i : Nat)
    (t : Thread) : setThread (modCore s c f) c i t = setThread s c i t := by
  rw [modCore, hf, setThread_eq_setCore, getCore_setCore_same, setCore_setCore, ← setThread_eq_setCore]

theorem notice_wakeSlot (line : Nat) (x : Slot) : (wakeSlot line x).notice = x.notice := by
  unfold wakeSlot
  split
  · split <;> rfl
  · rfl

/-- Waking the slots of a core wakes a thread that is written there first. -/
theorem wakeSlots_setThread (s : State) (c i line : Nat) {t : Thread} (hp : t.pend = none) :
    modCore (setThread s c i t) c (wakeSlots line) =
      setThread (modCore s c (wakeSlots line)) c i (woken t (t.watches.contains line)) := by
  have hset : ∀ (k : Core) (x : Slot), wakeSlots line (k.setSlot i x) = (wakeSlots line k).setSlot i (wakeSlot line x) :=
    fun k x => by simp only [wakeSlots, Core.setSlot, Vector.map_setIfInBounds]
  have hnotice : ∀ k : Core, ((wakeSlots line k).slotAt i).notice = (k.slotAt i).notice := fun k => by
    simp only [wakeSlots, Core.slotAt, Vector.getElem?_map]
    cases k.slots[i]? with
    | none => rfl
    | some x => exact notice_wakeSlot line x
  simp only [modCore, setThread_eq_setCore, getCore_setCore_same, setCore_setCore, hset, wakeSlot_thread _ hp, hnotice]

/-- A wake and the write of a thread are one, in either order, but for the thread's own WAKE. -/
theorem wakeCore_setThread (s : State) (c i line : Nat) {t : Thread} (hp : t.pend = none) :
    wakeCore (setThread s c i t) c line = setThread (wakeCore s c line) c i (woken t (t.watches.contains line)) := by
  have hmod : wakeCore (setThread s c i t) c line = modCore (setThread s c i t) c (wakeSlots line) := by
    rcases wakeCore_cases (setThread s c i t) c line with ⟨h, hself⟩ | h
    · rw [h, modCore_setThread_self hself]
    · exact h
  rw [hmod, wakeSlots_setThread s c i line hp]
  rcases wakeCore_cases s c line with ⟨h, hself⟩ | h
  · rw [h, setThread_modCore_self hself]
  · rw [h]

/-- A wake does not see the wear of an issue. -/
theorem wakeCore_worn (s : State) (l : Life) (b : Bool) (c line : Nat) :
    wakeCore { s with life := l, issued := b } c line = { wakeCore s c line with life := l, issued := b } := by
  cases h : smGet s.cores c with
  | none => simp only [wakeCore, h]
  | some k =>
    simp only [wakeCore, h]
    split <;> rfl

/-- What a wake leaves: the wear, the core whose cycle it is, and that cycle. -/
theorem wakeCore_keeps (s : State) (c line : Nat) :
    (wakeCore s c line).life = s.life ∧ (wakeCore s c line).turn = s.turn ∧ curSlot (wakeCore s c line) = curSlot s := by
  have hturn : (wakeCore s c line).turn = s.turn := by
    obtain ⟨k, h⟩ := wakeCore_eq s c line
    rw [h]
  refine ⟨?_, hturn, ?_⟩
  · obtain ⟨k, h⟩ := wakeCore_eq s c line
    rw [h]
  · have hcycle : (getCore (wakeCore s c line) s.turn).cycle = (getCore s s.turn).cycle := by
      simpa using congrArg Core.cycle (coreRest_wakeCore s c line s.turn)
    rw [curSlot, hturn, Core.turnSlot, hcycle]
    rfl

/-- A wake and the charge of an issue are one, in either order. -/
theorem wakeCore_chargedState (s : State) (c line : Nat) :
    wakeCore (chargedState s c) c line = chargedState (wakeCore s c line) c := by
  have hlife : (chargedState (wakeCore s c line) c).life = (chargedState s c).life := by
    have hvt : (getCore (wakeCore s c line) c).vt = (getCore s c).vt := by
      simpa using congrArg Core.vt (coreRest_wakeCore s c line c)
    simp only [chargedState, accrue, setLive, liveOf, physCore, physQuad, (wakeCore_keeps s c line).1, hvt]
  calc wakeCore (chargedState s c) c line
      = { wakeCore s c line with life := (chargedState s c).life, issued := true } := wakeCore_worn s _ _ c line
    _ = { wakeCore s c line with life := (chargedState (wakeCore s c line) c).life, issued := true } := by rw [hlife]
    _ = chargedState (wakeCore s c line) c := rfl

/-- The bytes of a store, and the bad words that it cures, before any wake. -/
def bytesStored (s : State) (p : Place) (n v : Nat) : State :=
  { s with
    mem := writeBytes s.mem (flat p) n v
    bads := if s.bads.isEmpty then s.bads else
      (wordsOf p n).foldl (fun b w => if flat p ≤ 4 * w && 4 * w + 4 ≤ flat p + n then setDel b w else b) s.bads }

theorem storeNat_lstore (s : State) (c a n v : Nat) :
    storeNat s (.lstore c a) n v = wakeCore (bytesStored s (.lstore c a) n v) c (lineKey (.lstore c a)) := rfl

section
variable {c i : Nat}

theorem bytesStored_issuer (s : State) (v : Thread) (p : Place) (n w : Nat) :
    bytesStored (setThread (chargedState s c) c i v) p n w = setThread (chargedState (bytesStored s p n w) c) c i v := rfl

/-- A word that the issuing thread stores in its own local store: the store, the charge and the thread, whose WAKE is set
where it has armed the line. -/
theorem storeWord_issuer (s : State) {v : Thread} (hp : v.pend = none) (a : Nat) (w : Word) :
    storeWord (setThread (chargedState s c) c i v) (.lstore c a) w =
      setThread (chargedState (storeWord s (.lstore c a) w) c) c i (woken v (armedBy v (.lstore c a))) := by
  simp only [storeWord, storeNat_lstore, bytesStored_issuer, wakeCore_setThread _ c i _ hp, wakeCore_chargedState, armedBy]

theorem loadNat_issuer (s : State) (v : Thread) (p : Place) (n : Nat) :
    loadNat (setThread (chargedState s c) c i v) p n = loadNat s p n :=
  loadNat_congr s (setThread (chargedState s c) c i v) rfl rfl p n

/-- Stores of the issuing thread one after another. -/
theorem foldl_issuer {α : Type} {l : List α} {f : State → α → State} {w : α → Bool} {ws : List Nat}
    (hf : ∀ e s v, v.pend = none → v.watches = ws →
      f (setThread (chargedState s c) c i v) e = setThread (chargedState (f s e) c) c i (woken v (w e)))
    (s : State) {v : Thread} (hp : v.pend = none) (hw : v.watches = ws) :
    l.foldl f (setThread (chargedState s c) c i v) = setThread (chargedState (l.foldl f s) c) c i (woken v (l.any w)) := by
  induction l generalizing s v with
  | nil => simp only [List.foldl_nil, List.any_nil, woken_false]
  | cons e l ih =>
    rw [List.foldl_cons, List.foldl_cons, hf e s v hp hw, ih (f s e) (v := woken v (w e)) hp hw, woken_woken,
      List.any_cons]

theorem armedBy_congr {v t : Thread} (h : v.watches = t.watches) (p : Place) : armedBy v p = armedBy t p := by
  simp only [armedBy, h]

/-- The words of a code that arm the thread's WAKE. -/
def codeArms (t : Thread) (q : Place) (p pos : Nat) : Bool :=
  (List.range p).any fun j => armedBy t (q.shift (32 * j + 4 * (pos / 32)))

theorem putCode_issuer (t : Thread) (a p pos code : Nat) (s : State) (v : Thread) (hp : v.pend = none)
    (hw : v.watches = t.watches) :
    splitTiles.putCode (setThread (chargedState s c) c i v) (.lstore c a) p pos code =
      setThread (chargedState (splitTiles.putCode s (.lstore c a) p pos code) c) c i
        (woken v (codeArms t (.lstore c a) p pos)) := by
  refine foldl_issuer (fun j s v hp hw => ?_) s hp hw
  simp only [loadWord, loadNat_issuer]
  rw [← armedBy_congr hw]
  exact storeWord_issuer s hp _ _

end

/-! ### The steps of OSPLIT -/

/-- The number of planes that OSPLIT's word names. -/
def splitPlanes (c : Word) : Nat := c.toNat / 16 % 16 + 1
/-- The positions of the first tile's codes, and of the second's. -/
def splitPosA (c : Word) (m : Nat) : Nat := chanPos (c.getLsbD 12) (c.toNat % 16) m
def splitPosX (c : Word) (m : Nat) : Nat := chanPos (c.getLsbD 12) (c.toNat / 256 % 16) m

/-- The halves of the code at a position of the first tile. -/
def splitHalves (s : State) (pa : Place) (c : Word) (m : Nat) : Nat × Nat :=
  splitCode (c.getLsbD 13) (splitPlanes c)
    (planeCode (splitPlanes c) (loadNat s pa (32 * splitPlanes c)) (splitPosA c m))

/-- One code of OSPLIT. -/
def splitStep (pa pc : Place) (c : Word) (s : State) (m : Nat) : State :=
  splitTiles.putCode (splitTiles.putCode s pa (splitPlanes c) (splitPosA c m) (splitHalves s pa c m).1) pc (splitPlanes c)
    (splitPosX c m) (splitHalves s pa c m).2

theorem splitTiles_eq (s : State) (pa pc : Place) (c : Word) :
    splitTiles s pa pc c = (List.range 16).foldl (splitStep pa pc c) s := by
  have h0 : nbits c.toNat 3 0 = c.toNat % 16 := by simp [nbits]
  simp only [splitTiles, h0]
  rfl

/-- OSPLIT of the issuing thread in its own local store. -/
theorem splitTiles_issuer {c i : Nat} (t : Thread) (a b : Nat) (w : Word) (s : State) {v : Thread} (hp : v.pend = none)
    (hw : v.watches = t.watches) :
    splitTiles (setThread (chargedState s c) c i v) (.lstore c a) (.lstore c b) w =
      setThread (chargedState (splitTiles s (.lstore c a) (.lstore c b) w) c) c i
        (woken v ((List.range 16).any fun m => codeArms t (.lstore c a) (splitPlanes w) (splitPosA w m) ||
          codeArms t (.lstore c b) (splitPlanes w) (splitPosX w m))) := by
  rw [splitTiles_eq, splitTiles_eq]
  refine foldl_issuer (fun m s v hp hw => ?_) s hp hw
  simp only [splitStep, splitHalves, loadNat_issuer]
  rw [putCode_issuer t _ _ _ _ s v hp hw, putCode_issuer t _ _ _ _ _ (woken v _) hp hw, woken_woken]

/-- OSPLIT in a local store leaves the cycle as it is. -/
theorem splitTiles_keeps (s : State) (k a b : Nat) (w : Word) :
    (splitTiles s (.lstore k a) (.lstore k b) w).turn = s.turn ∧
      curSlot (splitTiles s (.lstore k a) (.lstore k b) w) = curSlot s := by
  have hstore : ∀ (s' : State) (a : Nat) (v : Word), s'.turn = s.turn ∧ curSlot s' = curSlot s →
      (storeWord s' (.lstore k a) v).turn = s.turn ∧ curSlot (storeWord s' (.lstore k a) v) = curSlot s :=
    fun s' a v ⟨h1, h2⟩ =>
      ⟨(wakeCore_keeps _ k _).2.1.trans h1, (wakeCore_keeps _ k _).2.2.trans h2⟩
  have hput : ∀ (s' : State) (a p pos code : Nat), s'.turn = s.turn ∧ curSlot s' = curSlot s →
      (splitTiles.putCode s' (.lstore k a) p pos code).turn = s.turn ∧
        curSlot (splitTiles.putCode s' (.lstore k a) p pos code) = curSlot s :=
    fun s' a p pos code h =>
      List.foldlRecOn (motive := fun s' => s'.turn = s.turn ∧ curSlot s' = curSlot s) _ _ h
        fun s'' h' j _ => hstore s'' _ _ h'
  rw [splitTiles_eq]
  exact List.foldlRecOn (motive := fun s' => s'.turn = s.turn ∧ curSlot s' = curSlot s) _ _ ⟨rfl, rfl⟩
    fun s' h m _ => hput _ _ _ _ _ (hput _ _ _ _ _ h)

end Sys2Proof.Machine

/-! SUPPORT. O49: the bits of a plane tile, what OSPLIT makes of them, and the obligation. -/

namespace Sys2Proof.OutlierSplit

open Sys2Proof.Machine

/-! ### Bits of memory -/

/-- Bit `n` of memory, by its flat address in bits. -/
def memBit (s : State) (n : Nat) : Bool := (memRead s.mem (n / 8)).getLsbD (n % 8)

/-- A number loaded from a local store has the bits of memory. -/
theorem testBit_loadNat (s : State) (k a : Nat) {n i : Nat} (hi : i < 8 * n) :
    (loadNat s (.lstore k a) n).testBit i = memBit s (8 * flat (.lstore k a) + i) := by
  induction n generalizing a i with
  | zero => omega
  | succ n ih =>
    have hsplit : loadNat s (.lstore k a) (n + 1) =
        2 ^ 8 * loadNat s (.lstore k (a + 1)) n + (memRead s.mem (flat (.lstore k a))).toNat := Nat.add_comm _ _
    rw [hsplit, Nat.testBit_two_pow_mul_add _ (BitVec.isLt _)]
    split
    next h8 =>
      rw [memBit, Nat.mul_add_div (by decide), Nat.div_eq_of_lt h8, Nat.add_zero, Nat.mul_add_mod, Nat.mod_eq_of_lt h8,
        BitVec.getLsbD]
    next h8 =>
      have haddr : 8 * flat (.lstore k (a + 1)) + (i - 8) = 8 * flat (.lstore k a) + i := by
        simp only [flat]
        omega
      rw [ih (a + 1) (by omega), haddr]

theorem getLsbD_loadWord (s : State) (k a : Nat) {i : Nat} (hi : i < 32) :
    (loadWord s (.lstore k a)).getLsbD i = memBit s (8 * flat (.lstore k a) + i) := by
  rw [loadWord, BitVec.getLsbD_ofNat, testBit_loadNat s k a (by omega)]
  simp [hi]

/-- A stored word is 32 bits of memory; the others stay as they are. -/
theorem memBit_storeWord (s : State) (k a : Nat) (w : Word) (n : Nat) :
    memBit (storeWord s (.lstore k a) w) n =
      if 8 * flat (.lstore k a) ≤ n ∧ n < 8 * flat (.lstore k a) + 32 then w.getLsbD (n - 8 * flat (.lstore k a))
      else memBit s n := by
  rw [memBit, storeWord, storeNat_mem _ _ _ _ (by nofun), memRead_writeBytes]
  by_cases h : 8 * flat (.lstore k a) ≤ n ∧ n < 8 * flat (.lstore k a) + 32
  · have hidx : n % 8 + 8 * (n / 8 - flat (.lstore k a)) = n - 8 * flat (.lstore k a) := by omega
    rw [if_pos h, if_pos (by omega), BitVec.getLsbD_ofNat, show (256 : Nat) = 2 ^ 8 from rfl, ← Nat.pow_mul,
      Nat.testBit_div_two_pow, hidx, BitVec.getLsbD]
    simp [Nat.mod_lt]
  · rw [if_neg h, if_neg (by omega), memBit]

/-- A word stored back with one bit put changes that bit of memory alone. -/
theorem memBit_storeBit (s : State) (k a : Nat) {i : Nat} (b : Bool) (n : Nat) (hi : i < 32) :
    memBit (storeWord s (.lstore k a) (putBit (loadWord s (.lstore k a)) i b)) n =
      if n = 8 * flat (.lstore k a) + i then b else memBit s n := by
  rw [memBit_storeWord]
  by_cases h : 8 * flat (.lstore k a) ≤ n ∧ n < 8 * flat (.lstore k a) + 32
  · have hback : 8 * flat (.lstore k a) + (n - 8 * flat (.lstore k a)) = n := by omega
    rw [if_pos h, getLsbD_putBit _ _ _ _ (by omega), getLsbD_loadWord s k a (by omega), hback]
    by_cases e : n = 8 * flat (.lstore k a) + i
    · rw [if_pos e, if_pos (by omega)]
    · rw [if_neg e, if_neg (by omega)]
  · rw [if_neg h, if_neg (by omega)]

/-! ### Sums of bits -/

/-- The number of `p` bits. -/
def bitsSum (f : Nat → Bool) (p : Nat) : Nat := ((List.range p).map fun j => if f j then 2 ^ j else 0).sum

theorem bitsSum_succ (f : Nat → Bool) (p : Nat) : bitsSum f (p + 1) = bitsSum f p + if f p then 2 ^ p else 0 := by
  simp [bitsSum, List.range_succ]

theorem bitsSum_congr {f g : Nat → Bool} {p : Nat} (h : ∀ j < p, f j = g j) : bitsSum f p = bitsSum g p := by
  simp only [bitsSum]
  refine congrArg List.sum (List.map_congr_left fun j hj => ?_)
  rw [h j (List.mem_range.mp hj)]

theorem bitsSum_lt (f : Nat → Bool) (p : Nat) : bitsSum f p < 2 ^ p := by
  induction p with
  | zero => exact Nat.one_pos
  | succ p ih =>
    rw [bitsSum_succ, pow_succ]
    split <;> omega

theorem bitAt_eq (x j : Nat) : bitAt x j = (x.testBit j).toNat := by
  rw [bitAt, Nat.toNat_testBit, Nat.shiftRight_eq_div_pow]

theorem bitAt_eq_one (x j : Nat) : decide (bitAt x j = 1) = x.testBit j := by
  rw [bitAt_eq]
  cases x.testBit j <;> rfl

theorem bitsSum_testBit (x p : Nat) : bitsSum x.testBit p = x % 2 ^ p := by
  induction p with
  | zero => simp [bitsSum, Nat.mod_one]
  | succ p ih =>
    rw [bitsSum_succ, ih, Nat.mod_pow_succ, ← Nat.toNat_testBit]
    cases x.testBit p <;> simp

/-! ### Codes of a plane tile -/

theorem codeAt_eq (s : State) (k a p pos : Nat) :
    codeAt s (.lstore k a) p pos = bitsSum (fun j => memBit s (8 * flat (.lstore k a) + 256 * j + pos)) p := by
  refine congrArg List.sum (List.map_congr_left fun j _ => ?_)
  have haddr : 8 * flat (.lstore k (a + (32 * j + 4 * (pos / 32)))) + pos % 32 =
      8 * flat (.lstore k a) + 256 * j + pos := by
    simp only [flat]
    omega
  rw [Place.shift, getLsbD_loadWord s k _ (Nat.mod_lt _ (by decide)), haddr]

/-- The code that the engine reads in a loaded tile is the code of the tile. -/
theorem planeCode_eq_codeAt (s : State) (k a p : Nat) {pos : Nat} (hpos : pos < 256) :
    planeCode p (loadNat s (.lstore k a) (32 * p)) pos = codeAt s (.lstore k a) p pos := by
  have hplane : ∀ data n, planeCode n data pos = bitsSum (fun j => data.testBit (256 * j + pos)) n := fun data n => by
    induction n with
    | zero => rfl
    | succ n ih =>
      have hstep : planeCode (n + 1) data pos = planeCode n data pos + bitAt data (256 * n + pos) * 2 ^ n := by
        simp only [planeCode, List.range_succ, List.foldl_append, List.foldl_cons, List.foldl_nil]
      rw [hstep, ih, bitsSum_succ, bitAt_eq]
      cases data.testBit (256 * n + pos) <;> simp
  rw [hplane, codeAt_eq]
  refine bitsSum_congr fun j hj => ?_
  rw [testBit_loadNat s k a (by omega), Nat.add_assoc]

theorem putCode_succ (s : State) (q : Place) (p pos code : Nat) :
    splitTiles.putCode s q (p + 1) pos code =
      storeWord (splitTiles.putCode s q p pos code) (q.shift (32 * p + 4 * (pos / 32)))
        (putBit (loadWord (splitTiles.putCode s q p pos code) (q.shift (32 * p + 4 * (pos / 32)))) (pos % 32)
          (bitAt code p = 1)) := by
  simp only [splitTiles.putCode, List.range_succ, List.foldl_append, List.foldl_cons, List.foldl_nil]

/-- One more plane of a code puts one more bit of memory. -/
theorem memBit_putCode_succ (s : State) (k a p pos code n : Nat) :
    memBit (splitTiles.putCode s (.lstore k a) (p + 1) pos code) n =
      if n = 8 * flat (.lstore k a) + 256 * p + pos then code.testBit p
      else memBit (splitTiles.putCode s (.lstore k a) p pos code) n := by
  have haddr : 8 * flat (.lstore k (a + (32 * p + 4 * (pos / 32)))) + pos % 32 =
      8 * flat (.lstore k a) + 256 * p + pos := by
    simp only [flat]
    omega
  rw [putCode_succ, Place.shift, memBit_storeBit _ _ _ _ _ (Nat.mod_lt _ (by decide)), haddr, bitAt_eq_one]

theorem memBit_putCode_same (s : State) (k a : Nat) {p j : Nat} (pos code : Nat) (hj : j < p) :
    memBit (splitTiles.putCode s (.lstore k a) p pos code) (8 * flat (.lstore k a) + 256 * j + pos) = code.testBit j := by
  induction p with
  | zero => omega
  | succ p ih =>
    rw [memBit_putCode_succ]
    rcases Nat.lt_succ_iff_lt_or_eq.mp hj with h | rfl
    · rw [if_neg (by omega), ih h]
    · rw [if_pos rfl]

theorem memBit_putCode_other (s : State) (k a : Nat) {p pos n : Nat} (code : Nat)
    (hn : ∀ j < p, n ≠ 8 * flat (.lstore k a) + 256 * j + pos) :
    memBit (splitTiles.putCode s (.lstore k a) p pos code) n = memBit s n := by
  induction p with
  | zero => rfl
  | succ p ih => rw [memBit_putCode_succ, if_neg (hn p (Nat.lt_succ_self p)), ih fun j hj => hn j (Nat.lt_succ_of_lt hj)]

/-- A code is read back as it was written. -/
theorem codeAt_putCode_same (s : State) (k a p pos code : Nat) :
    codeAt (splitTiles.putCode s (.lstore k a) p pos code) (.lstore k a) p pos = code % 2 ^ p := by
  rw [codeAt_eq, ← bitsSum_testBit]
  exact bitsSum_congr fun j hj => memBit_putCode_same s k a pos code hj

/-- The write of a code leaves a code none of whose bits lie in its place. -/
theorem codeAt_putCode_other (s : State) (k a b : Nat) {p pos pos' : Nat} (code : Nat)
    (h : ∀ i < p, ∀ j < p, 8 * b + 256 * i + pos' ≠ 8 * a + 256 * j + pos) :
    codeAt (splitTiles.putCode s (.lstore k a) p pos code) (.lstore k b) p pos' = codeAt s (.lstore k b) p pos' := by
  rw [codeAt_eq, codeAt_eq]
  refine bitsSum_congr fun i hi => memBit_putCode_other s k a code fun j hj e => h i hi j hj ?_
  simp only [flat] at e
  omega

/-! ### The halves of a code -/

/-- A value of `p` bits, unsigned or in two's complement. -/
def ValueFits (uns : Bool) (p : Nat) (v : Int) : Prop :=
  if uns then 0 ≤ v ∧ v < 2 ^ p else -2 ^ (p - 1) ≤ v ∧ v < 2 ^ (p - 1)

theorem valueFits_codeValue (uns : Bool) {p code : Nat} (hp : 0 < p) (h : code < 2 ^ p) :
    ValueFits uns p (codeValue uns p code) := by
  obtain ⟨r, rfl⟩ : ∃ r, p = r + 1 := ⟨p - 1, by omega⟩
  have hpow : (2 : Int) ^ (r + 1) = 2 * 2 ^ r := by ring
  have hc : (code : Int) < 2 ^ (r + 1) := by exact_mod_cast h
  cases uns
  · by_cases hlow : code < 2 ^ r
    · have hl : (code : Int) < 2 ^ r := by exact_mod_cast hlow
      have h0 : (0 : Int) < 2 ^ r := by positivity
      simp only [ValueFits, codeValue, Nat.add_sub_cancel, hlow, Bool.false_eq_true, if_false, Bool.false_or,
        decide_true, if_true]
      omega
    · have hl : (2 : Int) ^ r ≤ code := by exact_mod_cast Nat.le_of_not_lt hlow
      simp only [ValueFits, codeValue, Nat.add_sub_cancel, hlow, Bool.false_eq_true, if_false, Bool.false_or,
        decide_false, hpow]
      omega
  · simp only [ValueFits, codeValue, Bool.true_or, if_true]
    omega

/-- The code of a value that fits has that value. -/
theorem codeValue_emod {uns : Bool} {p : Nat} {v : Int} (hp : 0 < p) (h : ValueFits uns p v) :
    codeValue uns p (v % 2 ^ p).toNat = v := by
  obtain ⟨r, rfl⟩ : ∃ r, p = r + 1 := ⟨p - 1, by omega⟩
  have hpow : (2 : Int) ^ (r + 1) = 2 * 2 ^ r := by ring
  cases uns
  · simp only [ValueFits, Bool.false_eq_true, if_false, Nat.add_sub_cancel] at h
    by_cases h0 : 0 ≤ v
    · have hmod : v % 2 ^ (r + 1) = v := Int.emod_eq_of_lt h0 (by omega)
      have hlow : v.toNat < 2 ^ r := by
        have : ((v.toNat : Nat) : Int) < ((2 ^ r : Nat) : Int) := by push_cast; omega
        exact_mod_cast this
      simp only [codeValue, hmod, Nat.add_sub_cancel, hlow, decide_true, Bool.or_true, if_true]
      omega
    · have hmod : v % 2 ^ (r + 1) = v + 2 ^ (r + 1) := by
        rw [← Int.add_emod_right, Int.emod_eq_of_lt (by omega) (by omega)]
      have hhigh : ¬ (v + 2 ^ (r + 1)).toNat < 2 ^ r := by
        intro hlt
        have : (((v + 2 ^ (r + 1)).toNat : Nat) : Int) < ((2 ^ r : Nat) : Int) := by exact_mod_cast hlt
        push_cast at this
        omega
      simp only [codeValue, hmod, Nat.add_sub_cancel, hhigh, decide_false, Bool.or_false, Bool.false_eq_true, if_false]
      omega
  · simp only [ValueFits, if_true] at h
    have hmod : v % 2 ^ (r + 1) = v := Int.emod_eq_of_lt h.1 h.2
    simp only [codeValue, hmod, Bool.true_or, if_true]
    omega

theorem valueFits_halves {uns : Bool} {p : Nat} {v : Int} (h : ValueFits uns p v) :
    ValueFits uns p (v / 2) ∧ ValueFits uns p (v - v / 2) := by
  cases uns <;> simp only [ValueFits, Bool.false_eq_true, if_false, if_true] at h ⊢ <;> omega

/-- The signed reading of a code of `p` bits. -/
theorem sextNat_eq_codeValue {p code : Nat} (hp : 0 < p) (h : code < 2 ^ p) : sextNat p code = codeValue false p code := by
  obtain ⟨r, rfl⟩ : ∃ r, p = r + 1 := ⟨p - 1, by omega⟩
  rw [sextNat, BitVec.toInt_eq_toNat_cond, BitVec.toNat_ofNat, Nat.mod_eq_of_lt h]
  by_cases hlow : code < 2 ^ r
  · rw [if_pos (by omega)]
    simp only [codeValue, Nat.add_sub_cancel, hlow, decide_true, Bool.or_true, if_true]
  · rw [if_neg (by omega)]
    simp only [codeValue, Nat.add_sub_cancel, hlow, decide_false, Bool.or_false, Bool.false_eq_true, if_false]
    push_cast
    rfl

/-- The halves of a code are the codes of the halves of its value. -/
theorem splitCode_eq (uns : Bool) {p code : Nat} (hp : 0 < p) (h : code < 2 ^ p) :
    splitCode uns p code = ((codeValue uns p code / 2 % 2 ^ p).toNat,
      ((codeValue uns p code - codeValue uns p code / 2) % 2 ^ p).toNat) := by
  cases uns
  · simp only [splitCode, Bool.false_eq_true, if_false, sextNat_eq_codeValue hp h]
  · simp only [splitCode, codeValue, Bool.true_or, if_true]

/-- The value of either half, and with it their sum. -/
theorem splitCode_values (uns : Bool) {p code : Nat} (hp : 0 < p) (h : code < 2 ^ p) :
    codeValue uns p (splitCode uns p code).1 = codeValue uns p code / 2 ∧
      codeValue uns p (splitCode uns p code).2 = codeValue uns p code - codeValue uns p code / 2 := by
  obtain ⟨hlow, hrest⟩ := valueFits_halves (valueFits_codeValue uns hp h)
  rw [splitCode_eq uns hp h]
  exact ⟨codeValue_emod hp hlow, codeValue_emod hp hrest⟩

theorem splitCode_lt (uns : Bool) (p code : Nat) :
    (splitCode uns p code).1 < 2 ^ p ∧ (splitCode uns p code).2 < 2 ^ p := by
  have hlt : ∀ v : Int, (v % 2 ^ p).toNat < 2 ^ p := fun v => by
    have h0 : (0 : Int) < 2 ^ p := by positivity
    have := Int.emod_lt_of_pos v h0
    rw [Int.toNat_lt (Int.emod_nonneg v (by omega))]
    exact_mod_cast this
  exact ⟨hlt _, hlt _⟩

/-! ### What OSPLIT makes of the tiles -/

theorem chanPos_lt (tr : Bool) {k m : Nat} (hk : k < 16) (hm : m < 16) : chanPos tr k m < 256 := by
  cases tr <;> simp only [chanPos, Bool.false_eq_true, if_false, if_true] <;> omega

theorem chanPos_inj (tr : Bool) {k m m' : Nat} (h : chanPos tr k m = chanPos tr k m') : m = m' := by
  cases tr <;> simp only [chanPos, Bool.false_eq_true, if_false, if_true] at h <;> omega

/-- The tiles at `a` and `b` of one local store do not overlap. -/
def Apart (c : Word) (a b : Nat) : Prop := a + 32 * splitPlanes c ≤ b ∨ b + 32 * splitPlanes c ≤ a

section
variable {c : Word} {a b : Nat} (hab : Apart c a b) (k : Nat)

theorem splitPosA_lt {m : Nat} (hm : m < 16) : splitPosA c m < 256 := chanPos_lt _ (Nat.mod_lt _ (by decide)) hm
theorem splitPosX_lt {m : Nat} (hm : m < 16) : splitPosX c m < 256 := chanPos_lt _ (Nat.mod_lt _ (by decide)) hm
theorem splitPosA_inj {m m' : Nat} (h : splitPosA c m = splitPosA c m') : m = m' :=
  chanPos_inj _ h
theorem splitPosX_inj {m m' : Nat} (h : splitPosX c m = splitPosX c m') : m = m' :=
  chanPos_inj _ h

/-- Codes of one tile at two positions share no bit. -/
theorem bits_ne_of_pos_ne {a p pos pos' : Nat} (h : pos < 256) (h' : pos' < 256) (hne : pos' ≠ pos) :
    ∀ i < p, ∀ j < p, 8 * a + 256 * i + pos' ≠ 8 * a + 256 * j + pos := by
  intro i _ j _ e
  omega

include hab

/-- Codes of the two tiles share no bit. -/
theorem bits_ne_of_apart {pos pos' : Nat} (h : pos < 256) (h' : pos' < 256) :
    ∀ i < splitPlanes c, ∀ j < splitPlanes c, 8 * b + 256 * i + pos' ≠ 8 * a + 256 * j + pos := by
  intro i hi j hj e
  rcases hab with hab | hab <;> omega

theorem Apart.symm : Apart c b a := Or.symm hab

/-- A step leaves the first tile's code at another position as it is. -/
theorem codeAt_splitStep_other (s : State) {m m' : Nat} (hm : m < 16) (hm' : m' < 16) (hne : m' ≠ m) :
    codeAt (splitStep (.lstore k a) (.lstore k b) c s m) (.lstore k a) (splitPlanes c) (splitPosA c m') =
      codeAt s (.lstore k a) (splitPlanes c) (splitPosA c m') := by
  rw [splitStep, codeAt_putCode_other _ _ _ _ _ (bits_ne_of_apart hab.symm (splitPosX_lt hm) (splitPosA_lt hm')),
    codeAt_putCode_other _ _ _ _ _ (bits_ne_of_pos_ne (splitPosA_lt hm) (splitPosA_lt hm') fun e => hne (splitPosA_inj e))]

/-- A step leaves the second tile's code at another position as it is. -/
theorem codeAt_splitStep_other_second (s : State) {m m' : Nat} (hm : m < 16) (hm' : m' < 16) (hne : m' ≠ m) :
    codeAt (splitStep (.lstore k a) (.lstore k b) c s m) (.lstore k b) (splitPlanes c) (splitPosX c m') =
      codeAt s (.lstore k b) (splitPlanes c) (splitPosX c m') := by
  rw [splitStep, codeAt_putCode_other _ _ _ _ _
      (bits_ne_of_pos_ne (splitPosX_lt hm) (splitPosX_lt hm') fun e => hne (splitPosX_inj e)),
    codeAt_putCode_other _ _ _ _ _ (bits_ne_of_apart hab (splitPosA_lt hm) (splitPosX_lt hm'))]

/-- A step puts the halves of its position's code into the two tiles. -/
theorem codeAt_splitStep_same (s : State) {m : Nat} (hm : m < 16) :
    let h := splitCode (c.getLsbD 13) (splitPlanes c) (codeAt s (.lstore k a) (splitPlanes c) (splitPosA c m))
    codeAt (splitStep (.lstore k a) (.lstore k b) c s m) (.lstore k a) (splitPlanes c) (splitPosA c m) = h.1 ∧
      codeAt (splitStep (.lstore k a) (.lstore k b) c s m) (.lstore k b) (splitPlanes c) (splitPosX c m) = h.2 := by
  intro h
  have hh : splitHalves s (.lstore k a) c m = h := by
    rw [splitHalves, planeCode_eq_codeAt s k a _ (splitPosA_lt hm)]
  obtain ⟨h1, h2⟩ := splitCode_lt (c.getLsbD 13) (splitPlanes c)
    (codeAt s (.lstore k a) (splitPlanes c) (splitPosA c m))
  constructor
  · rw [splitStep, hh, codeAt_putCode_other _ _ _ _ _ (bits_ne_of_apart hab.symm (splitPosX_lt hm) (splitPosA_lt hm)),
      codeAt_putCode_same, Nat.mod_eq_of_lt h1]
  · rw [splitStep, hh, codeAt_putCode_same, Nat.mod_eq_of_lt h2]

/-- After the first `n` codes a position among them has the halves of its old code, and any other its old code. -/
theorem codeAt_foldl_splitStep (s : State) {n m : Nat} (hn : n ≤ 16) (hm : m < 16) :
    let s' := (List.range n).foldl (splitStep (.lstore k a) (.lstore k b) c) s
    let code := codeAt s (.lstore k a) (splitPlanes c) (splitPosA c m)
    let h := splitCode (c.getLsbD 13) (splitPlanes c) code
    (n ≤ m → codeAt s' (.lstore k a) (splitPlanes c) (splitPosA c m) = code) ∧
      (m < n → codeAt s' (.lstore k a) (splitPlanes c) (splitPosA c m) = h.1 ∧
        codeAt s' (.lstore k b) (splitPlanes c) (splitPosX c m) = h.2) := by
  induction n with
  | zero => exact ⟨fun _ => rfl, fun h => absurd h (Nat.not_lt_zero m)⟩
  | succ n ih =>
    obtain ⟨hold, hnew⟩ := ih (by omega)
    simp only [List.range_succ, List.foldl_append, List.foldl_cons, List.foldl_nil]
    refine ⟨fun hle => ?_, fun hlt => ?_⟩
    · rw [codeAt_splitStep_other hab k _ (by omega) hm (by omega), hold (by omega)]
    · rcases Nat.lt_succ_iff_lt_or_eq.mp hlt with h | rfl
      · rw [codeAt_splitStep_other hab k _ (by omega) hm (by omega),
          codeAt_splitStep_other_second hab k _ (by omega) hm (by omega)]
        exact hnew h
      · have hstep := codeAt_splitStep_same hab k ((List.range m).foldl (splitStep (.lstore k a) (.lstore k b) c) s) hm
        rwa [hold le_rfl] at hstep

/-- OSPLIT leaves half of every code, rounded down, in the first tile and the rest in the second. -/
theorem splitTiles_values (s : State) {m : Nat} (hm : m < 16) :
    let value (s : State) (q : Place) (pos : Nat) : Int :=
      codeValue (c.getLsbD 13) (splitPlanes c) (codeAt s q (splitPlanes c) pos)
    let after := splitTiles s (.lstore k a) (.lstore k b) c
    value after (.lstore k a) (splitPosA c m) = value s (.lstore k a) (splitPosA c m) / 2 ∧
      value after (.lstore k a) (splitPosA c m) + value after (.lstore k b) (splitPosX c m) =
        value s (.lstore k a) (splitPosA c m) := by
  intro value after
  obtain ⟨hA, hX⟩ := (codeAt_foldl_splitStep hab k s le_rfl hm).2 hm
  have hlt : codeAt s (.lstore k a) (splitPlanes c) (splitPosA c m) < 2 ^ splitPlanes c := by
    rw [codeAt_eq]
    exact bitsSum_lt _ _
  obtain ⟨hlow, hrest⟩ := splitCode_values (c.getLsbD 13) (Nat.succ_pos _) hlt
  have ha : value after (.lstore k a) (splitPosA c m) = value s (.lstore k a) (splitPosA c m) / 2 := by
    simp only [value, after, splitTiles_eq, hA]
    exact hlow
  have hx : value after (.lstore k b) (splitPosX c m) =
      value s (.lstore k a) (splitPosA c m) - value s (.lstore k a) (splitPosA c m) / 2 := by
    simp only [value, after, splitTiles_eq, hX]
    exact hrest
  exact ⟨ha, by rw [ha, hx]; ring⟩

end

/-! ### OSPLIT -/

/-- An address of a local segment resolves to the core's own local store, or not at all. -/
theorem resolve_local (s : State) (c : Nat) {d : Desc} (off : Int) (n al : Nat) (need : Need) (hd : segType d = 2) :
    (∃ e, resolve s c d off n al need = .error e) ∨ ∃ b, resolve s c d off n al need = .ok (.at (.lstore c b)) := by
  simp only [resolve, hd]
  split_ifs <;> simp

/-- A range of the thread's own local store lies in it. -/
theorem ownRange_lstore {s : State} {x : Ctx} {t : Thread} {a : Word} {n : Nat} {need : Need} {p : Place}
    (h : ownRange s x t a n need = .ok p) : ∃ b, p = .lstore x.core b := by
  unfold ownRange at h
  split at h
  · cases h
  next hty =>
    have hlocal : segType ((t.segs[selOf a]?).getD 0) = 2 := by simpa using hty
    rcases resolve_local s x.core (offOf a) n 32 need hlocal with ⟨e, he⟩ | ⟨b, hb⟩
    · rw [he] at h
      cases h
    · rw [hb] at h
      cases h
      exact ⟨b, rfl⟩

theorem ownRange_issued (u : Use) (s : State) (t : Thread) (x : Ctx) (a : Word) (n : Nat) (need : Need) :
    ownRange (issuedState u s t) x (issuedThread u s t) a n need = ownRange s x t a n need := by
  simp only [ownRange, segs_issuedThread, resolve_issuedState]

/-- What OSPLIT issues with. -/
def osplitUse (o : ShR3) : Use :=
  { (o.use []) with srcs := o.a.toNat :: (o.use []).srcs, names := o.a.toNat :: (o.use []).names, once := true }

/-- OSPLIT, as an operation. -/
def osplitOp (o : ShR3) (x : Ctx) (t : Thread) (s : State) : Res :=
  let c := rdReg t o.b.toNat
  let n := 32 * splitPlanes c
  if !mayIssue s x none then .wait .waitMem id
  else
    match ownRange s x t (rdReg t o.a.toNat) n needRW with
    | .error e => .trap e 2 (rdReg t o.a.toNat)
    | .ok pa =>
      match ownRange s x t (rdReg t o.c.toNat) n needW with
      | .error e => .trap e 2 (rdReg t o.c.toNat)
      | .ok pc =>
        let wa := chanWords pa (n / 32) (c.getLsbD 12) (nbits c.toNat 3 0)
        let wc := chanWords pc (n / 32) (c.getLsbD 12) (nbits c.toNat 11 8)
        let bad (ws : List Place) : Bool := ws.any fun w => anyBad s w 4
        if !wordsFree s x (wa ++ wc) then .wait .waitMem id
        else if bad wa || bad wc then
          .trapX ⟨.memerr, 0, if bad wa then rdReg t o.a.toNat else rdReg t o.c.toNat, x.ia, false, 0⟩
            fun s => consumed s x.core
        else .ok (splitTiles s pa pc c)

theorem exec_osplit (o : ShR3) (s : State) : exec (.osplit o) s = issue (osplitUse o) (osplitOp o) s := rfl

theorem wordsFree_clear {s : State} (h : Clear s) (x : Ctx) (ps : List Place) : wordsFree s x ps = true := by
  simp [wordsFree, heldByOther, h.flight, h.resvs]

section
variable {s : State} {t : Thread} {o : ShR3}

/-- The first tile out of range. -/
theorem osplitOp_first (u : Use) (hf : s.flight = []) {e : Cause}
    (ha : ownRange s (issueCtx u s t) t (rdReg t o.a.toNat) (32 * splitPlanes (rdReg t o.b.toNat)) needRW = .error e) :
    osplitOp o (issueCtx u s t) (issuedThread u s t) (issuedState u s t) = .trap e 2 (rdReg t o.a.toNat) := by
  simp only [osplitOp, rdReg_issuedThread, ownRange_issued, ha, mayIssue_clear (issuedState u s t) _ hf]
  rfl

/-- The second tile out of range. -/
theorem osplitOp_second (u : Use) (hf : s.flight = []) {e : Cause} {pa : Place}
    (ha : ownRange s (issueCtx u s t) t (rdReg t o.a.toNat) (32 * splitPlanes (rdReg t o.b.toNat)) needRW = .ok pa)
    (hc : ownRange s (issueCtx u s t) t (rdReg t o.c.toNat) (32 * splitPlanes (rdReg t o.b.toNat)) needW = .error e) :
    osplitOp o (issueCtx u s t) (issuedThread u s t) (issuedState u s t) = .trap e 2 (rdReg t o.c.toNat) := by
  simp only [osplitOp, rdReg_issuedThread, ownRange_issued, ha, hc, mayIssue_clear (issuedState u s t) _ hf]
  rfl

/-- Both tiles in range, and nothing in the way. -/
theorem osplitOp_splits (u : Use) (h : Clear s) {pa pc : Place}
    (ha : ownRange s (issueCtx u s t) t (rdReg t o.a.toNat) (32 * splitPlanes (rdReg t o.b.toNat)) needRW = .ok pa)
    (hc : ownRange s (issueCtx u s t) t (rdReg t o.c.toNat) (32 * splitPlanes (rdReg t o.b.toNat)) needW = .ok pc) :
    osplitOp o (issueCtx u s t) (issuedThread u s t) (issuedState u s t) =
      .ok (splitTiles (issuedState u s t) pa pc (rdReg t o.b.toNat)) := by
  have hclear := clear_issuedState u s t h
  simp only [osplitOp, rdReg_issuedThread, ownRange_issued, ha, hc, mayIssue_clear (issuedState u s t) _ h.flight,
    wordsFree_clear hclear, anyBad_clear _ _ _ hclear.bads]
  simp

/-- OSPLIT completes over the split tiles; the thread changes in nothing but its own WAKE. -/
theorem osplit_completes (h : Issues (osplitUse o) s t) (hclear : Clear s) (hp : t.pend = none) {pa pc : Place}
    (ha : ownRange s (issueCtx (osplitUse o) s t) t (rdReg t o.a.toNat) (32 * splitPlanes (rdReg t o.b.toNat)) needRW =
      .ok pa)
    (hc : ownRange s (issueCtx (osplitUse o) s t) t (rdReg t o.c.toNat) (32 * splitPlanes (rdReg t o.b.toNat)) needW =
      .ok pc) :
    CompletesFrom (.osplit o) s (splitTiles s pa pc (rdReg t o.b.toNat))
      (goesTo
        (woken (issuedThread (osplitUse o) s t) ((List.range 16).any fun m =>
          codeArms t pa (splitPlanes (rdReg t o.b.toNat)) (splitPosA (rdReg t o.b.toNat) m) ||
            codeArms t pc (splitPlanes (rdReg t o.b.toNat)) (splitPosX (rdReg t o.b.toNat) m)))
        (pcAfter t (osplitUse o).words)) := by
  have hop := osplitOp_splits (osplitUse o) hclear ha hc
  obtain ⟨a, rfl⟩ := ownRange_lstore ha
  obtain ⟨b, rfl⟩ := ownRange_lstore hc
  obtain ⟨hturn, hcur⟩ := splitTiles_keeps s s.turn a b (rdReg t o.b.toNat)
  obtain ⟨full, part, wear, hv⟩ := issuedThread_eq (osplitUse o) s t
  have hpend : (issuedThread (osplitUse o) s t).pend = none := by rw [hv, hp]
  have hwatch : (issuedThread (osplitUse o) s t).watches = t.watches := by rw [hv]
  refine completes_onto hturn hcur (exec_osplit o s) h ?_
  rw [hop]
  exact congrArg Res.ok (splitTiles_issuer t a b (rdReg t o.b.toNat) s hpend hwatch)

end

theorem any_or_any {α : Type} (l : List α) (f g : α → Bool) : (l.any fun x => f x || g x) = (l.any f || l.any g) := by
  induction l with
  | nil => rfl
  | cons x l ih =>
    simp only [List.any_cons, ih]
    cases f x <;> cases g x <;> cases l.any f <;> rfl

theorem outlierSplit : Claim.OutlierSplit := by
  intro s t o pa pc u x c p h
  refine ⟨fun e he hf => ?_, fun e ha he hf => ?_, fun hclear hp ha hc => ?_, fun k a b m hpa hpc hab hm => ?_⟩
  · exact traps_of (exec_osplit o s) h (osplitOp_first u hf he)
  · exact traps_of (exec_osplit o s) h (osplitOp_second u hf ha he)
  · have hwake : (issuedThread u s t).wake = t.wake := by
      obtain ⟨full, part, wear, hv⟩ := issuedThread_eq u s t
      rw [hv]
    have hdone := osplit_completes h hclear hp ha hc
    simp only [woken, codeArms, ← any_or_any] at hdone
    rw [← hwake]
    exact hdone
  · subst hpa hpc
    exact splitTiles_values hab k s hm

end Sys2Proof.OutlierSplit

namespace Sys2Proof.Machine

/-- Settles O49, part by part: precision and duplication, amax registers, accumulator tiles, OSPLIT. -/
theorem matrixRegisters : Obligations.MatrixRegisters :=
  ⟨precisionAndMap, amaxRegisters, accumulatorAccess, OutlierSplit.outlierSplit⟩

end Sys2Proof.Machine

/-! What the integer operations compute (O31 to O34; R49 to R54): each operation of the model against the arithmetic that its
rule writes. -/

namespace Sys2Proof.Machine

/-! ### Sums, products and shifts (R49, R50) -/

theorem add_eq_ofNat (b c : Word) : b + c = BitVec.ofNat 32 (b.toNat + c.toNat) := by simp [BitVec.ofNat_add]

theorem add_wordOf (a : Word) (x : Int) : a + wordOf x = BitVec.ofInt 32 (a.toInt + x) := by
  rw [BitVec.ofInt_add, BitVec.ofInt_toInt, wordOf]

theorem sub_eq_ofInt (b c : Word) : b - c = BitVec.ofInt 32 (b.toNat - c.toNat : Int) := by
  rw [eq_comm, sub_eq_add_neg, BitVec.ofInt_add, BitVec.ofInt_neg, sub_eq_add_neg]
  simp

theorem mul_eq_ofInt (b c : Word) : b * c = BitVec.ofInt 32 (b.toInt * c.toInt) := by simp [BitVec.ofInt_mul]

theorem shlWord_eq_ofNat (b c : Word) : shlWord b c = BitVec.ofNat 32 (b.toNat * 2 ^ (c.toNat % 32)) :=
  BitVec.eq_of_toNat_eq (by simp [shlWord, amount, Nat.shiftLeft_eq])

theorem shrWord_eq_ofNat (b c : Word) : shrWord b c = BitVec.ofNat 32 (b.toNat / 2 ^ (c.toNat % 32)) := by
  have hlt : b.toNat / 2 ^ (c.toNat % 32) < 2 ^ 32 := (Nat.div_le_self _ _).trans_lt b.isLt
  refine BitVec.eq_of_toNat_eq ?_
  rw [BitVec.toNat_ofNat, Nat.mod_eq_of_lt hlt, shrWord, amount, BitVec.toNat_ushiftRight, Nat.shiftRight_eq_div_pow]

theorem sraWord_eq_ofInt (b c : Word) : sraWord b c = BitVec.ofInt 32 (b.toInt / 2 ^ (c.toNat % 32)) := by
  simp [sraWord, amount, BitVec.sshiftRight, Int.shiftRight_eq_div_pow]

/-! ### Division (R51) -/

theorem eq_minWord_iff (b : Word) : b = 0x80000000 ↔ b.toInt = -2 ^ 31 := BitVec.toInt_inj.symm

theorem eq_allOnes_iff (c : Word) : c = 0xFFFFFFFF ↔ c.toInt = -1 := BitVec.toInt_inj.symm

/-- The three steps of a signed division. -/
theorem divS_eq (b c : Word) :
    divS b c =
      if c = 0 then (0xFFFFFFFF, b) else if b.toInt = -2 ^ 31 ∧ c.toInt = -1 then (0x80000000, 0)
      else (BitVec.ofInt 32 (b.toInt.tdiv c.toInt), BitVec.ofInt 32 (b.toInt.tmod c.toInt)) := by
  simp only [divS, Bool.and_eq_true, decide_eq_true_eq, eq_minWord_iff, eq_allOnes_iff, wordOf]

theorem divS_identity (b c : Word) : b = (divS b c).1 * c + (divS b c).2 := by
  rw [divS]
  split
  case isTrue hzero => simp [hzero]
  case isFalse =>
    split
    case isTrue hover =>
      obtain ⟨rfl, rfl⟩ : b = 0x80000000 ∧ c = 0xFFFFFFFF := by simpa using hover
      decide
    case isFalse =>
      calc b = BitVec.ofInt 32 (b.toInt.tdiv c.toInt * c.toInt + b.toInt.tmod c.toInt) := by
            rw [Int.tdiv_mul_add_tmod, BitVec.ofInt_toInt]
        _ = wordOf (b.toInt.tdiv c.toInt) * c + wordOf (b.toInt.tmod c.toInt) := by
            rw [BitVec.ofInt_add, BitVec.ofInt_mul, BitVec.ofInt_toInt, wordOf, wordOf]

theorem divU_identity (b c : Word) : b = (divU b c).1 * c + (divU b c).2 := by
  rw [divU]
  split
  case isTrue hzero => simp [hzero]
  case isFalse =>
    calc b = BitVec.ofNat 32 (b.toNat / c.toNat * c.toNat + b.toNat % c.toNat) := by
          rw [Nat.div_add_mod', BitVec.ofNat_toNat, BitVec.setWidth_eq]
      _ = BitVec.ofNat 32 (b.toNat / c.toNat) * c + BitVec.ofNat 32 (b.toNat % c.toNat) := by
          rw [BitVec.ofNat_add, BitVec.ofNat_mul, BitVec.ofNat_toNat 32 c, BitVec.setWidth_eq]

/-! ### Relations, minima and maxima (R51, R54) -/

theorem relLt_eq_decide (b c : Word) : relLt b c = decide (b.toInt < c.toInt) := BitVec.slt_eq_decide
theorem relLtu_eq_decide (b c : Word) : relLtu b c = decide (b.toNat < c.toNat) := BitVec.ult_eq_decide
theorem relLe_eq_decide (b c : Word) : relLe b c = decide (b.toInt ≤ c.toInt) := BitVec.sle_eq_decide
theorem relLeu_eq_decide (b c : Word) : relLeu b c = decide (b.toNat ≤ c.toNat) := BitVec.ule_eq_decide

theorem minS_eq_ofInt (b c : Word) : minS b c = BitVec.ofInt 32 (min b.toInt c.toInt) := by
  simp only [minS, relLt_eq_decide, decide_eq_true_eq, min_comm b.toInt, min_def_lt, apply_ite (BitVec.ofInt 32),
    BitVec.ofInt_toInt]

theorem maxS_eq_ofInt (b c : Word) : maxS b c = BitVec.ofInt 32 (max b.toInt c.toInt) := by
  simp only [maxS, relLt_eq_decide, decide_eq_true_eq, max_def_lt, apply_ite (BitVec.ofInt 32),
    BitVec.ofInt_toInt]

theorem minU_eq_ofNat (b c : Word) : minU b c = BitVec.ofNat 32 (min b.toNat c.toNat) := by
  simp only [minU, relLtu_eq_decide, decide_eq_true_eq, min_comm b.toNat, min_def_lt, apply_ite (BitVec.ofNat 32),
    BitVec.ofNat_toNat, BitVec.setWidth_eq]

theorem maxU_eq_ofNat (b c : Word) : maxU b c = BitVec.ofNat 32 (max b.toNat c.toNat) := by
  simp only [maxU, relLtu_eq_decide, decide_eq_true_eq, max_def_lt, apply_ite (BitVec.ofNat 32),
    BitVec.ofNat_toNat, BitVec.setWidth_eq]

/-! ### Bits (R52, R53) -/

/-- How far a test holds from 0 on, below a bound. -/
theorem length_takeWhile_range {p : Nat → Bool} {n k : Nat} (hk : k ≤ n) (hlt : ∀ i < k, p i = true)
    (hstop : k < n → p k = false) : ((List.range n).takeWhile p).length = k := by
  obtain ⟨m, rfl⟩ := Nat.exists_eq_add_of_le hk
  rw [List.range_add, List.takeWhile_append_of_pos (by simpa using hlt)]
  cases m with
  | zero => simp
  | succ m => simp [List.range_succ_eq_map, hstop (by omega)]

/-- The bits above the logarithm are 0, and the bit at it is 1. -/
theorem clzWord_eq_takeWhile (b : Word) :
    clzWord b = BitVec.ofNat 32 ((List.range 32).takeWhile fun k => !b.getLsbD (31 - k)).length := by
  rw [clzWord]
  split
  case isTrue hzero =>
    rw [length_takeWhile_range le_rfl (by simp [hzero]) (by simp)]
    rfl
  case isFalse hne =>
    have hn : b.toNat ≠ 0 := fun h => hne (BitVec.eq_of_toNat_eq h)
    have hlog : b.toNat.log2 < 32 := (Nat.log2_lt hn).mpr b.isLt
    rw [length_takeWhile_range (k := 31 - b.toNat.log2) (by omega)]
    · intro i hi
      have hhigh : b.toNat < 2 ^ (31 - i) := (Nat.log2_lt hn).mp (by omega)
      rw [BitVec.getLsbD, Nat.testBit_lt_two_pow hhigh, Bool.not_false]
    · intro _
      have htop : 31 - (31 - b.toNat.log2) = b.toNat.log2 := by omega
      rw [htop, BitVec.getLsbD, Nat.testBit_log2 hn, Bool.not_true]

theorem ctzFrom_eq_takeWhile (k n : Nat) (b : Word) :
    ctzFrom k n b = BitVec.ofNat 32 (n + ((List.range k).takeWhile fun j => !b.getLsbD (n + j)).length) := by
  induction k generalizing n with
  | zero => rfl
  | succ k ih =>
    rw [ctzFrom, ih, List.range_succ_eq_map, List.takeWhile_cons]
    cases h : b.getLsbD n
    · simp only [Bool.not_false, if_true, List.takeWhile_map, List.length_cons, List.length_map,
        Function.comp_def, Nat.succ_eq_add_one, ← Nat.add_assoc, Nat.add_right_comm n 1]
      rfl
    · simp

theorem ctzWord_eq_takeWhile (b : Word) :
    ctzWord b = BitVec.ofNat 32 ((List.range 32).takeWhile fun k => !b.getLsbD k).length := by
  simpa only [ctzWord, Nat.zero_add] using ctzFrom_eq_takeWhile 32 0 b

theorem getLsbD_brevWord (b : Word) (i : Nat) (hi : i < 32) : (brevWord b).getLsbD i = b.getLsbD (31 - i) := by
  rw [brevWord, BitVec.getLsbD_reverse, BitVec.getMsbD, decide_eq_true hi, Bool.true_and]

theorem rotWord_eq_or (b c : Word) : rotWord b c = b <<< (c.toNat % 32) ||| b >>> (32 - c.toNat % 32) := by
  rw [rotWord, amount, BitVec.rotateLeft_def, Nat.mod_mod]

theorem wordOf_sextNat (n : Nat) (a : Word) : wordOf (sextNat n a.toNat) = (a.setWidth n).signExtend 32 := by
  rw [sextNat, BitVec.ofNat_toNat, wordOf, BitVec.signExtend]

theorem ofNat_mod_two_pow (n : Nat) (a : Word) : BitVec.ofNat 32 (a.toNat % 2 ^ n) = (a.setWidth n).setWidth 32 := by
  rw [← BitVec.ofNat_toNat 32 (a.setWidth n), BitVec.toNat_setWidth]

end Sys2Proof.Machine

/-! What the integer, compare, flag and control instructions leave (O6, O31 to O34): the shape of each over its
operation. -/

namespace Sys2Proof.Machine

/-! ### The shapes, with a result written another way -/

theorem GivesT.congr {mk : ShT → Instr} {paged : Bool} {f g : Word → Word → Word} (h : GivesT mk paged f)
    (hfg : ∀ b c, f b c = g b c) : GivesT mk paged g := funext₂ hfg ▸ h

theorem GivesU.congr {mk : ShU → Instr} {paged : Bool} {f g : Word → Word} (h : GivesU mk paged f)
    (hfg : ∀ b, f b = g b) : GivesU mk paged g := funext hfg ▸ h

theorem GivesI.congr {mk : ShI → Instr} {paged : Bool} {f g : Word → Imm → Word} (h : GivesI mk paged f)
    (hfg : ∀ a imm, f a imm = g a imm) : GivesI mk paged g := funext₂ hfg ▸ h

theorem GivesK.congr {mk : ShK → Instr} {f g : Word → Word → Bool} (h : GivesK mk f)
    (hfg : ∀ b c, f b c = g b c) : GivesK mk g := funext₂ hfg ▸ h

/-- The effect of shape I. -/
theorem gives_I (mk : ShI → Instr) (paged : Bool) (f : Word → Imm → Word)
    (he : ∀ o s, exec (mk o) s = runI paged o (fun a => f a o.imm) s) : GivesI mk paged f := fun s t o h =>
  effect_ok_of (mk o) _ _ s t _ _ (he o s) h (fun _ _ _ => rfl) (by simp)

/-! ### Page 0 (R49) -/

theorem pageZeroArithmetic : Claim.PageZeroArithmetic :=
  ⟨(gives_T .add false (· + ·) fun _ _ => rfl).congr add_eq_ofNat,
    (gives_T .sub false (· - ·) fun _ _ => rfl).congr sub_eq_ofInt,
    gives_T .and false _ fun _ _ => rfl,
    gives_T .or false _ fun _ _ => rfl,
    gives_T .xor false _ fun _ _ => rfl,
    gives_T .andn false _ fun _ _ => rfl,
    (gives_T .shl false shlWord fun _ _ => rfl).congr shlWord_eq_ofNat,
    (gives_T .shr false shrWord fun _ _ => rfl).congr shrWord_eq_ofNat,
    (gives_T .sra false sraWord fun _ _ => rfl).congr sraWord_eq_ofInt,
    (gives_T .mul false (· * ·) fun _ _ => rfl).congr mul_eq_ofInt,
    gives_U .mov false _ fun _ _ => rfl,
    fun _ => rfl, fun _ => rfl⟩

/-- Settles O31: each instruction is its shape over one operation, whose result is the one R49 writes. -/
theorem integerArithmetic : Obligations.IntegerArithmetic := pageZeroArithmetic

/-! ### Immediates (R50) and bit instructions (R52, R53) -/

theorem pageZeroImmediates : Claim.PageZeroImmediates :=
  ⟨(gives_I .addi false (fun a imm => a + wordOf (imm.value 5)) fun _ _ => rfl).congr fun _ _ => add_wordOf _ _,
    gives_I .andi false _ fun _ _ => rfl,
    (gives_I .shli false (fun a imm => shlWord a (imm.raw.setWidth 32)) fun _ _ => rfl).congr fun _ _ => by
      rw [shlWord_eq_ofNat, BitVec.setWidth_eq],
    (gives_I .shri false (fun a imm => shrWord a (imm.raw.setWidth 32)) fun _ _ => rfl).congr fun _ _ => by
      rw [shrWord_eq_ofNat, BitVec.setWidth_eq],
    (gives_I .srai false (fun a imm => sraWord a (imm.raw.setWidth 32)) fun _ _ => rfl).congr fun _ _ => by
      rw [sraWord_eq_ofInt, BitVec.setWidth_eq],
    fun s t o h => effect_ok_of (.movi o) _ _ s t _ _ rfl h (fun _ _ _ => rfl) rfl⟩

theorem bitInstructions : Claim.BitInstructions :=
  ⟨(gives_U .clz true clzWord fun _ _ => rfl).congr clzWord_eq_takeWhile,
    (gives_U .ctz true ctzWord fun _ _ => rfl).congr ctzWord_eq_takeWhile,
    gives_U .popc true popWord fun _ _ => rfl,
    ⟨brevWord, getLsbD_brevWord, gives_U .brev true brevWord fun _ _ => rfl⟩,
    (gives_I .sext true (fun a imm => wordOf (sextNat (Imm.width imm) a.toNat)) fun _ _ => rfl).congr fun a imm =>
      wordOf_sextNat (Imm.width imm) a,
    (gives_I .zext true (fun a imm => BitVec.ofNat 32 (a.toNat % 2 ^ Imm.width imm)) fun _ _ => rfl).congr fun a imm =>
      ofNat_mod_two_pow (Imm.width imm) a,
    (gives_T .rot true rotWord fun _ _ => rfl).congr rotWord_eq_or,
    fun _ => rfl, fun _ => rfl⟩

/-- Settles O32: the immediates by the operations of page 0, the counts of zeros by the bits around the logarithm and by
the scan from bit 0. -/
theorem immediates : Obligations.Immediates := ⟨pageZeroImmediates, bitInstructions⟩

/-! ### Arithmetic of page 1 (R51) -/

theorem divisionResults : Claim.DivisionResults :=
  ⟨(gives_T .div true (fun b c => (divS b c).1) fun _ _ => rfl).congr fun b c => by
      simp only [divS_eq, apply_ite Prod.fst],
    (gives_T .rem true (fun b c => (divS b c).2) fun _ _ => rfl).congr fun b c => by
      simp only [divS_eq, apply_ite Prod.snd],
    (gives_T .divu true (fun b c => (divU b c).1) fun _ _ => rfl).congr fun b c => by
      simp only [divU, apply_ite Prod.fst],
    (gives_T .remu true (fun b c => (divU b c).2) fun _ _ => rfl).congr fun b c => by
      simp only [divU, apply_ite Prod.snd]⟩

theorem divisionIdentity : Claim.DivisionIdentity := fun b c => ⟨divS_identity b c, divU_identity b c⟩

theorem pageOneArithmetic : Claim.PageOneArithmetic :=
  ⟨gives_T .mulh true mulHigh fun _ _ => rfl,
    gives_T .mulhu true mulHighU fun _ _ => rfl,
    (gives_T .min true minS fun _ _ => rfl).congr minS_eq_ofInt,
    (gives_T .max true maxS fun _ _ => rfl).congr maxS_eq_ofInt,
    (gives_T .minu true minU fun _ _ => rfl).congr minU_eq_ofNat,
    (gives_T .maxu true maxU fun _ _ => rfl).congr maxU_eq_ofNat,
    fun _ => rfl⟩

/-- Settles O33: the steps of R51 with their special cases written over the signed values; the identity is that of
truncated division, taken modulo 2^32. -/
theorem division : Obligations.Division := ⟨divisionResults, divisionIdentity, pageOneArithmetic⟩

/-! ### Compares, flags and SEL (R54 to R58) -/

/-- The effect of a compare against an immediate. -/
theorem effect_cmpImm {i : Instr} {o : ShI} {f : Word → Word → Bool} {s : State} {t : Thread}
    (he : exec i s = runCmpImm o f s) (h : Issues { o.use false with dsts := [] } s t) :
    Effect i { o.use false with dsts := [] } s t
      (fun v => setFlag v 1 (f (rdReg t o.a.toNat) (BitVec.ofInt 32 (o.imm.value 5))))
      (pcAfter t (o.use false).words) :=
  effect_ok_of i _ _ s t _ _ he h (fun _ _ _ => rfl) (by simp only [rdReg_issuedThread, wordOf])

theorem compares : Claim.Compares :=
  ⟨fun _ => rfl,
    gives_K .ceq relEq fun _ _ => rfl,
    gives_K .cne relNe fun _ _ => rfl,
    (gives_K .clt relLt fun _ _ => rfl).congr relLt_eq_decide,
    (gives_K .cltu relLtu fun _ _ => rfl).congr relLtu_eq_decide,
    (gives_K .cle relLe fun _ _ => rfl).congr relLe_eq_decide,
    (gives_K .cleu relLeu fun _ _ => rfl).congr relLeu_eq_decide,
    fun _ _ _ h => ⟨effect_cmpImm (f := relEq) rfl h, effect_cmpImm (f := relLt) rfl h⟩⟩

theorem flagInstructions : Claim.FlagInstructions :=
  ⟨fun _ => rfl,
    gives_L .fAnd flagAnd fun _ _ => rfl,
    gives_L .fOr flagOr fun _ _ => rfl,
    gives_L .fXor flagXor fun _ _ => rfl,
    fun s t =>
      ⟨fun o h => effect_ok_of (.fNot o) _ _ s t _ _ rfl h (fun _ _ _ => rfl) (by simp),
        fun o h => effect_ok_of (.mff o) _ _ s t _ _ rfl h (fun _ _ _ => rfl) (by simp),
        fun o h => effect_ok_of (.mtf o) _ _ s t _ _ rfl h (fun _ _ _ => rfl) (by simp [maskedFlags, setFlags]),
        fun o h => effect_ok_of (.sel o) _ _ s t _ _ rfl h (fun _ _ _ => rfl) (by simp)⟩⟩

/-- Settles O34: each instruction writes what its relation or its flag logic gives, read from the thread as it was. -/
theorem comparesAndFlags : Obligations.ComparesAndFlags := ⟨compares, flagInstructions⟩

/-! ### Branches, calls and LOOP (R59 to R62) -/

/-- A branch on a flag goes to its target where the flag has the value that it asks for, else past itself. -/
theorem effect_branch {i : Instr} {o : ShFB} {on : Bool} {s : State} {t : Thread} (he : exec i s = runBranch o on s)
    (h : Issues o.use s t) :
    Effect i o.use s t id
      (if getFlag t o.f.toNat = on then t.pc + BitVec.ofInt 32 (2 * o.imm.value 5) else pcAfter t o.use.words) :=
  completes_jump i _ _ s t _ _ he h fun _ => by rw [getFlag_issuedThread]; rfl

/-- What LOOP does, by the value that it finds in its register. -/
theorem effect_loop {o : ShI} {s : State} {t : Thread} (h : Issues (o.use true) s t) :
    (rdReg t o.a.toNat = 0 → Effect (.loop o) (o.use true) s t id (pcAfter t (o.use true).words)) ∧
    (rdReg t o.a.toNat ≠ 0 →
      Effect (.loop o) (o.use true) s t (fun v => wrReg v o.a.toNat (rdReg t o.a.toNat - 1))
        (if rdReg t o.a.toNat - 1 != 0 then t.pc + BitVec.ofInt 32 (2 * o.imm.value 5)
          else pcAfter t (o.use true).words)) := by
  constructor
  · intro hzero
    refine completes_ok (.loop o) _ _ s t _ rfl h fun _ => ?_
    rw [rdReg_issuedThread, if_pos hzero]
    rfl
  · intro hne
    refine completes_jump (.loop o) _ _ s t _ _ rfl h fun _ => ?_
    rw [rdReg_issuedThread, if_neg hne]
    rfl

/-- Settles O6: the thread jumps, after CALL, JALR or LOOP has written its register; LOOP goes on without a jump or a write
where it finds 0. -/
theorem controlFlow : Obligations.ControlFlow := by
  refine fun s t => ⟨fun o h => ?br, fun o h => ⟨?bf, ?bnf⟩, fun o h => ?call, fun o h => ?jr, fun o h => ?jalr,
    fun o h => ?loop⟩
  case br => exact completes_jump (.br o) _ _ s t _ _ rfl h fun _ => rfl
  case bf => exact effect_branch rfl h
  case bnf => simpa only [← Bool.not_eq_true, ite_not] using effect_branch (i := .bnf o) (on := false) rfl h
  case call => exact completes_jump (.call o) _ _ s t _ _ rfl h fun _ => rfl
  case jr => exact completes_jump (.jr o) _ _ s t _ _ rfl h fun _ => by rw [rdReg_issuedThread]; rfl
  case jalr => exact completes_jump (.jalr o) _ _ s t _ _ rfl h fun _ => by rw [rdReg_issuedThread]; rfl
  case loop =>
    obtain ⟨hzero, hcount⟩ := effect_loop h
    refine ⟨hzero, fun hone => ?_, fun hne hnotone => ?_⟩
    · simpa [hone] using hcount (by simp [hone])
    · simpa only [bne_iff_ne, sub_ne_zero, ne_eq, hnotone, not_false_eq_true, if_true] using hcount hne

end Sys2Proof.Machine

/-! Resolution (O9): R66's order of refusals before a segment's type is looked at, and after them what each type names. -/

namespace Sys2Proof.Machine

/-- The right that a load or a store needs. -/
theorem segGrants_loadStore (d : Desc) (load : Bool) :
    segGrants d (if load then needR else needW) = if load then segR d else segW d := by
  cases load <;> simp [segGrants, needR, needW]

/-- A core without a pair keeps no commit area (R285). -/
theorem not_commitArea {s : State} {c la n : Nat} (h : (getCore s c).pairs = []) : ¬ commitArea s c la n = true := by
  simp [commitArea_eq, h]

/-! ### The checks that every type makes (R66) -/

section
variable {s : State} {c : Nat} {d : Desc} {off : Int} {n : Nat} {need : Need}

theorem resolve_ungranted (h : segType d = 0 ∨ segGrants d need = false) : resolve s c d off n n need = .error .segv := by
  rw [resolve, if_pos (by simpa using h)]

/-- A type and the rights are there, and the offset has 29 bits: what the checks of alignment and limit find. -/
structure Addressed (d : Desc) (off : Int) (need : Need) : Prop where
  typed : segType d ≠ 0
  granted : segGrants d need = true
  low : 0 ≤ off
  high : off < 2 ^ 29

theorem Addressed.not_outside (ha : Addressed d off need) : ¬ (off < 0 ∨ 536870912 ≤ off) := by
  have hlo := ha.low
  have hhi := ha.high
  omega

theorem resolve_outside (hty : segType d ≠ 0) (hg : segGrants d need = true) (h : off < 0 ∨ 2 ^ 29 ≤ off) :
    resolve s c d off n n need = .error .segv := by
  rw [resolve, if_neg (by simp [hty, hg]), if_pos (by simpa using h)]

theorem resolve_misaligned (ha : Addressed d off need) (h : off.toNat % n ≠ 0) :
    resolve s c d off n n need = .error .align := by
  rw [resolve, if_neg (by simp [ha.typed, ha.granted]), if_neg (by simpa using ha.not_outside)]
  exact if_pos (by simpa using h)

theorem resolve_past_limit (ha : Addressed d off need) (hal : off.toNat % n = 0) (h : segLimit d < off.toNat + n - 1) :
    resolve s c d off n n need = .error .segv := by
  rw [resolve, if_neg (by simp [ha.typed, ha.granted]), if_neg (by simpa using ha.not_outside)]
  exact (if_neg (by simpa using hal)).trans (if_pos h)

/-- Every check that does not look at the type is passed. -/
structure Admitted (d : Desc) (off : Int) (n : Nat) (need : Need) : Prop extends Addressed d off need where
  aligned : off.toNat % n = 0
  within : off.toNat + n - 1 ≤ segLimit d

theorem Admitted.not_past_limit (ha : Admitted d off n need) : ¬ segLimit d < off.toNat + n - 1 :=
  Nat.not_lt.mpr ha.within

/-! ### What each type names -/

/-- The types that name one range: the type, the end of what it names, and where address `a` of it leads from core `c`. -/
def ranges (c a : Nat) : List (Nat × Nat × Target) :=
  [(1, 0x4000, .at (.cstore (quadOf c) a)), (2, 0x10000, .at (.lstore c a)), (3, 0x20000, .at (.qstore (quadOf c) a)),
    (4, 0x8000000, .at (.dstore (dieOf c) a)), (5, 2 ^ 48, .virt a)]

section
variable (ha : Admitted d off n need)
include ha

theorem resolve_range {e : Nat × Nat × Target} (he : e ∈ ranges c (segBase d + off.toNat)) (hty : segType d = e.1) :
    resolve s c d off n n need =
      if e.2.1 ≤ segBase d + off.toNat + n - 1 ∨ (e.1 = 2 ∧ commitArea s c (segBase d + off.toNat) n = true) then
        .error .segv
      else .ok e.2.2 := by
  simp only [ranges, List.mem_cons, List.not_mem_nil, or_false] at he
  rcases he with rfl | rfl | rfl | rfl | rfl <;>
    simp [resolve, hty, ha.granted, ha.not_outside, ha.aligned, ha.not_past_limit]

/-- The core and the local address that an offset of a SPREAD segment names (R147, R148). -/
def spreadOwner (d : Desc) (o : Nat) : Nat :=
  segBase d / 2 ^ 16 % 2 ^ 16 + o / 2 ^ (segTarg d % 8 + 6) % (segBase d / 2 ^ 32 % 2 ^ 16 + 1)
def spreadAddr (d : Desc) (o : Nat) : Nat :=
  segBase d % 2 ^ 16 + o / 2 ^ (segTarg d % 8 + 6) / (segBase d / 2 ^ 32 % 2 ^ 16 + 1) * 2 ^ (segTarg d % 8 + 6) +
    o % 2 ^ (segTarg d % 8 + 6)

theorem resolve_spread (hty : segType d = 6) :
    resolve s c d off n n need =
      if 0x10000 ≤ spreadAddr d off.toNat + n - 1 ∨
          commitArea s (spreadOwner d off.toNat) (spreadAddr d off.toNat) n = true then .error .segv
      else if spreadOwner d off.toNat = c then .ok (.at (.lstore c (spreadAddr d off.toNat)))
      else .ok (.away (spreadOwner d off.toNat) (spreadAddr d off.toNat)) := by
  simp [resolve, hty, ha.granted, ha.not_outside, ha.aligned, ha.not_past_limit, spreadOwner, spreadAddr,
    spreadLg, spreadCount, spreadFirst, spreadLocal, nbits]
  rfl

/-- A REMOTE address names its core's local store, its own core's too (log entry 52). -/
theorem resolve_remote (hty : segType d = 7) :
    resolve s c d off n n need =
      if 64 ≤ n ∨ 0x10000 ≤ segBase d % 2 ^ 16 + off.toNat + n - 1 ∨
          presentCore s (segBase d / 2 ^ 16 % 2 ^ 16) = false ∨
          commitArea s (segBase d / 2 ^ 16 % 2 ^ 16) (segBase d % 2 ^ 16 + off.toNat) n = true then .error .segv
      else .ok (.remote (segBase d / 2 ^ 16 % 2 ^ 16) (segBase d % 2 ^ 16 + off.toNat)) := by
  have hown (tc la : Nat) : (if tc = c then Except.ok (ε := Cause) (Target.remote c la) else .ok (.remote tc la)) =
      .ok (.remote tc la) := ite_eq_right_iff.mpr fun h => by rw [h]
  simp [resolve, hty, ha.granted, ha.not_outside, ha.aligned, ha.not_past_limit, nbits, hown, or_assoc]

end

end

/-- Settles O9: the checks of R66 one after another, and what each type names. -/
theorem resolution : Obligations.Resolution := by
  intro s c d off n load hn r right o a
  have hright := segGrants_loadStore d load
  refine ⟨fun h => resolve_ungranted (by rwa [hright]), fun hty hr => ?_⟩
  have hg := hright.trans hr
  refine ⟨resolve_outside hty hg, fun hlo hhi => ?_⟩
  have hat : Addressed d off (if load then needR else needW) := ⟨hty, hg, hlo, hhi⟩
  refine ⟨resolve_misaligned hat, resolve_past_limit hat, fun hal hlim => ?_⟩
  have hin : Admitted d off n (if load then needR else needW) := ⟨hat, hal, hlim⟩
  refine ⟨fun e he hte => ?range, fun hte => ?spread, fun hte => ?remote⟩
  case range =>
    have hres := resolve_range (s := s) (c := c) hin he hte
    refine ⟨fun hend => hres.trans (if_pos (.inl hend)), fun hend hpair => hres.trans (if_neg ?_)⟩
    rintro (h | ⟨h2, h⟩)
    · exact Nat.not_le.mpr hend h
    · exact not_commitArea (hpair h2) h
  case spread =>
    have hres := resolve_spread (s := s) (c := c) hin hte
    refine ⟨fun hend => hres.trans (if_pos (.inl hend)), fun hend hpair => hres.trans ((if_neg ?_).trans ?_)⟩
    · rintro (h | h)
      · exact Nat.not_le.mpr hend h
      · exact not_commitArea hpair h
    · exact (apply_ite Except.ok _ _ _).symm
  case remote =>
    have hres := resolve_remote (s := s) (c := c) hin hte
    refine ⟨fun h => hres.trans (if_pos ?_), fun hsize hend hpres hpair => hres.trans (if_neg ?_)⟩
    · rcases h with h | h | h
      · exact .inl h.ge
      · exact .inr (.inl h)
      · exact .inr (.inr (.inl h))
    · rintro (h | h | h | h)
      · exact Nat.not_le.mpr hsize h
      · exact Nat.not_le.mpr hend h
      · exact Bool.false_ne_true (h.symm.trans hpres)
      · exact not_commitArea hpair h

end Sys2Proof.Machine

/-! Traps that instructions raise, returns from traps, and segment writes (O50; R274 to R279). -/

namespace Sys2Proof.Machine

/-! ### An operation that raises a trap or jumps -/

section
variable {i : Instr} {u : Use} {op : Ctx → Thread → State → Res} {s : State} {t : Thread}

/-- An operation that answers with a whole exception, and does nothing else. -/
theorem traps_of_info {x : TrapInfo} (he : exec i s = issue u op s) (h : Issues u s t)
    (hop : op (issueCtx u s t) (issuedThread u s t) (issuedState u s t) = .trapX x id) : Traps i s t x := by
  have hc : threadAt (chargeIssue s s.turn (curSlot s)) s.turn (curSlot s) =
      some (chargeThread t (getCore s s.turn).vt) := by
    rw [chargeIssue_alone s _ _ t h.here h.alone, threadAt_setThread_same _ _ _ _ (curSlot_lt s)]
  rw [Traps, exec_issues i u op s t he h, ← issuedState, hop]
  simp [settle, issueTrap, h.alone, issueCtx, hc]

/-- An operation that ends by writing its thread over counted requests and jumping. -/
theorem completes_counted_jump {k : State} {v : Thread} {pc : Word} (he : exec i s = issue u op s) (h : Issues u s t)
    (hop : op (issueCtx u s t) (issuedThread u s t) (issuedState u s t) =
      .jump (setThread (recount (issuedState u s t) k) s.turn (curSlot s) v) pc) :
    CompletesFrom i s (recount s k) (goesTo v pc) := by
  refine ⟨_, exec_issues i u op s t he h, ?_⟩
  have hk : recount (issuedState u s t) k =
      setThread (chargedState (recount s k) s.turn) s.turn (curSlot s) (issuedThread u s t) := rfl
  rw [← issuedState, hop, hk, setThread_setThread _ _ _ _ _ (curSlot_lt s)]
  simp only [settle, h.alone, pairStep, issueCtx]
  rw [advance_setThread _ _ _ _ _ (curSlot_lt s)]
  exact onlyThread_charged (recount s k) _

end

/-! ### TRAP, SYS and BRK (R274) -/

/-- What SYS waits for is what a default access waits for: the thread's relaxed accesses and its store stream (R169). -/
theorem sysWaits_iff {s : State} {t : Thread} {u : Use} (h : Issues u s t) :
    (!(ownRelaxed (issuedState u s t) s.turn (curSlot s)).isEmpty ||
        !streamIdle (issuedState u s t) s.turn (curSlot s)) = true ↔
      ownRelaxed s s.turn (curSlot s) ≠ [] ∨ streamIdle s s.turn (curSlot s) = false := by
  rw [ownRelaxed_issuedState h.here, streamIdle_issuedState h.here]
  simp

theorem raisedTraps : Claim.RaisedTraps := by
  intro s t o h next
  refine ⟨traps_of_info (i := .trap o) rfl h rfl, traps_of_info (i := .brk o) rfl h rfl, fun hr hs => ?_,
    fun hw => ?_⟩
  · exact traps_of_info (i := .sys o) rfl h (if_neg fun hw => ((sysWaits_iff h).mp hw).elim (· hr) (by simp [hs]))
  · exact waits_of (i := .sys o) rfl h (if_pos ((sysWaits_iff h).mpr hw))

/-! ### ERET and RESUME (R275, R276) -/

theorem putBit_31_false (x : Word) : putBit x 31 false = x &&& 0x7FFFFFFF := rfl

@[simp] theorem tcause_issuedThread (u : Use) (s : State) (t : Thread) : (issuedThread u s t).tcause = t.tcause := by
  obtain ⟨b, p, w, h⟩ := issuedThread_eq u s t
  rw [h]

@[simp] theorem tpc_issuedThread (u : Use) (s : State) (t : Thread) : (issuedThread u s t).tpc = t.tpc := by
  obtain ⟨b, p, w, h⟩ := issuedThread_eq u s t
  rw [h]

@[simp] theorem inTrap_issuedThread (u : Use) (s : State) (t : Thread) : inTrap (issuedThread u s t) = inTrap t := by
  rw [inTrap, tcause_issuedThread, inTrap]

/-- What ERET makes of its thread, before it goes on at TPC. -/
theorem goesTo_returnTrap (t : Thread) (pc : Word) :
    goesTo (returnTrap t) pc = goesTo { t with tcause := t.tcause &&& 0x7FFFFFFF } pc := rfl

theorem effect_eret {s : State} {t : Thread} {o : ShZ} (h : Issues o.use s t) (ht : inTrap t = true) :
    Effect (.eret o) o.use s t (fun v => { v with tcause := t.tcause &&& 0x7FFFFFFF }) t.tpc := by
  have := completes_jump (.eret o) _ _ s t (returnTrap (issuedThread o.use s t)) t.tpc rfl h fun s' => by
    rw [if_pos (by rw [inTrap_issuedThread, ht]), tpc_issuedThread]
    rfl
  rwa [goesTo_returnTrap, tcause_issuedThread] at this

theorem traps_eret {s : State} {t : Thread} {o : ShZ} (h : Issues o.use s t) (ht : inTrap t = false) :
    Traps (.eret o) s t ⟨.illegal, 0, 0, t.pc, false, 0⟩ :=
  traps_of (i := .eret o) rfl h (if_neg (by simp [ht]))

/-! #### The words of a resume frame -/

theorem frameWords_issuedState {u : Use} {s : State} {t : Thread} (ht : threadAt s s.turn (curSlot s) = some t)
    (sel off : Nat) (ks : List Nat) :
    frameWords (issuedState u s t) s.turn (issuedThread u s t) sel off ks = frameWords s s.turn t sel off ks := by
  induction ks with
  | nil => rfl
  | cons k ks ih => simp only [frameWords, locate_issuedState u s t ht, ih]

/-- A frame whose words all lead to their places has its first word at one. -/
theorem locate_of_frameWords {s : State} {c : Nat} {t : Thread} {sel off : Nat} {ks : List Nat}
    {ps : List (Place × List Place)} (h : frameWords s c t sel off (0 :: ks) = .ok ps) :
    ∃ p va passed, locate s c t sel off 4 4 needR = .here p va passed := by
  rw [frameWords] at h
  split at h
  · next p va passed hl => exact ⟨p, va, passed, by simpa using hl⟩
  · cases h

/-- The requests of a frame's words, with the marks that each has met (R328). -/
def countFrame (ps : List (Place × List Place)) (s : State) : State :=
  ps.foldl (fun s p => countAll s s.turn p.1 p.2) s

theorem Counts.eq_recount {f : State → State} (h : Counts f) (s : State) : f s = recount s (f s) :=
  h s s ⟨rfl, rfl⟩

theorem Counts.turn {f : State → State} (h : Counts f) (s : State) : (f s).turn = s.turn := by rw [h.eq_recount]; rfl

theorem counts_frame (c : Nat) (ps : List (Place × List Place)) :
    Counts fun s => ps.foldl (fun s p => countAll s c p.1 p.2) s :=
  Counts.foldl (fun s q => countAll s c q.1 q.2) (fun q => counts_countAll c q.1 q.2) ps

/-- A count leaves the turn alone, so that the core is one and the same for every word. -/
theorem countFrame_eq (ps : List (Place × List Place)) (s : State) {c : Nat} (h : s.turn = c) :
    countFrame ps s = ps.foldl (fun s p => countAll s c p.1 p.2) s := by
  unfold countFrame
  induction ps generalizing s with
  | nil => rw [List.foldl_nil, List.foldl_nil]
  | cons p ps ih =>
    rw [List.foldl_cons, List.foldl_cons, h]
    exact ih _ (((counts_countAll c p.1 p.2).turn s).trans h)

theorem countFrame_recount (ps : List (Place × List Place)) (s : State) :
    countFrame ps s = recount s (countFrame ps s) := by
  rw [countFrame_eq ps s rfl]
  exact (counts_frame s.turn ps).eq_recount s

section
variable {s : State} {t : Thread} {u : Use} {ps : List (Place × List Place)}

/-- The frame's requests are counted over what an issue has made of the state as over the state itself. -/
theorem countFrame_issuedState (u : Use) (s : State) (t : Thread) (ps : List (Place × List Place)) :
    ps.foldl (fun s' p => countAll s' s.turn p.1 p.2) (issuedState u s t) =
      recount (issuedState u s t) (countFrame ps s) := by
  rw [countFrame_eq ps s rfl]
  exact counts_frame s.turn ps s (issuedState u s t) ⟨rfl, rfl⟩

/-- The words at the places of a frame once its requests are counted: a count of requests may be among them (R329). -/
def frameValues (s : State) (ps : List (Place × List Place)) : List Word :=
  ps.map fun p => loadWord (countFrame ps s) p.1

theorem frameValues_issued (u : Use) (s : State) (t : Thread) (ps : List (Place × List Place)) :
    (ps.map (·.1)).map (loadWord (recount (issuedState u s t) (countFrame ps s))) = frameValues s ps := by
  have hm : (countFrame ps s).mem = s.mem := by rw [countFrame_recount]; rfl
  rw [frameValues, List.map_map]
  exact List.map_congr_left fun p _ => congrArg (BitVec.ofNat 32)
    (loadNat_congr (countFrame ps s) (recount (issuedState u s t) (countFrame ps s)) hm.symm rfl p.1 4)

theorem isPeer_of_inside {p : Place} (h : p.inside = true) : p.isPeer = false := by
  cases p with
  | peer => cases h
  | _ => rfl

/-- What reaches places of this package alone counts its requests and goes on (R333). -/
theorem reaching_inside {x : Ctx} {named : Word} {k : State → (State → State) → Res}
    (hp : ∀ q ∈ ps, q.1.inside = true) :
    reaching x t s named ps k =
      k (ps.foldl (fun s p => countAll s x.core p.1 p.2) s)
        (fun s => ps.foldl (fun s p => countAll s x.core p.1 p.2) s) := by
  have hpeer : ps.any (fun p => p.1.isPeer) = false := by
    simpa using fun a b hab => isPeer_of_inside (hp (a, b) hab)
  rw [reaching]
  exact if_pos (by rw [hpeer]; rfl)

/-- A frame that leads to places of this package, where nothing stands in the way, gives its words at once (R276). -/
theorem resumeRead_clear {o : ShU} {v : Word} (hi : Issues u s t) (hc : Clear s)
    (hf : frameWords s s.turn t (selOf v) (offOf v) [0, 1, 2, 3] = .ok ps) (hp : ∀ q ∈ ps, q.1.inside = true) :
    resumeRead (issueCtx u s t) (issuedThread u s t) o.a.toNat v (issuedState u s t) =
      .jump (setThread (recount (issuedState u s t) (countFrame ps s)) s.turn (curSlot s)
          (resumeWith o.a.toNat (frameValues s ps) (issuedThread u s t)))
        (wordAt (frameValues s ps) 0) := by
  obtain ⟨p, va, passed, hl⟩ := locate_of_frameWords hf
  have hflight : (recount (issuedState u s t) (countFrame ps s)).flight = [] := hc.flight
  have hbads : (recount (issuedState u s t) (countFrame ps s)).bads = [] := hc.bads
  have hat : threadAt (recount (issuedState u s t) (countFrame ps s)) s.turn (curSlot s) =
      some (issuedThread u s t) := threadAt_issuedState u s t
  have hbad : (List.range 4).find? (fun k => ((ps.map (·.1))[k]?).any fun p =>
      anyBad (recount (issuedState u s t) (countFrame ps s)) p 4) = none := by
    simp [anyBad_clear _ _ _ hbads]
  simp only [resumeRead, issueCtx_core, locate_issuedState u s t hi.here, hl, frameWords_issuedState hi.here, hf,
    reaching_inside hp, countFrame_issuedState, settleEarlier_none _ _ _ _ hflight, pathHeld_none _ _ _ _ hflight, hbad,
    resumeWords, takeOutside, role_issuedThread, hi.alone, frameValues_issued]
  simp [modThread_some _ _ _ _ _ hat]

end

/-- What RESUME makes of its thread, before it goes on at the frame's PC. -/
theorem goesTo_resumeWith (a : Nat) (ws : List Word) (t : Thread) (pc : Word) :
    goesTo (resumeWith a ws t) pc =
      goesTo { wrReg t a (wordAt ws 2) with tcause := t.tcause &&& 0x7FFFFFFF, f := wordAt ws 1 ||| 1 } pc := by
  rw [← wrReg_tcause t a (wordAt ws 2), ← putBit_31_false]
  rfl

theorem completes_resume {s : State} {t : Thread} {o : ShU} {ps : List (Place × List Place)}
    (h : Issues (o.use true) s t)
    (hal : offOf (rdReg t o.b.toNat) % 16 = 0) (hc : Clear s)
    (hf : frameWords s s.turn t (selOf (rdReg t o.b.toNat)) (offOf (rdReg t o.b.toNat)) [0, 1, 2, 3] = .ok ps)
    (hp : ∀ q ∈ ps, q.1.inside = true) :
    CompletesFrom (.resume o) s (countFrame ps s)
      (goesTo
        { wrReg (issuedThread (o.use true) s t) o.a.toNat (wordAt (frameValues s ps) 2) with
          tcause := t.tcause &&& 0x7FFFFFFF, f := wordAt (frameValues s ps) 1 ||| 1 }
        (wordAt (frameValues s ps) 0)) := by
  have hs1 : countFrame ps s = recount s (countFrame ps s) := countFrame_recount ps s
  have hmay : mayIssue (issuedState (o.use true) s t) (issueCtx (o.use true) s t) none = true :=
    mayIssue_clear _ _ hc.flight
  have hlog : resumeLogged (issuedState (o.use true) s t) (issueCtx (o.use true) s t) (issuedThread (o.use true) s t) =
      false := by
    simp [resumeLogged, h.alone]
  have := completes_counted_jump (i := .resume o) (k := countFrame ps s) (pc := wordAt (frameValues s ps) 0)
    (v := resumeWith o.a.toNat (frameValues s ps) (issuedThread (o.use true) s t)) rfl h (by
      simp only [rdReg_issuedThread, hal, hmay, hlog]
      exact resumeRead_clear h hc hf hp)
  rwa [← hs1, goesTo_resumeWith, tcause_issuedThread] at this

theorem trapReturns : Claim.TrapReturns := by
  refine ⟨rfl, fun s t => ⟨fun o h => ⟨effect_eret h, traps_eret h⟩, fun o h => ⟨fun hal => ?_, ?_⟩⟩⟩
  · exact traps_of (i := .resume o) rfl h (by simp [hal])
  · exact fun ps hal hc hf hp => completes_resume h hal hc hf hp

/-! ### SEGSET (R278, R279) -/

theorem toNat_append_eq {n m : Nat} (x : BitVec n) (y : BitVec m) : (x ++ y).toNat = x.toNat * 2 ^ m + y.toNat := by
  rw [BitVec.toNat_append, ← Nat.shiftLeft_add_eq_or_of_lt y.isLt, Nat.shiftLeft_eq]

/-- Four words are a descriptor, the first its lowest bits (R21). -/
theorem descAt_eq (t : Thread) (b : Nat) :
    descAt t b = rdReg t (b + 3) ++ rdReg t (b + 2) ++ rdReg t (b + 1) ++ rdReg t b := by
  refine BitVec.eq_of_toNat_eq ?_
  have h0 := (rdReg t b).isLt
  have h1 := (rdReg t (b + 1)).isLt
  have h2 := (rdReg t (b + 2)).isLt
  have h3 := (rdReg t (b + 3)).isLt
  have hw : rdRegs t b 4 = [rdReg t b, rdReg t (b + 1), rdReg t (b + 2), rdReg t (b + 3)] := rfl
  simp only [descAt, hw, wordsNat, BitVec.toNat_ofNat, toNat_append_eq]
  omega

section
variable {s : State} {t : Thread} {o : ShSeg}

/-- Outside slot 0, SEGSET of sg0 does not get as far as its registers. -/
theorem exec_segset_refused (h0 : o.sg = 0) (hs : curSlot s ≠ 0) :
    exec (.segset o) s = issue { segsetUse o with names := [], srcs := [] } segsetPriv s :=
  if_pos (by simp [h0, hs])

theorem exec_segset (h : o.sg ≠ 0 ∨ curSlot s = 0) : exec (.segset o) s = issue (segsetUse o) (segsetOp o) s :=
  if_neg (by simpa [imp_iff_not_or] using h)

/-- What SEGSET's operation answers past that, in the order of its checks (log entry 55). -/
theorem segsetOp_issued (h : o.sg ≠ 0 ∨ curSlot s = 0) (u : Use) (s' : State) :
    segsetOp o (issueCtx u s t) (issuedThread u s t) s' =
      if ¬ (curSlot s = 0 ∨ withinEnvelope (descAt t o.b.toNat) ((t.envs[o.sg.toNat]?).getD 0) = true) then
        .trap .priv 0 0
      else if segValid (descAt t o.b.toNat) = false then .trap .segv 0 (o.sg.setWidth 32)
      else if streamUses t o.sg.toNat = true then .trap .queue 0 0
      else done s' (issueCtx u s t)
        { issuedThread u s t with segs := t.segs.setIfInBounds o.sg.toNat (segClean (descAt t o.b.toNat)) } := by
  obtain ⟨b, p, w, e⟩ := issuedThread_eq u s t
  have hdesc : descAt (issuedThread u s t) o.b.toNat = descAt t o.b.toNat := by
    simp only [descAt, rdRegs, rdReg_issuedThread]
  have henvs : (issuedThread u s t).envs = t.envs := by rw [e]
  have hstreams : streamUses (issuedThread u s t) = streamUses t := by rw [e]; rfl
  have hn : BitVec.ofNat 32 o.sg.toNat = o.sg.setWidth 32 := BitVec.ofNat_toNat 32 o.sg
  have hpriv : (curSlot s != 0 && (decide (o.sg.toNat = 0) ||
      !withinEnvelope (descAt t o.b.toNat) ((t.envs[o.sg.toNat]?).getD 0))) = true ↔
      ¬ (curSlot s = 0 ∨ withinEnvelope (descAt t o.b.toNat) ((t.envs[o.sg.toNat]?).getD 0) = true) := by
    rcases h with h | h
    · have hnz : o.sg.toNat ≠ 0 := fun e => h (BitVec.eq_of_toNat_eq e)
      simp [hnz]
    · simp [h]
  simp only [segsetOp, hdesc, henvs, hstreams, segs_issuedThread, issueCtx_slot, hn, hpriv, Bool.not_eq_true']

end

theorem segmentWrites : Claim.SegmentWrites := by
  intro s t o
  refine ⟨fun h0 hs h => traps_of (exec_segset_refused h0 hs) h rfl, fun hsg h => ?_⟩
  intro d free
  have hd : descAt t o.b.toNat = d := descAt_eq t o.b.toNat
  have he := exec_segset hsg
  have hop := segsetOp_issued (t := t) hsg (segsetUse o)
  simp only [hd] at hop
  refine ⟨fun hf => ?priv, fun hf hv => ?segv, fun hf hv hs => ?queue, fun hf hv hs => ?done⟩
  case priv => exact traps_of he h (by rw [hop, if_pos hf])
  case segv => exact traps_of he h (by rw [hop, if_neg (not_not.mpr hf), if_pos hv])
  case queue => exact traps_of he h (by rw [hop, if_neg (not_not.mpr hf), if_neg (by simp [hv]), if_pos hs])
  case done =>
    refine completes_ok (.segset o) _ _ s t _ he h fun s' => ?_
    rw [hop, if_neg (not_not.mpr hf), if_neg (by simp [hv]), if_neg (by simp [hs])]
    rfl

/-- Settles O50: TRAP, SYS and BRK answer with their exception, ERET and RESUME end in a jump, and SEGSET answers by its
checks in their order. -/
theorem trapsAndReturns : Obligations.TrapsAndReturns := ⟨raisedTraps, trapReturns, segmentWrites⟩

end Sys2Proof.Machine

/-! The counting of tagged and vector accesses (O15, O40): as for plain loads (O10), an access whose core number is that of
the host port counts no request, so a state whose turn stands at that number refutes the count. -/

namespace Sys2Proof.Machine

/-! ### Tagged accesses -/

/-- A thread whose g8 names byte 0 of its GLOBAL segment 1, which grants T too. -/
def portTagThread : Thread :=
  { portThread with segs := (Vector.replicate 8 segNone).set 1 (mkSeg 5 0 0xFFFFF 0b110111 0) }

/-- The host port's number at its turn, with that thread. -/
def portTagState : State := setThread portState hostCore 1 portTagThread

theorem issues_portTag : Issues (portOperand.useLoad true).oncely portTagState portTagThread := by
  constructor <;> decide +kernel

theorem clear_portTagState : Clear portTagState := by constructor <;> decide +kernel

theorem wordAt_portTag : WordAt portTagState portTagThread portOperand.b portOperand.imm
    (portOperand.mem.idxVal portTagThread) needRT portPlace (some 0) := by
  constructor <;> decide +kernel

theorem keepsCounters_portTag : keepsCounters (.lde portOperand) portTagState = true := by decide +kernel

theorem countAll_portTagState : (countAll portTagState portTagState.turn portPlace []).counters ≠ portTagState.counters := by
  decide +kernel

/-- Refutes O15: nothing in its hypotheses keeps the turn below the cores of the package, and at the number of the host port
an LDE of a full GLOBAL word completes with no request counted, where the statement counts one in die 0's frame. -/
theorem not_taggedAccesses : ¬ Obligations.TaggedAccesses := by
  intro h
  obtain ⟨hlde, -⟩ := h portTagState portTagThread portOperand portPlace (some 0) rfl clear_portTagState rfl
  obtain ⟨hfull, -⟩ := hlde issues_portTag wordAt_portTag
  exact not_completesFrom keepsCounters_portTag countAll_portTagState (hfull (by decide +kernel))

/-! ### Vectors -/

/-- v0 and the 64 bytes that g8 names. -/
def portVector : ShMV := ⟨⟨false, 0⟩, 0, 8, none, ⟨0, 0⟩, none⟩

theorem issues_portVector : Issues portVector.useLoad portState portThread := by
  constructor <;> decide +kernel

theorem keepsCounters_portVector : keepsCounters (.ldv portVector) portState = true := by decide +kernel

/-- Refutes O40: the same turn, where LDV fills its sixteen lanes with no request counted. -/
theorem not_vectorMemory : ¬ Obligations.VectorMemory := by
  rintro ⟨h, -⟩
  obtain ⟨hldv, -⟩ := h portState portThread portVector portPlace (some 0) rfl clear_portState rfl rfl
  exact not_completesFrom keepsCounters_portVector (by decide +kernel) (hldv issues_portVector (by decide +kernel))

end Sys2Proof.Machine

/-! SUPPORT. O37: the rounding rule of R79. The nearest integer, the nearest code of a floating format, and what `convert`
gives for a fraction. -/

namespace Sys2Proof.Machine

/-! ### The nearest integer -/

theorem nearestEven_spec (n : Nat) {d : Nat} (hd : 0 < d) :
    2 * n ≤ (2 * nearestEven n d + 1) * d ∧ 2 * nearestEven n d * d ≤ 2 * n + d ∧
      (2 * n = (2 * nearestEven n d + 1) * d ∨ 2 * nearestEven n d * d = 2 * n + d → nearestEven n d % 2 = 0) := by
  have hn : d * (n / d) + n % d = n := Nat.div_add_mod n d
  have hr : n % d < d := Nat.mod_lt n hd
  have key : ∀ y, (y = n / d ∧ 2 * (n % d) ≤ d ∧ (2 * (n % d) = d → y % 2 = 0)) ∨
      (y = n / d + 1 ∧ d ≤ 2 * (n % d) ∧ (2 * (n % d) = d → y % 2 = 0)) →
      2 * n ≤ (2 * y + 1) * d ∧ 2 * y * d ≤ 2 * n + d ∧
        (2 * n = (2 * y + 1) * d ∨ 2 * y * d = 2 * n + d → y % 2 = 0) := by
    rintro y (⟨rfl, hle, htie⟩ | ⟨rfl, hle, htie⟩)
    · have h1 : (2 * (n / d) + 1) * d = 2 * (d * (n / d)) + d := by ring
      have h2 : 2 * (n / d) * d = 2 * (d * (n / d)) := by ring
      rw [h1, h2]
      exact ⟨by omega, by omega, fun h => htie (by omega)⟩
    · have h1 : (2 * (n / d + 1) + 1) * d = 2 * (d * (n / d)) + 3 * d := by ring
      have h2 : 2 * (n / d + 1) * d = 2 * (d * (n / d)) + 2 * d := by ring
      rw [h1, h2]
      exact ⟨by omega, by omega, fun h => htie (by omega)⟩
  refine key _ ?_
  unfold nearestEven
  split
  next h => exact .inl ⟨rfl, by omega, by omega⟩
  next h =>
    split
    next h' => exact .inr ⟨rfl, by omega, by omega⟩
    next h' =>
      split
      next he => exact .inl ⟨rfl, by omega, fun _ => he⟩
      next ho => exact .inr ⟨rfl, by omega, by omega⟩

theorem nearestEven_exact_iff (n : Nat) {d : Nat} (hd : 0 < d) : nearestEven n d * d = n ↔ n % d = 0 := by
  refine ⟨fun h => by rw [← h]; exact Nat.mul_mod_left _ d, fun h => ?_⟩
  rw [nearestEven, if_pos (by omega)]
  exact Nat.div_mul_cancel (Nat.dvd_of_mod_eq_zero h)

/-- A fraction that an integer bounds rounds to within the same bound. -/
theorem nearestEven_le {n d m : Nat} (hd : 0 < d) (h : n ≤ m * d) : nearestEven n d ≤ m := by
  obtain ⟨-, hle, htie⟩ := nearestEven_spec n hd
  by_contra hm
  have hge : (m + 1) * d ≤ nearestEven n d * d := Nat.mul_le_mul_right d (by omega)
  rw [Nat.add_one_mul] at hge
  rw [mul_assoc] at hle
  omega

theorem le_nearestEven {n d m : Nat} (hd : 0 < d) (h : m * d ≤ n) : m ≤ nearestEven n d := by
  obtain ⟨hge, -, -⟩ := nearestEven_spec n hd
  by_contra hm
  have hle : (nearestEven n d + 1) * d ≤ m * d := Nat.mul_le_mul_right d (by omega)
  have e : (2 * nearestEven n d + 1) * d = 2 * (nearestEven n d * d) + d := by ring
  rw [Nat.add_one_mul] at hle
  omega

/-! ### Powers of two as fractions -/

theorem scaleFrac_pos (n : Nat) {d : Nat} (hd : 0 < d) (e : Int) : 0 < (scaleFrac n d e).2 := by
  unfold scaleFrac
  split
  · exact hd
  · exact Nat.mul_pos hd (by positivity)

/-- A scaled fraction is the fraction times the power of two. -/
theorem scaleFrac_eq (n : Nat) {d : Nat} (hd : 0 < d) (e : Int) :
    ((scaleFrac n d e).1 : ℚ) / (scaleFrac n d e).2 = n / d * 2 ^ e := by
  unfold scaleFrac
  split
  next h =>
    obtain ⟨k, rfl⟩ := Int.eq_ofNat_of_zero_le h
    push_cast [Int.toNat_natCast, zpow_natCast]
    ring
  next h =>
    obtain ⟨k, rfl⟩ : ∃ k : Nat, e = -(k : Int) := ⟨(-e).toNat, by omega⟩
    push_cast [neg_neg, Int.toNat_natCast, zpow_neg, zpow_natCast]
    field_simp

/-- `floorLog2` is the exponent of the power of two at or below the fraction. -/
theorem floorLog2_spec {n d : Nat} (hn : 0 < n) (hd : 0 < d) :
    (2 : ℚ) ^ floorLog2 n d ≤ n / d ∧ (n : ℚ) / d < 2 ^ (floorLog2 n d + 1) := by
  have hd' : (0 : ℚ) < d := by exact_mod_cast hd
  obtain ⟨g, hg⟩ : ∃ g : Int, g = (Nat.log2 n : Int) - Nat.log2 d := ⟨_, rfl⟩
  have hlow (m : Nat) (hm : 0 < m) : (2 : ℚ) ^ (Nat.log2 m : Int) ≤ m := by
    rw [zpow_natCast]
    exact_mod_cast Nat.log2_self_le hm.ne'
  have hhigh (m : Nat) : (m : ℚ) < 2 ^ ((Nat.log2 m : Int) + 1) := by
    have : m < 2 ^ (Nat.log2 m + 1) := Nat.lt_log2_self
    exact_mod_cast this
  have hup : (n : ℚ) / d < 2 ^ (g + 1) := by
    rw [div_lt_iff₀ hd']
    calc (n : ℚ) < 2 ^ ((Nat.log2 n : Int) + 1) := hhigh n
      _ = 2 ^ (g + 1) * 2 ^ (Nat.log2 d : Int) := by rw [← zpow_add₀ two_ne_zero, hg]; congr 1; ring
      _ ≤ 2 ^ (g + 1) * d := by gcongr; exact hlow d hd
  have hdown : (2 : ℚ) ^ (g - 1) ≤ n / d := by
    rw [le_div_iff₀ hd']
    calc (2 : ℚ) ^ (g - 1) * d ≤ 2 ^ (g - 1) * 2 ^ ((Nat.log2 d : Int) + 1) := by gcongr; exact (hhigh d).le
      _ = 2 ^ (Nat.log2 n : Int) := by rw [← zpow_add₀ two_ne_zero, hg]; congr 1; ring
      _ ≤ n := hlow n hn
  have htest : (if 0 ≤ g then d * 2 ^ g.toNat ≤ n else d ≤ n * 2 ^ (-g).toNat) ↔ (2 : ℚ) ^ g ≤ n / d := by
    rw [le_div_iff₀ hd']
    split
    next h =>
      obtain ⟨k, hk⟩ := Int.eq_ofNat_of_zero_le h
      rw [hk, Int.toNat_natCast, zpow_natCast, mul_comm]
      exact_mod_cast Iff.rfl
    next h =>
      obtain ⟨k, hk⟩ : ∃ k : Nat, g = -(k : Int) := ⟨(-g).toNat, by omega⟩
      rw [hk, neg_neg, Int.toNat_natCast, zpow_neg, zpow_natCast, inv_mul_le_iff₀ (by positivity), mul_comm]
      exact_mod_cast Iff.rfl
  have hcase : floorLog2 n d = if (2 : ℚ) ^ g ≤ n / d then g else g - 1 := by
    simp only [floorLog2, ← hg]
    by_cases h : 0 ≤ g
    · rw [if_pos h] at htest
      simp only [if_pos h, htest]
    · rw [if_neg h] at htest
      simp only [if_neg h, htest]
  rw [hcase]
  split
  next h => exact ⟨h, hup⟩
  next h => exact ⟨hdown, by simpa using h⟩

/-! ### Codes of a floating format (R77) -/

/-- A code built from a binade and a significand of it, or the first one of the next, has that many units. -/
theorem codeUnits_binade (f : Fmt) {k y : Nat} (hy : y ≤ 2 ^ (f.mant + 1)) (hk : k = 0 ∨ 2 ^ f.mant ≤ y) :
    codeUnits f (k * 2 ^ f.mant + y) = y * 2 ^ k := by
  have hp : 0 < 2 ^ f.mant := by positivity
  rw [pow_succ] at hy
  unfold codeUnits
  rcases Nat.lt_or_ge y (2 ^ f.mant) with hlt | hge
  · obtain rfl : k = 0 := hk.resolve_right (by omega)
    rw [Nat.zero_mul, Nat.zero_add, if_pos (Nat.div_eq_of_lt hlt), pow_zero, mul_one]
  · obtain ⟨z, rfl⟩ := Nat.exists_eq_add_of_le hge
    have ha : k * 2 ^ f.mant + (2 ^ f.mant + z) = 2 ^ f.mant * (k + 1) + z := by ring
    rw [ha, Nat.mul_add_div hp, Nat.mul_add_mod]
    rcases Nat.lt_or_ge z (2 ^ f.mant) with hz | hz
    · rw [Nat.div_eq_of_lt hz, Nat.mod_eq_of_lt hz, if_neg (by omega)]
      rfl
    · obtain rfl : z = 2 ^ f.mant := by omega
      rw [Nat.div_self hp, Nat.mod_self, if_neg (by omega), show k + 1 + 1 - 1 = k + 1 by omega]
      ring

/-- Every code is one of a binade. -/
theorem exists_binade (f : Fmt) (a : Nat) :
    ∃ k y, a = k * 2 ^ f.mant + y ∧ y < 2 ^ (f.mant + 1) ∧ (k = 0 ∨ 2 ^ f.mant ≤ y) := by
  have hp : 0 < 2 ^ f.mant := by positivity
  have ha := Nat.div_add_mod a (2 ^ f.mant)
  have hm := Nat.mod_lt a hp
  rw [pow_succ]
  cases he : a / 2 ^ f.mant with
  | zero =>
    rw [he, mul_zero] at ha
    exact ⟨0, a, by omega, by omega, .inl rfl⟩
  | succ k =>
    rw [he, mul_add, mul_one, mul_comm] at ha
    exact ⟨k, 2 ^ f.mant + a % 2 ^ f.mant, by omega, by omega, .inr (by omega)⟩

theorem codeUnits_strictMono (f : Fmt) : StrictMono (codeUnits f) := by
  refine strictMono_nat_of_lt_succ fun a => ?_
  obtain ⟨k, y, rfl, hy, hk⟩ := exists_binade f a
  rw [codeUnits_binade f hy.le hk, add_assoc, codeUnits_binade f hy (hk.imp_right fun h => by omega)]
  exact Nat.mul_lt_mul_of_pos_right (by omega) (by positivity)

theorem codeUnits_zero (f : Fmt) : codeUnits f 0 = 0 := by simp [codeUnits]

/-- No code above a rounded one has fewer units than the next significand. -/
theorem codeUnits_above (f : Fmt) {k y b : Nat} (hy : y ≤ 2 ^ (f.mant + 1)) (hk : k = 0 ∨ 2 ^ f.mant ≤ y)
    (hb : k * 2 ^ f.mant + y < b) : (y + 1) * 2 ^ k ≤ codeUnits f b := by
  refine le_trans ?_ ((codeUnits_strictMono f).monotone hb)
  rcases hy.lt_or_eq with hlt | rfl
  · rw [Nat.succ_eq_add_one, add_assoc, codeUnits_binade f hlt (hk.imp_right fun h => by omega)]
  · have hnext : (k * 2 ^ f.mant + 2 ^ (f.mant + 1)).succ = (k + 1) * 2 ^ f.mant + (2 ^ f.mant + 1) := by
      rw [Nat.succ_eq_add_one, pow_succ]
      ring
    have hp : 1 ≤ 2 ^ f.mant := Nat.one_le_two_pow
    rw [hnext, codeUnits_binade f (by rw [pow_succ]; omega) (.inr (by omega)), pow_succ, pow_succ]
    calc (2 ^ f.mant * 2 + 1) * 2 ^ k ≤ ((2 ^ f.mant + 1) * 2) * 2 ^ k := Nat.mul_le_mul_right _ (by omega)
      _ = (2 ^ f.mant + 1) * (2 ^ k * 2) := by ring

/-! ### The nearest code (R79) -/

/-- No code is nearer to num/den than `a`, and of two as near `a` is the one whose lowest bit is 0. -/
def NearestCode (f : Fmt) (num den a : Nat) : Prop :=
  ∀ b, (a < b → 2 * num ≤ (codeUnits f a + codeUnits f b) * den ∧
      (2 * num = (codeUnits f a + codeUnits f b) * den → a % 2 = 0)) ∧
    (b < a → (codeUnits f a + codeUnits f b) * den ≤ 2 * num ∧
      (2 * num = (codeUnits f a + codeUnits f b) * den → a % 2 = 0))

/-- A fraction rounded in its binade gives its nearest code: the binade's unit is 2^k, and the fraction lies in it, or below
the first one. -/
theorem nearestCode_binade (f : Fmt) (hp : 0 < f.mant) {m d k : Nat} (hd : 0 < d) (hlt : m < 2 ^ (f.mant + 1) * d)
    (hk : k = 0 ∨ 2 ^ f.mant * d ≤ m) :
    NearestCode f (m * 2 ^ k) d (k * 2 ^ f.mant + nearestEven m d) ∧
      codeUnits f (k * 2 ^ f.mant + nearestEven m d) = nearestEven m d * 2 ^ k := by
  obtain ⟨hup, hdown, htie⟩ := nearestEven_spec m hd
  have hy : nearestEven m d ≤ 2 ^ (f.mant + 1) := nearestEven_le hd hlt.le
  have hk' : k = 0 ∨ 2 ^ f.mant ≤ nearestEven m d := hk.imp_right (le_nearestEven hd)
  have hK : 0 < 2 ^ k := by positivity
  generalize hyy : nearestEven m d = y at *
  have hu := codeUnits_binade f hy hk'
  have heven : y % 2 = 0 → (k * 2 ^ f.mant + y) % 2 = 0 := fun h => by
    obtain ⟨p, hp⟩ := Nat.exists_eq_add_of_lt hp
    rw [show f.mant = p + 1 by omega, pow_succ, ← mul_assoc]
    omega
  refine ⟨fun b => ⟨fun hb => ?_, fun hb => ?_⟩, hu⟩
  · rw [hu]
    have hub := codeUnits_above f hy hk' hb
    have hmid : 2 * (m * 2 ^ k) ≤ ((2 * y + 1) * d) * 2 ^ k := by
      calc 2 * (m * 2 ^ k) = (2 * m) * 2 ^ k := by ring
        _ ≤ _ := Nat.mul_le_mul_right _ hup
    have hsum : ((2 * y + 1) * d) * 2 ^ k ≤ (y * 2 ^ k + codeUnits f b) * d := by
      calc ((2 * y + 1) * d) * 2 ^ k = (y * 2 ^ k + (y + 1) * 2 ^ k) * d := by ring
        _ ≤ _ := Nat.mul_le_mul_right _ (by omega)
    refine ⟨hmid.trans hsum, fun he => heven (htie (.inl ?_))⟩
    refine Nat.eq_of_mul_eq_mul_right hK ?_
    calc (2 * m) * 2 ^ k = 2 * (m * 2 ^ k) := by ring
      _ = _ := le_antisymm hmid (he ▸ hsum)
  · have hlow : codeUnits f b < y * 2 ^ k := hu ▸ codeUnits_strictMono f hb
    rw [hu]
    rcases Nat.lt_or_ge m (y * d) with hm | hm
    · -- the fraction was rounded up, so the code before `a` is of the same binade
      have hstep : k * 2 ^ f.mant + y = k * 2 ^ f.mant + (y - 1) + 1 := by
        rcases Nat.eq_zero_or_pos y with rfl | h
        · simp at hm
        · omega
      have hk1 : k = 0 ∨ 2 ^ f.mant ≤ y - 1 := hk.imp_right fun h => by
        have hlt : 2 ^ f.mant < y := Nat.lt_of_mul_lt_mul_right (h.trans_lt hm)
        omega
      have hub : codeUnits f b ≤ (y - 1) * 2 ^ k := by
        rw [← codeUnits_binade f (show y - 1 ≤ _ by omega) hk1]
        exact (codeUnits_strictMono f).monotone (by omega)
      obtain ⟨z, rfl⟩ : ∃ z, y = z + 1 := ⟨y - 1, by omega⟩
      rw [Nat.add_sub_cancel] at hub
      have hmid : ((2 * z + 1) * d) * 2 ^ k ≤ 2 * (m * 2 ^ k) := by
        have : (2 * z + 1) * d ≤ 2 * m := by
          have e1 : 2 * (z + 1) * d = (2 * z + 1) * d + d := by ring
          omega
        calc ((2 * z + 1) * d) * 2 ^ k ≤ (2 * m) * 2 ^ k := Nat.mul_le_mul_right _ this
          _ = _ := by ring
      have hsum : ((z + 1) * 2 ^ k + codeUnits f b) * d ≤ ((2 * z + 1) * d) * 2 ^ k := by
        calc ((z + 1) * 2 ^ k + codeUnits f b) * d ≤ ((z + 1) * 2 ^ k + z * 2 ^ k) * d := Nat.mul_le_mul_right _ (by omega)
          _ = _ := by ring
      refine ⟨hsum.trans hmid, fun he => heven (htie (.inr ?_))⟩
      have e2 : (2 * z + 1) * d = 2 * m := by
        refine Nat.eq_of_mul_eq_mul_right hK ?_
        calc ((2 * z + 1) * d) * 2 ^ k = 2 * (m * 2 ^ k) := le_antisymm hmid (he ▸ hsum)
          _ = _ := by ring
      rw [← e2]
      ring
    · -- the fraction lies at the code's value or above it
      have hnum : y * 2 ^ k * d ≤ m * 2 ^ k := by
        calc y * 2 ^ k * d = y * d * 2 ^ k := by ring
          _ ≤ _ := Nat.mul_le_mul_right _ hm
      have hlow' : codeUnits f b * d < y * 2 ^ k * d := Nat.mul_lt_mul_of_pos_right hlow hd
      have e : (y * 2 ^ k + codeUnits f b) * d = y * 2 ^ k * d + codeUnits f b * d := by ring
      rw [e]
      exact ⟨by omega, fun he => by omega⟩

section
variable {f : Fmt} {neg : Bool} {num den : Nat}

/-- R79 from the nearest code: beyond the middle between the largest finite code and the next one it overflows. -/
theorem rounds_of_nearestCode (hden : 0 < den) {a : Nat} (ha : NearestCode f num den a) {r : Nat × BitVec 5}
    (hover : f.maxCode < a → r = (signed f neg (f.infCode.getD f.maxCode), fOF ||| fNX))
    (hcode : a ≤ f.maxCode → r = (signed f neg a,
      if codeUnits f a * den = num then 0 else if a < 2 ^ f.mant then fNX ||| fUF else fNX)) :
    Rounds f neg num den r := by
  have hsign (c : Nat) : signed f neg c = (if neg then 2 ^ (f.width - 1) else 0) + c := by
    cases neg <;> simp [signed, Fmt.signBit]
  have hmono := codeUnits_strictMono f
  obtain ⟨habove, -⟩ := ha (f.maxCode + 1)
  obtain ⟨-, hbelow⟩ := ha f.maxCode
  refine ⟨fun h => ?beyond, fun h => ?within⟩
  case beyond =>
    rw [← hsign]
    refine hover ?_
    by_contra hle
    obtain ⟨h1, h2⟩ := habove (by omega)
    have h3 : (codeUnits f a + codeUnits f (f.maxCode + 1)) * den ≤
        (codeUnits f f.maxCode + codeUnits f (f.maxCode + 1)) * den :=
      Nat.mul_le_mul_right _ (by have := hmono.monotone (show a ≤ f.maxCode by omega); omega)
    rcases h with h | ⟨h, hodd⟩
    · omega
    · have hu := Nat.eq_of_mul_eq_mul_right hden (h3.antisymm (h.le.trans h1))
      have hmax : a = f.maxCode := hmono.injective (by omega)
      have := h2 (by omega)
      omega
  case within =>
    have hle : a ≤ f.maxCode := by
      by_contra hgt
      obtain ⟨h1, h2⟩ := hbelow (by omega)
      have h3 : (codeUnits f f.maxCode + codeUnits f (f.maxCode + 1)) * den ≤ (codeUnits f a + codeUnits f f.maxCode) * den :=
        Nat.mul_le_mul_right _ (by have := hmono.monotone (show f.maxCode + 1 ≤ a by omega); omega)
      rcases h with h | ⟨h, heven⟩
      · omega
      · have hu := Nat.eq_of_mul_eq_mul_right hden (h3.antisymm (h1.trans h.ge))
        have hmax : a = f.maxCode + 1 := hmono.injective (by omega)
        have := h2 (by omega)
        omega
    rw [hcode hle, hsign]
    exact ⟨a, hle, rfl, fun b _ => ha b, rfl⟩

/-- R79 depends on the fraction alone, not on how it is written. -/
theorem Rounds.of_eq_frac {num' den' : Nat} {r : Nat × BitVec 5} (h : Rounds f neg num den r) (hden : 0 < den) (hden' : 0 < den')
    (he : num * den' = num' * den) : Rounds f neg num' den' r := by
  have hlt (x y : Nat) : x * num < y * den ↔ x * num' < y * den' := by
    rw [← Nat.mul_lt_mul_right hden', ← Nat.mul_lt_mul_right (a := den) (b := x * num'), mul_assoc, he]
    · ring_nf
    · exact hden
  have hlt' (x y : Nat) : y * den < x * num ↔ y * den' < x * num' := by
    rw [← Nat.mul_lt_mul_right hden', ← Nat.mul_lt_mul_right (a := den) (c := x * num'), mul_assoc x, he]
    · ring_nf
    · exact hden
  have hle (x y : Nat) : x * num ≤ y * den ↔ x * num' ≤ y * den' := by rw [← Nat.not_lt, hlt', Nat.not_lt]
  have hle' (x y : Nat) : y * den ≤ x * num ↔ y * den' ≤ x * num' := by rw [← Nat.not_lt, hlt, Nat.not_lt]
  have heq (x y : Nat) : x * num = y * den ↔ x * num' = y * den' := by
    rw [le_antisymm_iff, hle, hle', ← le_antisymm_iff]
  have heq' (y : Nat) : y * den = num ↔ y * den' = num' := by
    have := heq 1 y
    rw [one_mul, one_mul] at this
    rw [eq_comm, this, eq_comm]
  have hge (x y : Nat) : y * den = x * num ↔ y * den' = x * num' := by rw [eq_comm, heq, eq_comm]
  unfold Rounds at h ⊢
  simp only [hlt, hlt', hle, hle', heq, heq', hge] at h
  exact h

end

/-! ### `convert` and `convertInt` -/

theorem mant_pos {f : Fmt} (hf : f ≠ .log6) : 0 < f.mant := by
  cases f
  case log6 => exact absurd rfl hf
  all_goals decide

theorem convert_fin {f : Fmt} (hf : f ≠ .log6) (neg : Bool) {n : Nat} (hn : n ≠ 0) (d : Nat) :
    convert (.fin neg n d) f = roundFloat f neg n d := by
  cases f
  case log6 => exact absurd rfl hf
  all_goals exact if_neg hn

/-- Zero, with its sign and no flag. -/
theorem convert_zero (f : Fmt) (neg : Bool) (d : Nat) : convert (.fin neg 0 d) f = (signed f neg 0, fNone) := by
  cases f <;> rfl

theorem roundFloat_rounds {f : Fmt} (hf : f ≠ .log6) (neg : Bool) {n d : Nat} (hn : 0 < n) (hd : 0 < d) :
    Rounds f neg (n * 2 ^ (f.bias + f.mant - 1)) d (roundFloat f neg n d) := by
  obtain ⟨hlow, hhigh⟩ := floorLog2_spec hn hd
  have hp := mant_pos hf
  -- the unit of the binade is 2^q, that of the subnormals 2^q0
  obtain ⟨q0, hq0⟩ : ∃ q0 : Int, q0 = 1 - (f.bias : Int) - f.mant := ⟨_, rfl⟩
  obtain ⟨q, hq⟩ : ∃ q : Int, q = max (floorLog2 n d - f.mant) q0 := ⟨_, rfl⟩
  obtain ⟨s, hs⟩ : ∃ s : Nat × Nat, s = scaleFrac n d (-q) := ⟨_, rfl⟩
  obtain ⟨k, hk⟩ : ∃ k : Nat, k = (q - q0).toNat := ⟨_, rfl⟩
  have hqk : q = q0 + k := by omega
  have hs2 : 0 < s.2 := hs ▸ scaleFrac_pos n hd _
  have hs2' : (0 : ℚ) < s.2 := by exact_mod_cast hs2
  have hfrac : (s.1 : ℚ) / s.2 = n / d * 2 ^ (-q) := hs ▸ scaleFrac_eq n hd _
  have hlt : s.1 < 2 ^ (f.mant + 1) * s.2 := by
    have h : (s.1 : ℚ) / s.2 < 2 ^ (f.mant + 1) := by
      rw [hfrac]
      calc (n : ℚ) / d * 2 ^ (-q) < 2 ^ (floorLog2 n d + 1) * 2 ^ (-q) := by gcongr
        _ = 2 ^ (floorLog2 n d + 1 - q) := by rw [← zpow_add₀ two_ne_zero, sub_eq_add_neg]
        _ ≤ 2 ^ ((f.mant + 1 : Nat) : Int) := zpow_le_zpow_right₀ one_le_two (by push_cast; omega)
        _ = 2 ^ (f.mant + 1) := zpow_natCast ..
    rw [div_lt_iff₀ hs2'] at h
    exact_mod_cast h
  have hge : k = 0 ∨ 2 ^ f.mant * s.2 ≤ s.1 := by
    refine or_iff_not_imp_left.mpr fun hk0 => ?_
    have h : (2 : ℚ) ^ f.mant ≤ s.1 / s.2 := by
      rw [hfrac]
      calc (2 : ℚ) ^ f.mant = 2 ^ (f.mant : Int) := (zpow_natCast ..).symm
        _ = 2 ^ floorLog2 n d * 2 ^ (-q) := by rw [← zpow_add₀ two_ne_zero]; congr 1; omega
        _ ≤ n / d * 2 ^ (-q) := by gcongr
    rw [le_div_iff₀ hs2'] at h
    exact_mod_cast h
  obtain ⟨hnear, hunits⟩ := nearestCode_binade f hp hs2 hlt hge
  have hsame : s.1 * 2 ^ k * d = n * 2 ^ (f.bias + f.mant - 1) * s.2 := by
    have hd' : (d : ℚ) ≠ 0 := by exact_mod_cast hd.ne'
    have hbias : (2 : ℚ) ^ (f.bias + f.mant - 1) = 2 ^ (-q) * 2 ^ k := by
      rw [← zpow_natCast, ← zpow_natCast, ← zpow_add₀ two_ne_zero]
      congr 1
      omega
    rw [div_eq_iff hs2'.ne'] at hfrac
    have : (s.1 : ℚ) * 2 ^ k * d = n * 2 ^ (f.bias + f.mant - 1) * s.2 := by
      rw [hfrac, hbias]
      field_simp
    exact_mod_cast this
  refine Rounds.of_eq_frac (rounds_of_nearestCode hs2 hnear (fun hgt => ?_) fun hle => ?_) hs2 hd hsame
  · simp only [roundFloat, ← hq0, ← hq, ← hs, ← hk]
    exact if_pos hgt
  · simp only [roundFloat, ← hq0, ← hq, ← hs, ← hk]
    rw [if_neg (Nat.not_lt.mpr hle)]
    have hexact : codeUnits f (k * 2 ^ f.mant + nearestEven s.1 s.2) * s.2 = s.1 * 2 ^ k ↔ s.1 % s.2 = 0 := by
      rw [hunits, ← nearestEven_exact_iff s.1 hs2, mul_right_comm, Nat.mul_left_inj (by positivity)]
    simp only [hexact]
    by_cases h : s.1 % s.2 = 0
    · simp [h, fNone]
    · by_cases hsub : k * 2 ^ f.mant + nearestEven s.1 s.2 < 2 ^ f.mant <;> simp [h, hsub, fNone]

theorem convert_rounds {f : Fmt} (hf : f ≠ .log6) (neg : Bool) (n : Nat) {d : Nat} (hd : 0 < d) :
    Rounds f neg (n * 2 ^ (f.bias + f.mant - 1)) d (convert (.fin neg n d) f) := by
  rcases Nat.eq_zero_or_pos n with rfl | hn
  · rw [convert_zero, Nat.zero_mul]
    refine rounds_of_nearestCode (a := 0) hd
      (fun b => ⟨fun _ => ⟨Nat.zero_le _, fun _ => rfl⟩, fun h => absurd h (Nat.not_lt_zero b)⟩)
      (fun h => absurd h (Nat.not_lt_zero _)) fun _ => ?_
    rw [codeUnits_zero, Nat.zero_mul, if_pos rfl]
    rfl
  · rw [convert_fin hf neg hn.ne']
    exact roundFloat_rounds hf neg hn hd

theorem convertInt_fin (neg : Bool) (n : Nat) {d : Nat} (lo hi : Int) (hd : 0 < d) :
    let z : Int := if neg then -(nearestEven n d : Int) else nearestEven n d
    convertInt (.fin neg n d) lo hi =
      if z < lo then (lo, fNV) else if hi < z then (hi, fNV) else (z, if nearestEven n d * d = n then 0 else fNX) := by
  simp only [nearestEven_exact_iff n hd]
  rfl

end Sys2Proof.Machine

/-! SUPPORT. O37: FP32 codes as values (R77), and the rounding of the finite results of the vector unit (R80, R104). -/

namespace Sys2Proof.Machine

/-! ### Codes of FP32 -/

theorem magOf_lt (w : Word) : magOf w < 2 ^ 31 := Nat.mod_lt _ (by decide)

theorem toNat_eq_signOf_magOf (w : Word) : w.toNat = (if signOf w then 2 ^ 31 else 0) + magOf w := by
  have hs : signOf w = decide (2 ^ 31 ≤ w.toNat) := BitVec.msb_eq_decide w
  have hw := w.isLt
  rw [hs, magOf]
  by_cases h : 2 ^ 31 ≤ w.toNat
  · rw [decide_eq_true h, if_pos rfl]
    omega
  · rw [decide_eq_false h, if_neg (by decide)]
    omega

/-- A code is its sign and its magnitude. -/
theorem eq_of_signOf_magOf {v w : Word} (hs : signOf v = signOf w) (hm : magOf v = magOf w) : v = w := by
  refine BitVec.eq_of_toNat_eq ?_
  rw [toNat_eq_signOf_magOf v, toNat_eq_signOf_magOf w, hs, hm]

/-- The magnitude of an infinity; a NaN lies above it, a finite code below. -/
def infMag : Nat := 0x7F800000

theorem dyadic_fin (neg : Bool) (m : Nat) (e : Int) : ∃ n d, dyadic neg m e = .fin neg n d := by
  unfold dyadic
  split <;> exact ⟨_, _, rfl⟩

theorem value_fin (f : Fmt) (neg : Bool) (a : Nat) : ∃ n d, Fmt.value.fin f neg a = .fin neg n d := by
  unfold Fmt.value.fin
  dsimp only
  split <;> exact dyadic_fin ..

theorem fp_eq (w : Word) : fp w =
    if magOf w = infMag then .inf (signOf w) else if infMag < magOf w then .nan
    else Fmt.value.fin .fp32 (signOf w) (magOf w) := by
  have hs : decide (w.toNat / 2 ^ 31 % 2 = 1) = signOf w := by
    rw [signOf, BitVec.getLsbD, Nat.testBit_eq_decide_div_mod_eq]
  have hsign : Fmt.signBit .fp32 = 2 ^ 31 := rfl
  simp only [fp, Fmt.value, Fmt.infCode, hsign, hs]
  rfl

theorem isNaN_iff (w : Word) : isNaN w = true ↔ infMag < magOf w := by
  rw [isNaN, fp_eq]
  by_cases h : magOf w = infMag
  · simp [h]
  · by_cases h' : infMag < magOf w
    · simp [h, h']
    · obtain ⟨n, d, hfin⟩ := value_fin .fp32 (signOf w) (magOf w)
      simp [h, h', hfin]

theorem fp_nan {w : Word} (h : isNaN w = true) : fp w = .nan := by
  have h' := (isNaN_iff w).mp h
  rw [fp_eq, if_neg h'.ne', if_pos h']

theorem fp_inf {w : Word} (h : magOf w = infMag) : fp w = .inf (signOf w) := by rw [fp_eq, if_pos h]

theorem exponent_eq (w : Word) : (w.extractLsb' 23 8).toNat = magOf w / 2 ^ 23 := by
  rw [BitVec.extractLsb'_toNat, magOf, Nat.shiftRight_eq_div_pow]
  omega

theorem significand_eq (w : Word) : (w.extractLsb' 0 23).toNat = magOf w % 2 ^ 23 := by
  rw [BitVec.extractLsb'_toNat, magOf, Nat.shiftRight_eq_div_pow]
  omega

theorem finiteFp_iff (w : Word) : FiniteFp w ↔ magOf w < infMag := by
  have h := exponent_eq w
  have hm := magOf_lt w
  rw [FiniteFp, ne_eq, ← BitVec.toNat_inj, h, infMag]
  change ¬ magOf w / 2 ^ 23 = 255 ↔ _
  omega

theorem fpUnits_eq (w : Word) : fpUnits w = codeUnits .fp32 (magOf w) := by
  simp only [fpUnits, exponent_eq, significand_eq, codeUnits]
  by_cases h : magOf w / 2 ^ 23 = 0
  · have hm : magOf w % 2 ^ 23 = magOf w := by omega
    rw [if_pos h, hm]
    exact (if_pos h).symm
  · rw [if_neg h]
    exact (if_neg h).symm

theorem fpUnits_lt_iff (v w : Word) : fpUnits v < fpUnits w ↔ magOf v < magOf w := by
  rw [fpUnits_eq, fpUnits_eq, (codeUnits_strictMono .fp32).lt_iff_lt]

theorem fpUnits_eq_iff (v w : Word) : fpUnits v = fpUnits w ↔ magOf v = magOf w := by
  rw [fpUnits_eq, fpUnits_eq, (codeUnits_strictMono .fp32).injective.eq_iff]

theorem fpUnits_eq_zero_iff (w : Word) : fpUnits w = 0 ↔ magOf w = 0 := by
  have h := (codeUnits_strictMono .fp32).injective.eq_iff (a := magOf w) (b := 0)
  rwa [codeUnits_zero, ← fpUnits_eq] at h

/-- `m * 2 ^ (e - 149)` as a fraction has `m * 2 ^ e` units of 2^-149. -/
theorem dyadic_units (neg : Bool) (m : Nat) {e : Nat} {x : Int} (hx : x = (e : Int) - 149) :
    ∃ n d, dyadic neg m x = .fin neg n d ∧ 0 < d ∧ n * 2 ^ 149 = m * 2 ^ e * d := by
  unfold dyadic
  split
  next h =>
    obtain ⟨j, rfl⟩ : ∃ j, e = 149 + j := ⟨e - 149, by omega⟩
    refine ⟨_, _, rfl, by decide, ?_⟩
    rw [show x.toNat = j by omega, pow_add]
    ring
  next h =>
    refine ⟨_, _, rfl, by positivity, ?_⟩
    rw [mul_assoc, ← pow_add, show e + (-x).toNat = 149 by omega]

/-- A finite code is a signed fraction with its units: n/d is `fpUnits` times 2^-149. -/
theorem fp_finite {w : Word} (h : FiniteFp w) :
    ∃ n d, fp w = .fin (signOf w) n d ∧ 0 < d ∧ n * 2 ^ 149 = fpUnits w * d := by
  have hm := (finiteFp_iff w).mp h
  rw [fp_eq, if_neg (by omega), if_neg (by omega), fpUnits_eq]
  simp only [Fmt.value.fin, codeUnits]
  by_cases he : magOf w / 2 ^ Fmt.mant .fp32 = 0
  · rw [if_pos he, if_pos he, Nat.mod_eq_of_lt (Nat.lt_of_div_eq_zero (by decide) he)]
    obtain ⟨n, d, hfin, hd, hu⟩ := dyadic_units (signOf w) (magOf w) (e := 0)
      (x := 1 - (Fmt.bias .fp32 : Int) - Fmt.mant .fp32) rfl
    exact ⟨n, d, hfin, hd, by rw [hu, pow_zero, mul_one]⟩
  · rw [if_neg he, if_neg he]
    obtain ⟨e, he'⟩ := Nat.exists_eq_succ_of_ne_zero he
    rw [he', Nat.succ_eq_add_one, Nat.add_sub_cancel]
    refine dyadic_units (signOf w) _ ?_
    have hbias : (Fmt.bias .fp32 : Int) = 127 := rfl
    have hmant : (Fmt.mant .fp32 : Int) = 23 := rfl
    rw [hbias, hmant]
    push_cast
    ring

/-! ### Results of FP32 -/

theorem toFp_nan : toFp .nan = (0x7FC00000, 0) := rfl
theorem invalid_eq : invalid = (0x7FC00000, fNV) := rfl

/-- The code of an infinity. -/
def infWord (neg : Bool) : Word := if neg then 0xFF800000 else 0x7F800000

theorem toFp_inf (neg : Bool) : toFp (.inf neg) = (infWord neg, 0) := by cases neg <;> rfl
@[simp] theorem signOf_infWord (neg : Bool) : signOf (infWord neg) = neg := by cases neg <;> decide
@[simp] theorem magOf_infWord (neg : Bool) : magOf (infWord neg) = infMag := by cases neg <;> decide
@[simp] theorem fp_infWord (neg : Bool) : fp (infWord neg) = .inf neg := by
  rw [fp_inf (magOf_infWord neg), signOf_infWord]

theorem eq_infWord {w : Word} (h : magOf w = infMag) : w = infWord (signOf w) :=
  eq_of_signOf_magOf (signOf_infWord _).symm (h.trans (magOf_infWord _).symm)

/-- A code is a NaN, an infinity or finite. -/
theorem fp_cases (w : Word) : isNaN w = true ∨ (∃ neg, w = infWord neg) ∨ FiniteFp w := by
  rw [isNaN_iff, finiteFp_iff]
  rcases Nat.lt_trichotomy (magOf w) infMag with h | h | h
  · exact .inr (.inr h)
  · exact .inr (.inl ⟨_, eq_infWord h⟩)
  · exact .inl h

/-- The rounded fraction, its exact value given in units of 2^-149. -/
theorem roundsFp_toFp (neg : Bool) {n d num den : Nat} (hd : 0 < d) (hden : 0 < den) (h : n * 2 ^ 149 * den = num * d) :
    RoundsFp neg num den (toFp (.fin neg n d)) := by
  have hr : Rounds .fp32 neg num den (convert (.fin neg n d) .fp32) :=
    Rounds.of_eq_frac (convert_rounds (f := .fp32) (by decide) neg n hd) hd hden h
  have hlt : (convert (.fin neg n d) .fp32).1 < 2 ^ 32 := by
    have hs : (if neg then 2 ^ (Fmt.fp32.width - 1) else 0) ≤ 2 ^ 31 := by cases neg <;> decide
    rcases Nat.lt_trichotomy ((codeUnits .fp32 (Fmt.maxCode .fp32) + codeUnits .fp32 (Fmt.maxCode .fp32 + 1)) * den) (2 * num)
      with ht | ht | ht
    · rw [hr.1 (.inl ht)]
      cases neg <;> decide
    · rw [hr.1 (.inr ⟨ht, by decide⟩)]
      cases neg <;> decide
    · obtain ⟨a, ha, he, -, -⟩ := hr.2 (.inl ht)
      rw [he]
      have : Fmt.maxCode .fp32 < 2 ^ 31 := by decide
      omega
  unfold RoundsFp toFp
  rwa [BitVec.toNat_ofNat, Nat.mod_eq_of_lt hlt]

/-! ### Sums, products and reciprocals of finite operands (R80, R104) -/

/-- A signed number of units. -/
def signedInt (neg : Bool) (u : Nat) : Int := if neg then -(u : Int) else u

theorem signedInt_not (neg : Bool) (u : Nat) : signedInt (!neg) u = -signedInt neg u := by cases neg <;> simp [signedInt]

theorem fpInt_eq (w : Word) : fpInt w = signedInt (signOf w) (fpUnits w) := rfl

theorem signedInt_mul (na nb : Bool) (u v : Nat) : signedInt na u * signedInt nb v = signedInt (na != nb) (u * v) := by
  cases na <;> cases nb <;> simp [signedInt]

/-- The exact sum of two fractions, rounded once; each stands with its units of 2^-149 / den. -/
theorem roundsFp_sumFrac (na nc : Bool) {a b c d u v den : Nat} (hb : 0 < b) (hd : 0 < d) (hden : 0 < den)
    (ha : a * 2 ^ 149 * den = u * b) (hc : c * 2 ^ 149 * den = v * d) :
    let x := signedInt na u + signedInt nc v
    RoundsFp (if x = 0 then na && nc else decide (x < 0)) x.natAbs den (toFp (sumFrac na a b nc c d)) := by
  intro x
  obtain ⟨y, hy⟩ : ∃ y, y = signedInt na (a * d) + signedInt nc (c * b) := ⟨_, rfl⟩
  have hsum : sumFrac na a b nc c d = if y = 0 then .fin (na && nc) 0 1 else .fin (decide (y < 0)) y.natAbs (b * d) := by
    rw [hy]
    simp only [signedInt]
    push_cast
    rfl
  have hbd : (0 : Int) < b * d := by exact_mod_cast Nat.mul_pos hb hd
  have hscale : y * (2 ^ 149 * den : Nat) = x * (b * d) := by
    have hl : signedInt na (a * d) * (2 ^ 149 * den : Nat) = signedInt na u * (b * d) := by
      have : ((a * d : Nat) : Int) * (2 ^ 149 * den : Nat) = u * (b * d) := by
        exact_mod_cast show a * d * (2 ^ 149 * den) = u * (b * d) by
          calc a * d * (2 ^ 149 * den) = a * 2 ^ 149 * den * d := by ring
            _ = u * (b * d) := by rw [ha]; ring
      cases na <;> simp only [signedInt, Bool.false_eq_true, if_false, if_true, neg_mul, this]
    have hr : signedInt nc (c * b) * (2 ^ 149 * den : Nat) = signedInt nc v * (b * d) := by
      have : ((c * b : Nat) : Int) * (2 ^ 149 * den : Nat) = v * (b * d) := by
        exact_mod_cast show c * b * (2 ^ 149 * den) = v * (b * d) by
          calc c * b * (2 ^ 149 * den) = c * 2 ^ 149 * den * b := by ring
            _ = v * (b * d) := by rw [hc]; ring
      cases nc <;> simp only [signedInt, Bool.false_eq_true, if_false, if_true, neg_mul, this]
    rw [hy, add_mul, hl, hr, ← add_mul]
  have hpos : (0 : Int) < (2 ^ 149 * den : Nat) := by exact_mod_cast Nat.mul_pos (by positivity) hden
  have hzero : y = 0 ↔ x = 0 := by
    rw [← mul_eq_zero_iff_right hpos.ne', hscale, mul_eq_zero_iff_right hbd.ne']
  have hneg : y < 0 ↔ x < 0 := by
    rw [← mul_lt_mul_iff_of_pos_right hpos, zero_mul, hscale, ← mul_lt_mul_iff_of_pos_right (b := x) hbd, zero_mul]
  rw [hsum]
  by_cases hx : x = 0
  · rw [if_pos hx, if_pos (hzero.mpr hx), hx]
    exact roundsFp_toFp _ Nat.one_pos hden (by simp)
  · rw [if_neg hx, if_neg (mt hzero.mp hx), decide_eq_decide.mpr hneg]
    refine roundsFp_toFp _ (Nat.mul_pos hb hd) hden ?_
    have := congrArg Int.natAbs hscale
    rw [Int.natAbs_mul, Int.natAbs_mul, Int.natAbs_natCast, ← Nat.cast_mul, Int.natAbs_natCast] at this
    rw [mul_assoc, this]

section
variable {b c : Word} (hb : FiniteFp b) (hc : FiniteFp c)
include hb hc

theorem fadd_rounds : let x := fpInt b + fpInt c
    RoundsFp (if x = 0 then signOf b && signOf c else decide (x < 0)) x.natAbs 1 (fadd b c) := by
  obtain ⟨n, d, hfb, hd, hn⟩ := fp_finite hb
  obtain ⟨m, e, hfc, he, hm⟩ := fp_finite hc
  rw [fadd, hfb, hfc, fpInt_eq, fpInt_eq]
  exact roundsFp_sumFrac _ _ hd he Nat.one_pos (by rw [mul_one, hn]) (by rw [mul_one, hm])

theorem fsub_rounds : let x := fpInt b - fpInt c
    RoundsFp (if x = 0 then signOf b && !signOf c else decide (x < 0)) x.natAbs 1 (fsub b c) := by
  obtain ⟨n, d, hfb, hd, hn⟩ := fp_finite hb
  obtain ⟨m, e, hfc, he, hm⟩ := fp_finite hc
  rw [fsub, hfb, hfc, fpInt_eq, fpInt_eq, sub_eq_add_neg, ← signedInt_not]
  exact roundsFp_sumFrac _ _ hd he Nat.one_pos (by rw [mul_one, hn]) (by rw [mul_one, hm])

theorem fmul_rounds : RoundsFp (signOf b != signOf c) (fpUnits b * fpUnits c) (2 ^ 149) (fmul b c) := by
  obtain ⟨n, d, hfb, hd, hn⟩ := fp_finite hb
  obtain ⟨m, e, hfc, he, hm⟩ := fp_finite hc
  rw [fmul, hfb, hfc]
  refine roundsFp_toFp _ (Nat.mul_pos hd he) (by positivity) ?_
  calc n * m * 2 ^ 149 * 2 ^ 149 = n * 2 ^ 149 * (m * 2 ^ 149) := by ring
    _ = fpUnits b * fpUnits c * (d * e) := by rw [hn, hm]; ring

theorem ffma_rounds {a : Word} (ha : FiniteFp a) : let x := fpInt b * fpInt c + fpInt a * 2 ^ 149
    RoundsFp (if x = 0 then (signOf b != signOf c) && signOf a else decide (x < 0)) x.natAbs (2 ^ 149) (ffma a b c) := by
  obtain ⟨n, d, hfb, hd, hn⟩ := fp_finite hb
  obtain ⟨m, e, hfc, he, hm⟩ := fp_finite hc
  obtain ⟨k, l, hfa, hl, hk⟩ := fp_finite ha
  have hshift : fpInt a * 2 ^ 149 = signedInt (signOf a) (fpUnits a * 2 ^ 149) := by
    rw [fpInt_eq]
    cases signOf a <;> simp [signedInt]
  rw [ffma, hfb, hfc, hfa, hshift, fpInt_eq, fpInt_eq, signedInt_mul]
  refine roundsFp_sumFrac _ _ (Nat.mul_pos hd he) hl (by positivity) ?_ (by rw [hk]; ring)
  calc n * m * 2 ^ 149 * 2 ^ 149 = n * 2 ^ 149 * (m * 2 ^ 149) := by ring
    _ = fpUnits b * fpUnits c * (d * e) := by rw [hn, hm]; ring

end

/-- A code with units is a fraction that is not zero. -/
theorem fp_nonzero {b : Word} (hb : FiniteFp b) (h0 : fpUnits b ≠ 0) :
    ∃ n d, fp b = .fin (signOf b) n d ∧ 0 < n ∧ 0 < d ∧ n * 2 ^ 149 = fpUnits b * d := by
  obtain ⟨n, d, hfb, hd, hn⟩ := fp_finite hb
  refine ⟨n, d, hfb, Nat.pos_of_ne_zero ?_, hd, hn⟩
  rintro rfl
  rw [Nat.zero_mul] at hn
  exact absurd hn.symm (Nat.mul_ne_zero h0 hd.ne')

theorem frcp_rounds {b : Word} (hb : FiniteFp b) (h0 : fpUnits b ≠ 0) :
    RoundsFp (signOf b) (2 ^ 298) (fpUnits b) (frcp b) := by
  obtain ⟨n, d, hfb, hn0, hd, hn⟩ := fp_nonzero hb h0
  simp only [frcp, hfb, if_neg hn0.ne']
  refine roundsFp_toFp _ hn0 (Nat.pos_of_ne_zero h0) ?_
  calc d * 2 ^ 149 * fpUnits b = fpUnits b * d * 2 ^ 149 := by ring
    _ = n * (2 ^ 149 * 2 ^ 149) := by rw [← hn, mul_assoc]
    _ = 2 ^ 298 * n := by rw [← pow_add, mul_comm]

/-! ### Reciprocal square roots (R104) -/

theorem isqrtBits_spec (k n : Nat) {r : Nat} (hlow : r * r ≤ n) (hhigh : n < (r + 2 ^ k) * (r + 2 ^ k)) :
    isqrtBits k n r * isqrtBits k n r ≤ n ∧ n < (isqrtBits k n r + 1) * (isqrtBits k n r + 1) := by
  induction k generalizing r with
  | zero => exact ⟨hlow, hhigh⟩
  | succ k ih =>
    unfold isqrtBits
    split
    next h => exact ih h (by rwa [add_assoc, ← two_mul, ← pow_succ'])
    next h => exact ih hlow (Nat.not_le.mp h)

theorem isqrt_spec (n : Nat) : isqrt n * isqrt n ≤ n ∧ n < (isqrt n + 1) * (isqrt n + 1) := by
  refine isqrtBits_spec _ n (Nat.zero_le n) ?_
  calc n < 2 ^ (Nat.log2 n + 1) := Nat.lt_log2_self
    _ ≤ 2 ^ (2 * (Nat.log2 n / 2 + 1)) := Nat.pow_le_pow_right (by decide) (by omega)
    _ = (0 + 2 ^ (Nat.log2 n / 2 + 1)) * (0 + 2 ^ (Nat.log2 n / 2 + 1)) := by ring

/-- The numerator of `rsqFrac` stands to every even number as the exact root does: it is twice the root in units of 2^-256
where that is whole, and else the odd number between its neighbours. -/
theorem rsqFrac_compare {n d : Nat} (hn : 0 < n) (h : Nat) :
    ((rsqFrac n d).1 ≤ 2 * h ↔ d * 2 ^ 512 ≤ h * h * n) ∧ (2 * h ≤ (rsqFrac n d).1 ↔ h * h * n ≤ d * 2 ^ 512) := by
  obtain ⟨N, hN⟩ : ∃ N, N = d * 2 ^ 512 := ⟨_, rfl⟩
  obtain ⟨r, hr⟩ : ∃ r, r = isqrt (N / n) := ⟨_, rfl⟩
  obtain ⟨hlow, hhigh⟩ := isqrt_spec (N / n)
  rw [← hr] at hlow hhigh
  have hfrac : (rsqFrac n d).1 = 2 * r + if r * r = N / n ∧ N % n = 0 then 0 else 1 := by
    simp only [rsqFrac, ← hN, ← hr, Bool.and_eq_true, decide_eq_true_eq]
  -- whole numbers compare with the root as with its floor
  have hfloor : h ≤ r ↔ h * h * n ≤ N := by
    rw [← Nat.le_div_iff_mul_le hn]
    refine ⟨fun hle => (Nat.mul_le_mul hle hle).trans hlow, fun hle => ?_⟩
    by_contra hlt
    exact absurd (hhigh.trans_le (Nat.mul_le_mul (Nat.not_le.mp hlt) (Nat.not_le.mp hlt))) (Nat.not_lt.mpr hle)
  -- the root is a whole number where it is its floor
  have hwhole : (r * r = N / n ∧ N % n = 0) ↔ r * r * n = N := by
    refine ⟨fun ⟨hsq, hm⟩ => by rw [hsq, Nat.div_mul_cancel (Nat.dvd_of_mod_eq_zero hm)], fun he => ?_⟩
    rw [← he, Nat.mul_div_cancel _ hn, Nat.mul_mod_left]
    exact ⟨rfl, rfl⟩
  rw [hfrac, ← hN]
  simp only [hwhole]
  by_cases he : r * r * n = N
  · rw [if_pos he, Nat.add_zero, Nat.mul_le_mul_left_iff (by decide), Nat.mul_le_mul_left_iff (by decide)]
    refine ⟨?_, hfloor⟩
    rw [← he, Nat.mul_le_mul_right_iff hn, Nat.mul_self_le_mul_self_iff]
  · rw [if_neg he]
    refine ⟨⟨fun hle => ?_, fun hle => ?_⟩, by rw [← hfloor]; omega⟩
    · by_contra hlt
      have := hfloor.mpr (Nat.not_le.mp hlt).le
      omega
    · by_contra hlt
      have hhr : h ≤ r := by omega
      have heq : h * h * n = N := (hfloor.mp hhr).antisymm hle
      have hrr : r * r * n ≤ N := by
        rw [← Nat.le_div_iff_mul_le hn]
        exact hlow
      have hsq : h * h * n ≤ r * r * n := Nat.mul_le_mul_right n (Nat.mul_le_mul hhr hhr)
      omega

/-- The units of a rounded reciprocal root: `rsqFrac` compares with half of a sum of units as the exact root does. -/
theorem rsqFrac_compare_units {n d u : Nat} (hn : 0 < n) (hd : 0 < d) (hu : n * 2 ^ 149 = u * d) (m : Nat) :
    (2 * ((rsqFrac n d).1 * 2 ^ 149) ≤ m * 2 ^ 257 ↔ 2 ^ 449 ≤ m ^ 2 * u) ∧
      (m * 2 ^ 257 ≤ 2 * ((rsqFrac n d).1 * 2 ^ 149) ↔ m ^ 2 * u ≤ 2 ^ 449) := by
  obtain ⟨hle, hge⟩ := rsqFrac_compare (d := d) hn (m * 2 ^ 106)
  have h257 : 2 ^ 257 = 2 ^ 2 * 2 ^ 149 * 2 ^ 106 := by rw [show 257 = 2 + 149 + 106 from rfl, pow_add, pow_add]
  have h512 : 2 ^ 512 = 2 ^ 2 * (2 ^ 149 * 2 ^ 149) * (2 ^ 106 * 2 ^ 106) := by
    rw [show 512 = 2 + (149 + 149) + (106 + 106) from rfl, pow_add, pow_add, pow_add, pow_add]
  have h449 : 2 ^ 449 = 2 ^ 2 * (2 ^ 149 * 2 ^ 149 * 2 ^ 149) := by
    rw [show 449 = 2 + (149 + 149 + 149) from rfl, pow_add, pow_add, pow_add]
  rw [h512] at hle hge
  rw [h257, h449]
  have hP : 0 < 2 ^ 149 := by positivity
  have hQ : 0 < 2 ^ 106 := by positivity
  generalize 2 ^ 149 = P at *
  generalize 2 ^ 106 = Q at *
  generalize (rsqFrac n d).1 = t at *
  have hPQ : 0 < Q * Q * d := by positivity
  -- both sides of the square, times Q^2 d
  have hl : P * (d * (2 ^ 2 * (P * P) * (Q * Q))) = 2 ^ 2 * (P * P * P) * (Q * Q * d) := by ring
  have hr : P * (m * Q * (m * Q) * n) = m ^ 2 * u * (Q * Q * d) := by
    calc P * (m * Q * (m * Q) * n) = m ^ 2 * (Q * Q) * (n * P) := by ring
      _ = _ := by rw [hu]; ring
  have hm : m * (2 ^ 2 * P * Q) = 2 * P * (2 * (m * Q)) := by ring
  have ht : 2 * (t * P) = 2 * P * t := by ring
  have h2P : 0 < 2 * P := by omega
  rw [hm, ht, Nat.mul_le_mul_left_iff h2P, Nat.mul_le_mul_left_iff h2P, hle, hge]
  have htimes (x y : Nat) : x ≤ y ↔ P * x ≤ P * y := (Nat.mul_le_mul_left_iff hP).symm
  rw [htimes, htimes (m * Q * (m * Q) * n), hl, hr, Nat.mul_le_mul_right_iff hPQ, Nat.mul_le_mul_right_iff hPQ]
  exact ⟨Iff.rfl, Iff.rfl⟩

theorem codeUnits_maxCode : codeUnits .fp32 (Fmt.maxCode .fp32) = (2 ^ 24 - 1) * 2 ^ 253 :=
  codeUnits_binade .fp32 (k := 253) (y := 2 ^ 24 - 1) (by decide) (.inr (by decide))

theorem frsq_rounds {b : Word} (hb : FiniteFp b) (h0 : fpUnits b ≠ 0) (hs : signOf b = false) :
    let u := fpUnits (frsq b).1
    FiniteFp (frsq b).1 ∧ (frsq b).1.getLsbD 31 = false ∧
      (∀ v : Word, FiniteFp v →
        (u < fpUnits v → 2 ^ 449 ≤ (u + fpUnits v) ^ 2 * fpUnits b ∧
          (2 ^ 449 = (u + fpUnits v) ^ 2 * fpUnits b → (frsq b).1.getLsbD 0 = false)) ∧
        (fpUnits v < u → (u + fpUnits v) ^ 2 * fpUnits b ≤ 2 ^ 449 ∧
          (2 ^ 449 = (u + fpUnits v) ^ 2 * fpUnits b → (frsq b).1.getLsbD 0 = false))) ∧
      (frsq b).2 = if u ^ 2 * fpUnits b = 2 ^ 447 then 0 else fNX := by
  obtain ⟨n, d, hfb, hn0, hd, hn⟩ := fp_nonzero hb h0
  have hval : frsq b = toFp (.fin false (rsqFrac n d).1 (2 ^ 257)) := by
    simp only [frsq, hfb, hs, if_neg hn0.ne']
    rfl
  have hcmp := rsqFrac_compare_units hn0 hd hn
  have hround : RoundsFp false ((rsqFrac n d).1 * 2 ^ 149) (2 ^ 257) (frsq b) := by
    rw [hval]
    exact roundsFp_toFp false (by positivity) (by positivity) rfl
  generalize (rsqFrac n d).1 * 2 ^ 149 = num at hcmp hround
  have heq (m : Nat) : 2 * num = m * 2 ^ 257 ↔ 2 ^ 449 = m ^ 2 * fpUnits b := by
    rw [le_antisymm_iff, (hcmp m).1, (hcmp m).2, ← le_antisymm_iff]
  -- the root lies far below the largest finite value
  have hbelow : 2 * num < (codeUnits .fp32 (Fmt.maxCode .fp32) + codeUnits .fp32 (Fmt.maxCode .fp32 + 1)) * 2 ^ 257 := by
    rw [← Nat.not_le, (hcmp _).2, Nat.not_le]
    have hM : 2 ^ 253 ≤ codeUnits .fp32 (Fmt.maxCode .fp32) + codeUnits .fp32 (Fmt.maxCode .fp32 + 1) := by
      rw [codeUnits_maxCode]
      exact Nat.le_add_right_of_le (Nat.le_mul_of_pos_left _ (by decide))
    refine lt_of_lt_of_le ?_ (Nat.le_mul_of_pos_right _ (Nat.pos_of_ne_zero h0))
    rw [show 449 = 225 + 224 from rfl, pow_add, sq]
    exact Nat.mul_lt_mul_of_lt_of_le (lt_of_lt_of_le (by decide) hM) (le_trans (by decide) hM) (by decide)
  obtain ⟨a, ha, hres, hnear, hflags⟩ := hround.2 (.inl hbelow)
  have hmax : Fmt.maxCode .fp32 < infMag := by decide
  have hsmall : infMag < 2 ^ 31 := by decide
  have hres' : (frsq b).1.toNat = a := by simpa using hres
  have hmag : magOf (frsq b).1 = a := by rw [magOf, hres', Nat.mod_eq_of_lt (by omega)]
  have hsign : signOf (frsq b).1 = false := by
    rw [signOf, BitVec.getLsbD, hres']
    exact Nat.testBit_lt_two_pow (by omega)
  have heven : a % 2 = 0 → (frsq b).1.getLsbD 0 = false := fun h => by
    rw [BitVec.getLsbD, hres', Nat.testBit_zero, h]
    rfl
  have hua : codeUnits .fp32 a = fpUnits (frsq b).1 := by rw [fpUnits_eq, hmag]
  refine ⟨(finiteFp_iff _).mpr (by omega), hsign, fun v hv => ?_, ?_⟩
  · have hvmax := (finiteFp_iff v).mp hv
    obtain ⟨habove, hunder⟩ := hnear (magOf v) (by simp only [infMag, Fmt.maxCode] at *; omega)
    rw [← fpUnits_eq v, hua, heq, (hcmp _).1] at habove
    rw [← fpUnits_eq v, hua, heq, (hcmp _).2] at hunder
    rw [fpUnits_lt_iff, fpUnits_lt_iff, hmag]
    exact ⟨fun h => ⟨(habove h).1, fun e => heven ((habove h).2 e)⟩, fun h => ⟨(hunder h).1, fun e => heven ((hunder h).2 e)⟩⟩
  · have hexact : fpUnits (frsq b).1 * 2 ^ 257 = num ↔ fpUnits (frsq b).1 ^ 2 * fpUnits b = 2 ^ 447 := by
      have h2 := heq (2 * fpUnits (frsq b).1)
      have h449 : 2 ^ 449 = 2 ^ 2 * 2 ^ 447 := by rw [← pow_add]
      rw [mul_assoc, Nat.mul_right_inj (by decide), mul_pow, h449, mul_assoc, Nat.mul_right_inj (by decide)] at h2
      rw [eq_comm, h2, eq_comm]
    -- a code below the smallest normal would be nearest to no root
    have hnormal : ¬ a < 2 ^ Fmt.mant .fp32 := fun hlt => by
      have hone : codeUnits .fp32 (2 ^ Fmt.mant .fp32) = 2 ^ 23 :=
        (codeUnits_binade .fp32 (k := 0) (y := 2 ^ 23) (by decide) (.inl rfl)).trans (mul_one _)
      have hsub : codeUnits .fp32 a < 2 ^ 23 := hone ▸ codeUnits_strictMono .fp32 hlt
      have h := ((hnear (2 ^ Fmt.mant .fp32) (by decide)).1 hlt).1
      rw [(hcmp _).1, hone] at h
      have hub : fpUnits b ≤ (2 ^ 24 - 1) * 2 ^ 253 := by
        rw [fpUnits_eq, ← codeUnits_maxCode]
        refine (codeUnits_strictMono .fp32).monotone ?_
        have := (finiteFp_iff b).mp hb
        simp only [infMag, Fmt.maxCode] at *
        omega
      rw [show 449 = 196 + 253 from rfl, pow_add] at h
      have hle : (codeUnits .fp32 a + 2 ^ 23) ^ 2 * fpUnits b ≤ (2 ^ 24) ^ 2 * (2 ^ 24 - 1) * 2 ^ 253 := by
        rw [mul_assoc]
        exact Nat.mul_le_mul (Nat.pow_le_pow_left (by omega) 2) hub
      have hlt : (2 ^ 24) ^ 2 * (2 ^ 24 - 1) * 2 ^ 253 < 2 ^ 196 * 2 ^ 253 :=
        (Nat.mul_lt_mul_right (by positivity)).mpr (by decide)
      exact absurd (h.trans hle) (Nat.not_le.mpr hlt)
    rw [hflags, hua, if_neg hnormal]
    simp only [hexact]

theorem floatRounding : Claim.FloatRounding :=
  ⟨fun _ neg n _ hf hd => convert_rounds hf neg n hd,
    fun neg n d lo hi hd =>
      have ⟨hup, hdown, htie⟩ := nearestEven_spec n hd
      ⟨nearestEven n d, hup, hdown, htie, convertInt_fin neg n lo hi hd⟩,
    fun _ _ hb hc => ⟨fadd_rounds hb hc, fsub_rounds hb hc, fmul_rounds hb hc, fun _ ha => ffma_rounds hb hc ha⟩,
    fun _ hb h0 => ⟨frcp_rounds hb h0, frsq_rounds hb h0⟩⟩

end Sys2Proof.Machine

/-! O37: what zeros, infinities and NaNs give (R104, R105), and the order of VFMIN and VFMAX. -/

namespace Sys2Proof.Machine

/-! ### Zeros, infinities and NaNs -/

theorem magOf_eq_zero_iff (w : Word) : w &&& 0x7FFFFFFF = 0 ↔ magOf w = 0 := by
  rw [magOf_eq, ← BitVec.toNat_inj]
  rfl

theorem magOf_eq_infMag_iff (w : Word) : w &&& 0x7FFFFFFF = 0x7F800000 ↔ magOf w = infMag := by
  rw [magOf_eq, ← BitVec.toNat_inj]
  rfl

theorem infWord_xor (neg : Bool) : infWord neg ^^^ 0x80000000 = infWord !neg := by cases neg <;> rfl

theorem exists_infWord {i : Word} (hi : i ∈ ([0x7F800000, 0xFF800000] : List Word)) : ∃ neg, i = infWord neg := by
  simp only [List.mem_cons, List.not_mem_nil, or_false] at hi
  rcases hi with rfl | rfl
  · exact ⟨false, rfl⟩
  · exact ⟨true, rfl⟩

theorem isNaN_infWord (neg : Bool) : isNaN (infWord neg) = false := by cases neg <;> decide

theorem isNaN_of_finite {w : Word} (h : FiniteFp w) : isNaN w = false := by
  rw [Bool.eq_false_iff, ne_eq, isNaN_iff]
  exact Nat.not_lt.mpr ((finiteFp_iff w).mp h).le

theorem fp_finite_ne_zero {w : Word} (h : FiniteFp w) (h0 : magOf w ≠ 0) :
    ∃ n d, fp w = .fin (signOf w) n d ∧ n ≠ 0 := by
  obtain ⟨n, d, hw, hn, -, -⟩ := fp_nonzero h (mt (fpUnits_eq_zero_iff w).mp h0)
  exact ⟨n, d, hw, hn.ne'⟩

theorem fp_zero {w : Word} (h : magOf w = 0) : ∃ d, fp w = .fin (signOf w) 0 d := by
  obtain ⟨n, d, hw, -, hn⟩ := fp_finite ((finiteFp_iff w).mpr (by rw [h]; decide))
  rw [(fpUnits_eq_zero_iff w).mpr h, Nat.zero_mul] at hn
  obtain rfl : n = 0 := (Nat.mul_eq_zero.mp hn).resolve_right (Nat.two_pow_pos 149).ne'
  exact ⟨d, hw⟩

/-- A code that is no NaN is an infinity or finite. -/
theorem inf_or_finite {w : Word} (h : isNaN w = false) : (∃ neg, w = infWord neg) ∨ FiniteFp w :=
  (fp_cases w).resolve_left (by rw [h]; decide)

/-! #### Sums -/

@[simp] theorem addNum_nan_left (y : Num) : addNum .nan y = some .nan := rfl
@[simp] theorem addNum_nan_right (x : Num) : addNum x .nan = some .nan := by cases x <;> rfl
@[simp] theorem addNum_fin_inf (a q : Bool) (n d : Nat) : addNum (.fin a n d) (.inf q) = some (.inf q) := rfl
@[simp] theorem addNum_inf_fin (a q : Bool) (n d : Nat) : addNum (.inf q) (.fin a n d) = some (.inf q) := rfl
@[simp] theorem addNum_inf_self (q : Bool) : addNum (.inf q) (.inf q) = some (.inf q) := if_pos rfl
@[simp] theorem addNum_inf_not (q : Bool) : addNum (.inf q) (.inf !q) = none := by cases q <;> rfl

/-- An infinity takes every value but a NaN and the opposite infinity. -/
theorem addNum_inf {a : Word} {q : Bool} (hn : isNaN a = false) (ha : a ≠ infWord !q) :
    addNum (.inf q) (fp a) = some (.inf q) := by
  rcases inf_or_finite hn with ⟨r, rfl⟩ | hf
  · obtain rfl : r = q := by_contra fun h => ha (by rw [Bool.eq_not.mpr h])
    rw [fp_infWord, addNum_inf_self]
  · obtain ⟨n, d, h, -⟩ := fp_finite hf
    rw [h, addNum_inf_fin]

/-! #### Products -/

@[simp] theorem mulNum_nan_left (y : Num) : mulNum .nan y = some .nan := rfl
@[simp] theorem mulNum_nan_right (x : Num) : mulNum x .nan = some .nan := by cases x <;> rfl
@[simp] theorem mulNum_zero_inf (a q : Bool) (d : Nat) : mulNum (.fin a 0 d) (.inf q) = none := rfl
@[simp] theorem mulNum_inf_zero (a q : Bool) (d : Nat) : mulNum (.inf q) (.fin a 0 d) = none := rfl

theorem mulNum_comm (x y : Num) : mulNum x y = mulNum y x := by
  cases x <;> cases y <;> simp [mulNum, Bool.bne_eq_xor, Bool.xor_comm, Nat.mul_comm]

/-- An infinity times a value that is no zero. -/
theorem mulNum_inf {c : Word} {q : Bool} (hn : isNaN c = false) (h0 : magOf c ≠ 0) :
    mulNum (.inf q) (fp c) = some (.inf (q != signOf c)) := by
  rcases inf_or_finite hn with ⟨r, rfl⟩ | hf
  · rw [fp_infWord, signOf_infWord]
    rfl
  · obtain ⟨n, d, h, hn⟩ := fp_finite_ne_zero hf h0
    rw [h]
    exact if_neg hn

/-- Only zero times an infinity has no value. -/
theorem mulNum_eq_none {b c : Word} (h : mulNum (fp b) (fp c) = none) :
    (magOf b = 0 ∧ magOf c = infMag) ∨ (magOf b = infMag ∧ magOf c = 0) := by
  have hone {v w : Word} (hv : magOf v = infMag) (h : mulNum (fp v) (fp w) = none) : magOf w = 0 := by
    by_contra h0
    cases hw : isNaN w
    · rw [fp_inf hv, mulNum_inf hw h0] at h
      cases h
    · rw [fp_nan hw, mulNum_nan_right] at h
      cases h
  rcases fp_cases b with hb | ⟨p, rfl⟩ | hb
  · rw [fp_nan hb, mulNum_nan_left] at h
    cases h
  · exact .inr ⟨magOf_infWord p, hone (magOf_infWord p) h⟩
  · rcases fp_cases c with hc | ⟨q, rfl⟩ | hc
    · rw [fp_nan hc, mulNum_nan_right] at h
      cases h
    · exact .inl ⟨hone (magOf_infWord q) (mulNum_comm _ _ ▸ h), magOf_infWord q⟩
    · obtain ⟨n, d, hb', -⟩ := fp_finite hb
      obtain ⟨m, e, hc', -⟩ := fp_finite hc
      rw [hb', hc'] at h
      cases h

theorem ffma_none {a b c : Word} (h : mulNum (fp b) (fp c) = none) : ffma a b c = (0x7FC00000, fNV) := by
  rw [ffma, h]
  rfl

theorem ffma_some {a b c : Word} {m : Num} (h : mulNum (fp b) (fp c) = some m) : ffma a b c = outOf (addNum m (fp a)) := by
  rw [ffma, h]

theorem outOf_inf (q : Bool) : outOf (some (.inf q)) = (infWord q, 0) := toFp_inf q

/-! #### The clauses of R104 and R105 -/

theorem zero_times_infinity {z i : Word} (hz : magOf z = 0) (hi : magOf i = infMag) :
    fmul z i = (0x7FC00000, fNV) ∧ fmul i z = (0x7FC00000, fNV) ∧
      ∀ a, ffma a z i = (0x7FC00000, fNV) ∧ ffma a i z = (0x7FC00000, fNV) := by
  obtain ⟨d, hfz⟩ := fp_zero hz
  have h : mulNum (fp z) (fp i) = none := by rw [hfz, fp_inf hi, mulNum_zero_inf]
  have h' : mulNum (fp i) (fp z) = none := by rw [mulNum_comm, h]
  exact ⟨by rw [fmul, h]; rfl, by rw [fmul, h']; rfl, fun a => ⟨ffma_none h, ffma_none h'⟩⟩

/-- The product of an infinity and a value that is no zero, and what is added to it. -/
theorem infinite_product (q : Bool) {c : Word} (hn : isNaN c = false) (h0 : magOf c ≠ 0) :
    let p := infWord (q != signOf c)
    fmul (infWord q) c = (p, 0) ∧ fmul c (infWord q) = (p, 0) ∧
      ∀ a : Word,
        (a = p ^^^ 0x80000000 → ffma a (infWord q) c = (0x7FC00000, fNV) ∧ ffma a c (infWord q) = (0x7FC00000, fNV)) ∧
        (a ≠ p ^^^ 0x80000000 → isNaN a = false → ffma a (infWord q) c = (p, 0) ∧ ffma a c (infWord q) = (p, 0)) := by
  intro p
  have h : mulNum (fp (infWord q)) (fp c) = some (.inf (q != signOf c)) := by rw [fp_infWord, mulNum_inf hn h0]
  have h' : mulNum (fp c) (fp (infWord q)) = some (.inf (q != signOf c)) := by rw [mulNum_comm, h]
  refine ⟨by rw [fmul, h, outOf_inf], by rw [fmul, h', outOf_inf], fun a => ⟨fun ha => ?_, fun ha hna => ?_⟩⟩
  · rw [ffma_some h, ffma_some h', ha, infWord_xor, fp_infWord, addNum_inf_not]
    exact ⟨rfl, rfl⟩
  · rw [infWord_xor] at ha
    rw [ffma_some h, ffma_some h', addNum_inf hna ha, outOf_inf]
    exact ⟨rfl, rfl⟩

theorem ffma_inf_finite (q : Bool) {b c : Word} (hb : FiniteFp b) (hc : FiniteFp c) :
    ffma (infWord q) b c = (infWord q, 0) := by
  obtain ⟨n, d, hfb, -⟩ := fp_finite hb
  obtain ⟨m, e, hfc, -⟩ := fp_finite hc
  rw [ffma, hfb, hfc, fp_infWord]
  exact outOf_inf q

theorem infinite_sums (q : Bool) {c : Word} (hc : FiniteFp c) :
    fadd (infWord q) c = (infWord q, 0) ∧ fadd c (infWord q) = (infWord q, 0) ∧
      fadd (infWord q) (infWord q) = (infWord q, 0) ∧ fsub (infWord q) c = (infWord q, 0) ∧
      fsub c (infWord q) = (infWord q ^^^ 0x80000000, 0) ∧
      fsub (infWord q) (infWord q ^^^ 0x80000000) = (infWord q, 0) := by
  obtain ⟨n, d, hfc, -⟩ := fp_finite hc
  rw [infWord_xor]
  simp [fadd, fsub, hfc, negNum, outOf_inf]

theorem frsq_negative {b : Word} (hs : signOf b = true) (h0 : b ≠ 0x80000000) (hn : isNaN b = false) :
    frsq b = (0x7FC00000, fNV) := by
  rcases inf_or_finite hn with ⟨q, rfl⟩ | hf
  · rw [signOf_infWord] at hs
    rw [hs]
    rfl
  · have hm : magOf b ≠ 0 := fun h => h0 (eq_of_signOf_magOf hs h)
    obtain ⟨n, d, hb, hne⟩ := fp_finite_ne_zero hf hm
    simp only [frsq, hb, hs, if_neg hne, if_true]
    rfl

theorem ffma_nan_product {a b c : Word} (h : isNaN b = true ∨ isNaN c = true) : ffma a b c = (0x7FC00000, 0) := by
  rcases h with h | h <;> rw [ffma, fp_nan h] <;> simp only [mulNum_nan_left, mulNum_nan_right, addNum_nan_left] <;> rfl

theorem ffma_nan_addend {a b c : Word} (ha : isNaN a = true)
    (h : ¬ ((b &&& 0x7FFFFFFF = 0 ∧ c &&& 0x7FFFFFFF = 0x7F800000) ∨
      (b &&& 0x7FFFFFFF = 0x7F800000 ∧ c &&& 0x7FFFFFFF = 0))) :
    ffma a b c = (0x7FC00000, 0) := by
  simp only [magOf_eq_zero_iff, magOf_eq_infMag_iff] at h
  cases hm : mulNum (fp b) (fp c) with
  | none => exact absurd (mulNum_eq_none hm) h
  | some m => rw [ffma_some hm, fp_nan ha, addNum_nan_right]; rfl

theorem nan_operands {b c : Word} (h : isNaN b = true ∨ isNaN c = true) :
    fadd b c = (0x7FC00000, 0) ∧ fsub b c = (0x7FC00000, 0) ∧ fmul b c = (0x7FC00000, 0) := by
  rcases h with h | h
  · rw [fadd, fsub, fmul, fp_nan h]
    exact ⟨rfl, rfl, rfl⟩
  · rw [fadd, fsub, fmul, fp_nan h, negNum, addNum_nan_right, mulNum_nan_right]
    exact ⟨rfl, rfl, rfl⟩

theorem nan_operand {b : Word} (h : isNaN b = true) :
    fabs b = (0x7FC00000, 0) ∧ frcp b = (0x7FC00000, 0) ∧ frsq b = (0x7FC00000, 0) := by
  rw [fabs, frcp, frsq, h, fp_nan h]
  exact ⟨rfl, rfl, rfl⟩

/-! ### The order of VFMIN and VFMAX -/

/-- Two fractions compare as their units do. -/
theorem ltNum_eqNum_fin (na nc : Bool) {a b c d u v : Nat} (hb : 0 < b) (hd : 0 < d) (ha : a * 2 ^ 149 = u * b)
    (hc : c * 2 ^ 149 = v * d) :
    ltNum (.fin na a b) (.fin nc c d) = decide (signedInt na u < signedInt nc v) ∧
      eqNum (.fin na a b) (.fin nc c d) = decide (signedInt na u = signedInt nc v) := by
  have hP : (0 : Int) < (2 ^ 149 : Nat) := by exact_mod_cast Nat.two_pow_pos 149
  have hbd : (0 : Int) < (b * d : Nat) := by exact_mod_cast Nat.mul_pos hb hd
  have hl : signedInt na (a * d) * (2 ^ 149 : Nat) = signedInt na u * (b * d : Nat) := by
    have : a * d * 2 ^ 149 = u * (b * d) := by rw [mul_right_comm, ha]; ring
    cases na <;> simp only [signedInt, Bool.false_eq_true, if_false, if_true, neg_mul, ← Nat.cast_mul, this]
  have hr : signedInt nc (c * b) * (2 ^ 149 : Nat) = signedInt nc v * (b * d : Nat) := by
    have : c * b * 2 ^ 149 = v * (b * d) := by rw [mul_right_comm, hc]; ring
    cases nc <;> simp only [signedInt, Bool.false_eq_true, if_false, if_true, neg_mul, ← Nat.cast_mul, this]
  have hlt : signedInt na (a * d) < signedInt nc (c * b) ↔ signedInt na u < signedInt nc v := by
    rw [← mul_lt_mul_iff_of_pos_right hP, hl, hr, mul_lt_mul_iff_of_pos_right hbd]
  have heq : signedInt na (a * d) = signedInt nc (c * b) ↔ signedInt na u = signedInt nc v := by
    rw [← mul_left_inj' hP.ne', hl, hr, mul_left_inj' hbd.ne']
  simp only [signedInt, Nat.cast_mul] at hlt heq ⊢
  exact ⟨decide_eq_decide.mpr hlt, decide_eq_decide.mpr heq⟩

theorem fpUnits_infWord_lt {w : Word} (q : Bool) (h : FiniteFp w) : fpUnits w < fpUnits (infWord q) := by
  rw [fpUnits_lt_iff, magOf_infWord]
  exact (finiteFp_iff w).mp h

/-- Codes that are no NaN compare as their signed units do, an infinity as the code after the largest finite one. -/
theorem flt_feq_eq {b c : Word} (hb : isNaN b = false) (hc : isNaN c = false) :
    flt b c = decide (fpInt b < fpInt c) ∧ feq b c = decide (fpInt b = fpInt c) := by
  rw [flt, feq, fpInt_eq, fpInt_eq]
  rcases inf_or_finite hb with ⟨p, rfl⟩ | hfb <;> rcases inf_or_finite hc with ⟨q, rfl⟩ | hfc
  · have hpos : 0 < fpUnits (infWord p) := Nat.pos_of_ne_zero (by rw [ne_eq, fpUnits_eq_zero_iff, magOf_infWord]; decide)
    have hsame : fpUnits (infWord q) = fpUnits (infWord p) := by rw [fpUnits_eq_iff, magOf_infWord, magOf_infWord]
    simp only [fp_infWord, signOf_infWord, hsame]
    cases p <;> cases q <;> simp [ltNum, eqNum, signedInt] <;> omega
  · have hlt := fpUnits_infWord_lt p hfc
    obtain ⟨n, d, h, -⟩ := fp_finite hfc
    rw [fp_infWord, signOf_infWord, h]
    cases p <;> cases signOf c <;> simp [ltNum, eqNum, signedInt] <;> omega
  · have hlt := fpUnits_infWord_lt q hfb
    obtain ⟨n, d, h, -⟩ := fp_finite hfb
    rw [fp_infWord, signOf_infWord, h]
    cases q <;> cases signOf b <;> simp [ltNum, eqNum, signedInt] <;> omega
  · obtain ⟨n, d, hb', hd, hn⟩ := fp_finite hfb
    obtain ⟨m, e, hc', he, hm⟩ := fp_finite hfc
    rw [hb', hc']
    exact ltNum_eqNum_fin _ _ hd he hn hm

theorem fpOrder_eq (w : Word) : fpOrder w = if signOf w then -(magOf w : Int) - 1 else magOf w := by
  have hw := toNat_eq_signOf_magOf w
  unfold fpOrder
  change (if signOf w = true then -((magOf w : Nat) : Int) - 1 else _) = _
  cases hs : signOf w
  · rw [hs, if_neg (by decide), Nat.zero_add] at hw
    simp [hw]
  · rfl

theorem fltZ_eq {b c : Word} (hb : isNaN b = false) (hc : isNaN c = false) : fltZ b c = decide (fpOrder b < fpOrder c) := by
  obtain ⟨hlt, heq⟩ := flt_feq_eq hb hc
  have h1 := fpUnits_lt_iff b c
  have h2 := fpUnits_lt_iff c b
  have h3 := fpUnits_eq_zero_iff b
  have h4 := fpUnits_eq_zero_iff c
  rw [fltZ, hlt, heq, fpInt_eq, fpInt_eq, fpOrder_eq, fpOrder_eq, Bool.eq_iff_iff]
  cases signOf b <;> cases signOf c <;> simp [signedInt] <;> omega

theorem fmin_fmax_order {b c : Word} (hb : isNaN b = false) (hc : isNaN c = false) :
    fmin b c = (if fpOrder c < fpOrder b then c else b, 0) ∧ fmax b c = (if fpOrder b < fpOrder c then c else b, 0) := by
  simp only [fmin, fmax, hb, hc, fltZ_eq hb hc, fltZ_eq hc hb, decide_eq_true_eq, Bool.false_eq_true, if_false]
  exact ⟨rfl, rfl⟩

theorem floatSpecialValues : Claim.FloatSpecialValues := by
  refine ⟨by decide, by decide, by decide, by decide, fun z hz i hi => ?_, fun i hi => ?_, fun a b c h => ffma_nan_product h,
    fun a b c ha h => ffma_nan_addend ha h, fun b hs h0 hn => frsq_negative hs h0 hn, fun b c h => nan_operands h,
    fun b h => nan_operand h, by decide, by decide, by decide, by decide, by decide, by decide, by decide,
    fun b c hb hc => ?_, fun b c hb hc => ?_, fun b c hb hc => ?_, fun b c hb hc => fmin_fmax_order hb hc⟩
  · obtain ⟨q, rfl⟩ := exists_infWord hi
    refine zero_times_infinity ?_ (magOf_infWord q)
    simp only [List.mem_cons, List.not_mem_nil, or_false] at hz
    rcases hz with rfl | rfl <;> rfl
  · obtain ⟨q, rfl⟩ := exists_infWord hi
    refine ⟨fun c hn h0 => ?_, fun b c hb hc => ffma_inf_finite q hb hc, fun c hc => infinite_sums q hc⟩
    have hp : (if (infWord q ^^^ c).getLsbD 31 then (0xFF800000 : Word) else 0x7F800000) = infWord (q != signOf c) := by
      have hx : (infWord q ^^^ c).getLsbD 31 = (q != signOf c) := by
        rw [BitVec.getLsbD_xor, ← signOf, signOf_infWord, Bool.bne_eq_xor]
        rfl
      rw [hx]
      rfl
    rw [hp]
    exact infinite_product q hn (mt (magOf_eq_zero_iff c).mpr h0)
  all_goals
    simp only [fmin, fmax, hb, hc, Bool.false_eq_true, if_true, if_false]
    exact ⟨rfl, rfl⟩

/-- Settles O37: an exact value is a fraction in units of the format's smallest positive value, which the rounding of its binade
brings to its nearest code; the special values by the kind of each operand. -/
theorem floatResults : Obligations.FloatResults := ⟨floatSpecialValues, floatRounding⟩

end Sys2Proof.Machine

/-! SUPPORT. O58: the events of the copy engine (R207, R209, R222). -/

namespace Sys2Proof.Machine

@[simp] theorem getCore_modCore_same (s : State) (c : Nat) (f : Core → Core) : getCore (modCore s c f) c = f (getCore s c) :=
  getCore_setCore_same s c _

theorem tags_setCopy (s : State) (c : Nat) (o : CopyOp) : (getCore (setCopy s c o) c).tags = (getCore s c).tags := by
  rw [setCopy, getCore_modCore_same]

/-! ### The end of an operation -/

theorem noteFree_silent {o : CopyOp} (h : o.notify = false) (k : Core) : noteFree k o = true := by simp [noteFree, h]

theorem noteIn_silent {o : CopyOp} (h : o.notify = false) (s : State) (c : Nat) : noteIn s c o = s := by simp [noteIn, h]

theorem tellFailure_none {o : CopyOp} (h : o.ended = none) (s : State) (c : Nat) : tellFailure s c o = s := by
  simp [tellFailure, h]

/-- What the end of an operation makes of its core, beside messages and notices. -/
def freeCopy (o : CopyOp) (k : Core) : Core :=
  let k' := { k with copyRun := k.copyRun.filter fun p => p.id != o.id }
  if (k'.copyQ ++ k'.copyRun).any fun p => p.tag = o.tag then k' else setTag k' o.tag true

theorem finishCopy_silent {o : CopyOp} (hn : o.notify = false) (he : o.ended = none) (s : State) (c : Nat) :
    finishCopy s c o = modCore s c (freeCopy o) := by
  rw [finishCopy, noteIn_silent hn, tellFailure_none he]
  rfl

theorem freeCopy_copyQ (o : CopyOp) (k : Core) : (freeCopy o k).copyQ = k.copyQ := by
  unfold freeCopy
  dsimp only
  split <;> rfl

theorem freeCopy_copyRun (o : CopyOp) (k : Core) : (freeCopy o k).copyRun = k.copyRun.filter fun p => p.id != o.id := by
  unfold freeCopy
  dsimp only
  split <;> rfl

theorem freeCopy_tags {o : CopyOp} {k : Core}
    (h : ∀ p ∈ (freeCopy o k).copyQ ++ (freeCopy o k).copyRun, p.tag ≠ o.tag) :
    (freeCopy o k).tags = putBit k.tags o.tag true := by
  rw [freeCopy_copyQ, freeCopy_copyRun] at h
  unfold freeCopy
  dsimp only
  rw [if_neg]
  · rfl
  · rw [List.any_eq_true]
    rintro ⟨p, hp, ht⟩
    exact h p hp (of_decide_eq_true ht)

/-! ### Collectives -/

theorem collDiffer_iff (ps : List (Nat × CopyOp)) (o : CopyOp) :
    collDiffer ps o = true ↔ ∃ p ∈ ps, p.2.bytes ≠ o.bytes ∨ p.2.opw ≠ o.opw := by simp [collDiffer]

theorem collDiffer_false {ps : List (Nat × CopyOp)} {o : CopyOp} (h : ∀ p ∈ ps, p.2.bytes = o.bytes ∧ p.2.opw = o.opw) :
    collDiffer ps o = false := by
  rw [Bool.eq_false_iff, ne_eq, collDiffer_iff]
  rintro ⟨p, hp, hne⟩
  exact hne.elim (· (h p hp).1) (· (h p hp).2)

/-- What the event makes of the sources that the participants bring. -/
def combineGot (s : State) (o : CopyOp) (ps : List (Nat × CopyOp)) : Got (List (List Word)) → State
  | .held => s
  | .fail s1 st e w => endAll s1 ps st e w
  | .val s1 vs =>
    let s2 := { s1 with free := s1.free + copyWords o + 2 }
    if podStatus s1 o != 0 then
      endAll s2 ps (podStatus s1 o) (if podStatus s1 o = 3 then 0 else Config.freeNat (s1.free + 1)) 0
    else
      let ws := combinedWords s1 o vs
      let skip (p : CopyOp) : Bool := o.opw / 256 % 2 = 1 && (podLower s1 o || p.rank.toNat != lowestRank ps)
      ps.foldl (fun s p => setCopy s p.1 { p.2 with combined := some (if skip p.2 then [] else ws) }) s2

theorem collCombine_ready {s : State} {c : Nat} {o : CopyOp} (order : List Nat)
    (hf : ((getCore s c).copyQ ++ (getCore s c).copyRun).find? (fun p => p.id = o.id) = some o)
    (hr : collReady s c o = true) :
    exec (.collCombine c o.id order) s = .next (
      let ps := inOrder (matched s c o) order
      if collDiffer ps o then endAll s ps 3 0 0 else combineGot s o ps (gatherSources ps s)) := by
  simp only [exec, execCollCombine, hf, hr, Bool.not_true, Bool.false_eq_true, if_false]
  cases gatherSources (inOrder (matched s c o) order) s <;> rfl

theorem podStatus_alone {s : State} {o : CopyOp} (h : podOthers s o = false) : podStatus s o = 0 := by simp [podStatus, h]

theorem copyEvents : Claim.CopyEvents := by
  refine ⟨fun s c o l hq hlen => ?_, fun s c o hf hm => ?_, fun s c o order hf hr => ?_⟩
  · have hready : copyStartReady (getCore s c) = true := by simp [copyStartReady, hq, hlen]
    refine ⟨_, rfl, ?_⟩
    simp only [getCore_modCore_same, hready, if_true, hq, modCore_mem]
    exact ⟨rfl, rfl, trivial⟩
  · intro r hover hn he
    have hstep : exec (.copyComplete c o.id) s = .next (modCore (setCopy r.1 c r.2) c (freeCopy r.2)) := by
      rw [← finishCopy_silent hn he]
      simp only [exec, execCopyComplete, hf, hm, if_true]
      rw [if_pos (by rw [hover, noteFree_silent hn]; rfl)]
    refine ⟨_, hstep, modCore_mem .., fun p hp => ?_, fun ht => ?_⟩
    · rw [getCore_modCore_same, freeCopy_copyRun, List.mem_filter] at hp
      simpa using hp.2
    · rw [getCore_modCore_same] at ht ⊢
      rw [freeCopy_tags ht, tags_setCopy]
  · intro ps
    have hstep := collCombine_ready order hf hr
    have hgot (hsame : ∀ p ∈ ps, p.2.bytes = o.bytes ∧ p.2.opw = o.opw) :
        exec (.collCombine c o.id order) s = .next (combineGot s o ps (gatherSources ps s)) := by
      rw [hstep]
      exact congrArg _ (if_neg (by rw [collDiffer_false hsame]; decide))
    refine ⟨fun h => ?_, fun s1 st e w hsame hg => ?_, fun s1 vs hsame hg =>
      ⟨podStatus_alone, fun hst => ?_, fun hst hopw => ?_⟩⟩
    · rw [hstep]
      exact congrArg _ (if_pos ((collDiffer_iff ps o).mpr h))
    · rw [hgot hsame, hg]
      rfl
    · rw [hgot hsame, hg]
      exact congrArg _ (if_pos (bne_iff_ne.mpr hst))
    · have hskip (b : Bool) : (decide (o.opw / 256 % 2 = 1) && b) = false := by
        rw [hopw]
        rfl
      rw [hgot hsame, hg, combineGot, if_neg (by rw [hst]; decide)]
      simp only [hskip, Bool.false_eq_true, if_false]

end Sys2Proof.Machine

/-! SUPPORT. O58: the power table's factor VT of a core, by which a matrix command is charged when it is over, is what it was when
the command began: nothing that a command runs into on its way changes it (R296). -/

namespace Sys2Proof.Machine

/-- From `s` to `s'` no core's VT has changed. -/
structure KeepsVt (s s' : State) : Prop where
  vt : ∀ d, (getCore s' d).vt = (getCore s d).vt

theorem KeepsVt.refl (s : State) : KeepsVt s s := ⟨fun _ => rfl⟩

theorem KeepsVt.trans {s s' s'' : State} (h : KeepsVt s s') (g : KeepsVt s' s'') : KeepsVt s s'' :=
  ⟨fun d => (g.vt d).trans (h.vt d)⟩

theorem KeepsVt.foldl {α : Type} {f : State → α → State} (h : ∀ s a, KeepsVt s (f s a)) (l : List α) (s : State) :
    KeepsVt s (l.foldl f s) := by
  induction l generalizing s with
  | nil => exact .refl s
  | cons a l ih => exact (h s a).trans (ih _)

/-- What leaves the cores alone keeps their VT. -/
theorem KeepsVt.of_cores {s s' : State} (hc : s'.cores = s.cores) (hb : s'.booted = s.booted) : KeepsVt s s' :=
  ⟨fun d => by rw [getCore_congr hc hb]⟩

theorem Booked.keepsVt {s s' : State} (h : Booked s s') : KeepsVt s s' := .of_cores h.cores h.booted

/-- So does what is counted of requests. -/
theorem Counts.keepsVt {f : State → State} (h : Counts f) (s : State) : KeepsVt s (f s) := by
  rw [h s s ⟨rfl, rfl⟩]
  exact .of_cores rfl rfl

/-! ### Cores and threads -/

theorem keepsVt_setCore {s : State} {c : Nat} {k : Core} (h : k.vt = (getCore s c).vt) : KeepsVt s (setCore s c k) := by
  refine ⟨fun d => ?_⟩
  by_cases hd : d = c
  · rw [hd, getCore_setCore_same, h]
  · rw [getCore_setCore_ne _ _ _ _ hd]

theorem keepsVt_modCore {s : State} {c : Nat} {f : Core → Core} (h : (f (getCore s c)).vt = (getCore s c).vt) :
    KeepsVt s (modCore s c f) := keepsVt_setCore h

theorem keepsVt_setSlot (s : State) (c i : Nat) (x : Slot) : KeepsVt s (setSlot s c i x) := keepsVt_setCore rfl

theorem keepsVt_setThread (s : State) (c i : Nat) (t : Thread) : KeepsVt s (setThread s c i t) := keepsVt_setSlot ..

theorem keepsVt_modThread (s : State) (c i : Nat) (f : Thread → Thread) : KeepsVt s (modThread s c i f) := by
  unfold modThread
  split
  · exact .refl s
  · exact keepsVt_setThread ..

theorem keepsVt_setPair (s : State) (c : Nat) (p : Pair) : KeepsVt s (setPair s c p) := keepsVt_modCore rfl

theorem keepsVt_onBoth (s : State) (c i : Nat) (f : Thread → Thread) : KeepsVt s (onBoth s c i f) := by
  unfold onBoth
  split
  · exact keepsVt_modThread ..
  · exact ((keepsVt_modThread ..).trans (keepsVt_modThread ..)).trans (keepsVt_setPair ..)

theorem keepsVt_modPend (s : State) (c i : Nat) (f : Thread → Thread) : KeepsVt s (modPend s c i f) := by
  unfold modPend
  split
  · exact .refl s
  · split
    · exact keepsVt_onBoth ..
    · exact keepsVt_setThread ..

/-! ### Stores -/

section
variable {α : Type} (g : Core → α) (hg : ∀ k x, g { k with slots := x } = g k)
include hg

/-- The write of a thread leaves what does not read its core's slots. -/
theorem setThread_keepsCore (s : State) (c i d : Nat) (t : Thread) : g (getCore (setThread s c i t) d) = g (getCore s d) :=
  (hg _ _).symm.trans (congrArg g (coreRest_setThread s c i d t))

/-- So does a store, which wakes slots. -/
theorem wakeCore_keepsCore (s : State) (c line d : Nat) : g (getCore (wakeCore s c line) d) = g (getCore s d) :=
  (hg _ _).symm.trans (congrArg g (coreRest_wakeCore s c line d))

theorem wakeLine_keepsCore (s : State) (p : Place) (d : Nat) : g (getCore (wakeLine s p) d) = g (getCore s d) := by
  unfold wakeLine
  split
  · exact wakeCore_keepsCore g hg ..
  · simp only [wakeCore_keepsCore g hg]
  · rfl

theorem storeNat_keepsCore (s : State) (p : Place) (n v d : Nat) : g (getCore (storeNat s p n v) d) = g (getCore s d) := by
  unfold storeNat
  split
  · rfl
  · rw [wakeLine_keepsCore g hg]
    rfl

end

theorem keepsVt_storeNat (s : State) (p : Place) (n v : Nat) : KeepsVt s (storeNat s p n v) :=
  ⟨fun _ => storeNat_keepsCore Core.vt (fun _ _ => rfl) ..⟩

theorem keepsVt_storeWord (s : State) (p : Place) (v : Word) : KeepsVt s (storeWord s p v) := keepsVt_storeNat ..

/-! ### Traps -/

theorem keepsVt_forgetTimes (s : State) (d : Nat) : KeepsVt s (forgetTimes s d) := by
  refine ⟨fun c => ?_⟩
  have hb : (forgetTimes s d).booted = s.booted := rfl
  rw [getCore, forgetTimes_cores, hb, smGet_map (forgetTime d), getCore]
  cases smGet s.cores c with
  | none => rfl
  | some k =>
    dsimp only [Option.map_some, Option.getD_some, forgetTime]
    split <;> rfl

theorem keepsVt_traceRecord (s : State) (ty c i : Nat) (pc : Word) (payload : List Word) :
    KeepsVt s (traceRecord s ty c i pc payload) := by
  unfold traceRecord
  dsimp only
  split
  · split
    · exact (booked_setTrace ..).keepsVt.trans (keepsVt_forgetTimes ..)
    · refine KeepsVt.trans ?_ (keepsVt_modCore rfl)
      refine KeepsVt.trans ?_ (booked_tracePut ..).keepsVt
      split
      · exact (booked_tracePut ..).keepsVt.trans (booked_setTrace ..).keepsVt
      · exact .refl s
  · exact .refl s

theorem keepsVt_fatalStop (s : State) (kind : Nat) (slot core : Option Nat) : KeepsVt s (fatalStop s kind slot core) := by
  have h : KeepsVt s { s with cc := { s.cc with fatal := true } } := .of_cores rfl rfl
  unfold fatalStop
  dsimp only
  split
  · exact h.trans (booked_errReport ..).keepsVt
  · exact (h.trans (booked_errWrite ..).keepsVt).trans (.of_cores rfl rfl)

theorem keepsVt_askPage (s : State) (c i : Nat) (t : Thread) (x : TrapInfo) (z : Bool) : KeepsVt s (askPage s c i t x z) := by
  unfold askPage
  split
  · dsimp only
    split <;> exact .of_cores rfl rfl
  · exact .refl s

theorem keepsVt_takeTrap (s : State) (c i : Nat) (t : Thread) (x : TrapInfo) : KeepsVt s (takeTrap s c i t x) := by
  have hforget : KeepsVt s (modCore s c (matForget i)) := keepsVt_modCore (by
    obtain ⟨w, g, h⟩ := matForget_eq i (getCore s c)
    rw [h])
  refine hforget.trans ?_
  unfold takeTrap
  dsimp only
  generalize modCore s c (matForget i) = s1
  split
  · split
    · exact ((keepsVt_setThread ..).trans (keepsVt_modCore rfl)).trans (keepsVt_fatalStop ..)
    · exact (keepsVt_setThread ..).trans (keepsVt_askPage ..)
  · split
    · exact (keepsVt_setThread ..).trans (keepsVt_askPage ..)
    · exact ((((keepsVt_setThread ..).trans (keepsVt_setSlot ..)).trans (keepsVt_modThread ..)).trans
        (keepsVt_traceRecord ..)).trans (keepsVt_askPage ..)

theorem keepsVt_trapPend (s : State) (c i : Nat) (t : Thread) (x : TrapInfo) : KeepsVt s (trapPend s c i t x) := by
  unfold trapPend
  split
  · exact (keepsVt_onBoth ..).trans (keepsVt_takeTrap ..)
  · exact keepsVt_takeTrap ..

/-! ### Accesses at their banks -/

theorem keepsVt_setFullWord (s : State) (p : Place) (b : Bool) : KeepsVt s (setFullWord s p b) := .of_cores rfl rfl

/-- What an access that has performed leaves, if it leaves anything. -/
def ServedKeepsVt (s : State) : Served → Prop
  | .done s' _ _ => KeepsVt s s'
  | _ => True

theorem servedKeepsVt_ite {s : State} {b : Prop} [Decidable b] {x y : Served} (hx : ServedKeepsVt s x)
    (hy : ServedKeepsVt s y) : ServedKeepsVt s (if b then x else y) := by
  split <;> assumption

theorem servedKeepsVt_serve (s : State) (a : Access) : ServedKeepsVt s (serve s a) := by
  have hstay : KeepsVt s s := .refl s
  have hword (p : Place) (v : Word) (b : Bool) : KeepsVt s (setFullWord (storeWord s p v) p b) :=
    (keepsVt_storeWord ..).trans (keepsVt_setFullWord ..)
  refine servedKeepsVt_ite trivial (servedKeepsVt_ite trivial ?_)
  cases a.parts with
  | nil => cases a.kind <;> exact hstay
  | cons p ps =>
    cases a.kind with
    | load | frame _ | tagrd => exact hstay
    | store => exact KeepsVt.foldl (fun s p => keepsVt_storeNat ..) _ s
    | lde => exact servedKeepsVt_ite hstay trivial
    | ldt => exact servedKeepsVt_ite (keepsVt_setFullWord ..) trivial
    | stf | ste => exact hword ..
    | amo _ | qadd => exact keepsVt_storeWord ..
    | cas => exact servedKeepsVt_ite (keepsVt_storeWord ..) hstay
    | rsv => exact .of_cores rfl rfl
    | rls => exact servedKeepsVt_ite ((keepsVt_storeWord ..).trans (.of_cores rfl rfl)) hstay
    | swap => exact servedKeepsVt_ite (KeepsVt.foldl (fun s e => keepsVt_storeWord ..) _ s) hstay

theorem keepsVt_serve {s s' : State} {a : Access} {vals : List Word} {okay : Bool} (h : serve s a = .done s' vals okay) :
    KeepsVt s s' := by
  have := servedKeepsVt_serve s a
  rwa [h] at this

theorem keepsVt_completeLead (s : State) (a : Access) (vals : List Word) : KeepsVt s (completeLead s a vals) := by
  unfold completeLead
  dsimp only
  have h : KeepsVt s (dropFlight s a.id) := .of_cores rfl rfl
  split
  · exact h.trans (keepsVt_modThread ..)
  · exact (h.trans (keepsVt_modThread ..)).trans (keepsVt_setPair ..)

theorem keepsVt_completeAccess (s : State) (a : Access) (vals : List Word) (okay : Bool) :
    KeepsVt s (completeAccess s a vals okay) := by
  have hdrop : KeepsVt s (dropFlight s a.id) := .of_cores rfl rfl
  unfold completeAccess
  split
  · unfold completeForeign
    split <;> exact .of_cores rfl rfl
  · split
    · exact .of_cores rfl rfl
    · split
      · split
        · exact hdrop.trans (keepsVt_modThread ..)
        · exact hdrop
      · exact hdrop
      · exact hdrop
      · exact hdrop
      · exact hdrop
      · exact keepsVt_completeLead ..
      · split <;> exact hdrop.trans (keepsVt_modPend ..)

theorem keepsVt_failAccess (s : State) (a : Access) : KeepsVt s (failAccess s a) := by
  have hdrop : KeepsVt s (dropFlight s a.id) := .of_cores rfl rfl
  unfold failAccess
  dsimp only
  have h1 : KeepsVt s (if a.foreign then answerWith (dropFlight s a.id) none else consumed (dropFlight s a.id) a.core) := by
    split
    · exact .of_cores rfl rfl
    · exact hdrop.trans (booked_consumed ..).keepsVt
  refine h1.trans ?_
  generalize (if a.foreign then answerWith (dropFlight s a.id) none else consumed (dropFlight s a.id) a.core) = s1
  split
  · exact .refl _
  · split
    · split
      · exact keepsVt_setThread ..
      · exact .refl _
    · exact keepsVt_setThread ..
    · exact keepsVt_setThread ..
    · exact keepsVt_setThread ..
    all_goals
      split
      · exact keepsVt_trapPend ..
      · exact keepsVt_setThread ..

theorem keepsVt_serveList (w n : Nat) (s : State) : KeepsVt s (serveList w n s) := by
  induction n generalizing s with
  | zero => exact .refl s
  | succ n ih =>
    unfold serveList
    split
    · exact .refl s
    · split
      next h => exact ((keepsVt_serve h).trans (keepsVt_completeAccess ..)).trans (ih _)
      · exact .of_cores rfl rfl
      · exact .refl s

theorem keepsVt_afterServe (s : State) (a : Access) : KeepsVt s (afterServe s a) := by
  unfold afterServe
  split
  · exact KeepsVt.foldl (fun s w => keepsVt_serveList w _ s) _ s
  · exact .refl s

theorem keepsVt_attempt (s : State) (a : Access) : KeepsVt s (attempt s a) := by
  unfold attempt
  refine ((counts_countArrival a).keepsVt s).trans ?_
  dsimp only
  split
  next h => exact ((keepsVt_serve h).trans (keepsVt_completeAccess ..)).trans (keepsVt_afterServe ..)
  · exact .of_cores rfl rfl
  · exact .of_cores rfl rfl
  · exact keepsVt_failAccess ..

theorem keepsVt_settleBefore (c : Nat) (ps : List Place) (ws : List Nat) (n : Nat) (s : State) :
    KeepsVt s (settleBefore c ps ws n s) := by
  induction n generalizing s with
  | zero => exact .refl s
  | succ n ih =>
    unfold settleBefore
    split
    · exact (keepsVt_attempt ..).trans (ih _)
    · exact .refl s

theorem keepsVt_settleEarlier (s : State) (c : Nat) (ps : List Place) (ws : List Nat) : KeepsVt s (settleEarlier s c ps ws) := by
  unfold settleEarlier
  split
  · exact .refl s
  · exact keepsVt_settleBefore ..

/-! ### Translation -/

theorem keepsVt_countWalk (s : State) (d : Nat) (l : List Nat) : KeepsVt s (countWalk s d l) :=
  (Counts.foldl _ (fun a => (counts_backInvalidate (physPlace a)).comp (counts_countReq d 4)) l).keepsVt s

theorem keepsVt_walkNow (s : State) (c asn va : Nat) : KeepsVt s (walkNow s c asn va) := by
  unfold walkNow
  split
  · exact .refl s
  · dsimp only
    split
    · exact keepsVt_countWalk ..
    · exact (keepsVt_countWalk ..).trans (.of_cores rfl rfl)

theorem keepsVt_walkAll (c asn : Nat) (need : Need) (n : Nat) (s : State) (va : Nat) :
    KeepsVt s (walkAll c asn need n s va) := by
  induction n generalizing s with
  | zero => exact .refl s
  | succ n ih =>
    unfold walkAll
    split
    · split
      · exact (keepsVt_walkNow ..).trans (ih _)
      · exact keepsVt_walkNow ..
    · exact .refl s

theorem keepsVt_engineXlate {s s' : State} {c asn va : Nat} {need : Need} {fresh : Bool} {p : Place}
    (h : engineXlate s c asn need va fresh = .at s' p) : KeepsVt s s' := by
  unfold engineXlate at h
  dsimp only at h
  split at h
  · split at h
    · cases h
    · cases h
      refine (keepsVt_walkAll c asn need 5 s va).trans ?_
      split
      · exact (counts_countAll c p _).keepsVt _
      · exact (counts_backInvalidate _).keepsVt _
  all_goals cases h

/-! ### Operands -/

theorem keepsVt_mapLines {c : Nat} {m : MatCmd} {need : Need} {ls : List Nat} {s s' : State} {ps ps' : List (Nat × Place)}
    (h : mapLines c m need ls s ps = .all s' ps') : KeepsVt s s' := by
  induction ls generalizing s ps with
  | nil => cases h; exact .refl _
  | cons l ls ih =>
    unfold mapLines at h
    split at h
    · cases h
      exact .refl _
    · split at h
      next hx => exact (keepsVt_engineXlate hx).trans (ih h)
      all_goals cases h

theorem keepsVt_readFrom {c : Nat} {m : MatCmd} {offs : List Nat} {s s' : State} {ps : List (Nat × Place)} {v v' : Nat}
    (h : readFrom c m offs s ps v = .val s' v') : KeepsVt s s' := by
  induction offs generalizing s ps v with
  | nil => cases h; exact .refl _
  | cons off offs ih =>
    unfold readFrom at h
    split at h
    · cases h
    · cases h
    next s0 ps1 hm =>
      have h0 : KeepsVt s s0 := by
        split at hm
        · cases hm
          exact .refl _
        · exact keepsVt_mapLines hm
      dsimp only at h
      split at h
      · cases h
      · split at h
        · cases h
        · exact (h0.trans (keepsVt_settleEarlier ..)).trans (ih h)

theorem keepsVt_readOperand {s s' : State} {c n v : Nat} {m : MatCmd} (h : readOperand s c m n = .val s' v) : KeepsVt s s' :=
  keepsVt_readFrom h

/-! ### Commands -/

/-- What no step of a fold changes, the fold leaves. -/
theorem foldl_keeps {α β γ : Type} (g : β → γ) {f : β → α → β} (h : ∀ b a, g (f b a) = g b) (l : List α) (b : β) :
    g (l.foldl f b) = g b := by
  induction l generalizing b with
  | nil => rfl
  | cons a l ih => rw [List.foldl_cons, ih, h]

/-- A multiplication changes nothing but accumulators and their status. -/
theorem mulRun_keeps {α : Type} (g : Core → α) (hg : ∀ k t i j v w, g (setStat (setAcc k t i j v) t w) = g k)
    (u : Mul) (k : Core) (t rows cols : Nat) : g (u.run k t rows cols) = g k :=
  foldl_keeps g (fun k _ => foldl_keeps g (fun _ _ => hg ..) _ k) _ k

theorem keepsVt_runWld {s s1 : State} {c cost : Nat} {m : MatCmd} (h : runWld s c m = .over s1 cost none) : KeepsVt s s1 := by
  unfold runWld at h
  dsimp only at h
  split at h
  · cases h
  · cases h
  next hv =>
    cases h
    exact (keepsVt_readOperand hv).trans (keepsVt_storeNat ..)

theorem keepsVt_mmaInto (s : State) (c : Nat) (m : MatCmd) (bs : List Block) (data : Nat) :
    KeepsVt s (mmaInto s c m bs data) := by
  unfold mmaInto
  refine keepsVt_modCore ?_
  rw [mulRun_keeps Core.vt (fun _ _ _ _ _ _ => rfl)]
  split <;> rfl

theorem takeWords_over {s s1 : State} {c cost : Nat} {m : MatCmd} {f : Option MatFail} (h : takeWords s c m = .over s1 cost f) :
    f ≠ none := by
  unfold takeWords at h
  dsimp only at h
  generalize (if m.gone then Stream.off else streamFor s c m) = v at h
  split at h
  · split at h
    · cases h
      exact Option.some_ne_none _
    · cases h
  · cases h

theorem keepsVt_mmaA {s s1 : State} {c data : Nat} {m : MatCmd} (h : mmaA s c m = .val s1 data) : KeepsVt s s1 := by
  unfold mmaA at h
  split at h
  · exact keepsVt_readOperand h
  · cases h
    exact .refl _

theorem keepsVt_runMma {s s1 : State} {c cost : Nat} {m : MatCmd} (h : runMma s c m = .over s1 cost none) : KeepsVt s s1 := by
  unfold runMma at h
  dsimp only at h
  split at h
  · cases h
  · split at h
    · split at h
      next hw =>
        cases h
        exact absurd rfl (takeWords_over hw)
      next hne => exact absurd h (hne _ _ _)
    · split at h
      · cases h
      · cases h
      next ha =>
        split at h
        · cases h
        · cases h
          exact (keepsVt_mmaA ha).trans (keepsVt_mmaInto ..)

theorem keepsVt_cvtStore {s s1 : State} {c cost : Nat} {m : MatCmd} {cs : List (Nat × BitVec 5)} {ws : List (Nat × Nat × Nat)}
    {ps : List (Nat × Place)} {fault : Option MatFail} (h : runCvtst.cvtStore s c m cs ws ps fault = .over s1 cost none) :
    KeepsVt s s1 := by
  unfold runCvtst.cvtStore at h
  dsimp only at h
  split at h
  · cases h
  · split at h
    · cases h
    · cases h
    · cases h
      refine ((keepsVt_settleEarlier ..).trans (KeepsVt.foldl (fun s w => keepsVt_storeNat ..) ws _)).trans (keepsVt_modCore ?_)
      split <;> rfl

theorem cvtStore_fault {s s1 : State} {c cost : Nat} {m : MatCmd} {cs : List (Nat × BitVec 5)} {ws : List (Nat × Nat × Nat)}
    {ps : List (Nat × Place)} {e : MatFail} {f : Option MatFail}
    (h : runCvtst.cvtStore s c m cs ws ps (some e) = .over s1 cost f) : f ≠ none := by
  unfold runCvtst.cvtStore at h
  dsimp only at h
  split at h
  · cases h
  · split at h
    · cases h
      exact Option.some_ne_none _
    · cases h
      exact Option.some_ne_none _
    next hn => cases hn

theorem keepsVt_runCvtst {s s1 : State} {c cost : Nat} {m : MatCmd} (h : runCvtst s c m = .over s1 cost none) :
    KeepsVt s s1 := by
  unfold runCvtst at h
  dsimp only at h
  split at h
  · cases h
  · split at h
    · cases h
    · exact absurd rfl (cvtStore_fault h)
    next hm => exact (keepsVt_mapLines hm).trans (keepsVt_cvtStore h)

theorem keepsVt_runCmd {s s1 : State} {c cost : Nat} {m : MatCmd} (h : runCmd s c m = .over s1 cost none) : KeepsVt s s1 := by
  unfold runCmd at h
  split at h
  · exact keepsVt_runWld h
  · exact keepsVt_runMma h
  · exact keepsVt_runCvtst h

end Sys2Proof.Machine

/-! SUPPORT. O58: the start and the end of a matrix command (R233, R235, R239). -/

namespace Sys2Proof.Machine

/-! ### The end of a command of a thread that stands alone -/

/-- From `s` to `s'` other threads of core `c` than that of slot `j` may have been written, and nothing else. -/
structure WritesOthers (c j : Nat) (s s' : State) : Prop where
  mem : s'.mem = s.mem
  rest : { getCore s' c with slots := (getCore s c).slots } = getCore s c
  thread : threadAt s' c j = threadAt s c j

theorem WritesOthers.refl (c j : Nat) (s : State) : WritesOthers c j s s := ⟨rfl, rfl, rfl⟩

theorem WritesOthers.trans {c j : Nat} {s s' s'' : State} (h : WritesOthers c j s s') (g : WritesOthers c j s' s'') :
    WritesOthers c j s s'' :=
  ⟨g.mem.trans h.mem, by rw [← h.rest, ← g.rest], g.thread.trans h.thread⟩

theorem WritesOthers.keeps {c j : Nat} {s s' : State} (h : WritesOthers c j s s') {α : Type} (g : Core → α)
    (hg : ∀ k x, g { k with slots := x } = g k) : g (getCore s' c) = g (getCore s c) :=
  (hg _ _).symm.trans (congrArg g h.rest)

theorem modPend_unpaired {s : State} {c : Nat} (i : Nat) (f : Thread → Thread) (h : (getCore s c).pairs = []) :
    modPend s c i f = modThread s c i f := by
  have hp : pairOf s c i = none := by rw [pairOf, h]; rfl
  unfold modPend modThread
  split
  · rfl
  next t ht => simp [onBoth, hp, modThread, ht]

theorem writesOthers_modThread {c i j : Nat} (h : j ≠ i) (s : State) (f : Thread → Thread) :
    WritesOthers c j s (modThread s c i f) := by
  unfold modThread
  split
  · exact .refl c j s
  · exact ⟨rfl, coreRest_setThread .., threadAt_setThread_ne _ _ _ _ _ _ fun e => h (Prod.mk.inj e).2⟩

/-- What the release of a tile makes of one slot. -/
def releaseSlot (c t : Nat) (s : State) (i : Nat) : State :=
  match threadAt s c i with
  | some v =>
    match v.pend, v.role with
    | some ⟨.tile n, _, _, _⟩, .alone => if n = t then modPend s c i abandon else s
    | some ⟨.tile n, _, _, _⟩, .leading => if n = t then modPend s c i abandon else s
    | _, _ => s
  | none => s

theorem releaseTile_eq (s : State) (c t : Nat) :
    releaseTile s c t = if tileLocked (getCore s c) t then s else (List.range 16).foldl (releaseSlot c t) s := rfl

theorem releaseSlot_cases (c t : Nat) (s : State) (i : Nat) :
    releaseSlot c t s i = s ∨
      releaseSlot c t s i = modPend s c i abandon ∧ ∃ v, threadAt s c i = some v ∧ v.pend ≠ none := by
  unfold releaseSlot
  split
  next v hv =>
    split
    next hpend _ =>
      split
      · exact .inr ⟨rfl, v, hv, by rw [hpend]; exact Option.some_ne_none _⟩
      · exact .inl rfl
    next hpend _ =>
      split
      · exact .inr ⟨rfl, v, hv, by rw [hpend]; exact Option.some_ne_none _⟩
      · exact .inl rfl
    next => exact .inl rfl
  next => exact .inl rfl

theorem writesOthers_releaseTile {s : State} {c j : Nat} {v : Thread} (hp : (getCore s c).pairs = [])
    (hv : threadAt s c j = some v) (hn : v.pend = none) (t : Nat) : WritesOthers c j s (releaseTile s c t) := by
  rw [releaseTile_eq]
  split
  · exact .refl c j s
  next hfree =>
    clear hfree
    generalize List.range 16 = l
    induction l generalizing s with
    | nil => exact .refl c j s
    | cons i l ih =>
      have h1 : WritesOthers c j s (releaseSlot c t s i) := by
        rcases releaseSlot_cases c t s i with h | ⟨h, w, hw, hpend⟩
        · rw [h]
          exact .refl c j s
        · rw [h, modPend_unpaired i abandon hp]
          refine writesOthers_modThread ?_ s abandon
          rintro rfl
          rw [hv, Option.some.injEq] at hw
          exact hpend (hw ▸ hn)
      exact h1.trans (ih ((h1.keeps Core.pairs fun _ _ => rfl).trans hp) (h1.thread.trans hv))

theorem finish_pend (t : Thread) : (finish t).pend = none := by
  unfold finish
  split
  · assumption
  · rfl

/-- The engine is free again, and the core has worn by what the command has cost. -/
def freeEngine (s : State) (c n : Nat) : State := modCore (accrue s c n) c fun k => { k with matRun := none }

theorem getCore_freeEngine (s : State) (c n : Nat) : getCore (freeEngine s c n) c = { getCore s c with matRun := none } := by
  rw [freeEngine, getCore_modCore_same, getCore_accrue]

theorem threadAt_freeEngine (s : State) (c n i : Nat) : threadAt (freeEngine s c n) c i = threadAt s c i := by
  rw [threadAt, getSlot_congr (s := s) (by rw [getCore_freeEngine]), threadAt]

/-- What the end of a command makes of its thread. -/
def cmdOver (t : Thread) (cost n : Nat) : Thread := finish (chargeThread { t with ecost := satAdd t.ecost cost } n)

section
variable {s : State} {c : Nat} {m : MatCmd} {t : Thread} (hp : (getCore s c).pairs = []) (ht : threadAt s c m.slot = some t)
include hp ht

/-- A command's end for a thread that stands alone: charges, the thread, the tile. -/
theorem endCmd_alone (cost : Nat) (hg : m.gone = false) (hd : m.detached = false) (hr : t.role = .alone) :
    let n := 4 * (getCore s c).vt * cost
    endCmd s c m cost none = releaseTile (setThread (freeEngine s c n) c m.slot (cmdOver t cost n)) c m.tile := by
  intro n
  have hlt := threadAt_lt ht
  have ht1 : threadAt (freeEngine s c n) c m.slot = some t := (threadAt_freeEngine ..).trans ht
  have hpair : pairOf (freeEngine s c n) c m.slot = none := by rw [pairOf, getCore_freeEngine, hp]; rfl
  have hboth (f : Thread → Thread) : bothThreads (freeEngine s c n) c m.slot f = setThread (freeEngine s c n) c m.slot (f t) := by
    simp only [bothThreads, ht1, hpair, modThread_some _ _ _ _ _ ht1]
  have hend : endCmd s c m cost none = releaseTile (matrixThread
      (bothThreads (freeEngine s c n) c m.slot fun t => chargeThread { t with ecost := satAdd t.ecost cost } n) c m none) c m.tile := by
    rw [endCmd, hg]
    rfl
  have hrole : (chargeThread { t with ecost := satAdd t.ecost cost } n).role = .alone := hr
  rw [hend, hboth, matrixThread, hd, hg, Bool.or_self, if_neg (by decide),
    modPend_alone _ (threadAt_setThread_same _ _ _ _ hlt) hrole, setThread_setThread _ _ _ _ _ hlt]
  rfl

/-- The release of the tile finds the thread gone on, and writes other threads alone. -/
theorem writesOthers_endCmd (cost n : Nat) :
    WritesOthers c m.slot (setThread (freeEngine s c n) c m.slot (cmdOver t cost n))
      (releaseTile (setThread (freeEngine s c n) c m.slot (cmdOver t cost n)) c m.tile) :=
  writesOthers_releaseTile (by rw [pairs_setThread, getCore_freeEngine, hp])
    (threadAt_setThread_same _ _ _ _ (threadAt_lt ht)) (finish_pend _) m.tile

end

theorem matrixEvents : Claim.MatrixEvents := by
  refine ⟨fun s c m hready hleast => ?_, fun s s1 c cost m t n r f hrun hg hd hcmd hp ht hr hpend => ?_⟩
  · refine ⟨_, rfl, ?_⟩
    simp only [getCore_modCore_same, hready, hleast, Bool.not_true, Bool.false_eq_true, if_false]
    obtain ⟨w, g, h⟩ := matRegrant_eq 2
      { getCore s c with matRun := some m, matQ := (getCore s c).matQ.filter fun e => e.id != m.id }
    rw [h]
    exact ⟨rfl, rfl⟩
  · have hstep : exec (.matrixComplete c) s = .next (endCmd s1 c m cost none) := by
      simp only [exec, execMatrixComplete, hrun, hcmd]
    refine ⟨_, hstep, ?_⟩
    have hvt : (getCore s1 c).vt = (getCore s c).vt := (keepsVt_runCmd hcmd).vt c
    rw [endCmd_alone hp ht cost hg hd hr, hvt]
    have hrest := writesOthers_endCmd hp ht cost (4 * (getCore s c).vt * cost)
    have hkeeps {α : Type} (g : Core → α) (hslots : ∀ k x, g { k with slots := x } = g k) :=
      (hrest.keeps g hslots).trans ((setThread_keepsCore g hslots ..).trans (congrArg g (getCore_freeEngine ..)))
    exact ⟨hrest.mem, hkeeps Core.matRun fun _ _ => rfl, hkeeps Core.acc fun _ _ => rfl, hkeeps Core.accStat fun _ _ => rfl,
      hkeeps Core.amax fun _ _ => rfl, hrest.thread.trans (threadAt_setThread_same _ _ _ _ (threadAt_lt ht))⟩

end Sys2Proof.Machine

/-! SUPPORT. O58: what a multiplication and a CVTST leave in the accumulator tiles (R83, R84, R237, R246). -/

namespace Sys2Proof.Machine

/-! ### Accumulators -/

@[simp] theorem accAt_setStat (k : Core) (t i j : Nat) (n : Nat) (v : BitVec 8) :
    accAt (setStat k n v) t i j = accAt k t i j := rfl

theorem accKey_inj {t i j m n : Nat} (hj : j < 16) (hn : n < 16) (h : accKey t i j = accKey t m n) : i = m ∧ j = n := by
  unfold accKey at h
  omega

theorem accAt_setAcc {t i j m n : Nat} (hj : j < 16) (hn : n < 16) (k : Core) (v : BitVec 96) :
    accAt (setAcc k t m n v) t i j = if i = m ∧ j = n then v else accAt k t i j := by
  unfold accAt setAcc
  split
  next h => rw [h.1, h.2, smGet_smSet_same, Option.getD_some]
  next h => rw [smGet_smSet_ne _ _ _ _ fun e => h (accKey_inj hj hn e)]

theorem statAt_setStat (k : Core) {t : Nat} (ht : t < 4) (v : BitVec 8) : statAt (setStat k t v) t = v := by
  simp [statAt, setStat, ht]

/-! ### A multiplication -/

/-- One element's update. -/
def Mul.cell (u : Mul) (t m : Nat) (k : Core) (n : Nat) : Core :=
  let r := (u.sum m n).into (accAt k t m n)
  setStat (setAcc k t m n r.1) t (statAt k t ||| r.2)

/-- One row's. -/
def Mul.row (u : Mul) (t cols : Nat) (k : Core) (m : Nat) : Core := (List.range cols).foldl (u.cell t m) k

theorem Mul.run_eq (u : Mul) (k : Core) (t rows cols : Nat) :
    u.run k t rows cols = (List.range rows).foldl (u.row t cols) k := rfl

section
variable {i j : Nat} (hj : j < 16) (u : Mul) (k : Core) (t : Nat)
include hj

theorem accAt_cell {m n : Nat} (hn : n < 16) :
    accAt (u.cell t m k n) t i j =
      if i = m ∧ j = n then ((u.sum i j).into (accAt k t i j)).1 else accAt k t i j := by
  rw [Mul.cell, accAt_setStat, accAt_setAcc hj hn]
  split
  next h => rw [h.1, h.2]
  next => rfl

theorem accAt_row {m cols : Nat} (hc : cols ≤ 16) :
    accAt (u.row t cols k m) t i j =
      if i = m ∧ j < cols then ((u.sum i j).into (accAt k t i j)).1 else accAt k t i j := by
  unfold Mul.row
  induction cols with
  | zero => simp
  | succ n ih =>
    rw [List.range_succ, List.foldl_append, List.foldl_cons, List.foldl_nil, accAt_cell hj u _ t hc, ih (by omega)]
    by_cases h : i = m ∧ j = n
    · rw [if_pos h, if_neg (by omega), if_pos (by omega)]
    · rw [if_neg h]
      exact if_congr (by omega) rfl rfl

theorem accAt_mulRun {rows cols : Nat} (hc : cols ≤ 16) :
    accAt (u.run k t rows cols) t i j =
      if i < rows ∧ j < cols then ((u.sum i j).into (accAt k t i j)).1 else accAt k t i j := by
  rw [Mul.run_eq]
  induction rows with
  | zero => simp
  | succ n ih =>
    rw [List.range_succ, List.foldl_append, List.foldl_cons, List.foldl_nil, accAt_row hj u _ t hc, ih]
    by_cases h : i = n ∧ j < cols
    · rw [if_pos h, if_neg (by omega), if_pos (by omega)]
    · rw [if_neg h]
      exact if_congr (by omega) rfl rfl

end

theorem mmaCols_le (k : Word) : mmaCols k ≤ 16 := Nat.mod_lt (k.toNat / 2 ^ 0) (by decide)

theorem runMma_over {s s1 : State} {c data : Nat} {m : MatCmd} {bs : List Block}
    (hchain : readChain s c (mmaBlocks m.ctl) (32 * mmaWoff m.ctl) = (bs, none)) (hreason : mmaReason m (bs, none) = none)
    (hneed : m.need = 0) (ha : mmaA s c m = .val s1 data) (hbad : blocksBad s1 c bs = false)
    (htile : m.tile ∉ (getCore s1 c).accBad) : runMma s c m = .over (mmaInto s1 c m bs data) (mmaCost m bs) none := by
  simp [runMma, hchain, hreason, hneed, ha, hbad, htile]

/-! ### A CVTST to a place that nothing holds up -/

theorem tileMoving_clear {s : State} (h : Clear s) (p : Place) : tileMoving s p = false := by
  simp only [tileMoving, List.any_eq_false]
  intro j hj
  simp [h.jigs j hj]

theorem wordFree_clear {s : State} (h : Clear s) (c : Nat) (p : Place) : wordFree s c p = true := by
  simp [wordFree, tileMoving_clear h, heldByOther, h.resvs, h.flight]

/-- What a conversion leaves in its core: the status bits, and the tile's amax where the control word asks for it. -/
def cvtCore (m : MatCmd) (cs : List (Nat × BitVec 5)) (k : Core) : Core :=
  let k := setStat k m.tile (statAt k m.tile ||| cvtStatus (cs.foldl (fun f x => f ||| x.2) 0))
  if m.ctl.getLsbD 28 then updAmax k m.tile fun a => amaxTake a (BitVec.ofNat 32 (tileMax k m.tile)) else k

theorem statAt_cvtCore {m : MatCmd} (ht : m.tile < 4) (cs : List (Nat × BitVec 5)) (k : Core) :
    statAt (cvtCore m cs k) m.tile = statAt k m.tile ||| cvtStatus (cs.foldl (fun f x => f ||| x.2) 0) := by
  rw [← statAt_setStat k ht (statAt k m.tile ||| _)]
  unfold cvtCore
  dsimp only
  split <;> rfl

theorem acc_cvtCore (m : MatCmd) (cs : List (Nat × BitVec 5)) (k : Core) : (cvtCore m cs k).acc = k.acc := by
  unfold cvtCore
  dsimp only
  split <;> rfl

section
variable {m : MatCmd} (hva : m.va = none)
include hva

theorem mapLines_untranslated (c : Nat) (need : Need) (ls : List Nat) (s : State) : mapLines c m need ls s [] = .all s [] := by
  cases ls with
  | nil => rfl
  | cons l ls => simp only [mapLines, hva]

theorem cvtReach_untranslated (ws : List (Nat × Nat × Nat)) : cvtReach m [] ws = ws := by
  simp [cvtReach, hva]

theorem cvtWrite_untranslated : cvtWrite m [] = fun s w => storeNat s (m.base.shift w.1) w.2.1 w.2.2 := by
  funext s w
  simp only [cvtWrite, MatCmd.place, hva]

theorem runCvtst_clear {s : State} {c : Nat} (h : Clear s) (htile : m.tile ∉ (getCore s c).accBad) :
    runCvtst s c m = .over
      (modCore ((cvtStores m ((cvtCodes (getCore s c) m).map (·.1))).foldl
          (fun s w => storeNat s (m.base.shift w.1) w.2.1 w.2.2) s) c (cvtCore m (cvtCodes (getCore s c) m)))
      24 none := by
  have hheld (ws : List (Nat × Nat × Nat)) : cvtHeld s c m [] ws = false := by
    simp [cvtHeld, wordFree_clear h, pathHeld_none _ _ _ _ h.flight]
  have hbad (ws : List (Nat × Nat × Nat)) : (cvtReach m [] ws).find? (cvtBad s m []) = none := by
    simp [cvtBad, anyBad_clear _ _ _ h.bads]
  simp only [runCvtst, List.contains_eq_mem, htile, decide_false, Bool.false_eq_true, if_false, mapLines_untranslated hva,
    runCvtst.cvtStore, settleEarlier_none _ _ _ _ h.flight, hheld, hbad, cvtWrite_untranslated hva]
  rfl

end

theorem matrixResults : Claim.MatrixResults := by
  intro s s1 c m
  refine ⟨fun v hv => by simp only [runWld, hv], fun bs data hchain hreason hneed ha hbad htile => ?_,
    fun hva hclear ht htile => ?_⟩
  · intro p ts u
    refine ⟨_, runMma_over hchain hreason hneed ha hbad htile, modCore_mem .., fun i j _ hj => ?_⟩
    have hinx (b : Bool) (k : Core) (v : BitVec 8) :
        accAt (if b then k else setStat k m.tile v) m.tile i j = accAt k m.tile i j := by
      split <;> rfl
    rw [mmaInto, getCore_modCore_same, accAt_mulRun hj _ _ _ (mmaCols_le _), hinx]
  · intro k cs
    have hstored {α : Type} (g : Core → α) (hg : ∀ k x, g { k with slots := x } = g k) (ws : List (Nat × Nat × Nat)) :
        g (getCore (ws.foldl (fun s w => storeNat s (m.base.shift w.1) w.2.1 w.2.2) s) c) = g k :=
      foldl_keeps (fun s => g (getCore s c)) (fun s w => storeNat_keepsCore g hg ..) ws s
    refine ⟨_, runCvtst_clear hva hclear htile, modCore_mem .., ?_, ?_⟩
    · rw [getCore_modCore_same, statAt_cvtCore ht, hstored (statAt · m.tile) fun _ _ => rfl]
      rfl
    · rw [getCore_modCore_same, acc_cvtCore, hstored Core.acc fun _ _ => rfl]

/-- Settles O58: the copy engine's events by what each makes of its core; a matrix command charges by the VT that it began with,
which nothing on its way changes; an element of a multiplication is written once, at its own row and column. -/
theorem engineEvents : Obligations.EngineEvents := ⟨copyEvents, matrixEvents, matrixResults⟩

end Sys2Proof.Machine

/-! What a vector instruction leaves (O7, O35, O36, O38; R91, R96): the lanes, the mask and FPST as its operation meets them,
and the effect of each shape. -/

namespace Sys2Proof.Machine

/-! ### Lanes, mask and flags after an issue -/

theorem laneOn_issuedThread (u : Use) (s : State) (t : Thread) (i : Nat) : laneOn (issuedThread u s t) i = laneOn t i :=
  getFlag_issuedThread u s t _

theorem fpst_issuedThread (u : Use) (s : State) (t : Thread) : (issuedThread u s t).fpst = t.fpst := by
  obtain ⟨b, p, w, h⟩ := issuedThread_eq u s t
  rw [h]

/-- Writing lanes leaves FPST, as it leaves everything but registers and full bits. -/
theorem fpst_wrLanes (t : Thread) (v : VReg) (f : Nat → Option Word) : (wrLanes t v f).fpst = t.fpst := by
  have h := congrArg Thread.fpst (wrLanesTo_rest t v f 16)
  exact h

/-- Writing lanes looks at the values of the sixteen lanes alone. -/
theorem wrLanes_congr (t : Thread) (v : VReg) {f g : Nat → Option Word} (h : ∀ i < 16, f i = g i) :
    wrLanes t v f = wrLanes t v g :=
  List.foldl_ext _ _ _ fun _ i hi => by rw [h i (List.mem_range.mp hi)]

theorem wrEnabled_issuedThread (u : Use) (s : State) (t : Thread) (v : VReg) (f : Nat → Word) :
    wrEnabled (issuedThread u s t) v f =
      wrLanes (issuedThread u s t) v fun i => if getFlag t (16 + i) then some (f i) else none := by
  simp only [wrEnabled, laneOn_issuedThread]
  rfl

/-- The OR that skips the disabled lanes is the OR over the enabled ones. -/
theorem laneFlags_eq_orFlags (t : Thread) (f : Nat → BitVec 5) : laneFlags t f = orFlags t f := by
  rw [orFlags, enabledLanes, List.foldl_map, List.foldl_filter]
  rfl

theorem laneFlags_issuedThread (u : Use) (s : State) (t : Thread) (f : Nat → BitVec 5) :
    laneFlags (issuedThread u s t) f = orFlags t f := by
  rw [← laneFlags_eq_orFlags]
  simp only [laneFlags, laneOn_issuedThread]

theorem fpLanes_issuedThread (u : Use) (s : State) (t : Thread) (v : VReg) (f : Nat → FpOut) :
    fpLanes (issuedThread u s t) v f = floatLanes t v f (issuedThread u s t) := by
  rw [fpLanes, raise, floatLanes, laneFlags_issuedThread, wrEnabled_issuedThread, fpst_wrLanes, fpst_issuedThread]

/-! ### The shapes -/

/-- The effect of a lane-wise operation on two vectors, with its result written as `g`. -/
theorem gives_lanes (mk : ShVV → Instr) (f : Word → Word → Word) {g : Word → Word → Word}
    (he : ∀ o s, exec (mk o) s = runVV o f s) (hfg : ∀ b c, f b c = g b c) : GivesLanes mk g := fun s t o h =>
  effect_ok_of (mk o) _ _ s t _ _ (he o s) h (fun _ _ _ => rfl) (by
    simp only [lane_issuedThread, wrEnabled_issuedThread, hfg])

section
variable {i : Instr} {s : State} {t : Thread}

/-- The effect of a floating operation on each lane of its operands. -/
theorem effect_floatLanes {u : Use} {v : VReg} {f : Thread → Nat → FpOut}
    (he : exec i s = issue u (fun x t s => done s x (fpLanes t v (f t))) s) (h : Issues u s t)
    (hf : f (issuedThread u s t) = f t) : Effect i u s t (floatLanes t v (f t)) (pcAfter t u.words) :=
  effect_ok_of i u _ s t _ _ he h (fun _ _ _ => rfl) (by rw [hf, fpLanes_issuedThread])

theorem effect_floatVV {o : ShVV} {f : Word → Word → FpOut} (he : exec i s = runFVV o f s) (h : Issues o.use s t) :
    Effect i o.use s t (floatLanes t o.a fun i => f (lane t o.b i) (lane t o.cNum i)) (pcAfter t o.use.words) :=
  effect_floatLanes (f := fun t i => f (lane t o.b i) (lane t o.cNum i)) he h (by simp only [lane_issuedThread])

theorem effect_floatVU {o : ShVU} {f : Word → FpOut} (he : exec i s = runFVU o f s) (h : Issues o.use s t) :
    Effect i o.use s t (floatLanes t o.a fun i => f (lane t o.b i)) (pcAfter t o.use.words) :=
  effect_floatLanes (f := fun t i => f (lane t o.b i)) he h (by simp only [lane_issuedThread])

end

/-! ### Integer lanes (R97) -/

/-- The part of O35 that holds: its lane-wise instructions, VPERM and VBCAST write the enabled lanes alone. -/
theorem vectorInteger : Claim.VectorInteger :=
  ⟨gives_lanes .vadd (· + ·) (fun _ _ => rfl) add_eq_ofNat,
    gives_lanes .vsub (· - ·) (fun _ _ => rfl) sub_eq_ofInt,
    gives_lanes .vmul (· * ·) (fun _ _ => rfl) mul_eq_ofInt,
    gives_lanes .vmin minS (fun _ _ => rfl) minS_eq_ofInt,
    gives_lanes .vmax maxS (fun _ _ => rfl) maxS_eq_ofInt,
    gives_lanes .vand _ (fun _ _ => rfl) fun _ _ => rfl,
    gives_lanes .vor _ (fun _ _ => rfl) fun _ _ => rfl,
    gives_lanes .vxor _ (fun _ _ => rfl) fun _ _ => rfl,
    gives_lanes .vshl shlWord (fun _ _ => rfl) shlWord_eq_ofNat,
    gives_lanes .vshr shrWord (fun _ _ => rfl) shrWord_eq_ofNat,
    gives_lanes .vsra sraWord (fun _ _ => rfl) sraWord_eq_ofInt,
    fun s t =>
      ⟨fun o h => effect_ok_of (.vperm o) _ _ s t _ _ rfl h (fun _ _ _ => rfl) (by
          simp only [lane_issuedThread, wrEnabled_issuedThread]),
        fun o h => effect_ok_of (.vbcast o) _ _ s t _ _ rfl h (fun _ _ _ => rfl) (by
          simp only [rdReg_issuedThread, wrEnabled_issuedThread])⟩⟩

/-! ### Floating lanes (R104) -/

/-- Settles O7: each instruction is its shape over one operation, which reads the lanes as they were before the issue. -/
theorem vectorFloat : Obligations.VectorFloat := by
  refine ⟨fun s t o h => ?twoVectors, fun s t o h => ?fma, fun s t o h => ?oneVector⟩
  case twoVectors =>
    simp only [List.forall_mem_cons, List.not_mem_nil, false_imp_iff, implies_true, and_true]
    exact ⟨effect_floatVV rfl h, effect_floatVV rfl h, effect_floatVV rfl h, effect_floatVV rfl h, effect_floatVV rfl h⟩
  case fma =>
    exact effect_floatLanes (f := fun t i => ffma (lane t o.a i) (lane t o.b i) (lane t o.cNum i)) rfl h (by
      simp only [lane_issuedThread])
  case oneVector =>
    simp only [List.forall_mem_cons, List.not_mem_nil, false_imp_iff, implies_true, and_true]
    exact ⟨effect_floatVU rfl h, effect_floatVU rfl h, effect_floatVU rfl h⟩

end Sys2Proof.Machine

/-! Lane bitmaps, scans and reductions over the enabled lanes (O36; R98, R101). -/

namespace Sys2Proof.Machine

/-! ### Compares (R98) -/

/-- Bit i of a word put together of the bits below `k` for which a test holds. -/
theorem getLsbD_foldl_twoPow (p : Nat → Bool) (k : Nat) {i : Nat} (hi : i < 32) :
    ((List.range k).foldl (fun (m : Word) j => if p j then m ||| BitVec.twoPow 32 j else m) 0).getLsbD i =
      (decide (i < k) && p i) := by
  induction k with
  | zero => simp
  | succ k ih =>
    rw [List.range_succ, List.foldl_append, List.foldl_cons, List.foldl_nil]
    generalize (List.range k).foldl (fun (m : Word) j => if p j then m ||| BitVec.twoPow 32 j else m) 0 = m at ih ⊢
    have hset : (if p k then m ||| BitVec.twoPow 32 k else m).getLsbD i = (m.getLsbD i || (decide (i = k) && p i)) := by
      by_cases hik : i = k
      · subst hik
        cases p i <;> simp [hi]
      · cases p k <;> simp [hik, Ne.symm hik, BitVec.getLsbD_twoPow]
    have hlt : decide (i < k + 1) = (decide (i < k) || decide (i = k)) := by
      rw [← Bool.decide_or]
      exact decide_eq_decide.mpr Nat.lt_succ_iff_lt_or_eq
    rw [hset, ih, hlt, Bool.and_or_distrib_right]

/-- The effect of a vector compare, with its relation written as `r`. -/
theorem gives_bitmap (mk : ShSVV → Instr) (rel : Word → Word → Bool) {r : Word → Word → Bool}
    (he : ∀ o s, exec (mk o) s = runVCmp o rel s) (hr : ∀ b c, rel b c = r b c) : GivesBitmap mk r := fun s t o h => by
  refine ⟨laneBits t fun i => rel (lane t o.b i) (lane t o.cNum i), fun i hi => ?bits,
    effect_ok_of (mk o) _ _ s t _ _ (he o s) h (fun _ _ _ => rfl) ?effect⟩
  case bits => rw [laneBits, getLsbD_foldl_twoPow _ 16 hi, ← hr, Bool.and_assoc, laneOn]
  case effect => simp only [laneBits, lane_issuedThread, laneOn_issuedThread]

/-- A NaN equals nothing and is less than nothing. -/
theorem feq_flt_nan {b c : Word} (h : isNaN b = true ∨ isNaN c = true) : feq b c = false ∧ flt b c = false := by
  rw [feq, flt]
  rcases h with h | h
  · rw [fp_nan h]
    exact ⟨rfl, rfl⟩
  · rw [fp_nan h]
    cases fp b <;> exact ⟨rfl, rfl⟩

/-- The signed magnitude of a code. -/
def signedMag (w : Word) : Int := if w.getLsbD 31 then -((w.toNat % 2 ^ 31 : Nat) : Int) else (w.toNat : Int)

theorem signedMag_eq (w : Word) : signedMag w = signedInt (signOf w) (magOf w) := by
  have hw := toNat_eq_signOf_magOf w
  unfold signedMag
  change (if signOf w = true then -((magOf w : Nat) : Int) else (w.toNat : Int)) = _
  cases hs : signOf w
  · rw [hs, if_neg (by decide), Nat.zero_add] at hw
    simp [hw, signedInt]
  · rfl

/-- Codes that are no NaN compare as their signed magnitudes do: the units of a code rise with its magnitude. -/
theorem feq_flt_signedMag {b c : Word} (hb : isNaN b = false) (hc : isNaN c = false) :
    feq b c = decide (signedMag b = signedMag c) ∧ flt b c = decide (signedMag b < signedMag c) := by
  obtain ⟨hlt, heq⟩ := flt_feq_eq hb hc
  have h1 := fpUnits_lt_iff b c
  have h2 := fpUnits_lt_iff c b
  have h3 := fpUnits_eq_zero_iff b
  have h4 := fpUnits_eq_zero_iff c
  rw [hlt, heq, fpInt_eq, fpInt_eq, signedMag_eq, signedMag_eq, decide_eq_decide, decide_eq_decide]
  cases signOf b <;> cases signOf c <;> simp only [signedInt, if_true, if_false, Bool.false_eq_true] <;> omega

theorem vectorCompares : Claim.VectorCompares :=
  ⟨gives_bitmap .vceq relEq (fun _ _ => rfl) fun _ _ => rfl,
    gives_bitmap .vclt relLt (fun _ _ => rfl) relLt_eq_decide,
    gives_bitmap .vfceq feq (fun _ _ => rfl) fun _ _ => rfl,
    gives_bitmap .vfclt flt (fun _ _ => rfl) fun _ _ => rfl,
    fun _ _ => feq_flt_nan,
    fun _ _ => feq_flt_signedMag⟩

/-! ### Scans and reductions (R101) -/

/-- Words added one after another: their sum modulo 2^32. -/
theorem foldl_add_eq_ofNat (g : Nat → Word) (l : List Nat) :
    l.foldl (fun m j => m + g j) 0 = BitVec.ofNat 32 (l.map fun j => (g j).toNat).sum := by
  suffices ∀ a : Word, l.foldl (fun m j => m + g j) a = a + BitVec.ofNat 32 (l.map fun j => (g j).toNat).sum by
    exact (this 0).trans (BitVec.zero_add _)
  induction l with
  | nil => simp
  | cons j l ih =>
    intro a
    rw [List.foldl_cons, ih, List.map_cons, List.sum_cons, BitVec.ofNat_add, BitVec.ofNat_toNat, BitVec.setWidth_eq,
      BitVec.add_assoc]

theorem toInt_minS (b c : Word) : (minS b c).toInt = min b.toInt c.toInt := by
  simp only [minS, relLt_eq_decide, decide_eq_true_eq, min_comm b.toInt, min_def_lt, apply_ite BitVec.toInt]

theorem toInt_maxS (b c : Word) : (maxS b c).toInt = max b.toInt c.toInt := by
  simp only [maxS, relLt_eq_decide, decide_eq_true_eq, max_def_lt, apply_ite BitVec.toInt]

/-- A word operation that is `f` on the signed values, from a word of value `x`, over a list. -/
theorem foldl_eq_ofInt {op : Word → Word → Word} {f : Int → Int → Int} (hop : ∀ b c, (op b c).toInt = f b.toInt c.toInt)
    (g : Nat → Word) (l : List Nat) {a : Word} {x : Int} (ha : a.toInt = x) :
    l.foldl (fun m j => op m (g j)) a = BitVec.ofInt 32 ((l.map fun j => (g j).toInt).foldl f x) := by
  induction l generalizing a x with
  | nil => rw [List.map_nil, List.foldl_nil, List.foldl_nil, ← ha, BitVec.ofInt_toInt]
  | cons j l ih => exact ih (by rw [hop, ha])

/-- The effect of a reduction. -/
theorem effect_reduction {i : Instr} {o : ShSV} {f : Word → Word → Word} {e : Word} {s : State} {t : Thread}
    (he : exec i s = runVRed o f e s) (h : Issues o.use s t) :
    Effect i o.use s t (fun v => wrReg v o.a.toNat ((enabledLanes t).foldl (fun m j => f m (lane t o.b j)) e))
      (pcAfter t o.use.words) :=
  effect_ok_of i _ _ s t _ _ he h (fun _ _ _ => rfl) (by simp only [enabled_issuedThread, lane_issuedThread])

theorem vectorReductions : Claim.VectorReductions := by
  refine fun s t => ⟨fun o h => ?scan, fun o h => ⟨?add, ?min, ?max⟩⟩
  case scan =>
    refine effect_ok_of (.vscan o) _ _ s t _ _ rfl h (fun _ _ _ => rfl) ?_
    simp only [wrEnabled_issuedThread, enabled_issuedThread, lane_issuedThread, foldl_add_eq_ofNat]
  case add => simpa only [foldl_add_eq_ofNat] using effect_reduction (i := .vredadd o) rfl h
  case min =>
    simpa only [foldl_eq_ofInt toInt_minS _ _ (a := 0x7FFFFFFF) (x := 2 ^ 31 - 1) (by decide)] using
      effect_reduction (i := .vredmin o) rfl h
  case max =>
    simpa only [foldl_eq_ofInt toInt_maxS _ _ (a := 0x80000000) (x := -2 ^ 31) (by decide)] using
      effect_reduction (i := .vredmax o) rfl h

/-- Settles O36: a bitmap bit by bit, FP32 relations by the order of codes, and the folds over the enabled lanes by what one
step does to the words' values. -/
theorem vectorBitmaps : Obligations.VectorBitmaps := ⟨vectorCompares, vectorReductions⟩

end Sys2Proof.Machine

/-! Floating sums in their fixed orders (O38; R106, R107): the lists that VFRED and VFSCAN fold are the nodes of the pairwise
tree and the columns of the scan. -/

namespace Sys2Proof.Machine

/-! ### The tree (R106) -/

/-- Four levels of neighbours added are the tree over sixteen lanes; the flags are those of its fifteen additions. -/
theorem fpTree_eq_sumTree (x : Nat → Word) : fpTree ((List.range 16).map x) = sumTree x 4 0 := by
  refine Prod.ext rfl ?flags
  simp only [fpTree, pairSums, sumTree, List.range, List.range.loop, List.map_cons, List.map_nil]
  simp only [Nat.reduceAdd, Nat.reducePow]
  ac_rfl

/-! ### The scan (R107) -/

/-- The numbers from `d` on. -/
theorem filter_le_range (d m : Nat) : ((List.range (d + m)).filter fun i => d ≤ i) = (List.range m).map (d + ·) := by
  rw [List.range_add, List.filter_append, List.filter_eq_nil_iff.mpr (by simp), List.filter_eq_self.mpr (by simp),
    List.nil_append]

/-- The pairs at distance `d` of a list of values. -/
theorem zipWith_drop_map_range {α β : Type} (f : α → α → β) (y : Nat → α) (d m : Nat) :
    List.zipWith f ((List.range (d + m)).map y) (((List.range (d + m)).map y).drop d) =
      ((List.range (d + m)).filter fun i => d ≤ i).map fun i => f (y (i - d)) (y i) := by
  rw [filter_le_range]
  refine List.ext_getElem (by simp) fun i _ _ => ?_
  simp

/-- The columns after one step of the scan, and the flags of its additions. -/
theorem scanStep_map_range (y : Nat → Word) (fl : BitVec 5) {d : Nat} (hd : d ≤ 16) :
    scanStep d ((List.range 16).map y) fl =
      ((List.range 16).map fun i => if i < d then y i else (fadd (y (i - d)) (y i)).1,
        (((List.range 16).filter fun i => d ≤ i).map fun i => (fadd (y (i - d)) (y i)).2).foldl (· ||| ·) fl) := by
  obtain ⟨m, hm⟩ := Nat.exists_eq_add_of_le hd
  rw [hm, scanStep, zipWith_drop_map_range]
  refine Prod.ext ?values (by simp only [List.foldl_map])
  case values =>
    have hlow : ((List.range (d + m)).map y).take d = (List.range d).map y := by
      rw [← List.map_take, List.take_range, Nat.min_eq_left (Nat.le_add_right d m)]
    have hkept : (List.range d).map y =
        (List.range d).map fun i => if i < d then y i else (fadd (y (i - d)) (y i)).1 :=
      List.map_congr_left fun i hi => (if_pos (List.mem_range.mp hi)).symm
    simp only [hlow, hkept, filter_le_range, List.map_map]
    rw [List.range_add, List.map_append, List.map_map]
    refine congrArg _ (List.map_congr_left fun i _ => ?_)
    simp

/-- One step of the scan takes its columns on. -/
theorem scanStep_scanColumn (x : Nat → Word) (fl : BitVec 5) {k : Nat} (hk : 2 ^ k ≤ 16) :
    scanStep (2 ^ k) ((List.range 16).map (scanColumn x k)) fl =
      ((List.range 16).map (scanColumn x (k + 1)),
        (((List.range 16).filter fun i => 2 ^ k ≤ i).map fun i =>
          (fadd (scanColumn x k (i - 2 ^ k)) (scanColumn x k i)).2).foldl (· ||| ·) fl) :=
  scanStep_map_range (scanColumn x k) fl hk

theorem fpScan_eq_scanColumn (x : Nat → Word) :
    fpScan ((List.range 16).map x) = ((List.range 16).map (scanColumn x 4), scanFlagsOf x) := by
  have h (k : Nat) (fl : BitVec 5) (hk : 2 ^ k ≤ 16) := scanStep_scanColumn x fl hk
  have hrange : List.range 4 = [0, 1, 2, 3] := rfl
  rw [fpScan, show (List.range 16).map x = (List.range 16).map (scanColumn x 0) from rfl,
    show scanStep 1 = scanStep (2 ^ 0) from rfl, h 0 _ (by decide), show scanStep 2 = scanStep (2 ^ 1) from rfl,
    h 1 _ (by decide), show scanStep 4 = scanStep (2 ^ 2) from rfl, h 2 _ (by decide),
    show scanStep 8 = scanStep (2 ^ 3) from rfl, h 3 _ (by decide), scanFlagsOf, hrange]
  simp only [List.flatMap_cons, List.flatMap_nil, List.foldl_append, List.foldl_nil]

/-- A column of the scan holds the tree over the lanes that end at it: its last step adds the tree over the first half of
them to the tree over the second. -/
theorem scanColumn_eq_sumTree (x : Nat → Word) (k i : Nat) :
    scanColumn x k (i + (2 ^ k - 1)) = (sumTree x k i).1 := by
  induction k generalizing i with
  | zero => rfl
  | succ k ih =>
    have hpos := Nat.two_pow_pos k
    have hlast : i + (2 ^ (k + 1) - 1) = i + 2 ^ k + (2 ^ k - 1) := by omega
    have hmid : i + 2 ^ k + (2 ^ k - 1) - 2 ^ k = i + (2 ^ k - 1) := by omega
    rw [hlast, scanColumn, if_neg (by omega), hmid, ih, ih]
    rfl

/-! ### The instructions -/

theorem fpIn_issuedThread (u : Use) (s : State) (t : Thread) (v : VReg) :
    fpIn (issuedThread u s t) v = (List.range 16).map (sumInput t v) := by
  simp only [fpIn, laneOn_issuedThread, lane_issuedThread]
  rfl

theorem floatReductions : Claim.FloatReductions := by
  refine fun s t => ⟨fun o h => ?reduce, fun o h => ?scan⟩
  case reduce =>
    refine effect_ok_of (.vfred o) _ _ s t _ _ rfl h (fun _ _ _ => rfl) ?_
    simp only [raise, fpIn_issuedThread, fpTree_eq_sumTree, wrReg_fpst, fpst_issuedThread]
  case scan =>
    refine effect_ok_of (.vfscan o) _ _ s t _ _ rfl h (fun _ _ _ => rfl) ?_
    rw [fpIn_issuedThread, fpScan_eq_scanColumn, wrEnabled_issuedThread, raise, fpst_wrLanes, fpst_issuedThread,
      wrLanes_congr _ o.a fun i hi => by rw [List.getElem?_map, List.getElem?_range hi, Option.map_some, Option.getD_some]]

theorem scanEndsInReduction : Claim.ScanEndsInReduction := by
  intro l hl
  have hmap : l = (List.range 16).map fun i => l[i]?.getD 0 := by
    refine List.ext_getElem (by simp [hl]) fun i h _ => ?_
    simp [h]
  rw [hmap, fpScan_eq_scanColumn, fpTree_eq_sumTree]
  exact congrArg some (scanColumn_eq_sumTree _ 4 0)

/-- Settles O38: the folds over lists are the tree's nodes and the scan's columns; a column holds the tree over the lanes that
end at it, and those that end at lane 15 are all sixteen. -/
theorem floatSums : Obligations.FloatSums := ⟨floatReductions, scanEndsInReduction⟩

end Sys2Proof.Machine

/-! A q2 register that is full (O8, O35): VINS and a narrowing VCVT find as they run that they write it, and are not ready,
where the statements have them complete. -/

namespace Sys2Proof.Machine

/-- An instruction that is not ready does not complete at another address. -/
theorem not_effect_of_waits {i : Instr} {u : Use} {s : State} {t : Thread} {st : Status} {f : Thread → Thread} {pc : Word}
    (hw : Waits i s s t st) (hne : pc ≠ t.pc) : ¬ Effect i u s t f pc := by
  rintro ⟨s', he, ho⟩
  obtain rfl := Host.Outcome.next.inj (hw.symm.trans he)
  have ht := ho.thread
  rw [threadAt_setThread_same _ _ _ _ (curSlot_lt s)] at ht
  exact hne (congrArg Thread.pc (Option.some.inj ht)).symm

/-- An instruction that finds that it writes a q2 register which is full is not ready (R189). -/
theorem moreDsts_waits {x : Ctx} {t : Thread} {s : State} {rs : List Nat} {r : Res}
    (hs : streamTrap { t with pc := x.ia } rs = none) (hb : storeBusy t rs = true) :
    moreDsts x t s rs r = .wait .waitMem id := by
  simp only [moreDsts, hs, hb, Bool.or_true, if_true]

/-- No lane enabled, q2 bound to g16, lane 0 of v1, which is full; g9 holds the control word of a narrowing to BF16. -/
def queueThread : Thread :=
  { wrReg Thread.blank 9 0x100 with
    lim := 48, f := 1, streams := (Vector.replicate 4 Stream.off).set 2 { Stream.off with bound := true, reg := 16 } }

def queueCore : Core :=
  { Core.blank true with
    cycle := 1, slots := (Vector.replicate 16 Slot.empty).set 1 ⟨.thread queueThread, none⟩ }

def queueState : State := { State.reset with booted := true, agenda := [], cores := [(0, queueCore)] }

/-- v1, the value in g10 and the index in g11, which is 0. -/
def queueInsert : ShVSS := ⟨⟨false, 0⟩, 1, 10, some ⟨11, false, false⟩⟩

/-- v1, v2 and the control word in g9. -/
def queueNarrow : ShVVS := ⟨⟨false, 0⟩, 1, 2, some ⟨9, false, false⟩⟩

theorem issues_queueInsert : Issues queueInsert.use queueState queueThread := by constructor <;> decide +kernel
theorem issues_queueNarrow : Issues queueNarrow.use queueState queueThread := by constructor <;> decide +kernel

theorem waits_queueInsert : Waits (.vins queueInsert) queueState queueState queueThread .waitMem :=
  waits_of rfl issues_queueInsert (moreDsts_waits (by decide +kernel) (by decide +kernel))

theorem waits_queueNarrow : Waits (.vcvt queueNarrow) queueState queueState queueThread .waitMem := by
  refine waits_of rfl issues_queueNarrow ?_
  rw [if_pos (by decide +kernel)]
  exact moreDsts_waits (by decide +kernel) (by decide +kernel)

/-- Refutes O35: VINS looks at the stream of the one register that it writes only as it runs, and `Issues` does not; where
that register is q2's and full, VINS is not ready. -/
theorem not_vectorIntegers : ¬ Obligations.VectorIntegers := by
  rintro ⟨-, h⟩
  obtain ⟨-, -, hvins⟩ := h queueState queueThread
  exact not_effect_of_waits waits_queueInsert (by decide +kernel) (hvins queueInsert issues_queueInsert)

/-- Refutes O8: a narrowing VCVT writes the lanes that are not enabled too, and `Issues` looks at the streams of the enabled
ones alone; where q2's register is such a lane and full, VCVT is not ready. -/
theorem not_conversions : ¬ Obligations.Conversions := by
  intro h
  obtain ⟨-, -, -, -, hpacked⟩ := h queueState queueThread queueNarrow issues_queueNarrow
  obtain ⟨hnarrow, -⟩ := hpacked .bf16 (by decide +kernel)
  exact not_effect_of_waits waits_queueNarrow (by decide +kernel) (hnarrow (by decide +kernel))

end Sys2Proof.Machine

/-! The writes of shared registers (O17; R117): the statement has MTS keep every earlier write in its register's list, where the
model takes those of 16 or more cycles ago out of it. -/

namespace Sys2Proof.Machine

/-- MTS puts its value after the writes of the register that are young: the older ones have become its value. -/
theorem shared_writeShared (s : State) (c : Nat) (v : Word) {n : Nat} (hn : n < 8) :
    (getCore (writeShared s c n v) c).shared[n]? =
      some { sharedAt (getCore s c) n with
        writes := (sharedAt (getCore s c) n).writes ++ [((getCore s c).cycle, v)] } := by
  rw [writeShared, modCore, getCore_setCore_same]
  simp [Core.setShared, hn]

/-- A core in cycle 17 whose s0 was written with 5 in cycle 1. -/
def settlingCore : Core :=
  { Core.blank true with
    cycle := 17, shared := (Vector.replicate 8 ⟨0, [], .replicate 16 0⟩).set 0 ⟨0, [(1, 5)], .replicate 16 0⟩ }

def settlingState : State := { State.reset with booted := true, agenda := [], cores := [(0, settlingCore)] }

/-- s0 from g9. -/
def settlingOperand : ShSp := ⟨⟨false, 0⟩, 9, 1, 0⟩

/-- The write of cycle 1 is the value of s0 in cycle 17. -/
theorem sharedAt_settlingState : sharedAt (getCore settlingState 0) 0 = ⟨5, [], .replicate 16 0⟩ := by decide +kernel

/-- Refutes O17: s0 was written in cycle 1, and MTS writes it again in cycle 17. Its list then holds the write of cycle 17
alone, where the statement has that of cycle 1 stand before it. -/
theorem not_sharedRegisters : ¬ Obligations.SharedRegisters := by
  intro h
  obtain ⟨-, hwrites, -⟩ := h settlingState Thread.blank settlingOperand rfl (by decide)
  have hstated : ((getCore (writeShared settlingState 0 0 7) 0).shared[0]?.getD
      (⟨0, [], .replicate 16 0⟩ : Shared)).writes = [(1, 5), (17, 7)] :=
    congrArg Shared.writes (hwrites 7 0 (by decide))
  rw [shared_writeShared _ _ _ (by decide), sharedAt_settlingState] at hstated
  have hnow : [(17, (7 : Word))] = [(1, 5), (17, 7)] := hstated
  exact absurd hnow (by decide)

end Sys2Proof.Machine

/-! The end of a thread that has come from another core (O19; R138, R198): EXIT waits for the relaxed accesses that its thread
left on its way there, which are in flight under no slot of its own. -/

namespace Sys2Proof.Machine

/-- A thread of launch 5, of rank 3, in slot 1. -/
def arrivedThread : Thread := { Thread.blank with lim := 16, lid := 5, rank := 3 }

def arrivedCore : Core :=
  { Core.blank true with
    cycle := 1, slots := (Vector.replicate 16 Slot.empty).set 1 ⟨.thread arrivedThread, none⟩ }

/-- A store that the thread issued on core 4 before it came to core 0, still on its way to its bank (R198). -/
def leftStore : Access :=
  { id := 0, core := 4, slot := goneSlot, kind := .store, parts := [⟨0, .hbm 0 0x10000, 4, 7, false, none, 0, 0⟩], group := some 0
    passed := [], stage := .going, seq := 0, data2 := 0, named := 0, asn := 0, rewrite := none, result := [], okay := false
    remote := false, via := .plain, each := false, left := some (5, 3), trail := [], vas := [] }

def arrivedState : State :=
  { State.reset with booted := true, agenda := [], cores := [(0, arrivedCore)], flight := [leftStore] }

/-- EXIT with the code in g9. -/
def exitOperand : ShA := ⟨⟨false, 0⟩, 9⟩

theorem issues_exitOperand : Issues (exitOperand.use [exitOperand.a.toNat] []).oncely arrivedState arrivedThread := by
  constructor <;> decide +kernel

/-- EXIT waits while a relaxed access of its thread is outstanding, one from before it came to its core among them. -/
theorem exit_waits {s : State} {t : Thread} {o : ShA} (h : Issues (o.use [o.a.toNat] []).oncely s t) (hc : t.convoy = false)
    (h0 : curSlot s ≠ 0) (hr : ownRelaxed s s.turn (curSlot s) ≠ []) : Waits (.exit o) s s t .waitMem := by
  refine waits_of (i := .exit o) rfl h ?_
  have hconvoy : (issuedThread (o.use [o.a.toNat] []).oncely s t).convoy = false := by
    obtain ⟨b, p, w, e⟩ := issuedThread_eq (o.use [o.a.toNat] []).oncely s t
    rw [e, hc]
  simp [hconvoy, h0, ownRelaxed_issuedState h.here, hr]

/-- Refutes O19: `ownFlight` lists the accesses under the slot of EXIT alone, and it is empty; EXIT waits all the same for the
store that its thread left on core 4, and the thread stays in its slot. -/
theorem not_reapExitTrigger : ¬ Obligations.ReapExitTrigger := by
  intro h
  obtain ⟨-, hexit, -⟩ := h arrivedState arrivedThread
  have hslot : curSlot arrivedState ≠ 0 := by decide +kernel
  obtain ⟨-, -, -, hends⟩ := hexit exitOperand issues_exitOperand
  obtain ⟨s', he, hcontent, -⟩ := hends rfl hslot (by decide +kernel)
  have hwaits := exit_waits issues_exitOperand rfl hslot (by decide +kernel)
  obtain rfl := Host.Outcome.next.inj (hwaits.symm.trans he)
  exact absurd hcontent (by decide +kernel)

end Sys2Proof.Machine

/-! SUPPORT. O45: LAUNCH and BAR (R131, R133, R140, R141). What the front end does with a record that LAUNCH brings does not
see the issue of LAUNCH, and changes nothing that an issue looks at. -/

namespace Sys2Proof.Machine

/-! ### What an issue changes, over a state that the front end has changed -/

/-- `s` with what an issue changes taken from `k`: the cores, the wear and the mark that the cycle has issued. Which quads
have stopped being present is no wear, and stays that of `s`. -/
def withIssue (s k : State) : State :=
  { s with cores := k.cores, life := { k.life with gone := s.life.gone }, issued := k.issued }

/-- `s0` differs from `s` in nothing that an issue looks at or changes. -/
structure KeepsIssue (s s0 : State) : Prop where
  cores : s0.cores = s.cores
  booted : s0.booted = s.booted
  life : s0.life = s.life
  turn : s0.turn = s.turn

theorem KeepsIssue.refl (s : State) : KeepsIssue s s := ⟨rfl, rfl, rfl, rfl⟩

theorem KeepsIssue.trans {s s' s'' : State} (h : KeepsIssue s s') (g : KeepsIssue s' s'') : KeepsIssue s s'' :=
  ⟨g.cores.trans h.cores, g.booted.trans h.booted, g.life.trans h.life, g.turn.trans h.turn⟩

theorem KeepsIssue.getCore {s s0 : State} (h : KeepsIssue s s0) (c : Nat) : getCore s0 c = Machine.getCore s c :=
  getCore_congr h.cores h.booted c

theorem KeepsIssue.curSlot {s s0 : State} (h : KeepsIssue s s0) : curSlot s0 = Machine.curSlot s := by
  rw [Machine.curSlot, h.turn, h.getCore, Machine.curSlot]

theorem keepsIssue_recount (s k : State) : KeepsIssue s (recount s k) := ⟨rfl, rfl, rfl, rfl⟩

/-- An issue changes a state that keeps what it looks at as it changes the old one. -/
theorem withIssue_issuedState {s s0 : State} (h : KeepsIssue s s0) (u : Use) (t : Thread) :
    withIssue s0 (issuedState u s t) =
      setThread (chargedState s0 s.turn) s.turn (curSlot s) (issuedThread u s t) := by
  have hcharge : chargedState s0 s.turn = withIssue s0 (chargedState s s.turn) := by
    simp only [chargedState, accrue, liveOf, physCore, physQuad, setLive, withIssue, h.life, h.getCore, h.cores]
  have hcore : getCore (chargedState s0 s.turn) s.turn = getCore (chargedState s s.turn) s.turn := h.getCore s.turn
  have hcores : (chargedState s0 s.turn).cores = (chargedState s s.turn).cores := h.cores
  rw [setThread_eq_setCore, hcore, setCore, hcores, hcharge]
  rfl

/-- An operation whose answer is what another state makes of the issue completes over that state. -/
theorem completes_withIssue {i : Instr} {u : Use} {op : Ctx → Thread → State → Res} {s s0 : State} {t v : Thread}
    (hk : KeepsIssue s s0) (he : exec i s = issue u op s) (h : Issues u s t)
    (hop : op (issueCtx u s t) (issuedThread u s t) (issuedState u s t) =
      done (withIssue s0 (issuedState u s t)) (issueCtx u s t) v) :
    CompletesFrom i s s0 (goesTo v (pcAfter t u.words)) := by
  refine completes_onto hk.turn hk.curSlot he h ?_
  rw [hop, withIssue_issuedState hk, done, issueCtx_core, issueCtx_slot, setThread_setThread _ _ _ _ _ (curSlot_lt s)]

/-! ### The front end does not see an issue -/

theorem loadNat_withIssue (s k : State) (p : Place) (n : Nat) : loadNat (withIssue s k) p n = loadNat s p n :=
  loadNat_congr s (withIssue s k) rfl rfl p n

theorem rangeWords_withIssue (s k : State) (ps : List Place) (n : Nat) :
    rangeWords (withIssue s k) ps n = rangeWords s ps n := by
  simp only [rangeWords, loadWord, loadNat_withIssue]

theorem frontXlate_withIssue (s k : State) (asn va : Nat) (w : Bool) :
    frontXlate (withIssue s k) asn va w = frontXlate s asn va w := by
  have hentry (pa : Nat) : readEntry (withIssue s k) pa = readEntry s pa := by
    rw [readEntry, loadNat_withIssue, readEntry]
  have hwalk : walk (withIssue s k) asn va = walk s asn va := by
    simp only [walk, hentry]
    rfl
  rw [frontXlate, hwalk]
  rfl

theorem backInvalidate_withIssue (s k : State) (p : Place) :
    backInvalidate (withIssue s k) p = withIssue (backInvalidate s p) k := by
  unfold backInvalidate
  rw [apply_ite (withIssue · k)]
  rfl

theorem takeBack_withIssue (s k : State) (p : Place) (n : Nat) :
    takeBack (withIssue s k) p n = withIssue (takeBack s p n) k := by
  unfold takeBack
  rw [apply_ite (withIssue · k),
    List.foldl_hom (withIssue · k) fun s j => backInvalidate_withIssue s k (p.shift (64 * j))]
  rfl

theorem frontTouch_withIssue (s k : State) (asn va n : Nat) :
    frontTouch (withIssue s k) asn va n = withIssue (frontTouch s asn va n) k := by
  unfold frontTouch
  refine List.foldl_hom (withIssue · k) fun s p => ?_
  rw [frontXlate_withIssue]
  split
  · rfl
  · exact takeBack_withIssue ..

theorem headTouched_withIssue (s k : State) (asn : Nat) (r : Rec) :
    headTouched (withIssue s k) asn r = withIssue (headTouched s asn r) k := by
  unfold headTouched
  dsimp only
  split <;> split <;> simp only [frontTouch_withIssue]

theorem checkDesc_withIssue (s k : State) (asn d : Nat) : checkDesc (withIssue s k) asn d = checkDesc s asn d := by
  have hwords (va n : Nat) : frontWords (withIssue s k) asn va n = frontWords s asn va n := by
    simp only [frontWords, frontXlate_withIssue, rangeWords_withIssue]
    rfl
  simp only [checkDesc, readIf, hwords]
  rfl

theorem queuedLid_withIssue (s k : State) (lid : Nat) : queuedLid (withIssue s k) lid = queuedLid s lid := by
  simp only [queuedLid, ringPlace, frontXlate_withIssue, loadNat_withIssue]
  rfl

/-- A record that comes to the head of its queue. -/
theorem headArrives_cons {s : State} {q : Nat} {r : Rec} {l : List Rec} (h : (getQueue s q).recs = r :: l) :
    headArrives s q =
      let u := headTouched s (getQueue s q).asn.toNat r
      setQueue u q { getQueue u q with
        checked := some (checkDesc u (getQueue s q).asn.toNat r.desc)
        waits := (([0, 1, 2] : List Nat).map (dDep r.desc)).filter fun l =>
          l != 0 && ((launchOf u (BitVec.ofNat 32 l)).isSome || queuedLid u l) } := by
  simp only [headArrives, h]
  rfl

theorem headArrives_withIssue (s k : State) (q : Nat) :
    headArrives (withIssue s k) q = withIssue (headArrives s q) k := by
  have hq : getQueue (withIssue s k) q = getQueue s q := rfl
  cases h : (getQueue s q).recs with
  | nil => simp only [headArrives, hq, h]; rfl
  | cons r l =>
    rw [headArrives_cons h, headArrives_cons (hq ▸ h), hq]
    simp only [headTouched_withIssue, checkDesc_withIssue, queuedLid_withIssue]
    rfl

/-! ### What the front end leaves of what an issue looks at -/

theorem KeepsIssue.foldl {α : Type} {f : State → α → State} (h : ∀ s a, KeepsIssue s (f s a)) (l : List α) (s : State) :
    KeepsIssue s (l.foldl f s) := by
  induction l generalizing s with
  | nil => exact .refl s
  | cons a l ih => exact (h s a).trans (ih _)

theorem keepsIssue_takeBack (s : State) (p : Place) (n : Nat) : KeepsIssue s (takeBack s p n) := by
  unfold takeBack
  split
  · exact .refl s
  · refine KeepsIssue.foldl (fun s j => ?_) _ s
    unfold backInvalidate
    split <;> exact ⟨rfl, rfl, rfl, rfl⟩

theorem keepsIssue_frontTouch (s : State) (asn va n : Nat) : KeepsIssue s (frontTouch s asn va n) := by
  refine KeepsIssue.foldl (fun s p => ?_) _ s
  split
  · exact .refl s
  · exact keepsIssue_takeBack ..

theorem keepsIssue_headTouched (s : State) (asn : Nat) (r : Rec) : KeepsIssue s (headTouched s asn r) := by
  have touch (b : Prop) [Decidable b] (u : State) (va n : Nat) :
      KeepsIssue u (if b then u else frontTouch u asn va n) := by
    split
    · exact .refl u
    · exact keepsIssue_frontTouch ..
  exact (touch _ s _ _).trans (touch _ _ _ _)

theorem keepsIssue_setQueue (s : State) (q : Nat) (x : Queue) : KeepsIssue s (setQueue s q x) := ⟨rfl, rfl, rfl, rfl⟩

theorem keepsIssue_headArrives (s : State) (q : Nat) : KeepsIssue s (headArrives s q) := by
  cases h : (getQueue s q).recs with
  | nil => simp only [headArrives, h]; exact keepsIssue_setQueue ..
  | cons r l =>
    rw [headArrives_cons h]
    exact (keepsIssue_headTouched ..).trans (keepsIssue_setQueue ..)

/-! ### A record that a queue takes on chip (R122, R124) -/

/-- The front end once a queue has taken a record into its places on chip. -/
def queueTakes (s : State) (q : Nat) (r : Rec) : State :=
  let u := setQueue s q { getQueue s q with recs := (getQueue s q).recs ++ [r] }
  if (getQueue s q).recs = [] then headArrives u q else u

theorem queueTakes_withIssue (s k : State) (q : Nat) (r : Rec) :
    queueTakes (withIssue s k) q r = withIssue (queueTakes s q r) k := by
  simp only [queueTakes]
  rw [apply_ite (withIssue · k), ← headArrives_withIssue]
  rfl

theorem keepsIssue_queueTakes (s : State) (q : Nat) (r : Rec) : KeepsIssue s (queueTakes s q r) := by
  unfold queueTakes
  dsimp only
  split
  · exact (keepsIssue_setQueue ..).trans (keepsIssue_headArrives ..)
  · exact keepsIssue_setQueue ..

section
variable {s : State} {q : Nat} {x : Queue} (hq : getQueue s q = x) (d : Nat)
include hq

theorem launchEnqueue_closed (hd : x.devq = false) : launchEnqueue s q d = (s, 3) := by
  simp only [launchEnqueue, hq, hd, Bool.not_false, if_true]

theorem launchEnqueue_halted (hd : x.devq = true) (hh : x.halt = true) : launchEnqueue s q d = (s, 2) := by
  simp [launchEnqueue, enqueue, hq, hd, hh]

theorem launchEnqueue_taken (hd : x.devq = true) (hh : x.halt = false) (hl : x.recs.length < 32) (ho : x.ovCount = 0) :
    launchEnqueue s q d = (queueTakes s q ⟨d, none⟩, 0) := by
  simp [launchEnqueue, enqueue, queueTakes, hq, hd, hh, hl, ho]

end

/-! ### The two halves of a descriptor (R140) -/

section
variable {u : Use} {s : State} {t : Thread} {a : Word} {p1 p2 : Place}

/-- The requests of the two halves, counted. -/
def countHalves (s : State) (p1 p2 : Place) : State := countAll (countAll s s.turn p1 []) s.turn p2 []

theorem countHalves_eq_recount (s : State) (p1 p2 : Place) : countHalves s p1 p2 = recount s (countHalves s p1 p2) :=
  (counts_frame s.turn [(p1, []), (p2, [])]).eq_recount s

theorem keepsIssue_countHalves (s : State) (p1 p2 : Place) : KeepsIssue s (countHalves s p1 p2) := by
  rw [countHalves_eq_recount]
  exact keepsIssue_recount ..

theorem flight_countHalves (s : State) (p1 p2 : Place) : (countHalves s p1 p2).flight = s.flight := by
  rw [countHalves_eq_recount]
  rfl

theorem bads_countHalves (s : State) (p1 p2 : Place) : (countHalves s p1 p2).bads = s.bads := by
  rw [countHalves_eq_recount]
  rfl

theorem getQueue_countHalves (s k : State) (p1 p2 : Place) (q : Nat) :
    getQueue (withIssue (countHalves s p1 p2) k) q = getQueue s q := by
  rw [countHalves_eq_recount]
  rfl

theorem locateHalves_issued (ht : threadAt s s.turn (curSlot s) = some t) (h1 : RecordAt s t a 0 p1)
    (h2 : RecordAt s t a 64 p2) :
    locateHalves (issuedState u s t) s.turn (issuedThread u s t) (selOf a) (offOf a) needR =
      .ok [(p1, []), (p2, [])] := by
  have hl1 := h1.1
  have hl2 := h2.1
  rw [Nat.add_zero] at hl1
  rw [Nat.cast_add, Nat.cast_ofNat] at hl2
  simp only [locateHalves, locateRange_issuedState ht, hl1, hl2]
  rfl

/-- A default access to the halves of a descriptor in this package, where nothing stands in its way, goes on with their
places once their requests are counted. -/
theorem piecesOp_halves {kno : Nat} {k : State → List Place → Res} (hi : Issues u s t) (hc : Clear s)
    (h1 : RecordAt s t a 0 p1) (h2 : RecordAt s t a 64 p2) :
    piecesOp (issueCtx u s t) (issuedThread u s t) (issuedState u s t) (selOf a) (offOf a) 128 needR kno
        (locateHalves (issuedState u s t) s.turn (issuedThread u s t) (selOf a) (offOf a) needR) k =
      k (withIssue (countHalves s p1 p2) (issuedState u s t)) [p1, p2] := by
  have hcount : [(p1, []), (p2, [])].foldl (fun s' p => countAll s' s.turn p.1 p.2) (issuedState u s t) =
      withIssue (countHalves s p1 p2) (issuedState u s t) := by
    rw [countHalves_eq_recount]
    exact counts_frame s.turn [(p1, []), (p2, [])] s (issuedState u s t) ⟨rfl, rfl⟩
  have hf : (withIssue (countHalves s p1 p2) (issuedState u s t)).flight = [] :=
    (flight_countHalves s p1 p2).trans hc.flight
  have hb : (withIssue (countHalves s p1 p2) (issuedState u s t)).bads = [] := (bads_countHalves s p1 p2).trans hc.bads
  have hin : ∀ q ∈ [(p1, ([] : List Place)), (p2, [])], q.1.inside = true := by simp [h1.2, h2.2]
  simp only [piecesOp, mayIssue_clear (issuedState u s t) _ hc.flight, locateHalves_issued hi.here h1 h2,
    reaching_inside hin, issueCtx_core, hcount, settleEarlier_none _ _ _ _ hf, pathHeld_none _ _ _ _ hf, badOffset, hb]
  rfl

end

/-! ### LAUNCH (R131, R140) -/

/-- The descriptor that LAUNCH reads. -/
def launchDesc (s : State) (p1 p2 : Place) : Nat :=
  wordsNat (rangeWords (countHalves s p1 p2) [p1] 64 ++ rangeWords (countHalves s p1 p2) [p2] 64)

/-- LAUNCH completes over what the queue makes of the descriptor once its requests are counted, and gives gA the answer. -/
theorem completes_launch {s s0 : State} {t : Thread} {o : ShT} {p1 p2 : Place} {w : Word}
    (hi : Issues (o.use true).oncely s t) (hc : Clear s)
    (h1 : RecordAt s t (rdReg t o.b.toNat) 0 p1) (h2 : RecordAt s t (rdReg t o.b.toNat) 64 p2)
    (hk : KeepsIssue (countHalves s p1 p2) s0)
    (hr : ∀ k, launchEnqueue (withIssue (countHalves s p1 p2) k) ((rdReg t o.cNum).toNat % 64) (launchDesc s p1 p2) =
      (withIssue s0 k, w)) :
    CompletesFrom (.launch o) s s0
      (goesTo (wrReg (issuedThread (o.use true).oncely s t) o.a.toNat w) (pcAfter t (o.use true).words)) := by
  refine completes_withIssue (u := (o.use true).oncely) ((keepsIssue_countHalves s p1 p2).trans hk) rfl hi ?_
  have hq : ((rdReg t o.cNum).extractLsb' 0 6).toNat = (rdReg t o.cNum).toNat % 64 := by
    rw [BitVec.extractLsb'_toNat, Nat.shiftRight_zero]
  have hquiet (k : State) (x : Ctx) : quiet (withIssue (countHalves s p1 p2) k) x = true := by
    have hf : (withIssue (countHalves s p1 p2) k).flight = [] := (flight_countHalves s p1 p2).trans hc.flight
    simp only [quiet, allPerformed, hf, List.all_nil]
  have hdesc (k : State) : numOf (rangeWords (withIssue (countHalves s p1 p2) k) [p1] 64 ++
      rangeWords (withIssue (countHalves s p1 p2) k) [p2] 64) = launchDesc s p1 p2 := by
    rw [rangeWords_withIssue, rangeWords_withIssue, numOf, launchDesc]
  simp only [rdReg_issuedThread, issueCtx_core, piecesOp_halves hi hc h1 h2, hquiet, List.take, List.drop, hdesc, hq, hr]
  rfl

theorem launchAnswers : Claim.LaunchAnswers := by
  intro s t o p1 p2 hi hc h1 h2 s1 q desc v next
  have hqueue (k : State) : getQueue (withIssue s1 k) q = getQueue s q := getQueue_countHalves s k p1 p2 q
  refine ⟨fun hd => ?closed, fun hd hh => ?halted, fun hd hh hl ho => ?taken⟩
  case closed => exact completes_launch hi hc h1 h2 (.refl _) fun k => launchEnqueue_closed (hqueue k) _ hd
  case halted => exact completes_launch hi hc h1 h2 (.refl _) fun k => launchEnqueue_halted (hqueue k) _ hd hh
  case taken =>
    intro s2
    have htakes : queueTakes s1 q ⟨desc, none⟩ = if (getQueue s q).recs = [] then headArrives s2 q else s2 := by
      rw [queueTakes, show getQueue s1 q = getQueue s q from hqueue s1]
    rw [← htakes]
    refine completes_launch hi hc h1 h2 (keepsIssue_queueTakes ..) fun k =>
      (launchEnqueue_taken (hqueue k) _ hd hh hl ho).trans ?_
    exact congrArg (·, 0) (queueTakes_withIssue ..)

/-! ### BAR (R133, R141) -/

theorem barArrives : Claim.BarArrives := by
  intro s t o hi
  have hconvoy : (issuedThread o.use.oncely s t).convoy = t.convoy := by
    obtain ⟨b, p, w, e⟩ := issuedThread_eq o.use.oncely s t
    rw [e]
  have hpop : inPopulation (issuedThread o.use.oncely s t) = inPopulation t := by
    obtain ⟨b, p, w, e⟩ := issuedThread_eq o.use.oncely s t
    rw [e]
    rfl
  refine ⟨fun hc => traps_of (i := .bar o) rfl hi (by simp only [hconvoy, hc, if_true]), fun hc hk hl hs => ?_⟩
  have hin : inPopulation t = true := by simpa [inPopulation, hk] using hl
  have hpod : ¬ o.scope = 5 := fun h => by rw [h] at hs; exact absurd hs (by decide)
  refine ⟨fun h0 => ?lane, fun h0 => ?wider⟩
  case lane =>
    refine completes_written (i := .bar o) (u := o.use.oncely) rfl hi ?_
    simp only [hconvoy, hpop, hc, hin, h0]
    rfl
  case wider =>
    refine completes_hold (i := .bar o) rfl hi ?_
    simp only [hconvoy, hpop, hc, hin, hpod, h0]
    rfl

/-- Settles O45: LAUNCH's descriptor goes to the front end, which answers over the counted requests as it would without the
issue, and BAR answers by its own cases. -/
theorem launchesAndBarriers : Obligations.LaunchesAndBarriers := ⟨launchAnswers, barArrives⟩

end Sys2Proof.Machine

/-! SUPPORT. Convoys: what an issue leaves of a convoy and of its core's places, and what an instruction completes with that
makes a convoy (R143, R151, R158, R159). -/

namespace Sys2Proof.Machine

/-! ### What an issue leaves of a convoy and of its core's places -/

section
variable (u : Use) (s : State) (t : Thread)

@[simp] theorem convoy_issuedThread : (issuedThread u s t).convoy = t.convoy := by
  obtain ⟨b, p, w, e⟩ := issuedThread_eq u s t
  rw [e]

@[simp] theorem m_issuedThread : (issuedThread u s t).m = t.m := by
  obtain ⟨b, p, w, e⟩ := issuedThread_eq u s t
  rw [e]

@[simp] theorem md_issuedThread : (issuedThread u s t).md = t.md := by
  obtain ⟨b, p, w, e⟩ := issuedThread_eq u s t
  rw [e]

@[simp] theorem regs_issuedThread : (issuedThread u s t).regs = t.regs := by
  obtain ⟨b, p, w, e⟩ := issuedThread_eq u s t
  rw [e]

@[simp] theorem triggered_issuedThread : (issuedThread u s t).triggered = t.triggered := by
  obtain ⟨b, p, w, e⟩ := issuedThread_eq u s t
  rw [e]

@[simp] theorem rank_issuedThread : (issuedThread u s t).rank = t.rank := by
  obtain ⟨b, p, w, e⟩ := issuedThread_eq u s t
  rw [e]

theorem mayConvoy_issuedState : mayConvoy (issuedState u s t) (issuedThread u s t) = mayConvoy s t := by
  obtain ⟨b, p, w, e⟩ := issuedThread_eq u s t
  rw [e]
  rfl

end

/-- A slot that holds a thread is not VACANT. -/
theorem isVacant_of_threadAt {s : State} {c i : Nat} {t : Thread} (h : threadAt s c i = some t) :
    (getSlot s c i).isVacant = false := by
  simp only [threadAt, Slot.thread?] at h
  split at h
  · next hc => simp only [Slot.isVacant, hc]
  · cases h

section
variable {u : Use} {s : State} {t : Thread} (h : threadAt s s.turn (curSlot s) = some t)
include h

/-- An issue takes no slot and leaves none. -/
theorem keepsPlaces_issuedState : KeepsPlaces s (issuedState u s t) := by
  refine ⟨rfl, rfl, fun c => arrivals_setThread (chargedState s s.turn) s.turn (curSlot s) c _, fun c i => ?_⟩
  by_cases hc : (c, i) = (s.turn, curSlot s)
  · obtain ⟨rfl, rfl⟩ := Prod.mk.inj hc
    rw [isVacant_of_threadAt h, isVacant_of_threadAt (threadAt_issuedState u s t)]
  · rw [issuedState, getSlot_setThread_ne _ _ _ _ _ _ hc, getSlot_chargedState]

/-- The slot that issues is none that a convoy may take. -/
theorem ne_curSlot_of_mem_vacantSlots {i : Nat} (hi : i ∈ vacantSlots (getCore s s.turn)) : i ≠ curSlot s := by
  rintro rfl
  have hv : (getSlot s s.turn (curSlot s)).isVacant = true := (mem_vacantSlots hi).2.2
  rw [isVacant_of_threadAt h] at hv
  exact absurd hv (by decide)

end

/-! ### What an instruction completes with that makes a convoy -/

section
variable {i : Instr} {u : Use} {op : Ctx → Thread → State → Res} {s s1 : State} {t v : Thread}

/-- An operation that makes a thread in another slot of its core, over a state that keeps what an issue looks at. -/
theorem completes_withIssue_making {j : Nat} {w : Thread} (hj : j ≠ curSlot s) (hk : KeepsIssue s s1)
    (he : exec i s = issue u op s) (h : Issues u s t)
    (hop : op (issueCtx u s t) (issuedThread u s t) (issuedState u s t) =
      done (setThread (withIssue s1 (issuedState u s t)) s.turn j w) (issueCtx u s t) v) :
    CompletesFrom i s (setThread s1 s.turn j w) (goesTo v (pcAfter t u.words)) := by
  have hcur : curSlot (setThread s1 s.turn j w) = curSlot s := by rw [curSlot_setThread _ _ _ _ hk.turn.symm, hk.curSlot]
  refine completes_onto hk.turn hcur he h ?_
  rw [hop, withIssue_issuedState hk, chargedState_setThread, done, issueCtx_core, issueCtx_slot,
    setThread_comm _ _ hj.symm, setThread_setThread _ _ _ _ _ (curSlot_lt s)]

/-- An operation that changes its core beside the slots, over a state that keeps what an issue looks at. -/
theorem completes_withIssue_modCore {f : Core → Core} (hf : LeavesSlots f) (hk : KeepsIssue s s1)
    (he : exec i s = issue u op s) (h : Issues u s t)
    (hop : op (issueCtx u s t) (issuedThread u s t) (issuedState u s t) =
      done (modCore (withIssue s1 (issuedState u s t)) s.turn f) (issueCtx u s t) v) :
    CompletesFrom i s (modCore s1 s.turn f) (goesTo v (pcAfter t u.words)) := by
  have hcur : curSlot (modCore s1 s.turn f) = curSlot s := by
    rw [← hk.turn, curSlot_modCore hf, hk.curSlot]
  have hcharge : chargedState (modCore s1 s.turn f) s.turn = modCore (chargedState s1 s.turn) s.turn f := by
    rw [← hk.turn, chargedState_modCore hf]
  refine completes_onto hk.turn hcur he h ?_
  rw [hop, withIssue_issuedState hk, modCore_setThread hf, hcharge, done, issueCtx_core, issueCtx_slot,
    setThread_setThread _ _ _ _ _ (curSlot_lt s)]

end

/-! ### The place of a new convoy (R158, R159) -/

section
variable {s : State} {c : Nat} {t : Thread}

theorem placeConvoy_slot {i : Nat} {l : List Nat} (h : vacantSlots (getCore s c) = i :: l) :
    placeConvoy s c t = .slot (addConvoy (setThread s c i t) t) := by
  simp only [placeConvoy, h]

/-- The convoy in the arrival queue of its core. -/
def queueConvoy (s : State) (c : Nat) (t : Thread) : State :=
  addConvoy
    (modCore { s with serial := s.serial + 1 } c fun k => { k with arrivals := k.arrivals ++ [⟨s.serial, t, false⟩] }) t

theorem placeConvoy_queue (h : vacantSlots (getCore s c) = [])
    (hf : (getCore s c).refused.length < freePlaces (getCore s c)) :
    placeConvoy s c t = .queue (queueConvoy s c t) := by
  simp only [placeConvoy, h, gt_iff_lt, hf, if_true]
  rfl

theorem placeConvoy_nowhere (h : vacantSlots (getCore s c) = [])
    (hf : ¬ (getCore s c).refused.length < freePlaces (getCore s c)) : placeConvoy s c t = .nowhere := by
  simp only [placeConvoy, h, gt_iff_lt, hf, if_false]

end


theorem keepsIssue_addConvoy {s s1 : State} (hk : KeepsIssue s s1) (w : Thread) : KeepsIssue s (addConvoy s1 w) :=
  hk.trans ⟨rfl, rfl, rfl, rfl⟩

theorem leavesSlots_arrivals (l : List Queued) : LeavesSlots fun k => { k with arrivals := k.arrivals ++ l } :=
  ⟨fun _ _ => rfl, fun _ => rfl, fun _ => rfl⟩

section
variable {i : Instr} {u : Use} {op : Ctx → Thread → State → Res} {s s1 : State} {t v w : Thread} (hk : KeepsIssue s s1)
include hk

theorem getCore_withIssue (u : Use) (t : Thread) (c : Nat) :
    getCore (withIssue s1 (issuedState u s t)) c = getCore (issuedState u s t) c :=
  getCore_congr (s := issuedState u s t) (s' := withIssue s1 (issuedState u s t)) rfl hk.booted c

theorem vacantSlots_withIssue (h : Issues u s t) :
    vacantSlots (getCore (withIssue s1 (issuedState u s t)) s.turn) = vacantSlots (getCore s s.turn) := by
  rw [getCore_withIssue hk, (keepsPlaces_issuedState h.here).vacantSlots]

/-- An issue leaves the free and the claimed places of its core's arrival queue. -/
theorem hasRoom_withIssue (u : Use) (t : Thread) :
    (getCore (withIssue s1 (issuedState u s t)) s.turn).refused.length <
        freePlaces (getCore (withIssue s1 (issuedState u s t)) s.turn) ↔
      (getCore s s.turn).refused.length < freePlaces (getCore s s.turn) := by
  rw [getCore_withIssue hk, getCore_issuedState]
  rfl

/-- An operation whose new convoy takes a slot. -/
theorem completes_newConvoy_slot {j : Nat} (hj : j ∈ vacantSlots (getCore s s.turn)) (he : exec i s = issue u op s)
    (h : Issues u s t)
    (hop : op (issueCtx u s t) (issuedThread u s t) (issuedState u s t) =
      done (addConvoy (setThread (withIssue s1 (issuedState u s t)) s.turn j w) w) (issueCtx u s t) v) :
    CompletesFrom i s (addConvoy (setThread s1 s.turn j w) w) (goesTo v (pcAfter t u.words)) :=
  completes_withIssue_making (s1 := addConvoy s1 w) (ne_curSlot_of_mem_vacantSlots h.here hj) (keepsIssue_addConvoy hk w)
    he h hop

/-- An operation whose new convoy goes to the arrival queue. -/
theorem completes_newConvoy_queue (he : exec i s = issue u op s) (h : Issues u s t)
    (hop : op (issueCtx u s t) (issuedThread u s t) (issuedState u s t) =
      done (queueConvoy (withIssue s1 (issuedState u s t)) s.turn w) (issueCtx u s t) v) :
    CompletesFrom i s (queueConvoy s1 s.turn w) (goesTo v (pcAfter t u.words)) :=
  completes_withIssue_modCore (s1 := addConvoy { s1 with serial := s1.serial + 1 } w)
    (leavesSlots_arrivals [⟨s1.serial, w, false⟩])
    (keepsIssue_addConvoy (hk.trans (s'' := { s1 with serial := s1.serial + 1 }) ⟨rfl, rfl, rfl, rfl⟩) w) he h hop

end

end Sys2Proof.Machine

/-! CVY (O21; R143, R159): the conversion of a thread in place, and the convoy of a record with its place. -/

namespace Sys2Proof.Machine

/-! ### The convoy of a record (R143, R159) -/

/-- A launch gives a convoy its segments, limits, vectors and space, and nothing else (R118). -/
theorem dress_eq (s : State) (t : Thread) : ∃ e e' a n w v p,
    dress s t = { t with segs := e, envs := e', asn := a, npop := n, wlim := w, tvec := v, upc := p } := by
  unfold dress
  split
  · exact ⟨t.segs, t.envs, t.asn, t.npop, t.wlim, t.tvec, t.upc, rfl⟩
  · exact ⟨_, _, _, _, _, _, _, rfl⟩

/-- The convoy that CVY makes of a record: a READY one with the record's PC and members. -/
theorem recordConvoy_fields (s : State) (t : Thread) (ws : List Word) :
    let u := recordConvoy s t ws
    u.pc = wordAt ws 0 ∧ u.convoy = true ∧ u.lim = 24 ∧ u.lid = t.lid ∧
      u.m = BitVec.ofNat 256 (wordsNat (ws.drop 8)) ∧ u.md = 0 ∧ u.status = .ready := by
  obtain ⟨r, b, hregs⟩ := wrRegs_eq Thread.blank 1 ((ws.drop 2).take 6)
  obtain ⟨e, e', a, n, w, v, p, hdress⟩ := dress_eq s { wrRegs Thread.blank 1 ((ws.drop 2).take 6) with
    pc := wordAt ws 0, lim := 24, convoy := true, m := BitVec.ofNat 256 (wordsNat (ws.drop 8)), qbase := t.qbase
    qstride := t.qstride, lid := t.lid, rank := t.rank, npop := t.npop, asn := t.asn }
  rw [recordConvoy, hdress, hregs]
  exact ⟨rfl, rfl, rfl, rfl, rfl, rfl, rfl⟩

/-- A manifest of some member has a word that is not 0. -/
theorem all_zero_eq_false {ws : List Word} (hm : ∃ w ∈ ws, w ≠ 0) : ws.all (· == 0) = false := by
  obtain ⟨w, hw, h0⟩ := hm
  exact List.all_eq_false.mpr ⟨w, hw, by simpa using h0⟩

section
variable {a : Nat} {x : Ctx} {t : Thread} {s s' : State} {ws : List Word}

theorem createOp_bad (h : codeAddrOk (wordAt ws 0) = false ∨ wordAt ws 1 ≠ 0) :
    createOp a x t s ws = done s x (wrReg t a 0xFFFFFFFF) :=
  if_pos (by rw [Bool.or_eq_true, Bool.not_eq_true', bne_iff_ne]; exact h)

variable (hpc : codeAddrOk (wordAt ws 0) = true) (h1 : wordAt ws 1 = 0)
include hpc h1

theorem createOp_noMember (hm : ∀ w ∈ ws.drop 8, w = 0) : createOp a x t s ws = done s x (wrReg t a 3) := by
  have hall : ((ws.drop 8).all (· == 0)) = true := by simpa using hm
  simp only [createOp, hpc, h1, hall]
  rfl

variable (hm : ∃ w ∈ ws.drop 8, w ≠ 0)
include hm

theorem createOp_slot (hp : placeConvoy s x.core (recordConvoy s t ws) = .slot s') :
    createOp a x t s ws = done s' x (wrReg t a 0) := by
  simp only [createOp, hpc, h1, all_zero_eq_false hm, hp]
  rfl

theorem createOp_queue (hp : placeConvoy s x.core (recordConvoy s t ws) = .queue s') :
    createOp a x t s ws = done s' x (wrReg t a 1) := by
  simp only [createOp, hpc, h1, all_zero_eq_false hm, hp]
  rfl

theorem createOp_nowhere (hp : placeConvoy s x.core (recordConvoy s t ws) = .nowhere) :
    createOp a x t s ws = done s x (wrReg t a 2) := by
  simp only [createOp, hpc, h1, all_zero_eq_false hm, hp]
  rfl

end

/-! ### CVY (R143, R159) -/

/-- CVY's operation (R159). -/
def cvyOp (o : ShU) (x : Ctx) (t : Thread) (s : State) : Res :=
  if o.b = 0 then convertOp o.a.toNat x t s
  else if !mayConvoy s t then .trap .convoy 0 0
  else recordOp x t s (rdReg t o.b.toNat) 64 (createOp o.a.toNat x t)

theorem exec_cvy (o : ShU) (s : State) : exec (.cvy o) s = issue (o.use true) (cvyOp o) s := rfl

/-- Two changes of one launch are one change, where the first leaves its number. -/
theorem modLaunch_modLaunch (s : State) (lid : Word) {f : Launch → Launch} (hf : ∀ l, (f l).lid = l.lid)
    (g : Launch → Launch) : modLaunch (modLaunch s lid f) lid g = modLaunch s lid fun l => g (f l) := by
  simp only [modLaunch, List.map_map]
  congr 2
  refine List.map_congr_left fun l _ => ?_
  by_cases h : l.lid = lid <;> simp [h, hf]

section
variable {s : State} {t : Thread} {o : ShU} (hi : Issues (o.use true) s t)
include hi

/-- A member of a population becomes a convoy in place (R133, R143, R157). -/
theorem cvy_converts (hb : o.b = 0) (ha : o.a.toNat < 24) (hm : mayConvoy s t = true) (hc : t.convoy = false)
    (hl : 24 ≤ t.lim) :
    CompletesFrom (.cvy o) s
      (modLaunch s t.lid fun l =>
        { l with
          convoys := l.convoys + 1, untriggered := if t.triggered then l.untriggered else l.untriggered + 1
          conv := true, members := l.members.filter fun m => m.rank != t.rank.toNat })
      (goesTo (wrReg (toConvoy (issuedThread (o.use true) s t)) o.a.toNat 0) (pcAfter t (o.use true).words)) := by
  refine completes_withIssue ⟨rfl, rfl, rfl, rfl⟩ (exec_cvy o s) hi ?_
  have hlim : ¬ (issuedThread (o.use true) s t).lim < 24 := by rw [lim_issuedThread]; omega
  simp only [cvyOp, hb, if_true, convertOp, ge_iff_le, Nat.not_le.mpr ha, if_false, mayConvoy_issuedState, hm,
    convoy_issuedThread, hc, hlim, addConvoy, lid_issuedThread, triggered_issuedThread, rank_issuedThread]
  rw [modLaunch_modLaunch _ _ (by exact fun _ => rfl)]
  rfl

theorem cvy_traps_converting (hb : o.b = 0) (ha : o.a.toNat < 24) (hm : mayConvoy s t = false ∨ t.convoy = true) :
    Traps (.cvy o) s t ⟨.convoy, 0, 0, t.pc, false, 0⟩ := by
  refine traps_of (exec_cvy o s) hi ?_
  simp only [cvyOp, hb, if_true, convertOp, ge_iff_le, Nat.not_le.mpr ha, if_false, mayConvoy_issuedState,
    convoy_issuedThread]
  exact if_pos (by rcases hm with h | h <;> simp [h])

theorem cvy_traps_creating (hb : o.b ≠ 0) (hm : mayConvoy s t = false) :
    Traps (.cvy o) s t ⟨.convoy, 0, 0, t.pc, false, 0⟩ := by
  refine traps_of (exec_cvy o s) hi ?_
  simp only [cvyOp, hb, if_false, mayConvoy_issuedState, hm, Bool.not_false, if_true]

end

theorem countedState_eq_withIssue (u : Use) (s : State) (t : Thread) (p : Place) :
    countedState u s t p = withIssue (countAll s s.turn p []) (issuedState u s t) := by
  rw [countAll_eq_recount]
  rfl

theorem keepsIssue_countAll (s : State) (p : Place) : KeepsIssue s (countAll s s.turn p []) := by
  rw [countAll_eq_recount]
  exact keepsIssue_recount ..

/-- CVY with a record makes what the record says once its request is counted. -/
theorem cvyOp_record {s : State} {t : Thread} {o : ShU} {p : Place} (hi : Issues (o.use true) s t) (hb : o.b ≠ 0)
    (hm : mayConvoy s t = true) (hc : Clear s) (hr : RecordAt s t (rdReg t o.b.toNat) 0 p) :
    cvyOp o (issueCtx (o.use true) s t) (issuedThread (o.use true) s t) (issuedState (o.use true) s t) =
      createOp o.a.toNat (issueCtx (o.use true) s t) (issuedThread (o.use true) s t)
        (withIssue (countAll s s.turn p []) (issuedState (o.use true) s t))
        (rangeWords (countAll s s.turn p []) [p] 64) := by
  simp only [cvyOp, hb, if_false, mayConvoy_issuedState, hm, Bool.not_true, Bool.false_eq_true, rdReg_issuedThread,
    recordOp_clear hi hc hr, countedState_eq_withIssue]

/-- Settles O21: conversion changes the launch once, and a record's convoy goes where its core has a place for it. -/
theorem convoyCreation : Obligations.ConvoyCreation := by
  intro s t o hi v next
  refine ⟨fun hb ha hm hc hl => ?convert, fun hb hm => cvy_traps_creating hi hb hm,
    fun hb ha hm => cvy_traps_converting hi hb ha hm, fun p hb hm hc hr => ?create⟩
  case convert =>
    have h := cvy_converts hi hb ha hm hc hl
    simp only [toConvoy, regs_issuedThread] at h
    exact h
  case create =>
    intro s1 ws
    have hop := cvyOp_record hi hb hm hc hr
    have hk : KeepsIssue s s1 := keepsIssue_countAll s p
    have hserial : s1.serial = s.serial := (congrArg State.serial (countAll_eq_recount s s.turn p) :)
    have hvacant := vacantSlots_withIssue hk hi
    have hroom := hasRoom_withIssue hk (o.use true) t
    have hw := recordConvoy_fields (withIssue s1 (issuedState (o.use true) s t)) v ws
    rw [show v.lid = t.lid from lid_issuedThread ..] at hw
    refine ⟨fun h => ?bad, fun hpc h1 => ⟨fun h0 => ?none, fun hsome => ⟨fun i l hv => ⟨_, ?slot, hw⟩,
      fun hv hf => ?nowhere, fun hv hf => ⟨_, ?queue, hw⟩⟩⟩⟩
    case bad => exact completes_withIssue hk (exec_cvy o s) hi (hop.trans (createOp_bad h))
    case none => exact completes_withIssue hk (exec_cvy o s) hi (hop.trans (createOp_noMember hpc h1 h0))
    case slot =>
      exact completes_newConvoy_slot hk (hv ▸ List.mem_cons_self) (exec_cvy o s) hi
        (hop.trans (createOp_slot hpc h1 hsome (placeConvoy_slot (hvacant.trans hv))))
    case nowhere =>
      exact completes_withIssue hk (exec_cvy o s) hi
        (hop.trans (createOp_nowhere hpc h1 hsome (placeConvoy_nowhere (hvacant.trans hv) (mt hroom.mp hf.not_gt))))
    case queue =>
      have h := completes_newConvoy_queue hk (exec_cvy o s) hi
        (hop.trans (createOp_queue hpc h1 hsome (placeConvoy_queue (hvacant.trans hv) (hroom.mpr hf))))
      rw [queueConvoy, hserial] at h
      exact h

end Sys2Proof.Machine

/-! JOIN (O22; R154, R155): the lookup in the joint table and what it makes of the convoy. -/

namespace Sys2Proof.Machine

/-! ### The end of a thread (R138, R162) -/

/-- From `s` to `s'` memory has stayed as it was, and so has what every slot holds. -/
structure KeepsSlots (s s' : State) : Prop where
  mem : s'.mem = s.mem
  slot : ∀ c i, getSlot s' c i = getSlot s c i

theorem KeepsSlots.trans {s s' s'' : State} (h : KeepsSlots s s') (g : KeepsSlots s' s'') : KeepsSlots s s'' :=
  ⟨g.mem.trans h.mem, fun c i => (g.slot c i).trans (h.slot c i)⟩

theorem keepsSlots_dropClaim (s : State) (d : Nat) (t : Thread) : KeepsSlots s (dropClaim s d t) := by
  unfold dropClaim
  split
  · exact ⟨rfl, fun c i => getSlot_congr (slots_modCore rfl c) i⟩
  · exact ⟨rfl, fun _ _ => rfl⟩

theorem keepsSlots_dropClaims (s : State) (t : Thread) : KeepsSlots s (dropClaims s t) := by
  have h : ∀ (l : List (Nat × Core)) (u : State), KeepsSlots u (l.foldl (fun u k => dropClaim u k.1 t) u) := fun l => by
    induction l with
    | nil => exact fun _ => ⟨rfl, fun _ _ => rfl⟩
    | cons k l ih => exact fun u => (keepsSlots_dropClaim u k.1 t).trans (ih _)
  exact h s.cores s

theorem keepsSlots_leaveLaunch (s : State) (t : Thread) (code : Nat) (err : BitVec 4) :
    KeepsSlots s (leaveLaunch s t code err) := by
  unfold leaveLaunch
  split <;> exact ⟨rfl, fun _ _ => rfl⟩

/-- A convoy that ends leaves a VACANT slot, every other slot as it was, and no byte written. -/
theorem endThread_convoy {s : State} {c i : Nat} {t : Thread} (code : Nat) (err : BitVec 4) (hi : i < 16)
    (hc : t.convoy = true) :
    let s' := endThread s c i t code err
    (getSlot s' c i).content = .vacant ∧ (∀ d j, (d, j) ≠ (c, i) → getSlot s' d j = getSlot s d j) ∧ s'.mem = s.mem := by
  have hs : KeepsSlots s (leaveLaunch (dropClaims (dropResv s c i) t) t code err) :=
    (KeepsSlots.trans (s := s) (s' := dropResv s c i) ⟨rfl, fun _ _ => rfl⟩ (keepsSlots_dropClaims _ t)).trans
      (keepsSlots_leaveLaunch ..)
  have he : endThread s c i t code err = vacate (leaveLaunch (dropClaims (dropResv s c i) t) t code err) c i .vacant := by
    unfold endThread
    simp only [hc, if_true]
    split <;> rfl
  rw [he]
  refine ⟨?_, fun d j h => ?_, hs.mem⟩
  · rw [vacate, getSlot_clearSlot _ _ _ _ hi]
  · rw [← hs.slot]
    exact (getSlot_congr (slots_modCore (slots_emptied i _) d) j).trans (getSlot_setSlot_ne _ c i d j _ h)

/-! ### A lookup in the joint table (R154, R155) -/

section
variable {s : State} {c : Nat} {t : Thread} {holder : Holder} {ia node : Word} {window : Nat}

/-- The entry that a JOIN meets. -/
def jointHit (s : State) (c : Nat) (t : Thread) (ia node : Word) : Option Joint :=
  (getCore s c).joint.find? fun j => j.ia = ia.setWidth 14 && j.node = node && j.lid = t.lid

theorem lookupJoin_merged {e : Joint} (h : jointHit s c t ia node = some e) :
    lookupJoin s c t holder ia node window = .merged (mergeInto (lookedUp s c) c e t) := by
  rw [jointHit] at h
  simp only [lookupJoin, h, lookedUp]

theorem lookupJoin_passed (h : jointHit s c t ia node = none) (hw : window = 0 ∨ 32 ≤ (getCore s c).joint.length) :
    lookupJoin s c t holder ia node window = .passed (lookedUp s c) := by
  rw [jointHit] at h
  simp only [lookupJoin, h, lookedUp]
  exact if_pos (by simpa using hw)

theorem lookupJoin_parked (h : jointHit s c t ia node = none) (hw : window ≠ 0)
    (hl : (getCore s c).joint.length < 32) :
    lookupJoin s c t holder ia node window =
      .parked (modCore s c fun k =>
        { k with
          lookup := some k.cycle
          joint := k.joint ++
            [⟨holder, ia.setWidth 14, BitVec.ofNat 24 (k.cycle + window), node, t.lid, false⟩] }) := by
  rw [jointHit] at h
  simp only [lookupJoin, h, hw, ge_iff_le, Nat.not_le.mpr hl, decide_false, Bool.or_self, Bool.false_eq_true, if_false,
    modCore, getCore_setCore_same, setCore_setCore]

end

/-- The holder of a slot takes the manifest of the convoy that meets it. -/
theorem threadAt_mergeInto {s : State} {c i : Nat} {e : Joint} {t w : Thread} (he : e.holder = .slot i)
    (hw : threadAt s c i = some w) : threadAt (mergeInto s c e t) c i = some (meet w t) := by
  have hat : threadAt (modCore s c fun k => { k with joint := k.joint.map fun j =>
      if j = e then { j with merged := true } else j }) c i = some w := by
    rw [threadAt, getSlot_congr (slots_modCore rfl c), ← threadAt, hw]
  rw [mergeInto]
  simp only [he]
  rw [modThread_some _ _ _ _ _ hat, threadAt_setThread_same _ _ _ _ (threadAt_lt hw)]

theorem mem_mergeInto (s : State) (c : Nat) (e : Joint) (t : Thread) : (mergeInto s c e t).mem = s.mem := by
  unfold mergeInto modThread
  dsimp only
  split
  · split <;> rfl
  · rfl

/-! ### JOIN (R154, R155) -/

section
variable {i : Instr} {u : Use} {op : Ctx → Thread → State → Res} {s : State} {t v : Thread}

/-- An operation whose thread has left its slot. -/
theorem exec_left {s' : State} (he : exec i s = issue u op s) (h : Issues u s t)
    (hop : op (issueCtx u s t) (issuedThread u s t) (issuedState u s t) = .left s') : exec i s = .next s' := by
  rw [exec_issues i u op s t he h, ← issuedState, hop]
  rfl

/-- An operation that changes its core beside the slots and goes in progress. -/
theorem completes_hold_modCore {f : Core → Core} {w : Waiting} {st : Status} {reg : Nat} (hf : LeavesSlots f)
    (he : exec i s = issue u op s) (h : Issues u s t)
    (hop : op (issueCtx u s t) (issuedThread u s t) (issuedState u s t) =
      .hold (setThread (modCore (issuedState u s t) s.turn f) s.turn (curSlot s) v) w st reg) :
    CompletesFrom i s (modCore s s.turn f)
      { v with
        pend := some ⟨w, pcAfter t u.words, reg, u.sync.map fun n => (n, rdReg t n)⟩, status := st
        waitFrom := some (getCore s s.turn).cycle } := by
  refine ⟨_, exec_issues i u op s t he h, ?_⟩
  have hlast := onlyThread_charged (modCore s s.turn f) { v with
    pend := some ⟨w, pcAfter t u.words, reg, u.sync.map fun n => (n, rdReg t n)⟩, status := st
    waitFrom := some (getCore s s.turn).cycle }
  rw [curSlot_modCore hf] at hlast
  rw [← issuedState, hop]
  simp only [settle, issueCtx]
  rw [modThread_some _ _ _ _ _ (threadAt_setThread_same _ _ _ _ (curSlot_lt s)), modCore_issuedState hf,
    setThread_setThread _ _ _ _ _ (curSlot_lt s), setThread_setThread _ _ _ _ _ (curSlot_lt s)]
  exact hlast

end

/-- The thread that issues, as its operation has changed the core beside the slots. -/
theorem threadAt_modCore_issuedState {f : Core → Core} (hf : LeavesSlots f) (u : Use) (s : State) (t : Thread) :
    threadAt (modCore (issuedState u s t) s.turn f) s.turn (curSlot s) = some (issuedThread u s t) := by
  rw [modCore_issuedState hf, threadAt_setThread_same _ _ _ _ (curSlot_lt s)]

theorem leavesSlots_lookup : LeavesSlots fun k => { k with lookup := some k.cycle } :=
  ⟨fun _ _ => rfl, fun _ => rfl, fun _ => rfl⟩

theorem leavesSlots_joint (e : Nat → Joint) :
    LeavesSlots fun k => { k with lookup := some k.cycle, joint := k.joint ++ [e k.cycle] } :=
  ⟨fun _ _ => rfl, fun _ => rfl, fun _ => rfl⟩

section
variable {s : State} {t : Thread} {o : ShI}

/-- The use of a JOIN's issue. -/
def joinUseOf (o : ShI) : Use := .of o.p (wordsOfChain true o.p o.imm.k) [o.a.toNat] [] []

theorem join_traps (hi : Issues (joinUseOf o) s t)
    (h : t.convoy = false ∨ segType ((t.segs[selOf (rdReg t o.a.toNat)]?).getD 0) ≠ 6) :
    Traps (.join o) s t ⟨.convoy, 0, 0, t.pc, false, 0⟩ := by
  refine traps_of (i := .join o) rfl hi (if_pos ?_)
  rw [convoy_issuedThread, rdReg_issuedThread, segs_issuedThread, Bool.or_eq_true, Bool.not_eq_true', bne_iff_ne]
  exact h

/-- What a JOIN's lookup makes of its convoy (R154, R155). -/
def joinAnswer (x : Ctx) (t : Thread) : Looked → Res
  | .merged s' => .left (endThread s' x.core x.slot t 0 0)
  | .passed s' => .ok (modThread s' x.core x.slot fun t => passJoin t x.next)
  | .parked s' => .hold (modThread s' x.core x.slot fun t => { t with joinPending := false }) .joined .parked 0

/-- A JOIN at a node of its own core, with no access outstanding, is answered by its lookup. -/
theorem join_looksUp {la : Nat} (hc : t.convoy = true)
    (hd : segType ((t.segs[selOf (rdReg t o.a.toNat)]?).getD 0) = 6)
    (hr : resolve s s.turn ((t.segs[selOf (rdReg t o.a.toNat)]?).getD 0) (offOf (rdReg t o.a.toNat)) 4 4 needR =
      .ok (.at (.lstore s.turn la)))
    (hf : s.flight = []) :
    ∃ op, exec (.join o) s = issue (joinUseOf o) op s ∧
      op (issueCtx (joinUseOf o) s t) (issuedThread (joinUseOf o) s t) (issuedState (joinUseOf o) s t) =
        joinAnswer (issueCtx (joinUseOf o) s t) (issuedThread (joinUseOf o) s t)
          (lookupJoin (issuedState (joinUseOf o) s t) s.turn (issuedThread (joinUseOf o) s t) (.slot (curSlot s)) t.pc
            (rdReg t o.a.toNat) o.imm.raw.toNat) := by
  refine ⟨_, rfl, ?_⟩
  have hquiet : quiet (issuedState (joinUseOf o) s t) (issueCtx (joinUseOf o) s t) = true := by
    have hf' : (issuedState (joinUseOf o) s t).flight = [] := hf
    simp only [quiet, allPerformed, hf', List.all_nil]
  simp only [convoy_issuedThread, rdReg_issuedThread, segs_issuedThread, hc, hd, issueCtx_core, issueCtx_slot,
    resolve_issuedState, hr, hquiet]
  rfl

theorem joint_issuedState (u : Use) (s : State) (t : Thread) :
    (getCore (issuedState u s t) s.turn).joint = (getCore s s.turn).joint := by
  rw [getCore_issuedState, Core_setSlot_joint]

theorem jointHit_issuedState (u : Use) (s : State) (t : Thread) (ia node : Word) :
    jointHit (issuedState u s t) s.turn (issuedThread u s t) ia node = jointHit s s.turn t ia node := by
  simp only [jointHit, joint_issuedState, lid_issuedThread]

end

section
variable {s : State} {t : Thread} {o : ShI} {la : Nat} (hi : Issues (joinUseOf o) s t) (hc : t.convoy = true)
  (hd : segType ((t.segs[selOf (rdReg t o.a.toNat)]?).getD 0) = 6)
  (hr : resolve s s.turn ((t.segs[selOf (rdReg t o.a.toNat)]?).getD 0) (offOf (rdReg t o.a.toNat)) 4 4 needR =
    .ok (.at (.lstore s.turn la)))
  (hf : s.flight = [])
include hi hc hd hr hf

theorem join_merges {e : Joint} {h : Nat} {w : Thread} (hit : jointHit s s.turn t t.pc (rdReg t o.a.toNat) = some e)
    (he : e.holder = .slot h) (hne : h ≠ curSlot s) (hw : threadAt s s.turn h = some w) :
    ∃ s', exec (.join o) s = .next s' ∧ threadAt s' s.turn h = some (meet w t) ∧
      (getSlot s' s.turn (curSlot s)).content = .vacant ∧ s'.mem = s.mem := by
  obtain ⟨op, hop, hval⟩ := join_looksUp hc hd hr hf
  rw [lookupJoin_merged ((jointHit_issuedState ..).trans hit)] at hval
  obtain ⟨hvacant, hothers, hmem⟩ := endThread_convoy (c := s.turn)
    (s := mergeInto (lookedUp (issuedState (joinUseOf o) s t) s.turn) s.turn e (issuedThread (joinUseOf o) s t)) 0 0
    (curSlot_lt s) ((convoy_issuedThread (joinUseOf o) s t).trans hc)
  have hne' : (s.turn, h) ≠ (s.turn, curSlot s) := by simpa using hne
  have hw' : threadAt (lookedUp (issuedState (joinUseOf o) s t) s.turn) s.turn h = some w := by
    rw [threadAt, lookedUp, getSlot_congr (slots_modCore rfl s.turn), ← threadAt, issuedState,
      threadAt_setThread_ne _ _ _ _ _ _ hne', threadAt_chargedState, hw]
  refine ⟨_, exec_left hop hi hval, ?_, hvacant, hmem.trans (mem_mergeInto ..)⟩
  have hmeet : meet w (issuedThread (joinUseOf o) s t) = meet w t := by
    simp only [meet, m_issuedThread, md_issuedThread]
  exact (congrArg Slot.thread? (hothers _ _ hne')).trans ((threadAt_mergeInto he hw').trans (congrArg some hmeet))

theorem join_passes (hit : jointHit s s.turn t t.pc (rdReg t o.a.toNat) = none)
    (hw : o.imm.raw = 0 ∨ 32 ≤ (getCore s s.turn).joint.length) :
    CompletesFrom (.join o) s (modCore s s.turn fun k => { k with lookup := some k.cycle })
      (goesTo { setFlag (issuedThread (joinUseOf o) s t) 1 false with joinPending := false }
        (pcAfter t (joinUseOf o).words)) := by
  obtain ⟨op, hop, hval⟩ := join_looksUp hc hd hr hf
  rw [lookupJoin_passed ((jointHit_issuedState ..).trans hit)
    (by rw [joint_issuedState]; exact hw.imp_left fun h => by rw [h]; rfl)] at hval
  exact completes_modCore (v := passJoin (issuedThread (joinUseOf o) s t) (pcAfter t (joinUseOf o).words))
    leavesSlots_lookup hop hi
    (hval.trans (congrArg Res.ok (modThread_some _ _ _ _ _ (threadAt_modCore_issuedState leavesSlots_lookup ..))))

theorem join_parks (hit : jointHit s s.turn t t.pc (rdReg t o.a.toNat) = none) (hw : o.imm.raw ≠ 0)
    (hl : (getCore s s.turn).joint.length < 32) :
    CompletesFrom (.join o) s
      (modCore s s.turn fun k =>
        { k with
          lookup := some k.cycle
          joint := k.joint ++ [⟨.slot (curSlot s), t.pc.setWidth 14, BitVec.ofNat 24 (k.cycle + o.imm.raw.toNat),
            rdReg t o.a.toNat, t.lid, false⟩] })
      { inProgress s (joinUseOf o) t .joined 0 .parked with joinPending := false } := by
  obtain ⟨op, hop, hval⟩ := join_looksUp hc hd hr hf
  rw [lookupJoin_parked ((jointHit_issuedState ..).trans hit) (fun h => hw (BitVec.eq_of_toNat_eq h))
    (by rwa [joint_issuedState]), lid_issuedThread] at hval
  have hleaves := leavesSlots_joint fun cycle => ⟨.slot (curSlot s), t.pc.setWidth 14,
    BitVec.ofNat 24 (cycle + o.imm.raw.toNat), rdReg t o.a.toNat, t.lid, false⟩
  exact completes_hold_modCore (v := { issuedThread (joinUseOf o) s t with joinPending := false }) hleaves hop hi
    (hval.trans (congrArg (Res.hold · .joined .parked 0)
      (modThread_some _ _ _ _ _ (threadAt_modCore_issuedState hleaves ..))))

end

/-- Settles O22: a JOIN at a node of its own core is answered by its lookup in the joint table. -/
theorem joinOutcomes : Obligations.JoinOutcomes := by
  intro s t o u node d next hi
  refine ⟨join_traps hi, fun la hc hd hr hf => ⟨fun e h hit he hne _ w hw => ?_, ?_, ?_⟩⟩
  · exact join_merges hi hc hd hr hf hit he hne hw
  · exact join_passes hi hc hd hr hf
  · exact join_parks hi hc hd hr hf

end Sys2Proof.Machine

/-! SPLIT and SPLITI (O23; R146, R158): the words that a split reads, the manifests of its two sides, and the convoy that it
makes. -/

namespace Sys2Proof.Machine

/-! ### Where the members' words lie (R146, R158) -/

theorem recAddr_issuedThread (u : Use) (s : State) (t : Thread) (id : Nat) (off : Int) :
    recAddr (issuedThread u s t) id off = recAddr t id off := by
  obtain ⟨b, p, w, e⟩ := issuedThread_eq u s t
  rw [e]
  rfl

/-- Where all the members' words have been found, the first member's lies at its place, and the others' have been found. -/
theorem memberPlaces_cons {s : State} {c : Nat} {t : Thread} {off id : Nat} {ids : List Nat}
    {l : List (Nat × Place × List Place)} (h : memberPlaces s c t off (id :: ids) = .ok l) :
    ∃ a p va passed l', recAddr t id off = .ok a ∧ locate s c t a.1 a.2 4 4 needR = .here p va passed ∧
      memberPlaces s c t off ids = .ok l' ∧ l = (id, p, passed) :: l' := by
  simp only [memberPlaces] at h
  split at h
  · cases h
  · next sel o ha =>
    split at h
    · next p va passed hp =>
      split at h
      · next l' hl => exact ⟨_, p, va, passed, l', ha, hp, hl, (Except.ok.inj h).symm⟩
      · cases h
    · cases h

theorem memberPlaces_issuedState {u : Use} {s : State} {t : Thread} {off : Nat} {ids : List Nat}
    {l : List (Nat × Place × List Place)} (ht : threadAt s s.turn (curSlot s) = some t)
    (h : memberPlaces s s.turn t off ids = .ok l) :
    memberPlaces (issuedState u s t) s.turn (issuedThread u s t) off ids = .ok l := by
  induction ids generalizing l with
  | nil => exact h
  | cons id ids ih =>
    obtain ⟨a, p, va, passed, l', ha, hp, hl, rfl⟩ := memberPlaces_cons h
    simp only [memberPlaces, recAddr_issuedThread, locate_issuedState u s t ht, ha, hp, ih hl]

/-- The places are those of the members, one for each. -/
theorem memberPlaces_fst {s : State} {c : Nat} {t : Thread} {off : Nat} {ids : List Nat}
    {l : List (Nat × Place × List Place)} (h : memberPlaces s c t off ids = .ok l) : l.map (·.1) = ids := by
  induction ids generalizing l with
  | nil =>
    cases h
    rfl
  | cons id ids ih =>
    obtain ⟨a, p, va, passed, l', -, -, hl, rfl⟩ := memberPlaces_cons h
    rw [List.map_cons, ih hl]

theorem lt_of_mem_memberPlaces {s : State} {c : Nat} {t : Thread} {off : Nat} {m : BitVec 256}
    {l : List (Nat × Place × List Place)} (h : memberPlaces s c t off (membersOf m) = .ok l)
    {q : Nat × Place × List Place} (hq : q ∈ l) : q.1 < 256 := by
  have hm : q.1 ∈ membersOf m := memberPlaces_fst h ▸ List.mem_map_of_mem hq
  exact List.mem_range.mp (List.mem_filter.mp hm).1

/-! ### Manifests of lists of members -/

theorem getLsbD_maskOf (ids : List Nat) {j : Nat} (hj : j < 256) : (maskOf ids).getLsbD j = decide (j ∈ ids) := by
  have h : ∀ (ids : List Nat) (m : BitVec 256),
      (ids.foldl (fun m i => putBit m i true) m).getLsbD j = (m.getLsbD j || decide (j ∈ ids)) := fun ids => by
    induction ids with
    | nil => simp
    | cons i ids ih =>
      intro m
      rw [List.foldl_cons, ih, getLsbD_putBit _ _ _ _ hj]
      by_cases hi : j = i <;> simp [hi]
  rw [maskOf, h]
  simp

/-- A manifest of some member is not empty. -/
theorem maskOf_ne_zero {ids : List Nat} {j : Nat} (hj : j < 256) (h : j ∈ ids) : maskOf ids ≠ 0 := fun h0 => by
  have hbit := getLsbD_maskOf ids hj
  rw [h0, decide_eq_true h] at hbit
  simp at hbit

/-- The manifest of those of a list of members that pass a test. -/
def membersMask (p : Nat × Place × List Place → Bool) (l : List (Nat × Place × List Place)) : BitVec 256 :=
  maskOf ((l.filter p).map (·.1))

section
variable {p : Nat × Place × List Place → Bool} {l : List (Nat × Place × List Place)}

theorem membersMask_eq_zero (h : ∀ q ∈ l, p q = false) : membersMask p l = 0 := by
  rw [membersMask, List.filter_eq_nil_iff.mpr fun q hq => by simp [h q hq]]
  rfl

theorem membersMask_ne_zero (hl : ∀ q ∈ l, q.1 < 256) (h : ∃ q ∈ l, p q = true) : membersMask p l ≠ 0 := by
  obtain ⟨q, hq, hp⟩ := h
  exact maskOf_ne_zero (hl q hq) (List.mem_map_of_mem (List.mem_filter.mpr ⟨hq, hp⟩))

end

/-! ### The effect of a split (R158) -/

section
variable {x : Ctx} {t : Thread} {s s' : State} {hi lo : BitVec 256}

theorem splitWith_none (h : hi = 0) : splitWith x t s hi lo = done s x (setFlag (setFlag t 2 false) 1 false) := if_pos h

theorem splitWith_all (hh : hi ≠ 0) (hl : lo = 0) :
    splitWith x t s hi lo = done s x (setFlag (setFlag t 2 true) 1 false) := (if_neg hh).trans (if_pos hl)

theorem splitWith_fork (hh : hi ≠ 0) (hl : lo ≠ 0) (hp : placeConvoy s x.core (forkOf t x.next hi) = .slot s') :
    splitWith x t s hi lo =
      done s' x (setFlag (setFlag { t with m := lo, md := t.md &&& lo } 2 false) 1 true) := by
  simp only [splitWith, hh, hl, if_false, hp]

end

/-- The convoy of the members that go up. -/
theorem forkOf_fields (t : Thread) (pc : Word) (hi : BitVec 256) :
    let w := forkOf t pc hi
    w.pc = pc ∧ w.m = hi ∧ w.md = t.md &&& hi ∧ w.regs = t.regs ∧ w.convoy = t.convoy ∧ w.status = .ready ∧
      getFlag w 1 = true ∧ getFlag w 2 = true := by
  refine ⟨rfl, rfl, rfl, rfl, rfl, rfl, ?_, ?_⟩ <;> simp [forkOf, getFlag_setFlag]

/-! ### SPLIT and SPLITI (R158) -/

/-- Either form issues as a split, and finds its threshold in the thread that issued. -/
theorem exec_splitForm {s : State} {t : Thread} {i : Instr} {a : Nat} {u : Use} {thr : Word}
    (h : SplitForm t i a u thr) :
    ∃ f, exec i s = issue u (splitOp a f) s ∧ f (issuedThread u s t) = thr := by
  obtain ⟨o, rfl, rfl, rfl, rfl⟩ | ⟨o, rfl, rfl, rfl, rfl⟩ := h
  · exact ⟨_, rfl, rdReg_issuedThread ..⟩
  · exact ⟨_, rfl, rfl⟩

section
variable {s : State} {t : Thread} {u : Use} {a : Nat} {f : Thread → Word}

theorem splitOp_traps (h : t.convoy = false ∨ (rdReg t a).extractLsb' 17 2 = 3) :
    splitOp a f (issueCtx u s t) (issuedThread u s t) (issuedState u s t) = .trap .convoy 0 0 := by
  refine if_pos ?_
  rw [convoy_issuedThread, rdReg_issuedThread, Bool.or_eq_true, Bool.not_eq_true', decide_eq_true_eq]
  exact h

/-- The requests of the members' words, counted. -/
def countMembers (s : State) (l : List (Nat × Place × List Place)) : State :=
  l.foldl (fun s q => countAll s s.turn q.2.1 q.2.2) s

theorem countMembers_eq (s : State) (l : List (Nat × Place × List Place)) :
    countMembers s l = countFrame (l.map fun q => (q.2.1, q.2.2)) s := by
  rw [countMembers, countFrame, List.foldl_map]

theorem keepsIssue_countMembers (s : State) (l : List (Nat × Place × List Place)) : KeepsIssue s (countMembers s l) := by
  rw [countMembers_eq, countFrame_recount]
  exact keepsIssue_recount ..

theorem countMembers_issuedState (u : Use) (s : State) (t : Thread) (l : List (Nat × Place × List Place)) :
    (l.map fun q => (q.2.1, q.2.2)).foldl (fun s' p => countAll s' s.turn p.1 p.2) (issuedState u s t) =
      withIssue (countMembers s l) (issuedState u s t) := by
  rw [countFrame_issuedState, countMembers_eq, countFrame_recount]
  rfl

/-- A split of a convoy whose members' words can all be read, once its requests are counted. -/
theorem splitOp_clear {l : List (Nat × Place × List Place)} {thr : Word} (hi : Issues u s t) (hc : t.convoy = true)
    (hctl : (rdReg t a).extractLsb' 17 2 ≠ 3) (hclear : Clear s)
    (hl : memberPlaces s s.turn t ((rdReg t a).toNat % 65536) (membersOf t.m) = .ok l)
    (hin : ∀ q ∈ l, q.2.1.inside = true) (hthr : f (issuedThread u s t) = thr) :
    let up := fun q : Nat × Place × List Place => goesUp (rdReg t a) thr (loadWord (countMembers s l) q.2.1)
    splitOp a f (issueCtx u s t) (issuedThread u s t) (issuedState u s t) =
      splitWith (issueCtx u s t) (issuedThread u s t) (withIssue (countMembers s l) (issuedState u s t))
        (membersMask up l) (membersMask (fun q => !up q) l) := by
  have hoff : ((rdReg t a).extractLsb' 0 16).toNat = (rdReg t a).toNat % 65536 := by
    rw [BitVec.extractLsb'_toNat, Nat.shiftRight_zero]
  have hin' : ∀ q ∈ l.map (fun q => (q.2.1, q.2.2)), q.1.inside = true := by
    simpa using fun p ps id h => hin (id, p, ps) h
  have hflight : (withIssue (countMembers s l) (issuedState u s t)).flight = [] := by
    rw [countMembers_eq, countFrame_recount]
    exact hclear.flight
  have hbads : (withIssue (countMembers s l) (issuedState u s t)).bads = [] := by
    rw [countMembers_eq, countFrame_recount]
    exact hclear.bads
  have hload (p : Place) :
      loadWord (withIssue (countMembers s l) (issuedState u s t)) p = loadWord (countMembers s l) p :=
    congrArg (BitVec.ofNat 32) (loadNat_withIssue ..)
  have hbad : l.find? (fun q => anyBad (withIssue (countMembers s l) (issuedState u s t)) q.2.1 4) = none := by
    simp [anyBad_clear _ _ _ hbads]
  simp only [splitOp, convoy_issuedThread, rdReg_issuedThread, m_issuedThread, hc, hctl,
    mayIssue_clear (issuedState u s t) _ hclear.flight, issueCtx_core, hoff, memberPlaces_issuedState hi.here hl,
    reaching_inside hin', countMembers_issuedState, settleEarlier_none _ _ _ _ hflight,
    pathHeld_none _ _ _ _ hflight, hbad, hthr, hload]
  rfl

end

/-- Settles O23: a split whose words can all be read answers by the manifests of its two sides. -/
theorem splits : Obligations.Splits := by
  intro s t i a u thr l hform hi
  obtain ⟨f, he, hthr⟩ := exec_splitForm (s := s) hform
  refine ⟨fun h => traps_of he hi (splitOp_traps h), fun hc hctl hclear hl hin => ?_⟩
  have hop := splitOp_clear hi hc hctl hclear hl hin hthr
  have hk := keepsIssue_countMembers s l
  have hlt : ∀ q ∈ l, q.1 < 256 := fun q hq => lt_of_mem_memberPlaces hl hq
  intro s1 up hi' lo v next
  refine ⟨fun hdown => ?none, fun hne hup => ?all, fun hup hdown j rest hv => ?fork⟩
  case none => exact completes_withIssue hk he hi (hop.trans (splitWith_none (membersMask_eq_zero hdown)))
  case all =>
    have hsome : ∃ q ∈ l, up q = true := (List.exists_mem_of_ne_nil l hne).imp fun q hq => ⟨hq, hup q hq⟩
    exact completes_withIssue hk he hi (hop.trans (splitWith_all (membersMask_ne_zero hlt hsome)
      (membersMask_eq_zero fun q hq => by rw [← Bool.not_true]; exact congrArg not (hup q hq))))
  case fork =>
    have hsome : ∃ q ∈ l, (!up q) = true := hdown.imp fun q hq => ⟨hq.1, by rw [hq.2]; rfl⟩
    have h := completes_newConvoy_slot hk (hv ▸ List.mem_cons_self) he hi (hop.trans
      (splitWith_fork (membersMask_ne_zero hlt hup) (membersMask_ne_zero hlt hsome)
        (placeConvoy_slot ((vacantSlots_withIssue hk hi).trans hv))))
    have hw := forkOf_fields v next hi'
    rw [md_issuedThread] at h
    simp only [v, md_issuedThread, regs_issuedThread, convoy_issuedThread, hc] at hw
    exact ⟨_, h, hw⟩

end Sys2Proof.Machine

/-! The words of query records (O47): as for plain loads (O10), an access whose core number is that of the host port counts
no request, so a state whose turn stands at that number refutes the count of QLD. -/

namespace Sys2Proof.Machine

/-- A convoy of member 0, whose record is the 64 bytes at byte 0 of the GLOBAL segment 1. -/
def portConvoy : Thread := { portThread with convoy := true, m := 1, qbase := 0x20000000, qstride := 64 }

/-- The host port's number at its turn, with that convoy. -/
def portConvoyState : State := setThread portState hostCore 1 portConvoy

/-- g9 and word 0 of the record that g10, which is 0, names. -/
def portRecord : ShM := ⟨⟨false, 0⟩, 9, 10, none, ⟨0, 0⟩, none⟩

theorem issues_portRecord : Issues (portRecord.useLoad true) portConvoyState portConvoy := by
  constructor <;> decide +kernel

theorem clear_portConvoyState : Clear portConvoyState := by constructor <;> decide +kernel

theorem keepsCounters_portRecord : keepsCounters (.qld portRecord) portConvoyState = true := by decide +kernel

theorem countAll_portConvoyState :
    (countAll portConvoyState portConvoyState.turn portPlace []).counters ≠ portConvoyState.counters := by
  decide +kernel

theorem recAddr_portConvoy :
    recAddr portConvoy (rdReg portConvoy portRecord.b.toNat).toNat
      (portRecord.imm.value 0 * 4 + portRecord.mem.idxVal portConvoy * 4) = .ok (1, 0) := by
  have hid : (rdReg portConvoy portRecord.b.toNat).toNat = 0 := by decide +kernel
  have hoff : portRecord.imm.value 0 * 4 + portRecord.mem.idxVal portConvoy * 4 = 0 := by decide +kernel
  have hsel : selOf portConvoy.qbase = 1 := by decide +kernel
  have hbase : offOf portConvoy.qbase = 0 := by decide +kernel
  have hglobal : segType ((portConvoy.segs[1]?).getD 0) = 5 := by decide +kernel
  have hstride : portConvoy.qstride.toNat = 64 := by decide +kernel
  simp only [recAddr, hid, hoff, hsel, hbase, hglobal, hstride]
  rfl

/-- Refutes O47: nothing in its hypotheses keeps the turn below the cores of the package, and at the number of the host port
QLD of a word in GLOBAL memory completes with no request counted, where the statement counts one in die 0's frame. -/
theorem not_manifestsAndRecords : ¬ Obligations.ManifestsAndRecords := by
  rintro ⟨-, h⟩
  obtain ⟨-, hrecord⟩ := h portConvoyState portConvoy portRecord portPlace (some 0) 1 0
  obtain ⟨hqld, -⟩ :=
    hrecord rfl (by decide +kernel) (by decide +kernel) rfl clear_portConvoyState rfl rfl recAddr_portConvoy
  exact not_completesFrom keepsCounters_portRecord countAll_portConvoyState
    (hqld issues_portRecord (by decide +kernel))

end Sys2Proof.Machine

/-! The counting of atomics (O42): as for plain loads (O10), an access whose core number is that of the host port counts no
request, so a state whose turn stands at that number refutes the count. -/

namespace Sys2Proof.Machine

theorem issues_portAtomic : Issues (portOperand.useBoth true).oncely portState portThread := by
  constructor <;> decide +kernel

theorem wordAt_portAtomic : WordAt portState portThread portOperand.b portOperand.imm
    (portOperand.mem.idxVal portThread) needRWA portPlace (some 0) := by
  constructor <;> decide +kernel

theorem keepsCounters_portAtomic : keepsCounters (.amoadd portOperand) portState = true := by decide +kernel

/-- Refutes O42: nothing in its hypotheses keeps the turn below the cores of the package, and at the number of the host port
an AMOADD on a GLOBAL word completes with no request counted, where the statement counts one in die 0's frame. -/
theorem not_atomicsAndReservations : ¬ Obligations.AtomicsAndReservations := by
  rintro ⟨h, -⟩
  obtain ⟨hamo, -⟩ := h portState portThread portOperand portPlace (some 0) rfl clear_portState rfl wordAt_portAtomic
  exact not_completesFrom keepsCounters_portAtomic (by rw [storeNat_counters]; exact countAll_portState)
    (hamo issues_portAtomic _ (.head _))

end Sys2Proof.Machine

/-! WATCH, UNWATCH, WAIT and FENCE (O16; R177, R183, R186). -/

namespace Sys2Proof.Machine

/-! ### What an issue leaves of a thread's watches and of its accesses -/

theorem watches_issuedThread (u : Use) (s : State) (t : Thread) : (issuedThread u s t).watches = t.watches := by
  obtain ⟨b, p, w, h⟩ := issuedThread_eq u s t
  rw [h]

theorem wake_issuedThread (u : Use) (s : State) (t : Thread) : (issuedThread u s t).wake = t.wake := by
  obtain ⟨b, p, w, h⟩ := issuedThread_eq u s t
  rw [h]

/-- How far a thread's accesses have performed does not change with an issue. -/
theorem allPerformed_issuedState {u : Use} {s : State} {t : Thread} (h : threadAt s s.turn (curSlot s) = some t)
    (n : Nat) :
    allPerformed (issuedState u s t) s.turn (curSlot s) n = allPerformed s s.turn (curSlot s) n := by
  have hf : (issuedState u s t).flight = s.flight := rfl
  simp only [allPerformed, ownAccess_issuedState h, hf]

/-! ### WATCH and UNWATCH (R177, R183) -/

theorem armLine_issued (u : Use) (s : State) (t : Thread) (l : Nat) :
    armLine (issuedThread u s t) l =
      if l ∈ t.watches then setFlag (issuedThread u s t) 1 true
      else if t.watches.length < 4 then
        setFlag { issuedThread u s t with watches := t.watches ++ [l] } 1 true
      else setFlag (issuedThread u s t) 1 false := by
  simp only [armLine, watches_issuedThread, List.contains_iff_mem]

theorem disarmLine_issued (u : Use) (s : State) (t : Thread) (l : Nat) :
    disarmLine (issuedThread u s t) l =
      if l ∈ t.watches then
        { issuedThread u s t with
          watches := t.watches.filter fun w => w != l
          wake := t.wake && !(t.watches.filter fun w => w != l).isEmpty }
      else issuedThread u s t := by
  simp only [disarmLine, watches_issuedThread, wake_issuedThread, List.contains_iff_mem]

/-- An instruction on the line of a word in this package changes its thread by that line and nothing else. -/
theorem completes_line {i : Instr} {o : ShMZ} {f : Thread → Nat → Thread} {s : State} {t : Thread} {p : Place}
    {va : Option Nat} (he : exec i s = issue (watchUse o).oncely (lineOp o f) s) (hi : Issues (watchUse o).oncely s t)
    (hw : WordAt s t o.b o.imm (o.mem.idxVal t) needRT p va) (hc : Clear s) :
    Completes i s (goesTo (f (issuedThread (watchUse o).oncely s t) (lineKey p)) (pcAfter t o.words)) := by
  refine completes_written he hi ?_
  have hl := (locate_issuedState (watchUse o).oncely s t hi.here ..).trans hw.1
  have hgo := mayIssue_clear (issuedState (watchUse o).oncely s t) (issueCtx (watchUse o).oncely s t) hc.flight
  simp only [lineOp, hgo, Bool.not_true, Bool.false_eq_true, if_false, issueCtx_core, MemOp.sel, MemOp.off,
    idxVal_issuedThread, rdReg_issuedThread]
  simp only [ShMZ.mem, Nat.cast_ofNat] at hl ⊢
  rw [hl]
  rfl

/-! ### WAIT (R183) and FENCE (R186) -/

/-- WAIT without WAKE parks its thread until it is woken. -/
theorem wait_parks {s : State} {t : Thread} {o : ShZ} (hi : Issues o.use.oncely s t) (hk : t.wake = false) :
    CompletesFrom (.wait o) s s (inProgress s o.use.oncely t .park 0 .parked) := by
  refine completes_hold (i := .wait o) rfl hi ?_
  simp only [wake_issuedThread, hk]
  rfl

/-- Settles O16: WATCH and UNWATCH write their thread by the line that `locate` finds; WAIT and FENCE answer by WAKE and by
the accesses of their thread, which an issue leaves alone. -/
theorem watchesAndFences : Obligations.WatchesAndFences := by
  refine fun s t => ⟨fun o p va hi hw hc => ⟨?watch, ?unwatch⟩, fun o hi => ⟨fun hk => ?woken, fun hk => ?parked⟩,
    fun o hi => ⟨fun h => ?performed, fun h0 hn => ?held⟩⟩
  case watch =>
    rw [← armLine_issued]
    exact completes_line rfl hi hw hc
  case unwatch =>
    rw [← disarmLine_issued]
    exact completes_line rfl hi hw hc
  case woken =>
    refine completes_written (i := .wait o) (u := o.use.oncely) rfl hi ?_
    simp only [wake_issuedThread, hk, if_true]
    rfl
  case parked =>
    obtain ⟨s', he, ho⟩ := wait_parks hi hk
    exact ⟨s', _, he, ho.thread, rfl, rfl, regs_issuedThread ..⟩
  case performed =>
    refine completes_written (i := .fence o) (u := o.use.oncely) rfl hi ?_
    have hgo : (decide (o.scope = 0) || allPerformed s s.turn (curSlot s) o.scope.toNat) = true := by simpa using h
    simp only [issueCtx_core, issueCtx_slot, allPerformed_issuedState hi.here, hgo, if_true]
    rfl
  case held =>
    refine waits_of (i := .fence o) rfl hi ?_
    simp only [issueCtx_core, issueCtx_slot, allPerformed_issuedState hi.here, h0, hn, decide_false, Bool.or_self,
      Bool.false_eq_true, if_false]

end Sys2Proof.Machine

/-! Channel entries and SEND (O46; R170, R172, R173, R187). -/

namespace Sys2Proof.Machine

/-! ### Channel entries (R172, R187) -/

theorem leavesSlots_setChan (ch : Nat) (v : Core → Word) (hv : ∀ k x, v { k with slots := x } = v k) :
    LeavesSlots fun k => setChan k ch (v k) :=
  ⟨fun k x => by rw [hv]; rfl, fun _ => rfl, fun _ => rfl⟩

theorem chanEntry_issuedState (u : Use) (s : State) (t : Thread) (ch : Nat) :
    chanEntry (getCore (issuedState u s t) s.turn) ch = chanEntry (getCore s s.turn) ch := by
  rw [getCore_issuedState, chanEntry, Core_setSlot_chan, chanEntry]

/-- BLK is bit 18 of an entry. -/
theorem putBit_blk (e : Word) (b : Bool) : putBit e 18 b = if b then e ||| 0x00040000 else e &&& 0xFFFBFFFF := by
  cases b <;> rfl

section
variable {u : Use} {s : State} {t : Thread} {a : Nat} {k : Nat → Res}

/-- A channel that the slot may not change traps PRIV (log entry 36). -/
theorem chanOp_priv (hc : (rdReg t a).toNat % 64 < 8) (hs : curSlot s ≠ 0) :
    chanOp (issueCtx u s t) (issuedThread u s t) a k = .trap .priv 0 0 := by
  have hle : ((rdReg t a).extractLsb' 0 6).toNat ≤ 7 := by
    rw [BitVec.extractLsb'_toNat, Nat.shiftRight_zero]
    exact Nat.le_of_lt_succ hc
  simp only [chanOp, rdReg_issuedThread, issueCtx_slot, hle, decide_true, bne_iff_ne, ne_eq, hs, not_false_eq_true,
    if_true, Bool.true_and]

theorem chanOp_own (h : 8 ≤ (rdReg t a).toNat % 64 ∨ curSlot s = 0) :
    chanOp (issueCtx u s t) (issuedThread u s t) a k = k ((rdReg t a).toNat % 64) := by
  have hch : ((rdReg t a).extractLsb' 0 6).toNat = (rdReg t a).toNat % 64 := by
    rw [BitVec.extractLsb'_toNat, Nat.shiftRight_zero]
  have hno : ¬ ((rdReg t a).toNat % 64 ≤ 7 ∧ curSlot s ≠ 0) := fun ⟨hle, hs⟩ => h.elim (by omega) hs
  have : (decide ((rdReg t a).toNat % 64 ≤ 7) && curSlot s != 0) = false := by simpa using hno
  simp only [chanOp, rdReg_issuedThread, issueCtx_slot, hch, this, Bool.false_eq_true, if_false]

end

/-- CHBLK and CHUNB of a channel that their slot may change. -/
theorem completes_blockChan {i : Instr} {o : ShA} {b : Bool} {s : State} {t : Thread}
    (he : exec i s = issue (o.use [o.a.toNat] []).oncely (fun x t s => chanOp x t o.a.toNat (blockChan b x s)) s)
    (hi : Issues (o.use [o.a.toNat] []).oncely s t) (h : 8 ≤ (rdReg t o.a.toNat).toNat % 64 ∨ curSlot s = 0) :
    CompletesFrom i s
      (modCore s s.turn fun k => setChan k ((rdReg t o.a.toNat).toNat % 64)
        (putBit (chanEntry k ((rdReg t o.a.toNat).toNat % 64)) 18 b))
      (goesTo (issuedThread (o.use [o.a.toNat] []).oncely s t) (pcAfter t (o.use [o.a.toNat] []).oncely.words)) :=
  completes_modCore_only (leavesSlots_setChan _ _ fun _ _ => rfl) he hi (chanOp_own h)

theorem channels : Claim.Channels := by
  intro s t
  constructor <;> intro o hi u ch
  · refine ⟨fun hc hs => traps_of (i := .chset o) rfl hi (chanOp_priv hc hs), fun h => ⟨fun hok => ?_, fun hbad => ?_⟩⟩
    · refine completes_modCore (i := .chset o) (u := u) (leavesSlots_setChan ch (fun _ => rdReg t o.b.toNat) fun _ _ => rfl)
        rfl hi ?_
      rw [chanOp_own h]
      simp only [rdReg_issuedThread, hok, if_true, issueCtx_core, chanEntry_issuedState]
      rfl
    · refine completes_written (i := .chset o) (u := u) rfl hi ?_
      rw [chanOp_own h]
      simp only [rdReg_issuedThread, hbad, Bool.false_eq_true, if_false]
      rfl
  · refine ⟨fun hc hs => ⟨traps_of (i := .chblk o) rfl hi (chanOp_priv hc hs),
      traps_of (i := .chunb o) rfl hi (chanOp_priv hc hs)⟩, fun h => ⟨?_, ?_⟩⟩
    · simpa only [putBit_blk, if_true] using completes_blockChan (i := .chblk o) (b := true) rfl hi h
    · simpa only [putBit_blk, Bool.false_eq_true, if_false] using completes_blockChan (i := .chunb o) (b := false) rfl hi h

/-! ### SEND (R170, R173, R187) -/

/-- An operation that goes in progress over a state that keeps what an issue looks at. -/
theorem completes_withIssue_hold {i : Instr} {u : Use} {op : Ctx → Thread → State → Res} {s s0 : State} {t : Thread}
    {w : Waiting} {st : Status} {reg : Nat} (hk : KeepsIssue s s0) (he : exec i s = issue u op s) (h : Issues u s t)
    (hop : op (issueCtx u s t) (issuedThread u s t) (issuedState u s t) =
      .hold (withIssue s0 (issuedState u s t)) w st reg) :
    CompletesFrom i s s0 (inProgress s u t w reg st) := by
  refine ⟨_, exec_issues i u op s t he h, ?_⟩
  have hlast := onlyThread_charged s0 (inProgress s u t w reg st)
  rw [hk.turn, hk.curSlot] at hlast
  rw [← issuedState, hop, withIssue_issuedState hk]
  simp only [settle, issueCtx]
  rwa [modThread_some _ _ _ _ _ (threadAt_setThread_same _ _ _ _ (curSlot_lt s)),
    setThread_setThread _ _ _ _ _ (curSlot_lt s)]

theorem payloadOf_issuedThread (u : Use) (s : State) (t : Thread) (o : ShAB) :
    payloadOf o (issuedThread u s t) = (List.range 7).map fun j => if o.b = 0 then 0 else rdReg t (o.b.toNat + j) := by
  unfold payloadOf
  split
  · rfl
  · simp only [rdRegs, rdReg_issuedThread]

/-- SEND's operation (R187). -/
def sendOp (o : ShAB) (x : Ctx) (t : Thread) (s : State) : Res :=
  let dest := rdReg t o.a.toNat
  let c := (dest.extractLsb' 0 16).toNat
  let ch := (dest.extractLsb' 16 6).toNat
  if ch ≤ 3 || (ch ≤ 7 && x.slot != 0) then .trap .priv 0 0
  else if !presentCore s c then .trap .queue 0 0
  else if !quiet s x then .wait .waitMem id
  else .hold (post s x.core x.slot c ch (payloadOf o t) none none) (.send s.serial) .waitMsg 0

theorem exec_send (o : ShAB) (s : State) :
    exec (.send o) s = issue (o.use (o.a.toNat :: payloadRegs o) []).oncely (sendOp o) s := rfl

/-- What SEND does, by the channel and the core that its register names. -/
theorem sendOp_issued {u : Use} {s : State} {t : Thread} {o : ShAB} (hi : Issues u s t) :
    let c := (rdReg t o.a.toNat).toNat % 65536
    let ch := (rdReg t o.a.toNat).toNat / 65536 % 64
    sendOp o (issueCtx u s t) (issuedThread u s t) (issuedState u s t) =
      if ch ≤ 3 ∨ (ch ≤ 7 ∧ curSlot s ≠ 0) then .trap .priv 0 0
      else if presentCore s c = false then .trap .queue 0 0
      else if allPerformed s s.turn (curSlot s) 4 = false then .wait .waitMem id
      else .hold (post (issuedState u s t) s.turn (curSlot s) c ch (payloadOf o (issuedThread u s t)) none none)
        (.send s.serial) .waitMsg 0 := by
  have hc : ((rdReg t o.a.toNat).extractLsb' 0 16).toNat = (rdReg t o.a.toNat).toNat % 65536 := by
    rw [BitVec.extractLsb'_toNat, Nat.shiftRight_zero]
  have hch : ((rdReg t o.a.toNat).extractLsb' 16 6).toNat = (rdReg t o.a.toNat).toNat / 65536 % 64 := by
    rw [BitVec.extractLsb'_toNat, Nat.shiftRight_eq_div_pow]
  have hp (c : Nat) : presentCore (issuedState u s t) c = presentCore s c := rfl
  simp only [sendOp, rdReg_issuedThread, hc, hch, issueCtx_core, issueCtx_slot, hp, quiet, allPerformed_issuedState hi.here,
    Bool.or_eq_true, Bool.and_eq_true, decide_eq_true_eq, bne_iff_ne, Bool.not_eq_true']
  rfl

theorem sendGoesOut : Claim.SendGoesOut := by
  intro s t o hi u c ch
  have hop := sendOp_issued (o := o) hi
  refine ⟨fun h => ?refused, fun h => ⟨fun hp => ?absent, fun hp hq => ?sent⟩⟩
  case refused =>
    exact traps_of (exec_send o s) hi (hop.trans (if_pos (by omega)))
  case absent =>
    exact traps_of (exec_send o s) hi (hop.trans ((if_neg (by omega)).trans (if_pos hp)))
  case sent =>
    refine completes_withIssue_hold ⟨rfl, rfl, rfl, rfl⟩ (exec_send o s) hi ?_
    refine hop.trans ((if_neg (by omega)).trans ((if_neg (by simp [c, hp])).trans ((if_neg (by simp [hq])).trans ?_)))
    rw [payloadOf_issuedThread]
    rfl

/-- Settles O46: CHSET, CHBLK and CHUNB change their core's channel table beside its slots; SEND answers by the channel and
the core that its register names. -/
theorem messagesOut : Obligations.MessagesOut := ⟨channels, sendGoesOut⟩

end Sys2Proof.Machine

/-! BIND and UNBIND (O20; R188, R190, R333). -/

namespace Sys2Proof.Machine

/-- A default access to one piece in another package goes out on its device link first, and its instruction waits. -/
theorem rangeOp_peer {u : Use} {s : State} {t : Thread} {sel : Nat} {off : Int} {n al : Nat} {kno : Nat}
    {k : State → List Place → Res} {p : Place} (hi : Issues u s t) (hc : Clear s) (hp : p.inside = false)
    (hl : locateRange s s.turn t sel off n al needR = .ok [(p, [])]) :
    rangeOp (issueCtx u s t) (issuedThread u s t) (issuedState u s t) sel off n al needR kno k =
      .wait .waitMem fun s' =>
        addFlight s' (probeOf s' (issueCtx u s t) (issuedThread u s t) (namedAddr sel off) [p] []) := by
  have hpeer : p.isPeer = true := by
    cases p with
    | peer => rfl
    | _ => cases hp
  have hown : ownProbe (issuedState u s t) (issueCtx u s t) = none := by
    rw [ownProbe, show (issuedState u s t).flight = [] from hc.flight]
    rfl
  simp only [rangeOp, piecesOp, mayIssue_clear (issuedState u s t) _ hc.flight, issueCtx_core,
    locateRange_issuedState hi.here, hl, reaching, List.any_cons, List.any_nil, hpeer, hown]
  rfl

theorem boundElsewhere_issuedThread (u : Use) (s : State) (t : Thread) (q r : Nat) :
    boundElsewhere (issuedThread u s t) q r = boundElsewhere t q r := by
  simp only [boundElsewhere, streamOf_issuedThread]

theorem streamIdle_none {s : State} (h : s.flight = []) (c i : Nat) : streamIdle s c i = true := by
  simp [streamIdle, h]

theorem dropWords_none {s : State} (h : s.flight = []) (c i q : Nat) : dropWords s c i q = s := by
  rw [dropWords, h]
  exact congrArg (fun l => { s with flight := l }) h.symm

/-- BIND's operation (R188). -/
def bindOp (o : ShBind) (x : Ctx) (t : Thread) (s : State) : Res :=
  let q := o.q.toNat
  if boundElsewhere t q o.b.toNat then .trap .queue 0 0
  else if q = 2 && !streamIdle s x.core x.slot then .wait .waitMem id
  else if q = 3 then done s x (bindTo t 3 o.b.toNat 0 0 0)
  else
    recordOp x t s (rdReg t o.c.toNat) 64 fun s ws =>
      if streamDescOk ws then
        bindDone s x q (bindTo t q o.b.toNat (wordAt ws 0) (wordAt ws 1).toNat (wordAt ws 2))
      else .trap .queue 0 0

theorem exec_bind (o : ShBind) (s : State) : exec (.bind o) s = issue o.use (bindOp o) s := rfl

/-- The operation of UNBIND (R190). -/
def unbindOp (o : ShQ) (x : Ctx) (t : Thread) (s : State) : Res :=
  let q := o.q.toNat
  if q = 2 && !streamIdle s x.core x.slot then .wait .waitMem id
  else bindDone s x q (setStream t q (streamOf t q).ended)

theorem exec_unbind (o : ShQ) (s : State) : exec (.unbind o) s = issue o.use.oncely (unbindOp o) s := rfl

/-- A queue of memory is bound by its descriptor. -/
theorem bindOp_record {s : State} {t : Thread} {o : ShBind} (hb : boundElsewhere t o.q.toNat o.b.toNat = false)
    (hc : Clear s) (hq : o.q.toNat < 3) :
    bindOp o (issueCtx o.use s t) (issuedThread o.use s t) (issuedState o.use s t) =
      recordOp (issueCtx o.use s t) (issuedThread o.use s t) (issuedState o.use s t) (rdReg t o.c.toNat) 64 fun s' ws =>
        if streamDescOk ws then
          bindDone s' (issueCtx o.use s t) o.q.toNat
            (bindTo (issuedThread o.use s t) o.q.toNat o.b.toNat (wordAt ws 0) (wordAt ws 1).toNat (wordAt ws 2))
        else .trap .queue 0 0 := by
  have h3 : ¬ o.q.toNat = 3 := hq.ne
  simp only [bindOp, boundElsewhere_issuedThread, hb, streamIdle_none (s := issuedState o.use s t) hc.flight, h3,
    rdReg_issuedThread, Bool.not_true, Bool.and_false, Bool.false_eq_true, if_false]

section
variable {s : State} {t : Thread} {o : ShBind} {p : Place} (hi : Issues o.use s t)
include hi

theorem bind_traps_bound (h : boundElsewhere t o.q.toNat o.b.toNat = true) :
    Traps (.bind o) s t ⟨.queue, 0, 0, t.pc, false, 0⟩ := by
  refine traps_of (exec_bind o s) hi ?_
  simp only [bindOp, boundElsewhere_issuedThread, h, if_true]

variable (hb : boundElsewhere t o.q.toNat o.b.toNat = false)
include hb

theorem bind_messages (hq : o.q.toNat = 3) :
    Effect (.bind o) o.use s t
      (fun v => setStream v 3 { (streamOf v 3).ended with bound := true, reg := o.b.toNat }) (pcAfter t o.use.words) := by
  refine completes_written (exec_bind o s) hi ?_
  simp only [bindOp, boundElsewhere_issuedThread, hq ▸ hb, hq]
  rfl

variable (hc : Clear s) (hq : o.q.toNat < 3)
include hc hq

variable (hr : RecordAt s t (rdReg t o.c.toNat) 0 p)
include hr

theorem bind_described (hok : streamDescOk (rangeWords (countAll s s.turn p []) [p] 64) = true) :
    let ws := rangeWords (countAll s s.turn p []) [p] 64
    CompletesFrom (.bind o) s (countAll s s.turn p [])
      (goesTo (bindTo (issuedThread o.use s t) o.q.toNat o.b.toNat (wordAt ws 0) (wordAt ws 1).toNat (wordAt ws 2))
        (pcAfter t o.use.words)) := by
  intro ws
  refine completes_withIssue (keepsIssue_countAll s p) (exec_bind o s) hi ?_
  have hf : (countedState o.use s t p).flight = [] := hc.flight
  rw [bindOp_record hb hc hq, recordOp_clear hi hc hr, if_pos hok, bindDone, dropWords_none hf,
    countedState_eq_withIssue]

theorem bind_traps_described (hbad : streamDescOk (rangeWords (countAll s s.turn p []) [p] 64) = false) :
    Traps (.bind o) s t ⟨.queue, 0, 0, t.pc, false, 0⟩ := by
  refine traps_of (exec_bind o s) hi ?_
  rw [bindOp_record hb hc hq, recordOp_clear hi hc hr, hbad]
  rfl

end

/-- A descriptor in another package is asked for over the device link, and BIND waits (R333). -/
theorem bind_asks {s : State} {t : Thread} {o : ShBind} {p : Place} (hi : Issues o.use s t) (hc : Clear s)
    (hb : boundElsewhere t o.q.toNat o.b.toNat = false) (hq : o.q.toNat < 3) (hp : p.inside = false)
    (hl : locateRange s s.turn t (selOf (rdReg t o.c.toNat)) (offOf (rdReg t o.c.toNat)) 64 64 needR = .ok [(p, [])]) :
    ∃ s' a, exec (.bind o) s = .next s' ∧ s'.flight = [a] ∧ a.core = s.turn ∧ a.slot = curSlot s ∧ a.kind = .load ∧
      a.parts.map (·.place) = [p] ∧ s'.mem = s.mem ∧
      threadAt s' s.turn (curSlot s) = some { t with status := .waitMem } := by
  let a := probeOf s (issueCtx o.use s t) (issuedThread o.use s t)
    (namedAddr (selOf (rdReg t o.c.toNat)) (offOf (rdReg t o.c.toNat))) [p] []
  have hop := (bindOp_record hb hc hq).trans (rangeOp_peer hi hc hp hl)
  have hat : threadAt (addFlight s a) s.turn (curSlot s) = some t := hi.here
  refine ⟨notReady (addFlight s a) s.turn (curSlot s) .waitMem, a, ?_, ?_, rfl, rfl, rfl, rfl, ?_, ?_⟩
  · rw [exec_issues (.bind o) o.use (bindOp o) s t (exec_bind o s) hi, ← issuedState, hop]
    rfl
  all_goals rw [notReady, modThread_some _ _ _ _ _ hat]
  · show s.flight ++ [a] = [a]
    rw [hc.flight, List.nil_append]
  · rfl
  · exact threadAt_setThread_same _ _ _ _ (curSlot_lt s)

/-- Settles O20: BIND answers by the descriptor that a default access reads, UNBIND by what q2 has still to write. -/
theorem bindUnbind : Obligations.BindUnbind := by
  intro s t
  constructor
  · intro o p hi hc q
    refine ⟨bind_traps_bound hi, fun hb => ⟨bind_messages hi hb, fun hq hr => ?_, bind_asks hi hc hb⟩⟩
    refine ⟨fun hok => ?_, bind_traps_described hi hb hc hq hr⟩
    simpa only [bindTo, streamOf_issuedThread] using bind_described hi hb hc hq hr hok
  · refine fun o hi => ⟨rfl, fun hq hn => ?held, fun h => ?unbound⟩
    case held =>
      refine waits_of (exec_unbind o s) hi ?_
      simp only [unbindOp, hq, issueCtx_core, issueCtx_slot, streamIdle_issuedState hi.here, hn]
      rfl
    case unbound =>
      have hgo : (decide (o.q.toNat = 2) && !streamIdle s s.turn (curSlot s)) = false := by
        rcases h with h | h <;> simp [h]
      refine completes_withIssue (s0 := dropWords s s.turn (curSlot s) o.q.toNat) ⟨rfl, rfl, rfl, rfl⟩
        (u := o.use.oncely) (exec_unbind o s) hi ?_
      simp only [unbindOp, issueCtx_core, issueCtx_slot, streamIdle_issuedState hi.here, hgo, streamOf_issuedThread,
        Bool.false_eq_true, if_false]
      rfl

end Sys2Proof.Machine

/-! What the end of an access leaves, and accesses that perform (the first part of O53; R169, R192, R193, R195). -/

namespace Sys2Proof.Machine

/-! ### Events that change cores alone -/

theorem modThread_eq (s : State) (c i : Nat) (f : Thread → Thread) : ∃ k, modThread s c i f = { s with cores := k } := by
  unfold modThread
  split <;> exact ⟨_, rfl⟩

theorem onBoth_eq (s : State) (c i : Nat) (f : Thread → Thread) : ∃ k, onBoth s c i f = { s with cores := k } := by
  unfold onBoth
  split
  · exact modThread_eq s c i f
  · next p _ =>
    obtain ⟨k, hk⟩ := modThread_eq s c p.s f
    obtain ⟨l, hl⟩ := modThread_eq { s with cores := k } c (p.s + 7) f
    rw [hk, hl]
    exact ⟨_, rfl⟩

theorem modPend_eq (s : State) (c i : Nat) (f : Thread → Thread) : ∃ k, modPend s c i f = { s with cores := k } := by
  unfold modPend
  split
  · exact ⟨_, rfl⟩
  · split
    · exact onBoth_eq s c i f
    · exact ⟨_, rfl⟩

/-! ### The end of an access -/

/-- What an access leaves that has performed and is over: it is no longer in flight; beside that, threads and answers to
requesters outside the package may have changed. -/
def Over (s : State) (id : Nat) (s' : State) : Prop := ∃ k cc, s' = { dropFlight s id with cores := k, cc := cc }

theorem over_modThread (s : State) (id c i : Nat) (f : Thread → Thread) :
    Over s id (modThread (dropFlight s id) c i f) := by
  obtain ⟨k, hk⟩ := modThread_eq (dropFlight s id) c i f
  exact ⟨k, s.cc, hk⟩

theorem over_modPend (s : State) (id c i : Nat) (f : Thread → Thread) : Over s id (modPend (dropFlight s id) c i f) := by
  obtain ⟨k, hk⟩ := modPend_eq (dropFlight s id) c i f
  exact ⟨k, s.cc, hk⟩

theorem over_dropFlight (s : State) (id : Nat) : Over s id (dropFlight s id) := ⟨s.cores, s.cc, rfl⟩

theorem over_completeForeign (s : State) (a : Access) (vals : List Word) : Over s a.id (completeForeign s a vals) := by
  unfold completeForeign
  split
  · exact over_dropFlight s a.id
  · exact ⟨s.cores, _, rfl⟩

theorem over_completeLead (s : State) (a : Access) (vals : List Word) : Over s a.id (completeLead s a vals) := by
  obtain ⟨k, hk⟩ := modThread_eq (dropFlight s a.id) a.core a.slot fun t => finish (takeVals a vals true t)
  simp only [completeLead, hk]
  split <;> exact ⟨_, s.cc, rfl⟩

/-- The reply of an access sets out, or SWEEP has its answer to take up. -/
def awaitsReply (a : Access) : Bool := (a.remote || a.via = .sweep || a.via = .probe) && a.stage != .replied

theorem completeAccess_over {s : State} {a : Access} (vals : List Word) (okay : Bool)
    (h : a.foreign = true ∨ awaitsReply a = false) : Over s a.id (completeAccess s a vals okay) := by
  unfold completeAccess
  split
  · exact over_completeForeign s a vals
  · next hf =>
    rw [if_neg (by simpa [hf, awaitsReply] using h)]
    split
    · split
      · exact over_modThread ..
      · exact over_dropFlight s a.id
    iterate 4 exact over_dropFlight s a.id
    · exact over_completeLead ..
    · split <;> exact over_modPend ..

theorem completeAccess_reply {s : State} {a : Access} (vals : List Word) (okay : Bool) (hf : a.foreign = false)
    (h : awaitsReply a = true) :
    completeAccess s a vals okay = setFlight { s with serial := s.serial + 1 }
      { a with stage := .replied, result := a.result ++ boundVals s a vals, okay := okay, seq := s.serial } := by
  rw [completeAccess, hf, if_neg Bool.false_ne_true]
  exact if_pos h

/-- The end of an access leaves memory and reservations as they were. -/
theorem completeAccess_keeps (s : State) (a : Access) (vals : List Word) (okay : Bool) :
    (completeAccess s a vals okay).mem = s.mem ∧ (completeAccess s a vals okay).resvs = s.resvs := by
  by_cases h : a.foreign = true ∨ awaitsReply a = false
  · obtain ⟨k, cc, e⟩ := completeAccess_over (s := s) vals okay h
    rw [e]
    exact ⟨rfl, rfl⟩
  · simp only [not_or, Bool.not_eq_true, Bool.not_eq_false] at h
    rw [completeAccess_reply vals okay h.1 h.2]
    exact ⟨rfl, rfl⟩

theorem findFlight_dropFlight (s : State) (id : Nat) : findFlight (dropFlight s id) id = none := by
  rw [findFlight, List.find?_eq_none]
  intro f hf
  simpa using (List.mem_filter.mp hf).2

theorem Over.findFlight {s s' : State} {id : Nat} (h : Over s id s') : findFlight s' id = none := by
  obtain ⟨k, cc, rfl⟩ := h
  exact findFlight_dropFlight s id

/-- An access that is written is the one its number finds. -/
theorem findFlight_setFlight {s : State} {a b : Access} (h : findFlight s b.id = some a) :
    findFlight (setFlight s b) b.id = some b := by
  have hc : ((fun f : Access => decide (f.id = b.id)) ∘ fun f => if f.id = b.id then b else f) =
      fun f => decide (f.id = b.id) := by
    funext f
    by_cases hf : f.id = b.id <;> simp [hf]
  rw [findFlight] at h
  rw [findFlight, setFlight, List.find?_map, hc, h, Option.map_some, if_pos]
  simpa using List.find?_some h

/-! ### An access at its bank that nothing makes wait there -/

/-- What is counted of an access says nothing of the queue of its words. -/
theorem mustQueue_countArrival (s : State) (a : Access) : mustQueue (countArrival s a) a = mustQueue s a := by
  rw [(counts_countArrival a).eq_recount s]
  rfl

theorem bads_countArrival (s : State) (a : Access) : (countArrival s a).bads = s.bads := by
  rw [(counts_countArrival a).eq_recount s]
  rfl

theorem mem_countArrival (s : State) (a : Access) : (countArrival s a).mem = s.mem := by
  rw [(counts_countArrival a).eq_recount s]
  rfl

theorem threadAt_countArrival (s : State) (a : Access) (c i : Nat) : threadAt (countArrival s a) c i = threadAt s c i := by
  rw [(counts_countArrival a).eq_recount s]
  rfl

/-- No word of the package is bad, so that an access which need not queue performs. -/
theorem serve_free {s : State} {a : Access} (hq : mustQueue s a = false) (hb : s.bads = []) :
    (a.kind = .load → serve s a = .done s (a.parts.map (loadPart s)) true) ∧
    (a.kind = .store → serve s a = .done (a.parts.foldl storePart s) [] true) ∧
    ∀ p, a.kind = .rsv → a.parts = [p] →
      serve s a = .done { s with resvs := s.resvs ++
        [⟨wordKey p.place, a.core, a.slot, if a.remote then none else some (getCore s a.core).cycle⟩] }
        [loadWord s p.place] true := by
  have hbad : (consumes a && a.parts.any (badPart s a)) = false := by
    simp [badPart_clear s a _ hb]
  refine ⟨fun hk => ?_, fun hk => ?_, fun p hk hp => ?_⟩
  · simp only [serve, hq, hbad, hk, Bool.false_eq_true, if_false]
  · simp only [serve, hq, hbad, hk, Bool.false_eq_true, if_false]
  · rw [hp] at hbad
    simp only [serve, hq, hp, hbad, hk, Bool.false_eq_true, if_false]

/-- An access that performs at its bank is counted and over; only STF has waiters to serve after it. -/
theorem attempt_done {s s' : State} {a : Access} {vals : List Word} {okay : Bool} (hk : a.kind ≠ .stf)
    (hs : serve (countArrival s a) a = .done s' vals okay) : attempt s a = completeAccess s' a vals okay := by
  simp only [attempt, hs, afterServe]

/-- What a store makes of memory it makes of the bytes alone. -/
theorem storeNat_mem_congr {s s' : State} (h : s'.mem = s.mem) (p : Place) (n v : Nat) :
    (storeNat s' p n v).mem = (storeNat s p n v).mem := by
  by_cases hp : ∃ d a, p = .frame d a
  · obtain ⟨d, a, rfl⟩ := hp
    exact h
  · have hp' : ∀ d a, p ≠ .frame d a := fun d a e => hp ⟨d, a, e⟩
    rw [storeNat_mem s' p n v hp', storeNat_mem s p n v hp', h]

/-! ### MEMORY_ACCESS_PERFORM -/

section
variable {s : State} {a : Access} (hf : findFlight s a.id = some a)
include hf

/-- An access that can perform at its bank does so. -/
theorem performs_bank (hr : bankReady s a = true) :
    exec (.memoryAccessPerform (.thread a.id 0)) s = .next (attempt s a) := by
  have hremote : a.remote = false := by
    simp only [bankReady, Bool.and_eq_true, Bool.not_eq_true'] at hr
    exact hr.1.1.1.2
  have hreq : requestReady s a = false := by simp [requestReady, hremote]
  show Host.Outcome.next (performThread s a.id 0) = _
  simp [performThread, hf, hreq, hr]

theorem performs_scope {n m : Nat} (h1 : 1 ≤ n) (h5 : n ≤ 5) (hr : scopeReady s a n = true)
    (hp : pointsFor s a n = some m) : exec (.memoryAccessPerform (.thread a.id n)) s = .next (passPoints s a m) := by
  show Host.Outcome.next (performThread s a.id n) = _
  simp [performThread, hf, h1, h5, hr, hp]

end

theorem foldl_zip_map {α β γ : Type} (f : α → γ → β → α) (g : γ → β) (l : List γ) (x : α) :
    (l.zip (l.map g)).foldl (fun x e => f x e.1 e.2) x = l.foldl (fun x e => f x e (g e)) x := by
  induction l generalizing x with
  | nil => rfl
  | cons e l ih => exact ih _

/-- A load gives its registers the values of its parts. -/
theorem takeVals_load {a : Access} (hk : a.kind = .load) (hr : a.rewrite = none) (g : Part → Word) (b : Bool) (t : Thread) :
    takeVals a (a.parts.map g) b t = a.parts.foldl (fun t p => wrReg t p.reg (g p)) t := by
  simp only [takeVals, hk, hr, isLoadKind, if_true]
  exact foldl_zip_map (fun t p v => wrReg t p.reg v) g a.parts t

/-- Points of a path are passed with their requests counted, and nothing else of memory or flight changes (R195, R328). -/
theorem passPoints_eq {s : State} (a : Access) (m : Nat) (hx : s.cc.cxl = false) :
    ∃ k, passPoints s a m = setFlight { recount s k with serial := s.serial + 1 }
      { a with passed := a.passed ++ List.replicate (m - a.passed.length) s.serial } := by
  have hcount : Counts fun s => if a.passed.isEmpty && !a.foreign then
      (if a.each then a.parts else a.parts.take 1).foldl (fun s p => countOut s a.core p.place) s else s :=
    .ite _ (.foldl (fun s (p : Part) => countOut s a.core p.place) (fun p => counts_countOut a.core p.place) _) .id
  have hk := hcount.eq_recount s
  simp only [passPoints, hx, Bool.false_and, Bool.false_eq_true, if_false]
  rw [hk]
  exact ⟨_, rfl⟩

theorem accessesPerform : Claim.AccessesPerform := by
  refine fun s a hf hb => ⟨fun t hr hk hv hfo hg hw ht ha => ?load, fun p hr hk hsw hpr hp hq => ?store,
    fun n m h1 h5 hr hp hx => ?scope⟩
  case load =>
    have hq : mustQueue (countArrival s a) a = false := by simp [mustQueue, hk, needsResv]
    have hserve := (serve_free hq ((bads_countArrival s a).trans hb)).1 hk
    have hremote : a.remote = false := by
      simp only [bankReady, Bool.and_eq_true, Bool.not_eq_true'] at hr
      exact hr.1.1.1.2
    have hno : awaitsReply a = false := by simp [awaitsReply, hremote, hv]
    have he := (performs_bank hf hr).trans (congrArg _ (attempt_done (by simp [hk]) hserve))
    have hat : threadAt (dropFlight (countArrival s a) a.id) a.core a.slot = some t :=
      (threadAt_countArrival ..).trans ht
    have hend : completeAccess (countArrival s a) a (a.parts.map (loadPart (countArrival s a))) true =
        setThread (dropFlight (countArrival s a) a.id) a.core a.slot
          (a.parts.foldl (fun t p => wrReg t p.reg (loadPart (countArrival s a) p)) t) := by
      obtain ⟨g, hg⟩ := Option.ne_none_iff_exists'.mp hg
      rw [completeAccess, hfo, if_neg Bool.false_ne_true, ← awaitsReply, hno, hv]
      simp only [hg, Bool.false_eq_true, if_false, Option.isNone_some]
      rw [modPend_alone _ hat ha, takeVals_load hk hw]
    refine ⟨_, he, ?_, (completeAccess_keeps ..).1.trans (mem_countArrival s a), ?_⟩
    · rw [hend, threadAt_setThread_same _ _ _ _ (threadAt_lt ht)]
    · exact (completeAccess_over _ _ (.inr hno)).findFlight
  case store =>
    have hserve := (serve_free ((mustQueue_countArrival s a).trans hq) ((bads_countArrival s a).trans hb)).2.1 hk
    have hremote : a.remote = false := by
      simp only [bankReady, Bool.and_eq_true, Bool.not_eq_true'] at hr
      exact hr.1.1.1.2
    have hno : awaitsReply a = false := by simp [awaitsReply, hremote, hsw, hpr]
    refine ⟨_, (performs_bank hf hr).trans (congrArg _ (attempt_done (by simp [hk]) hserve)),
      (completeAccess_keeps ..).1.trans ?_, (completeAccess_over _ _ (.inr hno)).findFlight⟩
    simp only [hp, List.foldl_cons, List.foldl_nil, storePart]
    rw [pow_mul, show (2 : Nat) ^ 8 = 256 from rfl]
    exact storeNat_mem_congr (mem_countArrival s a) ..
  case scope =>
    obtain ⟨k, hk⟩ := passPoints_eq a m hx
    have hm := List.find?_some hp
    simp only [Bool.and_eq_true, decide_eq_true_eq] at hm
    refine ⟨_, (performs_scope hf h1 h5 hr hp).trans (congrArg _ hk), ?_, hm.2, rfl⟩
    exact findFlight_setFlight (s := { recount s k with serial := s.serial + 1 })
      (b := { a with passed := a.passed ++ List.replicate (m - a.passed.length) s.serial }) hf

end Sys2Proof.Machine

/-! Copied words, reservations and replies, and with them the obligation on accesses that perform (O53; R171, R173, R179,
R180, R207, R217, R332). -/

namespace Sys2Proof.Machine

/-! ### A word of a copy (R207, R217) -/

theorem touch_id (o : CopyOp) (e : Nat) (off : Int) (w : Bool) : (touch o e off w).id = o.id := by
  unfold touch
  split <;> rfl

/-- An operation after it has moved word `k`. -/
def copied (o : CopyOp) (k : Nat) : CopyOp :=
  { touch (touch o o.dst (4 * k) true) o.src (4 * k) false with moved := o.moved ++ [k], written := o.written + 1 }

theorem copied_id (o : CopyOp) (k : Nat) : (copied o k).id = o.id := (touch_id ..).trans (touch_id ..)

/-- An operation that is written is the one its number finds. -/
theorem findCopy_setCopy {s : State} {c : Nat} {o o' : CopyOp} (h : findCopy s c o'.id = some o) :
    findCopy (setCopy s c o') c o'.id = some o' := by
  have hc : ((fun p : CopyOp => decide (p.id = o'.id)) ∘ fun p => if p.id = o'.id then o' else p) =
      fun p => decide (p.id = o'.id) := by
    funext p
    by_cases hp : p.id = o'.id <;> simp [hp]
  rw [findCopy] at h
  rw [findCopy, setCopy, getCore_modCore_same, List.find?_map, hc, h, Option.map_some, if_pos]
  simpa using List.find?_some h

section
variable {s : State} {c k : Nat} {o : CopyOp} {p q : Place} (hc : Clear s)
include hc

/-- A write of the engine to a word that nothing holds. -/
theorem writeOut_clear (va : Option Nat) (v : Word) : writeOut s (copyWrite s c o p va v) = storeWord s p v := by
  rw [writeOut, mustQueue_clear s _ hc.flight hc.resvs, if_neg Bool.false_ne_true]
  exact congrArg (storeNat s p 4) (Nat.mod_eq_of_lt v.isLt)

/-- A word goes from its source to its destination where nothing stands in the way. -/
theorem moveWord_clear (hk : o.kind = .cpy) (hm : o.combined = none)
    (hd : engAt s c o.asn needW o.dst (4 * k) false = .at s p)
    (hd' : engAt s c o.asn needW o.dst (4 * k) (freshAt o o.dst (4 * k) true) = .at s p)
    (hs : engAt s c o.asn needR o.src (4 * k) (freshAt o o.src (4 * k) false) = .at s q) :
    moveWord s c o k = .done (storeWord s p (loadWord s q)) (copied o k) := by
  have hw : wordOffs o k = .ok (4 * k, 4 * k) := by simp only [wordOffs, hk]
  have hread : sourceWord s c o k (4 * k) = .val s (loadWord s q) := by
    simp only [sourceWord, hm, engRead, hs, settleEarlier_none _ _ _ _ hc.flight, pathHeld_none _ _ _ _ hc.flight,
      anyBad_clear _ _ _ hc.bads, Bool.false_eq_true, if_false]
  have hnot : overtaken o k (4 * k) = false := by simp [overtaken, hk]
  simp only [moveWord, hw, hd, hread, hd', settleEarlier_none _ _ _ _ hc.flight, pathHeld_none _ _ _ _ hc.flight,
    tileMoving_clear hc, hnot, writeOut_clear hc, Bool.or_self, Bool.false_eq_true, if_false]
  rfl

end

theorem copiesMoveWords : Claim.CopiesMoveWords := by
  intro s c k o p q hc hf hmov hk hm hnew hlt h5 hd hd' hs
  have hgo : (!moving o || engSpace o.dst = 5 || o.moved.contains k || decide (k ≥ copyWords o)) = false := by
    simpa [hmov, h5, hnew, copyWords, hm] using hlt
  have hrun : (getCore (storeWord s p (loadWord s q)) c).copyRun = (getCore s c).copyRun :=
    storeNat_keepsCore Core.copyRun (fun _ _ => rfl) ..
  refine ⟨setCopy (storeWord s p (loadWord s q)) c (copied o k), ?_, rfl, ?_⟩
  · show Host.Outcome.next (performCopy s c o.id k) = _
    simp only [performCopy, hf, hgo, moveWord_clear hc hk hm hd hd' hs, Bool.false_eq_true, if_false]
  · rw [← copied_id o k]
    refine findCopy_setCopy (o := o) ?_
    rw [findCopy, hrun, copied_id]
    exact hf

/-! ### Reservations (R179, R180, R332) -/

theorem grants {s : State} {w : Nat} {a : Access} {p : Part} (hh : queueHead s w = some a) (hk : a.kind = .rsv)
    (hp : a.parts = [p]) (hw : wordKey p.place = w) (hg : grantReady s w = true) (hr : a.remote = false)
    (hb : s.bads = []) :
    Leaves (.reservationGrant w) s fun s' =>
      s'.resvs = s.resvs ++ [⟨w, a.core, a.slot, some (getCore s a.core).cycle⟩] ∧ s'.mem = s.mem := by
  have hq : mustQueue s a = false := by simpa only [grantReady, hh, Bool.not_eq_true'] using hg
  have hserve := (serve_free ((mustQueue_countArrival s a).trans hq) ((bads_countArrival s a).trans hb)).2.2 p hk hp
  have hcount : (countArrival s a).resvs = s.resvs ∧ getCore (countArrival s a) a.core = getCore s a.core := by
    rw [(counts_countArrival a).eq_recount s]
    exact ⟨rfl, rfl⟩
  refine ⟨attempt s a, ?_, ?_⟩
  · show execReservationGrant w s = _
    simp only [execReservationGrant, hh, hg, if_true]
  · rw [attempt_done (by simp [hk]) hserve]
    refine ⟨(completeAccess_keeps ..).2.trans ?_, (completeAccess_keeps ..).1.trans (mem_countArrival s a)⟩
    simp only [hw, hr, hcount.1, hcount.2, Bool.false_eq_true, if_false]

theorem timesOut {s : State} {r : Resv} {n : Nat} {t : Thread} (hr : r ∈ s.resvs) (hs : r.since = some n)
    (hn : n + 64 ≤ (getCore s r.core).cycle)
    (hf : ∀ f ∈ s.flight, ¬ (f.core = r.core ∧ f.slot = r.slot ∧ f.kind = .rls))
    (ht : threadAt s r.core r.slot = some t) (ha : t.role = .alone) :
    Leaves (.reservationTimeout r.core r.slot) s fun s' =>
      (∀ q ∈ s'.resvs, ¬ (q.core = r.core ∧ q.slot = r.slot)) ∧ s'.mem = s.mem ∧
      threadAt s' r.core r.slot = some (setFlag t 3 true) := by
  have hover : resvOver s r = true := by
    simpa [resvOver, hs, hn, and_assoc] using hf
  have hany : (s.resvs.any fun q => q.core = r.core && q.slot = r.slot && resvOver s q) = true :=
    List.any_eq_true.mpr ⟨r, hr, by simp [hover]⟩
  have hheld : (s.resvs.any fun q => q.core = r.core && q.slot = r.slot) = true :=
    List.any_eq_true.mpr ⟨r, hr, by simp⟩
  let s1 : State := { s with resvs := s.resvs.filter fun q => !(q.core = r.core && q.slot = r.slot) }
  have ht1 : threadAt s1 r.core r.slot = some t := ht
  refine ⟨setThread s1 r.core r.slot (setFlag t 3 true), ?_, fun q hq => ?_, rfl,
    threadAt_setThread_same _ _ _ _ (threadAt_lt ht)⟩
  · show execReservationTimeout r.core r.slot s = _
    rw [← modPend_alone (fun t => setFlag t 3 true) ht1 ha]
    simp only [execReservationTimeout, hany, forceRelease, hheld, if_true]
    rfl
  · simpa [imp_iff_not_or] using (List.mem_filter.mp hq).2

/-! ### Replies (R171, R173) -/

/-- A reply that its core cannot take stays on its way. -/
theorem reply_stays {s : State} {a : Access} (hf : findFlight s a.id = some a) (hr : replyFree s a = false) :
    exec (.remoteReply a.id) s = .next s := by
  have hf' : s.flight.find? (fun f => f.id = a.id) = some a := hf
  show execRemoteReply a.id s = _
  simp only [execRemoteReply, hf', hr, Bool.not_false, Bool.or_true, Bool.true_or, if_true]

/-- A default load's reply ends its thread's wait, with the value in its register. -/
theorem reply_taken {s : State} {a : Access} {p : Part} {w : Word} {t : Thread} (hf : findFlight s a.id = some a)
    (hg : a.stage = .replied) (hok : a.okay = true) (hgr : a.group = none) (hv : a.via = .plain) (hfo : a.foreign = false)
    (hk : a.kind = .load ∨ a.kind = .lde) (hp : a.parts = [p]) (hres : a.result = [w]) (hw : a.rewrite = none)
    (ht : threadAt s a.core a.slot = some t) (ha : t.role = .alone) (hr : replyFree s a = true) :
    exec (.remoteReply a.id) s =
      .next (setThread (dropFlight s a.id) a.core a.slot (finish (wrReg t p.reg w))) := by
  have hf' : s.flight.find? (fun f => f.id = a.id) = some a := hf
  have hat : threadAt (dropFlight s a.id) a.core a.slot = some t := ht
  have hend : completeAccess s a [w] true =
      setThread (dropFlight s a.id) a.core a.slot (finish (wrReg t p.reg w)) := by
    rw [completeAccess, hfo, if_neg Bool.false_ne_true, hg, hv]
    simp only [hgr, Option.isNone_none, bne_self_eq_false, Bool.and_false, Bool.false_eq_true, if_true, if_false]
    rw [modPend_alone _ hat ha]
    rcases hk with hk | hk <;> simp [takeVals, hk, hp, hw, isLoadKind]
  show execRemoteReply a.id s = _
  rcases hk with hk | hk <;>
    simp [execRemoteReply, hf', hr, hg, hv, hok, hk, startResv, hres, hend]

theorem reservationsAndReplies : Claim.ReservationsAndReplies := by
  refine ⟨fun s w a p hh hk hp hw hg hr hb => grants hh hk hp hw hg hr hb,
    fun s r n t hr hs hn hf ht ha => timesOut hr hs hn hf ht ha,
    fun s a p w t hf hg hok hgr hv hfo hk hp hres hw ht ha => ⟨fun hrem hfull => ?_, fun hr => ?_⟩⟩
  · refine reply_stays hf ?_
    simp [replyFree, hrem, Nat.not_lt.mpr hfull]
  · refine ⟨_, reply_taken hf hg hok hgr hv hfo hk hp hres hw ht ha hr,
      threadAt_setThread_same _ _ _ _ (threadAt_lt ht), findFlight_dropFlight s a.id⟩

/-- Settles O53: an access at its bank by what `serve` and the end of an access make of it, a copied word by the engine's
translation at both of its ends, reservations and replies by the equations of their events. -/
theorem accessEvents : Obligations.AccessEvents := ⟨accessesPerform, copiesMoveWords, reservationsAndReplies⟩

end Sys2Proof.Machine

/-! Messages arrive and are dispatched, and the queue registers move (O55; R171 to R174, R189, R333). -/

namespace Sys2Proof.Machine

/-! ### Cores and threads under these events -/

theorem threadAt_modCore {s : State} {c : Nat} {f : Core → Core} (h : (f (getCore s c)).slots = (getCore s c).slots)
    (d j : Nat) : threadAt (modCore s c f) d j = threadAt s d j := by
  rw [threadAt, threadAt, getSlot_congr (slots_modCore h d)]

section
variable {α : Type} (g : Core → α) (hg : ∀ k x y, g { k with slots := x, pairs := y } = g k)
include hg

theorem modThread_keepsRest (s : State) (c i d : Nat) (f : Thread → Thread) :
    g (getCore (modThread s c i f) d) = g (getCore s d) := by
  unfold modThread
  split
  · rfl
  · exact setThread_keepsCore g (fun k x => hg k x k.pairs) ..

theorem setPair_keepsRest (s : State) (c d : Nat) (p : Pair) : g (getCore (setPair s c p) d) = g (getCore s d) := by
  by_cases hd : d = c
  · subst hd
    rw [setPair, getCore_modCore_same]
    exact hg _ _ _
  · rw [setPair, modCore, getCore_setCore_ne _ _ _ _ hd]

/-- What ends an instruction in progress leaves what reads neither slots nor pairs. -/
theorem modPend_keepsRest (s : State) (c i d : Nat) (f : Thread → Thread) :
    g (getCore (modPend s c i f) d) = g (getCore s d) := by
  unfold modPend
  split
  · rfl
  · split
    · unfold onBoth
      split
      · exact modThread_keepsRest g hg ..
      · rw [setPair_keepsRest g hg, modThread_keepsRest g hg, modThread_keepsRest g hg]
    · exact setThread_keepsCore g (fun k x => hg k x k.pairs) ..

end

/-! ### Arrival (R170, R173) -/

theorem inbox_modPend (s : State) (c i d : Nat) (f : Thread → Thread) :
    (getCore (modPend s c i f) d).inbox = (getCore s d).inbox := modPend_keepsRest Core.inbox (fun _ _ _ => rfl) ..

theorem mem_modPend (s : State) (c i : Nat) (f : Thread → Thread) : (modPend s c i f).mem = s.mem := by
  obtain ⟨k, h⟩ := modPend_eq s c i f
  rw [h]

theorem net_modPend (s : State) (c i : Nat) (f : Thread → Thread) : (modPend s c i f).net = s.net := by
  obtain ⟨k, h⟩ := modPend_eq s c i f
  rw [h]

/-- A sender that stands alone goes on with its answer in F[1]. -/
theorem answerSend_alone {s : State} {m : Msg} {t : Thread} {nx : Word} {r : Nat} {f : List (Nat × Word)}
    (ht : threadAt s m.srcCore m.srcSlot = some t) (ha : t.role = .alone) (hp : t.pend = some ⟨.send m.id, nx, r, f⟩)
    (kept : Bool) : answerSend s m kept = setThread s m.srcCore m.srcSlot (finish (setFlag t 1 kept)) := by
  rw [answerSend, modPend_alone _ ht ha, hp]
  simp only [if_true]

/-- A message for q3 leaves a thread that has nothing in progress. -/
theorem wakeByMessage_threadAt {s : State} {c i d j : Nat} {t : Thread} (hq : (getCore s c).pairs = [])
    (ht : threadAt s d j = some t) (hp : t.pend = none) : threadAt (wakeByMessage s c i) d j = some t := by
  rw [wakeByMessage, modPend_unpaired i _ hq]
  by_cases h : (d, j) = (c, i)
  · obtain ⟨rfl, rfl⟩ := Prod.mk.inj h
    rw [modThread_some _ _ _ _ t ht, hp, threadAt_setThread_same _ _ _ _ (threadAt_lt ht)]
  · rw [threadAt_modThread_ne _ _ _ _ _ _ h, ht]

/-- Message `n` is no longer on its way. -/
def offNet (s : State) (n : Nat) : State := { s with net := s.net.eraseIdx n }

/-- The message goes last into its core's inbox. -/
def enters (s : State) (m : Msg) : State := modCore s m.dst fun k => { k with inbox := k.inbox ++ [m] }

/-- The channel of a message is OFF, and its sender hears of it (R172, R187). -/
def isOff (s : State) (m : Msg) : Bool := m.chan ≥ 4 && entTarget (chanEntry (getCore s m.dst) m.chan) = 0

/-- What the arrival of message `n` leaves, by whether its channel is OFF (R170, R173). -/
structure Arrived (s : State) (n : Nat) (m : Msg) (off : Bool) (s' : State) : Prop where
  net : s'.net = s.net.eraseIdx n
  mem : s'.mem = s.mem
  inbox : (getCore s' m.dst).inbox = (getCore s m.dst).inbox ++ (if off then [] else [m])
  sender : ∀ t nx r f, (getCore s m.dst).pairs = [] → threadAt s m.srcCore m.srcSlot = some t → t.role = .alone →
    t.pend = some ⟨.send m.id, nx, r, f⟩ → threadAt s' m.srcCore m.srcSlot = some (finish (setFlag t 1 !off))

theorem arrived_off (s : State) (n : Nat) (m : Msg) : Arrived s n m true (answerSend (offNet s n) m false) where
  net := net_modPend ..
  mem := mem_modPend ..
  inbox := (inbox_modPend ..).trans (List.append_nil _).symm
  sender t _ _ _ _ ht ha hp := by
    have ht' : threadAt (offNet s n) m.srcCore m.srcSlot = some t := ht
    rw [answerSend_alone ht' ha hp, threadAt_setThread_same _ _ _ _ (threadAt_lt ht)]
    rfl

theorem arrived_in (s : State) (n : Nat) (m : Msg) :
    Arrived s n m false (answerSend (enters (offNet s n) m) m true) where
  net := net_modPend ..
  mem := mem_modPend ..
  inbox := (inbox_modPend ..).trans (congrArg Core.inbox (getCore_modCore_same (offNet s n) m.dst _))
  sender t _ _ _ _ ht ha hp := by
    have ht' : threadAt (enters (offNet s n) m) m.srcCore m.srcSlot = some t :=
      (threadAt_modCore (s := offNet s n) rfl _ _).trans ht
    rw [answerSend_alone ht' ha hp, threadAt_setThread_same _ _ _ _ (threadAt_lt ht)]
    rfl

/-- The slot that a message is held for wakes of it, which changes no sender that has its answer. -/
theorem arrived_woken (s : State) (n : Nat) (m : Msg) (i : Nat) :
    Arrived s n m false (wakeByMessage (answerSend (enters (offNet s n) m) m true) m.dst i) where
  net := (net_modPend ..).trans (arrived_in s n m).net
  mem := (mem_modPend ..).trans (arrived_in s n m).mem
  inbox := (inbox_modPend ..).trans (arrived_in s n m).inbox
  sender t nx r f hpairs ht ha hp := by
    have ht' : threadAt (enters (offNet s n) m) m.srcCore m.srcSlot = some t :=
      (threadAt_modCore (s := offNet s n) rfl _ _).trans ht
    have hq : (getCore (answerSend (enters (offNet s n) m) m true) m.dst).pairs = [] := by
      rw [answerSend_alone ht' ha hp, setThread_keepsCore Core.pairs (fun _ _ => rfl)]
      exact (congrArg Core.pairs (getCore_modCore_same (offNet s n) m.dst _)).trans hpairs
    exact wakeByMessage_threadAt hq ((arrived_in s n m).sender t nx r f hpairs ht ha hp) (finish_pend _)

theorem exec_messageArrival {s : State} {n : Nat} {m : Msg} (hm : s.net[n]? = some m) (hr : canArrive s n = true) :
    exec (.messageArrival n) s = .next (
      if isOff s m then answerSend (offNet s n) m false
      else
        match heldFor (getCore s m.dst) m with
        | none => answerSend (enters (offNet s n) m) m true
        | some i => wakeByMessage (answerSend (enters (offNet s n) m) m true) m.dst i) := by
  show execMessageArrival n s = _
  simp only [execMessageArrival, hm, hr, Bool.not_true, Bool.false_eq_true, if_false]
  rfl

theorem arrives {s : State} {n : Nat} {m : Msg} (hm : s.net[n]? = some m) (hr : canArrive s n = true) :
    Leaves (.messageArrival n) s (Arrived s n m (isOff s m)) := by
  refine ⟨_, exec_messageArrival hm hr, ?_⟩
  cases isOff s m with
  | true => exact arrived_off s n m
  | false =>
    cases heldFor (getCore s m.dst) m with
    | none => exact arrived_in s n m
    | some i => exact arrived_woken s n m i

/-! ### Dispatch (R171, R174) -/

/-- The channels 0 to 3 have no handler of the table. -/
theorem dispatchMsg_handler {k : Core} {m : Msg} (h : dispatchMsg k 1 = some m) : 4 ≤ m.chan := by
  suffices hall : ∀ b ∈ dispatchMsg k 1, 4 ≤ b.chan from hall m h
  refine List.foldlRecOn (motive := fun best : Option Msg => ∀ b ∈ best, 4 ≤ b.chan) _ _ (by simp) ?_
  intro best hbest m' _ b hb
  dsimp only at hb
  split at hb
  · next hgo =>
    have h4 : 4 ≤ m'.chan := by
      simp only [decide_true, Bool.true_and, Bool.and_eq_true, Bool.not_eq_true', decide_eq_false_iff_not] at hgo
      omega
    split at hb
    · obtain rfl : m' = b := by simpa using hb
      exact h4
    · split at hb
      · obtain rfl : m' = b := by simpa using hb
        exact h4
      · exact hbest b hb
  · exact hbest b hb

/-- The words of a message are the registers g1 to g8 of its thread. -/
theorem rdReg_handlerThread (s : State) (c : Nat) (kind : Kind) (e : Word) {m : Msg} (hl : m.words.length = 8) {k : Nat}
    (hk : k < 8) : rdReg (handlerThread s c kind e m) (k + 1) = wordAt m.words k := by
  have h : rdReg (handlerThread s c kind e m) (k + 1) = rdReg (wrRegs Thread.blank 1 m.words) (k + 1) := rfl
  rw [h, rdReg_wrRegs _ _ _ _ (by omega) (by omega), if_pos (by omega), Nat.add_sub_cancel]
  rfl

/-- A message that becomes a thread leaves the inbox. -/
theorem inbox_dispatched (s : State) (c i id : Nat) (t : Thread) :
    (getCore (setThread (dropMsg s c id) c i t) c).inbox = (getCore s c).inbox.filter fun e => e.id != id := by
  rw [setThread_keepsCore Core.inbox (fun _ _ => rfl), dropMsg, getCore_modCore_same]

theorem dispatchesHandler {s : State} {c : Nat} {m : Msg} (hd : dispatchMsg (getCore s c) 1 = some m)
    (hs : systemMsg (getCore s c) = none) (hr : handlerReady s c = true) :
    exec (.handlerDispatch c) s =
      .next (setThread (dropMsg s c m.id) c 15 (handlerThread s c .handler (chanEntry (getCore s c) m.chan) m)) := by
  have h4 := dispatchMsg_handler hd
  have h0 : ¬ m.chan = 0 := by omega
  have h2 : ¬ m.chan = 2 := by omega
  show execHandlerDispatch c s = _
  simp only [execHandlerDispatch, hr, hs, hd, h0, h2, Bool.not_true, Option.isSome_none, decide_false, Bool.false_and,
    Bool.false_eq_true, if_false]

theorem dispatchesFresh {s : State} {c i : Nat} {l : List Nat} {m : Msg} (hd : dispatchMsg (getCore s c) 2 = some m)
    (hv : vacantSlots (getCore s c) = i :: l) :
    exec (.freshDispatch c) s =
      .next (setThread (dropMsg s c m.id) c i (handlerThread s c .fresh (chanEntry (getCore s c) m.chan) m)) := by
  show execFreshDispatch c s = _
  simp only [execFreshDispatch, hd, hv]

/-! ### The installed handler of channel 0 (R171; log entry 21) -/

theorem dispatchesSystem {s : State} {c : Nat} {m : Msg} {a : Access} (hs : systemMsg (getCore s c) = some m)
    (hc : m.chan = 0) (he : chanEntry (getCore s c) 0 &&& 0xFFFF = 0) (hr : handlerReady s c = true)
    (hab : m.about = some a.id) (hf : findFlight s a.id = some a) (hst : a.stage = .remote) :
    exec (.handlerDispatch c) s = .next (attempt (dropMsg s c m.id) a) := by
  have hf' : (dropMsg s c m.id).flight.find? (fun f => f.id = a.id) = some a := hf
  show execHandlerDispatch c s = _
  simp only [execHandlerDispatch, hr, hs, hc, entEntry, he, Bool.not_true, Option.isSome_some, decide_true, Bool.and_self,
    Bool.false_eq_true, if_false, if_true, serveRemote, hab, Option.getD_some, hf', hst]

theorem counters_backInvalidate (s : State) (p : Place) : (backInvalidate s p).counters = s.counters := by
  unfold backInvalidate
  split <;> rfl

/-- A request that is served where it waits has been counted before: only the host's lines are taken back (R328, R336). -/
theorem counters_countArrival {a : Access} (h : a.stage ≠ .going) (s : State) :
    (countArrival s a).counters = s.counters := by
  unfold countArrival
  split
  · rfl
  · rw [if_pos (by simpa using h)]
    exact List.foldlRecOn (motive := fun s' : State => s'.counters = s.counters) _ _ rfl
      fun s' hs' p _ => (counters_backInvalidate s' p.place).trans hs'

theorem flight_countArrival (s : State) (a : Access) : (countArrival s a).flight = s.flight := by
  rw [(counts_countArrival a).eq_recount s]
  rfl

theorem serial_countArrival (s : State) (a : Access) : (countArrival s a).serial = s.serial := by
  rw [(counts_countArrival a).eq_recount s]
  rfl

/-- A REMOTE load that performs at its target waits there with its value for its reply. -/
theorem attempt_remoteLoad {s : State} {a : Access} {p : Part} (hst : a.stage = .remote) (hrem : a.remote = true)
    (hfo : a.foreign = false) (hv : a.via ≠ .lead) (hk : a.kind = .load) (hp : a.parts = [p]) (hres : a.result = [])
    (hb : s.bads = []) :
    attempt s a = setFlight { countArrival s a with serial := s.serial + 1 }
      { a with stage := .replied, result := [loadPart s p], okay := true, seq := s.serial } := by
  have hq : mustQueue (countArrival s a) a = false := by simp [mustQueue, hk, needsResv]
  have hserve := (serve_free hq ((bads_countArrival s a).trans hb)).1 hk
  have hvals : boundVals (countArrival s a) a (a.parts.map (loadPart (countArrival s a))) = [loadPart s p] := by
    have hload : loadPart (countArrival s a) p = loadPart s p := by
      rw [loadPart, loadNat_congr s _ (mem_countArrival s a) (counters_countArrival (by simp [hst]) s), loadPart]
    rw [boundVals, hp, List.map_singleton, hload]
    split
    · next h _ => exact absurd h hv
    · rfl
  rw [attempt_done (by simp [hk]) hserve, completeAccess_reply _ _ hfo (by simp [awaitsReply, hrem, hst]), hvals, hres,
    serial_countArrival]
  rfl

theorem messagesArrive : Claim.MessagesArrive := by
  refine ⟨fun s n m hm hr => ?_, fun s c m hd hs hr hl => ?_, ?_, fun s c i l m hd hv hl => ?_⟩
  · obtain ⟨s', he, h⟩ := arrives hm hr
    exact ⟨s', he, h.net, h.mem, h.inbox, h.sender⟩
  · exact ⟨_, dispatchesHandler hd hs hr, inbox_dispatched .., _, threadAt_setThread_same _ _ _ _ (by omega), rfl, rfl, rfl,
      fun k hk => rdReg_handlerThread s c _ _ hl hk⟩
  · intro s c m a p hs hc he hr hab hf hst hrem hfo hv hk hp hres hb
    have hload : loadPart (dropMsg s c m.id) p = loadPart s p :=
      congrArg (extend p) (loadNat_congr s (dropMsg s c m.id) rfl rfl p.place p.size)
    have hdone := attempt_remoteLoad (s := dropMsg s c m.id) hst hrem hfo hv hk hp hres hb
    refine ⟨_, (dispatchesSystem hs hc he hr hab hf hst).trans (congrArg _ hdone), ?_, ?_⟩
    · rw [hload]
      exact congrArg _ (flight_countArrival (dropMsg s c m.id) a)
    · exact mem_countArrival _ a
  · have hi := mem_vacantSlots (hv ▸ List.mem_cons_self : i ∈ vacantSlots (getCore s c))
    exact ⟨_, dispatchesFresh hd hv, inbox_dispatched .., _, threadAt_setThread_same _ _ _ _ (by omega), rfl, rfl,
      fun k hk => rdReg_handlerThread s c _ _ hl hk⟩

/-! ### Where a word of a stream leads (R189, R309) -/

/-- What the walks of a stream change: what is counted, and the translations. -/
def Walked (s s' : State) : Prop := ∃ x k, s' = { recount s k with xl := x }

theorem Walked.refl (s : State) : Walked s s := ⟨s.xl, s, rfl⟩

theorem Walked.trans {s s' s'' : State} (h : Walked s s') (h' : Walked s' s'') : Walked s s'' := by
  obtain ⟨x, k, rfl⟩ := h
  obtain ⟨y, l, rfl⟩ := h'
  exact ⟨y, l, rfl⟩

theorem counts_countWalk (d : Nat) (l : List Nat) : Counts fun s => countWalk s d l :=
  Counts.foldl _ (fun a => (counts_backInvalidate (physPlace a)).comp (counts_countReq d 4)) l

theorem walked_walkNow (s : State) (c asn va : Nat) : Walked s (walkNow s c asn va) := by
  unfold walkNow
  split
  · exact .refl s
  · dsimp only
    rw [(counts_countWalk _ _).eq_recount s]
    split
    · exact ⟨s.xl, countWalk s (dieOf c) (walk s asn va).2, rfl⟩
    · exact ⟨_, countWalk s (dieOf c) (walk s asn va).2, rfl⟩

theorem walked_walkAll (c asn : Nat) (need : Need) (n : Nat) (s : State) (va : Nat) :
    Walked s (walkAll c asn need n s va) := by
  induction n generalizing s with
  | zero => exact .refl s
  | succ n ih =>
    unfold walkAll
    split
    · split
      · exact (walked_walkNow ..).trans (ih _)
      · exact walked_walkNow ..
    · exact .refl s

theorem walked_streamWord (s : State) (c : Nat) (t : Thread) (a : Word) (need : Need) :
    Walked s (streamWord s c t a need).1 := by
  unfold streamWord
  split
  · exact walked_walkAll ..
  · exact .refl s

theorem Walked.counted {s s' : State} (h : Walked s s') {f : State → State} (hf : Counts f) : Walked s (f s') := by
  obtain ⟨x, k, rfl⟩ := h
  rw [hf.eq_recount]
  exact ⟨x, _, rfl⟩

/-- Walks and counts change no thread, no access, no byte and no bad word. -/
theorem Walked.keeps {s s' : State} (h : Walked s s') :
    s'.cores = s.cores ∧ s'.booted = s.booted ∧ s'.flight = s.flight ∧ s'.mem = s.mem ∧ s'.bads = s.bads := by
  obtain ⟨x, k, rfl⟩ := h
  exact ⟨rfl, rfl, rfl, rfl, rfl⟩

theorem Walked.threadAt {s s' : State} (h : Walked s s') (c i : Nat) : threadAt s' c i = Machine.threadAt s c i := by
  obtain ⟨x, k, rfl⟩ := h
  rfl

/-! ### Threads that stand alone: no log of a pair (R286, R289) -/

section
variable {s : State} {c i : Nat} {t : Thread} (ha : t.role = .alone)
include ha

theorem fromLog_alone : fromLog s c i t = none := by simp [fromLog, ha]

theorem logRoom_alone : logRoom s c i t = true := by simp [logRoom, ha]

theorem fillWord_alone (q a : Nat) (w : Word) : fillWord s c i q t a w = setThread s c i t := by simp [fillWord, ha]

end

theorem role_wrReg (t : Thread) (n : Nat) (v : Word) : (wrReg t n v).role = t.role := by
  obtain ⟨r, b, h⟩ := wrReg_eq t n v
  rw [h]

theorem fillWord_delivered {t : Thread} (ha : t.role = .alone) (s : State) (c i q n a : Nat) (v : Stream) (w x : Word) :
    fillWord s c i q (wrReg (setStream t q v) n w) a x = setThread s c i (wrReg (setStream t q v) n w) :=
  fillWord_alone ((role_wrReg (setStream t q v) n w).trans ha) ..

/-! ### STREAM_LOAD_FILL -/

section
variable {s : State} {c i q : Nat} {t : Thread} (ht : threadAt s c i = some t) (ha : t.role = .alone) (hq : q < 2)
  (hb : (streamOf t q).bound = true) (hn : (streamOf t q).failed = none)
include ht ha hq hb hn

/-- A word that stands ready goes to its register. -/
theorem delivers {w : Word} {ws : List Word} (hw : (streamOf t q).ahead = w :: ws)
    (he : isFull t (streamOf t q).reg = false) (hh : heldBack t (streamOf t q).reg = false)
    (hx : engineTakes s c i q = false) :
    exec (.streamLoadFill c i q) s = .next (setThread s c i
      (wrReg (setStream t q { (streamOf t q).next with ahead := if (streamOf t q).left ≤ 1 then [] else ws })
        (streamOf t q).reg w)) := by
  have hwants : wants t (streamOf t q) = true := by simp [wants, hb, he, hh]
  have hready : fillReady s c i q t = true := by
    simp [fillReady, fromLog_alone ha, logRoom_alone ha, hb, hn, ha, hw, hwants]
  show execStreamLoadFill c i q s = _
  simp only [execStreamLoadFill, hq, if_true, fill, ht, hready, fromLog_alone ha, logRoom_alone ha, hwants, hx, hw, deliver,
    List.isEmpty_cons, Bool.not_true, Bool.not_false, Bool.and_self, Bool.false_eq_true, if_false,
    fillWord_delivered ha]

variable (hw : (streamOf t q).ahead = []) (hl : 0 < (streamOf t q).left) (hc : s.flight = [])
include hw hl hc

/-- A stream with no word ready reads ahead. -/
theorem readsAhead : exec (.streamLoadFill c i q) s = .next (readAhead s c i q t) := by
  have hout : wordOut s c i q = false := by simp [wordOut, hc]
  have hmore : (streamOf t q).ahead.length < min 8 (streamOf t q).left := by
    rw [hw, List.length_nil]
    omega
  have hready : fillReady s c i q t = true := by
    simp only [fillReady, fromLog_alone ha, hb, hn, ha, hmore, hout]
    simp
  show execStreamLoadFill c i q s = _
  simp only [execStreamLoadFill, hq, if_true, fill, ht, hready, fromLog_alone ha, hmore, hout, Bool.not_true,
    Bool.not_false, Bool.false_eq_true, if_false]
  simp [hw]

end

section
variable {s s1 : State} {c i q : Nat} {t : Thread} {p : Place} {va : Option Nat} {l : List Place}
  (hw : (streamOf t q).ahead = []) (hs : streamWord s c t (streamOf t q).addr needR = (s1, .here p va l))
include hw hs

/-- A word of this package is read on the spot. -/
theorem readAhead_inside (hp : p.inside = true) (hf : s.flight = []) (hb : s.bads = []) :
    readAhead s c i q t = modThread (countAll s1 c p l) c i (takeAhead q [loadWord (countAll s1 c p l) p]) := by
  have hwalk : Walked s s1 := by
    have := walked_streamWord s c t (streamOf t q).addr needR
    rwa [hs] at this
  obtain ⟨-, -, hf1, -, -⟩ := (hwalk.counted (counts_countMarks c l)).keeps
  obtain ⟨-, -, -, -, hb2⟩ := (hwalk.counted (counts_countAll c p l)).keeps
  have hpeer : p.isPeer = false := by
    cases p with
    | peer k d a => cases hp
    | _ => rfl
  simp only [readAhead, hw, List.length_nil, BitVec.ofNat_eq_ofNat, BitVec.zero_mul, BitVec.add_zero, hs, hpeer,
    Bool.false_eq_true, if_false]
  rw [settleEarlier_none _ _ _ _ (hf1.trans hf), pathHeld_none _ _ _ _ (hf1.trans hf)]
  simp only [Bool.false_eq_true, if_false]
  rw [← countAll, anyBad_clear _ _ _ (hb2.trans hb)]
  simp only [Bool.false_eq_true, if_false]

/-- A word of another package is asked for over the device link (R333). -/
theorem readAhead_peer (hp : p.inside = false) : ∃ a,
    readAhead s c i q t = addFlight (countMarks s1 c l) a ∧ a.kind = .load ∧ a.via = .queue q ∧ a.core = c ∧ a.slot = i ∧
      a.parts.map (fun x => (x.place, x.size)) = [(p, 4)] := by
  have hpeer : p.isPeer = true := by
    cases p with
    | peer k d a => rfl
    | _ => cases hp
  simp only [readAhead, hw, List.length_nil, BitVec.ofNat_eq_ofNat, BitVec.zero_mul, BitVec.add_zero, hs, hpeer, if_true]
  exact ⟨_, rfl, rfl, rfl, rfl, rfl, rfl⟩

end

/-! ### STREAM_STORE_TAKE and Q3_DELIVERY -/

/-- A value that q2 takes leaves its register and is on its way to its word. -/
theorem takesStore {s s1 : State} {c i : Nat} {t : Thread} {p : Place} {va : Option Nat} {l : List Place}
    (ht : threadAt s c i = some t) (ha : t.role = .alone) (hb : (streamOf t 2).bound = true)
    (hn : (streamOf t 2).failed = none) (ho : wordOut s c i 2 = false) (hf : isFull t (streamOf t 2).reg = true)
    (hh : heldBack t (streamOf t 2).reg = false)
    (hs : streamWord s c t (streamOf t 2).addr needW = (s1, .here p va l)) : ∃ a,
    exec (.streamStoreTake c i) s = .next (addFlight (setThread (countMarks s1 c l) c i (taken t)) a) ∧
      a.kind = .store ∧ a.via = .queue 2 ∧ a.core = c ∧ a.slot = i ∧
      a.parts.map (fun q => (q.place, q.size, q.data)) = [(p, 4, rdReg t (streamOf t 2).reg)] := by
  have hready : takeReady s c i t = true := by simp [takeReady, hb, hn, ho, hf, hh, ha]
  refine ⟨{ streamAccess (countMarks s1 c l) c i 2 t .store p va l.length (streamOf t 2).addr
      (rdReg t (streamOf t 2).reg) false with
    vas := throughVas (countMarks s1 c l) c t.asn (globalVa t (selOf (streamOf t 2).addr) (offOf (streamOf t 2).addr)) l },
    ?_, rfl, rfl, rfl, rfl, rfl⟩
  show execStreamStoreTake c i s = _
  simp only [execStreamStoreTake, takeStore, ht, hready, ha, hs, storeOut, Bool.not_true, Bool.false_eq_true, if_false]
  rfl

section
variable {s : State} {c i : Nat} {t : Thread} (ht : threadAt s c i = some t) (ha : t.role = .alone)
  (hb : (streamOf t 3).bound = true) (he : isFull t (streamOf t 3).reg = false)
  (hh : heldBack t (streamOf t 3).reg = false)
include ht ha hb he hh

/-- The first word of a message takes the message in hand. -/
theorem deliversFirst {m : Msg} (hd : (streamOf t 3).hand = []) (hm : q3Next (getCore s c) i = some m) :
    exec (.q3Delivery c i) s = .next (modCore (setThread s c i
      (wrReg (setStream t 3 { streamOf t 3 with hand := m.words.drop 1, handAll := m.words }) (streamOf t 3).reg
        (m.words.headD 0))) c fun k => takeInHand k i m) := by
  have hready : q3Ready s c i t = true := by
    simp [q3Ready, wants, hb, he, hh, fromLog_alone ha, logRoom_alone ha, ha, hm]
  show execQ3Delivery c i s = _
  simp only [execQ3Delivery, deliverQ3, ht, hready, fromLog_alone ha, hd, hm, Bool.not_true, Bool.false_eq_true, if_false,
    fillWord_delivered ha]

theorem deliversNext {w v : Word} {ws : List Word} (hd : (streamOf t 3).hand = w :: v :: ws) :
    exec (.q3Delivery c i) s = .next (setThread s c i
      (wrReg (setStream t 3 { streamOf t 3 with hand := v :: ws }) (streamOf t 3).reg w)) := by
  have hready : q3Ready s c i t = true := by
    simp [q3Ready, wants, hb, he, hh, fromLog_alone ha, logRoom_alone ha, ha, hd]
  show execQ3Delivery c i s = _
  simp only [execQ3Delivery, deliverQ3, ht, hready, fromLog_alone ha, hd, Bool.not_true, Bool.false_eq_true, if_false,
    fillWord_delivered ha]

end

/-- A notice that is taken leaves the threads of its core as they are. -/
theorem threadAt_takeInHand (s : State) (c i : Nat) (m : Msg) (d j : Nat) :
    threadAt (modCore s c fun k => takeInHand k i m) d j = threadAt s d j := by
  by_cases hd : d = c
  · subst hd
    rw [threadAt, threadAt, getSlot, getCore_modCore_same, getSlot, takeInHand]
    split
    · simp only [Core.slotAt, Vector.getElem?_map]
      cases (getCore s d).slots[j]? with
      | none => rfl
      | some x =>
        simp only [Option.map_some, Option.getD_some]
        split <;> rfl
    · rfl
  · rw [threadAt, threadAt, getSlot, modCore, getCore_setCore_ne _ _ _ _ hd, getSlot]

theorem streamsMove : Claim.StreamsMove := by
  intro s c i t ht ha
  have hi := threadAt_lt ht
  refine ⟨fun q w ws hq hb hn hw he hh hx => ?deliver, fun q s1 p va l hq hb hn hw hl hc hs => ?ahead,
    fun s1 p va l hb hn ho hf hh hs => ?take, fun m hb he hh hd hm => ?first, fun w v ws hb he hh hd => ?next⟩
  case deliver => exact ⟨_, delivers ht ha hq hb hn hw he hh hx, threadAt_setThread_same _ _ _ _ hi⟩
  case ahead =>
    have hrun := readsAhead ht ha hq hb hn hw hl hc.flight
    have hwalk : Walked s s1 := by
      have := walked_streamWord s c t (streamOf t q).addr needR
      rwa [hs] at this
    refine ⟨fun hp => ?_, fun hp => ?_⟩
    · refine ⟨_, hrun.trans (congrArg _ (readAhead_inside hw hs hp hc.flight hc.bads)), ?_⟩
      have hat : threadAt (countAll s1 c p l) c i = some t := ((hwalk.counted (counts_countAll c p l)).threadAt c i).trans ht
      show threadAt _ c i = _
      rw [modThread_some _ _ _ _ t hat, threadAt_setThread_same _ _ _ _ hi, takeAhead, hw, List.nil_append]
    · obtain ⟨a, hread, hk, hv, hcore, hslot, hparts⟩ := readAhead_peer (i := i) hw hs hp
      have hmarks := hwalk.counted (counts_countMarks c l)
      obtain ⟨-, -, hflight, hmem, -⟩ := hmarks.keeps
      refine ⟨_, hrun.trans (congrArg _ hread), (hmarks.threadAt c i).trans ht, hmem, a, ?_, hk, hv, hcore, hslot, hparts⟩
      show (countMarks s1 c l).flight ++ [a] = [a]
      rw [hflight, hc.flight, List.nil_append]
  case take =>
    obtain ⟨a, hrun, hk, hv, hcore, hslot, hparts⟩ := takesStore ht ha hb hn ho hf hh hs
    have hwalk : Walked s s1 := by
      have := walked_streamWord s c t (streamOf t 2).addr needW
      rwa [hs] at this
    obtain ⟨-, -, hflight, hmem, -⟩ := (hwalk.counted (counts_countMarks c l)).keeps
    refine ⟨_, hrun, threadAt_setThread_same _ _ _ _ hi, hmem, a, ?_, hk, hv, hcore, hslot, hparts⟩
    exact congrArg (· ++ [a]) hflight
  case first =>
    exact ⟨_, deliversFirst ht ha hb he hh hd hm, (threadAt_takeInHand ..).trans (threadAt_setThread_same _ _ _ _ hi)⟩
  case next => exact ⟨_, deliversNext ht ha hb he hh hd, threadAt_setThread_same _ _ _ _ hi⟩

/-- Settles O55: messages by what `modPend` makes of their sender and `handlerThread` of their words, streams by the word that
`streamWord` finds, whose walks change no thread, access or byte. -/
theorem messageEvents : Obligations.MessageEvents := ⟨messagesArrive, streamsMove⟩

end Sys2Proof.Machine

/-! Links, errors, drains, power, start-up and the side band (O60; R168, R293 to R303, R323, R333, R355 to R369). -/

namespace Sys2Proof.Machine

theorem whileWorking_works {s : State} (h : Works s) (f : State → State) : whileWorking f s = f s := by
  simp [whileWorking, working, h.1, h.2]

/-! ### What a note of an event leaves alone -/

/-- A trace record or an error record touches no access, no gauge or map of the cores, no clock, and stops nothing. -/
structure Noted (s s' : State) : Prop where
  flight : s'.flight = s.flight
  life : s'.life = s.life
  fatal : s'.cc.fatal = s.cc.fatal
  clock : s'.cc.clock = s.cc.clock

theorem Noted.refl (s : State) : Noted s s := ⟨rfl, rfl, rfl, rfl⟩

theorem Noted.trans {s s' s'' : State} (h : Noted s s') (g : Noted s' s'') : Noted s s'' :=
  ⟨g.flight.trans h.flight, g.life.trans h.life, g.fatal.trans h.fatal, g.clock.trans h.clock⟩

theorem Noted.foldl {α : Type} {f : State → α → State} (h : ∀ s a, Noted s (f s a)) (l : List α) (s : State) :
    Noted s (l.foldl f s) := by
  induction l generalizing s with
  | nil => exact .refl s
  | cons a l ih => exact (h s a).trans (ih _)

theorem Noted.clockOf {s s' : State} (h : Noted s s') (d : Nat) : clockOf s' d = Machine.clockOf s d := by
  rw [Machine.clockOf, h.clock, Machine.clockOf]

theorem noted_backInvalidate (s : State) (p : Place) : Noted s (backInvalidate s p) := by
  unfold backInvalidate
  split <;> exact ⟨rfl, rfl, rfl, rfl⟩

theorem noted_takeBack (s : State) (p : Place) (n : Nat) : Noted s (takeBack s p n) := by
  unfold takeBack
  split
  · exact .refl s
  · exact .foldl (fun s j => noted_backInvalidate s _) _ s

theorem noted_logEntry (s : State) (e : Stamped) : Noted s (logEntry s e) :=
  (noted_takeBack s (logPlace s) (stampedBytes e).length).trans ⟨rfl, rfl, rfl, rfl⟩

theorem noted_logInput (s : State) (x : Logged) : Noted s (logInput s x) := by
  unfold logInput
  split
  · exact Noted.trans (s' := setCtl { s with cc := { s.cc with toReplay := s.cc.toReplay.drop 1 } } _ _)
      ⟨rfl, rfl, rfl, rfl⟩ (noted_logEntry _ _)
  · exact Noted.trans (s' := { setCtl s _ _ with free := s.free + 1 }) ⟨rfl, rfl, rfl, rfl⟩ (noted_logEntry _ _)

theorem noted_errWrite (s : State) (r : ErrRec) : Noted s (errWrite s r) := by
  unfold errWrite
  dsimp only
  split
  · exact (noted_logInput s _).trans ⟨rfl, rfl, rfl, rfl⟩
  · exact ⟨rfl, rfl, rfl, rfl⟩

theorem noted_errAer (s : State) (kind : Nat) (r : ErrRec) : Noted s (errAer s kind r) := by
  unfold errAer
  repeat' split
  all_goals exact ⟨rfl, rfl, rfl, rfl⟩

theorem noted_errReport (s : State) (kind : Nat) (slot core : Option Nat) (addr : Nat) (tag : Word) :
    Noted s (errReport s kind slot core addr tag) := by
  refine (noted_errAer s kind (errRec s kind slot core addr tag)).trans ?_
  unfold errReport
  dsimp only
  split
  · split
    · exact ⟨rfl, rfl, rfl, rfl⟩
    · exact noted_errWrite _ _
  · exact noted_errWrite _ _

theorem noted_tracePut (s : State) (d v : Nat) : Noted s (tracePut s d v) :=
  (noted_takeBack s (.hbm d ((traceOf s d).base.toNat + (traceOf s d).wr.toNat)) 32).trans ⟨rfl, rfl, rfl, rfl⟩

theorem noted_setTrace (s : State) (d : Nat) (t : Trace) : Noted s (setTrace s d t) := ⟨rfl, rfl, rfl, rfl⟩

theorem noted_modCore (s : State) (c : Nat) (f : Core → Core) : Noted s (modCore s c f) := ⟨rfl, rfl, rfl, rfl⟩

theorem noted_forgetTimes (s : State) (d : Nat) : Noted s (forgetTimes s d) := ⟨rfl, rfl, rfl, rfl⟩

theorem noted_traceRecord (s : State) (ty c i : Nat) (pc : Word) (payload : List Word) :
    Noted s (traceRecord s ty c i pc payload) := by
  unfold traceRecord
  dsimp only
  split
  · split
    · exact (noted_setTrace s _ _).trans (noted_forgetTimes _ _)
    · set s1 := if (traceOf s (dieOf c)).lost != 0 then setTrace _ _ _ else s with hs1
      have h1 : Noted s s1 := by
        rw [hs1]
        split
        · exact (noted_tracePut s _ _).trans (noted_setTrace _ _ _)
        · exact .refl s
      exact (h1.trans (noted_tracePut s1 _ _)).trans (noted_modCore _ _ _)
  · exact .refl s

/-- A fatal error stops the package, and is noted (R357). -/
theorem noted_fatalStop (s : State) (kind : Nat) (slot core : Option Nat) :
    Noted { s with cc := { s.cc with fatal := true } } (fatalStop s kind slot core) := by
  unfold fatalStop
  dsimp only
  split
  · exact noted_errReport ..
  · exact (noted_errWrite _ _).trans ⟨rfl, rfl, rfl, rfl⟩

theorem fatal_fatalStop (s : State) (kind : Nat) (slot core : Option Nat) : (fatalStop s kind slot core).cc.fatal = true :=
  (noted_fatalStop s kind slot core).fatal

/-! ### Links (R272, R323, R333, R355, R357) -/

/-- After a fatal error a package with an empty agenda does nothing more (R357). -/
theorem step_fatal {t : State} (hf : t.cc.fatal = true) (ha : t.agenda = []) : step t = .next t := by
  simp [step, ha, isDown, hf]

theorem linkEvents : Claim.LinkEvents := by
  refine fun s p l a b hw => ⟨fun hf => ?change, fun x t hx hp hfo ht => ?failure, ⟨errReport s 2 none none 0 0, ?retry, ?_⟩,
    ⟨fatalStop s 17 none none, ?dead, fatal_fatalStop .., fun t => step_fatal⟩, rfl⟩
  case change =>
    show execRouteChange p l s = _
    simp [execRouteChange, working, hw.1, hw.2, hf]
  case failure =>
    show execRouteFailure x.id s = _
    simp only [execRouteFailure, whileWorking_works hw, routeFails, hx, hp, hfo, ht, Bool.not_true, Bool.false_eq_true,
      if_false, Option.map_some, Option.getD_some]
  case retry => exact congrArg Host.Outcome.next (whileWorking_works hw _)
  case dead => exact congrArg Host.Outcome.next (whileWorking_works hw _)
  have hb := booked_errReport s 2 none none 0 0
  have hn := noted_errReport s 2 none none 0 0
  exact ⟨hb.cores, hn.flight, hb.front, hn.fatal⟩

/-! ### Soft errors (R68, R168, R293, R356) -/

theorem mem_setAdd (l : List Nat) (a : Nat) : a ∈ setAdd l a := by
  induction l with
  | nil => exact List.mem_singleton.mpr rfl
  | cons k t ih =>
    unfold setAdd
    split
    · next h => exact h ▸ List.mem_cons_self
    · split
      · exact List.mem_cons_self
      · exact List.mem_cons_of_mem _ ih

theorem booked_corrected (s : State) (kind c : Nat) (slot : Option Nat) (addr : Nat) (tag : Word) :
    Booked s (corrected s kind c slot addr tag) :=
  Booked.trans (s' := setLive s _ _) ⟨rfl, rfl, rfl, rfl, rfl⟩ (booked_errReport ..)

/-- A corrected error of a word changes no thread and no launch. -/
theorem booked_correctedAt (s : State) (a : Nat) : Booked s (correctedAt s a) := by
  have h : Booked s { s with
    bankErrs := smSet s.bankErrs (bankOf a) ((smGet s.bankErrs (bankOf a)).getD 0 + 1) } := ⟨rfl, rfl, rfl, rfl, rfl⟩
  unfold correctedAt
  dsimp only
  split
  · exact h.trans (booked_corrected ..)
  · exact h.trans (booked_errReport ..)

theorem exec_softError {s : State} (hw : Works s) (place : ErrPlace) (correctable : Bool) :
    exec (.softError place correctable) s = .next (softError place correctable s) :=
  congrArg Host.Outcome.next (whileWorking_works hw _)

/-! ### Drains (R301, R303) -/

theorem liveOf_setLive_same (s : State) (pc : Nat) (l : Live) : liveOf (setLive s pc l) pc = l := by
  simp [liveOf, setLive]

theorem liveOf_setLive_ne (s : State) {pc qc : Nat} (l : Live) (h : qc ≠ pc) : liveOf (setLive s pc l) qc = liveOf s qc := by
  simp [liveOf, setLive, smGet_smSet_ne _ _ _ _ h]

/-- One core of a quad that leaves service on the account of core `c` of it. -/
def drainOne (q c cause : Nat) (s : State) (k : Nat) : State :=
  setLive s (4 * q + k) { liveOf s (4 * q + k) with entry := { (liveOf s (4 * q + k)).entry with
    state := .drained, cause := BitVec.ofNat 8 (if k = c % 4 then cause else 5) } }

theorem drained_foldl (q c cause : Nat) {k : Nat} (l : List Nat) (s : State)
    (h : k ∈ l ∨ (liveOf s (4 * q + k)).entry.state = .drained) :
    (liveOf (l.foldl (drainOne q c cause) s) (4 * q + k)).entry.state = .drained := by
  induction l generalizing s with
  | nil => simpa using h
  | cons j l ih =>
    refine ih _ ?_
    by_cases hj : k = j
    · subst hj
      exact .inr (congrArg (·.entry.state) (liveOf_setLive_same ..))
    · refine (h.imp (fun h => (List.mem_cons.mp h).resolve_left hj) fun h => ?_)
      rwa [drainOne, liveOf_setLive_ne _ _ (by omega)]

/-- Nothing but the gauges and the drains of the life of the part changes. -/
def SameMap (s s' : State) : Prop := ∃ x, s' = { s with life := { s.life with live := x } }

theorem SameMap.refl (s : State) : SameMap s s := ⟨s.life.live, rfl⟩

theorem SameMap.foldl {α : Type} {f : State → α → State} (h : ∀ s a, SameMap s (f s a)) (l : List α) (s : State) :
    SameMap s (l.foldl f s) := by
  induction l generalizing s with
  | nil => exact .refl s
  | cons a l ih =>
    obtain ⟨x, hx⟩ := h s a
    obtain ⟨y, hy⟩ := ih (f s a)
    exact ⟨y, by rw [List.foldl_cons, hy, hx]⟩

/-- A healthy core's quad is drained, and waits for its place to be taken. -/
theorem drainQuad_healthy {s : State} {c : Nat} (cause : Nat) (h : healthOf s c = .healthy) :
    ∃ s1 spare, SameMap s s1 ∧ (liveOf s1 (physCore s c)).entry.state = .drained ∧
      drainQuad s c cause = { s1 with life := { s1.life with
        draining := s1.life.draining ++ [(physQuad s (quadOf c), spare)] } } := by
  have hstate := drained_foldl (physQuad s (quadOf c)) c cause (k := c % 4) (List.range 4) s
    (.inl (List.mem_range.mpr (Nat.mod_lt _ (by decide))))
  rw [drainQuad, if_pos (by simp [h]), physCore, mul_comm]
  exact ⟨(List.range 4).foldl (drainOne (physQuad s (quadOf c)) c cause) s, _, SameMap.foldl (fun s k => ⟨_, rfl⟩) _ s,
    hstate, rfl⟩

theorem drainsStart {s : State} {c : Nat} (h : healthOf s c = .healthy) :
    Leaves (.drainStart c 3) s fun s' => healthOf s' c = .drained ∧ s'.mem = s.mem ∧
      ∃ d, s'.life.draining = s.life.draining ++ [d] ∧ d.1 = physQuad s (quadOf c) := by
  obtain ⟨s1, spare, ⟨x, rfl⟩, hstate, he⟩ := drainQuad_healthy 3 h
  refine ⟨_, congrArg Host.Outcome.next he, hstate, rfl, _, rfl, rfl⟩

/-! ### The end of a drain (R301, R304) -/

theorem life_modThread (s : State) (c i : Nat) (f : Thread → Thread) : (modThread s c i f).life = s.life := by
  obtain ⟨k, h⟩ := modThread_eq s c i f
  rw [h]

theorem life_modPend (s : State) (c i : Nat) (f : Thread → Thread) : (modPend s c i f).life = s.life := by
  obtain ⟨k, h⟩ := modPend_eq s c i f
  rw [h]

theorem life_onPair (s : State) (c i : Nat) (f : Thread → Thread) : (onPair s c i f).life = s.life := by
  unfold onPair
  split
  · exact (life_modThread ..).trans (life_modThread ..)
  · exact life_modThread ..

theorem life_foldl {α : Type} {f : State → α → State} (h : ∀ s a, (f s a).life = s.life) (l : List α) (s : State) :
    (l.foldl f s).life = s.life :=
  List.foldlRecOn (motive := fun s' : State => s'.life = s.life) _ _ rfl fun s' hs' a _ => (h s' a).trans hs'

theorem life_releaseHolder (s : State) (c : Nat) (e : Joint) : (releaseHolder s c e).life = s.life := by
  unfold releaseHolder
  dsimp only
  split
  · exact life_modThread ..
  · rfl

theorem life_moveThread (c : Nat) (s : State) (i : Nat) : (moveThread c s i).life = s.life := by
  refine (life_modPend ..).trans ?_
  unfold forceRelease
  split
  · exact life_modPend ..
  · rfl

/-- The move of a core's threads to a spare leaves the gauges and the map alone. -/
theorem life_moveCore (s : State) (c : Nat) : (moveCore s c).life = s.life :=
  calc (moveCore s c).life
    _ = _ := life_foldl (fun s i => life_onPair s c i releaseThread) _ _
    _ = _ := life_foldl (life_moveThread c) _ _
    _ = s.life := life_foldl (fun s e => life_releaseHolder s c e) _ s

/-- A request for a replacement changes the summaries alone. -/
theorem askReplace_map (s : State) (d : Nat) :
    (askReplace s d).life.quadMap = s.life.quadMap ∧ (askReplace s d).life.draining = s.life.draining := by
  unfold askReplace
  dsimp only
  rw [(noted_errReport _ 11 none none 0 0).life]
  exact ⟨rfl, rfl⟩

/-- A quad that retires with a spare gives it its logical quad, and is no longer drained. -/
theorem retireQuad_map (s : State) (q p l : Nat) :
    (retireQuad s q (some p) (some l)).life.quadMap = smSet s.life.quadMap l p ∧
      (retireQuad s q (some p) (some l)).life.draining = s.life.draining.filter fun x => x.1 != q := by
  have h1 : SameMap s ((List.range 4).foldl (fun s j => setHealth s (4 * q + j) .retired 0xFFFF) s) :=
    SameMap.foldl (fun s j => ⟨_, rfl⟩) _ s
  have h2 (s2 : State) : SameMap s2
      ((List.range 4).foldl (fun s j => setHealth s (4 * p + j) .healthy (BitVec.ofNat 16 (4 * l + j))) s2) :=
    SameMap.foldl (fun s j => ⟨_, rfl⟩) _ s2
  obtain ⟨x, hx⟩ := h1
  unfold retireQuad
  dsimp only
  rw [hx]
  obtain ⟨y, hy⟩ := h2 { s with life := { s.life with
    live := x
    sums := s.life.sums.setIfInBounds (q / 4160)
      { (s.life.sums[q / 4160]?).getD ⟨0, 0, false⟩ with
        spares := ((s.life.sums[q / 4160]?).getD ⟨0, 0, false⟩).spares - 1 }
    draining := s.life.draining.filter fun x => x.1 != q } }
  rw [hy]
  split
  · exact askReplace_map ..
  · exact ⟨rfl, rfl⟩

theorem drainsComplete {s : State} {q l p : Nat} (hd : s.life.draining.find? (fun d => d.1 = q) = some (q, some p))
    (hr : drainReady s q = true) (hl : logicalQuad s q = some l) :
    Leaves (.drainComplete q) s fun s' => physQuad s' l = p ∧ ∀ d ∈ s'.life.draining, d.1 ≠ q := by
  have hlife : ((List.range 4).foldl (fun s j => moveCore s (4 * l + j)) (retireQuad s q (some p) (some l))).life =
      (retireQuad s q (some p) (some l)).life := life_foldl (fun s j => life_moveCore s _) _ _
  obtain ⟨hmap, hdrain⟩ := retireQuad_map s q p l
  refine ⟨(List.range 4).foldl (fun s j => moveCore s (4 * l + j)) (retireQuad s q (some p) (some l)), ?_, ?_, ?_⟩
  · show execDrainComplete q s = _
    simp only [execDrainComplete, hd, hr, hl, Bool.not_true, Bool.false_eq_true, if_false]
  · rw [physQuad, hlife, hmap, smGet_smSet_same, Option.getD_some]
  · intro d hd
    rw [hlife, hdrain] at hd
    simpa using (List.mem_filter.mp hd).2

/-! ### The end of a presence (R303) -/

theorem presenceEnds {s : State} {q : Nat} (hr : relocating s (4 * q) = false)
    (hd : ∀ j, j < 4 → healthOf s (4 * q + j) = .drained) :
    Leaves (.corePresenceEnd q) s fun s' => (∀ j, j < 4 → presentCore s' (4 * q + j) = false) ∧ s'.mem = s.mem := by
  have hall : ((List.range 4).all fun j =>
      healthOf s (4 * q + j) = .drained || healthOf s (4 * q + j) = .retired) = true := by
    refine List.all_eq_true.mpr fun j hj => ?_
    simp [hd j (List.mem_range.mp hj)]
  refine ⟨{ s with life := { s.life with gone := setAdd s.life.gone q } }, ?_, fun j hj => ?_, rfl⟩
  · show execCorePresenceEnd q s = _
    simp only [execCorePresenceEnd, hr, hall, Bool.not_false, Bool.and_self, if_true]
  · have hq : quadOf (4 * q + j) = q := by
      unfold quadOf
      omega
    simp [presentCore, hq, mem_setAdd]

theorem errorsAndDrains : Claim.ErrorsAndDrains := by
  refine fun s hw => ⟨fun a => exec_softError hw .., fun c i t ht => ?thread, fun c n hn => ?tile, ?control, ?package,
    fun a => ?corrected, fun c h => drainsStart h, fun q l p hd hr hl => drainsComplete hd hr hl,
    fun q hr hd => presenceEnds hr hd⟩
  case thread =>
    exact (exec_softError hw ..).trans (congrArg _ (modThread_some s c i (fun t => { t with killed := true }) t ht))
  case tile =>
    refine ⟨_, exec_softError hw .., ?_, rfl⟩
    show n ∈ (getCore (modCore s c fun k => { k with accBad := setAdd k.accBad (n % 4) }) c).accBad
    rw [getCore_modCore_same, Nat.mod_eq_of_lt hn]
    exact mem_setAdd ..
  case control => exact ⟨_, exec_softError hw .., fatal_fatalStop ..⟩
  case package => exact ⟨_, exec_softError hw .., fatal_fatalStop ..⟩
  case corrected => exact ⟨_, exec_softError hw .., (booked_correctedAt s a).cores, (booked_correctedAt s a).front⟩

end Sys2Proof.Machine

/-! Power, lifetime, start-up and the side band (the rest of O60; R295 to R301, R359 to R361, R368, R369). -/

namespace Sys2Proof.Machine

/-! ### Clocks (R369) -/

theorem clockOf_setClock (s : State) {d : Nat} (mhz e : Nat) (hd : d < 4) :
    clockOf (setClock s d mhz) e = if e = d then mhz else clockOf s e := by
  have hset : clockOf { s with cc := { s.cc with clock := s.cc.clock.setIfInBounds d mhz } } e =
      if e = d then mhz else clockOf s e := by
    split
    · next h =>
      subst h
      simp [clockOf, hd]
    · next h => simp only [clockOf, Vector.getElem?_setIfInBounds_ne (Ne.symm h)]
  unfold setClock
  split
  · next h =>
    split
    · next he => exact he ▸ h
    · rfl
  · rw [← hset]
    dsimp only
    split
    · exact Noted.clockOf ((noted_forgetTimes _ d).trans (Noted.foldl (fun s c => by
        split
        · exact noted_traceRecord ..
        · exact .refl s) _ _)) e
    · exact (noted_forgetTimes _ d).clockOf e

theorem clockOf_lowerAll (s : State) {d : Nat} (hd : d < 4) : clockOf (lowerAll s) d = max 470 (clockOf s d - 10) := by
  have h : lowerAll s = ([0, 1, 2, 3] : List Nat).foldl (fun s d => setClock s d (max 470 (clockOf s d - 10))) s := rfl
  rw [h]
  simp only [List.foldl_cons, List.foldl_nil]
  interval_cases d <;> simp [clockOf_setClock]

/-- A millisecond in which the package takes too much power lowers the clocks of the dies first. -/
theorem powerTick_lowers {s : State} (ha : Config.powerLimit < average s.cc.samples) (hc : ∃ d, d < 4 ∧ 470 < clockOf s d)
    {d : Nat} (hd : d < 4) : clockOf (powerTick [] s) d = max 470 (clockOf s d - 10) := by
  have hany : ((List.range 4).any fun d => clockOf s d > 470) = true := by
    obtain ⟨e, he, h⟩ := hc
    exact List.any_eq_true.mpr ⟨e, List.mem_range.mpr he, decide_eq_true h⟩
  have hadj : powerAdjust [] s = lowerAll s := by
    have hno : ¬ average s.cc.samples * 100 < Config.powerLimit * 97 := by omega
    simp only [powerAdjust, powerStep, hany, gt_iff_lt, ha, hno, if_true, if_false]
    rfl
  have hstop (s : State) : clockOf (fatalStop s 20 none none) d = clockOf s d := (noted_fatalStop s 20 none none).clockOf d
  simp only [powerTick, hadj]
  split
  · rw [hstop, clockOf_lowerAll s hd]
  · exact clockOf_lowerAll s hd

/-- With every clock at its lowest, cycles are withheld. -/
theorem powerTick_withholds {s : State} (ha : Config.powerLimit < average s.cc.samples)
    (hc : ∀ d, d < 4 → clockOf s d ≤ 470) (he : s.cc.eighths < 7) (ho : s.cc.overMs < 10) :
    powerTick [] s = { s with cc := { s.cc with eighths := s.cc.eighths + 1 } } := by
  have hany : ((List.range 4).any fun d => clockOf s d > 470) = false := by
    refine List.any_eq_false.mpr fun d hd => ?_
    simpa using hc d (List.mem_range.mp hd)
  have hadj : powerAdjust [] s = setEighths s (s.cc.eighths + 1) := by
    have hno : ¬ average s.cc.samples * 100 < Config.powerLimit * 97 := by omega
    simp only [powerAdjust, powerStep, hany, gt_iff_lt, ha, he, hno, Bool.false_eq_true, if_true, if_false]
    rfl
  have hms : ¬ (setEighths s (s.cc.eighths + 1)).cc.overMs ≥ 10 := Nat.not_le.mpr ho
  simp only [powerTick, hadj, hms, decide_false, List.any_nil, Bool.or_self, Bool.false_eq_true, if_false]
  rfl

/-! ### The lifetime record (R297 to R300) -/

/-- A table over the first `n` numbers. -/
theorem smGet_table {α : Type} (f : Nat → α) (n a : Nat) :
    smGet ((List.range n).map fun k => (k, f k)) a = if a < n then some (f a) else none := by
  suffices h : ∀ (l : List Nat), smGet (l.map fun k => (k, f k)) a = if a ∈ l then some (f a) else none by
    simpa only [List.mem_range] using h (List.range n)
  intro l
  induction l with
  | nil => rfl
  | cons k l ih =>
    rw [List.map_cons, smGet, ih]
    by_cases h : k = a
    · simp [h]
    · simp [h, Ne.symm h]

theorem toNat_gauge (old : BitVec 16) (k : Nat) :
    (gauge old k).toNat = old.toNat + Config.freeNat k % (65536 - old.toNat) := by
  have hold := old.isLt
  have hmod := Nat.mod_lt (Config.freeNat k) (show 65536 - old.toNat > 0 by omega)
  rw [gauge, BitVec.toNat_ofNat, Nat.mod_eq_of_lt (by omega)]

theorem gauge_mono (old : BitVec 16) (k : Nat) : old ≤ gauge old k := by
  rw [BitVec.le_def, toNat_gauge]
  exact Nat.le_add_right ..

/-- The class of a core is at most 31, and never falls (R300). -/
theorem classOf_mono (e : CoreEntry) : e.cls ≤ BitVec.ofNat 5 (classOf e) := by
  have hcls := e.cls.isLt
  have h : classOf e ≤ 31 := max_le (by omega) (min_le_left ..)
  rw [BitVec.le_def, BitVec.toNat_ofNat, Nat.mod_eq_of_lt (by omega)]
  exact le_max_left ..

/-- A core's entry with another powered hour counted and its gauges read, before its class is. -/
def aged (free pc : Nat) (l : Live) : CoreEntry :=
  { l.entry with
    hours := l.entry.hours + 1, bti := gauge l.entry.bti (free + 2 * pc), em := gauge l.entry.em (free + 2 * pc + 1)
    tavg := if l.tempCount = 0 then l.entry.tavg else BitVec.ofNat 8 (min 255 (l.tempSum / l.tempCount)) }

/-- The same with its class. -/
def classed (free pc : Nat) (l : Live) : CoreEntry :=
  { aged free pc l with cls := BitVec.ofNat 5 (classOf (aged free pc l)) }

/-- Beside its class, wear may only derate a core (R300, R301). -/
theorem entry_hourly (free pc : Nat) (l : Live) :
    ∃ h x, (hourly free pc l).entry = { classed free pc l with state := h, cause := x } := by
  have e : (hourly free pc l).entry =
      if (classed free pc l).state = .healthy && (classed free pc l).cls.toNat ≥ 24 then
        { classed free pc l with state := .derated, cause := 1 }
      else classed free pc l := rfl
  rw [e]
  split
  · exact ⟨_, _, rfl⟩
  · exact ⟨_, _, rfl⟩

/-- What a powered hour makes of a core's entry. -/
theorem hourly_entry (free pc : Nat) (l : Live) :
    let e := (hourly free pc l).entry
    e.hours = l.entry.hours + 1 ∧ e.wu = l.entry.wu ∧ e.corr = l.entry.corr ∧ e.uncorr = l.entry.uncorr ∧
      e.tmax = l.entry.tmax ∧ e.lcore = l.entry.lcore ∧ l.entry.bti ≤ e.bti ∧ l.entry.em ≤ e.em ∧ l.entry.cls ≤ e.cls := by
  obtain ⟨h, x, he⟩ := entry_hourly free pc l
  rw [he]
  exact ⟨rfl, rfl, rfl, rfl, rfl, rfl, gauge_mono .., gauge_mono .., classOf_mono (aged free pc l)⟩

/-- Drains change the gauges and the list of drains, and nothing else. -/
def OnlyDrains (s s' : State) : Prop :=
  ∃ x y, s' = { s with life := { s.life with live := x, draining := y } }

theorem OnlyDrains.trans {s s' s'' : State} (h : OnlyDrains s s') (g : OnlyDrains s' s'') : OnlyDrains s s'' := by
  obtain ⟨x, y, rfl⟩ := h
  obtain ⟨z, w, rfl⟩ := g
  exact ⟨z, w, rfl⟩

theorem OnlyDrains.keeps {s s' : State} (h : OnlyDrains s s') :
    s'.life.record = s.life.record ∧ s'.life.recordSums = s.life.recordSums ∧ s'.life.hoursMade = s.life.hoursMade ∧
      s'.mem = s.mem := by
  obtain ⟨x, y, rfl⟩ := h
  exact ⟨rfl, rfl, rfl, rfl⟩

theorem SameMap.onlyDrains {s s' : State} (h : SameMap s s') (l : List (Nat × Option Nat)) :
    OnlyDrains s { s' with life := { s'.life with draining := s'.life.draining ++ l } } := by
  obtain ⟨x, rfl⟩ := h
  exact ⟨x, _, rfl⟩

theorem onlyDrains_drainQuad (s : State) (c cause : Nat) : OnlyDrains s (drainQuad s c cause) := by
  unfold drainQuad
  split
  · exact (SameMap.foldl (fun s k => ⟨_, rfl⟩) (List.range 4) s).onlyDrains _
  · exact ⟨s.life.live, s.life.draining, rfl⟩

theorem onlyDrains_drainWorn (s : State) : OnlyDrains s (drainWorn s) :=
  List.foldlRecOn (motive := OnlyDrains s) _ _ ⟨s.life.live, s.life.draining, rfl⟩
    fun _ h e _ => h.trans (onlyDrains_drainQuad _ e.2.entry.lcore.toNat 1)

/-- The gauges of every physical core after another powered hour. -/
def hourlyLive (s : State) : List (Nat × Live) :=
  (List.range physCores).map fun pc => (pc, hourly s.free pc (liveOf s pc))

/-- The package with its lifetime record written, before worn quads drain. -/
def recorded (s : State) : State :=
  { s with
    free := s.free + 2 * physCores
    life := { s.life with
      live := hourlyLive s, record := (hourlyLive s).map fun e => (e.1, e.2.entry), recordSums := s.life.sums
      hoursMade := s.life.hoursMade + 1 } }

theorem exec_lifetimeWrite (s : State) : exec .lifetimeWrite s = .next (drainWorn (recorded s)) := rfl

theorem smGet_recorded (s : State) (n : Nat) :
    smGet (recorded s).life.record n = if n < physCores then some (hourly s.free n (liveOf s n)).entry else none := by
  have h : (recorded s).life.record = (List.range physCores).map fun pc => (pc, (hourly s.free pc (liveOf s pc)).entry) := by
    simp only [recorded, hourlyLive, List.map_map, Function.comp_def]
  rw [h, smGet_table]

theorem writesRecord (s : State) :
    Leaves .lifetimeWrite s fun s' =>
      s'.life.recordSums = s.life.sums ∧ s'.life.hoursMade = s.life.hoursMade + 1 ∧ s'.mem = s.mem ∧
      (∀ n, 66560 ≤ n → smGet s'.life.record n = none) ∧
      ∀ n, n < 66560 → ∃ e, smGet s'.life.record n = some e ∧
        let old := (liveOf s n).entry
        e.hours = old.hours + 1 ∧ e.wu = old.wu ∧ e.corr = old.corr ∧ e.uncorr = old.uncorr ∧ e.tmax = old.tmax ∧
        e.lcore = old.lcore ∧ old.bti ≤ e.bti ∧ old.em ≤ e.em ∧ old.cls ≤ e.cls := by
  refine ⟨_, exec_lifetimeWrite s, ?_⟩
  obtain ⟨hrec, hsums, hhours, hmem⟩ := (onlyDrains_drainWorn (recorded s)).keeps
  rw [hrec, hsums, hhours, hmem]
  refine ⟨by rw [recorded], by rw [recorded], by rw [recorded], fun n hn => ?_, fun n hn => ?_⟩
  · exact (smGet_recorded s n).trans (if_neg (show ¬ n < physCores from Nat.not_lt.mpr hn))
  · exact ⟨_, (smGet_recorded s n).trans (if_pos (show n < physCores from hn)), hourly_entry ..⟩

/-! ### Power loss (R298; log entries 2, 26 and 27) -/

/-- The package's own bytes are those of no host memory and of no other package. -/
theorem ownByte_flat {p : Place} (b : Byte) (hp : PlaceExists p) (hf : ∀ d a, p ≠ .frame d a) :
    ownByte (flat p, b) = true ↔ ∀ a k d, p ≠ .host a ∧ p ≠ .peer k d a := by
  rw [ownByte, decide_eq_true_iff]
  cases p with
  | frame d a => exact absurd rfl (hf d a)
  | host a => exact iff_of_false (by simp only [flat]; omega) fun h => (h a 0 0).1 rfl
  | peer k d a => exact iff_of_false (by simp only [flat]; omega) fun h => (h a k d).2 rfl
  | _ =>
    simp only [PlaceExists] at hp
    exact iff_of_true (by simp only [flat]; omega) fun a k d => ⟨nofun, nofun⟩

theorem powerAndLife : Claim.PowerAndLife := by
  refine fun s hw => ⟨fun c temp mv => ?stress, fun w => rfl, fun ha hc => ?lowers, fun ha hc he ho => ?withholds,
    writesRecord s, ⟨_, rfl, rfl, rfl, rfl, rfl, rfl, rfl, rfl, rfl, rfl, rfl, rfl, rfl⟩, fun p b hp hf => ownByte_flat b hp hf⟩
  case stress =>
    refine ⟨_, rfl, rfl, ?_, ?_⟩
    · exact congrArg Live.temp (liveOf_setLive_same ..)
    · exact congrArg Core.vt (getCore_modCore_same _ c _)
  case lowers =>
    exact ⟨_, congrArg Host.Outcome.next (whileWorking_works hw _), fun d hd => powerTick_lowers ha hc hd⟩
  case withholds =>
    exact congrArg Host.Outcome.next ((whileWorking_works hw _).trans (powerTick_withholds ha hc he ho))

/-! ### Start-up (R359, R360; log entry 27) -/

/-- A step of a start that finds everything in order, with its two entries in the log. -/
def plainStep (s : State) (start : Word) (z : Starting) (n : Nat) : Starting :=
  { stepDone .plain z n 0 with log := z.log ++ [startEnt .plain s z start n 0 0, startEnt .plain s z start n 0 1] }

theorem diesAfter_plain (d : BitVec 4) (n : Nat) : diesAfter .plain d n 0 = d := by
  unfold diesAfter
  split_ifs with h4 h5
  · rfl
  · simp at h5
  · rfl

/-- No step in order excludes a die or ends in recovery mode. -/
theorem plainStep_keeps (s : State) (start : Word) (z : Starting) (n : Nat) :
    (plainStep s start z n).dies = z.dies ∧ (plainStep s start z n).recov = z.recov := by
  simp only [plainStep, stepDone, diesAfter_plain]
  split_ifs <;> exact ⟨rfl, rfl⟩

theorem runStep_plain {s : State} (hlog : s.life.startLog = []) (start : Word) (retry : Bool) {z : Starting}
    (hd : z.dies = 0xF) (hr : z.recov = false) (n : Nat) : runStep .plain s start retry z n = plainStep s start z n := by
  have hfirst : firstVariant s.life.startLog (start - 1) retry n = some 0 := by
    rw [hlog]
    cases retry <;> rfl
  have hok : variantFails .plain z n 0 = false := by
    have hc : bitCount (controlsAfter .plain 0) = 16 := by decide
    have hf : Found.plain.failing = [] := rfl
    simp [variantFails, diesAfter_plain, hd, hc, hf]
  obtain ⟨k, hk⟩ : ∃ k, stepVariants n = k + 1 := by
    unfold stepVariants
    split <;> exact ⟨_, rfl⟩
  rw [runStep, hr, if_neg Bool.false_ne_true, hfirst]
  simp only [hk, Nat.sub_zero, runVariants, hok, Bool.false_eq_true, if_false]
  rfl

theorem runSteps_plain {s : State} (hlog : s.life.startLog = []) (start : Word) (retry : Bool) (l : List Nat) (z : Starting)
    (hd : z.dies = 0xF) (hr : z.recov = false) :
    l.foldl (runStep .plain s start retry) z = l.foldl (plainStep s start) z := by
  induction l generalizing z with
  | nil => rfl
  | cons n l ih =>
    obtain ⟨hdies, hrecov⟩ := plainStep_keeps s start z n
    rw [List.foldl_cons, runStep_plain hlog start retry hd hr, List.foldl_cons]
    exact ih _ (hdies.trans hd) (hrecov.trans hr)

/-- What is carried from step to step beside the log does not depend on the log. -/
theorem forgetLog_plainStep (s : State) (start : Word) (z : Starting) (n : Nat) :
    ({ plainStep s start z n with log := [] } : Starting) = stepDone .plain { z with log := [] } n 0 := by
  simp only [plainStep, stepDone]
  split_ifs <;> rfl

theorem forgetLog_plainSteps (s : State) (start : Word) (l : List Nat) (z : Starting) :
    ({ l.foldl (plainStep s start) z with log := [] } : Starting) =
      l.foldl (fun z n => stepDone .plain z n 0) { z with log := [] } := by
  induction l generalizing z with
  | nil => rfl
  | cons n l ih => rw [List.foldl_cons, ih, forgetLog_plainStep, List.foldl_cons]

/-- The steps of a start in order bring up every die, control core, link and port. -/
theorem plainSteps (s : State) (start : Word) : ∃ log,
    ((List.range 34).map (· + 1)).foldl (plainStep s start) ⟨[], 0xF, 0, 0, 0, 0, [], false⟩ =
      ⟨log, 0xF, 0xFFFF, 0, 0xFFFF, 0xFF, [], false⟩ := by
  have h := forgetLog_plainSteps s start ((List.range 34).map (· + 1)) ⟨[], 0xF, 0, 0, 0, 0, [], false⟩
  have hsteps : ((List.range 34).map (· + 1)).foldl (fun z n => stepDone .plain z n 0) ⟨[], 0xF, 0, 0, 0, 0, [], false⟩ =
      ⟨[], 0xF, 0xFFFF, 0, 0xFFFF, 0xFF, [], false⟩ := by decide
  rw [hsteps] at h
  generalize ((List.range 34).map (· + 1)).foldl (plainStep s start) ⟨[], 0xF, 0, 0, 0, 0, [], false⟩ = z at h ⊢
  obtain ⟨log, dies, controls, image, links, ports, failed, recov⟩ := z
  simp only [Starting.mk.injEq, true_and] at h
  obtain ⟨rfl, rfl, rfl, rfl, rfl, rfl, rfl⟩ := h
  exact ⟨log, rfl⟩

theorem startsUp {s : State} (hlog : s.life.startLog = []) : ∃ log,
    exec (.startup .plain) s =
      .next (started s .plain ⟨log, 0xF, 0xFFFF, 0, 0xFFFF, 0xFF, [], false⟩ (s.life.starts + 1)) := by
  obtain ⟨log, h⟩ := plainSteps s (s.life.starts + 1)
  refine ⟨log, ?_⟩
  show execStartup .plain s = _
  rw [execStartup, runSteps_plain hlog _ _ _ _ rfl rfl, h]

/-! ### The side band (R361, R368; log entry 28) -/

/-- A dump is answered while the host link is down or contained. -/
theorem dumps {s : State} (r o n : Nat) (h : hostDown s = true) :
    exec (.sidebandDump r o n) s =
      .next (answer s ((List.range (min n 48)).filterMap fun k => dumpByte s r (o + k))) := by
  show execSidebandDump r o n s = _
  rw [execSidebandDump, if_pos h]

theorem startAndSideBand : Claim.StartAndSideBand := by
  refine fun s => ⟨fun hlog => ?start, fun n => rfl, rfl, fun r o n => ⟨fun hf => ?bytes, fun hf hd => ?none,
    fun hf hr hb => ?working⟩⟩
  case start =>
    obtain ⟨log, h⟩ := startsUp hlog
    exact ⟨_, h, rfl, rfl, rfl, rfl, rfl, rfl, rfl, rfl, rfl, rfl⟩
  case bytes =>
    refine ⟨_, dumps 5 o n (by simp [hostDown, hf]), ?_, rfl⟩
    have hbytes : ((List.range (min n 48)).filterMap fun k => dumpByte s 5 (o + k)) =
        (List.range (min n 48)).map fun k => readByte s (physPlace (o + k)) := by
      simp only [dumpByte, hf, if_true]
      exact congrFun (List.filterMap_eq_map (f := fun k => readByte s (physPlace (o + k)))) _
    rw [hbytes]
    rfl
  case none =>
    have hdown : hostDown s = true := by rcases hd with h | h <;> simp [hostDown, h]
    refine ⟨_, dumps 5 o n hdown, ?_, rfl⟩
    have hbytes : ((List.range (min n 48)).filterMap fun k => dumpByte s 5 (o + k)) = [] := by
      simp [dumpByte, hf]
    rw [hbytes]
    rfl
  case working =>
    show execSidebandDump r o n s = _
    simp [execSidebandDump, hostDown, hf, hr, hb]

/-- Settles O60: reports, trace records and drains by what they leave alone, the power loop by the clocks that it sets, the
lifetime record by its table over the cores, a start by its steps with the log forgotten. -/
theorem packageEvents : Obligations.PackageEvents := ⟨linkEvents, errorsAndDrains, powerAndLife, startAndSideBand⟩

end Sys2Proof.Machine

/-! Copies and tags (O48; R207, R209, R211 to R214, R218, R223). What the engine reads as a copy is issued changes the state
by its walks and counts alone, so that the copy stands last in the queue of a core that is otherwise as it was. -/

namespace Sys2Proof.Machine

/-! ### What the engine's reads leave (R214, R328) -/

/-- However a translation of an engine ends, walks and counts alone have changed the state. -/
def EngLoc.Walks (s : State) : EngLoc → Prop
  | .at s' _ => Walked s s'
  | .held => True
  | .fault s' _ _ => Walked s s'

theorem walks_engineXlate (s : State) (c asn : Nat) (need : Need) (va : Nat) (fresh : Bool) :
    (engineXlate s c asn need va fresh).Walks s := by
  have hw := walked_walkAll c asn need 5 s va
  have hmarks (ps : List Place) := hw.counted (counts_countMarks c ps)
  unfold engineXlate
  dsimp only
  split
  next p v passed _ =>
    split
    · trivial
    · cases fresh
      · exact hw.counted (counts_backInvalidate p)
      · exact hw.counted (counts_countAll c p passed)
  next => exact hw
  next passed _ => exact hmarks passed
  next passed _ => exact hmarks passed

/-- The same of the place of a word. -/
def EngAt.Walks (s : State) : EngAt → Prop
  | .at s' _ => Walked s s'
  | .held => True
  | .fail s' _ => Walked s s'

theorem walks_engAt (s : State) (c asn : Nat) (need : Need) (e : Nat) (off : Int) (fresh : Bool) :
    (engAt s c asn need e off fresh).Walks s := by
  unfold engAt
  dsimp only
  split
  · exact .refl s
  · split
    · exact .refl s
    · exact .refl s
    · exact .refl s
    · have hx := walks_engineXlate s c asn need (engAddr e + off).toNat fresh
      split
      all_goals
        next h =>
          rw [h] at hx
          exact hx
    · split <;> exact .refl s
    · exact .refl s

/-- The same of a word that is read. -/
def Got.Walks {α : Type} (s : State) : Got α → Prop
  | .val s' _ => Walked s s'
  | .held => True
  | .fail s' _ _ _ => Walked s s'

/-- Where no access is outstanding and no word is bad, a read settles nothing and meets no error. -/
theorem walks_engRead {s : State} (hf : s.flight = []) (hb : s.bads = []) (c : Nat) (o : CopyOp) (e : Nat) (off : Int) :
    (engRead s c o e off).Walks s := by
  have hw := walks_engAt s c o.asn needR e off (freshAt o e off false)
  unfold engRead
  split
  next => trivial
  next h =>
    rw [h] at hw
    exact hw
  next s1 p h =>
    rw [h] at hw
    have hw : Walked s s1 := hw
    obtain ⟨-, -, hf1, -, hb1⟩ := hw.keeps
    rw [hf] at hf1
    rw [hb] at hb1
    simp only [settleEarlier_none _ _ _ _ hf1, pathHeld_none _ _ _ _ hf1, anyBad_clear _ _ _ hb1, Bool.false_eq_true,
      if_false]
    exact hw

/-- The first index of a list is read before the rest of it. -/
theorem readIndices_cons {c j : Nat} {js : List Nat} {s s' : State} {o : CopyOp} {l : List Index} (hf : s.flight = [])
    (hb : s.bads = []) (h : readIndices c o (j :: js) s = some (s', l)) :
    ∃ s1 x l1, Walked s s1 ∧ readIndices c (touch o o.idx (4 * j) false) js s1 = some (s', l1) ∧ l = x :: l1 := by
  have hw := walks_engRead hf hb c o o.idx (4 * j)
  unfold readIndices at h
  dsimp only at h
  split at h
  next s1 w he =>
    rw [he] at hw
    obtain ⟨⟨s2, l1⟩, hr, hl⟩ := Option.map_eq_some_iff.mp h
    cases hl
    exact ⟨s1, .at w.toNat, l1, hw, hr, rfl⟩
  next => cases h
  next s1 st e who he =>
    rw [he] at hw
    obtain ⟨⟨s2, l1⟩, hr, hl⟩ := Option.map_eq_some_iff.mp h
    cases hl
    exact ⟨s1, .fails st e, l1, hw, hr, rfl⟩

/-- A list is read whole, an index for each of its words. -/
theorem readIndices_some {c : Nat} {js : List Nat} {s s' : State} {o : CopyOp} {l : List Index} (hf : s.flight = [])
    (hb : s.bads = []) (h : readIndices c o js s = some (s', l)) : Walked s s' ∧ l.length = js.length := by
  induction js generalizing s o l with
  | nil =>
    cases h
    exact ⟨.refl _, rfl⟩
  | cons j js ih =>
    obtain ⟨s1, x, l1, hs1, hr, rfl⟩ := readIndices_cons hf hb h
    obtain ⟨-, -, hf1, -, hb1⟩ := hs1.keeps
    obtain ⟨hs', hlen⟩ := ih (hf1.trans hf) (hb1.trans hb) hr
    exact ⟨hs1.trans hs', congrArg (· + 1) hlen⟩

/-- The kinds of operation that read a list. -/
def CopyKind.listed : CopyKind → Bool
  | .gth | .sct => true
  | _ => false

theorem indicesOf_eq (s : State) (c : Nat) (o : CopyOp) :
    indicesOf s c o = if o.kind.listed then readIndices c o (List.range o.count) s else some (s, []) := by
  unfold indicesOf
  cases o.kind <;> rfl

/-- An operation with a list reads it whole; any other leaves the state as it is. -/
theorem indicesOf_some {c : Nat} {s s' : State} {o : CopyOp} {l : List Index} (hf : s.flight = []) (hb : s.bads = [])
    (h : indicesOf s c o = some (s', l)) :
    Walked s s' ∧ (o.kind.listed = true → l.length = o.count) ∧ (o.kind.listed = false → s' = s ∧ l = []) := by
  rw [indicesOf_eq] at h
  split at h
  next hk =>
    obtain ⟨hw, hlen⟩ := readIndices_some hf hb h
    exact ⟨hw, fun _ => hlen.trans List.length_range, fun hn => absurd (hk.symm.trans hn) (by decide)⟩
  next hk =>
    cases h
    exact ⟨.refl _, fun hl => absurd hl hk, fun _ => ⟨rfl, rfl⟩⟩

/-! ### The queue (R207, R209, R214) -/

/-- An operation stands last in the queue of its core, under a number of its own, and its tag is cleared. -/
def queued (s : State) (c : Nat) (o : CopyOp) : State :=
  modCore { s with serial := s.serial + 1 } c fun k =>
    { k with copyQ := k.copyQ ++ [{ o with id := s.serial }], tags := k.tags &&& ~~~(BitVec.twoPow 64 o.tag) }

/-- An operation that keeps every check of R214 takes its place. -/
theorem placeCopy_queued {b : Word} {x : Ctx} {t : Thread} {s : State} {o : CopyOp}
    (hpast : (writeRanges o).any pastCode = false) (hcode : engSpace o.dst = 5 → x.slot = 0)
    (hr : (readRanges o).all (covered s x.core t false) = true)
    (hw : (writeRanges o).all (covered s x.core t true) = true)
    (hcoll : o.kind = .coll → collPending s x.core o = false) : placeCopy b x t s o = .ok (queued s x.core o) := by
  have hpriv : ¬ (engSpace o.dst = 5 ∧ x.slot ≠ 0) := fun h => h.2 (hcode h.1)
  have hpend : ¬ (o.kind = .coll ∧ collPending s x.core o = true) := fun h => by simp [hcoll h.1] at h
  simp only [placeCopy, hpast, hr, hw, Bool.and_eq_true, decide_eq_true_eq, bne_iff_ne, if_neg hpriv, if_neg hpend]
  rfl

/-- A descriptor that does not keep R212 and R213 traps QUEUE. -/
theorem queueCopy_bad {kind : CopyKind} {a b : Word} {x : Ctx} {t : Thread} {s : State} {ws : List Word}
    (h : copyDescOk (copyOf s x t kind a ws) ws = false) : queueCopy kind a b x t s ws = .trap .queue 0 0 := by
  simp only [queueCopy, h, Bool.not_false, if_true]

/-- One that keeps them goes on to its place with its list. -/
theorem queueCopy_good {kind : CopyKind} {a b : Word} {x : Ctx} {t : Thread} {s s' : State} {ws : List Word}
    {l : List Index} (h : copyDescOk (copyOf s x t kind a ws) ws = true)
    (hl : indicesOf s x.core (copyOf s x t kind a ws) = some (s', l)) :
    queueCopy kind a b x t s ws = placeCopy b x t s' { copyOf s x t kind a ws with index := l } := by
  simp only [queueCopy, h, hl, Bool.not_true, Bool.false_eq_true, if_false]

theorem threadAt_queued (s : State) (c : Nat) (o : CopyOp) (d j : Nat) : threadAt (queued s c o) d j = threadAt s d j :=
  threadAt_modCore (s := { s with serial := s.serial + 1 }) rfl d j

section
variable {u : Use} {s : State} {t : Thread}

theorem copyQ_issuedState : (getCore (issuedState u s t) s.turn).copyQ = (getCore s s.turn).copyQ := by
  rw [getCore_issuedState]
  rfl

/-- The descriptor's operation does not see the issue. -/
theorem copyOf_issuedThread (s1 : State) (x : Ctx) (kind : CopyKind) (a : Word) (ws : List Word) :
    copyOf s1 x (issuedThread u s t) kind a ws = copyOf s1 x t kind a ws := by
  simp only [copyOf, lid_issuedThread, rank_issuedThread, asn_issuedThread]

/-- Coverage looks at the segments of a thread alone. -/
theorem covered_issuedThread (s1 : State) (c : Nat) (w : Bool) :
    covered s1 c (issuedThread u s t) w = covered s1 c t w :=
  funext fun r => by simp only [covered, segs_issuedThread]

/-- An operation that is done leaves its thread at the next address. -/
theorem exec_ok {i : Instr} {op : Ctx → Thread → State → Res} {s' : State} {v : Thread} (he : exec i s = issue u op s)
    (h : Issues u s t) (hop : op (issueCtx u s t) (issuedThread u s t) (issuedState u s t) = .ok s')
    (hv : threadAt s' s.turn (curSlot s) = some v) :
    exec i s = .next (setThread s' s.turn (curSlot s) (goesTo v (pcAfter t u.words))) := by
  rw [exec_issues i u op s t he h, ← issuedState, hop]
  simp only [settle, h.alone, pairStep, issueCtx, advance, modThread_some _ _ _ _ _ hv]
  rfl

end

/-! ### The copy instructions (R207, R211 to R214) -/

section
variable {s : State} {t : Thread} {o : ShU} {kind : CopyKind}

/-- A full queue keeps a copy from its issue. -/
theorem copyOp_full (u : Use) (h : 2 ≤ (getCore s s.turn).copyQ.length) :
    copyOp kind o (issueCtx u s t) (issuedThread u s t) (issuedState u s t) = .wait .waitMem id := by
  simp only [copyOp, issueCtx_core, copyQ_issuedState, ge_iff_le, h, decide_true, Bool.true_or, if_true]

/-- The channel of a copy's notice is one that its thread may name (R214). -/
def ChanOk (a : Word) (slot : Nat) : Prop :=
  a.getLsbD 15 = false ∨ 8 ≤ a.toNat / 65536 % 64 ∨ (4 ≤ a.toNat / 65536 % 64 ∧ slot = 0)

theorem ctlChan_eq (a : Word) : ctlChan a = a.toNat / 65536 % 64 := by
  simp [ctlChan, Nat.shiftRight_eq_div_pow]

theorem ctlScope_eq (a : Word) : ctlScope a = a.toNat / 4096 % 8 := by
  simp [ctlScope, Nat.shiftRight_eq_div_pow]

theorem chanOk_lets {a : Word} {slot : Nat} (h : ChanOk a slot) :
    (ctlNotify a && (decide (ctlChan a ≤ 3) || (decide (ctlChan a ≤ 7) && slot != 0))) = false := by
  rw [ctlChan_eq, ctlNotify]
  rcases h with h | h | ⟨h, h0⟩
  · rw [h, Bool.false_and]
  · rw [decide_eq_false (by omega), decide_eq_false (by omega), Bool.false_and, Bool.or_false, Bool.and_false]
  · rw [decide_eq_false (by omega), h0]
    simp

/-- A copy with room in the queue goes on with the record of its descriptor. -/
theorem copyOp_record {p : Place} (hi : Issues (copyUse o).oncely s t) (hq : (getCore s s.turn).copyQ.length < 2)
    (hch : ChanOk (rdReg t o.a.toNat) (curSlot s))
    (hcoll : kind = .coll → t.convoy = false ∧ (rdReg t o.a.toNat).toNat / 4096 % 8 ≤ 5) (hc : Clear s)
    (hr : RecordAt s t (rdReg t o.b.toNat) 0 p) :
    copyOp kind o (issueCtx (copyUse o).oncely s t) (issuedThread (copyUse o).oncely s t)
        (issuedState (copyUse o).oncely s t) =
      queueCopy kind (rdReg t o.a.toNat) (rdReg t o.b.toNat) (issueCtx (copyUse o).oncely s t)
        (issuedThread (copyUse o).oncely s t) (countedState (copyUse o).oncely s t p)
        (rangeWords (countAll s s.turn p []) [p] 64) := by
  have hconvoy : (decide (kind = .coll) && t.convoy) = false := by
    by_cases hk : kind = .coll
    · simp [(hcoll hk).1]
    · simp [hk]
  have hscope : (decide (kind = .coll) && decide (ctlScope (rdReg t o.a.toNat) > 5)) = false := by
    by_cases hk : kind = .coll
    · simp [ctlScope_eq, (hcoll hk).2]
    · simp [hk]
  have hroom : ¬ (getCore s s.turn).copyQ.length ≥ 2 := by omega
  simp only [copyOp, issueCtx_core, issueCtx_slot, copyQ_issuedState, hroom,
    mayIssue_clear (issuedState (copyUse o).oncely s t) _ hc.flight, rdReg_issuedThread, convoy_issuedThread, hconvoy,
    chanOk_lets hch, hscope, recordOp_clear hi hc hr]
  rfl

end

/-- The five instructions differ in the kind of their operation alone. -/
theorem exec_copy (o : ShU) (s : State) :
    ∀ q ∈ ([(.cpy o, .cpy), (.cpy2 o, .cpy2), (.gth o, .gth), (.sct o, .sct), (.coll o, .coll)] :
      List (Instr × CopyKind)), exec q.1 s = issue (copyUse o).oncely (copyOp q.2 o) s := by
  simp only [List.forall_mem_cons, List.not_mem_nil, false_implies, implies_true, and_true]
  exact ⟨rfl, rfl, rfl, rfl, rfl⟩

theorem copiesQueued : Claim.CopiesQueued := by
  intro s t o p u a ch q hq hi
  have he := exec_copy o s q hq
  refine ⟨fun hfull => waits_of he hi (copyOp_full u hfull), fun hroom hch hcoll hc hr => ?_⟩
  intro s1 ws op
  have hs1 : s1 = countedState u s t p := countAll_issuedState u s t p
  have hrecord : copyOp q.2 o (issueCtx u s t) (issuedThread u s t) (issuedState u s t) =
      queueCopy q.2 a (rdReg t o.b.toNat) (issueCtx u s t) (issuedThread u s t) s1 ws := by
    rw [copyOp_record hi hroom hch hcoll hc hr, ← rangeWords_countedState u s t p, ← hs1]
  have hdesc : copyOf s1 (issueCtx u s t) (issuedThread u s t) q.2 a ws = op := copyOf_issuedThread ..
  refine ⟨fun hbad => traps_of he hi (hrecord.trans (queueCopy_bad (by rw [hdesc]; exact hbad))), ?_⟩
  intro s2 l hok hlist op1 hpast hcode hread hwrite hpend
  have hf1 : s1.flight = [] := by rw [hs1]; exact hc.flight
  have hb1 : s1.bads = [] := by rw [hs1]; exact hc.bads
  obtain ⟨hwalk, hlisted, hplain⟩ := indicesOf_some hf1 hb1 hlist
  obtain ⟨-, -, -, hmem, -⟩ := hwalk.keeps
  have hthread : threadAt s2 s.turn (curSlot s) = some (issuedThread u s t) := by
    rw [hwalk.threadAt, hs1]
    exact threadAt_issuedState u s t
  have hplace : copyOp q.2 o (issueCtx u s t) (issuedThread u s t) (issuedState u s t) = .ok (queued s2 s.turn op1) := by
    rw [hrecord, queueCopy_good (by rw [hdesc]; exact hok) (by rw [hdesc]; exact hlist), hdesc]
    exact placeCopy_queued hpast hcode (by rw [covered_issuedThread]; exact hread)
      (by rw [covered_issuedThread]; exact hwrite) hpend
  have htag : op1.tag = a.toNat % 64 := by
    show (a.extractLsb' 0 6).toNat = _
    simp
  refine ⟨?_, ?_, ?_, ?_, htag, rfl, rfl, rfl, rfl, rfl⟩
  · rw [← htag]
    exact exec_ok he hi hplace ((threadAt_queued s2 s.turn op1 _ _).trans hthread)
  · rw [hmem, hs1]
    rfl
  · intro hk
    exact hplain (by show q.2.listed = false; rcases hk with h | h | h <;> rw [h] <;> rfl)
  · intro hk
    exact hlisted (by show q.2.listed = true; rcases hk with h | h <;> rw [h] <;> rfl)

/-! ### Tags (R209, R218, R223) -/

section
variable (u : Use) (s : State) (t : Thread)

theorem tags_issuedState : (getCore (issuedState u s t) s.turn).tags = (getCore s s.turn).tags := by
  rw [getCore_issuedState]
  rfl

theorem maskAt_issuedThread (b : Reg) : maskAt (issuedThread u s t) b = maskAt t b := by
  simp only [maskAt, rdReg_issuedThread]

end

theorem leavesSlots_tags (m : BitVec 64) : LeavesSlots fun k => { k with tags := k.tags &&& m } :=
  ⟨fun _ _ => rfl, fun _ => rfl, fun _ => rfl⟩

/-- A wait that the limit bounds leaves its thread where it was, with the wait counted (R178). -/
theorem waits_counted {i : Instr} {u : Use} {op : Ctx → Thread → State → Res} {s : State} {t : Thread}
    (he : exec i s = issue u op s) (h : Issues u s t)
    (hop : op (issueCtx u s t) (issuedThread u s t) (issuedState u s t) =
      .wait .waitMem fun s' => countWait s' s.turn (curSlot s)) :
    ∃ s' w, exec i s = .next s' ∧ threadAt s' s.turn (curSlot s) = some w ∧ w.status = .waitMem ∧ w.regs = t.regs ∧
      w.full = t.full ∧ w.pc = t.pc ∧ w.waitFrom.isSome = true ∧ s'.mem = s.mem := by
  have hexec := exec_issues i u op s t he h
  rw [← issuedState, hop] at hexec
  simp only [settle, issueCtx, notReady, countWait, modThread_some _ _ _ _ _ h.here,
    modThread_some _ _ _ _ _ (threadAt_setThread_same s _ _ _ (curSlot_lt s))] at hexec
  exact ⟨_, _, hexec, threadAt_setThread_same _ _ _ _ (curSlot_lt s), rfl, rfl, rfl, rfl, rfl, rfl⟩

theorem tagInstructions : Claim.Tags := by
  refine fun s t => ⟨fun o hi => ⟨fun h => ?hit, fun h0 h => ?none, ?first⟩, fun o hi => ⟨fun h => ?all, fun h => ?some,
    ?clear⟩⟩
  case hit =>
    refine completes_written (i := .waitany o) rfl hi ?_
    have hgo : (maskAt t o.b != 0 && decide ((getCore s s.turn).tags &&& maskAt t o.b = 0)) = false := by
      have h : maskAt t o.b = 0 ∨ (getCore s s.turn).tags &&& maskAt t o.b ≠ 0 := h
      simpa [or_iff_not_imp_left] using h
    simp only [issueCtx_core, tags_issuedState, maskAt_issuedThread, hgo, Bool.false_eq_true, if_false]
    rfl
  case none =>
    refine waits_counted (i := .waitany o) rfl hi ?_
    have hwait : (maskAt t o.b != 0 && decide ((getCore s s.turn).tags &&& maskAt t o.b = 0)) = true := by
      have h : maskAt t o.b ≠ 0 ∧ (getCore s s.turn).tags &&& maskAt t o.b = 0 := ⟨h0, h⟩
      simpa using h
    simp only [issueCtx_core, issueCtx_slot, tags_issuedState, maskAt_issuedThread, hwait, if_true]
  case first =>
    refine completes_written (i := .tagff o) rfl hi ?_
    simp only [issueCtx_core, tags_issuedState, maskAt_issuedThread]
    rfl
  case all =>
    refine completes_written (i := .waitall o) (u := (o.use (pairRegs o.b)).oncely) rfl hi ?_
    simp only [issueCtx_core, tags_issuedState, maskAt_issuedThread, if_pos (show _ &&& maskAt t o.b = maskAt t o.b from h)]
    rfl
  case some =>
    refine waits_counted (i := .waitall o) rfl hi ?_
    simp only [issueCtx_core, issueCtx_slot, tags_issuedState, maskAt_issuedThread,
      if_neg (show ¬ _ &&& maskAt t o.b = maskAt t o.b from h)]
  case clear =>
    refine completes_modCore_only (i := .tagclr o) (leavesSlots_tags _) rfl hi ?_
    simp only [issueCtx_core, maskAt_issuedThread]
    rfl

/-- Settles O48: a copy that keeps R214 is placed in the queue over the walks and counts of its list; the tag instructions
answer by the core's tags under the mask, which an issue leaves alone. -/
theorem copiesAndTags : Obligations.CopiesAndTags := ⟨copiesQueued, tagInstructions⟩

end Sys2Proof.Machine

/-! Memory's canonical form under the shared operations (O5): stores, traps, pairs, one issue, and an access at its bank. A table of
outcomes keeps the form where every state that it holds does. -/

namespace Sys2Proof.Machine

open Host (Outcome)

/-! ### What an answer keeps -/

/-- Where an instruction or an event has a next state, memory is in its canonical form there. -/
def KeepsMem (o : Outcome State Fault Refusal) : Prop := ∀ s', o = .next s' → memWf s'.mem

theorem keepsMem_next {s : State} (h : memWf s.mem) : KeepsMem (.next s) := by
  rintro s' ⟨⟩
  exact h

theorem keepsMem_fault (f : Fault) : KeepsMem (.fault f) := by
  rintro s' ⟨⟩

/-- The answer of an operation, and what it does elsewhere, keep memory's canonical form. -/
def Res.MemOk : Res → Prop
  | .ok s | .jump s _ | .hold s _ _ _ | .left s => memWf s.mem
  | .trap _ _ _ => True
  | .trapX _ f | .wait _ f => ∀ s : State, memWf s.mem → memWf (f s).mem

theorem memWf_foldl {α : Type} {f : State → α → State} {l : List α}
    (hf : ∀ s a, memWf s.mem → memWf (f s a).mem) {s : State} (h : memWf s.mem) : memWf (l.foldl f s).mem := by
  induction l generalizing s with
  | nil => exact h
  | cons a l ih => exact ih (hf s a h)

theorem memWf_storeNat {s : State} (p : Place) (n v : Nat) (h : memWf s.mem) : memWf (storeNat s p n v).mem :=
  memOk_storeNat s p n v h

theorem memWf_ite {p : Prop} [Decidable p] {a b : State} (ha : memWf a.mem) (hb : memWf b.mem) :
    memWf (if p then a else b).mem := by
  split <;> assumption

theorem memWf_modCore {s : State} (c : Nat) (f : Core → Core) (h : memWf s.mem) :
    memWf (modCore s c f).mem := h

theorem memWf_setSlot {s : State} (c i : Nat) (x : Slot) (h : memWf s.mem) :
    memWf (setSlot s c i x).mem := h

theorem memWf_setContent {s : State} (c i : Nat) (x : Content) (h : memWf s.mem) :
    memWf (setContent s c i x).mem := h

theorem memWf_setThread {s : State} (c i : Nat) (t : Thread) (h : memWf s.mem) :
    memWf (setThread s c i t).mem := h

theorem memWf_modThread {s : State} (c i : Nat) (f : Thread → Thread) (h : memWf s.mem) :
    memWf (modThread s c i f).mem := by
  unfold modThread
  grind [memWf_setThread]

theorem memWf_backInvalidate {s : State} (p : Place) (h : memWf s.mem) :
    memWf (backInvalidate s p).mem := by
  unfold backInvalidate
  grind

theorem memWf_takeBack {s : State} (p : Place) (n : Nat) (h : memWf s.mem) :
    memWf (takeBack s p n).mem := by
  unfold takeBack
  grind [memWf_backInvalidate, memWf_foldl]

theorem memWf_storeWord {s : State} (p : Place) (v : Word) (h : memWf s.mem) :
    memWf (storeWord s p v).mem := by
  unfold storeWord
  grind [memWf_storeNat]

theorem memWf_setFullWord {s : State} (p : Place) (b : Bool) (h : memWf s.mem) :
    memWf (setFullWord s p b).mem := h

theorem memWf_countReq {s : State} (d k : Nat) (h : memWf s.mem) :
    memWf (countReq s d k).mem := h

theorem memWf_setLive {s : State} (pc : Nat) (l : Live) (h : memWf s.mem) :
    memWf (setLive s pc l).mem := h

theorem memWf_accrue {s : State} (c n : Nat) (h : memWf s.mem) :
    memWf (accrue s c n).mem := h

theorem memWf_chargeIssue {s : State} (c i : Nat) (h : memWf s.mem) :
    memWf (chargeIssue s c i).mem := by
  unfold chargeIssue
  grind [memWf_modThread, memWf_accrue]

theorem memWf_setTrace {s : State} (d : Nat) (t : Trace) (h : memWf s.mem) :
    memWf (setTrace s d t).mem := h

theorem memWf_tracePut {s : State} (d : Nat) (v : Nat) (h : memWf s.mem) :
    memWf (tracePut s d v).mem := by
  unfold tracePut
  grind [memWf_takeBack, memWf_storeNat, memWf_setTrace]

theorem memWf_forgetTimes {s : State} (d : Nat) (h : memWf s.mem) :
    memWf (forgetTimes s d).mem := h

theorem memWf_traceRecord {s : State} (ty c i : Nat) (pc : Word) (payload : List Word) (h : memWf s.mem) :
    memWf (traceRecord s ty c i pc payload).mem := by
  unfold traceRecord
  grind [memWf_modCore, memWf_setTrace, memWf_tracePut, memWf_forgetTimes]

theorem memWf_setCtl {s : State} (n : Nat) (k : CtlCore) (h : memWf s.mem) :
    memWf (setCtl s n k).mem := h

theorem memWf_logEntry {s : State} (e : Stamped) (h : memWf s.mem) :
    memWf (logEntry s e).mem := by
  unfold logEntry
  grind [memWf_takeBack, memWf_storeNat]

theorem memWf_replayTake {s : State} (e : Stamped) (h : memWf s.mem) :
    memWf (replayTake s e).mem := by
  unfold replayTake
  grind [memWf_setCtl, memWf_logEntry]

theorem memWf_logInput {s : State} (x : Logged) (h : memWf s.mem) :
    memWf (logInput s x).mem := by
  unfold logInput
  grind [memWf_setCtl, memWf_logEntry, memWf_replayTake]

theorem memWf_errWrite {s0 : State} (r : ErrRec) (h : memWf s0.mem) :
    memWf (errWrite s0 r).mem := by
  unfold errWrite
  grind [memWf_storeNat, memWf_logInput]

theorem memWf_sendAer {s : State} (kind : Nat) (fatal : Option Bool) (r : ErrRec) (h : memWf s.mem) :
    memWf (sendAer s kind fatal r).mem := h

theorem memWf_errAer {s : State} (kind : Nat) (r : ErrRec) (h : memWf s.mem) :
    memWf (errAer s kind r).mem := by
  unfold errAer
  grind [memWf_sendAer]

theorem memWf_errReport {s : State} (kind : Nat) (slot : Option Nat) (core : Option Nat) (addr : Nat) (tag : Word) (h : memWf s.mem) :
    memWf (errReport s kind slot core addr tag).mem := by
  unfold errReport
  grind [memWf_storeNat, memWf_errWrite, memWf_errAer]

theorem memWf_fatalStop {s : State} (kind : Nat) (slot core : Option Nat) (h : memWf s.mem) :
    memWf (fatalStop s kind slot core).mem := by
  unfold fatalStop
  grind [memWf_errWrite, memWf_errReport]

theorem memWf_corrected {s : State} (kind c : Nat) (slot : Option Nat) (addr : Nat) (tag : Word) (h : memWf s.mem) :
    memWf (corrected s kind c slot addr tag).mem := by
  unfold corrected
  grind [memWf_setLive, memWf_errReport]

theorem memWf_drainQuad {s : State} (c cause : Nat) (h : memWf s.mem) :
    memWf (drainQuad s c cause).mem := by
  unfold drainQuad
  grind [memWf_setLive, memWf_foldl]

theorem memWf_consumed {s : State} (c : Nat) (h : memWf s.mem) :
    memWf (consumed s c).mem := by
  unfold consumed
  grind [memWf_setLive, memWf_drainQuad]

theorem memWf_askPage {s : State} (c i : Nat) (t : Thread) (x : TrapInfo) (toZero : Bool) (h : memWf s.mem) :
    memWf (askPage s c i t x toZero).mem := by
  unfold askPage
  grind

theorem memWf_wakeParked {s : State} (c i : Nat) (h : memWf s.mem) :
    memWf (wakeParked s c i).mem := by
  unfold wakeParked
  grind [memWf_modThread]

theorem memWf_takeTrap {s : State} (c i : Nat) (t : Thread) (x : TrapInfo) (h : memWf s.mem) :
    memWf (takeTrap s c i t x).mem := by
  unfold takeTrap
  grind [memWf_modCore, memWf_setSlot, memWf_setThread, memWf_traceRecord, memWf_fatalStop, memWf_askPage, memWf_wakeParked]

theorem memWf_setPair {s : State} (c : Nat) (p : Pair) (h : memWf s.mem) :
    memWf (setPair s c p).mem := h

theorem memWf_onBoth {s : State} (c i : Nat) (f : Thread → Thread) (h : memWf s.mem) :
    memWf (onBoth s c i f).mem := by
  unfold onBoth
  grind [memWf_modThread, memWf_setPair]

theorem memWf_mismatch {s : State} (c : Nat) (p : Pair) (ia : Word) (h : memWf s.mem) :
    memWf (mismatch s c p ia).mem := by
  unfold mismatch
  grind [memWf_setThread, memWf_takeTrap, memWf_setPair, memWf_onBoth]

theorem memWf_releaseStores {s : State} (c i : Nat) (es : List CmpEntry) (h : memWf s.mem) :
    memWf (releaseStores c i s es).mem := by
  induction es generalizing s with
  | nil => exact h
  | cons e es ih => exact ih h

theorem memWf_commitPoint {s : State} (c : Nat) (p : Pair) (h : memWf s.mem) :
    memWf (commitPoint s c p).mem := by
  unfold commitPoint
  grind [memWf_setThread, memWf_corrected, memWf_setPair, memWf_mismatch, memWf_releaseStores]

theorem memWf_notReady {s : State} (c i : Nat) (st : Status) (h : memWf s.mem) :
    memWf (notReady s c i st).mem := by
  unfold notReady
  grind [memWf_modThread]

theorem memWf_pairWaits {s : State} (c i : Nat) (commit : Bool) {s' : State} (h : memWf s.mem) (e : pairWaits s c i commit = some s') :
    memWf s'.mem := by
  unfold pairWaits at e
  grind [memWf_mismatch, memWf_commitPoint, memWf_notReady]

theorem memWf_mirrorPair {s : State} (c i : Nat) (h : memWf s.mem) :
    memWf (mirrorPair s c i).mem := by
  unfold mirrorPair
  grind [memWf_modCore, memWf_setContent, memWf_modThread, memWf_setPair]

theorem memWf_modPend {s : State} (c i : Nat) (f : Thread → Thread) (h : memWf s.mem) :
    memWf (modPend s c i f).mem := by
  unfold modPend
  grind [memWf_setThread, memWf_onBoth]

theorem memWf_trapPend {s : State} (c i : Nat) (t : Thread) (x : TrapInfo) (h : memWf s.mem) :
    memWf (trapPend s c i t x).mem := by
  unfold trapPend
  grind [memWf_takeTrap, memWf_onBoth]

theorem memWf_onThread {s : State} (c i : Nat) (f : State → State) (h : memWf s.mem) (hf : ∀ s : State, memWf s.mem → memWf (f s).mem) :
    memWf (onThread s c i f).mem := by
  unfold onThread
  grind [memWf_commitPoint, memWf_pairWaits, memWf_mirrorPair]

theorem memWf_pairStep {s : State} (c i : Nat) (r : Role) (h : memWf s.mem) :
    memWf (pairStep s c i r).mem := by
  unfold pairStep
  grind [memWf_setPair]

theorem memWf_regWait {s : State} (c i : Nat) (h : memWf s.mem) : memWf (regWait s c i).mem :=
  memWf_modThread _ _ _ h

theorem memWf_countWait {s : State} (c i : Nat) (h : memWf s.mem) : memWf (countWait s c i).mem :=
  memWf_modThread _ _ _ h

theorem memWf_advance {s : State} (c i : Nat) (pc : Word) (h : memWf s.mem) : memWf (advance s c i pc).mem :=
  memWf_modThread _ _ _ h

theorem memWf_pairWaits_getD {s : State} (c i : Nat) (b : Bool) (h : memWf s.mem) :
    memWf ((pairWaits s c i b).getD s).mem := by
  cases e : pairWaits s c i b with
  | none => exact h
  | some s' => exact memWf_pairWaits c i b h e

theorem memWf_issueTrap {s : State} (c i : Nat) (t : Thread) (x : TrapInfo) (h : memWf s.mem) :
    memWf (issueTrap s c i t x).mem := by
  unfold issueTrap
  grind [memWf_modThread, memWf_chargeIssue, memWf_takeTrap, memWf_mismatch, memWf_commitPoint, memWf_pairWaits,
    memWf_mirrorPair]

theorem memWf_settle {s : State} (x : Ctx) (t : Thread) (sync : List Nat) {r : Res} (h : memWf s.mem) (hr : r.MemOk) :
    memWf (settle s x t sync r).mem := by
  cases r with
  | ok s' => exact memWf_advance _ _ _ (memWf_pairStep _ _ _ hr)
  | jump s' pc => exact memWf_advance _ _ _ (memWf_pairStep _ _ _ hr)
  | trap c k v => exact memWf_issueTrap _ _ _ _ h
  | trapX y f =>
    have hf := hr s h
    unfold settle
    grind [memWf_pairWaits, memWf_issueTrap]
  | wait st f => exact memWf_notReady _ _ _ (hr s h)
  | hold s' w st reg => exact memWf_modThread _ _ _ hr
  | left s' => exact hr

/-- What an operation answers keeps memory's canonical form, where the state that it meets has it. -/
def OpKeeps (op : Ctx → Thread → State → Res) : Prop := ∀ x t (s : State), memWf s.mem → (op x t s).MemOk

theorem memWf_operate {s : State} (u : Use) {op : Ctx → Thread → State → Res} (c i : Nat) (t : Thread) (hop : OpKeeps op)
    (h : memWf s.mem) : memWf (operate u op s c i t).mem :=
  memWf_settle _ _ _ h (hop _ _ _ (memWf_modThread _ _ _ (memWf_chargeIssue _ _ h)))

theorem memWf_operatePair {s : State} (u : Use) {op : Ctx → Thread → State → Res} (c i : Nat) (t : Thread)
    (hop : OpKeeps op) (h : memWf s.mem) : memWf (operatePair u op s c i t).mem := by
  unfold operatePair
  grind [memWf_pairWaits, memWf_commitPoint, memWf_mirrorPair, memWf_modThread, memWf_operate, memWf_setThread]

theorem memOk_moreDsts {s : State} (x : Ctx) (t : Thread) (rs : List Nat) {r : Res} (hr : r.MemOk) :
    (moreDsts x t s rs r).MemOk := by
  unfold moreDsts
  split
  · exact fun s' h => memWf_modThread _ _ _ h
  · split
    · exact fun s' h => h
    · exact hr

theorem memOk_writeOne {s : State} (x : Ctx) (t : Thread) (r : Nat) (v : Word) (h : memWf s.mem) :
    (writeOne x t s r v).MemOk := memOk_moreDsts _ _ _ (memWf_setThread _ _ _ h)

/-- An issue keeps memory's canonical form where its operation does. -/
theorem keepsMem_issue {s : State} (u : Use) {op : Ctx → Thread → State → Res} (hop : OpKeeps op) (h : memWf s.mem) :
    KeepsMem (issue u op s) := by
  simp only [issue]
  split
  · exact keepsMem_fault _
  · have trap (x : TrapInfo) (t' : Thread) (f : Thread → Thread) :=
      memWf_issueTrap s.turn (curSlot s) t' x (memWf_modThread s.turn (curSlot s) f h)
    have waits := memWf_notReady s.turn (curSlot s) .waitMem h
    refine keepsMem_next <| memWf_ite waits <| memWf_ite (memWf_pairWaits_getD _ _ _ h) <| memWf_ite (trap _ _ _) <|
      memWf_ite (memWf_advance _ _ _ (memWf_pairStep _ _ _ (memWf_chargeIssue _ _ h))) <|
      memWf_ite (memWf_issueTrap _ _ _ _ h) <| memWf_ite (memWf_issueTrap _ _ _ _ h) <|
      memWf_ite (memWf_pairWaits_getD _ _ _ h) <| memWf_ite ?_ <| memWf_ite waits <| memWf_ite (memWf_regWait _ _ h) <|
      memWf_ite waits <| memWf_ite ?_ <| memWf_ite (memWf_operatePair _ _ _ _ hop h) (memWf_operate _ _ _ _ hop h)
    · split
      · exact trap _ _ _
      · exact h
    · split
      · exact h
      · exact memWf_mismatch _ _ _ h

/-! ### What a table of outcomes keeps -/

def Served.MemOk : Served → Prop
  | .done s _ _ => memWf s.mem
  | _ => True

/-! ### Memory -/

theorem memWf_tlbFill {s : State} (e : TlbEnt) (h : memWf s.mem) : memWf (tlbFill s e).mem := h

theorem memWf_countOut {s : State} (c : Nat) (p : Place) (h : memWf s.mem) : memWf (countOut s c p).mem := by
  unfold countOut
  grind [memWf_countReq]

theorem memWf_countWalk {s : State} (d : Nat) (entries : List Nat) (h : memWf s.mem) :
    memWf (countWalk s d entries).mem := by
  unfold countWalk
  grind [memWf_backInvalidate, memWf_countReq, memWf_foldl]

theorem memWf_countIn {s : State} (c : Nat) (p : Place) (h : memWf s.mem) : memWf (countIn s c p).mem := by
  unfold countIn
  grind [memWf_backInvalidate, memWf_countReq]

theorem memWf_countPlace {s : State} (c : Nat) (p : Place) (h : memWf s.mem) : memWf (countPlace s c p).mem := by
  unfold countPlace
  grind [memWf_countOut, memWf_countIn]

theorem memWf_countMarks {s : State} (c : Nat) (passed : List Place) (h : memWf s.mem) :
    memWf (countMarks s c passed).mem := by
  unfold countMarks
  grind [memWf_countReq, memWf_countPlace, memWf_foldl]

theorem memWf_countAll {s : State} (c : Nat) (p : Place) (passed : List Place) (h : memWf s.mem) :
    memWf (countAll s c p passed).mem := by
  unfold countAll
  grind [memWf_countPlace, memWf_countMarks]

theorem memWf_takePlace {s : State} (c i va : Nat) (h : memWf s.mem) : memWf (takePlace s c i va).mem := by
  unfold takePlace
  grind [memWf_modThread]

theorem memWf_openMiss {s0 : State} (c i asn va : Nat) (h : memWf s0.mem) : memWf (openMiss s0 c i asn va).mem := by
  unfold openMiss
  grind [memWf_takePlace]

theorem memWf_walkNow {s : State} (c asn va : Nat) (h : memWf s.mem) : memWf (walkNow s c asn va).mem := by
  unfold walkNow
  grind [memWf_tlbFill, memWf_countWalk]

theorem memWf_release {s : State} (w c i : Nat) (h : memWf s.mem) : memWf (release s w c i).mem := h

theorem memWf_forceRelease {s : State} (c i : Nat) (h : memWf s.mem) : memWf (forceRelease s c i).mem := by
  unfold forceRelease
  grind [memWf_modPend]

theorem memWf_storePart {s : State} (p : Part) (h : memWf s.mem) : memWf (storePart s p).mem := by
  unfold storePart
  grind [memWf_storeNat]

theorem memOk_serve {s : State} (a : Access) (h : memWf s.mem) : (serve s a).MemOk := by
  unfold serve
  split
  · trivial
  split
  · trivial
  split
  · exact h
  · exact h
  · exact memWf_foldl (fun s p => memWf_storePart p) h
  split
  · exact h
  · dsimp only
    split <;> grind [Served.MemOk, memWf_foldl, memWf_storeWord, memWf_setFullWord, memWf_release]

theorem memWf_dropFlight {s : State} (id : Nat) (h : memWf s.mem) : memWf (dropFlight s id).mem := h

theorem memWf_setFlight {s : State} (a : Access) (h : memWf s.mem) : memWf (setFlight s a).mem := h

theorem memWf_completeLead {s : State} (a : Access) (vals : List Word) (h : memWf s.mem) :
    memWf (completeLead s a vals).mem := by
  unfold completeLead
  grind [memWf_modThread, memWf_setPair, memWf_dropFlight, memWf_foldl]

theorem memWf_answerWith {s : State} (x : Option (List Byte)) (h : memWf s.mem) : memWf (answerWith s x).mem := h

theorem memWf_completeForeign {s : State} (a : Access) (vals : List Word) (h : memWf s.mem) :
    memWf (completeForeign s a vals).mem := by
  unfold completeForeign
  grind [memWf_dropFlight, memWf_answerWith]

theorem memWf_completeAccess {s : State} (a : Access) (vals : List Word) (okay : Bool) (h : memWf s.mem) :
    memWf (completeAccess s a vals okay).mem := by
  unfold completeAccess
  grind [memWf_modThread, memWf_modPend, memWf_dropFlight, memWf_setFlight, memWf_completeLead, memWf_completeForeign]

theorem memWf_failAccess {s : State} (a : Access) (h : memWf s.mem) : memWf (failAccess s a).mem := by
  unfold failAccess
  grind [memWf_setThread, memWf_consumed, memWf_trapPend, memWf_dropFlight, memWf_answerWith]

theorem memWf_serveList (w n : Nat) {s : State} (h : memWf s.mem) : memWf (serveList w n s).mem := by
  induction n generalizing s with
  | zero => exact h
  | succ n ih =>
    unfold serveList
    grind [memOk_serve, Served.MemOk, memWf_completeAccess, memWf_setFlight]

theorem memWf_afterServe {s : State} (a : Access) (h : memWf s.mem) : memWf (afterServe s a).mem := by
  unfold afterServe
  grind [memWf_foldl, memWf_serveList]

theorem memWf_countForeign {s : State} (p : Place) (h : memWf s.mem) : memWf (countForeign s p).mem := by
  unfold countForeign
  grind [memWf_countReq]

theorem memWf_countArrival {s : State} (a : Access) (h : memWf s.mem) : memWf (countArrival s a).mem := by
  unfold countArrival
  grind [memWf_backInvalidate, memWf_countOut, memWf_countIn, memWf_countForeign, memWf_foldl]

theorem memWf_attempt {s : State} (a : Access) (h : memWf s.mem) : memWf (attempt s a).mem := by
  have ha := memWf_countArrival a h
  have hs := memOk_serve a ha
  unfold attempt
  dsimp only
  generalize countArrival s a = s1 at ha hs ⊢
  grind [Served.MemOk, memWf_setFlight, memWf_completeAccess, memWf_failAccess, memWf_afterServe]

theorem memWf_settleBefore (c : Nat) (ps : List Place) (ws : List Nat) (n : Nat) {s : State} (h : memWf s.mem) :
    memWf (settleBefore c ps ws n s).mem := by
  induction n generalizing s with
  | zero => exact h
  | succ n ih =>
    unfold settleBefore
    grind [memWf_attempt]

theorem memWf_settleEarlier {s : State} (c : Nat) (ps : List Place) (ws : List Nat) (h : memWf s.mem) :
    memWf (settleEarlier s c ps ws).mem := by
  unfold settleEarlier
  grind [memWf_settleBefore]

theorem memWf_walkAll (c asn : Nat) (need : Need) (n : Nat) {s : State} (va : Nat) (h : memWf s.mem) :
    memWf (walkAll c asn need n s va).mem := by
  induction n generalizing s va with
  | zero => exact h
  | succ n ih =>
    unfold walkAll
    grind [memWf_walkNow]

end Sys2Proof.Machine

/-! Memory's canonical form (O5): the shapes of instructions, accesses from their address on, records, and the ends of threads. -/

namespace Sys2Proof.Machine

open Host (Outcome)

def EngLoc.MemOk : EngLoc → Prop
  | .at s _ | .fault s _ _ => memWf s.mem
  | .held => True

/-! ### Accesses, records and the ends of threads -/

theorem memOk_done {s : State} (x : Ctx) (t : Thread) (h : memWf s.mem) : (done s x t).MemOk := h

theorem keepsMem_runT (paged : Bool) (o : ShT) (f : Word → Word → Word) {s : State} (h : memWf s.mem) :
    KeepsMem (runT paged o f s) := keepsMem_issue _ (fun _ _ _ h => h) h

theorem keepsMem_runU (paged : Bool) (o : ShU) (f : Word → Word) {s : State} (h : memWf s.mem) :
    KeepsMem (runU paged o f s) := keepsMem_issue _ (fun _ _ _ h => h) h

theorem keepsMem_runI (paged : Bool) (o : ShI) (f : Word → Word) {s : State} (h : memWf s.mem) :
    KeepsMem (runI paged o f s) := keepsMem_issue _ (fun _ _ _ h => h) h

theorem keepsMem_runK (o : ShK) (f : Word → Word → Bool) {s : State} (h : memWf s.mem) : KeepsMem
    (runK o f s) := keepsMem_issue _ (fun _ _ _ h => h) h

theorem keepsMem_runL (o : ShL) (f : Bool → Bool → Bool) {s : State} (h : memWf s.mem) : KeepsMem
    (runL o f s) := keepsMem_issue _ (fun _ _ _ h => h) h

theorem keepsMem_runCmpImm (o : ShI) (f : Word → Word → Bool) {s : State} (h : memWf s.mem) :
    KeepsMem (runCmpImm o f s) := keepsMem_issue _ (fun _ _ _ h => h) h

theorem keepsMem_execFNot (o : ShFF) {s : State} (h : memWf s.mem) : KeepsMem (execFNot o s) := keepsMem_issue _
    (fun _ _ _ h => h) h

theorem keepsMem_execMff (o : ShA) {s : State} (h : memWf s.mem) : KeepsMem (execMff o s) := keepsMem_issue _
    (fun _ _ _ h => h) h

theorem keepsMem_execMtf (o : ShU) {s : State} (h : memWf s.mem) : KeepsMem (execMtf o s) := keepsMem_issue _
    (fun _ _ _ h => h) h

theorem keepsMem_execBr (o : ShJ) {s : State} (h : memWf s.mem) : KeepsMem (execBr o s) := keepsMem_issue _
    (fun _ _ _ h => h) h

theorem keepsMem_runBranch (o : ShFB) (on : Bool) {s : State} (h : memWf s.mem) : KeepsMem
    (runBranch o on s) := keepsMem_issue _ (fun _ _ _ h => h) h

theorem keepsMem_execCall (o : ShJ) {s : State} (h : memWf s.mem) : KeepsMem (execCall o s) := keepsMem_issue _
    (fun _ _ _ h => h) h

theorem keepsMem_execJr (o : ShBU) {s : State} (h : memWf s.mem) : KeepsMem (execJr o s) := keepsMem_issue _
    (fun _ _ _ h => h) h

theorem keepsMem_execJalr (o : ShU) {s : State} (h : memWf s.mem) : KeepsMem (execJalr o s) := keepsMem_issue _
    (fun _ _ _ h => h) h

theorem keepsMem_execLoop (o : ShI) {s : State} (h : memWf s.mem) : KeepsMem (execLoop o s) := by
  refine keepsMem_issue _ (fun x t s h => ?_) h
  grind [memWf_setThread, keepsMem_issue, memOk_done, keepsMem_next, Res.MemOk]

theorem memOk_locTrap (x : Ctx) (cz : Cause) (kno : Nat) (tval : Word) (passed : List Place) :
    (locTrap x cz kno tval passed).MemOk := by
  unfold locTrap
  grind [memWf_countMarks, Res.MemOk]

theorem memOk_pageTrap (x : Ctx) (kno : Nat) (tval : Word) (kf : Bool) (va : Nat) (passed : List Place) :
    (pageTrap x kno tval kf va passed).MemOk := by
  unfold pageTrap
  grind [memWf_countMarks, Res.MemOk]

theorem memOk_waitMiss (x : Ctx) (t : Thread) (va : Nat) : (waitMiss x t va).MemOk := by
  unfold waitMiss
  grind [memWf_modThread, memWf_openMiss, Res.MemOk]

theorem memWf_modLaunch {s : State} (lid : Word) (f : Launch → Launch) (h : memWf s.mem) :
    memWf (modLaunch s lid f).mem := h

theorem memOk_migrate {s : State} (x : Ctx) (t : Thread) (owner : Nat) (kno : Nat) (tval : Word) (h : memWf s.mem) :
    (migrate x t s owner kno tval).MemOk := by
  unfold migrate
  grind [Res.MemOk]

theorem memWf_addFlight {s : State} (a : Access) (h : memWf s.mem) : memWf (addFlight s a).mem := h

theorem memWf_sendRequest {s : State} (a : Access) (h : memWf s.mem) : memWf (sendRequest s a).mem := h

theorem memWf_sendRemote {s : State} (a : Access) (h : memWf s.mem) : memWf (sendRemote s a).mem := by
  unfold sendRemote
  grind [memWf_addFlight, memWf_sendRequest]

theorem memWf_countIssue {s : State} (a : Access) (h : memWf s.mem) : memWf (countIssue s a).mem := by
  unfold countIssue
  grind [memWf_countMarks, memWf_countArrival]

theorem memOk_performNow {s : State} (x : Ctx) (a : Access) (h : memWf s.mem) : (performNow x s a).MemOk := by
  have h0 := memWf_settleEarlier x.core (a.parts.map (·.place)) (accWords a) h
  have hs := memOk_serve a (memWf_countArrival a h0)
  have h1 := memWf_countArrival a h0
  unfold performNow
  dsimp only
  split
  · exact memWf_addFlight _ h0
  split
  · rename_i e
    rw [e] at hs
    exact memWf_afterServe _ (memWf_modThread _ _ _ hs)
  · exact memWf_addFlight _ h1
  · exact memWf_addFlight _ h1
  · exact fun s h => memWf_consumed _ (memWf_countIssue _ h)

theorem memOk_performLater {s : State} (x : Ctx) (a : Access) (h : memWf s.mem) : (performLater x s a).MemOk := by
  unfold performLater
  grind [memWf_modThread, memWf_addFlight, Res.MemOk]

theorem memOk_issueAccess {s : State} (x : Ctx) (a : Access) (h : memWf s.mem) : (issueAccess x s a).MemOk := by
  unfold issueAccess
  split
  · split
    · exact memWf_sendRemote a h
    · exact memOk_performNow x a h
  · split
    · exact memWf_sendRemote a (memWf_modThread _ _ _ h)
    · exact memOk_performLater x a h

theorem memOk_takeOutside {s : State} (x : Ctx) (t : Thread) (keys : List (Nat × Nat × List Word))
    (rw : Option (Nat × Word)) (k : State → List Word → Option (Nat × Word) → Res) (h : memWf s.mem)
    (hk : ∀ (s : State) (b : List Word) (c : Option (Nat × Word)), memWf s.mem → (k s b c).MemOk) :
    (takeOutside s x t keys rw k).MemOk := by
  unfold takeOutside
  grind [memWf_setPair, memWf_mismatch, Res.MemOk]

theorem memOk_leadLoad {s : State} (x : Ctx) (t : Thread) (p : Pair) (a : Access) (h : memWf s.mem) :
    (leadLoad x s t p a).MemOk := by
  have give (s : State) (vals : List Word) (rw : Option (Nat × Word)) (h : memWf s.mem) :=
    memOk_takeOutside (s := s) x t (accKeys a vals) rw
      (fun s' vs rw => .ok (modThread s' x.core x.slot (takeVals { a with group := none, rewrite := rw } vs true))) h
      fun _ _ _ h => memWf_modThread _ _ _ h
  have h0 := memWf_settleEarlier x.core (a.parts.map (·.place)) (accWords a) h
  unfold leadLoad
  dsimp only
  split
  · exact give _ _ _ h
  split
  · split
    · exact fun _ h => memWf_setPair _ _ h
    · exact memWf_ite (memWf_sendRemote _ h) (memWf_addFlight _ h)
  split
  · exact fun _ h => h
  split
  · exact fun s h => memWf_consumed _ (memWf_countIssue _ h)
  · exact give _ _ _ (memWf_countArrival _ h0)

theorem memOk_leadStore {s : State} (x : Ctx) (p : Pair) (a : Access) (h : memWf s.mem) :
    (leadStore x s p a).MemOk := by
  unfold leadStore
  grind [memWf_modThread, memWf_consumed, memWf_setPair, Res.MemOk]

theorem memOk_trailStore {s : State} (x : Ctx) (p : Pair) (a : Access) (h : memWf s.mem) :
    (trailStore x s p a).MemOk := by
  unfold trailStore
  grind [memWf_modThread, memWf_setPair, memWf_mismatch, Res.MemOk]

theorem memOk_trailLoad {s : State} (x : Ctx) (t : Thread) (a : Access) (h : memWf s.mem) :
    (trailLoad x s t a).MemOk := by
  unfold trailLoad
  grind [memWf_modThread, memOk_takeOutside, Res.MemOk]

theorem memOk_access {s : State} (x : Ctx) (t : Thread) (a : Access) (h : memWf s.mem) : (access x t s a).MemOk := by
  unfold access
  grind [memOk_issueAccess, memOk_leadLoad, memOk_leadStore, memOk_trailStore, memOk_trailLoad, Res.MemOk]

theorem memOk_memAccess {s : State} (x : Ctx) (t : Thread) (sel : Nat) (off : Int) (n al : Nat) (need : Need)
    (kno : Nat) (group : Option (BitVec 3)) (base : Option (Nat × Bool)) (dsts : List Nat) (kind : AccKind)
    (data2 : Word) (parts : Place → Option Nat → Word → List Part) (h : memWf s.mem) :
    (memAccess x t s sel off n al need kno group base dsts kind data2 parts).MemOk := by
  unfold memAccess
  grind [memWf_countMarks, memOk_locTrap, memOk_pageTrap, memOk_waitMiss, memOk_migrate, memOk_access, Res.MemOk]

theorem memOk_loadOp {st : State} (o : ShM) (s : Nat) (signed : Bool) (x : Ctx) (t : Thread) (h : memWf st.mem) :
    (loadOp o s signed x t st).MemOk := by
  unfold loadOp
  grind [memOk_memAccess, Res.MemOk]

theorem memOk_storeOp {st : State} (o : ShM) (s : Nat) (x : Ctx) (t : Thread) (h : memWf st.mem) :
    (storeOp o s x t st).MemOk := by
  unfold storeOp
  grind [memOk_memAccess, Res.MemOk]

theorem memOk_vecAccess {s : State} (o : ShVG) (kind : AccKind) (need : Need) (kno : Nat) (x : Ctx) (t : Thread)
    (h : memWf s.mem) :
    (vecAccess o kind need kno x t s).MemOk := by
  unfold vecAccess
  grind [memWf_countMarks, memOk_locTrap, memOk_pageTrap, memOk_waitMiss, memOk_access, Res.MemOk]

theorem memOk_rangeStop {s : State} (x : Ctx) (t : Thread) (kno sel : Nat) (e : Int × Loc) (h : memWf s.mem) :
    (rangeStop x t s kno sel e).MemOk := by
  unfold rangeStop
  grind [memOk_locTrap, memOk_pageTrap, memOk_waitMiss, memOk_migrate, Res.MemOk]

theorem memWf_dropProbe {s : State} (x : Ctx) (h : memWf s.mem) : memWf (dropProbe s x).mem := h

theorem memOk_reaching {s : State} (x : Ctx) (t : Thread) (named : Word) (ps : List (Place × List Place))
    (k : State → (State → State) → Res) (h : memWf s.mem)
    (hk : ∀ (s : State) (f : State → State), memWf s.mem → (∀ s : State, memWf s.mem → memWf (f s).mem) →
    (k s f).MemOk) :
    (reaching x t s named ps k).MemOk := by
  unfold reaching
  grind [memWf_countMarks, memWf_countAll, memWf_addFlight, memWf_dropProbe, memWf_foldl, Res.MemOk]

theorem memOk_piecesOp {s : State} (x : Ctx) (t : Thread) (sel : Nat) (off : Int) (n : Nat) (need : Need)
    (kno : Nat) (found : Except (Int × Loc) (List (Place × List Place))) (k : State → List Place → Res)
    (h : memWf s.mem) (hk : ∀ (s : State) (b : List Place), memWf s.mem → (k s b).MemOk) :
    (piecesOp x t s sel off n need kno found k).MemOk := by
  unfold piecesOp
  grind [memWf_consumed, memWf_settleEarlier, memOk_rangeStop, memOk_reaching, Res.MemOk]

theorem memOk_rangeOp {s : State} (x : Ctx) (t : Thread) (sel : Nat) (off : Int) (n al : Nat) (need : Need)
    (kno : Nat) (k : State → List Place → Res) (h : memWf s.mem)
    (hk : ∀ (s : State) (b : List Place), memWf s.mem → (k s b).MemOk) :
    (rangeOp x t s sel off n al need kno k).MemOk := by
  unfold rangeOp
  grind [memOk_piecesOp, Res.MemOk]

theorem memWf_writeRange {s : State} (ps : List Place) (ws : List Word) (h : memWf s.mem) :
    memWf (writeRange s ps ws).mem := by
  unfold writeRange
  grind [memWf_storeWord, memWf_foldl]

theorem memOk_engineXlate {s : State} (c asn : Nat) (need : Need) (va : Nat) (fresh : Bool) (h : memWf s.mem) :
    (engineXlate s c asn need va fresh).MemOk := by
  unfold engineXlate
  grind [memWf_backInvalidate, memWf_countMarks, memWf_countAll, memWf_walkAll, EngLoc.MemOk]

theorem memWf_leaveLaunch {s : State} (t : Thread) (code : Nat) (err : BitVec 4) (h : memWf s.mem) :
    memWf (leaveLaunch s t code err).mem := by
  unfold leaveLaunch
  grind [memWf_modLaunch]

theorem memWf_dropClaim {s : State} (d : Nat) (t : Thread) (h : memWf s.mem) : memWf (dropClaim s d t).mem := by
  unfold dropClaim
  grind [memWf_modCore]

theorem memWf_dropClaims {s : State} (t : Thread) (h : memWf s.mem) : memWf (dropClaims s t).mem := by
  unfold dropClaims
  grind [memWf_dropClaim, memWf_foldl]

theorem memWf_markTriggered {s : State} (t : Thread) (h : memWf s.mem) : memWf (markTriggered s t).mem := by
  unfold markTriggered
  grind [memWf_modLaunch]

theorem memWf_vacate {s : State} (c i : Nat) (x : Content) (h : memWf s.mem) : memWf (vacate s c i x).mem := h

theorem memWf_moveOut {s : State} (c i : Nat) (h : memWf s.mem) : memWf (moveOut s c i).mem := h

theorem memWf_dropResv {s : State} (c i : Nat) (h : memWf s.mem) : memWf (dropResv s c i).mem := h

theorem memWf_endThread {s : State} (c i : Nat) (t : Thread) (code : Nat) (err : BitVec 4) (h : memWf s.mem) :
    memWf (endThread s c i t code err).mem := by
  unfold endThread
  grind [memWf_leaveLaunch, memWf_dropClaims, memWf_vacate, memWf_dropResv]

theorem memWf_dropPair {s : State} (c i : Nat) (h : memWf s.mem) : memWf (dropPair s c i).mem := h

theorem memWf_endPair {s : State} (c : Nat) (p : Pair) (t : Thread) (code : Nat) (err : BitVec 4) (h : memWf s.mem) :
    memWf (endPair s c p t code err).mem := by
  unfold endPair
  grind [memWf_vacate, memWf_endThread, memWf_dropPair]

theorem memWf_releaseHolder {s : State} (c : Nat) (e : Joint) (h : memWf s.mem) : memWf
    (releaseHolder s c e).mem := by
  unfold releaseHolder
  grind [memWf_modCore, memWf_modThread]

theorem memWf_killThread {s : State} (c i : Nat) (h : memWf s.mem) : memWf (killThread s c i).mem := by
  unfold killThread
  grind [memWf_modCore, memWf_setSlot, memWf_errReport, memWf_consumed, memWf_wakeParked, memWf_leaveLaunch,
    memWf_dropClaims, memWf_vacate, memWf_dropResv]

end Sys2Proof.Machine

/-! Memory's canonical form (O5): launches, the instructions of pages 4 and 5, messages and the queue registers. -/

namespace Sys2Proof.Machine

open Host (Outcome)

def Enq.MemOk : Enq → Prop
  | .taken s | .halted s => memWf s.mem
  | .full => True

/-! ### Launches, threads and messages -/

theorem memWf_setQueue {s : State} (q : Nat) (x : Queue) (h : memWf s.mem) : memWf (setQueue s q x).mem := h

theorem memWf_queueFault {s : State} (q addr : Nat) (h : memWf s.mem) : memWf (queueFault s q addr).mem := by
  unfold queueFault
  grind [memWf_errReport, memWf_setQueue]

theorem memWf_frontStore {s : State} (p : Place) (n v : Nat) (h : memWf s.mem) : memWf (frontStore s p n v).mem := by
  unfold frontStore
  grind [memWf_takeBack, memWf_storeNat]

theorem memWf_frontTouch {s : State} (asn va n : Nat) (h : memWf s.mem) : memWf (frontTouch s asn va n).mem := by
  unfold frontTouch
  grind [memWf_takeBack, memWf_foldl]

theorem memWf_headArrives {s0 : State} (q : Nat) (h : memWf s0.mem) : memWf (headArrives s0 q).mem := by
  unfold headArrives
  grind [memWf_setQueue, memWf_frontTouch]

theorem memWf_dropWaits {s : State} (lid : Nat) (h : memWf s.mem) : memWf (dropWaits s lid).mem := h

theorem memOk_enqueue {s : State} (q : Nat) (r : Rec) (h : memWf s.mem) : (enqueue s q r).MemOk := by
  unfold enqueue
  grind [memWf_setQueue, memWf_queueFault, memWf_frontStore, memWf_headArrives, Enq.MemOk]

theorem keepsMem_execOverflowRefill {s : State} (queue : Nat) (h : memWf s.mem) :
    KeepsMem (execOverflowRefill queue s) := by
  refine keepsMem_next ?_
  grind [memWf_takeBack, memWf_setQueue, memWf_queueFault, memWf_headArrives, keepsMem_next]

theorem memWf_freeBuffer {s : State} (b : Option (Nat × Nat)) (h : memWf s.mem) : memWf (freeBuffer s b).mem := by
  unfold freeBuffer
  grind

theorem memWf_frontWrite {s : State} (asn va n v : Nat) (h : memWf s.mem) : memWf
    (frontWrite s asn va n v).1.mem := by
  unfold frontWrite
  grind [memWf_frontStore]

theorem memWf_frontWrites (asn : Nat) (ws : List (Nat × Nat × Nat)) {s : State} (h : memWf s.mem) :
    memWf (frontWrites asn ws s).1.mem := by
  induction ws generalizing s with
  | nil => exact h
  | cons w ws ih =>
    unfold frontWrites
    grind [memWf_frontWrite]

theorem memWf_writeDone {s : State} (asn d status : Nat) (h : memWf s.mem) : memWf
    (writeDone s asn d status).mem := by
  unfold writeDone
  grind [memWf_frontWrites, memWf_errReport]

theorem memWf_finishLaunch {s : State} (asn d : Nat) (service : Option (Nat × Nat)) (status core : Nat)
    (h : memWf s.mem) :
    memWf (finishLaunch s asn d service status core).mem := by
  unfold finishLaunch
  grind [memWf_traceRecord, memWf_dropWaits, memWf_freeBuffer, memWf_writeDone]

theorem keepsMem_execLaunchStart {s : State} (queue : Nat) (h : memWf s.mem) : KeepsMem
    (execLaunchStart queue s) := by
  refine keepsMem_next ?_
  grind [memWf_traceRecord, memWf_setQueue, memWf_headArrives, memWf_finishLaunch, keepsMem_next]

theorem memWf_copyImage {s : State} (asn va n : Nat) (dst : Place) (h : memWf s.mem) :
    memWf (copyImage s asn va n dst).mem := by
  unfold copyImage
  grind [memWf_takeBack, memWf_storeNat, memWf_foldl]

theorem memWf_placeImages {s : State} (l : Launch) (c : Nat) (loc : Bool) (h : memWf s.mem) :
    memWf (placeImages s l c loc).mem := by
  unfold placeImages
  grind [memWf_modLaunch, memWf_copyImage]

theorem memWf_arriveImages {s : State} (t : Thread) (c : Nat) (loc : Bool) (h : memWf s.mem) :
    memWf (arriveImages s t c loc).mem := by
  unfold arriveImages
  grind [memWf_placeImages]

theorem memWf_readyCore {s : State} (l : Launch) (c : Nat) (h : memWf s.mem) : memWf (readyCore s l c).mem := by
  unfold readyCore
  grind [memWf_modCore, memWf_placeImages]

theorem memWf_seedAt {s : State} (l : Launch) (c : Nat) (h : memWf s.mem) : memWf (seedAt s l c).mem := by
  unfold seedAt
  grind [memWf_modCore, memWf_setThread, keepsMem_next]

theorem keepsMem_execTaskPlace {s : State} (lid : Nat) (h : memWf s.mem) : KeepsMem (execTaskPlace lid s) := by
  refine keepsMem_next ?_
  grind [memWf_modLaunch, memWf_readyCore, memWf_seedAt, keepsMem_next]

theorem keepsMem_execPlacingOverNotice {s : State} (lid core : Nat) (h : memWf s.mem) :
    KeepsMem (execPlacingOverNotice lid core s) := by
  refine keepsMem_next ?_
  grind [memWf_modLaunch, keepsMem_next]

theorem keepsMem_execDoneMessage {s : State} (lid core : Nat) (h : memWf s.mem) :
    KeepsMem (execDoneMessage lid core s) := by
  refine keepsMem_next ?_
  grind [memWf_modLaunch, keepsMem_next]

theorem keepsMem_execLaunchComplete {s : State} (lid : Nat) (h : memWf s.mem) : KeepsMem
    (execLaunchComplete lid s) := by
  refine keepsMem_next ?_
  grind [memWf_finishLaunch, keepsMem_next]

theorem keepsMem_execBarEpisodeOpen {s : State} (core slot : Nat) (h : memWf s.mem) :
    KeepsMem (execBarEpisodeOpen core slot s) := by
  refine keepsMem_next ?_
  grind [memWf_modPend, memWf_foldl, keepsMem_next]

theorem memOk_spawnWith {s : State} (x : Ctx) (t : Thread) (a : Nat) (ws : List Word) (h : memWf s.mem) :
    (spawnWith x t a s ws).MemOk := by
  unfold spawnWith
  grind [memWf_setThread, memOk_done, Res.MemOk]

theorem memOk_recordOp {s : State} (x : Ctx) (t : Thread) (a : Word) (n : Nat) (k : State → List Word → Res)
    (h : memWf s.mem) (hk : ∀ (s : State) (b : List Word), memWf s.mem → (k s b).MemOk) :
    (recordOp x t s a n k).MemOk := by
  unfold recordOp
  grind [memOk_rangeOp, Res.MemOk]

theorem keepsMem_execSpawn (o : ShU) {s : State} (h : memWf s.mem) : KeepsMem (execSpawn o s) := by
  refine keepsMem_issue _ (fun x t s h => ?_) h
  grind [memOk_spawnWith, memOk_recordOp, Res.MemOk]

theorem keepsMem_execReap (o : ShU) {s : State} (h : memWf s.mem) : KeepsMem (execReap o s) := by
  refine keepsMem_issue _ (fun x t s h => ?_) h
  grind [memWf_setContent, memOk_done, Res.MemOk]

theorem keepsMem_execExit (o : ShA) {s : State} (h : memWf s.mem) : KeepsMem (execExit o s) := by
  refine keepsMem_issue _ (fun x t s h => ?_) h
  split
  · trivial
  split
  · trivial
  split
  · exact fun _ h => h
  · exact memWf_endThread _ _ _ _ _ h

theorem keepsMem_execTrigger (o : ShZ) {s : State} (h : memWf s.mem) : KeepsMem (execTrigger o s) := by
  refine keepsMem_issue _ (fun x t s h => ?_) h
  grind [memOk_done, memWf_markTriggered, Res.MemOk]

theorem memWf_launchEnqueue {s : State} (q : Nat) (desc : Nat) (h : memWf s.mem) :
    memWf (launchEnqueue s q desc).1.mem := by
  unfold launchEnqueue
  grind [memOk_enqueue, Enq.MemOk]

theorem keepsMem_execLaunch (o : ShT) {s : State} (h : memWf s.mem) : KeepsMem (execLaunch o s) := by
  refine keepsMem_issue _ (fun x t s h => ?_) h
  grind [memOk_done, memOk_piecesOp, memWf_launchEnqueue, Res.MemOk]

theorem keepsMem_execBar (o : ShSc) {s : State} (h : memWf s.mem) : KeepsMem (execBar o s) := by
  refine keepsMem_issue _ (fun x t s h => ?_) h
  grind [memOk_done, Res.MemOk]

theorem memWf_post {s : State} (srcCore srcSlot dst chan : Nat) (payload : List Word) (held about : Option Nat)
    (h : memWf s.mem) :
    memWf (post s srcCore srcSlot dst chan payload held about).mem := h

theorem memOk_chanOp (x : Ctx) (t : Thread) (a : Nat) (k : Nat → Res) (hk : ∀ n, (k n).MemOk) :
    (chanOp x t a k).MemOk := by
  unfold chanOp
  dsimp only
  split
  · trivial
  · exact hk _

theorem keepsMem_execChset (o : ShAB) {s : State} (h : memWf s.mem) : KeepsMem (execChset o s) := by
  refine keepsMem_issue _ (fun x t s h => ?_) h
  grind [memWf_modCore, memOk_done, memOk_chanOp, Res.MemOk]

theorem memOk_blockChan {s : State} (b : Bool) (x : Ctx) (ch : Nat) (h : memWf s.mem) :
    (blockChan b x s ch).MemOk := h

theorem keepsMem_execChblk (o : ShA) {s : State} (h : memWf s.mem) : KeepsMem (execChblk o s) := by
  refine keepsMem_issue _ (fun x t s h => ?_) h
  grind [memOk_chanOp, memOk_blockChan, Res.MemOk]

theorem keepsMem_execChunb (o : ShA) {s : State} (h : memWf s.mem) : KeepsMem (execChunb o s) := by
  refine keepsMem_issue _ (fun x t s h => ?_) h
  grind [memOk_chanOp, memOk_blockChan, Res.MemOk]

theorem keepsMem_execSend (o : ShAB) {s : State} (h : memWf s.mem) : KeepsMem (execSend o s) := by
  refine keepsMem_issue _ (fun x t s h => ?_) h
  dsimp only
  split
  · trivial
  split
  · trivial
  split
  · exact fun _ h => h
  · exact memWf_post _ _ _ _ _ _ _ h

theorem memWf_answerSend {s : State} (m : Msg) (kept : Bool) (h : memWf s.mem) : memWf (answerSend s m kept).mem := by
  unfold answerSend
  grind [memWf_modPend]

theorem memWf_wakeByMessage {s : State} (c i : Nat) (h : memWf s.mem) : memWf (wakeByMessage s c i).mem := by
  unfold wakeByMessage
  grind [memWf_modPend]

theorem keepsMem_execMessageArrival {s : State} (n : Nat) (h : memWf s.mem) : KeepsMem (execMessageArrival n s) := by
  refine keepsMem_next ?_
  grind [memWf_modCore, memWf_answerSend, memWf_wakeByMessage, keepsMem_next]

theorem memWf_dropMsg {s : State} (c id : Nat) (h : memWf s.mem) : memWf (dropMsg s c id).mem := h

theorem memWf_serveRemote {s : State} (id : Nat) (h : memWf s.mem) : memWf (serveRemote s id).mem := by
  unfold serveRemote
  grind [memWf_attempt]

theorem memWf_withdrawRemote {s : State} (id : Nat) (h : memWf s.mem) : memWf (withdrawRemote s id).mem := by
  unfold withdrawRemote
  grind [memWf_setFlight]

theorem keepsMem_execHandlerDispatch {s : State} (core : Nat) (h : memWf s.mem) :
    KeepsMem (execHandlerDispatch core s) := by
  refine keepsMem_next ?_
  grind [memWf_setThread, memWf_dropMsg, memWf_serveRemote, memWf_withdrawRemote, keepsMem_next]

theorem keepsMem_execFreshDispatch {s : State} (core : Nat) (h : memWf s.mem) : KeepsMem
    (execFreshDispatch core s) := by
  refine keepsMem_next ?_
  grind [memWf_setThread, memWf_dropMsg, keepsMem_next]

theorem memWf_startResv {s : State} (a : Access) (h : memWf s.mem) : memWf (startResv s a).mem := by
  unfold startResv
  grind

theorem memWf_nextFrameWord {s : State} (a : Access) (h : memWf s.mem) : memWf (nextFrameWord s a).mem := h

theorem keepsMem_execRemoteReply {s : State} (id : Nat) (h : memWf s.mem) : KeepsMem (execRemoteReply id s) := by
  refine keepsMem_next ?_
  grind [memWf_completeAccess, memWf_startResv, memWf_nextFrameWord, keepsMem_next]

theorem keepsMem_execWithdrawalAnswer {s : State} (core slot : Nat) (h : memWf s.mem) :
    KeepsMem (execWithdrawalAnswer core slot s) := by
  refine keepsMem_next ?_
  grind [memWf_modPend, memWf_trapPend, memWf_dropFlight, memWf_completeAccess, keepsMem_next]

theorem memOk_bindDone {s : State} (x : Ctx) (q : Nat) (t : Thread) (h : memWf s.mem) : (bindDone s x q t).MemOk := h

theorem keepsMem_execBind (o : ShBind) {s : State} (h : memWf s.mem) : KeepsMem (execBind o s) := by
  refine keepsMem_issue _ (fun x t s h => ?_) h
  grind [memOk_done, memOk_recordOp, memOk_bindDone, Res.MemOk]

theorem keepsMem_execUnbind (o : ShQ) {s : State} (h : memWf s.mem) : KeepsMem (execUnbind o s) := by
  refine keepsMem_issue _ (fun x t s h => ?_) h
  grind [memOk_bindDone, Res.MemOk]

theorem memWf_streamWord {s : State} (c : Nat) (t : Thread) (a : Word) (need : Need) (h : memWf s.mem) :
    memWf (streamWord s c t a need).1.mem := by
  unfold streamWord
  grind [memWf_walkAll]

theorem memWf_stopStream {s : State} (c i q : Nat) (f : Cause × Word × Bool × Nat) (h : memWf s.mem) :
    memWf (stopStream s c i q f).mem := by
  unfold stopStream
  grind [memWf_modThread]

theorem memWf_logFill {s : State} (c i q : Nat) (t : Thread) (p : Pair) (h : memWf s.mem) :
    memWf (logFill s c i q t p).mem := by
  unfold logFill
  grind [memWf_setThread, memWf_setPair]

theorem memWf_fillWord {s : State} (c i q : Nat) (t : Thread) (a : Nat) (w : Word) (h : memWf s.mem) :
    memWf (fillWord s c i q t a w).mem := by
  unfold fillWord
  grind [memWf_setThread, memWf_setPair]

theorem memWf_deliver {s : State} (c i q : Nat) (t : Thread) (h : memWf s.mem) : memWf (deliver s c i q t).mem := by
  unfold deliver
  grind [memWf_fillWord, keepsMem_next]

theorem memWf_readAhead {s : State} (c i q : Nat) (t : Thread) (h : memWf s.mem) : memWf
    (readAhead s c i q t).mem := by
  unfold readAhead
  grind [memWf_modThread, memWf_consumed, memWf_countPlace, memWf_countMarks, memWf_settleEarlier, memWf_addFlight,
    memWf_sendRemote, memWf_streamWord, memWf_stopStream]

theorem memWf_fill {s : State} (c i q : Nat) (h : memWf s.mem) : memWf (fill s c i q).mem := by
  unfold fill
  grind [memWf_logFill, memWf_deliver, memWf_readAhead]

theorem keepsMem_execStreamLoadFill {s : State} (core slot queue : Nat) (h : memWf s.mem) :
    KeepsMem (execStreamLoadFill core slot queue s) := by
  refine keepsMem_next ?_
  grind [memWf_fill, keepsMem_next]

theorem memWf_storeOut {s : State} (c i : Nat) (t : Thread) (a : Access) (h : memWf s.mem) :
    memWf (storeOut s c i t a).mem := by
  unfold storeOut
  grind [memWf_setThread, memWf_setPair, memWf_addFlight, memWf_sendRemote]

theorem memWf_matchTaken {s : State} (c i : Nat) (t : Thread) (p : Pair) (h : memWf s.mem) :
    memWf (matchTaken s c i t p).mem := by
  unfold matchTaken
  grind [memWf_setThread, memWf_setPair, memWf_mismatch]

theorem memWf_takeStore {s : State} (c i : Nat) (h : memWf s.mem) : memWf (takeStore s c i).mem := by
  unfold takeStore
  grind [memWf_countMarks, memWf_streamWord, memWf_stopStream, memWf_storeOut, memWf_matchTaken]

theorem keepsMem_execStreamStoreTake {s : State} (core slot : Nat) (h : memWf s.mem) :
    KeepsMem (execStreamStoreTake core slot s) := by
  refine keepsMem_next ?_
  grind [memWf_takeStore, keepsMem_next]

theorem memWf_deliverQ3 {s : State} (c i : Nat) (h : memWf s.mem) : memWf (deliverQ3 s c i).mem := by
  unfold deliverQ3
  grind [memWf_modCore, memWf_logFill, memWf_fillWord]

theorem keepsMem_execQ3Delivery {s : State} (core slot : Nat) (h : memWf s.mem) :
    KeepsMem (execQ3Delivery core slot s) := by
  refine keepsMem_next ?_
  grind [memWf_deliverQ3, keepsMem_next]

end Sys2Proof.Machine

/-! Memory's canonical form (O5): events of memory, convoys, and the copy engine with its collectives. -/

namespace Sys2Proof.Machine

open Host (Outcome)

def AtStop.MemOk : AtStop → Prop
  | .drop s | .over s => memWf s.mem
  | _ => True

def Placed.MemOk : Placed → Prop
  | .slot s | .queue s => memWf s.mem
  | .nowhere => True

def Looked.MemOk : Looked → Prop
  | .merged s | .passed s | .parked s => memWf s.mem

def EngAt.MemOk : EngAt → Prop
  | .at s _ | .fail s _ => memWf s.mem
  | .held => True

def Got.MemOk {α : Type} : Got α → Prop
  | .val s _ | .fail s _ _ _ => memWf s.mem
  | .held => True

def Moved.MemOk : Moved → Prop
  | .done s _ | .failed s _ => memWf s.mem
  | .held => True

/-! ### Events of memory, convoys and copies -/

theorem memWf_passPoints {s : State} (a : Access) (n : Nat) (h : memWf s.mem) : memWf (passPoints s a n).mem := by
  unfold passPoints
  grind [memWf_countOut, memWf_setFlight, memWf_attempt, memWf_foldl]

theorem memWf_performThread {s : State} (id scope : Nat) (h : memWf s.mem) : memWf
    (performThread s id scope).mem := by
  unfold performThread
  grind [memWf_attempt, memWf_sendRequest, memWf_passPoints]

theorem keepsMem_execReservationGrant {s : State} (word : Nat) (h : memWf s.mem) :
    KeepsMem (execReservationGrant word s) := by
  refine keepsMem_next ?_
  grind [memWf_attempt, keepsMem_next]

theorem keepsMem_execReservationTimeout {s : State} (core slot : Nat) (h : memWf s.mem) :
    KeepsMem (execReservationTimeout core slot s) := by
  refine keepsMem_next ?_
  grind [memWf_forceRelease, keepsMem_next]

theorem memWf_askWithdrawal {s : State} (c i id : Nat) (a : Access) (stop : Bool) (h : memWf s.mem) :
    memWf (askWithdrawal s c i id a stop).mem := by
  unfold askWithdrawal
  grind [memWf_modPend]

theorem keepsMem_execWaitlimExpiry {s : State} (core slot : Nat) (h : memWf s.mem) :
    KeepsMem (execWaitlimExpiry core slot s) := by
  refine keepsMem_next ?_
  grind [memWf_trapPend, memWf_dropFlight, memWf_askWithdrawal, keepsMem_next]

theorem memWf_markFault {s : State} (m : Miss) (h : memWf s.mem) : memWf (markFault s m).mem := by
  unfold markFault
  grind [memWf_modThread, memWf_foldl]

theorem keepsMem_execTranslationWalk {s : State} (quad n : Nat) (h : memWf s.mem) :
    KeepsMem (execTranslationWalk quad n s) := by
  refine keepsMem_next ?_
  grind [memWf_tlbFill, memWf_countWalk, memWf_markFault, keepsMem_next]

theorem memWf_startShoot {s : State} (owner : ShootFor) (scope asn page : Nat) (h : memWf s.mem) :
    memWf (startShoot s owner scope asn page).mem := h

theorem memWf_jigDone {s : State} (d : Nat) (h : memWf s.mem) : memWf (jigDone s d).mem := by
  unfold jigDone
  grind [memWf_modPend]

theorem keepsMem_execShootdownComplete {s : State} (h : memWf s.mem) : KeepsMem (execShootdownComplete s) := by
  refine keepsMem_next ?_
  grind [memWf_modPend, memWf_jigDone, keepsMem_next]

theorem keepsMem_execPageRequest {s : State} (n : Nat) (writes : List (Nat × BitVec 64)) (mapped : Bool)
    (h : memWf s.mem) :
    KeepsMem (execPageRequest n writes mapped s) := by
  refine keepsMem_next ?_
  grind [memWf_takeBack, memWf_storeNat, memWf_logInput, memWf_foldl, keepsMem_next]

theorem keepsMem_execPageNotice {s : State} (n : Nat) (h : memWf s.mem) : KeepsMem (execPageNotice n s) := by
  refine keepsMem_next ?_
  grind [memWf_modCore, memWf_wakeByMessage, keepsMem_next]

theorem memOk_atStop {s : State} (c i : Nat) (t : Thread) (h : memWf s.mem) : (atStop s c i t).MemOk := by
  unfold atStop
  grind [memWf_modThread, memWf_dropFlight, memWf_releaseHolder, AtStop.MemOk]

theorem memWf_parkStops {s : State} (c i : Nat) (h : memWf s.mem) : memWf (parkStops s c i).mem := by
  unfold parkStops
  grind [memWf_modThread]

theorem memWf_notePaused {s : State} (c i : Nat) (h : memWf s.mem) : memWf (notePaused s c i).mem := by
  unfold notePaused
  grind [memWf_modCore]

theorem memWf_stopNow {s : State} (c i : Nat) (h : memWf s.mem) : memWf (stopNow c i s).mem := by
  unfold stopNow
  grind [memWf_modCore, memWf_modThread, memOk_atStop, memWf_parkStops, memWf_notePaused, AtStop.MemOk]

theorem keepsMem_execStopEffect {s : State} (core slot : Nat) (h : memWf s.mem) :
    KeepsMem (execStopEffect core slot s) := by
  refine keepsMem_next ?_
  grind [memWf_modThread, memWf_traceRecord, memWf_onThread, memWf_askWithdrawal, memOk_atStop, memWf_stopNow,
    keepsMem_next, AtStop.MemOk]

theorem memWf_addConvoy {s : State} (t : Thread) (h : memWf s.mem) : memWf (addConvoy s t).mem := h

theorem memOk_placeConvoy {s : State} (c : Nat) (t : Thread) (h : memWf s.mem) : (placeConvoy s c t).MemOk := by
  unfold placeConvoy
  grind [memWf_modCore, memWf_setThread, memWf_addConvoy, Placed.MemOk]

theorem keepsMem_execArrivalSlotGrant {s : State} (core : Nat) (h : memWf s.mem) :
    KeepsMem (execArrivalSlotGrant core s) := by
  refine keepsMem_next ?_
  grind [memWf_modCore, memWf_setThread, keepsMem_next]

theorem keepsMem_execPlaceRequest {s : State} (core slot : Nat) (h : memWf s.mem) :
    KeepsMem (execPlaceRequest core slot s) := by
  refine keepsMem_next ?_
  grind [memWf_modCore, memWf_setThread, memWf_modThread, memWf_dropClaim, memWf_moveOut, keepsMem_next]

theorem keepsMem_execConvoyArrival {s : State} (n : Nat) (h : memWf s.mem) : KeepsMem (execConvoyArrival n s) := by
  refine keepsMem_next ?_
  grind [memWf_modCore, memWf_setThread, memWf_arriveImages, keepsMem_next]

theorem memWf_mergeInto {s : State} (c : Nat) (e : Joint) (t : Thread) (h : memWf s.mem) :
    memWf (mergeInto s c e t).mem := by
  unfold mergeInto
  grind [memWf_modCore, memWf_modThread]

theorem memOk_lookupJoin {s : State} (c : Nat) (t : Thread) (holder : Holder) (ia node : Word) (window : Nat)
    (h : memWf s.mem) :
    (lookupJoin s c t holder ia node window).MemOk := by
  unfold lookupJoin
  grind [memWf_modCore, memWf_mergeInto, Looked.MemOk]

theorem keepsMem_execJoin (o : ShI) {s : State} (h : memWf s.mem) : KeepsMem (execJoin o s) := by
  refine keepsMem_issue _ (fun x t s h => ?_) h
  grind [memWf_modThread, memOk_migrate, memWf_endThread, memOk_lookupJoin, keepsMem_next, Looked.MemOk, Res.MemOk]

theorem memWf_setQueued {s : State} (c id : Nat) (f : Queued → Queued) (h : memWf s.mem) :
    memWf (setQueued s c id f).mem := h

theorem keepsMem_execQueuedJoinLookup {s : State} (core : Nat) (h : memWf s.mem) :
    KeepsMem (execQueuedJoinLookup core s) := by
  refine keepsMem_next ?_
  grind [memWf_modCore, memWf_leaveLaunch, memOk_lookupJoin, memWf_setQueued, keepsMem_next, Looked.MemOk]

theorem keepsMem_execJoinExpiry {s : State} (core entry : Nat) (h : memWf s.mem) :
    KeepsMem (execJoinExpiry core entry s) := by
  refine keepsMem_next ?_
  grind [memWf_releaseHolder, keepsMem_next]

theorem memOk_recordWord {s : State} (o : ShM) (kno : Nat) (need : Need) (kind : AccKind) (dsts : List Nat)
    (data : Thread → Word) (x : Ctx) (t : Thread) (h : memWf s.mem) :
    (recordWord o kno need kind dsts data x t s).MemOk := by
  unfold recordWord
  grind [memOk_memAccess, Res.MemOk]

theorem keepsMem_execQld (o : ShM) {s : State} (h : memWf s.mem) : KeepsMem (execQld o s) := by
  refine keepsMem_issue _ (fun x t s h => ?_) h
  grind [memOk_recordWord, Res.MemOk]

theorem keepsMem_execQst (o : ShM) {s : State} (h : memWf s.mem) : KeepsMem (execQst o s) := by
  refine keepsMem_issue _ (fun x t s h => ?_) h
  grind [memOk_recordWord, Res.MemOk]

theorem keepsMem_execQadd (o : ShM) {s : State} (h : memWf s.mem) : KeepsMem (execQadd o s) := by
  refine keepsMem_issue _ (fun x t s h => ?_) h
  grind [memOk_recordWord, Res.MemOk]

theorem memOk_splitWith {s : State} (x : Ctx) (t : Thread) (hi lo : BitVec 256) (h : memWf s.mem) :
    (splitWith x t s hi lo).MemOk := by
  unfold splitWith
  grind [memWf_modThread, memOk_done, memOk_placeConvoy, keepsMem_next, Placed.MemOk, Res.MemOk]

theorem memOk_splitOp {s : State} (a : Nat) (thr : Thread → Word) (x : Ctx) (t : Thread) (h : memWf s.mem) :
    (splitOp a thr x t s).MemOk := by
  unfold splitOp
  grind [memWf_consumed, memWf_settleEarlier, memOk_locTrap, memOk_pageTrap, memOk_waitMiss, memOk_reaching,
    memOk_splitWith, Res.MemOk]

theorem keepsMem_execSplit (o : ShU) {s : State} (h : memWf s.mem) : KeepsMem (execSplit o s) := by
  refine keepsMem_issue _ (fun x t s h => ?_) h
  grind [memOk_splitOp, Res.MemOk]

theorem keepsMem_execSpliti (o : ShI) {s : State} (h : memWf s.mem) : KeepsMem (execSpliti o s) := by
  refine keepsMem_issue _ (fun x t s h => ?_) h
  grind [memOk_splitOp, Res.MemOk]

theorem memOk_convertOp {s : State} (a : Nat) (x : Ctx) (t : Thread) (h : memWf s.mem) :
    (convertOp a x t s).MemOk := by
  unfold convertOp
  grind [memOk_done, memWf_modLaunch, memWf_addConvoy, Res.MemOk]

theorem memOk_createOp {s : State} (a : Nat) (x : Ctx) (t : Thread) (ws : List Word) (h : memWf s.mem) :
    (createOp a x t s ws).MemOk := by
  unfold createOp
  grind [memOk_done, memOk_placeConvoy, Placed.MemOk, Res.MemOk]

theorem keepsMem_execCvy (o : ShU) {s : State} (h : memWf s.mem) : KeepsMem (execCvy o s) := by
  refine keepsMem_issue _ (fun x t s h => ?_) h
  grind [memOk_recordOp, memOk_convertOp, memOk_createOp, Res.MemOk]

theorem keepsMem_execMpop (o : ShU) {s : State} (h : memWf s.mem) : KeepsMem (execMpop o s) := by
  refine keepsMem_issue _ (fun x t s h => ?_) h
  grind [memOk_done, Res.MemOk]

theorem keepsMem_execMcnt (o : ShMan) {s : State} (h : memWf s.mem) : KeepsMem (execMcnt o s) := keepsMem_issue _
    (fun _ _ _ h => h) h

theorem keepsMem_execMfm (o : ShMan) {s : State} (h : memWf s.mem) : KeepsMem (execMfm o s) := keepsMem_issue _
    (fun _ _ _ h => h) h

theorem keepsMem_execMtm (o : ShMan) {s : State} (h : memWf s.mem) : KeepsMem (execMtm o s) := keepsMem_issue _
    (fun _ _ _ h => h) h

theorem keepsMem_execCexit (o : ShA) {s : State} (h : memWf s.mem) : KeepsMem (execCexit o s) := by
  refine keepsMem_issue _ (fun x t s h => ?_) h
  split
  · trivial
  split
  · exact fun _ h => h
  · exact memWf_endThread _ _ _ _ _ h

theorem memOk_engAt {s : State} (c asn : Nat) (need : Need) (e : Nat) (off : Int) (fresh : Bool) (h : memWf s.mem) :
    (engAt s c asn need e off fresh).MemOk := by
  unfold engAt
  grind [memOk_engineXlate, EngAt.MemOk, EngLoc.MemOk]

theorem memOk_engRead {s : State} (c : Nat) (o : CopyOp) (e : Nat) (off : Int) (h : memWf s.mem) :
    (engRead s c o e off).MemOk := by
  unfold engRead
  grind [memWf_consumed, memWf_settleEarlier, memOk_engAt, EngAt.MemOk, Got.MemOk]

theorem memWf_readIndices (c : Nat) (o : CopyOp) (js : List Nat) {s : State} {p : State × List Index}
    (h : memWf s.mem)
    (e : readIndices c o js s = some p) : memWf p.1.mem := by
  induction js generalizing s o p with
  | nil => cases e; exact h
  | cons j js ih =>
    have hr := memOk_engRead c o o.idx (4 * j) h
    simp only [readIndices] at e
    split at e <;> rename_i eg
    · rw [eg] at hr
      obtain ⟨r, er, rfl⟩ := Option.map_eq_some_iff.mp e
      exact (ih _ hr er :)
    · cases e
    · rw [eg] at hr
      obtain ⟨r, er, rfl⟩ := Option.map_eq_some_iff.mp e
      exact (ih _ hr er :)

theorem memWf_indicesOf {s : State} (c : Nat) (o : CopyOp) {p : State × List Index} (h : memWf s.mem)
    (e : indicesOf s c o = some p) : memWf p.1.mem := by
  unfold indicesOf at e
  grind [memWf_readIndices]

theorem memOk_placeCopy {s : State} (b : Word) (x : Ctx) (t : Thread) (o : CopyOp) (h : memWf s.mem) :
    (placeCopy b x t s o).MemOk := by
  unfold placeCopy
  split
  · trivial
  split
  · trivial
  split
  · trivial
  split
  · trivial
  · exact memWf_modCore _ _ h

theorem memOk_queueCopy {s : State} (kind : CopyKind) (a b : Word) (x : Ctx) (t : Thread) (ws : List Word)
    (h : memWf s.mem) : (queueCopy kind a b x t s ws).MemOk := by
  unfold queueCopy
  dsimp only
  split
  · trivial
  split
  · exact fun _ h => h
  · rename_i e
    exact memOk_placeCopy _ _ _ _ (memWf_indicesOf _ _ h e)

theorem memOk_copyOp {s : State} (kind : CopyKind) (o : ShU) (x : Ctx) (t : Thread) (h : memWf s.mem) :
    (copyOp kind o x t s).MemOk := by
  unfold copyOp
  grind [memOk_recordOp, memOk_queueCopy, Res.MemOk]

theorem keepsMem_execCpy (o : ShU) {s : State} (h : memWf s.mem) : KeepsMem (execCpy o s) := by
  refine keepsMem_issue _ (fun x t s h => ?_) h
  grind [memOk_copyOp, Res.MemOk]

theorem keepsMem_execCpy2 (o : ShU) {s : State} (h : memWf s.mem) : KeepsMem (execCpy2 o s) := by
  refine keepsMem_issue _ (fun x t s h => ?_) h
  grind [memOk_copyOp, Res.MemOk]

theorem keepsMem_execGth (o : ShU) {s : State} (h : memWf s.mem) : KeepsMem (execGth o s) := by
  refine keepsMem_issue _ (fun x t s h => ?_) h
  grind [memOk_copyOp, Res.MemOk]

theorem keepsMem_execSct (o : ShU) {s : State} (h : memWf s.mem) : KeepsMem (execSct o s) := by
  refine keepsMem_issue _ (fun x t s h => ?_) h
  grind [memOk_copyOp, Res.MemOk]

theorem keepsMem_execColl (o : ShU) {s : State} (h : memWf s.mem) : KeepsMem (execColl o s) := by
  refine keepsMem_issue _ (fun x t s h => ?_) h
  grind [memOk_copyOp, Res.MemOk]

theorem keepsMem_execWaitany (o : ShAB) {s : State} (h : memWf s.mem) : KeepsMem (execWaitany o s) := by
  refine keepsMem_issue _ (fun x t s h => ?_) h
  grind [memWf_countWait, memOk_done, Res.MemOk]

theorem keepsMem_execWaitall (o : ShB) {s : State} (h : memWf s.mem) : KeepsMem (execWaitall o s) := by
  refine keepsMem_issue _ (fun x t s h => ?_) h
  grind [memWf_countWait, memOk_done, Res.MemOk]

theorem keepsMem_execTagff (o : ShAB) {s : State} (h : memWf s.mem) : KeepsMem (execTagff o s) := keepsMem_issue _
    (fun _ _ _ h => h) h

theorem keepsMem_execTagclr (o : ShB) {s : State} (h : memWf s.mem) : KeepsMem (execTagclr o s) := keepsMem_issue _
    (fun _ _ _ h => h) h

theorem keepsMem_execCopyStart {s : State} (core : Nat) (h : memWf s.mem) : KeepsMem (execCopyStart core s) := by
  refine keepsMem_next ?_
  grind [memWf_modCore, keepsMem_next]

theorem memOk_sourceWord {s : State} (c : Nat) (o : CopyOp) (k : Nat) (off : Int) (h : memWf s.mem) :
    (sourceWord s c o k off).MemOk := by
  unfold sourceWord
  grind [memOk_engRead, Got.MemOk]

theorem memWf_writeOut {s : State} (a : Access) (h : memWf s.mem) : memWf (writeOut s a).mem := by
  unfold writeOut
  grind [memWf_storePart, memWf_addFlight, memWf_foldl]

theorem memOk_moveWord {s : State} (c : Nat) (o : CopyOp) (k : Nat) (h : memWf s.mem) : (moveWord s c o k).MemOk := by
  unfold moveWord
  dsimp only
  (repeat' split) <;> grind [memWf_settleEarlier, memOk_engAt, memOk_sourceWord, memWf_writeOut, EngAt.MemOk,
    Got.MemOk, Moved.MemOk]

theorem memWf_setCopy {s : State} (c : Nat) (o : CopyOp) (h : memWf s.mem) : memWf (setCopy s c o).mem := h

theorem memWf_performCopy {s : State} (c id k : Nat) (h : memWf s.mem) : memWf (performCopy s c id k).mem := by
  unfold performCopy
  grind [memOk_moveWord, memWf_setCopy, Moved.MemOk]

theorem memWf_moveAll (c : Nat) (ks : List Nat) {s : State} (o : CopyOp) (h : memWf s.mem) :
    memWf (moveAll c ks s o).1.mem := by
  induction ks generalizing s o with
  | nil => exact h
  | cons k ks ih =>
    unfold moveAll
    grind [memOk_moveWord, Moved.MemOk]

theorem memOk_readAll (c : Nat) (ks : List Nat) {s : State} (o : CopyOp) (h : memWf s.mem) :
    (readAll c ks s o).MemOk := by
  induction ks generalizing s o with
  | nil => exact h
  | cons k ks ih =>
    unfold readAll
    grind [memOk_sourceWord, Got.MemOk]

theorem memWf_codeCopy (c : Nat) {s : State} (o : CopyOp) (h : memWf s.mem) : memWf (codeCopy c s o).1.mem := by
  have hr := memOk_readAll c (leftWords o) o h
  unfold codeCopy
  grind [Got.MemOk, memWf_foldl, memWf_storeWord]

theorem memWf_runCopy (c : Nat) {s : State} (o : CopyOp) (h : memWf s.mem) : memWf (runCopy c s o).1.mem := by
  unfold runCopy
  grind [memWf_codeCopy, memWf_moveAll]

theorem memWf_noteIn {s : State} (c : Nat) (o : CopyOp) (h : memWf s.mem) : memWf (noteIn s c o).mem := by
  unfold noteIn
  grind [memWf_modCore, memWf_wakeByMessage]

theorem memWf_tellFailure {s : State} (c : Nat) (o : CopyOp) (h : memWf s.mem) : memWf (tellFailure s c o).mem := by
  unfold tellFailure
  grind [memWf_errReport, memWf_post]

theorem memWf_finishCopy {s : State} (c : Nat) (o : CopyOp) (h : memWf s.mem) : memWf (finishCopy s c o).mem := by
  unfold finishCopy
  grind [memWf_modCore, memWf_noteIn, memWf_tellFailure]

theorem keepsMem_execCopyComplete {s : State} (core op : Nat) (h : memWf s.mem) :
    KeepsMem (execCopyComplete core op s) := by
  refine keepsMem_next ?_
  grind [memWf_setCopy, memWf_runCopy, memWf_finishCopy, keepsMem_next]

theorem memWf_peerWord {s : State} (c : Nat) (o : CopyOp) {p : State × Nat × Place} (h : memWf s.mem)
    (e : peerWord s c o = some p) :
    memWf p.1.mem := by
  unfold peerWord at e
  grind [memOk_engAt, EngAt.MemOk]

theorem memWf_endAll {s : State} (ps : List (Nat × CopyOp)) (status e who : Nat) (h : memWf s.mem) :
    memWf (endAll s ps status e who).mem := by
  unfold endAll
  grind [memWf_setCopy, memWf_foldl]

theorem memOk_sourceWords (c : Nat) (o : CopyOp) (ks : List Nat) {s : State} (h : memWf s.mem) :
    (sourceWords c o ks s).MemOk := by
  induction ks generalizing s o with
  | nil => exact h
  | cons k ks ih =>
    unfold sourceWords
    grind [memOk_sourceWord, Got.MemOk]

theorem memOk_gatherSources (ps : List (Nat × CopyOp)) {s : State} (h : memWf s.mem) :
    (gatherSources ps s).MemOk := by
  induction ps generalizing s with
  | nil => exact h
  | cons p ps ih =>
    unfold gatherSources
    grind [memOk_sourceWords, Got.MemOk]

theorem keepsMem_execCollCombine (core op : Nat) (order : List Nat) {s : State} (h : memWf s.mem) :
    KeepsMem (execCollCombine core op order s) := by
  refine keepsMem_next ?_
  split
  · exact h
  · rename_i o _
    split
    · exact h
    have hg := memOk_gatherSources (inOrder (matched s core o) order) h
    grind [Got.MemOk, memWf_endAll, memWf_foldl, memWf_setCopy]

end Sys2Proof.Machine

/-! Memory's canonical form (O5): control cores, and the instructions and commands of the matrix engine. -/

namespace Sys2Proof.Machine

open Host (Outcome)

def CtlEnd.MemOk : CtlEnd → Prop
  | .next s _ => memWf s.mem
  | _ => True

def Mapped.MemOk : Mapped → Prop
  | .all s _ | .fault s _ _ _ _ => memWf s.mem
  | .held => True

def Operand.MemOk : Operand → Prop
  | .val s _ | .fail s _ => memWf s.mem
  | .held => True

def Ran.MemOk : Ran → Prop
  | .over s _ _ | .more s => memWf s.mem
  | .held => True

/-! ### The matrix engine and the control cores -/

theorem memWf_ctlWrite {s : State} (a n v : Nat) (h : memWf s.mem) : memWf (ctlWrite s a n v).mem := h

theorem memWf_ctlPut {s : State} (a : Nat) (v : CapVal) (h : memWf s.mem) : memWf (ctlPut s a v).mem := h

theorem memWf_retire {s : State} (n : Nat) (h : memWf s.mem) : memWf (retire s n).mem := h

theorem memWf_capTrap {s : State} (n : Nat) (h : memWf s.mem) : memWf (capTrap s n).mem := h

theorem memWf_capFatal {s : State} (n : Nat) (h : memWf s.mem) : memWf (capFatal s n).mem := by
  unfold capFatal
  grind [memWf_fatalStop, memWf_capTrap]

theorem memWf_firmwareOp {s : State} (c : Cap) (u : CapUse) (a n : Nat) (f : State → State)
    (hf : ∀ (s : State), memWf s.mem → memWf (f s).mem) (h : memWf s.mem) :
    memWf (firmwareOp c u a n f s).mem := by
  unfold firmwareOp
  grind [memWf_retire, memWf_capFatal]

theorem memWf_keepCap {s : State} (n : Nat) (c : Cap) (h : memWf s.mem) : memWf (keepCap s n c).mem := by
  unfold keepCap
  grind [memWf_ctlPut, memWf_firmwareOp]

theorem memWf_keepFrame {s : State} (n len v : Nat) (h : memWf s.mem) : memWf (keepFrame s n len v).mem := by
  unfold keepFrame
  grind [memWf_ctlWrite, memWf_firmwareOp]

theorem memOk_rvWrite {s : State} (n rd : Nat) (v : BitVec 64) (pc : BitVec 64) (h : memWf s.mem) :
    (rvWrite s n rd v pc).MemOk := h

theorem memOk_through (k : CtlCore) (u : CapUse) (r : Nat) (imm : BitVec 64) (n : Nat) (f : Nat → CtlEnd)
    (hf : ∀ (a : Nat), (f a).MemOk) :
    (through k u r imm n f).MemOk := by
  unfold through
  grind [CtlEnd.MemOk]

theorem memOk_rvAtomic {s : State} (n f5 : Nat) (w : Bool) (rd a : Nat) (v pc : BitVec 64) (h : memWf s.mem) :
    (rvAtomic s n f5 w rd a v pc).MemOk := by
  unfold rvAtomic
  grind [memWf_setCtl, memWf_ctlWrite, memOk_rvWrite, CtlEnd.MemOk]

theorem memOk_rvExec {s : State} (n : Nat) (o : RvOp) (next : BitVec 64) (h : memWf s.mem) :
    (rvExec s n o next).MemOk := by
  unfold rvExec
  grind [memWf_setCtl, memWf_ctlWrite, memWf_ctlPut, memOk_rvWrite, memOk_through, memOk_rvAtomic, keepsMem_next,
    CtlEnd.MemOk]

theorem memWf_ctlStep {s : State} (n : Nat) (h : memWf s.mem) : memWf (ctlStep n s).mem := by
  unfold ctlStep
  grind [memWf_setCtl, memWf_retire, memWf_capFatal, memOk_rvExec, keepsMem_next, CtlEnd.MemOk]

theorem keepsMem_execMovi (o : ShI) {s : State} (h : memWf s.mem) : KeepsMem (execMovi o s) := keepsMem_issue _
    (fun _ _ _ h => h) h

theorem keepsMem_execSel (o : ShT) {s : State} (h : memWf s.mem) : KeepsMem (execSel o s) := keepsMem_issue _
    (fun _ _ _ h => h) h

theorem keepsMem_runVV (o : ShVV) (f : Word → Word → Word) {s : State} (h : memWf s.mem) : KeepsMem
    (runVV o f s) := keepsMem_issue _ (fun _ _ _ h => h) h

theorem keepsMem_runVCmp (o : ShSVV) (rel : Word → Word → Bool) {s : State} (h : memWf s.mem) :
    KeepsMem (runVCmp o rel s) := keepsMem_issue _ (fun _ _ _ h => h) h

theorem keepsMem_runVRed (o : ShSV) (f : Word → Word → Word) (e : Word) {s : State} (h : memWf s.mem) :
    KeepsMem (runVRed o f e s) := keepsMem_issue _ (fun _ _ _ h => h) h

theorem keepsMem_execVsel (o : ShVV) {s : State} (h : memWf s.mem) : KeepsMem (execVsel o s) := keepsMem_issue _
    (fun _ _ _ h => h) h

theorem keepsMem_execVbcast (o : ShVS) {s : State} (h : memWf s.mem) : KeepsMem (execVbcast o s) := keepsMem_issue _
    (fun _ _ _ h => h) h

theorem keepsMem_execVext (o : ShSVS) {s : State} (h : memWf s.mem) : KeepsMem (execVext o s) := keepsMem_issue _
    (fun _ _ _ h => h) h

theorem keepsMem_execVins (o : ShVSS) {s : State} (h : memWf s.mem) : KeepsMem (execVins o s) := by
  refine keepsMem_issue _ (fun x t s h => ?_) h
  grind [memOk_writeOne, Res.MemOk]

theorem keepsMem_execVperm (o : ShVV) {s : State} (h : memWf s.mem) : KeepsMem (execVperm o s) := keepsMem_issue _
    (fun _ _ _ h => h) h

theorem keepsMem_execVscan (o : ShVU) {s : State} (h : memWf s.mem) : KeepsMem (execVscan o s) := keepsMem_issue _
    (fun _ _ _ h => h) h

theorem keepsMem_runFVV (o : ShVV) (f : Word → Word → FpOut) {s : State} (h : memWf s.mem) :
    KeepsMem (runFVV o f s) := keepsMem_issue _ (fun _ _ _ h => h) h

theorem keepsMem_runFVU (o : ShVU) (f : Word → FpOut) {s : State} (h : memWf s.mem) : KeepsMem
    (runFVU o f s) := keepsMem_issue _ (fun _ _ _ h => h) h

theorem keepsMem_execVfma (o : ShVV) {s : State} (h : memWf s.mem) : KeepsMem (execVfma o s) := keepsMem_issue _
    (fun _ _ _ h => h) h

theorem keepsMem_execVfred (o : ShSV) {s : State} (h : memWf s.mem) : KeepsMem (execVfred o s) := keepsMem_issue _
    (fun _ _ _ h => h) h

theorem keepsMem_execVfscan (o : ShVU) {s : State} (h : memWf s.mem) : KeepsMem (execVfscan o s) := keepsMem_issue _
    (fun _ _ _ h => h) h

theorem keepsMem_execVcvtif (o : ShVVS) {s : State} (h : memWf s.mem) : KeepsMem
    (execVcvtif o s) := keepsMem_issue _ (fun _ _ _ h => h) h

theorem keepsMem_execVcvtfi (o : ShVVS) {s : State} (h : memWf s.mem) : KeepsMem
    (execVcvtfi o s) := keepsMem_issue _ (fun _ _ _ h => h) h

theorem keepsMem_execVcvt (o : ShVVS) {s : State} (h : memWf s.mem) : KeepsMem (execVcvt o s) := by
  refine keepsMem_issue _ (fun x t s h => ?_) h
  grind [memOk_moreDsts, memOk_done, Res.MemOk]

theorem keepsMem_execVamax (o : ShAmV) {s : State} (h : memWf s.mem) : KeepsMem (execVamax o s) := keepsMem_issue _
    (fun _ _ _ h => h) h

theorem keepsMem_execPrec (o : ShFB4) {s : State} (h : memWf s.mem) : KeepsMem (execPrec o s) := by
  refine keepsMem_issue _ (fun x t s h => ?_) h
  dsimp only
  split
  · exact memWf_modCore _ _ h
  split
  · trivial
  · exact memWf_modCore _ _ h

theorem keepsMem_execDupset (o : ShFB4) {s : State} (h : memWf s.mem) : KeepsMem
    (execDupset o s) := keepsMem_issue _ (fun _ _ _ h => h) h

theorem keepsMem_execAmaxrd (o : ShA4) {s : State} (h : memWf s.mem) : KeepsMem (execAmaxrd o s) := keepsMem_issue _
    (fun _ _ _ h => h) h

theorem keepsMem_execAmaxclr (o : ShT4) {s : State} (h : memWf s.mem) : KeepsMem
    (execAmaxclr o s) := keepsMem_issue _ (fun _ _ _ h => h) h

theorem memOk_onTile {s : State} (x : Ctx) (t : Nat) {r : Res} (h : memWf s.mem) (hr : r.MemOk) :
    (onTile x s t r).MemOk := by
  unfold onTile
  split
  · exact h
  · exact hr

theorem keepsMem_execAccz (o : ShT4) {s : State} (h : memWf s.mem) : KeepsMem (execAccz o s) := by
  refine keepsMem_issue _ (fun x t s h => ?_) h
  grind [memWf_modCore, memOk_onTile, Res.MemOk]

theorem keepsMem_execAccrd (o : ShArd) {s : State} (h : memWf s.mem) : KeepsMem (execAccrd o s) := by
  refine keepsMem_issue _ (fun x t s h => ?_) h
  grind [memWf_modCore, memWf_consumed, memOk_moreDsts, memOk_done, memOk_onTile, Res.MemOk]

theorem keepsMem_execAccwr (o : ShF4) {s : State} (h : memWf s.mem) : KeepsMem (execAccwr o s) := by
  refine keepsMem_issue _ (fun x t s h => ?_) h
  grind [memWf_modCore, memOk_onTile, Res.MemOk]

theorem memWf_putCode {s : State} (q : Place) (p pos code : Nat) (h : memWf s.mem) :
    memWf (splitTiles.putCode s q p pos code).mem := memWf_foldl (fun _ _ h => memWf_storeWord _ _ h) h

theorem memWf_splitTiles {s : State} (pa pc : Place) (c : Word) (h : memWf s.mem) : memWf
    (splitTiles s pa pc c).mem :=
  memWf_foldl (fun _ _ h => memWf_putCode _ _ _ _ (memWf_putCode _ _ _ _ h)) h

theorem keepsMem_execOsplit (o : ShR3) {s : State} (h : memWf s.mem) : KeepsMem (execOsplit o s) := by
  refine keepsMem_issue _ (fun x t s h => ?_) h
  dsimp only
  split
  · exact fun _ h => h
  split
  · trivial
  split
  · trivial
  split
  · exact fun _ h => h
  split
  · exact fun _ h => memWf_consumed _ h
  · exact memWf_splitTiles _ _ _ h

theorem memOk_takeEntry {s : State} (x : Ctx) (m : MatCmd) (h : memWf s.mem) : (takeEntry x s m).MemOk := by
  unfold takeEntry
  grind [memWf_modCore, Res.MemOk]

theorem keepsMem_execWld (o : ShF4) {s : State} (h : memWf s.mem) : KeepsMem (execWld o s) := by
  refine keepsMem_issue _ (fun x t s h => ?_) h
  grind [memOk_takeEntry, Res.MemOk]

theorem keepsMem_execMma (o : ShMma) {s : State} (h : memWf s.mem) : KeepsMem (execMma o s) := by
  refine keepsMem_issue _ (fun x t s h => ?_) h
  grind [memOk_takeEntry, Res.MemOk]

theorem keepsMem_execCvtst (o : ShCvt) {s : State} (h : memWf s.mem) : KeepsMem (execCvtst o s) := by
  refine keepsMem_issue _ (fun x t s h => ?_) h
  grind [memOk_takeEntry, Res.MemOk]

theorem keepsMem_execMatrixStart {s : State} (core : Nat) (h : memWf s.mem) : KeepsMem (execMatrixStart core s) := by
  refine keepsMem_next ?_
  grind [memWf_modCore, keepsMem_next]

theorem memOk_mapLines (c : Nat) (m : MatCmd) (need : Need) (ls : List Nat) {s : State} (ps : List (Nat × Place))
    (h : memWf s.mem) : (mapLines c m need ls s ps).MemOk := by
  induction ls generalizing s ps with
  | nil => exact h
  | cons l ls ih =>
    unfold mapLines
    grind [memOk_engineXlate, EngLoc.MemOk, Mapped.MemOk]

theorem memOk_readFrom (c : Nat) (m : MatCmd) (offs : List Nat) {s : State} (ps : List (Nat × Place)) (v : Nat)
    (h : memWf s.mem) : (readFrom c m offs s ps v).MemOk := by
  induction offs generalizing s ps v with
  | nil => exact h
  | cons off offs ih =>
    have hm : (if (smGet ps (m.line off)).isSome then Mapped.all s ps else mapLines c m needR
      [m.line off] s ps).MemOk := by
      split
      · exact h
      · exact memOk_mapLines c m needR _ ps h
    unfold readFrom
    split <;> rename_i e <;> rw [e] at hm
    · trivial
    · exact hm
    · have h1 := fun p => memWf_settleEarlier c [p] (wordsOf p 32) hm
      dsimp only
      split
      · trivial
      split
      · exact memWf_consumed _ (h1 _)
      · exact ih _ _ (h1 _)

theorem memOk_readOperand {s : State} (c : Nat) (m : MatCmd) (n : Nat) (h : memWf s.mem) :
    (readOperand s c m n).MemOk :=
  memOk_readFrom _ _ _ _ _ h

theorem memWf_bothThreads {s : State} (c i : Nat) (f : Thread → Thread) (h : memWf s.mem) :
    memWf (bothThreads s c i f).mem := by
  unfold bothThreads
  grind [memWf_modThread, memWf_setPair]

theorem memOk_takeWords {s : State} (c : Nat) (m : MatCmd) (h : memWf s.mem) : (takeWords s c m).MemOk := by
  unfold takeWords
  grind [memWf_modCore, memWf_bothThreads, Ran.MemOk]

theorem memOk_mmaA {s : State} (c : Nat) (m : MatCmd) (h : memWf s.mem) : (mmaA s c m).MemOk := by
  unfold mmaA
  grind [memOk_readOperand, Operand.MemOk]

theorem memWf_mmaInto {s : State} (c : Nat) (m : MatCmd) (bs : List Block) (data : Nat) (h : memWf s.mem) :
    memWf (mmaInto s c m bs data).mem := h

theorem memOk_runMma {s : State} (c : Nat) (m : MatCmd) (h : memWf s.mem) : (runMma s c m).MemOk := by
  unfold runMma
  grind [memWf_consumed, memOk_takeWords, memOk_mmaA, memWf_mmaInto, Operand.MemOk, Ran.MemOk]

theorem memWf_scatterFree {s : State} (p : Place) (n : Nat) (h : memWf s.mem) : memWf (scatterFree s p n).mem := by
  unfold scatterFree
  grind [memWf_storeWord, memWf_foldl]

theorem memOk_runWld {s : State} (c : Nat) (m : MatCmd) (h : memWf s.mem) : (runWld s c m).MemOk := by
  unfold runWld
  grind [memWf_storeNat, memOk_readOperand, memWf_scatterFree, Operand.MemOk, Ran.MemOk]

theorem memWf_cvtWrite {s : State} (m : MatCmd) (ps : List (Nat × Place)) (w : Nat × Nat × Nat) (h : memWf s.mem) :
    memWf (cvtWrite m ps s w).mem := by
  unfold cvtWrite
  grind [memWf_storeNat]

theorem memWf_cvtSome {s : State} (m : MatCmd) (ps : List (Nat × Place)) (ws : List (Nat × Nat × Nat))
    (h : memWf s.mem) :
    memWf (cvtSome m ps s ws).mem := by
  unfold cvtSome
  grind [memWf_cvtWrite, memWf_foldl]

theorem memOk_cvtStore {s : State} (c : Nat) (m : MatCmd) (cs : List (Nat × BitVec 5)) (ws : List (Nat × Nat × Nat))
    (ps : List (Nat × Place)) (fault : Option MatFail) (h : memWf s.mem) :
    (runCvtst.cvtStore s c m cs ws ps fault).MemOk := by
  have h1 := fun l w => memWf_settleEarlier c l w h
  unfold runCvtst.cvtStore
  dsimp only
  split
  · trivial
  split
  · exact memWf_consumed _ (memWf_cvtSome _ _ _ (h1 _ _))
  · exact memWf_cvtSome _ _ _ (h1 _ _)
  · exact memWf_modCore _ _ (memWf_foldl (fun _ _ h => memWf_cvtWrite _ _ _ h) (h1 _ _))

theorem memOk_runCvtst {s : State} (c : Nat) (m : MatCmd) (h : memWf s.mem) : (runCvtst s c m).MemOk := by
  unfold runCvtst
  grind [memWf_consumed, memOk_mapLines, memOk_cvtStore, Mapped.MemOk, Ran.MemOk]

theorem memWf_countLines {s : State} (c : Nat) (m : MatCmd) (lines : List Nat) (h : memWf s.mem) :
    memWf (countLines s c m lines).mem := by
  unfold countLines
  grind [memOk_mapLines, Mapped.MemOk]

theorem memWf_routeEnds {s : State} (c : Nat) (m : MatCmd) {p : State × Nat × MatFail} (h : memWf s.mem)
    (e : routeEnds s c m = some p) : memWf p.1.mem := by
  obtain ⟨l, -, rfl⟩ := Option.map_eq_some_iff.mp e
  have hl := fun ls => memWf_countLines c m ls h
  dsimp only
  split
  · exact memWf_scatterFree _ _ (hl _)
  · exact memWf_cvtSome _ _ _ (hl _)

theorem memWf_failDetached {s : State} (c : Nat) (m : MatCmd) (f : MatFail) (h : memWf s.mem) :
    memWf (failDetached s c m f).mem := h

theorem memWf_releaseTile {s : State} (c t : Nat) (h : memWf s.mem) : memWf (releaseTile s c t).mem := by
  unfold releaseTile
  grind [memWf_modPend, memWf_foldl]

theorem memWf_matrixThread {s : State} (c : Nat) (m : MatCmd) (f : Option MatFail) (h : memWf s.mem) :
    memWf (matrixThread s c m f).mem := by
  unfold matrixThread
  grind [memWf_modPend, memWf_trapPend, memWf_failDetached]

theorem memOk_runCmd {s : State} (c : Nat) (m : MatCmd) (h : memWf s.mem) : (runCmd s c m).MemOk := by
  unfold runCmd
  grind [memOk_runMma, memOk_runWld, memOk_runCvtst, Ran.MemOk]

theorem memWf_tellMatrix {s : State} (c : Nat) (m : MatCmd) (f : Option MatFail) (h : memWf s.mem) :
    memWf (tellMatrix s c m f).mem := by
  unfold tellMatrix
  grind [memWf_errReport]

theorem memWf_endCmd {s : State} (c : Nat) (m : MatCmd) (cost : Nat) (f : Option MatFail) (h : memWf s.mem) :
    memWf (endCmd s c m cost f).mem := by
  unfold endCmd
  grind [memWf_modCore, memWf_accrue, memWf_bothThreads, memWf_releaseTile, memWf_matrixThread, memWf_tellMatrix]

theorem keepsMem_execMatrixComplete {s : State} (core : Nat) (h : memWf s.mem) :
    KeepsMem (execMatrixComplete core s) := by
  refine keepsMem_next ?_
  grind [memOk_runCmd, memWf_endCmd, keepsMem_next, Ran.MemOk]

end Sys2Proof.Machine

/-! Memory's canonical form (O5): the instructions of page 9, core cycles with slot 0's runtime, checkpoints, drains and start-up. -/

namespace Sys2Proof.Machine

open Host (Outcome)

/-! ### The instructions of page 9, core cycles, checkpoints and start-up -/

theorem memOk_raiseImm (cz : Cause) (o : ShImm) (ret : Word) : (raiseImm cz o ret).MemOk := by
  unfold raiseImm
  grind [Res.MemOk]

theorem keepsMem_execTrap (o : ShImm) {s : State} (h : memWf s.mem) : KeepsMem (execTrap o s) := by
  refine keepsMem_issue _ (fun x t s h => ?_) h
  grind [memOk_raiseImm, keepsMem_next, Res.MemOk]

theorem keepsMem_execSys (o : ShImm) {s : State} (h : memWf s.mem) : KeepsMem (execSys o s) := by
  refine keepsMem_issue _ (fun x t s h => ?_) h
  grind [memOk_raiseImm, keepsMem_next, Res.MemOk]

theorem keepsMem_execBrk (o : ShImm) {s : State} (h : memWf s.mem) : KeepsMem (execBrk o s) := by
  refine keepsMem_issue _ (fun x t s h => ?_) h
  grind [memOk_raiseImm, Res.MemOk]

theorem keepsMem_execEret (o : ShZ) {s : State} (h : memWf s.mem) : KeepsMem (execEret o s) := by
  refine keepsMem_issue _ (fun x t s h => ?_) h
  split
  · exact memWf_setThread _ _ _ h
  · trivial

theorem memOk_resumeWords {s : State} (x : Ctx) (t : Thread) (a : Nat) (v : Word) (ws : List Word) (h : memWf s.mem) :
    (resumeWords x t a v ws s).MemOk := by
  unfold resumeWords
  grind [memWf_modThread, memOk_takeOutside, Res.MemOk]

theorem memOk_resumeRemote {s : State} (x : Ctx) (t : Thread) (a : Nat) (v : Word) (p : Place) (h : memWf s.mem) :
    (resumeRemote x t a v p s).MemOk := by
  unfold resumeRemote
  grind [memWf_setPair, memWf_sendRemote, Res.MemOk]

theorem memOk_resumeRead {s : State} (x : Ctx) (t : Thread) (a : Nat) (v : Word) (h : memWf s.mem) :
    (resumeRead x t a v s).MemOk := by
  unfold resumeRead
  grind [memWf_consumed, memWf_settleEarlier, memOk_locTrap, memOk_pageTrap, memOk_waitMiss, memOk_migrate,
    memOk_reaching, memOk_resumeWords, memOk_resumeRemote, Res.MemOk]

theorem keepsMem_execResume (o : ShU) {s : State} (h : memWf s.mem) : KeepsMem (execResume o s) := by
  refine keepsMem_issue _ (fun x t s h => ?_) h
  grind [memOk_resumeWords, memOk_resumeRead, Res.MemOk]

theorem memOk_segsetPriv (x : Ctx) (t : Thread) (s : State) : (segsetPriv x t s).MemOk := by
  unfold segsetPriv
  grind [Res.MemOk]

theorem memOk_segsetOp {s : State} (o : ShSeg) (x : Ctx) (t : Thread) (h : memWf s.mem) :
    (segsetOp o x t s).MemOk := by
  unfold segsetOp
  grind [memOk_done, Res.MemOk]

theorem keepsMem_execSegset (o : ShSeg) {s : State} (h : memWf s.mem) : KeepsMem (execSegset o s) := by
  unfold execSegset
  split
  · exact keepsMem_issue _ (fun x t s _ => memOk_segsetPriv x t s) h
  · exact keepsMem_issue _ (fun x t s h => memOk_segsetOp o x t h) h

theorem keepsMem_execTlbinv (o : ShAB) {s : State} (h : memWf s.mem) : KeepsMem (execTlbinv o s) := by
  refine keepsMem_issue _ (fun x t s h => ?_) h
  dsimp only
  split
  · exact fun _ h => h
  · exact memWf_startShoot _ _ _ _ h

theorem memOk_relocCheck (x : Ctx) (t : Thread) (a : Word) (r : Xlated) {k : Res} (hk : k.MemOk) :
    (relocCheck x t a r k).MemOk := by
  unfold relocCheck
  grind [memOk_pageTrap, memOk_waitMiss]

theorem memWf_setJig {s : State} (d : Nat) (j : Jig) (h : memWf s.mem) : memWf (setJig s d j).mem := h

theorem memOk_queueReloc {s : State} (x : Ctx) (t : Thread) (src dst : Nat) (free : Bool) (named : Word) (reg : Nat)
    (h : memWf s.mem) :
    (queueReloc x t s src dst free named reg).MemOk := h

theorem keepsMem_execReloc (o : ShR3) {s : State} (h : memWf s.mem) : KeepsMem (execReloc o s) := by
  refine keepsMem_issue _ (fun x t s h => ?_) h
  grind [memOk_relocCheck, memOk_queueReloc, Res.MemOk]

theorem memWf_answerReloc {s : State} (r : JigReq) (status : Word) (h : memWf s.mem) :
    memWf (answerReloc s r status).mem := by
  unfold answerReloc
  grind [memWf_modPend]

theorem memWf_markLeaf {s : State} (asn va : Nat) (b : Bool) (h : memWf s.mem) : memWf (markLeaf s asn va b).mem := by
  unfold markLeaf
  grind [memWf_takeBack, memWf_storeNat]

theorem keepsMem_execJigStart {s : State} (die : Nat) (h : memWf s.mem) : KeepsMem (execJigStart die s) := by
  refine keepsMem_next ?_
  grind [memWf_walkNow, memWf_startShoot, memWf_setJig, memWf_answerReloc, memWf_markLeaf, memWf_walkAll,
    keepsMem_next]

theorem memWf_rechase {s : State} (a : Access) (p : Part) (h : memWf s.mem) : memWf (rechase a s p).1.mem := by
  unfold rechase
  grind [memWf_countMarks, memWf_walkAll]

theorem memWf_failMoved {s : State} (a : Access) (l : Late) (h : memWf s.mem) : memWf (failMoved s a l).mem := by
  unfold failMoved
  grind [memWf_modThread, memWf_dropFlight, memWf_stopStream, memWf_setCopy]

theorem memWf_rechaseAll (m : JigMove) (a : Access) (ps : List Part) {s : State} (h : memWf s.mem) :
    memWf (rechaseAll m a ps s).1.mem := by
  induction ps generalizing s with
  | nil => exact h
  | cons p ps ih =>
    have hr := memWf_rechase a p h
    unfold rechaseAll
    grind

theorem memWf_redirect {s : State} (m : JigMove) (a : Access) (h : memWf s.mem) : memWf (redirect m s a).mem := by
  have hr := memWf_rechaseAll m a a.parts h
  unfold redirect
  grind [memWf_setFlight, memWf_modPend, memWf_dropFlight, memWf_failMoved]

theorem memWf_copyTile {s : State} (m : JigMove) (h : memWf s.mem) : memWf (copyTile s m).mem := by
  unfold copyTile
  grind [memWf_takeBack, memWf_storeNat, memWf_foldl]

theorem memWf_countJig {s : State} (d n : Nat) (h : memWf s.mem) : memWf (countJig s d n).mem := by
  induction n generalizing s with
  | zero => exact h
  | succ n ih => exact ih (memWf_countReq _ _ h)

theorem keepsMem_execJigCommit (die : Nat) {s : State} (h : memWf s.mem) : KeepsMem (execJigCommit die s) := by
  refine keepsMem_next ?_
  split
  · exact h
  · rename_i m _
    split
    · exact h
    have h2 := memWf_markLeaf m.req.asn m.oldVa true <|
      memWf_storeNat m.oldAt 8 (markWord m) (memWf_countJig die 64 (memWf_copyTile m h))
    exact memWf_startShoot _ _ _ _ (memWf_foldl (fun s a h => memWf_redirect m a h) (memWf_setJig _ _ h2))

theorem memWf_staleVa {s : State} (c asn va : Nat) (h : memWf s.mem) : memWf (staleVa s c asn va).1.mem := by
  unfold staleVa
  grind [memWf_walkAll]

theorem memWf_stale32 {s : State} (c : Nat) (t : Thread) (v : Word) (h : memWf s.mem) :
    memWf (stale32 s c t v).1.mem := by
  unfold stale32
  grind [memWf_staleVa]

theorem memWf_stale64 {s : State} (c : Nat) (t : Thread) (v : Nat) (h : memWf s.mem) :
    memWf (stale64 s c t v).1.mem := by
  unfold stale64
  grind [memWf_staleVa]

theorem memWf_sweepOut {s : State} (a : Access) (h : memWf s.mem) : memWf (sweepOut s a).mem := by
  unfold sweepOut
  grind [memWf_attempt, memWf_addFlight, memWf_sendRequest]

theorem memWf_sweepNext {s : State} (c i : Nat) (t : Thread) (ctl : Word) (what : Waiting) (k rewritten left : Nat)
    (h : memWf s.mem) :
    memWf (sweepNext s c i t ctl what k rewritten left).mem := by
  unfold sweepNext
  grind [memWf_modPend]

theorem memWf_sweepStart {s : State} (c i : Nat) (t : Thread) (base ctl : Word) (k : Nat) {s' : State}
    (h : memWf s.mem) (e : sweepStart s c i t base ctl k = some s') :
    memWf s'.mem := by
  unfold sweepStart at e
  grind [memWf_modThread, memWf_trapPend, memWf_countMarks, memWf_openMiss, memWf_settleEarlier, memOk_migrate,
    memWf_sweepOut, keepsMem_next, Res.MemOk]

theorem memWf_sweepReply {s : State} (c i : Nat) (t : Thread) (base ctl : Word) (k rewritten left : Nat)
    (a : Access) (h : memWf s.mem) :
    memWf (sweepReply s c i t base ctl k rewritten left a).mem := by
  unfold sweepReply
  grind [memWf_dropFlight, memWf_stale32, memWf_stale64, memWf_sweepOut, memWf_sweepNext]

theorem memWf_sweepGo {s : State} (c i : Nat) {s' : State} (h : memWf s.mem) (e : sweepGo s c i = some s') :
    memWf s'.mem := by
  unfold sweepGo at e
  grind [memWf_sweepStart, memWf_sweepReply]

theorem memWf_sweepGo_getD {s : State} (c i : Nat) (h : memWf s.mem) : memWf ((sweepGo s c i).getD s).mem := by
  cases e : sweepGo s c i with
  | none => exact h
  | some s' => exact memWf_sweepGo c i h e

theorem keepsMem_execMemoryAccessPerform (which : AccessRef) {s : State} (h : memWf s.mem) :
    KeepsMem (execMemoryAccessPerform which s) := by
  refine keepsMem_next ?_
  cases which with
  | thread id scope => exact memWf_performThread id scope h
  | copy core op word => exact memWf_performCopy core op word h
  | sweep core slot => exact memWf_sweepGo_getD core slot h

theorem memWf_sweepRegs (c i : Nat) (t0 : Thread) (rs : List Nat) {s : State} (n l : Nat) (h : memWf s.mem) :
    memWf (sweepRegs c i t0 rs s n l).1.mem := by
  induction rs generalizing s n l with
  | nil => exact h
  | cons r rs ih =>
    unfold sweepRegs
    grind [memWf_stale32, memWf_modThread]

theorem memOk_sweepOp {s : State} (o : ShSw) (x : Ctx) (t : Thread) (h : memWf s.mem) : (sweepOp o x t s).MemOk := by
  unfold sweepOp
  dsimp only
  split
  · split
    · trivial
    split
    · trivial
    · exact memOk_moreDsts _ _ _ (memWf_modThread _ _ _ (memWf_sweepRegs _ _ _ _ _ _ h))
  · trivial
  · split
    · trivial
    split
    · exact fun _ h => h
    · exact h

theorem keepsMem_execSweep (o : ShSw) {s : State} (h : memWf s.mem) : KeepsMem (execSweep o s) := by
  refine keepsMem_issue _ (fun x t s h => ?_) h
  grind [memOk_sweepOp, Res.MemOk]

theorem keepsMem_execWearrd (o : ShU) {s : State} (h : memWf s.mem) : KeepsMem (execWearrd o s) := by
  refine keepsMem_issue _ (fun x t s h => ?_) h
  grind [memWf_modThread, memOk_takeOutside, Res.MemOk]

theorem memWf_onPair {s : State} (c i : Nat) (f : Thread → Thread) (h : memWf s.mem) : memWf
    (onPair s c i f).mem := by
  unfold onPair
  grind [memWf_modThread]

theorem memWf_withdrawNotice {s : State} (c i : Nat) (h : memWf s.mem) : memWf (withdrawNotice s c i).mem := h

theorem memWf_parkEnd {s : State} (c i : Nat) (t : Thread) (code : Nat) (h : memWf s.mem) :
    memWf (parkEnd s c i t code).mem := by
  unfold parkEnd
  grind [memWf_errReport, memWf_endThread, memWf_endPair, memWf_withdrawNotice]

theorem keepsMem_execPark (o : ShU) {s : State} (h : memWf s.mem) : KeepsMem (execPark o s) := by
  refine keepsMem_issue _ (fun x t s h => ?_) h
  dsimp only
  split
  · exact memWf_modThread _ _ _ h
  split
  · exact memWf_modThread _ _ _ h
  split
  · split
    · exact memWf_modThread _ _ _ h
    split
    · exact memWf_modThread _ _ _ (memWf_onPair _ _ _ h)
    · exact memWf_modThread _ _ _ h
  · split
    · exact memWf_modThread _ _ _ (memWf_onPair _ _ _ (memWf_withdrawNotice _ _ h))
    · exact memWf_modThread _ _ _ h
  · split
    · exact memWf_modThread _ _ _ h
    split
    · exact fun _ h => h
    · exact memWf_modThread _ _ _ (memWf_parkEnd _ _ _ _ h)

theorem memOk_frameOp {s : State} (x : Ctx) (t : Thread) (a : Word) (n : Nat) (need : Need)
    (k : State → List Place → Res) (h : memWf s.mem)
    (hk : ∀ (s : State) (b : List Place), memWf s.mem → (k s b).MemOk) :
    (frameOp x t s a n need k).MemOk := by
  unfold frameOp
  grind [memOk_rangeOp, Res.MemOk]

theorem memWf_moveMember {s : State} (t : Thread) (core : Option Nat) (h : memWf s.mem) :
    memWf (moveMember s t core).mem := by
  unfold moveMember
  grind [memWf_modLaunch]

theorem memWf_evict {s : State} (c i : Nat) (h : memWf s.mem) : memWf (evict s c i).mem := by
  unfold evict
  grind [memWf_modCore, memWf_modThread, memWf_forceRelease]

theorem memWf_leaveSlots {s : State} (c i : Nat) (h : memWf s.mem) : memWf (leaveSlots s c i).mem := by
  unfold leaveSlots
  grind [memWf_moveOut, memWf_dropPair]

theorem keepsMem_execCtxsv (o : ShU) {s : State} (h : memWf s.mem) : KeepsMem (execCtxsv o s) := by
  refine keepsMem_issue _ (fun x t s h => ?_) h
  grind [memWf_modThread, memWf_writeRange, memOk_frameOp, memWf_moveMember, memWf_evict, memWf_leaveSlots, Res.MemOk]

theorem memWf_restore {s : State} (c ctl : Nat) (t : Thread) {p : State × Nat} (h : memWf s.mem)
    (e : restore s c ctl t = some p) : memWf p.1.mem := by
  simp only [restore] at e
  split at e <;>
  · obtain ⟨i, -, rfl⟩ := Option.map_eq_some_iff.mp e
    exact h

theorem keepsMem_execCtxld (o : ShU) {s : State} (h : memWf s.mem) : KeepsMem (execCtxld o s) := by
  refine keepsMem_issue _ (fun x t s h => ?_) h
  refine memOk_frameOp _ _ _ _ _ _ h fun s1 ps h1 => ?_
  dsimp only
  split
  · exact fun _ h => h
  split
  · exact memWf_modThread _ _ _ h1
  split
  · exact memWf_modThread _ _ _ h1
  · rename_i e
    have h2 := memWf_restore _ _ _ h1 e
    exact memWf_modThread _ _ _ (memWf_dropClaim _ _ (memWf_arriveImages _ _ _ (memWf_moveMember _ _ h2)))

theorem keepsMem_execCommitPoint {s : State} (core slot : Nat) (h : memWf s.mem) :
    KeepsMem (execCommitPoint core slot s) := by
  refine keepsMem_next ?_
  grind [memWf_commitPoint, keepsMem_next]

theorem keepsMem_execThreadKill {s : State} (core slot : Nat) (h : memWf s.mem) :
    KeepsMem (execThreadKill core slot s) := by
  refine keepsMem_next ?_
  grind [memWf_modThread, memWf_mismatch, memWf_killThread, keepsMem_next]

theorem keepsMem_execKillScrubComplete {s : State} (core slot : Nat) (h : memWf s.mem) :
    KeepsMem (execKillScrubComplete core slot s) := by
  refine keepsMem_next ?_
  grind [memWf_setContent, keepsMem_next]

theorem memWf_saveThread {s : State} (c i : Nat) (t : Thread) (only : Option Nat) (h : memWf s.mem) :
    memWf (saveThread s c i t only).mem := by
  unfold saveThread
  grind [memWf_modCore, memWf_moveMember, memWf_evict, memWf_leaveSlots]

theorem memWf_saveAsked {s : State} (c i : Nat) (t : Thread) (h : memWf s.mem) : memWf (saveAsked s c i t).mem := by
  unfold saveAsked
  grind [memWf_withdrawNotice, memWf_saveThread]

theorem memWf_runtimeEnd {s : State} (c i : Nat) (h : memWf s.mem) : memWf (runtimeEnd s c i).mem := by
  unfold runtimeEnd
  grind [memWf_withdrawNotice, memWf_parkEnd, memWf_saveAsked]

theorem memWf_runtimeTrap {s : State} (c i : Nat) (m : Msg) (h : memWf s.mem) : memWf (runtimeTrap s c i m).mem := by
  unfold runtimeTrap
  grind [memWf_withdrawNotice, memWf_runtimeEnd]

theorem memWf_runtimePage {s : State} (c : Nat) (m : Msg) (h : memWf s.mem) : memWf (runtimePage s c m).mem := by
  unfold runtimePage
  grind [memWf_dropMsg, memWf_onPair, memWf_parkEnd, memWf_saveAsked]

theorem memWf_runtimeNotice {s : State} (c : Nat) {s' : State} (h : memWf s.mem) (e : runtimeNotice s c = some s') :
    memWf s'.mem := by
  unfold runtimeNotice at e
  split at e
  · cases e
    exact memWf_runtimeTrap _ _ _ h
  · obtain ⟨m, -, rfl⟩ := Option.map_eq_some_iff.mp e
    split
    · exact memWf_runtimePage _ _ h
    · exact memWf_dropMsg _ _ h

theorem memWf_beginEvict {s : State} (c i : Nat) (h : memWf s.mem) : memWf (beginEvict s c i).mem := by
  unfold beginEvict
  grind [memWf_modCore, memWf_modThread]

theorem memWf_evictStep {s : State} (c i : Nat) (h : memWf s.mem) : memWf (evictStep s c i).mem := by
  unfold evictStep
  grind [memWf_modCore, memWf_saveThread]

theorem memWf_copyWindow {s : State} (src dst : Nat) (t : Thread) (h : memWf s.mem) :
    memWf (copyWindow s src dst t).mem := by
  unfold copyWindow
  grind [memWf_storeNat]

theorem memWf_sendTiles (c asn : Nat) (vas : List Nat) {s : State} (h : memWf s.mem) :
    memWf (sendTiles c asn vas s).1.mem := by
  induction vas generalizing s with
  | nil => exact h
  | cons va vas ih => exact ih h

theorem memWf_startTiles {s : State} (c home n : Nat) (e : Evictee) (h : memWf s.mem) :
    memWf (startTiles s c home n e).mem := memWf_modCore _ _ (memWf_sendTiles _ _ _ h)

theorem memWf_restoreOne {s : State} (c home n : Nat) (e : Evictee) (h : memWf s.mem) :
    memWf (restoreOne s c home n e).mem := by
  unfold restoreOne
  dsimp only
  split
  · exact h
  · rename_i er
    have h2 := memWf_restore _ _ _ (memWf_modCore _ _ (memWf_copyWindow _ _ _ h)) er
    exact memWf_dropClaim _ _ (memWf_arriveImages _ _ _ (memWf_moveMember _ _ h2))

theorem memWf_restoreStep {s : State} (c home n : Nat) (e : Evictee) (h : memWf s.mem) :
    memWf (restoreStep s c home n e).mem := by
  unfold restoreStep
  grind [memWf_startTiles, memWf_restoreOne]

theorem memWf_runtimeStep {s : State} (c : Nat) (h : memWf s.mem) : memWf (runtimeStep s c).mem := by
  unfold runtimeStep
  grind [memWf_runtimeNotice, memWf_beginEvict, memWf_evictStep, memWf_restoreStep]

theorem memWf_askStops {s : State} (c : Nat) (h : memWf s.mem) : memWf (askStops s c).mem := by
  unfold askStops
  grind [memWf_modThread, memWf_foldl]

theorem memWf_saveRestore {s : State} (c : Nat) (i : Nat) (h : memWf s.mem) : memWf (saveRestore c s i).mem := by
  unfold saveRestore
  grind [memWf_modThread, memWf_evict]

theorem memWf_releasePaused {s : State} (c : Nat) (h : memWf s.mem) : memWf (releasePaused s c).mem := by
  unfold releasePaused
  grind [memWf_modCore, memWf_onPair, memWf_foldl]

theorem memWf_resumeAll {s : State} (h : memWf s.mem) : memWf (resumeAll s).mem := by
  unfold resumeAll
  grind [memWf_releasePaused, memWf_foldl]

theorem memWf_putWords {s : State} (p : Place) (ws : List Word) (h : memWf s.mem) : memWf (putWords s p ws).mem := by
  unfold putWords
  grind [memWf_takeBack, memWf_storeNat]

theorem memWf_stageCore {s : State} (e : Nat × Core) (h : memWf s.mem) : memWf (stageCore s e).mem := by
  unfold stageCore
  grind [memWf_putWords, memWf_foldl]

theorem memWf_filter {m : List (Nat × Byte)} (p : Nat × Byte → Bool) (h : memWf m) : memWf (m.filter p) := by
  obtain ⟨h1, h2⟩ := (memWf_iff m).mp h
  exact (memWf_iff _).mpr ⟨smSorted_filter p m h1, fun e he => h2 e (List.mem_of_mem_filter he)⟩

/-- Bytes written one after another keep the canonical form. -/
theorem memWf_foldl_memWrite {α : Type} (l : List α) (at_ : α → Nat) (byte : α → Byte) {m : List (Nat × Byte)}
    (h : memWf m) : memWf (l.foldl (fun m e => memWrite m (at_ e) (byte e)) m) := by
  induction l generalizing m with
  | nil => exact h
  | cons e l ih => exact ih (memWf_memWrite m _ _ h)

theorem memWf_stageAll {s : State} (h : memWf s.mem) : memWf (stageAll s).mem :=
  memWf_foldl (fun _ e h => memWf_stageCore e h) (memWf_foldl_memWrite _ _ _ (memWf_filter _ h))

theorem memWf_endCheckpoint {s : State} (p : Checkpoint) (im : Image) (h : memWf s.mem) :
    memWf (endCheckpoint p im s).mem := by
  unfold endCheckpoint
  grind [memWf_resumeAll]

theorem memWf_expireJoints {s : State} (c : Nat) (h : memWf s.mem) : memWf (expireJoints s c).mem := by
  unfold expireJoints
  grind [memWf_releaseHolder, memWf_foldl]

theorem memWf_checkpointStep {s : State} (h : memWf s.mem) : memWf (checkpointStep s).mem := by
  unfold checkpointStep
  grind [memWf_logInput, memWf_saveRestore, memWf_stageAll, memWf_endCheckpoint, memWf_expireJoints, memWf_foldl]

theorem memWf_endSample {s : State} (core : Nat) (h : memWf s.mem) : memWf (endSample s core).mem := by
  unfold endSample
  grind [memWf_modCore, memWf_traceRecord]

theorem keepsMem_execCoreCycle {s : State} (core : Nat) (h : memWf s.mem) : KeepsMem (execCoreCycle core s) := by
  refine keepsMem_next ?_
  grind [memWf_modCore, memWf_runtimeStep, memWf_askStops, memWf_checkpointStep, memWf_endSample, keepsMem_next]

theorem keepsMem_execTraceSample {s : State} (core : Nat) (h : memWf s.mem) : KeepsMem (execTraceSample core s) := by
  refine keepsMem_next ?_
  grind [memWf_modCore, keepsMem_next]

theorem keepsMem_execBreakpointHold {s : State} (core slot : Nat) (h : memWf s.mem) :
    KeepsMem (execBreakpointHold core slot s) := by
  refine keepsMem_next ?_
  grind [memWf_modThread, memWf_traceRecord, memWf_onThread, keepsMem_next]

theorem keepsMem_execObsSnapshotReady {s : State} (h : memWf s.mem) : KeepsMem (execObsSnapshotReady s) := by
  refine keepsMem_next ?_
  grind [keepsMem_next]

theorem keepsMem_execDrainStart {s : State} (core : Nat) (cause : Nat) (h : memWf s.mem) :
    KeepsMem (execDrainStart core cause s) := by
  refine keepsMem_next ?_
  grind [memWf_drainQuad, keepsMem_next]

theorem memWf_setHealth {s : State} (pc : Nat) (h : Health) (lcore : BitVec 16) (hs : memWf s.mem) :
    memWf (setHealth s pc h lcore).mem := by
  unfold setHealth
  grind [memWf_setLive]

theorem memWf_askReplace {s : State} (d : Nat) (h : memWf s.mem) : memWf (askReplace s d).mem := by
  unfold askReplace
  grind [memWf_errReport]

theorem memWf_retireQuad {s : State} (q : Nat) (spare : Option Nat) (lq : Option Nat) (h : memWf s.mem) :
    memWf (retireQuad s q spare lq).mem := by
  unfold retireQuad
  grind [memWf_setHealth, memWf_askReplace, memWf_foldl]

theorem memWf_moveThread {s : State} (c : Nat) (i : Nat) (h : memWf s.mem) : memWf (moveThread c s i).mem := by
  unfold moveThread
  grind [memWf_modPend, memWf_forceRelease]

theorem memWf_moveCore {s : State} (c : Nat) (h : memWf s.mem) : memWf (moveCore s c).mem := by
  unfold moveCore
  grind [memWf_releasePaused, memWf_expireJoints, memWf_moveThread, memWf_foldl]

theorem keepsMem_execDrainComplete {s : State} (quad : Nat) (h : memWf s.mem) : KeepsMem
    (execDrainComplete quad s) := by
  refine keepsMem_next ?_
  grind [memWf_retireQuad, memWf_moveCore, memWf_foldl, keepsMem_next]

theorem keepsMem_execRequestBounce (n : Nat) {s : State} (h : memWf s.mem) : KeepsMem (execRequestBounce n s) := by
  refine keepsMem_next ?_
  grind [keepsMem_next]

theorem memWf_capFault {s : State} (n v : Nat) (h : memWf s.mem) : memWf (capFault s n v).mem := by
  unfold capFault
  grind [memWf_errReport, memWf_setQueue, memWf_capTrap]

theorem memWf_touchRecord {s : State} (q : Queue) (h : memWf s.mem) : memWf (touchRecord s q).mem := by
  unfold touchRecord
  grind [memWf_takeBack]

theorem memWf_placeHand {s : State} (n d : Nat) (h : memWf s.mem) : memWf (placeHand s n d).mem := by
  unfold placeHand
  grind [memWf_setQueue, memOk_enqueue, Enq.MemOk]

theorem keepsMem_execRingRecordTake {s : State} (queue : Nat) (h : memWf s.mem) :
    KeepsMem (execRingRecordTake queue s) := by
  refine keepsMem_next ?_
  grind [memWf_keepCap, memWf_capFault, memWf_touchRecord, memWf_placeHand, keepsMem_next]

theorem memWf_retireTested {s : State} (pc : Nat) (h : memWf s.mem) : memWf (retireTested s pc).mem := by
  unfold retireTested
  grind [memWf_drainQuad, memWf_retireQuad]

theorem memWf_started {s : State} (f : Found) (z : Starting) (start : Word) (h : memWf s.mem) :
    memWf (started s f z start).mem := by
  unfold started
  grind [memWf_retireTested, memWf_foldl]

theorem keepsMem_execStartup {s : State} (found : Found) (h : memWf s.mem) : KeepsMem (execStartup found s) := by
  refine keepsMem_next ?_
  grind [memWf_started, memWf_foldl, keepsMem_next]

theorem keepsMem_execLdb (o : ShM) {s : State} (h : memWf s.mem) : KeepsMem (execLdb o s) := by
  refine keepsMem_issue _ (fun x t s h => ?_) h
  grind [memOk_loadOp, Res.MemOk]

theorem keepsMem_execLdbs (o : ShM) {s : State} (h : memWf s.mem) : KeepsMem (execLdbs o s) := by
  refine keepsMem_issue _ (fun x t s h => ?_) h
  grind [memOk_loadOp, Res.MemOk]

theorem keepsMem_execLdh (o : ShM) {s : State} (h : memWf s.mem) : KeepsMem (execLdh o s) := by
  refine keepsMem_issue _ (fun x t s h => ?_) h
  grind [memOk_loadOp, Res.MemOk]

theorem keepsMem_execLdhs (o : ShM) {s : State} (h : memWf s.mem) : KeepsMem (execLdhs o s) := by
  refine keepsMem_issue _ (fun x t s h => ?_) h
  grind [memOk_loadOp, Res.MemOk]

theorem keepsMem_execLdw (o : ShM) {s : State} (h : memWf s.mem) : KeepsMem (execLdw o s) := by
  refine keepsMem_issue _ (fun x t s h => ?_) h
  grind [memOk_loadOp, Res.MemOk]

theorem keepsMem_execStb (o : ShM) {s : State} (h : memWf s.mem) : KeepsMem (execStb o s) := by
  refine keepsMem_issue _ (fun x t s h => ?_) h
  grind [memOk_storeOp, Res.MemOk]

theorem keepsMem_execSth (o : ShM) {s : State} (h : memWf s.mem) : KeepsMem (execSth o s) := by
  refine keepsMem_issue _ (fun x t s h => ?_) h
  grind [memOk_storeOp, Res.MemOk]

theorem keepsMem_execStw (o : ShM) {s : State} (h : memWf s.mem) : KeepsMem (execStw o s) := by
  refine keepsMem_issue _ (fun x t s h => ?_) h
  grind [memOk_storeOp, Res.MemOk]

theorem keepsMem_execLdv (o : ShMV) {s : State} (h : memWf s.mem) : KeepsMem (execLdv o s) := by
  refine keepsMem_issue _ (fun x t s h => ?_) h
  grind [memOk_memAccess, Res.MemOk]

theorem keepsMem_execStv (o : ShMV) {s : State} (h : memWf s.mem) : KeepsMem (execStv o s) := by
  refine keepsMem_issue _ (fun x t s h => ?_) h
  grind [memOk_memAccess, Res.MemOk]

theorem keepsMem_execVgath (o : ShVG) {s : State} (h : memWf s.mem) : KeepsMem (execVgath o s) := by
  refine keepsMem_issue _ (fun x t s h => ?_) h
  grind [memOk_vecAccess, Res.MemOk]

theorem keepsMem_execVscat (o : ShVG) {s : State} (h : memWf s.mem) : KeepsMem (execVscat o s) := by
  refine keepsMem_issue _ (fun x t s h => ?_) h
  grind [memOk_vecAccess, Res.MemOk]

end Sys2Proof.Machine

/-! Memory's canonical form (O5): what comes from outside the compute dies, special registers, and the step. -/

namespace Sys2Proof.Machine

open Host (Outcome)

/-! ### The world outside, special registers and the step -/

theorem memWf_whileWorking {s : State} (f : State → State) (hf : ∀ (s : State), memWf s.mem → memWf (f s).mem)
    (h : memWf s.mem) :
    memWf (whileWorking f s).mem := by
  unfold whileWorking
  grind

theorem memWf_takeForeign {s : State} (a : Access) (h : memWf s.mem) : memWf (takeForeign s a).mem := by
  unfold takeForeign
  grind [memWf_attempt, memWf_addFlight]

theorem memWf_answer {s : State} (bs : List Byte) (h : memWf s.mem) : memWf (answer s bs).mem := h

theorem memWf_readBar {s : State} (off size : Nat) (h : memWf s.mem) : memWf (readBar off size s).mem := by
  unfold readBar
  grind [memWf_answerWith, memWf_answer]

theorem memWf_modQueue {s : State} (n : Nat) (f : Queue → Queue) (h : memWf s.mem) : memWf (modQueue s n f).mem := h

theorem memWf_doorbell {s : State} (n : Nat) (tail : BitVec 16) (h : memWf s.mem) : memWf
    (doorbell s n tail).mem := by
  unfold doorbell
  grind [memWf_logInput, memWf_modQueue]

theorem memWf_flushNotices {s : State} (h : memWf s.mem) : memWf (flushNotices s).mem := by
  unfold flushNotices
  grind [memWf_errWrite, memWf_foldl]

theorem memWf_errorControl {s : State} (v : Word) (h : memWf s.mem) : memWf (errorControl v s).mem := by
  unfold errorControl
  grind [memWf_keepCap, memWf_flushNotices]

theorem memWf_traceWord {s : State} (d off : Nat) (v : Word) (h : memWf s.mem) : memWf (traceWord s d off v).mem := by
  unfold traceWord
  grind [memWf_setTrace, memWf_forgetTimes]

theorem memWf_obsSelect {s : State} (v : Word) (h : memWf s.mem) : memWf (obsSelect v s).mem := h

theorem memWf_barWord {s : State} (off : Nat) (v : Word) (h : memWf s.mem) : memWf (barWord s off v).mem := by
  unfold barWord
  grind [memWf_modQueue, memWf_doorbell, memWf_errorControl, memWf_traceWord, memWf_obsSelect]

theorem memWf_setService {s : State} (e : Nat) (v : Service) (h : memWf s.mem) : memWf (setService s e v).mem := h

theorem memWf_rootWord {s : State} (asn off : Nat) (w : Word) (h : memWf s.mem) : memWf
    (rootWord s asn off w).mem := h

theorem memWf_askMove {s : State} (c asn src dst : Nat) (h : memWf s.mem) : memWf (askMove s c asn src dst).mem := h

theorem memWf_askReplay {s : State} (next : Bool) (h : memWf s.mem) : memWf (askReplay s next).mem := by
  unfold askReplay
  grind

theorem memWf_unitWord {s : State} (u : RegUnit) (off : Nat) (w : Word) (h : memWf s.mem) :
    memWf (unitWord s u off w).mem := by
  unfold unitWord
  grind [memWf_modCore, memWf_ctlStep, memWf_modQueue, memWf_barWord, memWf_setService, memWf_rootWord,
    memWf_askMove, memWf_askReplay]

theorem memWf_writeUnit {s : State} (u : RegUnit) (off size : Nat) (value : BitVec 64) (h : memWf s.mem) :
    memWf (writeUnit u off size value s).mem := by
  unfold writeUnit
  grind [memWf_askMove, memWf_unitWord]

theorem memWf_unlessRecovery {s : State} (f : State → State) (hf : ∀ (s : State), memWf s.mem → memWf (f s).mem)
    (h : memWf s.mem) :
    memWf (unlessRecovery f s).mem := by
  unfold unlessRecovery
  grind

theorem keepsMem_execDoorbell {s : State} (queue : Nat) (tail : BitVec 16) (h : memWf s.mem) :
    KeepsMem (execDoorbell queue tail s) := by
  refine keepsMem_next ?_
  grind [memWf_doorbell, memWf_unlessRecovery, keepsMem_next]

theorem keepsMem_execRingEnable {s : State} (queue : Nat) (value : Word) (h : memWf s.mem) :
    KeepsMem (execRingEnable queue value s) := by
  refine keepsMem_next ?_
  grind [memWf_modQueue, memWf_unlessRecovery, keepsMem_next]

theorem keepsMem_execRingRestart {s : State} (queue : Nat) (h : memWf s.mem) : KeepsMem
    (execRingRestart queue s) := by
  refine keepsMem_next ?_
  grind [memWf_modQueue, memWf_unlessRecovery, keepsMem_next]

theorem keepsMem_execRingSkip {s : State} (queue : Nat) (h : memWf s.mem) : KeepsMem (execRingSkip queue s) := by
  refine keepsMem_next ?_
  grind [memWf_modQueue, memWf_unlessRecovery, keepsMem_next]

theorem keepsMem_execErrorRingEnable {s : State} (value : Word) (h : memWf s.mem) :
    KeepsMem (execErrorRingEnable value s) := by
  refine keepsMem_next ?_
  grind [memWf_errorControl, memWf_unlessRecovery, keepsMem_next]

theorem keepsMem_execObsselWrite {s : State} (value : Word) (h : memWf s.mem) : KeepsMem
    (execObsselWrite value s) := by
  refine keepsMem_next ?_
  grind [memWf_obsSelect, memWf_unlessRecovery, keepsMem_next]

theorem keepsMem_execHostWrite {s : State} (space : HostSpace) (addr : Nat) (bytes : List Byte) (h : memWf s.mem) :
    KeepsMem (execHostWrite space addr bytes s) := by
  refine keepsMem_next ?_
  grind [memWf_storeNat, memWf_whileWorking, memWf_takeForeign, memWf_writeUnit, memWf_unlessRecovery, keepsMem_next]

theorem memWf_hostHolds {s : State} (die a n : Nat) (h : memWf s.mem) : memWf (hostHolds s die a n).mem := by
  unfold hostHolds
  grind [memWf_foldl]

theorem keepsMem_execHostRead {s : State} (space : HostSpace) (addr len : Nat) (h : memWf s.mem) :
    KeepsMem (execHostRead space addr len s) := by
  refine keepsMem_next ?_
  grind [memWf_answerWith, memWf_whileWorking, memWf_answer, memWf_readBar, memWf_hostHolds, keepsMem_next]

theorem keepsMem_execHostSnoop (n : Nat) {s : State} (h : memWf s.mem) : KeepsMem (execHostSnoop n s) := by
  refine keepsMem_next ?_
  grind [memWf_whileWorking, memWf_answer, keepsMem_next]

theorem memWf_takePeer {s : State} (r : PeerReq) (h : memWf s.mem) : memWf (takePeer r s).mem := by
  unfold takePeer
  grind [memWf_answerWith, memWf_dropResv, memWf_takeForeign]

theorem keepsMem_execPeerRequest {s : State} (req : PeerReq) (h : memWf s.mem) : KeepsMem
    (execPeerRequest req s) := by
  refine keepsMem_next ?_
  grind [memWf_whileWorking, memWf_takePeer, keepsMem_next]

theorem keepsMem_execLinkFlitRetry (a b : Nat) {s : State} (h : memWf s.mem) :
    KeepsMem (execLinkFlitRetry a b s) := by
  refine keepsMem_next ?_
  grind [memWf_errReport, memWf_whileWorking, keepsMem_next]

theorem keepsMem_execLinkFailure (a b : Nat) {s : State} (h : memWf s.mem) :
    KeepsMem (execLinkFailure a b s) := by
  refine keepsMem_next ?_
  grind [memWf_fatalStop, memWf_whileWorking, keepsMem_next]

theorem memWf_engineRouteFails {s : State} (id : Nat) (h : memWf s.mem) : memWf (engineRouteFails id s).mem := by
  unfold engineRouteFails
  split
  · split
    · exact h
    · rename_i e
      exact memWf_errReport _ _ _ _ _ (memWf_setCopy _ _ (memWf_peerWord _ _ h e))
  split
  · exact h
  split
  · exact h
  · rename_i e
    exact memWf_errReport _ _ _ _ _ (memWf_endCmd _ _ _ _ (memWf_routeEnds _ _ h e))

theorem memWf_routeFails {s : State} (id : Nat) (h : memWf s.mem) : memWf (routeFails id s).mem := by
  unfold routeFails
  grind [memWf_errReport, memWf_failAccess, memWf_countArrival, memWf_engineRouteFails]

theorem keepsMem_execRouteFailure {s : State} (id : Nat) (h : memWf s.mem) : KeepsMem (execRouteFailure id s) := by
  refine keepsMem_next ?_
  grind [memWf_whileWorking, memWf_routeFails, keepsMem_next]

theorem keepsMem_execRouteChange {s : State} (pkg link : Nat) (h : memWf s.mem) :
    KeepsMem (execRouteChange pkg link s) := by
  refine keepsMem_next ?_
  grind [keepsMem_next]

theorem memWf_writePayload {s : State} (ps : List Place) (bs : List Byte) (h : memWf s.mem) :
    memWf (writePayload s ps bs).mem := by
  unfold writePayload
  grind [memWf_takeBack, memWf_storeNat, memWf_foldl]

theorem memWf_dropFrame {s : State} (e : Nat) (v : Service) (h : memWf s.mem) : memWf (dropFrame s e v).mem := h

theorem memWf_serveFrame {s : State} (e : Nat) (v : Service) (f : Frame) (h : memWf s.mem) :
    memWf (serveFrame s e v f).mem := by
  unfold serveFrame
  grind [memWf_logInput, memWf_errReport, memWf_frontTouch, memOk_enqueue, memWf_setService, memWf_writePayload,
    memWf_dropFrame, Enq.MemOk]

theorem memWf_inboundFrame {s : State} (f : Frame) (h : memWf s.mem) : memWf (inboundFrame f s).mem := by
  unfold inboundFrame
  grind [memWf_keepFrame]

theorem memWf_takeFrame {s : State} (f : Frame) (h : memWf s.mem) : memWf (takeFrame f s).mem := by
  unfold takeFrame
  grind [memWf_logInput, memWf_serveFrame, memWf_inboundFrame]

theorem keepsMem_execNetworkFrame {s : State} (frame : Frame) (h : memWf s.mem) :
    KeepsMem (execNetworkFrame frame s) := by
  refine keepsMem_next ?_
  grind [memWf_whileWorking, memWf_takeFrame, keepsMem_next]

theorem memWf_quiesce {s1 : State} (resume : Bool) (h : memWf s1.mem) : memWf (quiesce resume s1).mem := by
  unfold quiesce
  grind [memWf_askStops, memWf_foldl]

theorem memWf_beginCheckpoint {s : State} (resume : Bool) (h : memWf s.mem) : memWf
    (beginCheckpoint resume s).mem := by
  unfold beginCheckpoint
  grind [memWf_logInput, memWf_quiesce]

theorem keepsMem_execCheckpoint {s : State} (resume : Bool) (h : memWf s.mem) : KeepsMem
    (execCheckpoint resume s) := by
  refine keepsMem_next ?_
  grind [memWf_whileWorking, memWf_beginCheckpoint, keepsMem_next]

theorem memWf_withdrawStops {s : State} (c : Nat) (h : memWf s.mem) : memWf (withdrawStops s c).mem := by
  unfold withdrawStops
  grind [memWf_modThread, memWf_foldl]

theorem memWf_endFailed (s0 s : State) (p : Checkpoint) (hs0 : memWf s0.mem) (hs : memWf s.mem) :
    memWf (endFailed s0 s p).mem := by
  unfold endFailed
  grind [memWf_errReport, memWf_resumeAll, memWf_endCheckpoint, memWf_withdrawStops, memWf_foldl]

theorem memWf_checkpointFails {s : State} (h : memWf s.mem) : memWf (checkpointFails s).mem := by
  unfold checkpointFails
  grind [memWf_logInput, memWf_endFailed]

theorem keepsMem_execCheckpointTimeout {s : State} (h : memWf s.mem) : KeepsMem (execCheckpointTimeout s) := by
  refine keepsMem_next ?_
  grind [memWf_whileWorking, memWf_checkpointFails, keepsMem_next]

theorem memWf_loadImage {s : State} (im : Image) (h : memWf s.mem) : memWf (loadImage s im).mem :=
  memWf_foldl_memWrite _ _ _ (memWf_filter _ h)

theorem memWf_restoreImage {s : State} (verified : Bool) (h : memWf s.mem) : memWf (restoreImage verified s).mem := by
  unfold restoreImage
  grind [memWf_resumeAll, memWf_loadImage]

theorem keepsMem_execCheckpointRestore {s : State} (verified : Bool) (h : memWf s.mem) :
    KeepsMem (execCheckpointRestore verified s) := by
  refine keepsMem_next ?_
  grind [memWf_whileWorking, memWf_restoreImage, keepsMem_next]

theorem keepsMem_execPreciseStop {s : State} (core slot : Nat) (h : memWf s.mem) :
    KeepsMem (execPreciseStop core slot s) := by
  refine keepsMem_next ?_
  grind [memWf_modCore, memWf_modThread, memWf_traceRecord, memWf_onPair, keepsMem_next]

theorem keepsMem_execDebugHoldLift {s : State} (core slot : Nat) (h : memWf s.mem) :
    KeepsMem (execDebugHoldLift core slot s) := by
  refine keepsMem_next ?_
  grind [memWf_onPair, keepsMem_next]

theorem keepsMem_execSidebandDump {s : State} (region offset len : Nat) (h : memWf s.mem) :
    KeepsMem (execSidebandDump region offset len s) := by
  refine keepsMem_next ?_
  grind [memWf_answer, keepsMem_next]

theorem keepsMem_execFirmwareUpdate {s : State} (image : Nat) (h : memWf s.mem) :
    KeepsMem (execFirmwareUpdate image s) := by
  refine keepsMem_next ?_
  grind [keepsMem_next]

theorem keepsMem_execRetryRequest {s : State} (h : memWf s.mem) : KeepsMem (execRetryRequest s) := by
  refine keepsMem_next ?_
  grind [keepsMem_next]

theorem memWf_correctedAt {s : State} (a : Nat) (h : memWf s.mem) : memWf (correctedAt s a).mem := by
  unfold correctedAt
  grind [memWf_errReport, memWf_corrected]

theorem memWf_softError {s : State} (place : ErrPlace) (correctable : Bool) (h : memWf s.mem) :
    memWf (softError place correctable s).mem := by
  unfold softError
  grind [memWf_modCore, memWf_modThread, memWf_errReport, memWf_fatalStop, memWf_corrected, memWf_correctedAt]

theorem keepsMem_execSoftError {s : State} (place : ErrPlace) (correctable : Bool) (h : memWf s.mem) :
    KeepsMem (execSoftError place correctable s) := by
  refine keepsMem_next ?_
  grind [memWf_whileWorking, memWf_softError, keepsMem_next]

theorem keepsMem_execStressTick {s : State} (core temp mv : Nat) (h : memWf s.mem) :
    KeepsMem (execStressTick core temp mv s) := by
  refine keepsMem_next ?_
  grind [memWf_modCore, memWf_setLive, keepsMem_next]

theorem keepsMem_execPowerSample {s : State} (milliwatts : Nat) (h : memWf s.mem) :
    KeepsMem (execPowerSample milliwatts s) := by
  refine keepsMem_next ?_
  grind [keepsMem_next]

theorem memWf_setClock {s : State} (d mhz : Nat) (h : memWf s.mem) : memWf (setClock s d mhz).mem := by
  unfold setClock
  grind [memWf_forgetTimes, memWf_traceRecord, memWf_foldl]

theorem memWf_setHeat {s : State} (d k : Nat) (h : memWf s.mem) : memWf (setHeat s d k).mem := h

theorem memWf_raiseAll {s : State} (hot : List Nat) (h : memWf s.mem) : memWf (raiseAll hot s).mem := by
  unfold raiseAll
  grind [memWf_setClock, memWf_foldl]

theorem memWf_setEighths {s : State} (k : Nat) (h : memWf s.mem) : memWf (setEighths s k).mem := h

theorem memWf_lowerAll {s : State} (h : memWf s.mem) : memWf (lowerAll s).mem :=
  memWf_foldl (fun _ _ h => memWf_setClock _ _ h) h

theorem memWf_powerStep {s : State} (h : memWf s.mem) : memWf (powerStep s).mem := by
  unfold powerStep
  grind [memWf_lowerAll, memWf_setEighths]

theorem memWf_heatDie {s : State} (before : Nat → Nat) (e : Nat × Nat) (h : memWf s.mem) :
    memWf (heatDie before s e).mem := by
  unfold heatDie
  grind [memWf_setClock, memWf_setHeat]

theorem memWf_heatStep {s : State} (hot : List Nat) (before : Nat → Nat) (h : memWf s.mem) :
    memWf (heatStep hot before s).mem := by
  unfold heatStep
  grind [memWf_heatDie, memWf_foldl]

theorem memWf_easeStep {s : State} (hot : List Nat) (h : memWf s.mem) : memWf (easeStep hot s).mem := by
  unfold easeStep
  grind [memWf_raiseAll, memWf_setEighths]

theorem memWf_powerAdjust {s : State} (hot : List Nat) (h : memWf s.mem) : memWf (powerAdjust hot s).mem := by
  unfold powerAdjust
  grind [memWf_powerStep, memWf_heatStep, memWf_easeStep]

theorem memWf_powerTick {s : State} (hot : List Nat) (h : memWf s.mem) : memWf (powerTick hot s).mem := by
  unfold powerTick
  grind [memWf_fatalStop, memWf_powerAdjust]

theorem keepsMem_execPowerTick {s : State} (hot : List Nat) (h : memWf s.mem) : KeepsMem (execPowerTick hot s) := by
  refine keepsMem_next ?_
  grind [memWf_whileWorking, memWf_powerTick, keepsMem_next]

theorem memWf_drainWorn {s : State} (h : memWf s.mem) : memWf (drainWorn s).mem := by
  unfold drainWorn
  grind [memWf_drainQuad, memWf_foldl]

theorem keepsMem_execLifetimeWrite {s : State} (h : memWf s.mem) : KeepsMem (execLifetimeWrite s) := by
  refine keepsMem_next ?_
  grind [memWf_drainWorn, keepsMem_next]

theorem keepsMem_execPowerLoss {s : State} (h : memWf s.mem) : KeepsMem (execPowerLoss s) :=
  keepsMem_next (memWf_filter _ h)

theorem keepsMem_execCorePresenceEnd {s : State} (quad : Nat) (h : memWf s.mem) :
    KeepsMem (execCorePresenceEnd quad s) := by
  refine keepsMem_next ?_
  grind [keepsMem_next]

theorem memWf_replayService {s : State} (q n b d : Nat) (h : memWf s.mem) : memWf (replayService s q n b d).mem := by
  unfold replayService
  grind [memOk_enqueue, memWf_setService, Enq.MemOk]

theorem memWf_replayStep {s : State} (h : memWf s.mem) : memWf (replayStep s).mem := by
  unfold replayStep
  grind [memWf_replayTake, memWf_modQueue, memWf_inboundFrame, memWf_quiesce, memWf_endFailed, memWf_replayService]

theorem keepsMem_execRegisterWrite {s : State} (reg : UnitReg) (size : Nat) (value : BitVec 64) (h : memWf s.mem) :
    KeepsMem (execRegisterWrite reg size value s) := by
  refine keepsMem_next ?_
  grind [memWf_whileWorking, memWf_writeUnit, memWf_unlessRecovery, memWf_replayStep, keepsMem_next]

theorem memWf_readShared {s : State} (c i n : Nat) (h : memWf s.mem) : memWf (readShared s c i n).1.mem := by
  unfold readShared
  grind [memWf_modCore]

theorem memWf_writeShared {s : State} (c n : Nat) (v : Word) (h : memWf s.mem) : memWf (writeShared s c n v).mem := h

theorem memOk_readBank {s : State} (o : ShSp) (x : Ctx) (t : Thread) (h : memWf s.mem) :
    (readBank o x t s).MemOk := by
  unfold readBank
  grind [memWf_modThread, memOk_done, memOk_takeOutside, memWf_readShared, Res.MemOk]

theorem memOk_writeBank {s : State} (o : ShSp) (all : Bool) (x : Ctx) (t : Thread) (h : memWf s.mem) :
    (writeBank o all x t s).MemOk := by
  unfold writeBank
  grind [memOk_done, memWf_writeShared, Res.MemOk]

theorem memOk_privOp (x : Ctx) (t : Thread) (s : State) : (privOp x t s).MemOk := by
  unfold privOp
  grind [Res.MemOk]

theorem keepsMem_execMfs (o : ShSp) {s : State} (h : memWf s.mem) : KeepsMem (execMfs o s) := by
  unfold execMfs
  split
  · exact keepsMem_issue _ (fun _ _ _ _ => memOk_privOp _ _ _) h
  · exact keepsMem_issue _ (fun _ _ _ h => memOk_readBank _ _ _ h) h

theorem keepsMem_execMts (o : ShSp) {s : State} (h : memWf s.mem) : KeepsMem (execMts o s) := by
  unfold execMts
  split
  · exact keepsMem_issue _ (fun _ _ _ _ => memOk_privOp _ _ _) h
  split
  · exact keepsMem_issue _ (fun _ _ _ h => memOk_writeBank _ _ _ _ h) h
  · exact keepsMem_issue _ (fun _ _ _ h => memOk_writeBank _ _ _ _ h) h

theorem keepsMem_execMfsp (o : ShSp) {s : State} (h : memWf s.mem) : KeepsMem (execMfsp o s) := by
  refine keepsMem_issue _ (fun x t s h => ?_) h
  grind [memOk_done, memOk_readBank, Res.MemOk]

theorem keepsMem_execMtsp (o : ShSp) {s : State} (h : memWf s.mem) : KeepsMem (execMtsp o s) := by
  refine keepsMem_issue _ (fun x t s h => ?_) h
  grind [memWf_modCore, memOk_writeBank, Res.MemOk]

theorem memOk_wordOp {s : State} (o : ShM) (kno : Nat) (need : Need) (kind : AccKind) (dsts : List Nat)
    (data data2 : Thread → Word) (x : Ctx) (t : Thread) (h : memWf s.mem) :
    (wordOp o kno need kind dsts data data2 x t s).MemOk := by
  unfold wordOp
  grind [memOk_memAccess, Res.MemOk]

theorem keepsMem_execLde (o : ShM) {s : State} (h : memWf s.mem) : KeepsMem (execLde o s) := by
  refine keepsMem_issue _ (fun x t s h => ?_) h
  grind [memOk_wordOp, Res.MemOk]

theorem keepsMem_execLdt (o : ShM) {s : State} (h : memWf s.mem) : KeepsMem (execLdt o s) := by
  refine keepsMem_issue _ (fun x t s h => ?_) h
  grind [memOk_wordOp, Res.MemOk]

theorem keepsMem_execStf (o : ShM) {s : State} (h : memWf s.mem) : KeepsMem (execStf o s) := by
  refine keepsMem_issue _ (fun x t s h => ?_) h
  grind [memOk_wordOp, Res.MemOk]

theorem keepsMem_execSte (o : ShM) {s : State} (h : memWf s.mem) : KeepsMem (execSte o s) := by
  refine keepsMem_issue _ (fun x t s h => ?_) h
  grind [memOk_wordOp, Res.MemOk]

theorem memOk_plainOp {s : State} (o : ShMN) (kno : Nat) (need : Need) (kind : AccKind) (dsts : List Nat)
    (data : Thread → Word) (x : Ctx) (t : Thread) (h : memWf s.mem) :
    (plainOp o kno need kind dsts data x t s).MemOk := by
  unfold plainOp
  grind [memOk_memAccess, Res.MemOk]

theorem keepsMem_execTagrd (o : ShMN) {s : State} (h : memWf s.mem) : KeepsMem (execTagrd o s) := by
  refine keepsMem_issue _ (fun x t s h => ?_) h
  grind [memOk_plainOp, Res.MemOk]

theorem memOk_lineOp {s : State} (o : ShMZ) (f : Thread → Nat → Thread) (x : Ctx) (t : Thread) (h : memWf s.mem) :
    (lineOp o f x t s).MemOk := by
  unfold lineOp
  grind [memOk_done, memOk_migrate, Res.MemOk]

theorem keepsMem_execWatch (o : ShMZ) {s : State} (h : memWf s.mem) : KeepsMem (execWatch o s) := by
  refine keepsMem_issue _ (fun x t s h => ?_) h
  grind [memOk_lineOp, Res.MemOk]

theorem keepsMem_execUnwatch (o : ShMZ) {s : State} (h : memWf s.mem) : KeepsMem (execUnwatch o s) := by
  refine keepsMem_issue _ (fun x t s h => ?_) h
  grind [memOk_lineOp, Res.MemOk]

theorem keepsMem_execWait (o : ShZ) {s : State} (h : memWf s.mem) : KeepsMem (execWait o s) := by
  refine keepsMem_issue _ (fun x t s h => ?_) h
  grind [memOk_done, Res.MemOk]

theorem keepsMem_execAmoadd (o : ShM) {s : State} (h : memWf s.mem) : KeepsMem (execAmoadd o s) := by
  refine keepsMem_issue _ (fun x t s h => ?_) h
  grind [memOk_wordOp, Res.MemOk]

theorem keepsMem_execAmomin (o : ShM) {s : State} (h : memWf s.mem) : KeepsMem (execAmomin o s) := by
  refine keepsMem_issue _ (fun x t s h => ?_) h
  grind [memOk_wordOp, Res.MemOk]

theorem keepsMem_execAmomax (o : ShM) {s : State} (h : memWf s.mem) : KeepsMem (execAmomax o s) := by
  refine keepsMem_issue _ (fun x t s h => ?_) h
  grind [memOk_wordOp, Res.MemOk]

theorem keepsMem_execAmoand (o : ShM) {s : State} (h : memWf s.mem) : KeepsMem (execAmoand o s) := by
  refine keepsMem_issue _ (fun x t s h => ?_) h
  grind [memOk_wordOp, Res.MemOk]

theorem keepsMem_execAmoor (o : ShM) {s : State} (h : memWf s.mem) : KeepsMem (execAmoor o s) := by
  refine keepsMem_issue _ (fun x t s h => ?_) h
  grind [memOk_wordOp, Res.MemOk]

theorem keepsMem_execAmoxor (o : ShM) {s : State} (h : memWf s.mem) : KeepsMem (execAmoxor o s) := by
  refine keepsMem_issue _ (fun x t s h => ?_) h
  grind [memOk_wordOp, Res.MemOk]

theorem keepsMem_execAmoswp (o : ShM) {s : State} (h : memWf s.mem) : KeepsMem (execAmoswp o s) := by
  refine keepsMem_issue _ (fun x t s h => ?_) h
  grind [memOk_wordOp, Res.MemOk]

theorem keepsMem_execAmocas (o : ShM) {s : State} (h : memWf s.mem) : KeepsMem (execAmocas o s) := by
  refine keepsMem_issue _ (fun x t s h => ?_) h
  grind [memOk_wordOp, Res.MemOk]

theorem keepsMem_execRsv (o : ShMN) {s : State} (h : memWf s.mem) : KeepsMem (execRsv o s) := by
  refine keepsMem_issue _ (fun x t s h => ?_) h
  grind [memWf_forceRelease, memOk_plainOp, Res.MemOk]

theorem keepsMem_execRls (o : ShMN) {s : State} (h : memWf s.mem) : KeepsMem (execRls o s) := by
  refine keepsMem_issue _ (fun x t s h => ?_) h
  grind [memOk_plainOp, Res.MemOk]

theorem keepsMem_execFence (o : ShSc) {s : State} (h : memWf s.mem) : KeepsMem (execFence o s) := by
  refine keepsMem_issue _ (fun x t s h => ?_) h
  grind [memOk_done, Res.MemOk]

/-- Every instruction and every event keeps memory's canonical form. -/
theorem keepsMem_exec (i : Instr) {s : State} (h : memWf s.mem) : KeepsMem (exec i s) := by
  cases i with
  | add o => exact keepsMem_runT false o (fun b c => b + c) h
  | sub o => exact keepsMem_runT false o (fun b c => b - c) h
  | and o => exact keepsMem_runT false o (fun b c => b &&& c) h
  | or o => exact keepsMem_runT false o (fun b c => b ||| c) h
  | xor o => exact keepsMem_runT false o (fun b c => b ^^^ c) h
  | andn o => exact keepsMem_runT false o (fun b c => b &&& ~~~ c) h
  | shl | shr | sra | mulh | mulhu | min | max | minu | maxu | rot => exact keepsMem_runT _ _ _ h
  | mul o => exact keepsMem_runT false o (fun b c => b * c) h
  | mov o => exact keepsMem_runU false o (fun b => b) h
  | addi o => exact keepsMem_runI false o (fun a => a + wordOf (o.imm.value 5)) h
  | movi => exact keepsMem_execMovi _ h
  | andi o => exact keepsMem_runI false o (fun a => a &&& wordOf (o.imm.value 5)) h
  | shli o => exact keepsMem_runI false o (fun a => shlWord a (o.imm.raw.setWidth 32)) h
  | shri o => exact keepsMem_runI false o (fun a => shrWord a (o.imm.raw.setWidth 32)) h
  | srai o => exact keepsMem_runI false o (fun a => sraWord a (o.imm.raw.setWidth 32)) h
  | ceq | cne | clt | cltu | cle | cleu => exact keepsMem_runK _ _ h
  | ceqi | clti => exact keepsMem_runCmpImm _ _ h
  | ldb => exact keepsMem_execLdb _ h
  | ldbs => exact keepsMem_execLdbs _ h
  | ldh => exact keepsMem_execLdh _ h
  | ldhs => exact keepsMem_execLdhs _ h
  | ldw => exact keepsMem_execLdw _ h
  | stb => exact keepsMem_execStb _ h
  | sth => exact keepsMem_execSth _ h
  | stw => exact keepsMem_execStw _ h
  | ldv => exact keepsMem_execLdv _ h
  | stv => exact keepsMem_execStv _ h
  | br => exact keepsMem_execBr _ h
  | bf | bnf => exact keepsMem_runBranch _ _ h
  | call => exact keepsMem_execCall _ h
  | jr => exact keepsMem_execJr _ h
  | jalr => exact keepsMem_execJalr _ h
  | div o => exact keepsMem_runT true o (fun b c => (divS b c).1) h
  | divu o => exact keepsMem_runT true o (fun b c => (divU b c).1) h
  | rem o => exact keepsMem_runT true o (fun b c => (divS b c).2) h
  | remu o => exact keepsMem_runT true o (fun b c => (divU b c).2) h
  | clz | ctz | popc | brev => exact keepsMem_runU _ _ _ h
  | sext o => exact keepsMem_runI true o (fun a => wordOf (sextNat (Imm.width o.imm) a.toNat)) h
  | zext o => exact keepsMem_runI true o (fun a => BitVec.ofNat 32 (a.toNat % 2 ^ Imm.width o.imm)) h
  | sel => exact keepsMem_execSel _ h
  | fAnd | fOr | fXor => exact keepsMem_runL _ _ h
  | fNot => exact keepsMem_execFNot _ h
  | mff => exact keepsMem_execMff _ h
  | mtf => exact keepsMem_execMtf _ h
  | loop => exact keepsMem_execLoop _ h
  | vadd o => exact keepsMem_runVV o (fun b c => b + c) h
  | vsub o => exact keepsMem_runVV o (fun b c => b - c) h
  | vmul o => exact keepsMem_runVV o (fun b c => b * c) h
  | vmin | vmax | vshl | vshr | vsra => exact keepsMem_runVV _ _ h
  | vand o => exact keepsMem_runVV o (fun b c => b &&& c) h
  | vor o => exact keepsMem_runVV o (fun b c => b ||| c) h
  | vxor o => exact keepsMem_runVV o (fun b c => b ^^^ c) h
  | vceq | vclt | vfclt | vfceq => exact keepsMem_runVCmp _ _ h
  | vsel => exact keepsMem_execVsel _ h
  | vbcast => exact keepsMem_execVbcast _ h
  | vext => exact keepsMem_execVext _ h
  | vins => exact keepsMem_execVins _ h
  | vperm => exact keepsMem_execVperm _ h
  | vscan => exact keepsMem_execVscan _ h
  | vredadd o => exact keepsMem_runVRed o (fun b c => b + c) 0 h
  | vredmin | vredmax => exact keepsMem_runVRed _ _ _ h
  | vgath => exact keepsMem_execVgath _ h
  | vscat => exact keepsMem_execVscat _ h
  | vfadd | vfsub | vfmul | vfmin | vfmax => exact keepsMem_runFVV _ _ h
  | vfma => exact keepsMem_execVfma _ h
  | vfabs | vrcp | vrsq => exact keepsMem_runFVU _ _ h
  | vfred => exact keepsMem_execVfred _ h
  | vfscan => exact keepsMem_execVfscan _ h
  | vcvtif => exact keepsMem_execVcvtif _ h
  | vcvtfi => exact keepsMem_execVcvtfi _ h
  | vcvt => exact keepsMem_execVcvt _ h
  | vamax => exact keepsMem_execVamax _ h
  | lde => exact keepsMem_execLde _ h
  | ldt => exact keepsMem_execLdt _ h
  | stf => exact keepsMem_execStf _ h
  | ste => exact keepsMem_execSte _ h
  | tagrd => exact keepsMem_execTagrd _ h
  | watch => exact keepsMem_execWatch _ h
  | unwatch => exact keepsMem_execUnwatch _ h
  | wait => exact keepsMem_execWait _ h
  | amoadd => exact keepsMem_execAmoadd _ h
  | amomin => exact keepsMem_execAmomin _ h
  | amomax => exact keepsMem_execAmomax _ h
  | amoand => exact keepsMem_execAmoand _ h
  | amoor => exact keepsMem_execAmoor _ h
  | amoxor => exact keepsMem_execAmoxor _ h
  | amoswp => exact keepsMem_execAmoswp _ h
  | amocas => exact keepsMem_execAmocas _ h
  | rsv => exact keepsMem_execRsv _ h
  | rls => exact keepsMem_execRls _ h
  | fence => exact keepsMem_execFence _ h
  | bar => exact keepsMem_execBar _ h
  | spawn => exact keepsMem_execSpawn _ h
  | reap => exact keepsMem_execReap _ h
  | exit => exact keepsMem_execExit _ h
  | trigger => exact keepsMem_execTrigger _ h
  | launch => exact keepsMem_execLaunch _ h
  | send => exact keepsMem_execSend _ h
  | chset => exact keepsMem_execChset _ h
  | chblk => exact keepsMem_execChblk _ h
  | chunb => exact keepsMem_execChunb _ h
  | bind => exact keepsMem_execBind _ h
  | unbind => exact keepsMem_execUnbind _ h
  | mfs => exact keepsMem_execMfs _ h
  | mts => exact keepsMem_execMts _ h
  | cvy => exact keepsMem_execCvy _ h
  | join => exact keepsMem_execJoin _ h
  | split => exact keepsMem_execSplit _ h
  | spliti => exact keepsMem_execSpliti _ h
  | mpop => exact keepsMem_execMpop _ h
  | mcnt => exact keepsMem_execMcnt _ h
  | mfm => exact keepsMem_execMfm _ h
  | mtm => exact keepsMem_execMtm _ h
  | qld => exact keepsMem_execQld _ h
  | qst => exact keepsMem_execQst _ h
  | qadd => exact keepsMem_execQadd _ h
  | cexit => exact keepsMem_execCexit _ h
  | cpy => exact keepsMem_execCpy _ h
  | cpy2 => exact keepsMem_execCpy2 _ h
  | gth => exact keepsMem_execGth _ h
  | sct => exact keepsMem_execSct _ h
  | coll => exact keepsMem_execColl _ h
  | waitany => exact keepsMem_execWaitany _ h
  | waitall => exact keepsMem_execWaitall _ h
  | tagff => exact keepsMem_execTagff _ h
  | tagclr => exact keepsMem_execTagclr _ h
  | prec => exact keepsMem_execPrec _ h
  | wld => exact keepsMem_execWld _ h
  | mma => exact keepsMem_execMma _ h
  | accz => exact keepsMem_execAccz _ h
  | accrd => exact keepsMem_execAccrd _ h
  | accwr => exact keepsMem_execAccwr _ h
  | cvtst => exact keepsMem_execCvtst _ h
  | amaxrd => exact keepsMem_execAmaxrd _ h
  | amaxclr => exact keepsMem_execAmaxclr _ h
  | dupset => exact keepsMem_execDupset _ h
  | osplit => exact keepsMem_execOsplit _ h
  | trap => exact keepsMem_execTrap _ h
  | sys => exact keepsMem_execSys _ h
  | brk => exact keepsMem_execBrk _ h
  | eret => exact keepsMem_execEret _ h
  | mfsp => exact keepsMem_execMfsp _ h
  | mtsp => exact keepsMem_execMtsp _ h
  | segset => exact keepsMem_execSegset _ h
  | tlbinv => exact keepsMem_execTlbinv _ h
  | reloc => exact keepsMem_execReloc _ h
  | sweep => exact keepsMem_execSweep _ h
  | wearrd => exact keepsMem_execWearrd _ h
  | ctxsv => exact keepsMem_execCtxsv _ h
  | ctxld => exact keepsMem_execCtxld _ h
  | resume => exact keepsMem_execResume _ h
  | park => exact keepsMem_execPark _ h
  | memoryAccessPerform => exact keepsMem_execMemoryAccessPerform _ h
  | reservationGrant => exact keepsMem_execReservationGrant _ h
  | reservationTimeout => exact keepsMem_execReservationTimeout _ _ h
  | waitlimExpiry => exact keepsMem_execWaitlimExpiry _ _ h
  | withdrawalAnswer => exact keepsMem_execWithdrawalAnswer _ _ h
  | remoteReply => exact keepsMem_execRemoteReply _ h
  | messageArrival => exact keepsMem_execMessageArrival _ h
  | handlerDispatch => exact keepsMem_execHandlerDispatch _ h
  | freshDispatch => exact keepsMem_execFreshDispatch _ h
  | streamLoadFill => exact keepsMem_execStreamLoadFill _ _ _ h
  | streamStoreTake => exact keepsMem_execStreamStoreTake _ _ h
  | q3Delivery => exact keepsMem_execQ3Delivery _ _ h
  | pageNotice => exact keepsMem_execPageNotice _ h
  | pageRequest => exact keepsMem_execPageRequest _ _ _ h
  | translationWalk => exact keepsMem_execTranslationWalk _ _ h
  | shootdownComplete => exact keepsMem_execShootdownComplete h
  | stopEffect => exact keepsMem_execStopEffect _ _ h
  | overflowRefill => exact keepsMem_execOverflowRefill _ h
  | launchStart => exact keepsMem_execLaunchStart _ h
  | taskPlace => exact keepsMem_execTaskPlace _ h
  | placingOverNotice => exact keepsMem_execPlacingOverNotice _ _ h
  | doneMessage => exact keepsMem_execDoneMessage _ _ h
  | launchComplete => exact keepsMem_execLaunchComplete _ h
  | barEpisodeOpen => exact keepsMem_execBarEpisodeOpen _ _ h
  | convoyArrival => exact keepsMem_execConvoyArrival _ h
  | arrivalSlotGrant => exact keepsMem_execArrivalSlotGrant _ h
  | placeRequest => exact keepsMem_execPlaceRequest _ _ h
  | queuedJoinLookup => exact keepsMem_execQueuedJoinLookup _ h
  | joinExpiry => exact keepsMem_execJoinExpiry _ _ h
  | copyStart => exact keepsMem_execCopyStart _ h
  | copyComplete => exact keepsMem_execCopyComplete _ _ h
  | collCombine => exact keepsMem_execCollCombine _ _ _ h
  | matrixStart => exact keepsMem_execMatrixStart _ h
  | matrixComplete => exact keepsMem_execMatrixComplete _ h
  | commitPoint => exact keepsMem_execCommitPoint _ _ h
  | threadKill => exact keepsMem_execThreadKill _ _ h
  | killScrubComplete => exact keepsMem_execKillScrubComplete _ _ h
  | drainStart => exact keepsMem_execDrainStart _ _ h
  | drainComplete => exact keepsMem_execDrainComplete _ h
  | requestBounce n => exact keepsMem_execRequestBounce n h
  | jigStart => exact keepsMem_execJigStart _ h
  | jigCommit => exact keepsMem_execJigCommit _ h
  | ringRecordTake => exact keepsMem_execRingRecordTake _ h
  | obsSnapshotReady => exact keepsMem_execObsSnapshotReady h
  | traceSample => exact keepsMem_execTraceSample _ h
  | breakpointHold => exact keepsMem_execBreakpointHold _ _ h
  | startup => exact keepsMem_execStartup _ h
  | coreCycle => exact keepsMem_execCoreCycle _ h
  | hostWrite => exact keepsMem_execHostWrite _ _ _ h
  | hostRead => exact keepsMem_execHostRead _ _ _ h
  | hostSnoop n => exact keepsMem_execHostSnoop n h
  | networkFrame => exact keepsMem_execNetworkFrame _ h
  | checkpoint => exact keepsMem_execCheckpoint _ h
  | checkpointTimeout => exact keepsMem_execCheckpointTimeout h
  | checkpointRestore => exact keepsMem_execCheckpointRestore _ h
  | doorbell => exact keepsMem_execDoorbell _ _ h
  | ringEnable => exact keepsMem_execRingEnable _ _ h
  | ringRestart => exact keepsMem_execRingRestart _ h
  | ringSkip => exact keepsMem_execRingSkip _ h
  | errorRingEnable => exact keepsMem_execErrorRingEnable _ h
  | registerWrite => exact keepsMem_execRegisterWrite _ _ _ h
  | obsselWrite => exact keepsMem_execObsselWrite _ h
  | preciseStop => exact keepsMem_execPreciseStop _ _ h
  | debugHoldLift => exact keepsMem_execDebugHoldLift _ _ h
  | sidebandDump => exact keepsMem_execSidebandDump _ _ _ h
  | powerSample => exact keepsMem_execPowerSample _ h
  | powerTick => exact keepsMem_execPowerTick _ h
  | firmwareUpdate => exact keepsMem_execFirmwareUpdate _ h
  | softError => exact keepsMem_execSoftError _ _ h
  | powerLoss => exact keepsMem_execPowerLoss h
  | peerRequest => exact keepsMem_execPeerRequest _ h
  | corePresenceEnd => exact keepsMem_execCorePresenceEnd _ h
  | retryRequest => exact keepsMem_execRetryRequest h
  | stressTick => exact keepsMem_execStressTick _ _ _ h
  | lifetimeWrite => exact keepsMem_execLifetimeWrite h
  | linkFlitRetry a b => exact keepsMem_execLinkFlitRetry a b h
  | linkFailure a b => exact keepsMem_execLinkFailure a b h
  | routeFailure => exact keepsMem_execRouteFailure _ h
  | routeChange => exact keepsMem_execRouteChange _ _ h

theorem memWf_refresh {s : State} (c : Nat) (h : memWf s.mem) : memWf (refresh s c).mem := by
  unfold refresh
  grind [memWf_modThread, memWf_foldl]

theorem memWf_refreshFor {s : State} (i : Instr) (h : memWf s.mem) : memWf (refreshFor i s).mem := by
  unfold refreshFor
  grind [memWf_modThread, memWf_refresh, memWf_foldl]

theorem keepsMem_cycleOf {s : State} (h : memWf s.mem) : KeepsMem (cycleOf s) := by
  unfold cycleOf
  grind [memWf_issueTrap, keepsMem_exec, memWf_refreshFor, keepsMem_next]

theorem keepsMem_step {s : State} (h : memWf s.mem) : KeepsMem (step s) := by
  unfold step
  grind [keepsMem_exec, memWf_refreshFor, keepsMem_cycleOf, keepsMem_next]

/-- Settles O5: every operation of the model writes memory byte by byte, drops bytes of it or leaves it alone. -/
theorem stepKeepsMemoryCanonical : Obligations.StepKeepsMemoryCanonical := fun _ s' h e => keepsMem_step h s' e

end Sys2Proof.Machine

/-! Memory in the state after reset (O4). -/

namespace Sys2Proof.Machine

theorem readByte_reset (p : Place) : readByte State.reset p = 0 := by
  cases p with
  | frame d a =>
    have hrow : (State.reset.counters[d]?).getD (.replicate 12 0) = (.replicate 12 0 : Vector (BitVec 64) 12) := by
      show ((Vector.replicate 4 (Vector.replicate 12 0))[d]?).getD _ = _
      rw [Vector.getElem?_replicate]
      split <;> rfl
    simp only [readByte, frameByte, hrow, Vector.getElem?_replicate]
    split <;> simp
  | _ => rfl

/-- Settles O4: memory is empty after reset, and every counter of a register frame is 0. -/
theorem resetMemoryCanonical : Obligations.ResetMemoryCanonical := ⟨rfl, readByte_reset⟩

end Sys2Proof.Machine

/-! WLD, MMA and CVTST at issue (O24; R229, R233, R243, R244, R246): the checks of each do not see the issue, and a command that
passes them changes its core's queue beside the slots. -/

namespace Sys2Proof.Machine

/-! ### What an issue leaves of a command -/

theorem operandAt_issued (u : Use) (s : State) (t : Thread) (types : List Nat) (a : Word) (n al : Nat) (need : Need) :
    operandAt (issuedState u s t) (issueCtx u s t) (issuedThread u s t) types a n al need =
      operandAt s ⟨s.turn, curSlot s, t.pc, pcAfter t u.words⟩ t types a n al need := by
  obtain ⟨b, p, w, h⟩ := issuedThread_eq u s t
  simp only [operandAt, resolve_issuedState, issueCtx_core]
  rw [h]

theorem effPw_issuedState (u : Use) (s : State) (t : Thread) (n : Nat) :
    effPw (getCore (issuedState u s t) s.turn) n = effPw (getCore s s.turn) n := by
  rw [getCore_issuedState]
  rfl

theorem dupMap_issuedState (u : Use) (s : State) (t : Thread) (n : Nat) :
    dupMap (getCore (issuedState u s t) s.turn) n = dupMap (getCore s s.turn) n := by
  rw [getCore_issuedState]
  rfl

/-- What an instruction captures before its own fields. -/
theorem blankCmd_issued (u : Use) (s : State) (t : Thread) (kind : MatKind) (tile : Nat) (ctl a : Word) :
    { blankCmd (issuedState u s t) (issueCtx u s t) (issuedThread u s t) kind tile ctl with named := a } =
      commandOf s t kind tile ctl a := by
  obtain ⟨b, p, w, h⟩ := issuedThread_eq u s t
  simp only [blankCmd, commandOf, issueCtx_core, issueCtx_slot, effPw_issuedState]
  rw [h]
  rfl

/-! ### An entry of the queue (R233) -/

/-- What a command that takes an entry makes of its core. -/
def enterCommand (i : Nat) (m : MatCmd) (k : Core) : Core :=
  { k with matQ := k.matQ ++ [m], matGrant := k.matGrant.filter fun j => j != i
           matWait := k.matWait.filter fun j => j != i }

/-- What a slot that waits for an entry makes of its core. -/
def awaitEntry (i : Nat) (k : Core) : Core :=
  { k with matWait := if k.matWait.contains i then k.matWait else k.matWait ++ [i] }

theorem leavesSlots_enterCommand (i : Nat) (m : MatCmd) : LeavesSlots (enterCommand i m) :=
  ⟨fun _ _ => rfl, fun _ => rfl, fun _ => rfl⟩

theorem leavesSlots_awaitEntry (i : Nat) : LeavesSlots (awaitEntry i) := ⟨fun _ _ => rfl, fun _ => rfl, fun _ => rfl⟩

theorem matFree_pos (k : Core) : matFree k > 0 ↔ k.matQ.length + k.matGrant.length < 2 := by
  unfold matFree
  omega

section
variable {i : Instr} {u : Use} {op : Ctx → Thread → State → Res} {s : State} {t : Thread}

/-- The queue of the core as an operation meets it. -/
theorem withCommand_issued (m : MatCmd) :
    modCore { issuedState u s t with serial := s.serial + 1 } s.turn (enterCommand (curSlot s) m) =
      setThread (chargedState (withCommand s m) s.turn) s.turn (curSlot s) (issuedThread u s t) :=
  modCore_issuedState (leavesSlots_enterCommand (curSlot s) m) u { s with serial := s.serial + 1 } t

theorem curSlot_withCommand (m : MatCmd) : curSlot (withCommand s m) = curSlot s :=
  curSlot_modCore (leavesSlots_enterCommand (curSlot s) m) { s with serial := s.serial + 1 }

/-- An operation that goes in progress in the charged state of `s0`. -/
theorem completes_onto_hold {s0 : State} {w : Waiting} {st : Status} {reg : Nat} (hturn : s0.turn = s.turn)
    (hcur : curSlot s0 = curSlot s) (he : exec i s = issue u op s) (h : Issues u s t)
    (hop : op (issueCtx u s t) (issuedThread u s t) (issuedState u s t) =
      .hold (setThread (chargedState s0 s.turn) s.turn (curSlot s) (issuedThread u s t)) w st reg) :
    CompletesFrom i s s0 (inProgress s u t w reg st) := by
  refine ⟨_, exec_issues i u op s t he h, ?_⟩
  have hlast := onlyThread_charged s0 (inProgress s u t w reg st)
  rw [hturn, hcur] at hlast
  rw [← issuedState, hop]
  simp only [settle, issueCtx]
  rwa [modThread_some _ _ _ _ _ (threadAt_setThread_same _ _ _ _ (curSlot_lt s)),
    setThread_setThread _ _ _ _ _ (curSlot_lt s)]

/-- An operation that is not ready and changes its core beside the slots. -/
theorem waits_modCore {f : Core → Core} {st : Status} (hf : LeavesSlots f) (he : exec i s = issue u op s)
    (h : Issues u s t)
    (hop : op (issueCtx u s t) (issuedThread u s t) (issuedState u s t) = .wait st fun s' => modCore s' s.turn f) :
    Waits i s (modCore s s.turn f) t st := by
  have ht : threadAt (modCore s s.turn f) s.turn (curSlot s) = some t := by
    have hk : (getCore (modCore s s.turn f) s.turn).slots = (getCore s s.turn).slots := by
      rw [modCore, getCore_setCore_same, hf.slots_eq]
    rw [threadAt, getSlot, Core.slotAt, hk]
    exact h.here
  rw [Waits, exec_issues i u op s t he h, ← issuedState, hop]
  simp only [settle, notReady, issueCtx, modThread_some _ _ _ _ t ht]

/-- An operation that ends in a request for an entry takes one, or waits for one. -/
theorem takesEntry_of {m : MatCmd} (hp : allPerformed s s.turn (curSlot s) 1 = true)
    (hidle : streamIdle s s.turn (curSlot s) = true) (he : exec i s = issue u op s) (h : Issues u s t)
    (hop : op (issueCtx u s t) (issuedThread u s t) (issuedState u s t) =
      takeEntry (issueCtx u s t) (issuedState u s t) m) : TakesEntry i u s t m := by
  have hgate : (!allPerformed (issuedState u s t) s.turn (curSlot s) 1 ||
      !streamIdle (issuedState u s t) s.turn (curSlot s)) = false := by
    rw [allPerformed_issuedState h.here, streamIdle_issuedState h.here, hp, hidle]
    rfl
  have hgrant : (getCore (issuedState u s t) s.turn).matGrant = (getCore s s.turn).matGrant := by
    rw [getCore_issuedState]
    rfl
  have hfree : matFree (getCore (issuedState u s t) s.turn) = matFree (getCore s s.turn) := by
    rw [getCore_issuedState]
    rfl
  refine ⟨fun hroom => ?_, fun hno hfull => ?_⟩
  · have hr : ((getCore s s.turn).matGrant.contains (curSlot s) || decide (matFree (getCore s s.turn) > 0)) = true := by
      simpa [matFree_pos] using hroom
    refine ⟨fun hd => completes_onto rfl (curSlot_withCommand m) he h ?_,
      fun hd => completes_onto_hold rfl (curSlot_withCommand m) he h ?_⟩ <;>
    · rw [hop, ← withCommand_issued]
      simp only [takeEntry, issueCtx_core, issueCtx_slot, hgate, hgrant, hfree, hr, hd, if_true, Bool.false_eq_true,
        if_false]
      rfl
  · have hr : ((getCore s s.turn).matGrant.contains (curSlot s) || decide (matFree (getCore s s.turn) > 0)) = false := by
      rw [Bool.eq_false_iff, ne_eq, Bool.or_eq_true, decide_eq_true_iff, matFree_pos, List.contains_iff_mem]
      exact not_or.mpr ⟨hno, Nat.not_lt.mpr hfull⟩
    refine waits_modCore (leavesSlots_awaitEntry (curSlot s)) he h ?_
    rw [hop]
    simp only [takeEntry, issueCtx_core, issueCtx_slot, hgate, hgrant, hfree, hr, Bool.false_eq_true, if_false]
    rfl

end

/-! ### WLD, MMA and CVTST as operations -/

def wldOp (o : ShF4) (x : Ctx) (t : Thread) (s : State) : Res :=
  let c := rdReg t o.c.toNat
  let a := rdReg t o.b.toNat
  if 32 * nbits c.toNat 6 0 + wldLen c > 4096 then .trap .queue 0 0
  else
    match operandAt s x t [2, 3, 4, 5] a (wldLen c) 32 needR with
    | .error e => .trap e 5 a
    | .ok (p, va) => takeEntry x s { blankCmd s x t .wld o.t.toNat c with base := p, va := va, named := a }

theorem exec_wld (o : ShF4) (s : State) :
    exec (.wld o) s = issue (o.use [o.b.toNat, o.c.toNat]).oncely (wldOp o) s := rfl

def mmaOp (o : ShMma) (x : Ctx) (t : Thread) (s : State) : Res :=
  let k := rdReg t o.b.toNat
  let a := rdReg t o.c.toNat
  let map := dupMap (getCore s x.core) o.t.toNat
  let n := 32 * mmaPlanes k * mmaTiles k map
  let m := { blankCmd s x t .mma o.t.toNat k with
    map := map, detached := k.getLsbD 27, ta := o.ta, tb := o.tb, named := a }
  match mmaSrc k with
  | 0 =>
    match operandAt s x t [2] a n 32 needR with
    | .error e => .trap e 5 a
    | .ok (p, _) => takeEntry x s { m with base := p }
  | 3 => .trap .queue 0 0
  | q => if (streamOf t (q - 1)).bound then takeEntry x s { m with need := n / 4 } else .trap .queue 0 0

theorem exec_mma (o : ShMma) (s : State) : exec (.mma o) s = issue o.use.oncely (mmaOp o) s := rfl

def cvtstOp (o : ShCvt) (x : Ctx) (t : Thread) (s : State) : Res :=
  let k := rdReg t o.b.toNat
  let a := rdReg t o.c.toNat
  if cvtFmtOf k ≥ 8 || (cvtPlanes k && (nbits k.toNat 6 0 != 0 || cvtFmtOf k = 0)) then .trap .queue 0 0
  else
    match operandAt s x t [2, 3, 4, 5] a (cvtLen k) (cvtAlign k) needW with
    | .error e => .trap e 5 a
    | .ok (p, va) =>
      takeEntry x s
        { blankCmd s x t .cvtst o.t.toNat k with
          base := p, va := va, named := a, detached := k.getLsbD 31, ta := o.tr }

theorem exec_cvtst (o : ShCvt) (s : State) : exec (.cvtst o) s = issue o.use.oncely (cvtstOp o) s := rfl

/-! ### Their answers -/

section
variable {s : State} {t : Thread} (hp : allPerformed s s.turn (curSlot s) 1 = true)
  (hidle : streamIdle s s.turn (curSlot s) = true)
include hp hidle

theorem wld_answers {o : ShF4} (hi : Issues (o.use [o.b.toNat, o.c.toNat]).oncely s t) :
    let u := (o.use [o.b.toNat, o.c.toNat]).oncely
    let c := rdReg t o.c.toNat
    let a := rdReg t o.b.toNat
    let at_ := operandAt s ⟨s.turn, curSlot s, t.pc, pcAfter t u.words⟩ t [2, 3, 4, 5] a (wldLen c) 32 needR
    (4096 < 32 * nbits c.toNat 6 0 + wldLen c → Traps (.wld o) s t ⟨.queue, 0, 0, t.pc, false, 0⟩) ∧
    (32 * nbits c.toNat 6 0 + wldLen c ≤ 4096 →
      (∀ e, at_ = .error e → Traps (.wld o) s t ⟨e, 5, a, t.pc, false, 0⟩) ∧
      (∀ p va, at_ = .ok (p, va) →
        TakesEntry (.wld o) u s t { commandOf s t .wld o.t.toNat c a with base := p, va := va })) := by
  intro u c a at_
  refine ⟨fun hlong => traps_of (exec_wld o s) hi ?_, fun hfits => ⟨fun e he => traps_of (exec_wld o s) hi ?_,
    fun p va hok => takesEntry_of hp hidle (exec_wld o s) hi ?_⟩⟩
  · simp only [wldOp, rdReg_issuedThread]
    exact if_pos hlong
  · simp only [at_, a, c] at he
    simp only [wldOp, rdReg_issuedThread, operandAt_issued]
    rw [if_neg (Nat.not_lt.mpr hfits), he]
  · simp only [at_, a, c] at hok
    simp only [wldOp, rdReg_issuedThread, operandAt_issued]
    rw [if_neg (Nat.not_lt.mpr hfits), hok, ← blankCmd_issued]

theorem mma_answers {o : ShMma} (hi : Issues o.use.oncely s t) :
    let u := o.use.oncely
    let k := rdReg t o.b.toNat
    let a := rdReg t o.c.toNat
    let map := dupMap (getCore s s.turn) o.t.toNat
    let n := 32 * mmaPlanes k * mmaTiles k map
    let at_ := operandAt s ⟨s.turn, curSlot s, t.pc, pcAfter t u.words⟩ t [2] a n 32 needR
    let m := { commandOf s t .mma o.t.toNat k a with map := map, detached := k.getLsbD 27, ta := o.ta, tb := o.tb }
    (mmaSrc k = 0 →
      (∀ e, at_ = .error e → Traps (.mma o) s t ⟨e, 5, a, t.pc, false, 0⟩) ∧
      (∀ p va, at_ = .ok (p, va) → TakesEntry (.mma o) u s t { m with base := p })) ∧
    (mmaSrc k = 3 → Traps (.mma o) s t ⟨.queue, 0, 0, t.pc, false, 0⟩) ∧
    (∀ q, q < 2 → mmaSrc k = q + 1 →
      ((streamOf t q).bound = false → Traps (.mma o) s t ⟨.queue, 0, 0, t.pc, false, 0⟩) ∧
      ((streamOf t q).bound = true → TakesEntry (.mma o) u s t { m with need := n / 4 })) := by
  intro u k a map n at_ m
  have hop : mmaOp o (issueCtx u s t) (issuedThread u s t) (issuedState u s t) =
      match mmaSrc k with
      | 0 =>
        match at_ with
        | .error e => .trap e 5 a
        | .ok (p, _) => takeEntry (issueCtx u s t) (issuedState u s t) { m with base := p }
      | 3 => .trap .queue 0 0
      | q => if (streamOf t (q - 1)).bound then takeEntry (issueCtx u s t) (issuedState u s t) { m with need := n / 4 }
        else .trap .queue 0 0 := by
    simp only [mmaOp, rdReg_issuedThread, operandAt_issued, issueCtx_core, dupMap_issuedState, streamOf_issuedThread, m,
      ← blankCmd_issued u] <;> rfl
  refine ⟨fun h0 => ⟨fun e he => traps_of (exec_mma o s) hi ?_, fun p va hok => takesEntry_of hp hidle (exec_mma o s) hi ?_⟩,
    fun h3 => traps_of (exec_mma o s) hi ?_, fun q hq hsrc => ⟨fun hb => traps_of (exec_mma o s) hi ?_,
      fun hb => takesEntry_of hp hidle (exec_mma o s) hi ?_⟩⟩
  · rw [hop, h0, he]
    rfl
  · rw [hop, h0, hok]
    rfl
  · rw [hop, h3]
    rfl
  · rw [hop, hsrc]
    interval_cases q <;> simp [hb]
  · rw [hop, hsrc]
    interval_cases q <;> simp [hb]

theorem cvtst_answers {o : ShCvt} (hi : Issues o.use.oncely s t) :
    let u := o.use.oncely
    let k := rdReg t o.b.toNat
    let a := rdReg t o.c.toNat
    let bad := (cvtFmtOf k ≥ 8 || (cvtPlanes k && (nbits k.toNat 6 0 != 0 || cvtFmtOf k = 0))) = true
    let at_ := operandAt s ⟨s.turn, curSlot s, t.pc, pcAfter t u.words⟩ t [2, 3, 4, 5] a (cvtLen k) (cvtAlign k) needW
    (bad → Traps (.cvtst o) s t ⟨.queue, 0, 0, t.pc, false, 0⟩) ∧
    (¬ bad →
      (∀ e, at_ = .error e → Traps (.cvtst o) s t ⟨e, 5, a, t.pc, false, 0⟩) ∧
      (∀ p va, at_ = .ok (p, va) →
        TakesEntry (.cvtst o) u s t
          { commandOf s t .cvtst o.t.toNat k a with
            base := p, va := va, detached := k.getLsbD 31, ta := o.tr })) := by
  intro u k a bad at_
  refine ⟨fun hb => traps_of (exec_cvtst o s) hi ?_, fun hb => ⟨fun e he => traps_of (exec_cvtst o s) hi ?_,
    fun p va hok => takesEntry_of hp hidle (exec_cvtst o s) hi ?_⟩⟩
  · simp only [cvtstOp, rdReg_issuedThread]
    exact if_pos hb
  · simp only [at_, a, k] at he
    simp only [cvtstOp, rdReg_issuedThread, operandAt_issued]
    rw [if_neg hb, he]
  · simp only [at_, a, k] at hok
    simp only [cvtstOp, rdReg_issuedThread, operandAt_issued]
    rw [if_neg hb, hok, ← blankCmd_issued]

end

theorem nbits_low (n h : Nat) : nbits n h 0 = n % 2 ^ (h + 1) := by
  simp [nbits]

/-- The source of an MMA's operands is the top of its control word. -/
theorem mmaSrc_eq (k : Word) : mmaSrc k = k.toNat / 2 ^ 30 := by
  have hk : k.toNat < 2 ^ 32 := k.isLt
  simp only [mmaSrc, nbits]
  omega

theorem mmaTiles_eq (k : Word) (map : List (Nat × Nat)) :
    mmaTiles k map = k.toNat / 2 ^ 17 % 64 + 1 + if map = [] then 0 else 1 := by
  simp [mmaTiles, mmaBlocks, nbits]

/-- A control word that CVTST does not take. -/
theorem cvtst_bad_iff (k : Word) :
    (cvtFmtOf k ≥ 8 || (cvtPlanes k && (nbits k.toNat 6 0 != 0 || cvtFmtOf k = 0))) = true ↔
      8 ≤ k.toNat / 2 ^ 24 % 16 ∨ (k.getLsbD 29 = true ∧ (k.toNat % 128 ≠ 0 ∨ k.toNat / 2 ^ 24 % 16 = 0)) := by
  simp only [Bool.or_eq_true, Bool.and_eq_true, bne_iff_ne, decide_eq_true_iff, nbits_low]
  rfl

/-- Settles O24: what each command checks and captures is read from the thread and its core, which an issue leaves alone; it
enters the queue of a core that is otherwise as it was. -/
theorem matrixCommands : Obligations.MatrixCommands := by
  intro s t hp hidle
  refine ⟨fun o hi => ?_, fun o hi => ?_, fun o hi => ?_⟩
  · have h := wld_answers hp hidle hi
    simp only [nbits_low] at h
    exact h
  · have h := mma_answers hp hidle hi
    simp only [mmaSrc_eq, mmaTiles_eq] at h
    exact h
  · have h := cvtst_answers hp hidle hi
    simp only [cvtst_bad_iff] at h
    exact h

end Sys2Proof.Machine

/-! Where a trap goes and what it saves (O41; R252 to R257, R357): an exception writes one thread, and to slot 0 it leaves a notice
beside it; what asks for a page and what is traced changes no slot. -/

namespace Sys2Proof.Machine

/-! ### The words of a trap -/

theorem putBit_31_true (x : Word) : putBit x 31 true = x ||| 0x80000000 := rfl

theorem trapInfo_low (x : TrapInfo) (i : Nat) : x.low i = causeBits i x := by
  unfold TrapInfo.low TrapInfo.kindField causeBits
  cases x.cause <;> rfl

theorem tcause_saveTrap_true (t : Thread) (i : Nat) (x : TrapInfo) :
    saveTrap t i x true = { t with tpc := x.ret, tval := x.tval, tcause := causeBits i x ||| 0x80000000 } := by
  rw [saveTrap, trapInfo_low, putBit_31_true]

theorem tcause_saveTrap_false (t : Thread) (i : Nat) (x : TrapInfo) :
    saveTrap t i x false = { t with tpc := x.ret, tval := x.tval, tcause := causeBits i x &&& 0x7FFFFFFF } := by
  rw [saveTrap, trapInfo_low, putBit_31_false]

theorem vectorOf_ne_zero (t : Thread) (x : TrapInfo) :
    vectorOf t x ≠ 0 ↔ (x.cause = .page ∧ x.kframe = false ∧ t.upc ≠ 0) ∨
      ((x.cause = .waitlim ∨ x.cause = .brk ∨ x.cause = .trap) ∧ t.tvec ≠ 0) := by
  unfold vectorOf
  cases hc : x.cause <;> cases hk : x.kframe <;> simp

theorem vectoredCauses : Claim.VectoredCauses := by
  intro t i x
  rw [← vectorOf_ne_zero]
  simp only [goesToVector, Bool.and_eq_true, bne_iff_ne, Bool.not_eq_true', ne_eq]
  tauto

/-- A thread in a trap goes to no vector. -/
theorem not_goesToVector {t : Thread} (h : inTrap t = true) (i : Nat) (x : TrapInfo) : goesToVector t i x = false := by
  simp [goesToVector, h]

/-- The words of a notice behind the first, which names the slot. -/
theorem trapNotice_words (c i : Nat) (t : Thread) (x : TrapInfo) :
    (trapNotice c i t x).words.drop 1 =
      [(if inTrap t then 0x02010000 else 0x02000000) ||| causeBits i x, x.ret, x.tval, t.lid, 0, 0, 0] := by
  rw [← trapInfo_low]
  cases h : inTrap t <;> simp [trapNotice, h]

/-! ### What follows a trap changes no slot -/

theorem booked_askPage (s : State) (c i : Nat) (t : Thread) (x : TrapInfo) (z : Bool) : Booked s (askPage s c i t x z) := by
  unfold askPage
  split
  · dsimp only
    split <;> exact ⟨rfl, rfl, rfl, rfl, rfl⟩
  · exact .refl s

theorem threadAt_askPage (s : State) (c i : Nat) (t : Thread) (x : TrapInfo) (z : Bool) (d j : Nat) :
    threadAt (askPage s c i t x z) d j = threadAt s d j := by
  rw [threadAt, (booked_askPage ..).getSlot, threadAt]

theorem getSlot_wakeParked_ne (s : State) (c : Nat) {i j : Nat} (h : j ≠ i) :
    getSlot (wakeParked s c i) c j = getSlot s c j := by
  unfold wakeParked modThread
  split
  · rfl
  · exact getSlot_setThread_ne _ _ _ _ _ _ (by simp [h])

theorem booked_fatalStop (s : State) (kind : Nat) (slot core : Option Nat) : Booked s (fatalStop s kind slot core) := by
  have h1 : Booked s { s with cc := { s.cc with fatal := true } } := ⟨rfl, rfl, rfl, rfl, rfl⟩
  unfold fatalStop
  dsimp only
  split
  · exact h1.trans (booked_errReport ..)
  · exact (h1.trans (booked_errWrite ..)).trans ⟨rfl, rfl, rfl, rfl, rfl⟩

/-- A trap to slot 0 leaves the thread and its notice in the slot. -/
theorem getSlot_takeTrap_stop {s : State} {c i : Nat} {t : Thread} {x : TrapInfo} (h0 : 0 < i) (hi : i < 16)
    (hg : goesToVector t i x = false) :
    getSlot (takeTrap s c i t x) c i = ⟨.thread (stopForTrap t i x), some (trapNotice c i t x)⟩ := by
  have hne : i ≠ 0 := Nat.ne_of_gt h0
  simp only [takeTrap, hne, if_false, hg, Bool.false_eq_true]
  rw [(booked_askPage ..).getSlot, (traceRecord_keeps ..).1, getSlot_wakeParked_ne _ _ hne, getSlot_setSlot_same _ _ _ _ hi,
    setThread, setContent, getSlot_setSlot_same _ _ _ _ hi]

theorem threadAt_takeTrap_vector {s : State} {c i : Nat} {t : Thread} {x : TrapInfo} (h0 : 0 < i) (hi : i < 16)
    (hg : goesToVector t i x = true) :
    threadAt (takeTrap s c i t x) c i = some (enterVector t i x (vectorOf t x)) := by
  simp only [takeTrap, Nat.ne_of_gt h0, if_false, hg, if_true]
  rw [threadAt_askPage, threadAt_setThread_same _ _ _ _ hi]

theorem threadAt_takeTrap_zero {s : State} {c : Nat} {t : Thread} {x : TrapInfo} (h : inTrap t = false) :
    threadAt (takeTrap s c 0 t x) c 0 = some (enterVector t 0 x t.tvec) := by
  simp only [takeTrap, if_true, h, Bool.false_eq_true, if_false]
  rw [threadAt_askPage, threadAt_setThread_same _ _ _ _ (by decide)]

/-! ### Memory and registers -/

/-- What a byte reads as: memory and the die's counters. -/
theorem readByte_congr {s s' : State} (hm : s'.mem = s.mem) (hc : s'.counters = s.counters) (p : Place) :
    readByte s' p = readByte s p := by
  cases p <;> simp [readByte, frameByte, hm, hc]

theorem traceRecord_off {s : State} {c : Nat} (h : (traceOf s (dieOf c)).ctl.getLsbD 31 = false) (ty i : Nat) (pc : Word)
    (l : List Word) : traceRecord s ty c i pc l = s := by
  simp only [traceRecord, h, Bool.false_and, Bool.false_eq_true, if_false]

theorem readByte_askPage (s : State) (c i : Nat) (t : Thread) (x : TrapInfo) (z : Bool) (p : Place) :
    readByte (askPage s c i t x z) p = readByte s p := by
  unfold askPage
  split
  · dsimp only
    split <;> exact readByte_congr (s := s) rfl rfl p
  · rfl

theorem readByte_wakeParked (s : State) (c i : Nat) (p : Place) : readByte (wakeParked s c i) p = readByte s p := by
  unfold wakeParked modThread
  split
  · rfl
  · exact readByte_congr (s := s) rfl rfl p

theorem traceOf_wakeParked (s : State) (c i d : Nat) : traceOf (wakeParked s c i) d = traceOf s d := by
  unfold wakeParked modThread
  split <;> rfl

/-- Outside a trace a trap writes no storage. -/
theorem readByte_takeTrap {s : State} {c i : Nat} (t : Thread) (x : TrapInfo) (h0 : 0 < i)
    (h : (traceOf s (dieOf c)).ctl.getLsbD 31 = false) (p : Place) :
    readByte (takeTrap s c i t x) p = readByte s p := by
  simp only [takeTrap, Nat.ne_of_gt h0, if_false]
  split
  · rw [readByte_askPage]
    exact readByte_congr (s := s) rfl rfl p
  · rw [readByte_askPage, traceRecord_off (by rw [traceOf_wakeParked]; exact h), readByte_wakeParked]
    exact readByte_congr (s := s) rfl rfl p

/-! ### Delivery -/

theorem trapTaken : Claim.TrapTaken := by
  intro s c i t x h0 hi
  have hstop (hg : goesToVector t i x = false) : threadAt (takeTrap s c i t x) c i = some (stopForTrap t i x) := by
    rw [threadAt, getSlot_takeTrap_stop h0 hi hg]
    rfl
  refine ⟨fun hg => ?_, fun hg hn => ⟨?_, trapNotice c i t x, ?_, rfl, rfl, rfl, ?_⟩, fun hn => ⟨?_, trapNotice c i t x, ?_, ?_⟩,
    fun h p => readByte_takeTrap t x h0 h p⟩
  · rw [threadAt_takeTrap_vector h0 hi hg, enterVector, tcause_saveTrap_true]
  · rw [hstop hg, stopForTrap, hn, if_neg Bool.false_ne_true, tcause_saveTrap_false]
  · rw [getSlot_takeTrap_stop h0 hi hg]
  · rw [trapNotice_words, hn, if_neg Bool.false_ne_true]
  · rw [hstop (not_goesToVector hn i x), stopForTrap, if_pos hn]
  · rw [getSlot_takeTrap_stop h0 hi (not_goesToVector hn i x)]
  · rw [trapNotice_words, if_pos hn]

theorem slotZeroTrap : Claim.SlotZeroTrap := by
  refine fun s c t x => ⟨fun hn => ?_, fun hn => ?_⟩
  · rw [threadAt_takeTrap_zero hn, enterVector, tcause_saveTrap_true]
  · simp only [takeTrap, if_true, hn]
    refine ⟨?_, fatal_fatalStop ..⟩
    rw [(booked_fatalStop ..).getCore, modCore, getCore_setCore_same]

/-- Settles O41: a trap writes the one thread that takes it, what follows it changes no slot, and a fatal error leaves the
package down. -/
theorem trapDelivery : Obligations.TrapDelivery :=
  ⟨trapTaken, vectoredCauses, slotZeroTrap, fun _ ha hf => step_fatal hf ha⟩

end Sys2Proof.Machine

/-! What the firmware's notes write (R355, R356, R364, R367): the replay log, the error ring and the trace buffers take bytes and
books of the control complex, and nothing else of the package. -/

namespace Sys2Proof.Machine

/-- What a note may write: memory with its errors cured, the next free value, and the firmware's own books. -/
structure Notes where
  mem : List (Nat × BitVec 8)
  bads : List Nat
  free : Nat
  snoop : List Nat
  sent : List Sent
  ctl : Vector CtlCore 16
  toReplay : List Stamped
  replay : List Stamped
  logged : Nat
  etail : BitVec 16
  elost : Word
  enum : Word
  header : List Word
  recent : List Recent
  lastCorr : Option (BitVec 64)
  traces : Vector Trace 4

/-- A state with these notes taken. -/
def State.note (s : State) (n : Notes) : State :=
  { s with
    mem := n.mem, bads := n.bads, free := n.free
    cc := { s.cc with
      snoop := n.snoop, sent := n.sent, ctl := n.ctl, toReplay := n.toReplay, replay := n.replay, logged := n.logged
      etail := n.etail, elost := n.elost, enum := n.enum, header := n.header, recent := n.recent
      lastCorr := n.lastCorr, traces := n.traces } }

/-- The notes as they stand. -/
def State.notes (s : State) : Notes :=
  { mem := s.mem, bads := s.bads, free := s.free, snoop := s.cc.snoop, sent := s.cc.sent, ctl := s.cc.ctl,
    toReplay := s.cc.toReplay, replay := s.cc.replay, logged := s.cc.logged, etail := s.cc.etail, elost := s.cc.elost,
    enum := s.cc.enum, header := s.cc.header, recent := s.cc.recent, lastCorr := s.cc.lastCorr, traces := s.cc.traces }

/-- From `s` to `s'` nothing has changed but notes. -/
def TakesNotes (s s' : State) : Prop := s' = s.note s'.notes

theorem TakesNotes.refl (s : State) : TakesNotes s s := rfl

theorem TakesNotes.trans {s s' s'' : State} (h : TakesNotes s s') (g : TakesNotes s' s'') : TakesNotes s s'' := by
  unfold TakesNotes at h g ⊢
  rw [g, h]
  rfl

theorem TakesNotes.foldl {α : Type} {f : State → α → State} (h : ∀ s a, TakesNotes s (f s a)) (l : List α) (s : State) :
    TakesNotes s (l.foldl f s) := by
  induction l generalizing s with
  | nil => exact .refl s
  | cons a l ih => exact (h s a).trans (ih _)

/-- What reads no note is as it was. -/
theorem TakesNotes.keeps {α : Type} {s s' : State} (h : TakesNotes s s') (f : State → α) (hf : ∀ s n, f (State.note s n) = f s) :
    f s' = f s := by
  rw [h, hf]

theorem takesNotes_takeBack (s : State) (p : Place) (n : Nat) : TakesNotes s (takeBack s p n) := by
  unfold takeBack
  split
  · exact .refl s
  · refine .foldl (fun s j => ?_) _ s
    unfold backInvalidate
    split <;> exact rfl

theorem takesNotes_storeHbm (s : State) (d a n v : Nat) : TakesNotes s (storeNat s (.hbm d a) n v) := rfl

theorem takesNotes_storeHost (s : State) (a n v : Nat) : TakesNotes s (storeNat s (.host a) n v) := rfl

theorem takesNotes_logEntry (s : State) (e : Stamped) : TakesNotes s (logEntry s e) :=
  ((takesNotes_takeBack s (logPlace s) (stampedBytes e).length).trans (takesNotes_storeHbm _ _ _ _ _)).trans rfl

theorem takesNotes_logInput (s : State) (x : Logged) : TakesNotes s (logInput s x) := by
  unfold logInput
  split
  · exact TakesNotes.trans (s' := setCtl { s with cc := { s.cc with toReplay := s.cc.toReplay.drop 1 } } _ _) rfl
      (takesNotes_logEntry _ _)
  · exact TakesNotes.trans (s' := { setCtl s _ _ with free := s.free + 1 }) rfl (takesNotes_logEntry _ _)

theorem takesNotes_errWrite (s : State) (r : ErrRec) : TakesNotes s (errWrite s r) := by
  unfold errWrite
  dsimp only
  split
  · exact ((takesNotes_logInput s _).trans (takesNotes_storeHost _ _ _ _)).trans rfl
  · exact rfl

theorem takesNotes_errAer (s : State) (kind : Nat) (r : ErrRec) : TakesNotes s (errAer s kind r) := by
  unfold errAer
  repeat' split
  all_goals exact rfl

theorem takesNotes_errReport (s : State) (kind : Nat) (slot core : Option Nat) (addr : Nat) (tag : Word) :
    TakesNotes s (errReport s kind slot core addr tag) := by
  refine (takesNotes_errAer s kind (errRec s kind slot core addr tag)).trans ?_
  unfold errReport
  dsimp only
  split
  · split
    · exact rfl
    · exact takesNotes_errWrite _ _
  · exact takesNotes_errWrite _ _

/-! ### The replay log (R367) -/

/-- From `s` to `s'` the host has been asked for lines, and nothing else has changed. -/
def TakesLines (s s' : State) : Prop := s' = { s with cc := { s.cc with snoop := s'.cc.snoop, sent := s'.cc.sent } }

theorem TakesLines.trans {s s' s'' : State} (h : TakesLines s s') (g : TakesLines s' s'') : TakesLines s s'' := by
  unfold TakesLines at h g ⊢
  rw [g, h]

theorem takesLines_backInvalidate (s : State) (p : Place) : TakesLines s (backInvalidate s p) := by
  unfold backInvalidate
  split <;> exact rfl

theorem takesLines_takeBack (s : State) (p : Place) (n : Nat) : TakesLines s (takeBack s p n) := by
  unfold takeBack
  split
  · rfl
  · generalize List.range _ = l
    suffices ∀ s, TakesLines s (l.foldl (fun s j => backInvalidate s (p.shift (64 * j))) s) from this s
    induction l with
    | nil => exact fun s => rfl
    | cons j l ih => exact fun s => (takesLines_backInvalidate s _).trans (ih _)

theorem takeBack_mem (s : State) (p : Place) (n : Nat) : (takeBack s p n).mem = s.mem := by
  rw [takesLines_takeBack s p n]

/-- The stamp of an input. -/
def stampFor (s : State) (x : Logged) : Stamped :=
  let k := match x with | .service .. => 0 | _ => ctlActor s
  ⟨x, k, (ctlCore s k).retired + Config.freeNat s.free⟩

/-- Outside a replay an input is logged at the next place, over the memory that is there. -/
theorem loggedIn_logInput {s : State} (h : s.cc.toReplay = []) (x : Logged) : LoggedIn s s (logInput s x) x := by
  refine ⟨stampFor s x, rfl, ?_, ?_⟩ <;>
    simp only [logInput, h, List.head?_nil, Option.filter_none, logEntry]
  · rw [takesLines_takeBack]
    rfl
  · exact storeNat_mem_congr (takeBack_mem _ _ _) _ _ _

end Sys2Proof.Machine

/-! Checkpoints, holds and samples (O26; R342, R343, R364, R366): asking threads to stop and letting them go changes cores alone,
and each thread by the one field that says so. -/

namespace Sys2Proof.Machine

/-! ### What changes cores alone -/

/-- From `s` to `s'` only cores have changed. -/
def OnlyCores (s s' : State) : Prop := s' = { s with cores := s'.cores }

theorem OnlyCores.refl (s : State) : OnlyCores s s := rfl

theorem OnlyCores.trans {s s' s'' : State} (h : OnlyCores s s') (g : OnlyCores s' s'') : OnlyCores s s'' := by
  unfold OnlyCores at h g ⊢
  rw [g, h]

theorem OnlyCores.foldl {α : Type} {f : State → α → State} (h : ∀ s a, OnlyCores s (f s a)) (l : List α) (s : State) :
    OnlyCores s (l.foldl f s) := by
  induction l generalizing s with
  | nil => exact .refl s
  | cons a l ih => exact (h s a).trans (ih _)

/-- What reads no core is as it was. -/
theorem OnlyCores.keeps {α : Type} {s s' : State} (h : OnlyCores s s') (f : State → α)
    (hf : ∀ s cs, f { s with cores := cs } = f s) : f s' = f s := by
  rw [h, hf]

theorem onlyCores_modCore (s : State) (c : Nat) (f : Core → Core) : OnlyCores s (modCore s c f) := rfl

theorem onlyCores_modThread (s : State) (c i : Nat) (f : Thread → Thread) : OnlyCores s (modThread s c i f) := by
  unfold modThread
  split <;> exact rfl

theorem onlyCores_onPair (s : State) (c i : Nat) (f : Thread → Thread) : OnlyCores s (onPair s c i f) := by
  unfold onPair
  split
  · exact (onlyCores_modThread ..).trans (onlyCores_modThread ..)
  · exact onlyCores_modThread ..

theorem onlyCores_askStops (s : State) (c : Nat) : OnlyCores s (askStops s c) := by
  unfold askStops
  split
  · exact .foldl (fun s e => onlyCores_modThread ..) _ s
  · exact .refl s

theorem onlyCores_withdrawStops (s : State) (c : Nat) : OnlyCores s (withdrawStops s c) := by
  unfold withdrawStops
  split
  · exact .refl s
  · refine .foldl (fun s e => ?_) _ s
    split
    · exact .refl s
    · exact onlyCores_modThread ..

theorem onlyCores_releasePaused (s : State) (c : Nat) : OnlyCores s (releasePaused s c) :=
  (OnlyCores.foldl (fun _ _ => onlyCores_onPair ..) _ s).trans (onlyCores_modCore ..)

/-- A package that resumes has no checkpoint, and is otherwise changed in its cores. -/
theorem onlyCores_resumeAll (s : State) : OnlyCores { s with cc := { s.cc with checkpoint := none } } (resumeAll s) := by
  have h := OnlyCores.foldl (fun s (e : Nat × Core) => onlyCores_releasePaused s e.1) s.cores s
  unfold resumeAll OnlyCores at *
  rw [h]

/-! ### Every running thread is asked to stop (R342) -/

/-- A thread that is asked to stop at its next boundary. -/
def askThread (t : Thread) : Thread := { t with stopReq := true }

theorem threadAt_modThread_ask {s : State} {c i : Nat} {t : Thread} (h : threadAt s c i = some (askThread t)) (d j : Nat) :
    threadAt (modThread s d j askThread) c i = some (askThread t) := by
  by_cases hd : (c, i) = (d, j)
  · cases hd
    rw [modThread_some _ _ _ _ _ h, threadAt_setThread_same _ _ _ _ (threadAt_lt h)]
    rfl
  · rw [threadAt_modThread_ne _ _ _ _ _ _ hd, h]

/-- Once asked, a thread stays asked while others are. -/
theorem threadAt_foldl_ask {s : State} {c i : Nat} {t : Thread} (h : threadAt s c i = some (askThread t)) (d : Nat)
    (l : List (Nat × Thread)) :
    threadAt (l.foldl (fun s e => modThread s d e.1 askThread) s) c i = some (askThread t) := by
  induction l generalizing s with
  | nil => exact h
  | cons e l ih => exact ih (threadAt_modThread_ask h d e.1)

/-- Of the slots of a list each is asked, and a slot that is not in it is not. -/
theorem threadAt_foldl_asks {s : State} {c i : Nat} {t : Thread} (h : threadAt s c i = some t) (l : List (Nat × Thread))
    (hl : i ∈ l.map (·.1)) : threadAt (l.foldl (fun s e => modThread s c e.1 askThread) s) c i = some (askThread t) := by
  induction l generalizing s with
  | nil => cases hl
  | cons e l ih =>
    rw [List.foldl_cons]
    by_cases he : i = e.1
    · subst he
      refine threadAt_foldl_ask ?_ c l
      rw [modThread_some _ _ _ _ _ h, threadAt_setThread_same _ _ _ _ (threadAt_lt h)]
    · refine ih ?_ ((List.mem_cons.mp hl).resolve_left he)
      rw [threadAt_modThread_ne _ _ _ _ _ _ (by simp [he]), h]

/-- A checkpoint that has not staged its image. -/
def Quiescing (s : State) : Prop := s.cc.checkpoint.any (!·.staged) = true

theorem quiescing_askStops {s : State} (h : Quiescing s) (d : Nat) : Quiescing (askStops s d) := by
  unfold Quiescing
  rw [(onlyCores_askStops s d).keeps (·.cc) (fun _ _ => rfl)]
  exact h

theorem askStops_eq {s : State} (h : Quiescing s) (c : Nat) :
    askStops s c =
      ((slotThreads (getCore s c)).filter fun e => runs e.2).foldl (fun s e => modThread s c e.1 askThread) s := by
  simp only [askStops, show s.cc.checkpoint.any (!·.staged) = true from h, Bool.or_true, if_true]
  rfl

theorem threadAt_askStops_asked {s : State} (hq : Quiescing s) {c i : Nat} {t : Thread}
    (h : threadAt s c i = some (askThread t)) (d : Nat) : threadAt (askStops s d) c i = some (askThread t) := by
  rw [askStops_eq hq]
  exact threadAt_foldl_ask h d _

/-- A running thread is asked, and one that has been asked before stays so. -/
theorem threadAt_askStops_same {s : State} (hq : Quiescing s) {c i : Nat} {t : Thread} (h : threadAt s c i = some t)
    (hk : t.kind ≠ .runtime) (hs : t.stopped = false) (hr : t.role ≠ .trailing) :
    threadAt (askStops s c) c i = some (askThread t) := by
  cases hreq : t.stopReq with
  | true =>
    have ht : t = askThread t := by rw [askThread, ← hreq]
    exact threadAt_askStops_asked hq (h.trans (congrArg some ht)) c
  | false =>
    rw [askStops_eq hq]
    refine threadAt_foldl_asks h _ (List.mem_map.mpr ⟨(i, t), List.mem_filter.mpr ⟨mem_slotThreads.mpr ⟨threadAt_lt h, h⟩, ?_⟩, rfl⟩)
    simp [runs, hk, hs, hr, hreq]

theorem threadAt_foldl_ne {s : State} {c d : Nat} (hd : c ≠ d) (i : Nat) (l : List (Nat × Thread)) :
    threadAt (l.foldl (fun s e => modThread s d e.1 askThread) s) c i = threadAt s c i := by
  induction l generalizing s with
  | nil => rfl
  | cons e l ih => rw [List.foldl_cons, ih, threadAt_modThread_ne _ _ _ _ _ _ (by simp [hd])]

theorem threadAt_askStops_ne {s : State} (hq : Quiescing s) {c d : Nat} (hd : c ≠ d) (i : Nat) :
    threadAt (askStops s d) c i = threadAt s c i := by
  rw [askStops_eq hq]
  exact threadAt_foldl_ne hd i _

theorem threadAt_askAll_asked {s : State} (hq : Quiescing s) {c i : Nat} {t : Thread}
    (h : threadAt s c i = some (askThread t)) (l : List (Nat × Core)) :
    threadAt (l.foldl (fun s e => askStops s e.1) s) c i = some (askThread t) := by
  induction l generalizing s with
  | nil => exact h
  | cons e l ih => exact ih (quiescing_askStops hq e.1) (threadAt_askStops_asked hq h e.1)

theorem threadAt_askAll {s : State} (hq : Quiescing s) {c i : Nat} {t : Thread} (h : threadAt s c i = some t)
    (hk : t.kind ≠ .runtime) (hs : t.stopped = false) (hr : t.role ≠ .trailing) (l : List (Nat × Core))
    (hl : c ∈ l.map (·.1)) : threadAt (l.foldl (fun s e => askStops s e.1) s) c i = some (askThread t) := by
  induction l generalizing s with
  | nil => cases hl
  | cons e l ih =>
    rw [List.foldl_cons]
    by_cases he : c = e.1
    · subst he
      exact threadAt_askAll_asked (quiescing_askStops hq _) (threadAt_askStops_same hq h hk hs hr) l
    · exact ih (quiescing_askStops hq _) ((threadAt_askStops_ne hq he i).trans h) ((List.mem_cons.mp hl).resolve_left he)

theorem mem_keys_of_smGet {α : Type} {m : List (Nat × α)} {a : Nat} {v : α} (h : smGet m a = some v) :
    a ∈ m.map (·.1) := by
  induction m with
  | nil => cases h
  | cons e m ih =>
    rw [smGet] at h
    split at h
    · next he => exact List.mem_cons.mpr (.inl he.symm)
    · exact List.mem_cons_of_mem _ (ih h)

/-- Only the installed runtime stands on a core that has never been written. -/
theorem thread_blank {b : Bool} {i : Nat} {t : Thread} (h : ((Core.blank b).slotAt i).thread? = some t) :
    t.kind = .runtime := by
  by_cases hi : i = 0
  · subst hi
    cases b
    · cases h
    · cases h
      rfl
  · have hs : (Core.blank b).slotAt i = .empty := by
      unfold Core.slotAt Core.blank
      by_cases h16 : i < 16
      · simp [h16, Ne.symm hi]
      · simp [h16]
    rw [hs] at h
    cases h

/-- A thread of its own stands on a core that the state lists. -/
theorem mem_cores_of_threadAt {s : State} {c i : Nat} {t : Thread} (h : threadAt s c i = some t) (hk : t.kind ≠ .runtime) :
    c ∈ s.cores.map (·.1) := by
  cases hg : smGet s.cores c with
  | some k => exact mem_keys_of_smGet hg
  | none =>
    refine absurd (thread_blank (b := s.booted) (i := i) ?_) hk
    rw [threadAt, getSlot, getCore, hg] at h
    exact h

theorem checkpointAsks {s : State} {c i : Nat} {t : Thread} {b : Bool} (hw : Works s) (hn : s.cc.checkpoint = none)
    (hr : s.cc.toReplay = []) (h : threadAt s c i = some t) (hk : t.kind ≠ .runtime) (hs : t.stopped = false)
    (hrole : t.role ≠ .trailing) :
    Leaves (.checkpoint b) s fun s' =>
      threadAt s' c i = some { t with stopReq := true } ∧ s'.cc.checkpoint = some ⟨b, false, none⟩ ∧
      LoggedIn s s s' (.interrupt none b) := by
  set s0 := logInput s (.interrupt none b) with hs0
  set s1 : State := { s0 with cc := { s0.cc with checkpoint := some ⟨b, false, none⟩ } } with hs1
  have hnote : TakesNotes s s0 := takesNotes_logInput s _
  have hcores : s0.cores = s.cores := hnote.keeps (·.cores) (fun _ _ => rfl)
  have ht : threadAt s1 c i = some t := (hnote.keeps (threadAt · c i) (fun _ _ => rfl)).trans h
  have hexec : exec (.checkpoint b) s = .next (s0.cores.foldl (fun s e => askStops s e.1) s1) := by
    show execCheckpoint b s = _
    rw [execCheckpoint, whileWorking_works hw]
    simp only [beginCheckpoint, hn, inReplay, hr, Option.isSome_none, List.isEmpty_nil, Bool.not_true, Bool.or_self,
      Bool.false_eq_true, if_false, quiesce, hs1, hs0]
  have honly := OnlyCores.foldl (fun s (e : Nat × Core) => onlyCores_askStops s e.1) s0.cores s1
  have hcc := honly.keeps (·.cc) (fun _ _ => rfl)
  have hmem := honly.keeps (·.mem) (fun _ _ => rfl)
  obtain ⟨e, he, hrep, hm⟩ := loggedIn_logInput hr (.interrupt none b)
  refine ⟨_, hexec, threadAt_askAll (s := s1) rfl ht hk hs hrole _ (hcores ▸ mem_cores_of_threadAt h hk), ?_, e, he, ?_, ?_⟩
  · exact congrArg Control.checkpoint hcc
  · exact (congrArg Control.replay hcc).trans hrep
  · exact hmem.trans hm

/-! ### A checkpoint that fails, and a restore (R342, R343) -/

/-- Until its image is staged a checkpoint that times out lets every thread go on. -/
theorem timeoutBefore {s : State} {im : Option Image} (hw : Works s) (hc : s.cc.checkpoint = some ⟨true, false, im⟩)
    (hr : s.cc.toReplay = []) :
    Leaves .checkpointTimeout s fun s' => s'.cc.checkpoint = none ∧ s'.cc.saved = none := by
  have hexec : exec .checkpointTimeout s = .next (endFailed s (logInput s (.storage false)) ⟨true, false, im⟩) := by
    show execCheckpointTimeout s = _
    rw [execCheckpointTimeout, whileWorking_works hw, checkpointFails, hc]
    simp [inReplay, hr]
  refine ⟨_, hexec, ?_⟩
  set s0 := logInput s (.storage false)
  set s1 := errReport { s0 with cc := { s0.cc with saved := none } } 10 none none 0 0 with hs1
  have hsaved : s1.cc.saved = none := (takesNotes_errReport _ 10 none none 0 0).keeps (·.cc.saved) (fun _ _ => rfl)
  have honly := OnlyCores.foldl (fun s (e : Nat × Core) => onlyCores_withdrawStops s e.1) s1.cores s1
  have hres := (onlyCores_resumeAll (s1.cores.foldl (fun s e => withdrawStops s e.1) s1)).keeps (·.cc) (fun _ _ => rfl)
  rw [endFailed, ← hs1]
  refine ⟨congrArg Control.checkpoint hres, (congrArg Control.saved hres).trans ?_⟩
  exact (honly.keeps (·.cc.saved) (fun _ _ => rfl)).trans hsaved

/-- Once its image is staged the saved threads stand in their slots again. -/
theorem timeoutAfter {s : State} {im : Image} (hw : Works s) (hc : s.cc.checkpoint = some ⟨true, true, some im⟩)
    (hr : s.cc.toReplay = []) :
    Leaves .checkpointTimeout s fun s' => s'.cc.checkpoint = none ∧ s'.cc.saved = none ∧ s'.front = s.front := by
  have hexec : exec .checkpointTimeout s = .next (endFailed s (logInput s (.storage false)) ⟨true, true, some im⟩) := by
    show execCheckpointTimeout s = _
    rw [execCheckpointTimeout, whileWorking_works hw, checkpointFails, hc]
    simp [inReplay, hr]
  refine ⟨_, hexec, ?_⟩
  set s0 := logInput s (.storage false)
  set s1 := errReport { s0 with cc := { s0.cc with saved := none } } 10 none none 0 0 with hs1
  have hnote : TakesNotes { s0 with cc := { s0.cc with saved := none } } s1 := takesNotes_errReport _ 10 none none 0 0
  have hsaved : s1.cc.saved = none := hnote.keeps (·.cc.saved) (fun _ _ => rfl)
  have hfront : s1.front = s.front :=
    (hnote.keeps (·.front) (fun _ _ => rfl)).trans ((takesNotes_logInput s _).keeps (·.front) (fun _ _ => rfl))
  have hres := onlyCores_resumeAll { s1 with cores := s1.cores.map (reloadCore im) }
  have hcc := hres.keeps (·.cc) (fun _ _ => rfl)
  rw [endFailed, ← hs1]
  exact ⟨congrArg Control.checkpoint hcc, (congrArg Control.saved hcc).trans hsaved,
    (hres.keeps (·.front) (fun _ _ => rfl)).trans hfront⟩

theorem restoreLoads {s : State} {im : Image} (hw : Works s) (hs : s.cc.saved = some im)
    (hp : ∀ m ∈ im.cores, presentCore s m.core = true) :
    Leaves (.checkpointRestore true) s fun s' =>
      s'.cc.checkpoint = none ∧ s'.front = im.front ∧ s'.empties = im.empties ∧ s'.flight = [] ∧
      s'.mem = im.mem.foldl (fun m e => memWrite m e.1 e.2) (s.mem.filter fun e => !ownByte e) := by
  have hall : (im.cores.all fun m => !m.inUse || presentCore s m.core) = true :=
    List.all_eq_true.mpr fun m hm => by rw [hp m hm, Bool.or_true]
  have hexec : exec (.checkpointRestore true) s = .next (resumeAll (loadImage s im)) := by
    show execCheckpointRestore true s = _
    rw [execCheckpointRestore, whileWorking_works hw, restoreImage, hs]
    simp only [hall, Bool.and_self, if_true]
  have hres := onlyCores_resumeAll (loadImage s im)
  exact ⟨_, hexec, hres.keeps (·.cc.checkpoint) (fun _ _ => rfl), hres.keeps (·.front) (fun _ _ => rfl),
    hres.keeps (·.empties) (fun _ _ => rfl), hres.keeps (·.flight) (fun _ _ => rfl), hres.keeps (·.mem) (fun _ _ => rfl)⟩

theorem restoreRefused {s : State} (hw : Works s) : exec (.checkpointRestore false) s = .next s := by
  show execCheckpointRestore false s = _
  rw [execCheckpointRestore, whileWorking_works hw, restoreImage]
  split
  · rfl
  · rw [Bool.false_and, if_neg Bool.false_ne_true]

/-! ### Samples and holds (R364, R366) -/

theorem traceSampleKeepsTime {s : State} {c : Nat} (h : sampleReady s c = true) :
    Leaves (.traceSample c) s fun s' => (getCore s' c).sampled = s.time := by
  refine ⟨_, congrArg Host.Outcome.next (if_neg (by rw [h]; decide)), ?_⟩
  exact congrArg Core.sampled (getCore_setCore_same ..)

theorem threadAt_traceRecord (s : State) (ty c i : Nat) (pc : Word) (l : List Word) (d j : Nat) :
    threadAt (traceRecord s ty c i pc l) d j = threadAt s d j := by
  rw [threadAt, (traceRecord_keeps s ty c i pc l).1, threadAt]

section
variable {s : State} {c i : Nat} {t : Thread} (h : threadAt s c i = some t)
include h

theorem threadAt_modThread_same (f : Thread → Thread) : threadAt (modThread s c i f) c i = some (f t) := by
  rw [modThread_some _ _ _ _ _ h, threadAt_setThread_same _ _ _ _ (threadAt_lt h)]

theorem breakpointHolds (ha : t.role = .alone) (hb : breakReady s c i = true) :
    Leaves (.breakpointHold c i) s fun s' => threadAt s' c i = some { t with hold := true } := by
  have hs : onThread s c i (fun s => modThread s c i fun t => { t with hold := true }) =
      modThread s c i fun t => { t with hold := true } := by
    simp only [onThread, h, ha]
  have ht := threadAt_modThread_same h fun t => { t with hold := true }
  refine ⟨_, rfl, ?_⟩
  simp only [hb, Bool.not_true, Bool.false_eq_true, if_false, hs, ht, ha, reduceCtorEq, threadAt_traceRecord]

theorem preciseStopAtOnce (ha : t.role = .alone) (hp : pairOf s c i = none) (hh : t.hold = false) (hn : t.pend = none) :
    Leaves (.preciseStop c i) s fun s' =>
      threadAt s' c i = some { t with
        status := .ready, waitFrom := none, heldAt := none, missAt := none, hold := true, holdReq := false } := by
  have hm : threadAt (modCore s c (matForget i)) c i = some t := by
    rw [threadAt_modCore (slots_matForget i _), h]
  have he : exec (.preciseStop c i) s = .next (traceRecord
      (modThread (modCore s c (matForget i)) c i fun t => { abandon t with hold := true, holdReq := false })
      3 c i t.pc []) := by
    show execPreciseStop c i s = _
    simp only [execPreciseStop, leadSlot, hp, h, hh, ha, hn, Bool.false_eq_true, if_false, decide_true,
      Option.isNone_none, Bool.and_self, if_true]
  refine ⟨_, he, (threadAt_traceRecord ..).trans ?_⟩
  rw [threadAt_modThread_same hm, abandon_none hn]

theorem preciseStopLater (hp : pairOf s c i = none) (hh : t.hold = false) (hn : t.pend ≠ none) :
    exec (.preciseStop c i) s = .next (setThread s c i { t with holdReq := true }) := by
  have hb : t.pend.isNone = false := by rwa [Option.isNone_eq_false_iff, Option.isSome_iff_ne_none]
  show execPreciseStop c i s = _
  simp only [execPreciseStop, leadSlot, hp, h, hh, hb, Bool.false_eq_true, if_false, Bool.and_false, onPair,
    modThread_some _ _ _ _ _ h]

theorem holdLifts (ha : t.role = .alone) (hp : pairOf s c i = none) (hh : t.hold = true) :
    Leaves (.debugHoldLift c i) s fun s' =>
      threadAt s' c i = some { t with hold := false, lifted := true } ∧ s'.mem = s.mem := by
  refine ⟨_, rfl, ?_, (onlyCores_onPair ..).keeps (·.mem) (fun _ _ => rfl)⟩
  simp only [onPair, hp]
  rw [threadAt_modThread_same h, if_pos hh, ha]
  rfl

end

/-- Settles O26: a checkpoint asks each thread in turn and undoes nothing it has asked; a failure and a restore end in the
resumption of cores alone; a hold writes one thread. -/
theorem holdsAndCheckpoints : Obligations.HoldsAndCheckpoints := fun _ hw =>
  ⟨fun _ _ _ _ hn hr h hk hs hrole => checkpointAsks hw hn hr h hk hs hrole, fun _ hc hr => timeoutBefore hw hc hr,
    fun _ hc hr => timeoutAfter hw hc hr, fun _ hs hp => restoreLoads hw hs hp, restoreRefused hw,
    fun _ h => traceSampleKeepsTime h, fun _ _ _ h ha hp => ⟨fun hb => breakpointHolds h ha hb,
      fun hh hn => preciseStopAtOnce h ha hp hh hn, fun _ hh hn => preciseStopLater h hp hh hn,
      fun hh => holdLifts h ha hp hh⟩⟩

end Sys2Proof.Machine

/-! A control core's loads, stores, fetches and capabilities (O25; R348, R349, R357): an instruction that its capability lets through
goes on, and any other leaves registers, memory and tags to the fatal stop, which keeps them. -/

namespace Sys2Proof.Machine

/-! ### One control core -/

theorem ctlCore_setCtl_same (s : State) {n : Nat} (k : CtlCore) (h : n < 16) : ctlCore (setCtl s n k) n = k := by
  simp [ctlCore, setCtl, h]

theorem ctlCore_setCtl_ne (s : State) {n m : Nat} (k : CtlCore) (h : m ≠ n) : ctlCore (setCtl s n k) m = ctlCore s m := by
  simp [ctlCore, setCtl, Ne.symm h]

theorem reg_setReg {k : CtlCore} {r : Nat} (v : CapVal) (h0 : 0 < r) (h : r < 32) : (k.setReg r v).reg r = v := by
  have hr : r ≠ 0 := Nat.ne_of_gt h0
  simp [CtlCore.setReg, CtlCore.reg, hr, h]

theorem setReg_regs_only (k : CtlCore) (r : Nat) (v : CapVal) :
    (k.setReg r v).retired = k.retired ∧ (k.setReg r v).fault = k.fault := by
  unfold CtlCore.setReg
  split <;> exact ⟨rfl, rfl⟩

/-- Where an instruction retires at `pc`, its core has moved on and counts it. -/
theorem ctlCore_retire (s : State) {n : Nat} (pc : BitVec 64) (h : n < 16) :
    ctlCore (retire (setCtl s n { ctlCore s n with pc := pc }) n) n =
      { ctlCore s n with pc := pc, retired := (ctlCore s n).retired + 1 } := by
  rw [retire, ctlCore_setCtl_same _ _ h, ctlCore_setCtl_same _ _ h]

/-! ### The firmware's notes keep a control core's registers and faults -/

/-- From `s` to `s'` every control core has kept its registers and its last fault. -/
def KeepsCtl (s s' : State) : Prop := ∀ n, (ctlCore s' n).fault = (ctlCore s n).fault ∧ (ctlCore s' n).regs = (ctlCore s n).regs

theorem KeepsCtl.trans {s s' s'' : State} (h : KeepsCtl s s') (g : KeepsCtl s' s'') : KeepsCtl s s'' := fun n =>
  ⟨(g n).1.trans (h n).1, (g n).2.trans (h n).2⟩

/-- What writes no control core keeps them. -/
theorem keepsCtl_of_ctl {s s' : State} (h : s'.cc.ctl = s.cc.ctl) : KeepsCtl s s' := fun n => by
  rw [ctlCore, h, ctlCore]
  exact ⟨rfl, rfl⟩

theorem keepsCtl_setRetired (s s0 : State) (h : s.cc.ctl = s0.cc.ctl) (m r : Nat) :
    KeepsCtl s0 (setCtl s m { ctlCore s m with retired := r }) := by
  refine KeepsCtl.trans (keepsCtl_of_ctl h) fun n => ?_
  by_cases hn : n = m
  · subst hn
    by_cases h16 : n < 16
    · rw [ctlCore_setCtl_same _ _ h16]
      exact ⟨rfl, rfl⟩
    · simp [ctlCore, h16]
  · rw [ctlCore_setCtl_ne _ _ hn]
    exact ⟨rfl, rfl⟩

theorem keepsCtl_logEntry (s : State) (e : Stamped) : KeepsCtl s (logEntry s e) := by
  refine keepsCtl_of_ctl ?_
  exact (congrArg (·.cc.ctl) (takesLines_takeBack s (logPlace s) (stampedBytes e).length) :)

theorem keepsCtl_logInput (s : State) (x : Logged) : KeepsCtl s (logInput s x) := by
  unfold logInput
  split
  · exact (keepsCtl_setRetired _ s rfl _ _).trans (keepsCtl_logEntry _ _)
  · refine KeepsCtl.trans (s' := { setCtl s _ _ with free := s.free + 1 }) ?_ (keepsCtl_logEntry _ _)
    exact keepsCtl_setRetired s s rfl _ _

theorem keepsCtl_errWrite (s : State) (r : ErrRec) : KeepsCtl s (errWrite s r) := by
  unfold errWrite
  dsimp only
  split
  · exact (keepsCtl_logInput s _).trans (keepsCtl_of_ctl rfl)
  · exact keepsCtl_of_ctl rfl

theorem keepsCtl_errAer (s : State) (kind : Nat) (r : ErrRec) : KeepsCtl s (errAer s kind r) := by
  refine keepsCtl_of_ctl ?_
  unfold errAer
  repeat' split
  all_goals rfl

theorem keepsCtl_errReport (s : State) (kind : Nat) (slot core : Option Nat) (addr : Nat) (tag : Word) :
    KeepsCtl s (errReport s kind slot core addr tag) := by
  refine (keepsCtl_errAer s kind (errRec s kind slot core addr tag)).trans ?_
  unfold errReport
  dsimp only
  split
  · split
    · exact keepsCtl_of_ctl rfl
    · exact keepsCtl_errWrite _ _
  · exact keepsCtl_errWrite _ _

theorem keepsCtl_fatalStop (s : State) (kind : Nat) (slot core : Option Nat) : KeepsCtl s (fatalStop s kind slot core) := by
  have h1 : KeepsCtl s { s with cc := { s.cc with fatal := true } } := keepsCtl_of_ctl rfl
  unfold fatalStop
  dsimp only
  split
  · exact h1.trans (keepsCtl_errReport _ _ _ _ _ _)
  · exact (h1.trans (keepsCtl_errWrite _ _)).trans (keepsCtl_of_ctl rfl)

theorem takesNotes_fatalStop (s : State) (kind : Nat) (slot core : Option Nat) :
    TakesNotes { s with cc := { s.cc with fatal := true } } (fatalStop s kind slot core) := by
  unfold fatalStop
  dsimp only
  split
  · exact takesNotes_errReport ..
  · exact (takesNotes_errWrite ..).trans rfl

/-! ### What a capability lets through (R349) -/

theorem capLets_iff (v : CapVal) (u : CapUse) (a n : Nat) : v.cap.allows u a n = true ↔ CapLets v u.perms a n := by
  have hp : u.perms.all v.cap.perms.getLsbD = true ↔ ∀ b ∈ u.perms, v.bits.getLsbD (24 + b) = true := by
    cases u <;> simp [CapUse.perms, CapVal.cap]
  have hs : v.cap.perms.getLsbD 2 = v.bits.getLsbD 26 := by simp [CapVal.cap]
  simp only [Cap.allows, Bool.and_eq_true, decide_eq_true_iff, Bool.not_eq_true', hp, hs, and_assoc, CapLets]
  rfl

/-- Where an access through a register's capability lies. -/
def throughAt (k : CtlCore) (r : Nat) (imm : BitVec 64) : Nat :=
  (((k.reg r).bits.extractLsb' 80 48).setWidth 64 + imm).toNat

theorem through_eq (k : CtlCore) (u : CapUse) (r : Nat) (imm : BitVec 64) (n : Nat) (f : Nat → CtlEnd) :
    through k u r imm n f =
      if (k.reg r).cap.allows u (throughAt k r imm) n then f (throughAt k r imm) else .capFault := by
  have ha : (BitVec.ofNat 64 (k.reg r).cap.base + imm).toNat = throughAt k r imm := by
    rw [throughAt, ← BitVec.ofNat_toNat]
    rfl
  rw [through, ha]

theorem through_lets {k : CtlCore} {u : CapUse} {r : Nat} {imm : BitVec 64} {n : Nat} (f : Nat → CtlEnd)
    (h : CapLets (k.reg r) u.perms (throughAt k r imm) n) : through k u r imm n f = f (throughAt k r imm) := by
  rw [through_eq, if_pos ((capLets_iff ..).mpr h)]

theorem through_not {k : CtlCore} {u : CapUse} {r : Nat} {imm : BitVec 64} {n : Nat} (f : Nat → CtlEnd)
    (h : ¬ CapLets (k.reg r) u.perms (throughAt k r imm) n) : through k u r imm n f = .capFault := by
  rw [through_eq, if_neg (mt (capLets_iff ..).mp h)]

/-! ### Memory and tags of the control cores -/

theorem mem_setDel (l : List Nat) (a m : Nat) : m ∈ setDel l a ↔ m ∈ l ∧ m ≠ a := by
  simp [setDel]

theorem mem_foldl_setDel (ws l : List Nat) (m : Nat) : m ∈ ws.foldl setDel l ↔ m ∈ l ∧ m ∉ ws := by
  induction ws generalizing l with
  | nil => simp
  | cons w ws ih =>
    rw [List.foldl_cons, ih, mem_setDel, List.mem_cons]
    tauto

theorem mem_setAdd_iff (l : List Nat) (a m : Nat) : m ∈ setAdd l a ↔ m = a ∨ m ∈ l := by
  induction l with
  | nil => simp [setAdd]
  | cons k l ih =>
    unfold setAdd
    split
    · next h => simp [h]
    · split
      · simp
      · rw [List.mem_cons, ih, List.mem_cons]
        tauto

/-- The words that a range touches. -/
theorem mem_ctlWords {a n m : Nat} (h : 0 < n) : m ∈ ctlWords a n ↔ a / 16 ≤ m ∧ m ≤ (a + n - 1) / 16 := by
  simp only [ctlWords, List.mem_map, List.mem_range]
  constructor
  · rintro ⟨j, hj, rfl⟩
    omega
  · intro hm
    exact ⟨m - a / 16, by omega, by omega⟩

/-- A store of a register's bytes. -/
theorem memRead_writeRegister (mem : List (Nat × Byte)) (a n v x : Nat) (b : BitVec 128)
    (hv : ∀ j, j < n → BitVec.ofNat 8 (v / 256 ^ j) = b.extractLsb' (8 * j) 8) :
    memRead (writeBytes mem a n v) x =
      if a ≤ x ∧ x < a + n then b.extractLsb' (8 * (x - a)) 8 else memRead mem x := by
  rw [memRead_writeBytes]
  split
  · rw [hv _ (by omega)]
  · rfl

theorem byte_of_bits (b : BitVec 128) (j : Nat) : BitVec.ofNat 8 (b.toNat / 256 ^ j) = b.extractLsb' (8 * j) 8 := by
  apply BitVec.eq_of_toNat_eq
  rw [BitVec.toNat_ofNat, BitVec.extractLsb'_toNat, Nat.shiftRight_eq_div_pow, show 256 = 2 ^ 8 from rfl, ← pow_mul]

/-- The bytes that a store of 1, 2, 4 or 8 takes of a register. -/
theorem byte_of_int (b : BitVec 128) {n j : Nat} (hn : n ≤ 8) (hj : j < n) :
    BitVec.ofNat 8 ((b.setWidth 64).toNat % 256 ^ n / 256 ^ j) = b.extractLsb' (8 * j) 8 := by
  have h256 (k : Nat) : (256 : Nat) ^ k = 2 ^ (8 * k) := by rw [show (256 : Nat) = 2 ^ 8 from rfl, ← pow_mul]
  refine BitVec.eq_of_getLsbD_eq fun i hi => ?_
  rw [BitVec.getLsbD_ofNat, h256, h256, Nat.testBit_div_two_pow, Nat.testBit_mod_two_pow, BitVec.toNat_setWidth,
    Nat.testBit_mod_two_pow, BitVec.getLsbD_extractLsb', BitVec.testBit_toNat]
  have h1 : i + 8 * j < 8 * n := by omega
  have h2 : i + 8 * j < 64 := by omega
  simp [h1, h2, Nat.add_comm]

/-! ### One step of a control core -/

section
variable {s : State} {n : Nat} {x : BitVec 64}

theorem exec_ctlWrite (hw : Works s) : exec (.registerWrite ⟨.ctl n, 0⟩ 4 x) s = .next (ctlStep n s) := by
  show execRegisterWrite ⟨.ctl n, 0⟩ 4 x s = _
  simp [execRegisterWrite, unlessRecovery, hw.2, writeUnit, barAligned, unitWord]

/-- A capability fault: the PC is kept, and nothing else of the control complex's cores and memory has changed. -/
def CapFaults (n : Nat) (s s' : State) : Prop :=
  s'.cc.fatal = true ∧ (ctlCore s' n).fault = some (ctlCore s n).pc ∧ (ctlCore s' n).regs = (ctlCore s n).regs ∧
  s'.cc.ctlMem = s.cc.ctlMem ∧ s'.cc.ctlTags = s.cc.ctlTags

/-- An instruction that goes on at the next address. -/
def GoesOn (n size : Nat) (s s' : State) : Prop :=
  (ctlCore s' n).pc = (ctlCore s n).pc + BitVec.ofNat 64 size ∧ (ctlCore s' n).retired = (ctlCore s n).retired + 1 ∧
  (ctlCore s' n).fault = (ctlCore s n).fault ∧ s'.mem = s.mem ∧ s'.cc.fatal = false

theorem capFaults_capFatal (h : n < 16) : CapFaults n s (capFatal s n) := by
  have hk := keepsCtl_fatalStop (capTrap s n) 18 none none n
  have hn := takesNotes_fatalStop (capTrap s n) 18 none none
  rw [capTrap, ctlCore_setCtl_same _ _ h, ← capTrap] at hk
  exact ⟨fatal_fatalStop .., hk.1, hk.2, hn.keeps (·.cc.ctlMem) (fun _ _ => rfl), hn.keeps (·.cc.ctlTags) (fun _ _ => rfl)⟩

/-- An instruction that may not be fetched. -/
theorem ctlStep_noFetch (hr : ctlRuns s n = true)
    (h : ¬ CapLets (ctlCore s n).pcc [5] (ctlCore s n).pc.toNat
      (rvAt (BitVec.ofNat 32 (ctlBytes s (ctlCore s n).pc.toNat 4))).2) : ctlStep n s = capFatal s n := by
  have hf : ctlFetch s n = none := if_neg (mt (capLets_iff _ .exec _ _).mp h)
  simp only [ctlStep, hr, hf, Bool.not_true, Bool.false_eq_true, if_false]

section
variable {o : RvOp} {size : Nat} (hr : ctlRuns s n = true)
  (hl : CapLets (ctlCore s n).pcc [5] (ctlCore s n).pc.toNat size)
  (ho : rvAt (BitVec.ofNat 32 (ctlBytes s (ctlCore s n).pc.toNat 4)) = (some o, size))
include hl ho

theorem ctlFetch_some : ctlFetch s n = some (BitVec.ofNat 32 (ctlBytes s (ctlCore s n).pc.toNat 4)) := by
  refine if_pos ((capLets_iff _ .exec _ _).mpr ?_)
  rw [ho]
  exact hl

include hr

/-- One that its capability does not let through. -/
theorem ctlStep_capFault (he : rvExec s n o ((ctlCore s n).pc + BitVec.ofNat 64 size) = .capFault) :
    ctlStep n s = capFatal s n := by
  simp only [ctlStep, hr, ctlFetch_some hl ho, ho, he, Bool.not_true, Bool.false_eq_true, if_false]

/-- One that goes on. -/
theorem ctlStep_next {s1 : State} {pc : BitVec 64}
    (he : rvExec s n o ((ctlCore s n).pc + BitVec.ofNat 64 size) = .next s1 pc) :
    ctlStep n s = retire (setCtl s1 n { ctlCore s1 n with pc := pc }) n := by
  simp only [ctlStep, hr, ctlFetch_some hl ho, ho, he, Bool.not_true, Bool.false_eq_true, if_false]

end

/-- What an instruction has changed before it retires stands after it. -/
theorem goesOn_retire {s1 : State} {size : Nat} (h : n < 16) (hw : Works s)
    (hk : (ctlCore s1 n).retired = (ctlCore s n).retired ∧ (ctlCore s1 n).fault = (ctlCore s n).fault)
    (hm : s1.mem = s.mem) (hf : s1.cc.fatal = s.cc.fatal) :
    GoesOn n size s
      (retire (setCtl s1 n { ctlCore s1 n with pc := (ctlCore s n).pc + BitVec.ofNat 64 size }) n) := by
  rw [GoesOn, ctlCore_retire s1 _ h]
  exact ⟨rfl, congrArg (· + 1) hk.1, hk.2, hm, hf.trans hw.1⟩

/-- The registers where an instruction has retired. -/
theorem regs_retire (s1 : State) (pc : BitVec 64) (h : n < 16) :
    (ctlCore (retire (setCtl s1 n { ctlCore s1 n with pc := pc }) n) n).regs = (ctlCore s1 n).regs := by
  rw [ctlCore_retire s1 _ h]

theorem reg_retire (s1 : State) (pc : BitVec 64) (h : n < 16) (r : Nat) :
    (ctlCore (retire (setCtl s1 n { ctlCore s1 n with pc := pc }) n) n).reg r = (ctlCore s1 n).reg r := by
  rw [CtlCore.reg, regs_retire _ _ h, CtlCore.reg]

/-! ### The stores -/

theorem ctlCore_ctlWrite (a k v m : Nat) :
    (ctlCore (ctlWrite s a k v) m).retired = (ctlCore s m).retired ∧ (ctlCore (ctlWrite s a k v) m).fault = (ctlCore s m).fault ∧
      (ctlCore (ctlWrite s a k v) m).regs = (ctlCore s m).regs := by
  simp only [ctlCore, ctlWrite, Vector.getElem?_map]
  cases s.cc.ctl[m]? with
  | none => exact ⟨rfl, rfl, rfl⟩
  | some k =>
    simp only [Option.map_some, Option.getD_some]
    split <;> exact ⟨rfl, rfl, rfl⟩

theorem rvLoaded_eq (f3 v : Nat) :
    rvLoaded f3 v =
      (if f3 < 3 then (BitVec.ofNat (8 * 2 ^ (f3 % 4)) v).signExtend 64 else BitVec.ofNat 64 v : BitVec 64) := by
  match f3 with
  | 0 | 1 | 2 => rfl
  | f + 3 => rw [if_neg (by omega), rvLoaded] <;> omega

end

/-! ### What lets an access through computes -/

section
variable {s : State} {n r : Nat} {imm next : BitVec 64}

theorem rvExec_load {f3 rd : Nat}
    (hc : CapLets ((ctlCore s n).reg r) [7] (throughAt (ctlCore s n) r imm) (2 ^ (f3 % 4))) :
    rvExec s n (.load f3 rd r imm) next =
      .next (setCtl s n ((ctlCore s n).setReg rd
        ⟨(rvLoaded f3 (ctlBytes s (throughAt (ctlCore s n) r imm) (2 ^ (f3 % 4)))).setWidth 128, false⟩)) next := by
  simp only [rvExec]
  rw [through_lets (u := .load) _ hc, rvWrite]

theorem rvExec_store {f3 b : Nat} (hc : CapLets ((ctlCore s n).reg r) [6] (throughAt (ctlCore s n) r imm) (2 ^ f3)) :
    rvExec s n (.store f3 r b imm) next =
      .next (ctlWrite s (throughAt (ctlCore s n) r imm) (2 ^ f3) (((ctlCore s n).int b).toNat % 256 ^ 2 ^ f3)) next := by
  simp only [rvExec]
  rw [through_lets (u := .store) _ hc]

theorem rvExec_loadCap {rd : Nat} (hc : CapLets ((ctlCore s n).reg r) [7, 4] (throughAt (ctlCore s n) r imm) 16)
    (ha : throughAt (ctlCore s n) r imm % 16 = 0) :
    rvExec s n (.loadCap rd r imm) next =
      .next (setCtl s n ((ctlCore s n).setReg rd (ctlWord s (throughAt (ctlCore s n) r imm)))) next := by
  simp only [rvExec]
  rw [through_lets (u := .loadCap) _ hc, ha]
  rfl

theorem rvExec_storeCap {b : Nat} (hc : CapLets ((ctlCore s n).reg r) [6, 3] (throughAt (ctlCore s n) r imm) 16)
    (ha : throughAt (ctlCore s n) r imm % 16 = 0) :
    rvExec s n (.storeCap r b imm) next =
      .next (ctlPut s (throughAt (ctlCore s n) r imm) ((ctlCore s n).reg b)) next := by
  simp only [rvExec]
  rw [through_lets (u := .storeCap) _ hc, ha]
  rfl

end

/-! ### The instructions -/

section
variable {s : State} {n size : Nat} {x : BitVec 64} (h16 : n < 16) (hw : Works s) (hr : ctlRuns s n = true)
  (hl : CapLets (ctlCore s n).pcc [5] (ctlCore s n).pc.toNat size)
include h16 hw hr hl

/-- An instruction whose capability does not let it through. -/
theorem leaves_capFault {o : RvOp}
    (ho : rvAt (BitVec.ofNat 32 (ctlBytes s (ctlCore s n).pc.toNat 4)) = (some o, size))
    (he : rvExec s n o ((ctlCore s n).pc + BitVec.ofNat 64 size) = .capFault) :
    Leaves (.registerWrite ⟨.ctl n, 0⟩ 4 x) s (CapFaults n s) :=
  ⟨_, exec_ctlWrite hw, by
    rw [ctlStep_capFault hr hl ho he]
    exact capFaults_capFatal h16⟩

theorem ctlLoad {f3 rd r : Nat} {imm : BitVec 64}
    (ho : rvAt (BitVec.ofNat 32 (ctlBytes s (ctlCore s n).pc.toNat 4)) = (some (.load f3 rd r imm), size))
    (hc : CapLets ((ctlCore s n).reg r) [7] (throughAt (ctlCore s n) r imm) (2 ^ (f3 % 4))) :
    Leaves (.registerWrite ⟨.ctl n, 0⟩ 4 x) s fun s' =>
      GoesOn n size s s' ∧ s'.cc.ctlMem = s.cc.ctlMem ∧
      (0 < rd → rd < 32 → (ctlCore s' n).reg rd =
        ⟨(rvLoaded f3 (ctlBytes s (throughAt (ctlCore s n) r imm) (2 ^ (f3 % 4)))).setWidth 128, false⟩) := by
  have hk := ctlCore_setCtl_same s ((ctlCore s n).setReg rd
    ⟨(rvLoaded f3 (ctlBytes s (throughAt (ctlCore s n) r imm) (2 ^ (f3 % 4)))).setWidth 128, false⟩) h16
  refine ⟨_, exec_ctlWrite hw, ?_⟩
  rw [ctlStep_next hr hl ho (rvExec_load hc)]
  refine ⟨goesOn_retire h16 hw (by rw [hk]; exact setReg_regs_only ..) rfl rfl, rfl, fun h0 h32 => ?_⟩
  rw [reg_retire _ _ h16, hk, reg_setReg _ h0 h32]

theorem ctlStore {f3 r b : Nat} {imm : BitVec 64} (h4 : f3 < 4)
    (ho : rvAt (BitVec.ofNat 32 (ctlBytes s (ctlCore s n).pc.toNat 4)) = (some (.store f3 r b imm), size))
    (hc : CapLets ((ctlCore s n).reg r) [6] (throughAt (ctlCore s n) r imm) (2 ^ f3)) :
    let a := throughAt (ctlCore s n) r imm
    Leaves (.registerWrite ⟨.ctl n, 0⟩ 4 x) s fun s' =>
      GoesOn n size s s' ∧ (ctlCore s' n).regs = (ctlCore s n).regs ∧
      (∀ y, memRead s'.cc.ctlMem y =
        if a ≤ y ∧ y < a + 2 ^ f3 then ((ctlCore s n).reg b).bits.extractLsb' (8 * (y - a)) 8
        else memRead s.cc.ctlMem y) ∧
      ∀ m, m ∈ s'.cc.ctlTags ↔ m ∈ s.cc.ctlTags ∧ ¬ (a / 16 ≤ m ∧ m ≤ (a + 2 ^ f3 - 1) / 16) := by
  intro a
  obtain ⟨hret, hfault, hregs⟩ := ctlCore_ctlWrite (s := s) a (2 ^ f3) (((ctlCore s n).int b).toNat % 256 ^ 2 ^ f3) n
  have h8 : 2 ^ f3 ≤ 8 := Nat.pow_le_pow_right (by decide) (Nat.le_of_lt_succ h4) |>.trans (by decide : 2 ^ 3 ≤ 8)
  refine ⟨_, exec_ctlWrite hw, ?_⟩
  rw [ctlStep_next hr hl ho (rvExec_store hc)]
  refine ⟨goesOn_retire h16 hw ⟨hret, hfault⟩ rfl rfl, ?_, fun y => ?_, fun m => ?_⟩
  · rw [regs_retire _ _ h16, hregs]
  · exact memRead_writeRegister _ _ _ _ _ _ fun j hj => byte_of_int _ h8 hj
  · rw [← mem_ctlWords (Nat.two_pow_pos f3)]
    exact mem_foldl_setDel _ _ _

theorem ctlLoadCap {rd r : Nat} {imm : BitVec 64}
    (ho : rvAt (BitVec.ofNat 32 (ctlBytes s (ctlCore s n).pc.toNat 4)) = (some (.loadCap rd r imm), size))
    (hc : CapLets ((ctlCore s n).reg r) [7, 4] (throughAt (ctlCore s n) r imm) 16)
    (ha : throughAt (ctlCore s n) r imm % 16 = 0) :
    Leaves (.registerWrite ⟨.ctl n, 0⟩ 4 x) s fun s' =>
      GoesOn n size s s' ∧ s'.cc.ctlMem = s.cc.ctlMem ∧
      (0 < rd → rd < 32 → (ctlCore s' n).reg rd =
        ⟨BitVec.ofNat 128 (ctlBytes s (throughAt (ctlCore s n) r imm) 16),
          s.cc.ctlTags.contains (throughAt (ctlCore s n) r imm / 16)⟩) := by
  set a := throughAt (ctlCore s n) r imm
  have hword : ctlWord s a = ⟨BitVec.ofNat 128 (ctlBytes s a 16), s.cc.ctlTags.contains (a / 16)⟩ := by
    rw [ctlWord, Nat.div_mul_cancel (Nat.dvd_of_mod_eq_zero ha)]
  have hk := ctlCore_setCtl_same s ((ctlCore s n).setReg rd (ctlWord s a)) h16
  refine ⟨_, exec_ctlWrite hw, ?_⟩
  rw [ctlStep_next hr hl ho (rvExec_loadCap hc ha)]
  refine ⟨goesOn_retire h16 hw (by rw [hk]; exact setReg_regs_only ..) rfl rfl, rfl, fun h0 h32 => ?_⟩
  rw [reg_retire _ _ h16, hk, reg_setReg _ h0 h32, hword]

theorem ctlStoreCap {r b : Nat} {imm : BitVec 64}
    (ho : rvAt (BitVec.ofNat 32 (ctlBytes s (ctlCore s n).pc.toNat 4)) = (some (.storeCap r b imm), size))
    (hc : CapLets ((ctlCore s n).reg r) [6, 3] (throughAt (ctlCore s n) r imm) 16)
    (ha : throughAt (ctlCore s n) r imm % 16 = 0) :
    let a := throughAt (ctlCore s n) r imm
    Leaves (.registerWrite ⟨.ctl n, 0⟩ 4 x) s fun s' =>
      GoesOn n size s s' ∧ (ctlCore s' n).regs = (ctlCore s n).regs ∧
      (∀ m, m ∈ s'.cc.ctlTags ↔ if m = a / 16 then ((ctlCore s n).reg b).tag = true else m ∈ s.cc.ctlTags) ∧
      ∀ y, memRead s'.cc.ctlMem y =
        if a ≤ y ∧ y < a + 16 then ((ctlCore s n).reg b).bits.extractLsb' (8 * (y - a)) 8
        else memRead s.cc.ctlMem y := by
  intro a
  have hput : ctlPut s a ((ctlCore s n).reg b) =
      { ctlWrite s a 16 ((ctlCore s n).reg b).bits.toNat with
        cc := { (ctlWrite s a 16 ((ctlCore s n).reg b).bits.toNat).cc with
          ctlTags := if ((ctlCore s n).reg b).tag then setAdd ((ctlWords a 16).foldl setDel s.cc.ctlTags) (a / 16)
            else (ctlWords a 16).foldl setDel s.cc.ctlTags } } := by
    rw [ctlPut, Nat.div_mul_cancel (Nat.dvd_of_mod_eq_zero ha)]
    rfl
  obtain ⟨hret, hfault, hregs⟩ := ctlCore_ctlWrite (s := s) a 16 ((ctlCore s n).reg b).bits.toNat n
  refine ⟨_, exec_ctlWrite hw, ?_⟩
  rw [ctlStep_next hr hl ho (rvExec_storeCap hc ha), hput]
  refine ⟨goesOn_retire h16 hw ⟨hret, hfault⟩ rfl rfl, ?_, fun m => ?_, fun y => ?_⟩
  · rw [regs_retire _ _ h16]
    exact hregs
  · have hw16 : m ∈ ctlWords a 16 ↔ m = a / 16 := by
      rw [mem_ctlWords (by decide)]
      omega
    have hdel : m ∈ (ctlWords a 16).foldl setDel s.cc.ctlTags ↔ m ∈ s.cc.ctlTags ∧ m ≠ a / 16 := by
      rw [mem_foldl_setDel, hw16]
    show m ∈ (if ((ctlCore s n).reg b).tag = true then _ else _) ↔ _
    by_cases hm : m = a / 16
    · rw [hm] at hdel ⊢
      cases ((ctlCore s n).reg b).tag <;> simp [mem_setAdd_iff, hdel]
    · cases ((ctlCore s n).reg b).tag <;> simp [mem_setAdd_iff, hdel, hm]
  · exact memRead_writeRegister _ _ _ _ _ _ fun j _ => byte_of_bits _ j

end

/-- Settles O25: each instruction is one access through a capability; where that lets it through what it writes stands after it
retires, and elsewhere the fatal stop takes notes alone. -/
theorem controlCores : Obligations.ControlCores := by
  intro s n w size x h16 hw hon k event faults goesOn at_ word
  have hr : ctlRuns s n = true := by simp [ctlRuns, hon, hw.1, hw.2]
  refine ⟨fun hf => ⟨_, exec_ctlWrite hw, by rw [ctlStep_noFetch hr hf]; exact capFaults_capFatal h16⟩,
    fun hl hword => ⟨fun f3 rd r imm ho => ?load, fun f3 r b imm h4 ho => ?store, fun rd r imm ho => ?loadCap,
      fun r b imm ho => ?storeCap⟩⟩ <;> subst hword
  case load =>
    refine ⟨fun hc => leaves_capFault h16 hw hr hl ho (by simp only [rvExec]; exact through_not (u := .load) _ hc),
      fun hc => ?_⟩
    rw [← rvLoaded_eq]
    exact ctlLoad h16 hw hr hl ho hc
  case store =>
    exact ⟨fun hc => leaves_capFault h16 hw hr hl ho (by simp only [rvExec]; exact through_not (u := .store) _ hc),
      fun hc => ctlStore h16 hw hr hl h4 ho hc⟩
  case loadCap =>
    exact ⟨fun hc => leaves_capFault h16 hw hr hl ho (by simp only [rvExec]; exact through_not (u := .loadCap) _ hc),
      fun hc ha => ctlLoadCap h16 hw hr hl ho hc ha⟩
  case storeCap =>
    exact ⟨fun hc => leaves_capFault h16 hw hr hl ho (by simp only [rvExec]; exact through_not (u := .storeCap) _ hc),
      fun hc ha => ctlStoreCap h16 hw hr hl ho hc ha⟩

end Sys2Proof.Machine

/-! Pages, walks, shootdowns and the jig (O56; R259, R261, R265, R266, R280, R305, R308, R312, R314): a store changes bytes and who
waits on them, a walk changes counts and a buffer, and neither touches a shootdown or a move. -/

namespace Sys2Proof.Machine

/-! ### Stores at a place -/

/-- From `s` to `s'` bytes have been stored, with the lines taken back from the host and the watchers woken. -/
def Stored (s s' : State) : Prop :=
  s' = { s with
    mem := s'.mem, bads := s'.bads, cores := s'.cores, cc := { s.cc with snoop := s'.cc.snoop, sent := s'.cc.sent } }

theorem Stored.refl (s : State) : Stored s s := rfl

theorem Stored.trans {s s' s'' : State} (h : Stored s s') (g : Stored s' s'') : Stored s s'' := by
  unfold Stored at h g ⊢
  rw [g, h]

theorem Stored.foldl {α : Type} {f : State → α → State} (h : ∀ s a, Stored s (f s a)) (l : List α) (s : State) :
    Stored s (l.foldl f s) := by
  induction l generalizing s with
  | nil => exact .refl s
  | cons a l ih => exact (h s a).trans (ih _)

/-- What reads neither bytes, cores nor what is said to the host is as it was. -/
theorem Stored.keeps {α : Type} {s s' : State} (h : Stored s s') (f : State → α)
    (hf : ∀ s m b k x y, f { s with mem := m, bads := b, cores := k, cc := { s.cc with snoop := x, sent := y } } = f s) :
    f s' = f s := by
  rw [h, hf]

theorem stored_takeBack (s : State) (p : Place) (n : Nat) : Stored s (takeBack s p n) := by
  unfold Stored
  rw [takesLines_takeBack]

theorem stored_wakeCore (s : State) (c line : Nat) : Stored s (wakeCore s c line) := by
  unfold wakeCore
  split
  · exact .refl s
  · split <;> exact rfl

theorem stored_wakeLine (s : State) (p : Place) : Stored s (wakeLine s p) := by
  unfold wakeLine
  split
  · exact stored_wakeCore ..
  · exact (((stored_wakeCore ..).trans (stored_wakeCore ..)).trans (stored_wakeCore ..)).trans (stored_wakeCore ..)
  · exact .refl s

theorem stored_storeNat (s : State) (p : Place) (n v : Nat) : Stored s (storeNat s p n v) := by
  unfold storeNat
  split
  · exact .refl s
  · exact Stored.trans (s' := { s with mem := writeBytes s.mem (flat p) n v, bads := _ }) rfl (stored_wakeLine ..)

/-- A store over a line taken back. -/
theorem stored_overLine (s : State) (p : Place) (k n v : Nat) : Stored s (storeNat (takeBack s p k) p n v) :=
  (stored_takeBack s p k).trans (stored_storeNat ..)

theorem storeNat_overLine_mem {s s' : State} (h : s'.mem = s.mem) (p : Place) (k n v : Nat) :
    (storeNat (takeBack s' p k) p n v).mem = (storeNat s p n v).mem :=
  storeNat_mem_congr ((takeBack_mem s' p k).trans h) p n v

/-! ### Page requests (R265) -/

/-- The table entries that answer a page request. -/
def writeEntries (s : State) (writes : List (Nat × BitVec 64)) : State :=
  writes.foldl (fun s w => storeNat (takeBack s (physPlace w.1) 8) (physPlace w.1) 8 w.2.toNat) s

theorem stored_writeEntries (s : State) (writes : List (Nat × BitVec 64)) : Stored s (writeEntries s writes) := by
  induction writes generalizing s with
  | nil => exact .refl s
  | cons w ws ih => exact (stored_overLine s (physPlace w.1) 8 8 w.2.toNat).trans (ih _)

theorem writeEntries_mem {s s' : State} (h : s'.mem = s.mem) (writes : List (Nat × BitVec 64)) :
    (writeEntries s' writes).mem = (writes.foldl (fun s w => storeNat s (physPlace w.1) 8 w.2.toNat) s).mem := by
  induction writes generalizing s s' with
  | nil => exact h
  | cons w ws ih => exact ih (storeNat_overLine_mem h _ _ _ _)

theorem pageRequestAnswered {s : State} {n : Nat} {r : PageReq} (writes : List (Nat × BitVec 64)) (mapped : Bool)
    (h : s.xl.pageReqs[n]? = some r) (hr : s.cc.toReplay = []) :
    Leaves (.pageRequest n writes mapped) s fun s' =>
      s'.xl.pageReqs = s.xl.pageReqs.eraseIdx n ∧
      s'.xl.pageNotes = s.xl.pageNotes ++ [(r, if mapped then 0 else 1)] ∧
      ∃ s1, LoggedIn s s s1 (.interrupt (some (r.core, r.slot)) false) ∧ s'.cc.replay = s1.cc.replay ∧
        s'.mem = (writes.foldl (fun s w => storeNat s (physPlace w.1) 8 w.2.toNat) s1).mem := by
  set s1 := logInput s (.interrupt (some (r.core, r.slot)) false) with hs1
  have hxl : (writeEntries s1 writes).xl = s.xl :=
    ((stored_writeEntries s1 writes).keeps (·.xl) fun _ _ _ _ _ _ => rfl).trans
      ((takesNotes_logInput s _).keeps (·.xl) fun _ _ => rfl)
  have he : exec (.pageRequest n writes mapped) s =
      .next { writeEntries s1 writes with xl := { (writeEntries s1 writes).xl with
        pageReqs := (writeEntries s1 writes).xl.pageReqs.eraseIdx n
        pageNotes := (writeEntries s1 writes).xl.pageNotes ++ [(r, if mapped then 0 else 1)] } } := by
    show execPageRequest n writes mapped s = _
    rw [execPageRequest, h]
    rfl
  refine ⟨_, he, ?_, ?_, s1, loggedIn_logInput hr _, ?_, writeEntries_mem rfl writes⟩
  · exact congrArg (·.pageReqs.eraseIdx n) hxl
  · exact congrArg (·.pageNotes ++ _) hxl
  · exact (stored_writeEntries s1 writes).keeps (·.cc.replay) fun _ _ _ _ _ _ => rfl

/-! ### Page notices (R266) -/

theorem modPend_mem (s : State) (c i : Nat) (f : Thread → Thread) : (modPend s c i f).mem = s.mem := by
  obtain ⟨k, h⟩ := modPend_eq s c i f
  rw [h]

theorem modPend_xl (s : State) (c i : Nat) (f : Thread → Thread) : (modPend s c i f).xl = s.xl := by
  obtain ⟨k, h⟩ := modPend_eq s c i f
  rw [h]

theorem pageNoticeComes {s : State} {n : Nat} {r : PageReq} {st : Nat} (h : s.xl.pageNotes[n]? = some (r, st))
    (hroom : (getCore s r.core).inbox.length < 64) :
    Leaves (.pageNotice n) s fun s' =>
      s'.xl.pageNotes = s.xl.pageNotes.eraseIdx n ∧ s'.mem = s.mem ∧
      ∃ m, (getCore s' r.core).inbox = (getCore s r.core).inbox ++ [m] ∧ m.chan = 1 ∧
        m.held = some (if r.toZero then 0 else r.slot) ∧
        m.words.drop 1 = [BitVec.ofNat 32 (2 ^ 24 + st * 256 + r.slot), r.tval, BitVec.ofNat 32 r.va,
          BitVec.ofNat 32 (r.va / 2 ^ 32), 0, 0, 0] := by
  set m : Msg :=
    { id := s.serial, srcCore := 0xFFFF, srcSlot := 0, dst := r.core, chan := 1
      words := pageNoticeWords r st, held := some (if r.toZero then 0 else r.slot), about := none, inHand := false
      after := 0 }
  set s1 := modCore { s with xl := { s.xl with pageNotes := s.xl.pageNotes.eraseIdx n }, serial := s.serial + 1 } r.core
    fun k => { k with inbox := k.inbox ++ [m] }
  have he : exec (.pageNotice n) s = .next (wakeByMessage s1 r.core (if r.toZero then 0 else r.slot)) := by
    show execPageNotice n s = _
    simp only [execPageNotice, h, if_neg (Nat.not_le.mpr hroom), ge_iff_le]
    rfl
  refine ⟨_, he, congrArg (·.pageNotes) (modPend_xl ..), modPend_mem .., m, ?_, rfl, rfl, rfl⟩
  rw [wakeByMessage, modPend_keepsRest (·.inbox) (fun _ _ _ => rfl)]
  exact congrArg Core.inbox (getCore_setCore_same ..)

/-! ### Walks (R259, R261) -/

theorem countWalk_mem (s : State) (d : Nat) (l : List Nat) : (countWalk s d l).mem = s.mem := by
  rw [(counts_countWalk d l).eq_recount s]
  rfl

theorem countWalk_xl (s : State) (d : Nat) (l : List Nat) : (countWalk s d l).xl = s.xl := by
  rw [(counts_countWalk d l).eq_recount s]
  rfl

theorem threadAt_countWalk (s : State) (d : Nat) (l : List Nat) (c i : Nat) :
    threadAt (countWalk s d l) c i = threadAt s c i := by
  rw [(counts_countWalk d l).eq_recount s]
  rfl

theorem mem_tlbFill (s : State) (e : TlbEnt) : e ∈ (tlbFill s e).xl.tlb :=
  List.mem_append_right _ List.mem_cons_self

theorem walkStartsAgain {s : State} {q n : Nat} {m : Miss} (h : (quadMisses s q)[n]? = some m)
    (hg : genOf s (q / 4096) ≠ m.gen) :
    Leaves (.translationWalk q n) s fun s' => s'.xl.tlb = s.xl.tlb ∧ s'.mem = s.mem ∧
      { m with gen := genOf s (q / 4096) } ∈ s'.xl.misses := by
  have hm : m ∈ s.xl.misses := List.mem_of_mem_filter (List.mem_of_getElem? h)
  have he : exec (.translationWalk q n) s = .next { s with xl := { s.xl with
      misses := s.xl.misses.map fun x => if x = m then { m with gen := genOf s (q / 4096) } else x } } := by
    show execTranslationWalk q n s = _
    rw [execTranslationWalk, h]
    simp only [dieOfQuad, bne_iff_ne, ne_eq, hg, not_false_eq_true, if_true]
  exact ⟨_, he, rfl, rfl, List.mem_map.mpr ⟨m, hm, if_pos rfl⟩⟩

/-- The state in which a walk has been counted and is over. -/
def walkCounted (s : State) (q : Nat) (m : Miss) : State :=
  countWalk { s with xl := { s.xl with misses := s.xl.misses.filter fun x => x != m } } (q / 4096)
    (walk s m.asn (m.page * 2 ^ 16)).2

theorem exec_walk {s : State} {q n : Nat} {m : Miss} (h : (quadMisses s q)[n]? = some m)
    (hg : genOf s (q / 4096) = m.gen) :
    exec (.translationWalk q n) s = .next (match (walk s m.asn (m.page * 2 ^ 16)).1 with
      | some (_, e, big) => tlbFill (walkCounted s q m) ⟨q, m.asn, m.page, big, e⟩
      | none => markFault (walkCounted s q m) m) := by
  show execTranslationWalk q n s = _
  rw [execTranslationWalk, h]
  simp only [dieOfQuad, hg, bne_self_eq_false, Bool.false_eq_true, if_false] <;> rfl

theorem walkCounted_xl (s : State) (q : Nat) (m : Miss) :
    (walkCounted s q m).xl = { s.xl with misses := s.xl.misses.filter fun x => x != m } := countWalk_xl ..

theorem not_mem_walkCounted (s : State) (q : Nat) (m : Miss) : m ∉ (walkCounted s q m).xl.misses := by
  rw [walkCounted_xl]
  simp

theorem walkFills {s : State} {q n : Nat} {m : Miss} (h : (quadMisses s q)[n]? = some m)
    (hg : genOf s (q / 4096) = m.gen) {pa : Nat} {e : BitVec 64} {big : Bool} {k : List Nat}
    (hw : walk s m.asn (m.page * 2 ^ 16) = (some (pa, e, big), k)) :
    Leaves (.translationWalk q n) s fun s' => m ∉ s'.xl.misses ∧ s'.mem = s.mem ∧
      (⟨q, m.asn, m.page, big, e⟩ : TlbEnt) ∈ s'.xl.tlb := by
  have he := exec_walk h hg
  simp only [hw] at he
  exact ⟨_, he, not_mem_walkCounted s q m, countWalk_mem .., mem_tlbFill ..⟩

/-- Marking a thread twice is marking it once. -/
theorem threadAt_foldl_mark {f : Thread → Thread} (hf : ∀ t, f (f t) = f t) {c i : Nat} (l : List (Nat × Nat)) {s : State}
    {t : Thread} (h : threadAt s c i = some t) :
    threadAt (l.foldl (fun s w => modThread s w.1 w.2 f) s) c i = some (if (c, i) ∈ l then f t else t) := by
  induction l generalizing s t with
  | nil => exact h
  | cons w l ih =>
    rw [List.foldl_cons]
    by_cases hw : (c, i) = w
    · subst hw
      rw [ih (threadAt_modThread_same h f), if_pos List.mem_cons_self, hf, ite_self]
    · rw [ih ((threadAt_modThread_ne s w.1 w.2 c i f hw).trans h)]
      simp [hw]

theorem walkMarks {s : State} {q n : Nat} {m : Miss} (h : (quadMisses s q)[n]? = some m)
    (hg : genOf s (q / 4096) = m.gen) {k : List Nat} (hw : walk s m.asn (m.page * 2 ^ 16) = (none, k)) :
    Leaves (.translationWalk q n) s fun s' => m ∉ s'.xl.misses ∧ s'.xl.tlb = s.xl.tlb ∧
      ∀ c i t, (c, i) ∈ m.waiters → threadAt s c i = some t →
        threadAt s' c i = some { t with faultPage := some m.page } := by
  have he := exec_walk h hg
  simp only [hw] at he
  have honly : OnlyCores (walkCounted s q m) (markFault (walkCounted s q m) m) :=
    .foldl (fun s w => onlyCores_modThread ..) m.waiters _
  have hxl := honly.keeps (·.xl) fun _ _ => rfl
  refine ⟨_, he, ?_, ?_, fun c i t hmem ht => ?_⟩
  · rw [hxl]
    exact not_mem_walkCounted s q m
  · rw [hxl, walkCounted_xl]
  · have hc : threadAt (walkCounted s q m) c i = some t := (threadAt_countWalk ..).trans ht
    rw [markFault, threadAt_foldl_mark (f := fun t => { t with faultPage := some m.page }) (fun _ => rfl) m.waiters hc,
      if_pos hmem]

/-! ### Shootdowns (R261, R280) -/

theorem exec_shootdown {s : State} {h : Shoot} {l : List Shoot} (hs : s.xl.shoots = h :: l) (hr : shootReady s = true) :
    exec .shootdownComplete s = .next
      (let s1 := { s with xl := { s.xl with shoots := l } }
      match h.owner with
      | .tlbinv c i =>
        modPend s1 c i fun t =>
          match t.pend with
          | some ⟨.tlbinv, _, _, _⟩ => finish t
          | _ => t
      | .jigMove d => jigDone s1 d
      | .jigFree d => jigDone s1 d) := by
  show execShootdownComplete s = _
  rw [execShootdownComplete, hs]
  simp only [hr, Bool.not_true, Bool.false_eq_true, if_false] <;> rfl

theorem shootdownEndsTlbinv {s : State} {h : Shoot} {l : List Shoot} {c i : Nat} {t : Thread} {n : Word} {r : Nat}
    {f : List (Nat × Word)} (hs : s.xl.shoots = h :: l) (hr : shootReady s = true) (ho : h.owner = .tlbinv c i)
    (ht : threadAt s c i = some t) (ha : t.role = .alone) (hp : t.pend = some ⟨.tlbinv, n, r, f⟩) :
    Leaves .shootdownComplete s fun s' => s'.xl.shoots = l ∧ threadAt s' c i = some (finish t) := by
  have he := exec_shootdown hs hr
  simp only [ho] at he
  have h1 : threadAt { s with xl := { s.xl with shoots := l } } c i = some t := ht
  refine ⟨_, he, congrArg (·.shoots) (modPend_xl ..), ?_⟩
  rw [modPend_alone _ h1 ha, threadAt_setThread_same _ _ _ _ (threadAt_lt ht), hp]

theorem walksAndPages : Claim.WalksAndPages :=
  ⟨fun _ _ _ writes mapped h hr => pageRequestAnswered writes mapped h hr, fun _ _ _ _ h hroom => pageNoticeComes h hroom,
    fun _ _ _ _ h => ⟨fun hg => walkStartsAgain h hg,
      fun hg => ⟨fun _ _ _ _ hw => walkFills h hg hw, fun _ hw => walkMarks h hg hw⟩⟩,
    fun _ _ _ _ _ _ _ _ _ hs hr ho ht ha hp => shootdownEndsTlbinv hs hr ho ht ha hp⟩

/-! ### What the jig does with a request (R314) -/

theorem destGone_iff (s : State) (q asn dst : Nat) :
    (match plainXlate s q asn dst with | .ok .. => false | _ => true) = true ↔
      ∀ e, tlbFind s q asn dst = some e → leafW e.leaf = false := by
  unfold plainXlate
  cases ht : tlbFind s q asn dst with
  | none => simp
  | some e => cases hw : leafW e.leaf <;> simp [hw]

/-- A tile that a move cannot take, of a leaf that may be written. -/
theorem badTarget_iff (s : State) (d : TlbEnt) (dst : Nat) (p : Place) (hw : leafW d.leaf = true) :
    badTarget s d dst p = true ↔
      (d.big = false ∧ d.leaf.getLsbD (48 + dst / 4096 % 16) = true) ∨ tilePending s (leafByte s d.leaf d.big dst) = true ∨
      tileMoving s (leafByte s d.leaf d.big dst) = true ∨ kernelFrame s d.leaf d.big dst = true ∨
      flat (leafByte s d.leaf d.big dst) / 4096 = flat p / 4096 ∨
      ¬ (leafPlace d.leaf = 0 ∨ (leafPlace d.leaf = 1 ∧ leafFrame d.leaf ≠ 0xFFFFFFFF)) := by
  simp only [badTarget, hw, leafMarked, sameTile, Bool.or_eq_true, Bool.and_eq_true, Bool.not_eq_true', Bool.not_true,
    Bool.false_eq_true, or_false, decide_eq_true_iff, Bool.or_eq_false_iff, Bool.and_eq_false_iff, decide_eq_false_iff_not,
    bne_eq_false_iff_eq]
  tauto

/-- No destination that RELOC names can be written. -/
def destGone (s : State) (r : JigReq) : Bool :=
  !r.free && match plainXlate s (quadOf r.core) r.asn r.dst with | .ok .. => false | _ => true

theorem jigAct_eq (s0 s : State) (r : JigReq) :
    jigAct s0 s r =
      match chase s0 (quadOf r.core) r.asn needRW 3 r.src [] with
      | .miss _ => .answer 5
      | .deny .. => .answer 5
      | .tooFar _ => if destGone s r then .answer 5 else .answer 3
      | .ok p va passed =>
        if destGone s r then .answer 5
        else if r.free then (if markedAt s0 (quadOf r.core) r.asn r.src then .clear else .answer 1)
        else
          match tlbFind s0 (quadOf r.core) r.asn va, tlbFind s (quadOf r.core) r.asn r.dst with
          | some e, some d =>
            if e.big || !leafM e.leaf then .answer 1
            else if badTarget s d r.dst p then .answer 2
            else if passed.length + 1 > 3 then .answer 3
            else if tileMoving s p then .answer 4
            else .move ⟨r, va, r.dst, p, leafByte s d.leaf d.big r.dst, passed.length + 1, false⟩
          | _, _ => .answer 5 := rfl

theorem destGone_iff' (s : State) (r : JigReq) :
    destGone s r = true ↔
      r.free = false ∧ ∀ e, tlbFind s (quadOf r.core) r.asn r.dst = some e → leafW e.leaf = false := by
  rw [destGone, Bool.and_eq_true, destGone_iff, Bool.not_eq_true']

theorem destGone_free {s : State} {r : JigReq} (h : r.free = true) : destGone s r = false := by
  rw [destGone, h]
  rfl

theorem jigStatuses : Claim.JigStatuses := by
  intro s0 s r q src gone
  refine ⟨fun hok hfar => ?_, fun hfree hg => ?_, fun l hl hfg => ?_, fun p va l hok => ⟨fun hfree => ?_, ?_⟩⟩
  · rw [jigAct_eq]
    cases hs : chase s0 (quadOf r.core) r.asn needRW 3 r.src [] with
    | miss v => rfl
    | deny k v l => rfl
    | tooFar l => exact absurd hs (hfar l)
    | ok p va l => exact absurd hs (hok p va l)
  · rw [jigAct_eq, (destGone_iff' s r).mpr ⟨hfree, hg⟩]
    cases chase s0 (quadOf r.core) r.asn needRW 3 r.src [] <;> rfl
  · have hd : destGone s r = false := by
      rw [Bool.eq_false_iff, ne_eq, destGone_iff']
      rintro ⟨hf, hg⟩
      exact hfg.elim (fun h => by simp [hf] at h) fun h => h hg
    rw [jigAct_eq, hd, show chase s0 (quadOf r.core) r.asn needRW 3 r.src [] = .tooFar l from hl]
    rfl
  · rw [jigAct_eq, destGone_free hfree, show chase s0 (quadOf r.core) r.asn needRW 3 r.src [] = .ok p va l from hok, hfree]
    rfl
  · intro hfree e d he hdst hw
    have hd : destGone s r = false := by
      rw [Bool.eq_false_iff, ne_eq, destGone_iff']
      exact fun h => by simp [h.2 d hdst] at hw
    have hact : jigAct s0 s r =
        if e.big || !leafM e.leaf then .answer 1
        else if badTarget s d r.dst p then .answer 2
        else if l.length + 1 > 3 then .answer 3
        else if tileMoving s p then .answer 4
        else .move ⟨r, va, r.dst, p, leafByte s d.leaf d.big r.dst, l.length + 1, false⟩ := by
      rw [jigAct_eq, hd, show chase s0 (quadOf r.core) r.asn needRW 3 r.src [] = .ok p va l from hok]
      simp only [hfree, show tlbFind s0 (quadOf r.core) r.asn va = some e from he,
        show tlbFind s (quadOf r.core) r.asn r.dst = some d from hdst, Bool.false_eq_true, if_false]
    have hbad := badTarget_iff s d r.dst p hw
    rw [hact]
    refine ⟨fun h => ?_, fun hbig hm => ⟨fun hb => ?_, fun hb hlen => ?_, fun hb hlen hmv => ?_, fun hb hlen hmv => ?_⟩⟩
    · exact if_pos (by simpa [leafM] using h)
    all_goals
      have hmov : ¬ (e.big || !leafM e.leaf) = true := by simp [hbig, leafM, hm]
      rw [if_neg hmov]
    · exact if_pos (hbad.mpr hb)
    · rw [if_neg (mt hbad.mp hb), if_pos (by omega)]
    · rw [if_neg (mt hbad.mp hb), if_neg (by omega), if_pos hmv]
    · rw [if_neg (mt hbad.mp hb), if_neg (by omega), if_neg (by simp [hmv])]

/-! ### The jig's requests and moves (R305, R308, R312, R314) -/

theorem jigOf_setJig {s : State} {d : Nat} (j : Jig) (h : d < 4) : jigOf (setJig s d j) d = j := by
  simp [jigOf, setJig, h]

theorem stored_markLeaf (s : State) (asn va : Nat) (b : Bool) : Stored s (markLeaf s asn va b) := by
  unfold markLeaf
  split
  · exact stored_overLine ..
  · exact .refl s

/-- The state in which the jig has walked both ends of a request. -/
def jigWalked (s : State) (d : Nat) (r : JigReq) (l : List JigReq) : State :=
  let s1 := walkAll r.core r.asn needRW 5 (setJig s d ⟨l, none⟩) r.src
  if r.free then s1 else walkNow s1 r.core r.asn r.dst

theorem exec_jigStart {s : State} {d : Nat} {r : JigReq} {l : List JigReq} (hq : (jigOf s d).queue = r :: l)
    (hr : jigStartReady s d = true) :
    exec (.jigStart d) s = .next
      (match jigAct (walkAll r.core r.asn needRW 5 (setJig s d ⟨l, none⟩) r.src) (jigWalked s d r l) r with
      | .answer n => answerReloc (jigWalked s d r l) r (BitVec.ofNat 32 n)
      | .move m => setJig (jigWalked s d r l) d ⟨l, some m⟩
      | .clear =>
        setJig (startShoot (markLeaf (jigWalked s d r l) r.asn r.src false) (.jigFree d) 0 r.asn (r.src / 2 ^ 16)) d
          ⟨l, some ⟨r, r.src, r.src, .host 0, .host 0, 0, true⟩⟩) := by
  show execJigStart d s = _
  rw [execJigStart, hq]
  simp only [hr, Bool.not_true, Bool.false_eq_true, if_false] <;> rfl

theorem jigClears {s : State} {d : Nat} {r : JigReq} {l : List JigReq} (h4 : d < 4) (hq : (jigOf s d).queue = r :: l)
    (hr : jigStartReady s d = true)
    (ha : jigAct (walkAll r.core r.asn needRW 5 (setJig s d ⟨l, none⟩) r.src) (jigWalked s d r l) r = .clear) :
    Leaves (.jigStart d) s fun s' =>
      s'.mem = (markLeaf (jigWalked s d r l) r.asn r.src false).mem ∧
      s'.xl.shoots.length = (jigWalked s d r l).xl.shoots.length + 1 ∧
      ∃ m, (jigOf s' d).move = some m ∧ m.req = r ∧ m.committed = true := by
  have he := exec_jigStart hq hr
  rw [ha] at he
  have hxl := (stored_markLeaf (jigWalked s d r l) r.asn r.src false).keeps (·.xl) fun _ _ _ _ _ _ => rfl
  refine ⟨_, he, rfl, ?_, ⟨r, r.src, r.src, .host 0, .host 0, 0, true⟩, ?_, rfl, rfl⟩
  · simp [setJig, startShoot, hxl]
  · rw [jigOf_setJig _ h4]

/-- The end of a move's shootdown (R308). -/
theorem jigDone_ends {s : State} {d : Nat} {m : JigMove} {t : Thread} {n : Word} {g : Nat} {f : List (Nat × Word)}
    (h4 : d < 4) (hm : (jigOf s d).move = some m) (ht : threadAt s m.req.core m.req.slot = some t) (ha : t.role = .alone)
    (hp : t.pend = some ⟨.reloc m.req.id, n, g, f⟩) :
    (jigDone s d).xl = s.xl ∧ (jigOf (jigDone s d) d).move = none ∧ (jigDone s d).mem = s.mem ∧
      threadAt (jigDone s d) m.req.core m.req.slot = some (finish (wrReg t g 0)) := by
  have hj : (s.jigs[d]?).getD ⟨[], none⟩ = ⟨(jigOf s d).queue, some m⟩ := by
    rw [← hm]
    rfl
  have h1 : threadAt (setJig s d ⟨(jigOf s d).queue, none⟩) m.req.core m.req.slot = some t := ht
  have he : jigDone s d = setThread (setJig s d ⟨(jigOf s d).queue, none⟩) m.req.core m.req.slot (finish (wrReg t g 0)) := by
    rw [jigDone, hj]
    refine (modPend_alone _ h1 ha).trans ?_
    rw [hp]
    exact congrArg _ (if_pos rfl)
  rw [he]
  refine ⟨rfl, ?_, rfl, threadAt_setThread_same _ _ _ _ (threadAt_lt ht)⟩
  exact congrArg Jig.move (jigOf_setJig (s := s) ⟨(jigOf s d).queue, none⟩ h4)

theorem shootdownEndsMove {s : State} {h : Shoot} {l : List Shoot} {d : Nat} {m : JigMove} {t : Thread} {n : Word} {g : Nat}
    {f : List (Nat × Word)} (hs : s.xl.shoots = h :: l) (hr : shootReady s = true)
    (ho : h.owner = .jigMove d ∨ h.owner = .jigFree d) (h4 : d < 4) (hm : (jigOf s d).move = some m)
    (ht : threadAt s m.req.core m.req.slot = some t) (ha : t.role = .alone)
    (hp : t.pend = some ⟨.reloc m.req.id, n, g, f⟩) :
    Leaves .shootdownComplete s fun s' =>
      s'.xl.shoots = l ∧ (jigOf s' d).move = none ∧ s'.mem = s.mem ∧
      threadAt s' m.req.core m.req.slot = some (finish (wrReg t g 0)) := by
  have he := exec_shootdown hs hr
  obtain ⟨hxl, hmove, hmem, hthread⟩ := jigDone_ends (s := { s with xl := { s.xl with shoots := l } }) h4 hm ht ha hp
  rcases ho with ho | ho <;>
  · simp only [ho] at he
    exact ⟨_, he, congrArg (·.shoots) hxl, hmove, hmem, hthread⟩

/-! ### What a committed move tells the accesses under way (R308) -/

/-- From `s` to `s'` no byte, no move and no shootdown has changed. -/
structure KeepsMoves (s s' : State) : Prop where
  mem : s'.mem = s.mem
  jigs : s'.jigs = s.jigs
  shoots : s'.xl.shoots = s.xl.shoots

theorem KeepsMoves.refl (s : State) : KeepsMoves s s := ⟨rfl, rfl, rfl⟩

theorem KeepsMoves.trans {s s' s'' : State} (h : KeepsMoves s s') (g : KeepsMoves s' s'') : KeepsMoves s s'' :=
  ⟨g.mem.trans h.mem, g.jigs.trans h.jigs, g.shoots.trans h.shoots⟩

theorem KeepsMoves.foldl {α : Type} {f : State → α → State} (h : ∀ s a, KeepsMoves s (f s a)) (l : List α) (s : State) :
    KeepsMoves s (l.foldl f s) := by
  induction l generalizing s with
  | nil => exact .refl s
  | cons a l ih => exact (h s a).trans (ih _)

theorem Counts.keepsMoves {f : State → State} (h : Counts f) (s : State) : KeepsMoves s (f s) := by
  rw [h.eq_recount s]
  exact ⟨rfl, rfl, rfl⟩

theorem OnlyCores.keepsMoves {s s' : State} (h : OnlyCores s s') : KeepsMoves s s' := by
  rw [h]
  exact ⟨rfl, rfl, rfl⟩

theorem keepsMoves_walkNow (s : State) (c asn va : Nat) : KeepsMoves s (walkNow s c asn va) := by
  unfold walkNow
  split
  · exact .refl s
  · refine (Counts.keepsMoves (counts_countWalk (dieOf c) (walk s asn va).2) s).trans ?_
    dsimp only
    split
    · exact .refl _
    · exact ⟨rfl, rfl, rfl⟩

theorem keepsMoves_walkAll (c asn : Nat) (need : Need) (n : Nat) (s : State) (va : Nat) :
    KeepsMoves s (walkAll c asn need n s va) := by
  induction n generalizing s with
  | zero => exact .refl s
  | succ n ih =>
    unfold walkAll
    split
    · split
      · exact (keepsMoves_walkNow ..).trans (ih _)
      · exact keepsMoves_walkNow ..
    · exact .refl s

theorem keepsMoves_modPend (s : State) (c i : Nat) (f : Thread → Thread) : KeepsMoves s (modPend s c i f) := by
  obtain ⟨k, h⟩ := modPend_eq s c i f
  rw [h]
  exact ⟨rfl, rfl, rfl⟩

theorem keepsMoves_rechase (a : Access) (s : State) (p : Part) : KeepsMoves s (rechase a s p).1 := by
  unfold rechase
  split
  · exact .refl s
  · next v _ =>
    refine (keepsMoves_walkAll a.core a.asn (needOf a.kind) 5 s v).trans ?_
    dsimp only
    split
    · exact Counts.keepsMoves (counts_countMarks _ _) _
    · exact .refl _
    · exact Counts.keepsMoves (counts_countMarks _ _) _
    · exact Counts.keepsMoves (counts_countMarks _ _) _

theorem keepsMoves_rechaseAll (m : JigMove) (a : Access) (l : List Part) (s : State) :
    KeepsMoves s (rechaseAll m a l s).1 := by
  induction l generalizing s with
  | nil => exact .refl s
  | cons p l ih =>
    have h1 : KeepsMoves s (if sameTile m.oldAt p.place then rechase a s p else (s, .ok p)).1 := by
      split
      · exact keepsMoves_rechase a s p
      · exact .refl s
    unfold rechaseAll
    dsimp only
    split
    · exact h1
    · have h2 := h1.trans (ih _)
      split <;> next h => rwa [h] at h2

theorem keepsMoves_failMoved (s : State) (a : Access) (l : Late) : KeepsMoves s (failMoved s a l) := by
  refine KeepsMoves.trans (s' := dropFlight s a.id) ⟨rfl, rfl, rfl⟩ ?_
  unfold failMoved
  dsimp only
  split
  · split
    · exact ⟨rfl, rfl, rfl⟩
    · exact .refl _
  · split
    · exact (onlyCores_modThread ..).keepsMoves
    · exact (onlyCores_modThread ..).keepsMoves
  · exact (onlyCores_modThread ..).keepsMoves

theorem keepsMoves_redirect (m : JigMove) (s : State) (a : Access) : KeepsMoves s (redirect m s a) := by
  unfold redirect
  split
  · exact ⟨rfl, rfl, rfl⟩
  · split
    · exact .refl s
    · split
      · exact KeepsMoves.trans (s' := dropFlight s a.id) ⟨rfl, rfl, rfl⟩ (keepsMoves_modPend ..)
      · split
        · exact ⟨rfl, rfl, rfl⟩
        · have h := keepsMoves_rechaseAll m a a.parts s
          split
          · next hr =>
            rw [hr] at h
            exact KeepsMoves.trans h ⟨rfl, rfl, rfl⟩
          · next hr =>
            rw [hr] at h
            exact KeepsMoves.trans h (keepsMoves_failMoved ..)

/-! ### A move commits (R305, R308) -/

theorem counts_countJig (d n : Nat) : Counts fun s => countJig s d n := by
  induction n with
  | zero => exact .id
  | succ n ih => exact Counts.comp ih (counts_countReq d 6)

theorem countJig_cc (s : State) (d n : Nat) : (countJig s d n).cc = s.cc := by
  induction n generalizing s with
  | zero => rfl
  | succ n ih => exact ih (countReq s d 6)

/-- A walk reads memory, the root tables and what dies there are. -/
theorem walk_congr {s s' : State} (hm : s'.mem = s.mem) (hx : s'.xl = s.xl) (hd : s'.cc.dies = s.cc.dies) (asn va : Nat) :
    walk s' asn va = walk s asn va := by
  have hload (d a n : Nat) : loadNat s' (.hbm d a) n = loadNat s (.hbm d a) n := by
    induction n generalizing a with
    | zero => rfl
    | succ n ih =>
      have hb : readByte s' (.hbm d a) = readByte s (.hbm d a) := congrArg (memRead · (flat (.hbm d a))) hm
      simp only [loadNat, Place.shift, ih, hb]
  have hentry (pa : Nat) : readEntry s' pa = readEntry s pa := congrArg (BitVec.ofNat 64) (hload ..)
  have hroot : rootOf s' asn = rootOf s asn := by rw [rootOf, hx, rootOf]
  have hok (e : BitVec 64) (b : Bool) : leafOk s' e b = leafOk s e b := by simp only [leafOk, hd]
  simp only [walk, hentry, hroot, hok]

theorem markLeaf_mem_congr {s s' : State} (hm : s'.mem = s.mem) (hx : s'.xl = s.xl) (hd : s'.cc.dies = s.cc.dies)
    (asn va : Nat) (b : Bool) : (markLeaf s' asn va b).mem = (markLeaf s asn va b).mem := by
  rw [markLeaf, walk_congr hm hx hd, markLeaf]
  split
  · exact (storeNat_overLine_mem hm _ _ _ _).trans (storeNat_overLine_mem rfl _ _ _ _).symm
  · exact hm

theorem stored_copyTile (s : State) (m : JigMove) : Stored s (copyTile s m) :=
  (((stored_takeBack s m.oldAt 4096).trans (stored_takeBack _ m.newAt 4096)).trans (stored_storeNat ..)).trans rfl

/-- The state in which the new copy, the mark and MARKED stand. -/
def marked (s : State) (d : Nat) (m : JigMove) : State :=
  markLeaf (storeNat (countJig (copyTile s m) d 64) m.oldAt 8 (markWord m)) m.req.asn m.oldVa true

theorem marked_mem (s : State) (d : Nat) (m : JigMove) :
    (marked s d m).mem = (markLeaf (storeNat (copyTile s m) m.oldAt 8 (markWord m)) m.req.asn m.oldVa true).mem := by
  set s1 := copyTile s m
  have hs1 := stored_storeNat s1 m.oldAt 8 (markWord m)
  have hs2 := stored_storeNat (countJig s1 d 64) m.oldAt 8 (markWord m)
  have hc := (counts_countJig d 64).eq_recount s1
  refine markLeaf_mem_congr (storeNat_mem_congr ?_ ..) ?_ ?_ ..
  · rw [hc]
    rfl
  · rw [hs2.keeps (·.xl) fun _ _ _ _ _ _ => rfl, hs1.keeps (·.xl) fun _ _ _ _ _ _ => rfl, hc]
    rfl
  · rw [hs2.keeps (·.cc.dies) fun _ _ _ _ _ _ => rfl, hs1.keeps (·.cc.dies) fun _ _ _ _ _ _ => rfl, countJig_cc]

theorem marked_shoots (s : State) (d : Nat) (m : JigMove) : (marked s d m).xl.shoots = s.xl.shoots := by
  have h1 := (stored_copyTile s m).keeps (·.xl) fun _ _ _ _ _ _ => rfl
  have h2 := ((counts_countJig d 64).keepsMoves (copyTile s m)).shoots
  have h3 := ((stored_storeNat (countJig (copyTile s m) d 64) m.oldAt 8 (markWord m)).trans
    (stored_markLeaf _ m.req.asn m.oldVa true)).keeps (·.xl) fun _ _ _ _ _ _ => rfl
  exact ((congrArg (·.shoots) h3).trans h2).trans (congrArg (·.shoots) h1)

theorem jigCommits {s : State} {d : Nat} {m : JigMove} (h4 : d < 4) (hm : (jigOf s d).move = some m)
    (hr : jigCommitReady s d = true) :
    Leaves (.jigCommit d) s fun s' =>
      s'.mem = (markLeaf (storeNat (copyTile s m) m.oldAt 8 (markWord m)) m.req.asn m.oldVa true).mem ∧
      (jigOf s' d).move = some { m with committed := true } ∧ s'.xl.shoots.length = s.xl.shoots.length + 1 := by
  set s3 := setJig (marked s d m) d { jigOf (marked s d m) d with move := some { m with committed := true } } with hs3
  set s4 := s3.flight.foldl (redirect m) s3 with hs4
  have he : exec (.jigCommit d) s = .next (startShoot { s4 with cores := s4.cores.map fun e => (e.1, redirectCore m e.2) }
      (.jigMove d) 0 m.req.asn (m.oldVa / 2 ^ 16)) := by
    show execJigCommit d s = _
    rw [execJigCommit, hm]
    simp only [hr, Bool.not_true, Bool.false_eq_true, if_false] <;> rfl
  have h34 : KeepsMoves s3 s4 := .foldl (keepsMoves_redirect m) s3.flight s3
  refine ⟨_, he, h34.mem.trans (marked_mem s d m), ?_, ?_⟩
  · have hj : jigOf s4 d = jigOf s3 d := by rw [jigOf, h34.jigs, jigOf]
    exact congrArg Jig.move (hj.trans (jigOf_setJig _ h4))
  · have hsh : s4.xl.shoots = s.xl.shoots := h34.shoots.trans (marked_shoots s d m)
    simp [startShoot, hsh]

theorem relocationEvents : Claim.RelocationEvents := by
  refine ⟨fun s d r l hq hn hr => ?_, fun _ _ _ _ _ _ _ _ _ hs hr ho h4 hm ht ha hp =>
    shootdownEndsMove hs hr ho h4 hm ht ha hp, fun _ _ _ h4 hm hr => jigCommits h4 hm hr⟩
  have he := exec_jigStart hq hr
  refine ⟨fun n ha => ?_, fun m ha => ?_, fun h4 ha => jigClears h4 hq hr ha⟩
  · rw [show jigAct _ (jigWalked s d r l) r = .answer n from ha] at he
    exact he
  · rw [show jigAct _ (jigWalked s d r l) r = .move m from ha] at he
    exact he

/-- Settles O56: a walk, a page request and a shootdown change the buffers and the threads that wait; the jig goes through
R314's steps in order; and the bytes of a move are written before the accesses under way are told. -/
theorem translationEvents : Obligations.TranslationEvents := ⟨walksAndPages, jigStatuses, relocationEvents⟩

end Sys2Proof.Machine

/-! PARK END and the claims of refused convoys (O52; R15, R152, R281): PARK's own synchronised read empties a register of slot 0's
thread before the stopped thread ends, and the claims that the end counts are told apart by which registers are full. -/

namespace Sys2Proof.Machine

/-- Slot 0's thread, whose g8 asks for the end of slot 3 with exit code 0; nothing in the statement's hypotheses keeps it from
waiting for the place that core 0 has refused it. -/
def parkingThread : Thread := { wrReg Thread.blank 8 0x203 with lim := 16, pend := some ⟨.migrate 0 true, 0, 0, []⟩ }

/-- A stopped convoy that is told apart from it by nothing that a claim names. -/
def parkedThread : Thread := { parkingThread with pend := none, stopped := true, convoy := true }

/-- Core 0 has refused a place to one convoy of that kind. -/
def parkingCore : Core :=
  { Core.blank true with
    slots := ((Vector.replicate 16 Slot.empty).set 0 ⟨.thread parkingThread, none⟩).set 3 ⟨.thread parkedThread, none⟩
    refused := [claimKey parkedThread] }

def parkingState : State := { State.reset with booted := true, agenda := [], cores := [(0, parkingCore)] }

/-- PARK of the slot that g8 names, g8 read synchronised, with its answer in g9. -/
def parkOperand : ShU := ⟨⟨false, 0⟩, 9, 8, some true⟩

theorem issues_parking : Issues (parkOperand.use true).slot0 parkingState parkingThread := by
  constructor <;> decide +kernel

/-- How many claims core 0 has left after an instruction. -/
def claimsAfter (i : Instr) (s : State) : Option Nat :=
  match exec i s with
  | .next s' => some (getCore s' 0).refused.length
  | _ => none

/-- With g8 empty slot 0's thread has another claim, so that the stopped convoy owns the one that stands, and gives it up. -/
theorem claimsAfter_park : claimsAfter (.park parkOperand) parkingState = some 0 := by decide +kernel

/-- In the state before the issue the claim is slot 0's. -/
theorem claims_endThread :
    (getCore (endThread (withdrawNotice parkingState 0 3) 0 3 parkedThread 0 errEnded) 0).refused.length = 1 := by
  decide +kernel

/-- An instruction that completes over a state leaves its claims. -/
theorem claimsAfter_of_completes {i : Instr} {s s0 : State} {t : Thread} (h : CompletesFrom i s s0 t) :
    claimsAfter i s = some (getCore s0 0).refused.length := by
  obtain ⟨s', he, ho⟩ := h
  have hcore : (getCore s' 0).refused = (getCore s0 0).refused := (congrArg Core.refused (ho.cores 0) :)
  rw [claimsAfter, he, ← hcore]

/-- Refutes O52: where slot 0's thread and a stopped convoy share the key of a refused place, PARK END with a synchronised read
gives up the claim, since slot 0's register is empty by then, where the statement ends the thread in the state before the read,
and keeps the claim. -/
theorem not_parksAndFrames : ¬ Obligations.ParksAndFrames := by
  rintro ⟨hparks, -, -⟩
  obtain ⟨-, -, hthread⟩ := hparks parkingState parkingThread parkOperand issues_parking (by decide +kernel)
  obtain ⟨-, -, -, -, -, -, hend⟩ := hthread parkedThread (by decide +kernel) (by decide +kernel)
  obtain ⟨hended, -⟩ := hend (by decide +kernel) rfl (by decide +kernel) (by decide +kernel)
  have hclaims := claimsAfter_of_completes (hended rfl)
  have hcode : (rdReg parkingThread parkOperand.b.toNat).toNat / 2 ^ 16 % 256 = 0 := by decide +kernel
  have hslot : (rdReg parkingThread parkOperand.b.toNat).toNat % 16 = 3 := by decide +kernel
  rw [hcode, hslot, claimsAfter_park, show parkingState.turn = 0 from rfl, claims_endThread] at hclaims
  exact absurd hclaims (by decide)

end Sys2Proof.Machine

/-! A word of SWEEP at another core (O51; R171, R173, R315): its reply comes through the inbox, and a full inbox holds it back, which
the statement's hypotheses do not exclude. -/

namespace Sys2Proof.Machine

/-- The answer of another core to the atomic compare of a sweep's word. -/
def sweepReplied : Access :=
  { id := 0, core := 0, slot := 1, kind := .swap, parts := [], group := none, passed := [], stage := .replied, seq := 0,
    data2 := 0, named := 0, asn := 0, rewrite := none, result := [], okay := true, remote := true, via := .sweep,
    each := false, left := none, trail := [], vas := [] }

/-- The thread whose SWEEP waits for it, at the last word. -/
def sweepPend : Pend := ⟨.sweep 0 0x40000001 0 0 0, 4, 9, []⟩
def sweepingThread : Thread := { Thread.blank with lim := 16, pend := some sweepPend, status := .waitMem }

/-- Messages for slot 0 fill the inbox. -/
def waitingMsg : Msg :=
  { id := 0, srcCore := 1, srcSlot := 1, dst := 0, chan := 8, words := List.replicate 8 0, held := some 0, about := none
    inHand := false, after := 0 }
def sweepingCore : Core :=
  { Core.blank true with
    slots := (Vector.replicate 16 Slot.empty).set 1 ⟨.thread sweepingThread, none⟩
    inbox := List.replicate 64 waitingMsg }

def sweepingState : State :=
  { State.reset with booted := true, agenda := [], cores := [(0, sweepingCore)], flight := [sweepReplied] }

/-- How many accesses are under way after an instruction. -/
def flightAfter (i : Instr) (s : State) : Option Nat :=
  match exec i s with
  | .next s' => some s'.flight.length
  | _ => none

/-- The reply stays where it is. -/
theorem flightAfter_sweep : flightAfter (.memoryAccessPerform (.sweep 0 1)) sweepingState = some 1 := by decide +kernel

/-- With the reply taken none is under way. -/
theorem flight_sweepPast :
    (sweepPast (dropFlight sweepingState 0) 0 1 sweepPend 0 0x40000001 1 1 0).flight.length = 0 := by decide +kernel

/-- Refutes O51: where 64 messages fill the core's inbox the reply to a REMOTE word of SWEEP cannot be taken, and the event
changes nothing, where the statement has the sweep go past its word. -/
theorem not_relocation : ¬ Obligations.Relocation := by
  rintro ⟨-, ⟨-, -, -, hevent⟩, -⟩
  obtain ⟨hswap, -⟩ := hevent sweepingState 0 1 sweepingThread sweepPend 0 0x40000001 0 0 0 sweepReplied
    (by decide +kernel) (by decide) rfl rfl rfl (by decide +kernel) rfl
  have hnext := hswap rfl
  have hflight := flightAfter_sweep
  rw [flightAfter, hnext] at hflight
  exact absurd (flight_sweepPast.symm.trans (Option.some.inj hflight)) (by decide)

end Sys2Proof.Machine

/-! Requests from outside the package (the first part of O59; R333, R334, R336, R338): a request is cut at the words that it
touches; one that nothing holds is served as it comes, and its pieces together store and load its bytes. -/

namespace Sys2Proof.Machine

/-! ### Bytes of a number, piece by piece -/

theorem writeBytes_add (m : List (Nat × Byte)) (a k n v : Nat) :
    writeBytes m a (k + n) v = writeBytes (writeBytes m a k v) (a + k) n (v / 256 ^ k) := by
  induction k generalizing m a v with
  | zero => simp [writeBytes]
  | succ k ih =>
    rw [Nat.succ_add, writeBytes, ih, writeBytes, Nat.div_div_eq_div_mul, ← Nat.pow_succ', Nat.add_assoc a 1 k,
      Nat.add_comm 1 k]

theorem ofNat_mod_256 (v k : Nat) : BitVec.ofNat 8 (v % (256 * k)) = BitVec.ofNat 8 v := by
  apply BitVec.eq_of_toNat_eq
  rw [BitVec.toNat_ofNat, BitVec.toNat_ofNat, show 2 ^ 8 = 256 from rfl, Nat.mod_mul_right_mod]

theorem writeBytes_mod (m : List (Nat × Byte)) (a n v : Nat) : writeBytes m a n (v % 256 ^ n) = writeBytes m a n v := by
  induction n generalizing m a v with
  | zero => rfl
  | succ n ih =>
    rw [writeBytes, writeBytes, Nat.pow_succ', ofNat_mod_256, Nat.mod_mul_right_div_self, ih]

theorem bytesVal_cons (b : Byte) (bs : List Byte) : bytesVal (b :: bs) = b.toNat + 256 * bytesVal bs := rfl

theorem bytesVal_drop (bs : List Byte) (k : Nat) : bytesVal (bs.drop k) = bytesVal bs / 256 ^ k := by
  induction k generalizing bs with
  | zero => simp
  | succ k ih =>
    cases bs with
    | nil => simp [bytesVal]
    | cons b bs =>
      have hb := b.isLt
      rw [List.drop_succ_cons, ih, bytesVal_cons, Nat.pow_succ', ← Nat.div_div_eq_div_mul]
      congr 1
      omega

theorem bytesVal_take (bs : List Byte) (k : Nat) : bytesVal (bs.take k) = bytesVal bs % 256 ^ k := by
  induction k generalizing bs with
  | zero => simp [bytesVal, Nat.mod_one]
  | succ k ih =>
    cases bs with
    | nil => simp [bytesVal]
    | cons b bs =>
      have hb := b.isLt
      rw [List.take_succ_cons, bytesVal_cons, ih, bytesVal_cons, Nat.pow_succ', Nat.mod_mul]
      congr 1
      · omega
      · congr 2
        omega

/-! ### The pieces of a request -/

/-- Pieces of at most a word that follow one another from one offset to another. -/
def Consecutive : Nat → Nat → List (Nat × Nat) → Prop
  | lo, hi, [] => lo = hi
  | lo, hi, e :: l => e.1 = lo ∧ e.2 ≤ 4 ∧ Consecutive (lo + e.2) hi l

theorem Consecutive.le {lo hi : Nat} {l : List (Nat × Nat)} (h : Consecutive lo hi l) : lo ≤ hi := by
  induction l generalizing lo with
  | nil => exact Nat.le_of_eq h
  | cons e l ih =>
    obtain ⟨_, _, hl⟩ := h
    have := ih hl
    omega

theorem Consecutive.small {lo hi : Nat} {l : List (Nat × Nat)} (h : Consecutive lo hi l) : ∀ e ∈ l, e.2 ≤ 4 := by
  induction l generalizing lo with
  | nil => exact fun e he => by cases he
  | cons e l ih =>
    obtain ⟨_, h4, hl⟩ := h
    exact List.forall_mem_cons.mpr ⟨h4, ih hl⟩

/-- The piece of `n` bytes at an address that lies in the word of this number. -/
def wordPiece (a n j : Nat) : Nat × Nat :=
  let lo := 4 * j - a % 4
  (lo, min (4 * (j + 1) - a % 4) n - lo)

theorem consecutive_range' (a n k : Nat) {j : Nat} (h : j + k = (a % 4 + n + 3) / 4) :
    Consecutive (min (4 * j - a % 4) n) n ((List.range' j k).map (wordPiece a n)) := by
  induction k generalizing j with
  | zero =>
    show _ = _
    omega
  | succ k ih =>
    refine ⟨?_, ?_, ?_⟩
    · show 4 * j - a % 4 = _
      omega
    · show min (4 * (j + 1) - a % 4) n - (4 * j - a % 4) ≤ 4
      omega
    · have := ih (j := j + 1) (by omega)
      have e : min (4 * j - a % 4) n + (min (4 * (j + 1) - a % 4) n - (4 * j - a % 4)) = min (4 * (j + 1) - a % 4) n := by
        omega
      exact e ▸ this

theorem consecutive_pieces (a n : Nat) : Consecutive 0 n (pieces a n) := by
  have h := consecutive_range' a n ((a % 4 + n + 3) / 4) (j := 0) (by omega)
  rw [← List.range_eq_range', Nat.mul_zero, Nat.zero_sub, Nat.zero_min] at h
  exact h

/-- A whole word is one piece. -/
theorem pieces_word {a : Nat} (h : a % 4 = 0) : pieces a 4 = [(0, 4)] := by
  rw [pieces, h]
  rfl

/-! ### The parts of a request -/

/-- The part of a request for bytes at a place. -/
def outsidePart (p : Place) (bs : List Byte) (e : Nat × Nat) : Part :=
  ⟨0, p.shift e.1, e.2, BitVec.ofNat 32 (bytesVal ((bs.drop e.1).take e.2)), false, none, 0, 0⟩

theorem followPending_still {s : State} (h : ∀ j ∈ s.jigs.toList, j.move = none) (p : Place) : followPending s p = p := by
  unfold followPending
  generalize s.jigs.toList = l at h
  induction l with
  | nil => rfl
  | cons j l ih =>
    rw [List.foldl_cons, h j List.mem_cons_self]
    exact ih fun k hk => h k (List.mem_cons_of_mem j hk)

theorem outsideParts_still {s : State} (h : ∀ j ∈ s.jigs.toList, j.move = none) (p : Place) (n : Nat) (bs : List Byte) :
    outsideParts s p n bs = (pieces (flat p) n).map (outsidePart p bs) := by
  unfold outsideParts
  exact List.map_congr_left fun e _ => by rw [followPending_still h]; rfl

/-- A state with other bytes in memory. -/
def State.withMem (s : State) (m : List (Nat × Byte)) : State := { s with mem := m }

theorem storePart_hbm {u : State} (hb : u.bads = []) (d a : Nat) (bs : List Byte) {e : Nat × Nat} (h4 : e.2 ≤ 4) :
    storePart u (outsidePart (.hbm d a) bs e) =
      u.withMem (writeBytes u.mem (flat (.hbm d a) + e.1) e.2 (bytesVal bs / 256 ^ e.1)) := by
  have hv : (BitVec.ofNat 32 (bytesVal ((bs.drop e.1).take e.2))).toNat % 2 ^ (8 * e.2) =
      bytesVal bs / 256 ^ e.1 % 256 ^ e.2 := by
    have hp : 256 ^ e.2 ∣ 2 ^ 32 := by
      rw [show (256 : Nat) = 2 ^ 8 from rfl, ← Nat.pow_mul]
      exact Nat.pow_dvd_pow 2 (by omega)
    rw [BitVec.toNat_ofNat, bytesVal_take, bytesVal_drop, Nat.pow_mul, show 2 ^ 8 = 256 from rfl,
      Nat.mod_mod_of_dvd _ hp, Nat.mod_mod]
  show storeNat u (.hbm d (a + e.1)) e.2 _ = _
  simp only [storeNat, wakeLine, outsidePart, hv, writeBytes_mod, hb, List.isEmpty_nil, if_true, flat, Nat.add_assoc,
    State.withMem]

theorem storeParts_hbm (d a : Nat) (bs : List Byte) {lo hi : Nat} {l : List (Nat × Nat)} (h : Consecutive lo hi l)
    {u : State} (hb : u.bads = []) :
    (l.map (outsidePart (.hbm d a) bs)).foldl storePart u =
      u.withMem (writeBytes u.mem (flat (.hbm d a) + lo) (hi - lo) (bytesVal bs / 256 ^ lo)) := by
  induction l generalizing lo u with
  | nil =>
    obtain rfl : lo = hi := h
    simp [writeBytes, State.withMem]
  | cons e l ih =>
    obtain ⟨rfl, h4, hl⟩ := h
    have hle := hl.le
    rw [List.map_cons, List.foldl_cons, storePart_hbm hb d a bs h4,
      ih hl (u := u.withMem (writeBytes u.mem (flat (.hbm d a) + e.1) e.2 (bytesVal bs / 256 ^ e.1))) hb]
    refine congrArg u.withMem ?_
    show writeBytes (writeBytes u.mem _ _ _) _ _ _ = _
    rw [show hi - e.1 = e.2 + (hi - (e.1 + e.2)) by omega, writeBytes_add, Nat.div_div_eq_div_mul, ← Nat.pow_add,
      Nat.add_assoc]

/-- The bytes of a little-endian number are those at its place. -/
theorem byte_loadNat (u : State) (p : Place) {n j : Nat} (h : j < n) :
    BitVec.ofNat 8 (loadNat u p n / 256 ^ j) = readByte u (p.shift j) := by
  induction n generalizing p j with
  | zero => omega
  | succ n ih =>
    have hb := (readByte u p).isLt
    cases j with
    | zero =>
      apply BitVec.eq_of_toNat_eq
      rw [Place.shift_zero, BitVec.toNat_ofNat, loadNat]
      omega
    | succ j =>
      rw [loadNat, Nat.pow_succ', ← Nat.div_div_eq_div_mul,
        show ((readByte u p).toNat + 256 * loadNat u (p.shift 1) n) / 256 = loadNat u (p.shift 1) n by omega,
        ih _ (by omega), Place.shift_shift, Nat.add_comm 1 j]

/-- A part's value gives back the bytes at its place. -/
theorem partBytes_load (u : State) {q : Part} (h : q.size ≤ 4) :
    partBytes q (BitVec.ofNat 32 (loadNat u q.place q.size)) =
      (List.range q.size).map fun j => readByte u (q.place.shift j) := by
  refine List.map_congr_left fun j hj => ?_
  have hj : j < q.size := List.mem_range.mp hj
  rw [← byte_loadNat u q.place hj]
  apply BitVec.eq_of_toNat_eq
  have h2 : (2 : Nat) ^ 32 = 256 ^ j * (256 * 256 ^ (3 - j)) := by
    rw [← Nat.pow_succ', ← Nat.pow_add, show j + (3 - j + 1) = 4 by omega]
    rfl
  simp only [BitVec.toNat_ofNat]
  rw [h2, Nat.mod_mul_right_div_self, show (2 : Nat) ^ 8 = 256 from rfl, Nat.mod_mul_right_mod]

theorem pieces_bytes {α : Type} (g : Nat → α) {lo hi : Nat} {l : List (Nat × Nat)} (h : Consecutive lo hi l) :
    (l.flatMap fun e => (List.range e.2).map fun j => g (e.1 + j)) = (List.range' lo (hi - lo)).map g := by
  induction l generalizing lo with
  | nil =>
    obtain rfl : lo = hi := h
    simp
  | cons e l ih =>
    obtain ⟨rfl, _, hl⟩ := h
    have hle := hl.le
    rw [List.flatMap_cons, ih hl, show hi - e.1 = e.2 + (hi - (e.1 + e.2)) by omega,
      ← List.range'_append_1, List.map_append, List.range'_eq_map_range (s := e.1) (n := e.2),
      List.map_map]
    rfl

/-- The answer to a load: its bytes, in order. -/
theorem loadParts_bytes (u : State) {p : Place} {n : Nat} {parts : List Part}
    (hp : parts = (pieces (flat p) n).map (outsidePart p [])) :
    ((parts.zip (parts.map (loadPart u))).flatMap fun e => partBytes e.1 e.2) =
      (List.range n).map fun i => readByte u (p.shift i) := by
  subst hp
  have hc := consecutive_pieces (flat p) n
  have h4 : ∀ e ∈ pieces (flat p) n, e.2 ≤ 4 := hc.small
  rw [← List.map_prod_left_eq_zip, List.flatMap_map, List.flatMap_map, List.range_eq_range']
  refine Eq.trans (List.flatMap_congr fun e he => ?_) (pieces_bytes (fun i => readByte u (p.shift i)) hc)
  exact (partBytes_load u (q := outsidePart p [] e) (h4 e he)).trans
    (List.map_congr_left fun j _ => by rw [← Place.shift_shift]; rfl)

end Sys2Proof.Machine

/-! Requests from outside the package are served as they come where nothing else is under way (the rest of the first part of
O59; R333, R334, R336, R338). -/

namespace Sys2Proof.Machine

section
variable {s : State} (core slot : Nat) (kind : AccKind) (parts : List Part) (data2 : Word)

theorem bankReady_alone (hc : Clear s) :
    bankReady (addFlight s (foreignAccess s core slot kind parts data2)) (foreignAccess s core slot kind parts data2) =
      true := by
  set x := foreignAccess s core slot kind parts data2
  have hm (p : Place) : tileMoving (addFlight s x) p = false := by
    refine List.any_eq_false.mpr fun j hj => ?_
    rw [hc.jigs j hj]
    exact Bool.false_ne_true
  have hh : heldUpByMove (addFlight s x) x = false := by simp [heldUpByMove, hm]
  have hl : (addFlight s x).flight = [x] := by simp [addFlight, hc.flight]
  have ho : orderFree (addFlight s x) x = true := by simp [orderFree, mustPrecede, hl]
  have hp : pathFree (addFlight s x) x = true := by simp [pathFree, hl]
  rw [bankReady, hh, ho, hp]
  rfl

theorem mustQueue_alone (hc : Clear s) :
    mustQueue (addFlight s (foreignAccess s core slot kind parts data2)) (foreignAccess s core slot kind parts data2) =
      false := by
  simp [mustQueue, heldByOther, queuedBefore, addFlight, hc.flight, hc.resvs, foreignAccess]

theorem takeForeign_served (hc : Clear s) {s' : State} {vals : List Word} {okay : Bool} (hf : Config.cores ≤ core)
    (hp : peerAccess (foreignAccess s core slot kind parts data2) = false) (hk : kind ≠ .stf)
    (hs : serve (countArrival (addFlight s (foreignAccess s core slot kind parts data2))
        (foreignAccess s core slot kind parts data2)) (foreignAccess s core slot kind parts data2) = .done s' vals okay) :
    takeForeign s (foreignAccess s core slot kind parts data2) =
      completeForeign s' (foreignAccess s core slot kind parts data2) vals := by
  have hforeign : (foreignAccess s core slot kind parts data2).foreign = true := decide_eq_true hf
  rw [takeForeign, bankReady_alone core slot kind parts data2 hc, hp, Bool.not_false, Bool.and_true, if_pos rfl,
    attempt_done hk hs, completeAccess, hforeign, if_pos rfl]

theorem answers_countArrival {a : Access} (h : a.foreign = true) (u : State) :
    (countArrival u a).cc.answers = u.cc.answers := by
  have hline (u : State) (p : Part) : (backInvalidate u p.place).cc.answers = u.cc.answers := by
    rw [takesLines_backInvalidate]
  have hin (u : State) (p : Part) : (countForeign u p.place).cc.answers = u.cc.answers := by
    unfold countForeign
    split <;> rfl
  unfold countArrival
  rw [h]
  split
  · rfl
  · split
    · exact foldl_keeps (fun u : State => u.cc.answers) hline _ u
    · exact (foldl_keeps (fun u : State => u.cc.answers) hin _ _).trans
        (foldl_keeps (fun u : State => u.cc.answers) hline _ u)

end

/-- What a request from outside finds at its bank: memory, and the answers given before, as they were, and nothing in flight but
itself. -/
def arrived (s : State) (a : Access) : State := countArrival (addFlight s a) a

section
variable {s : State} {a : Access}

theorem arrived_mem : (arrived s a).mem = s.mem := mem_countArrival ..

theorem arrived_cores : (arrived s a).cores = s.cores := by
  rw [arrived, (counts_countArrival a).eq_recount]
  rfl

theorem arrived_bads : (arrived s a).bads = s.bads := bads_countArrival ..

theorem arrived_flight : (arrived s a).flight = s.flight ++ [a] := by
  rw [arrived, (counts_countArrival a).eq_recount]
  rfl

end

/-! ### Stores, loads and atomics -/

theorem foreign_hbm (s : State) (core slot : Nat) (kind : AccKind) (d a : Nat) (bs : List Byte) (l : List (Nat × Nat))
    (data2 : Word) :
    peerAccess (foreignAccess s core slot kind (l.map (outsidePart (.hbm d a) bs)) data2) = false := by
  simp [peerAccess, foreignAccess, outsidePart, Place.shift]

/-- The request to store bytes in a die's memory. -/
def storeRequest (s : State) (core slot d a : Nat) (bs : List Byte) : Access :=
  foreignAccess s core slot .store (outsideParts s (.hbm d a) bs.length bs) 0

theorem takeForeign_store {s : State} (hc : Clear s) {core slot : Nat} (d a : Nat) (bs : List Byte)
    (hf : Config.cores ≤ core) :
    takeForeign s (storeRequest s core slot d a bs) =
      completeForeign ((arrived s (storeRequest s core slot d a bs)).withMem
        (storeNat s (.hbm d a) bs.length (bytesVal bs)).mem) (storeRequest s core slot d a bs) [] := by
  unfold storeRequest
  rw [outsideParts_still hc.jigs]
  set x := foreignAccess s core slot .store ((pieces (flat (.hbm d a)) bs.length).map (outsidePart (.hbm d a) bs)) 0 with hx
  have hb : (arrived s x).bads = [] := arrived_bads.trans hc.bads
  have hs := (serve_free (s := arrived s x) (a := x)
    ((mustQueue_countArrival _ _).trans (mustQueue_alone core slot _ _ _ hc)) hb).2.1 rfl
  rw [hx] at hs
  rw [takeForeign_served core slot .store _ _ hc hf (foreign_hbm ..) (by decide) hs]
  refine congrArg (completeForeign · _ []) ((storeParts_hbm d a bs (consecutive_pieces _ _) hb).trans ?_)
  rw [arrived_mem, Nat.add_zero, Nat.sub_zero, Nat.pow_zero, Nat.div_one]
  rfl

theorem takeForeign_load {s : State} (hc : Clear s) {core slot : Nat} (d a n : Nat) (hf : Config.cores ≤ core) :
    let x := foreignAccess s core slot .load (outsideParts s (.hbm d a) n []) 0
    takeForeign s x = completeForeign (arrived s x) x (x.parts.map (loadPart (arrived s x))) := by
  rw [outsideParts_still hc.jigs]
  intro x
  have hs := (serve_free (s := arrived s x) (a := x)
    ((mustQueue_countArrival _ _).trans (mustQueue_alone core slot _ _ _ hc)) (arrived_bads.trans hc.bads)).1 rfl
  exact takeForeign_served core slot .load _ _ hc hf (foreign_hbm ..) (by decide) hs

theorem bytesVal_word (v : Word) : bytesVal (wordsBytes [v]) = v.toNat := by
  have hv := v.isLt
  simp [bytesVal, wordsBytes, List.range_succ]
  omega

/-- The part of a request for an atomic. -/
def wordPart (d a : Nat) (v : Word) : Part := ⟨0, .hbm d a, 4, v, false, none, 0, 0⟩

theorem outsideParts_word {s : State} (hc : Clear s) (d : Nat) {a : Nat} (h : a % 4 = 0) (v : Word) :
    outsideParts s (.hbm d a) 4 (wordsBytes [v]) = [wordPart d a v] := by
  have hf : flat (.hbm d a) % 4 = 0 := by
    show (5 * 2 ^ 56 + d * 2 ^ 38 + a) % 4 = 0
    omega
  have ht : (wordsBytes [v]).take 4 = wordsBytes [v] := rfl
  rw [outsideParts_still hc.jigs, pieces_word hf]
  simp only [List.map_cons, List.map_nil, outsidePart, wordPart, List.drop_zero, ht, bytesVal_word, BitVec.ofNat_toNat,
    BitVec.setWidth_eq]
  rfl

theorem takeForeign_amo {s : State} (hc : Clear s) {core slot : Nat} (d k : Nat) {a : Nat} (ha : a % 4 = 0) (v : Word)
    (hf : Config.cores ≤ core) :
    let x := foreignAccess s core slot (.amo k) (outsideParts s (.hbm d a) 4 (wordsBytes [v])) 0
    let u := arrived s x
    takeForeign s x =
      completeForeign (storeWord u (.hbm d a) (amoNew k (loadWord u (.hbm d a)) v)) x [loadWord u (.hbm d a)] := by
  rw [outsideParts_word hc d ha]
  intro x u
  have hq : mustQueue u x = false := (mustQueue_countArrival _ _).trans (mustQueue_alone core slot _ _ _ hc)
  have hbad : (consumes x && x.parts.any (badPart u x)) = false := by
    simp [badPart_clear u x _ (arrived_bads.trans hc.bads)]
  have hs : serve u x =
      .done (storeWord u (.hbm d a) (amoNew k (loadWord u (.hbm d a)) v)) [loadWord u (.hbm d a)] true := by
    simp only [serve, hq, hbad, Bool.false_eq_true, if_false]
    rfl
  exact takeForeign_served core slot (.amo k) [wordPart d a v] 0 hc hf rfl (by simp) hs

/-! ### The answers -/

theorem foreignCore_bounds {src core : Nat} (hs : src < 1024) (hc : core < 65536) :
    Config.cores ≤ foreignCore src core ∧ foreignCore src core ≠ hostCore := by
  have h : Config.cores = 65536 := rfl
  refine ⟨?_, fun e => ?_⟩
  · unfold foreignCore
    exact Nat.le_add_right_of_le (Nat.le_mul_of_pos_right _ (Nat.succ_pos src))
  · unfold foreignCore hostCore at e
    rw [h] at e
    omega

/-- What a peer's request leaves once it has performed. -/
theorem completeForeign_peer {s : State} {x : Access} (h : x.core ≠ hostCore) (vals : List Word) :
    completeForeign s x vals = answerWith (dropFlight s x.id) (some ((x.parts.zip vals).flatMap fun e => partBytes e.1 e.2)) :=
  if_neg h

theorem arrived_answers {s : State} {x : Access} (h : x.foreign = true) : (arrived s x).cc.answers = s.cc.answers :=
  answers_countArrival h _

theorem readByte_arrived (s : State) (x : Access) (d a : Nat) : readByte (arrived s x) (.hbm d a) = readByte s (.hbm d a) :=
  congrArg (memRead · (flat (.hbm d a))) arrived_mem

theorem loadWord_arrived (s : State) (x : Access) (d a : Nat) :
    loadWord (arrived s x) (.hbm d a) = loadWord s (.hbm d a) := by
  simp only [loadWord, loadNat, Place.shift, readByte_arrived]

theorem hbmOk_iff {s : State} {d a n : Nat} (hd : s.cc.dies.getLsbD d = true) (h : a + n ≤ 192000000000) :
    hbmOk s d a n = true := by
  rw [hbmOk, hd, Config.hbmBytes, Bool.true_and]
  exact decide_eq_true h

theorem hostWrite_leaves {s : State} {d a : Nat} {bs : List Byte} (hw : Works s) (hd : s.cc.dies.getLsbD d = true)
    (ha : a + bs.length ≤ 192000000000) (hc : Clear s) :
    Leaves (.hostWrite (.hdm d) a bs) s fun s' =>
      s'.mem = (storeNat s (.hbm d a) bs.length (bytesVal bs)).mem ∧ s'.flight = [] ∧ s'.cores = s.cores := by
  have he : exec (.hostWrite (.hdm d) a bs) s = .next (takeForeign s (storeRequest s hostCore 0 d a bs)) := by
    show execHostWrite (.hdm d) a bs s = _
    simp only [execHostWrite, whileWorking_works hw, hbmOk_iff hd ha, if_true, storeRequest]
  rw [takeForeign_store hc d a bs (by decide), completeForeign, if_pos (by rfl)] at he
  refine ⟨_, he, rfl, ?_, arrived_cores⟩
  show List.filter _ (arrived s _).flight = []
  rw [arrived_flight, hc.flight]
  simp

theorem hostRead_leaves {s : State} {d a n : Nat} (hw : Works s) (hd : s.cc.dies.getLsbD d = true)
    (ha : a + n ≤ 192000000000) :
    Leaves (.hostRead (.hdm d) a n) s fun s' =>
      s'.cc.answers = s.cc.answers ++ [some ((List.range n).map fun i => readByte s (followPending s (.hbm d (a + i))))] ∧
        s'.mem = s.mem ∧ s'.cores = s.cores := by
  have he : exec (.hostRead (.hdm d) a n) s = .next (hostHolds (answer s (bytesAt s (.hbm d a) n)) d a n) := by
    show execHostRead (.hdm d) a n s = _
    simp only [execHostRead, whileWorking_works hw, hbmOk_iff hd ha, if_true]
  refine ⟨_, he, ?_⟩
  unfold hostHolds
  split <;> exact ⟨rfl, rfl, rfl⟩

/-! ### Peers -/

/-- A request for this package is served at its bank. -/
theorem exec_peerRequest {s : State} (hw : Works s) {r : PeerReq} {d a : Nat} (hd : s.cc.dies.getLsbD d = true)
    (hp : r.pkg = s.cc.pkg) (hdie : r.die = d) (haddr : r.addr = a) (hr : r.op ≠ .release)
    (ha : a + (peerOp r.op).2.1 ≤ 192000000000) :
    exec (.peerRequest r) s = .next (takeForeign s (foreignAccess s (foreignCore r.src r.core) r.slot (peerOp r.op).1
      (outsideParts s (.hbm d a) (peerOp r.op).2.1 (peerOp r.op).2.2.1) (peerOp r.op).2.2.2)) := by
  show execPeerRequest r s = _
  have hok := hbmOk_iff hd ha
  rw [execPeerRequest, whileWorking_works hw, takePeer]
  subst hdie haddr
  split
  · next h => exact absurd h hr
  · simp only [hok, peerAccessOf, hp, Bool.not_true, Bool.and_false, Bool.false_eq_true, if_false, if_true]

section
variable {s : State} (hw : Works s) (hc : Clear s) {r : PeerReq} (hsrc : r.src < 1024) (hcore : r.core < 65536)
include hw hc hsrc hcore

theorem peerStore_leaves {d a : Nat} {bs : List Byte} (hd : s.cc.dies.getLsbD d = true) (hp : r.pkg = s.cc.pkg)
    (hdie : r.die = d) (haddr : r.addr = a) (ho : r.op = .store bs) (ha : a + bs.length ≤ 192000000000) :
    Leaves (.peerRequest r) s fun s' =>
      s'.mem = (storeNat s (.hbm d a) bs.length (bytesVal bs)).mem ∧ s'.flight = [] ∧
        s'.cc.answers = s.cc.answers ++ [some []] := by
  obtain ⟨hf, hne⟩ := foreignCore_bounds hsrc hcore
  have he := exec_peerRequest hw hd hp hdie haddr (by rw [ho]; exact PeerOp.noConfusion) (by rw [ho]; exact ha)
  simp only [ho, peerOp] at he
  rw [← storeRequest, takeForeign_store hc d a bs hf, completeForeign_peer hne] at he
  refine ⟨_, he, rfl, ?_, ?_⟩
  · show List.filter _ (arrived s _).flight = []
    rw [arrived_flight, hc.flight]
    simp
  · rw [List.zip_nil_right]
    exact congrArg (· ++ [some []]) (arrived_answers (decide_eq_true hf))

theorem peerLoad_leaves {d a n : Nat} (hd : s.cc.dies.getLsbD d = true) (hp : r.pkg = s.cc.pkg)
    (hdie : r.die = d) (haddr : r.addr = a) (ho : r.op = .load n) (ha : a + n ≤ 192000000000) :
    Leaves (.peerRequest r) s fun s' =>
      s'.cc.answers = s.cc.answers ++ [some ((List.range n).map fun i => readByte s (followPending s (.hbm d (a + i))))] ∧
        s'.mem = s.mem := by
  obtain ⟨hf, hne⟩ := foreignCore_bounds hsrc hcore
  have he := exec_peerRequest hw hd hp hdie haddr (by rw [ho]; exact PeerOp.noConfusion) (by rw [ho]; exact ha)
  simp only [ho, peerOp] at he
  rw [takeForeign_load hc d a n hf, completeForeign_peer hne] at he
  refine ⟨_, he, congrArg₂ (· ++ [some ·]) (arrived_answers (decide_eq_true hf)) ?_, arrived_mem⟩
  refine (loadParts_bytes _ (p := .hbm d a) (n := n) (outsideParts_still hc.jigs _ _ _)).trans ?_
  exact List.map_congr_left fun i _ => by rw [followPending_still hc.jigs, Place.shift, readByte_arrived]

theorem peerAmo_leaves {d a k : Nat} {v : Word} (hd : s.cc.dies.getLsbD d = true) (hp : r.pkg = s.cc.pkg)
    (hdie : r.die = d) (haddr : r.addr = a) (ho : r.op = .amo k v) (ha : a + 4 ≤ 192000000000) (h4 : a % 4 = 0) :
    Leaves (.peerRequest r) s fun s' =>
      s'.mem = (storeWord s (.hbm d a) (amoNew k (loadWord s (.hbm d a)) v)).mem ∧
        s'.cc.answers = s.cc.answers ++ [some ((List.range 4).map fun i => readByte s (.hbm d (a + i)))] := by
  obtain ⟨hf, hne⟩ := foreignCore_bounds hsrc hcore
  have he := exec_peerRequest hw hd hp hdie haddr (by rw [ho]; exact PeerOp.noConfusion) (by rw [ho]; exact ha)
  simp only [ho, peerOp] at he
  rw [takeForeign_amo hc d k h4 v hf, completeForeign_peer hne, outsideParts_word hc d h4, loadWord_arrived] at he
  refine ⟨_, he, storeNat_mem_congr arrived_mem _ _ _, ?_⟩
  have hb : partBytes (wordPart d a v) (loadWord s (.hbm d a)) =
      (List.range 4).map fun i => readByte s (.hbm d (a + i)) := partBytes_load s (q := wordPart d a v) (Nat.le_refl 4)
  rw [← hb]
  refine congrArg₂ (· ++ [some ·]) (arrived_answers (decide_eq_true hf)) ?_
  exact List.append_nil _

end

/-! ### Requests for another package (R333) -/

/-- Nothing that a bank holds has changed. -/
def SameStorage (s s' : State) : Prop := s'.mem = s.mem ∧ s'.counters = s.counters

/-- A request without a part does nothing at a bank. -/
theorem takeForeign_empty {s : State} (hc : Clear s) {core slot : Nat} {kind : AccKind} {data2 : Word}
    (hf : Config.cores ≤ core) (hk : kind ≠ .stf) :
    SameStorage s (takeForeign s (foreignAccess s core slot kind [] data2)) := by
  set x := foreignAccess s core slot kind [] data2
  have ha : countArrival (addFlight s x) x = addFlight s x := by
    have hp : x.parts = [] := rfl
    simp only [countArrival, hp, List.foldl_nil, List.take_nil, ite_self]
  have hs : serve (countArrival (addFlight s x) x) x = .done (addFlight s x) [] true := by
    rw [ha, serve, mustQueue_alone core slot kind [] data2 hc, if_neg Bool.false_ne_true]
    have hp : x.parts = [] := rfl
    simp only [hp, List.any_nil, Bool.and_false, Bool.false_eq_true, if_false]
    split <;> rfl
  rw [takeForeign_served core slot kind [] data2 hc hf rfl hk hs, completeForeign]
  split <;> exact ⟨rfl, rfl⟩

theorem takeForeign_peer {s : State} (hc : Clear s) {core slot : Nat} {kind : AccKind} {data2 : Word} {l : List (Nat × Nat)}
    {k d a : Nat} {bs : List Byte} (hf : Config.cores ≤ core) (hk : kind ≠ .stf) :
    SameStorage s (takeForeign s (foreignAccess s core slot kind (l.map (outsidePart (.peer k d a) bs)) data2)) := by
  cases l with
  | nil => exact takeForeign_empty hc hf hk
  | cons e l =>
    have hp : peerAccess (foreignAccess s core slot kind ((e :: l).map (outsidePart (.peer k d a) bs)) data2) = true := by
      simp [peerAccess, foreignAccess, outsidePart, Place.shift]
    rw [takeForeign, hp, Bool.not_true, Bool.and_false, if_neg Bool.false_ne_true]
    exact ⟨rfl, rfl⟩

theorem takePeer_elsewhere {s : State} (hc : Clear s) {r : PeerReq} (hp : r.pkg ≠ s.cc.pkg) :
    SameStorage s (takePeer r s) := by
  have hf : Config.cores ≤ foreignCore r.src r.core :=
    Nat.le_add_right_of_le (Nat.le_mul_of_pos_right _ (Nat.succ_pos r.src))
  unfold takePeer
  split
  · exact ⟨rfl, rfl⟩
  · have hk : (peerOp r.op).1 ≠ .stf := by cases r.op <;> exact AccKind.noConfusion
    simp only [hp, decide_false, Bool.false_and, Bool.false_eq_true, if_false, peerAccessOf, outsideParts_still hc.jigs]
    exact takeForeign_peer hc hf hk

theorem outsideAccesses : Claim.OutsideAccesses := by
  intro s d a n bs hw hd
  refine ⟨fun ha hc => ⟨hostWrite_leaves hw hd ha hc, fun r hs hk hp hr hx ho => peerStore_leaves hw hc hs hk hd hp hr hx ho ha⟩,
    fun ha => ⟨hostRead_leaves hw hd ha, fun hc r hs hk hp hr hx ho => peerLoad_leaves hw hc hs hk hd hp hr hx ho ha⟩,
    fun ha h4 hc r k v hs hk hp hr hx ho => peerAmo_leaves hw hc hs hk hd hp hr hx ho ha h4, ?_, fun hc r _ _ hp => ?_⟩
  · show execHostSnoop a s = _
    rw [execHostSnoop, whileWorking_works hw]
    rfl
  · obtain ⟨hm, hcount⟩ := takePeer_elsewhere hc hp
    have he : exec (.peerRequest r) s = .next (takePeer r s) := by
      show execPeerRequest r s = _
      rw [execPeerRequest, whileWorking_works hw]
    exact ⟨_, he, fun q _ _ => readByte_congr hm hcount q⟩

end Sys2Proof.Machine

/-! The host's registers (the second part of O59; R339, R350, R352, R354, R355, R363, R367). -/

namespace Sys2Proof.Machine

theorem getQueue_setQueue_ne (s : State) {n k : Nat} (x : Queue) (h : k ≠ n) :
    getQueue (setQueue s n x) k = getQueue s k := by
  simp [getQueue, setQueue, Ne.symm h]

theorem getQueue_modQueue (s : State) {n : Nat} (f : Queue → Queue) (h : n < 64) :
    getQueue (modQueue s n f) n = f (getQueue s n) := getQueue_setQueue s _ h

theorem unlessRecovery_off {s : State} (h : s.cc.recovery = false) (f : State → State) : unlessRecovery f s = f s := by
  rw [unlessRecovery, h, if_neg Bool.false_ne_true]

theorem TakesNotes.getQueue {s s' : State} (h : TakesNotes s s') (k : Nat) :
    Machine.getQueue s' k = Machine.getQueue s k :=
  h.keeps (Machine.getQueue · k) fun _ _ => rfl

/-! ### Doorbells (R354, R367) -/

theorem doorbell_leaves {s : State} {n : Nat} {v : BitVec 16} (hr : s.cc.recovery = false) (hn : n < 64)
    (hl : s.cc.toReplay = []) :
    Leaves (.doorbell n v) s fun s' =>
      (getQueue s' n).tail = v ∧ (∀ k, k ≠ n → getQueue s' k = getQueue s k) ∧
      LoggedIn s s s' (.doorbell n v.toNat) := by
  have he : exec (.doorbell n v) s =
      .next (logInput (modQueue s n fun q => { q with tail := v }) (.doorbell n v.toNat)) := by
    show execDoorbell n v s = _
    simp only [execDoorbell, unlessRecovery_off hr, hn, if_true, doorbell, inReplay, hl, List.isEmpty_nil, Bool.not_true,
      Bool.false_eq_true, if_false]
  have hq := (takesNotes_logInput (modQueue s n fun q => { q with tail := v }) (.doorbell n v.toNat)).getQueue
  obtain ⟨e, hw, hrep, hm⟩ := loggedIn_logInput (s := modQueue s n fun q => { q with tail := v }) hl (.doorbell n v.toNat)
  refine ⟨_, he, ?_, fun k hk => (hq k).trans (getQueue_setQueue_ne s _ hk), e, hw, hrep, hm⟩
  rw [hq, getQueue_modQueue s _ hn]

theorem doorbell_inReplay {s : State} {n : Nat} {v : BitVec 16} (hr : s.cc.recovery = false) (hl : s.cc.toReplay ≠ []) :
    exec (.doorbell n v) s = .next s := by
  have hi : inReplay s = true := by simpa [inReplay] using hl
  show execDoorbell n v s = _
  simp only [execDoorbell, unlessRecovery_off hr, doorbell, hi, if_true, ite_self]

theorem logEntry_replay (s : State) (e : Stamped) : (logEntry s e).cc.replay = s.cc.replay ++ [e] := by
  simp only [logEntry]
  rw [takesLines_takeBack]
  rfl

theorem logEntry_toReplay (s : State) (e : Stamped) : (logEntry s e).cc.toReplay = s.cc.toReplay := by
  simp only [logEntry]
  rw [takesLines_takeBack]
  rfl

theorem logEntry_ctl (s : State) (e : Stamped) : (logEntry s e).cc.ctl = s.cc.ctl := by
  simp only [logEntry]
  rw [takesLines_takeBack]
  rfl

theorem doorbell_replayed {s : State} {n : Nat} {v : BitVec 16} {e : Stamped} {l : List Stamped} {x : BitVec 64}
    (hr : s.cc.recovery = false) (hn : n < 64) (hf : s.cc.fatal = false) (hl : s.cc.toReplay = e :: l)
    (hw : e.what = .doorbell n v.toNat) :
    Leaves (.registerWrite ⟨.replay, 4⟩ 4 x) s fun s' =>
      (getQueue s' n).tail = v ∧ s'.cc.toReplay = l ∧ s'.cc.replay = s.cc.replay ++ [e] ∧
      (e.core < 16 → (ctlCore s' e.core).retired = e.count) := by
  have he : exec (.registerWrite ⟨.replay, 4⟩ 4 x) s =
      .next (modQueue (replayTake s e) n fun q => { q with tail := BitVec.ofNat 16 v.toNat }) := by
    have hready : replayReady s = true := by simp only [replayReady, hl, List.head?_cons, hw]
    show execRegisterWrite ⟨.replay, 4⟩ 4 x s = _
    simp only [execRegisterWrite, decide_true, Bool.and_self, if_true, whileWorking_works ⟨hf, hr⟩, replayStep, hready, hl,
      List.head?_cons, hw]
  refine ⟨_, he, ?_, ?_, logEntry_replay _ e, fun h16 => ?_⟩
  · rw [getQueue_modQueue _ _ hn, BitVec.ofNat_toNat, BitVec.setWidth_eq]
  · refine (logEntry_toReplay _ e).trans ?_
    show s.cc.toReplay.drop 1 = l
    rw [hl, List.drop_one, List.tail_cons]
  · have hctl := logEntry_ctl (setCtl { s with cc := { s.cc with toReplay := s.cc.toReplay.drop 1 } } e.core
      { ctlCore s e.core with retired := e.count }) e
    show ((replayTake s e).cc.ctl[e.core]?.getD .blank).retired = _
    rw [replayTake, hctl]
    exact congrArg CtlCore.retired (ctlCore_setCtl_same _ _ h16)

/-! ### Rings (R352) -/

/-- ORDER and RBASE with which a ring cannot be on. -/
def ringIllegal (v : Word) (base : BitVec 64) : Bool :=
  v.toNat % 16 < 2 || v.toNat % 16 > 12 || base.toNat % 4096 != 0

theorem order_toNat (v : Word) : (v.extractLsb' 0 4).toNat = v.toNat % 16 := by simp [BitVec.extractLsb'_toNat]

theorem not_ringIllegal (v : Word) (base : BitVec 64) :
    (!ringIllegal v base) = (decide (2 ≤ v.toNat % 16 ∧ v.toNat % 16 ≤ 12) && base.toNat % 4096 == 0) := by
  rw [Bool.eq_iff_iff]
  simp [ringIllegal]
  omega

/-- A write of the control word of a ring that is off, with neither SKIP nor RESTART: it turns on with a legal ORDER and
RBASE. -/
theorem queueControl_enable {v : Word} {q : Queue} (h28 : v.getLsbD 28 = false) (h29 : v.getLsbD 29 = false)
    (hq : q.enable = false) : (queueControl v q).enable = (v.getLsbD 31 && !ringIllegal v q.rbase) := by
  have hc : ringControl q v = if v.getLsbD 31 && ringIllegal v q.rbase then none else
      some { q with enable := v.getLsbD 31, devq := v.getLsbD 30, order := v.extractLsb' 0 4 } := by
    simp only [ringControl, hq, order_toNat, Bool.false_and, Bool.false_eq_true, if_false]
    rfl
  rw [queueControl, hc]
  cases v.getLsbD 31 <;> cases ringIllegal v q.rbase <;>
    simp only [h28, h29, hq, Bool.and_true, Bool.and_false, Bool.not_true, Bool.not_false, Bool.false_eq_true, if_false, if_true]

theorem ringEnable_leaves {s : State} {n : Nat} {v : Word} (hr : s.cc.recovery = false) (hn : n < 64)
    (h28 : v.getLsbD 28 = false) (h29 : v.getLsbD 29 = false) (hq : (getQueue s n).enable = false) :
    Leaves (.ringEnable n v) s fun s' =>
      (getQueue s' n).enable =
        (v.getLsbD 31 && decide (2 ≤ v.toNat % 16 ∧ v.toNat % 16 ≤ 12) && (getQueue s n).rbase.toNat % 4096 == 0) ∧
      s'.mem = s.mem := by
  have he : exec (.ringEnable n v) s = .next (modQueue s n (queueControl v)) := by
    show execRingEnable n v s = _
    rw [execRingEnable, unlessRecovery_off hr]
  refine ⟨_, he, ?_, rfl⟩
  rw [getQueue_modQueue s _ hn, queueControl_enable h28 h29 hq, not_ringIllegal, Bool.and_assoc]

theorem ringRestart_halt (q : Queue) : (ringRestart q).halt = false := by
  unfold ringRestart
  split
  · rfl
  · next h => exact Bool.eq_false_iff.mpr h

theorem ringRestart_head (q : Queue) : (ringRestart q).head = q.head := by
  unfold ringRestart
  split <;> rfl

theorem ringRestart_leaves {s : State} {n : Nat} (hr : s.cc.recovery = false) (hn : n < 64) :
    Leaves (.ringRestart n) s fun s' =>
      (getQueue s' n).halt = false ∧ (getQueue s' n).head = (getQueue s n).head ∧ s'.mem = s.mem := by
  have he : exec (.ringRestart n) s = .next (modQueue s n ringRestart) := by
    show execRingRestart n s = _
    rw [execRingRestart, unlessRecovery_off hr]
  refine ⟨_, he, ?_, ?_, rfl⟩
  · rw [getQueue_modQueue s _ hn, ringRestart_halt]
  · rw [getQueue_modQueue s _ hn, ringRestart_head]

theorem ringSkip_leaves {s : State} {n : Nat} (hr : s.cc.recovery = false) (hn : n < 64) :
    Leaves (.ringSkip n) s fun s' =>
      (getQueue s' n).halt = false ∧ s'.mem = s.mem ∧
      (getQueue s' n).head.toNat =
        ((getQueue s n).head.toNat + 1) % 2 ^ ((getQueue s n).order.toNat + 4) % 65536 := by
  have he : exec (.ringSkip n) s = .next (modQueue s n ringSkip) := by
    show execRingSkip n s = _
    rw [execRingSkip, unlessRecovery_off hr]
  refine ⟨_, he, ?_, rfl, ?_⟩
  · rw [getQueue_modQueue s _ hn, ringSkip, ringRestart_halt]
  · rw [getQueue_modQueue s _ hn, ringSkip, ringRestart_head]
    show (BitVec.ofNat 16 (((getQueue s n).headAt + 1) % (getQueue s n).entries)).toNat = _
    rw [BitVec.toNat_ofNat, Queue.headAt, Nat.mod_add_mod]
    rfl

/-! ### The error ring (R355) -/

theorem keepCap_eq {n : Nat} (h : 16 * n + 16 ≤ 2 ^ 40) (s : State) (c : Cap) :
    keepCap s n c = retire (ctlPut s (16 * n) c.val) (ctlActor s) := by
  have ha : rootCap.allows .storeCap (16 * n) 16 = true := by
    simp only [Cap.allows, rootCap, Nat.zero_le, Nat.zero_add, h, decide_true, Bool.and_true]
    decide
  rw [keepCap, firmwareOp, ha, if_pos rfl]

/-- What keeping a capability writes: control-core memory with its tags, and the control cores' own state. -/
def KeepsCaps (s s' : State) : Prop :=
  s' = { s with cc := { s.cc with ctl := s'.cc.ctl, ctlMem := s'.cc.ctlMem, ctlTags := s'.cc.ctlTags } }

theorem KeepsCaps.trans {s s' s'' : State} (h : KeepsCaps s s') (g : KeepsCaps s' s'') : KeepsCaps s s'' := by
  unfold KeepsCaps at h g ⊢
  rw [g, h]

theorem keepsCaps_keepCap {n : Nat} (h : 16 * n + 16 ≤ 2 ^ 40) (s : State) (c : Cap) : KeepsCaps s (keepCap s n c) := by
  rw [keepCap_eq h]
  rfl

theorem errorRefused_eq (s : State) (v : Word) : errorRefused s v =
    (v.getLsbD 31 && (v.toNat % 16 < 2 || v.toNat % 16 > 12 || s.cc.ebase.toNat % 4096 != 0)) := by
  simp only [errorRefused, order_toNat]

theorem flushNotices_none {s : State} (h : s.cc.notices = []) : flushNotices s = s := by
  rw [flushNotices, h]
  exact congrArg (fun l => { s with cc := { s.cc with notices := l } }) h.symm

theorem errorRingEnable_leaves {s : State} {v : Word} (hr : s.cc.recovery = false) (hn : s.cc.notices = []) :
    Leaves (.errorRingEnable v) s fun s' =>
      s'.cc.eenable =
        (if v.getLsbD 31 && (v.toNat % 16 < 2 || v.toNat % 16 > 12 || s.cc.ebase.toNat % 4096 != 0) then s.cc.eenable
         else v.getLsbD 31) ∧
      s'.mem = s.mem := by
  have he : exec (.errorRingEnable v) s = .next (errorControl v s) := by
    show execErrorRingEnable v s = _
    rw [execErrorRingEnable, unlessRecovery_off hr]
  refine ⟨_, he, ?_⟩
  rw [← errorRefused_eq]
  unfold errorControl
  split
  · exact ⟨rfl, rfl⟩
  · dsimp only
    split
    · rw [flushNotices_none (by rw [keepsCaps_keepCap (by decide)]; exact hn), keepsCaps_keepCap (by decide)]
      exact ⟨rfl, rfl⟩
    · exact ⟨rfl, rfl⟩

/-! ### Snapshots, and the words of BAR0 and of the service table (R339, R350, R363) -/

theorem obsselWrite_leaves {s : State} {v : Word} (hr : s.cc.recovery = false) :
    Leaves (.obsselWrite v) s fun s' =>
      s'.cc.obs.pending = true ∧ s'.cc.obs.ready = false ∧ s'.cc.obs.core = v.setWidth 16 ∧ s'.mem = s.mem := by
  have he : exec (.obsselWrite v) s = .next (obsSelect v s) := by
    show execObsselWrite v s = _
    rw [execObsselWrite, unlessRecovery_off hr]
  exact ⟨_, he, rfl, rfl, (BitVec.setWidth_eq_extractLsb' (by decide)).symm, rfl⟩

theorem obsSnapshotReady_leaves {s : State} (h : obsReady s = true) (hp : presentCore s s.cc.obs.core.toNat = true) :
    Leaves .obsSnapshotReady s fun s' =>
      let k := getCore s s.cc.obs.core.toNat
      s'.cc.obs.ready = true ∧ s'.cc.obs.pending = false ∧ s'.mem = s.mem ∧
      s'.cc.obs.data = [k.nIssued, k.nMem, k.nMsg, k.nVacant, k.nIdled, k.rot] ++ k.hist.toList := by
  have he : exec .obsSnapshotReady s = execObsSnapshotReady s := rfl
  simp only [execObsSnapshotReady, h, hp, Bool.not_true, Bool.false_eq_true, if_false, if_true] at he
  exact ⟨_, he, rfl, rfl, rfl, rfl⟩

theorem not_barAligned {o n : Nat} (h : o % n ≠ 0) : barAligned o n = false := by
  simp [barAligned, h]

theorem registerWrite_misaligned {s : State} {u : RegUnit} {o n : Nat} {v : BitVec 64} (h : o % n ≠ 0) :
    exec (.registerWrite ⟨u, o⟩ n v) s = .next s := by
  show execRegisterWrite ⟨u, o⟩ n v s = _
  have h4 : ¬(o = 4 ∧ n = 4) := fun ⟨ho, hn⟩ => h (by rw [ho, hn])
  have hreg : (decide (u = .replay) && decide (o = 4) && decide (n = 4)) = false := by
    rw [Bool.and_assoc, ← Bool.decide_and, decide_eq_false h4, Bool.and_false]
  simp only [execRegisterWrite, hreg, Bool.false_eq_true, if_false, unlessRecovery, writeUnit, not_barAligned h,
    Bool.not_false, if_true, ite_self]

/-- A word that is written to a unit's register, misaligned in no case. -/
theorem registerWrite_word {s : State} {u : RegUnit} {o : Nat} {v : BitVec 64} (hr : s.cc.recovery = false)
    (hu : u ≠ .replay) (ho : barAligned o 4 = true) (h108 : o ≠ 0x108) :
    exec (.registerWrite ⟨u, o⟩ 4 v) s = .next (unitWord s u o (v.extractLsb' 0 32)) := by
  show execRegisterWrite ⟨u, o⟩ 4 v s = _
  simp only [execRegisterWrite, hu, decide_false, Bool.false_and, Bool.false_eq_true, if_false, unlessRecovery_off hr,
    writeUnit, ho, Bool.not_true, h108, Bool.and_false, if_true]

theorem retryWritten {s : State} {v : BitVec 64} (hr : s.cc.recovery = false) :
    exec (.registerWrite ⟨.bar0, 8⟩ 4 v) s = .next { s with cc := { s.cc with retry := v.getLsbD 0 } } := by
  rw [registerWrite_word hr (by decide) (by decide) (by decide)]
  simp [unitWord, barWord]

theorem dropsCleared {s : State} {e : Nat} {v : BitVec 64} (hr : s.cc.recovery = false) (he : e < 256) :
    Leaves (.registerWrite ⟨.service e, 0x1C⟩ 4 v) s fun s' =>
      (serviceAt s' e).drops = (serviceAt s e).drops &&& ~~~ v.setWidth 32 := by
  refine ⟨_, registerWrite_word hr RegUnit.noConfusion (by decide) (by decide), ?_⟩
  rw [unitWord, if_pos he]
  simp [serviceAt, setService, serviceWord, BitVec.setWidth_eq_extractLsb']

theorem hostRead_misaligned {s : State} {o n : Nat} (h : o % n ≠ 0) :
    exec (.hostRead .bar0 o n) s = .next { s with cc := { s.cc with answers := s.cc.answers ++ [none] } } := by
  show execHostRead .bar0 o n s = _
  simp only [execHostRead, readBar, not_barAligned h, Bool.not_false, Bool.true_or, if_true]
  rfl

theorem hostRead_elost {s : State} (hr : s.cc.recovery = false) :
    exec (.hostRead .bar0 0x114 4) s =
      .next { s with cc := { s.cc with
        answers := s.cc.answers ++ [some ((List.range 4).map fun j => s.cc.elost.extractLsb' (8 * j) 8)] } } := by
  show execHostRead .bar0 0x114 4 s = _
  have hno : (!barAligned 0x114 4 || (s.cc.recovery && !(decide (0x114 = 0) && decide (4 = 4)))) = false := by
    rw [hr]
    rfl
  have hw : obsWaits s 0x114 = false := by simp [obsWaits]
  have hv : wordsBytes ((List.range (4 / 4)).map fun j => barRead s (0x114 + 4 * j)) =
      (List.range 4).map fun j => s.cc.elost.extractLsb' (8 * j) 8 := by
    simp [wordsBytes, barRead]
  rw [execHostRead]
  dsimp only
  rw [readBar, hno, hw, if_neg Bool.false_ne_true, if_neg Bool.false_ne_true, hv]
  rfl

theorem hostRegisters : Claim.HostRegisters :=
  ⟨fun _ _ _ hr hn => ⟨doorbell_leaves hr hn, doorbell_inReplay hr, fun _ _ _ hf hl hw => doorbell_replayed hr hn hf hl hw⟩,
    fun _ _ _ hr hn h28 h29 hq => ringEnable_leaves hr hn h28 h29 hq,
    fun _ _ hr hn => ⟨ringRestart_leaves hr hn, ringSkip_leaves hr hn⟩,
    fun _ _ hr hn => errorRingEnable_leaves hr hn, fun _ _ hr => obsselWrite_leaves hr,
    fun _ h hp => obsSnapshotReady_leaves h hp,
    fun _ _ _ _ _ _ hr => ⟨retryWritten hr, dropsCleared hr, registerWrite_misaligned, hostRead_misaligned,
      hostRead_elost hr⟩⟩

end Sys2Proof.Machine

/-! Records and frames that come in (the third part of O59; R339, R340, R353, R367). -/

namespace Sys2Proof.Machine

/-! ### What an enqueue changes -/

/-- From `s` to `s'` the front end's books have changed and the host has been asked for lines, and nothing else. -/
def KeepsFront (s s' : State) : Prop :=
  s' = { s with front := s'.front, cc := { s.cc with snoop := s'.cc.snoop, sent := s'.cc.sent } }

theorem KeepsFront.trans {s s' s'' : State} (h : KeepsFront s s') (g : KeepsFront s' s'') : KeepsFront s s'' := by
  unfold KeepsFront at h g ⊢
  rw [g, h]

theorem KeepsFront.control {α : Type} {s s' : State} (h : KeepsFront s s') {g : Control → α}
    (hg : ∀ c y z, g { c with snoop := y, sent := z } = g c) : g s'.cc = g s.cc :=
  (congrArg (fun s : State => g s.cc) h).trans (hg s.cc _ _)

theorem TakesLines.keepsFront {s s' : State} (h : TakesLines s s') : KeepsFront s s' := by
  unfold KeepsFront
  rw [h]

theorem TakesLines.foldl {α : Type} {f : State → α → State} (h : ∀ s a, TakesLines s (f s a)) (l : List α) (s : State) :
    TakesLines s (l.foldl f s) := by
  induction l generalizing s with
  | nil => exact rfl
  | cons a l ih => exact (h s a).trans (ih _)

theorem takesLines_frontTouch (s : State) (asn va n : Nat) : TakesLines s (frontTouch s asn va n) := by
  unfold frontTouch
  refine .foldl (fun s p => ?_) _ s
  split
  · exact rfl
  · exact takesLines_takeBack ..

theorem takesLines_headTouched (s : State) (asn : Nat) (r : Rec) : TakesLines s (headTouched s asn r) := by
  have h : ∀ (b : Prop) [Decidable b] (u : State) (va n : Nat), TakesLines u (if b then u else frontTouch u asn va n) :=
    fun b _ u va n => by
      split
      · exact rfl
      · exact takesLines_frontTouch ..
  exact (h _ s _ _).trans (h _ _ _ _)

theorem keepsFront_headArrives (s : State) (q : Nat) : KeepsFront s (headArrives s q) := by
  unfold headArrives
  split
  · exact rfl
  · rename_i r _ _
    exact KeepsFront.trans (takesLines_headTouched s (getQueue s q).asn.toNat r).keepsFront rfl

/-- A queue that has a place on chip takes the record. -/
theorem enqueue_taken {s : State} {n : Nat} (r : Rec) (hn : n < 64) (hh : (getQueue s n).halt = false)
    (hl : (getQueue s n).recs.length < 32) (ho : (getQueue s n).ovCount = 0) :
    ∃ u x w, enqueue s n r = .taken u ∧ KeepsFront s u ∧
      getQueue u n = { getQueue s n with recs := (getQueue s n).recs ++ [r], checked := x, waits := w } := by
  set s1 := setQueue s n { getQueue s n with recs := (getQueue s n).recs ++ [r] } with hs1
  have he : enqueue s n r = .taken (if (getQueue s n).recs.isEmpty then headArrives s1 n else s1) := by
    simp only [enqueue, hh, hl, ho, Bool.false_eq_true, if_false, decide_true, Bool.and_self, if_true, hs1]
  have hq : getQueue s1 n = { getQueue s n with recs := (getQueue s n).recs ++ [r] } := getQueue_setQueue s _ hn
  split at he
  · obtain ⟨x, w, hf⟩ := headArrives_front s1 n
    refine ⟨_, x, w, he, KeepsFront.trans (s' := s1) rfl (keepsFront_headArrives s1 n), ?_⟩
    rw [getQueue_congr hf, getQueue_setQueue _ _ hn, hq]
  · exact ⟨_, (getQueue s n).checked, (getQueue s n).waits, he, rfl, hq⟩

/-! ### RING_RECORD_TAKE (R339, R353) -/

theorem hostCap_load (base len a n : Nat) : (hostCap base len).allows .load a n = inside a n base len := by
  have hp : CapUse.load.perms.all (hostCap base len).perms.getLsbD = true := by
    simp [CapUse.perms, hostCap]
  have h2 : (hostCap base len).perms.getLsbD 2 = false := by
    simp [hostCap]
  rw [Cap.allows, hp, h2]
  rfl

/-- The place of the record at HEAD, which always lies in the ring. -/
theorem busLoad_record (s : State) (q : Queue) :
    busLoad s q.ringCap (q.rbase.toNat + 64 * q.headAt) 64 = some (loadNat s (busPlace s (q.rbase.toNat + 64 * q.headAt)) 64) := by
  have hh : q.headAt < q.entries := Nat.mod_lt _ (Nat.two_pow_pos _)
  have hi : inside (q.rbase.toNat + 64 * q.headAt) 64 q.rbase.toNat (64 * q.entries) = true := by
    simp only [inside, Bool.and_eq_true, decide_eq_true_eq]
    omega
  rw [busLoad, Queue.ringCap, hostCap_load, hi, if_pos rfl]

/-- The record at HEAD. -/
def ringRecord (s : State) (q : Queue) : Nat := loadNat s (busPlace s (q.rbase.toNat + 64 * q.headAt)) 64

theorem recordDesc_good {s : State} {q : Queue} (h96 : ringRecord s q / 2 ^ 96 = 0) (h64 : ringRecord s q % 64 = 0)
    (hw : inside (ringRecord s q % 2 ^ 64) 128 q.wbase.toNat q.wlen.toNat = true)
    (hr : ∀ p ∈ descRanges (loadNat s (busPlace s (ringRecord s q % 2 ^ 64)) 128),
      inside p.1 p.2 q.ubase.toNat q.ulen.toNat = true) :
    recordDesc s q = .ok (loadNat s (busPlace s (ringRecord s q % 2 ^ 64)) 128) := by
  have ha : ringRecord s q % 2 ^ 64 % 64 = 0 := by omega
  have hf : (descRanges (loadNat s (busPlace s (ringRecord s q % 2 ^ 64)) 128)).find?
      (fun p => !inside p.1 p.2 q.ubase.toNat q.ulen.toNat) = none := by
    rw [List.find?_eq_none]
    intro p hp
    rw [hr p hp]
    decide
  unfold recordDesc
  simp only [busLoad_record, Option.getD_some]
  rw [← ringRecord, h96, ha, busLoad, Queue.window, hostCap_load, hw]
  simp only [bne_self_eq_false, Bool.or_self, Bool.false_eq_true, if_false, if_true, hf]

theorem recordDesc_outside {s : State} {q : Queue}
    (hw : inside (ringRecord s q % 2 ^ 64) 128 q.wbase.toNat q.wlen.toNat = false) :
    recordDesc s q = .error (ringRecord s q % 2 ^ 64) := by
  unfold recordDesc
  simp only [busLoad_record, Option.getD_some]
  rw [← ringRecord, busLoad, Queue.window, hostCap_load, hw]
  simp only [Bool.false_eq_true, if_false, ite_self]

/-- The state in which the control complex has read a record: its lines are the device's, and the firmware keeps its
capabilities to the window and to the ring. -/
def recordRead (s : State) (n : Nat) : State :=
  keepCap (keepCap (touchRecord s (getQueue s n)) n (getQueue s n).window) (64 + n) (getQueue s n).ringCap

theorem exec_ringRecordTake {s : State} {n : Nat} (hr : ringReady s n = true) (hh : (getQueue s n).hand = none) :
    exec (.ringRecordTake n) s = .next (match recordDesc s (getQueue s n) with
      | .error v => capFault (recordRead s n) n v
      | .ok d => placeHand (recordRead s n) n d) := by
  show execRingRecordTake n s = _
  simp only [execRingRecordTake, hr, hh, Bool.not_true, Bool.false_eq_true, if_false]
  rfl

theorem recordRead_keeps {s : State} {n : Nat} (hn : n < 64) :
    (recordRead s n).mem = s.mem ∧ (recordRead s n).front = s.front := by
  have ht : TakesLines s (touchRecord s (getQueue s n)) := (takesLines_takeBack ..).trans (takesLines_takeBack ..)
  have hk : KeepsCaps (touchRecord s (getQueue s n)) (recordRead s n) :=
    (keepsCaps_keepCap (by omega) _ _).trans (keepsCaps_keepCap (by omega) _ _)
  rw [hk, ht]
  exact ⟨rfl, rfl⟩

theorem halt_of_ringReady {s : State} {n : Nat} (h : ringReady s n = true) : (getQueue s n).halt = false := by
  rw [ringReady, Bool.and_eq_true, Bool.not_eq_true'] at h
  exact h.1

theorem recordTaken {s : State} {n : Nat} (hn : n < 64) (hr : ringReady s n = true) (hh : (getQueue s n).hand = none)
    {d : Nat} (hd : recordDesc s (getQueue s n) = .ok d) (hl : (getQueue s n).recs.length < 32)
    (ho : (getQueue s n).ovCount = 0) :
    Leaves (.ringRecordTake n) s fun s' =>
      (getQueue s' n).recs = (getQueue s n).recs ++ [⟨d, none⟩] ∧ s'.mem = s.mem ∧
      (getQueue s' n).head = BitVec.ofNat 16 (((getQueue s n).headAt + 1) % (getQueue s n).entries) := by
  obtain ⟨hm, hf⟩ := recordRead_keeps (s := s) hn
  have hq := getQueue_congr hf n
  obtain ⟨u, x, w, he, hu, hqu⟩ := enqueue_taken (s := recordRead s n) ⟨d, none⟩ hn (hq ▸ halt_of_ringReady hr) (hq ▸ hl)
    (hq ▸ ho)
  have hx := exec_ringRecordTake hr hh
  rw [hd] at hx
  simp only [placeHand, he] at hx
  refine ⟨_, hx, ?_, ?_, ?_⟩
  · rw [getQueue_setQueue _ _ hn, hqu, hq]
    rfl
  · exact (congrArg State.mem hu :).trans hm
  · rw [getQueue_setQueue _ _ hn, hqu, hq]
    rfl

theorem recordHalts {s : State} {n : Nat} (hn : n < 64) (hr : ringReady s n = true) (hh : (getQueue s n).hand = none)
    {v : Nat} (hd : recordDesc s (getQueue s n) = .error v) :
    Leaves (.ringRecordTake n) s fun s' =>
      (getQueue s' n).recs = (getQueue s n).recs ∧ (getQueue s' n).head = (getQueue s n).head ∧
        (getQueue s' n).halt = true ∧ (getQueue s' n).capf = true := by
  have hx := exec_ringRecordTake hr hh
  rw [hd] at hx
  refine ⟨capFault (recordRead s n) n v, hx, ?_⟩
  have hq := getQueue_congr (recordRead_keeps (s := s) hn).2 n
  have hc : getQueue (capFault (recordRead s n) n v) n = { getQueue s n with halt := true, capf := true } := by
    rw [capFault, (takesNotes_errReport ..).getQueue]
    exact (getQueue_setQueue (recordRead s n) _ hn).trans (by rw [hq])
  beta_reduce
  rw [hc]
  exact ⟨rfl, rfl, rfl, rfl⟩

/-! ### NETWORK_FRAME (R340, R367) -/

theorem keepsCaps_keepFrame (s : State) (n len v : Nat) : KeepsCaps s (keepFrame s n len v) := by
  have hp : CapUse.store.perms.all frameCap.perms.getLsbD = true := by decide
  have h2 : frameCap.perms.getLsbD 2 = false := by decide
  have ha : frameCap.allows .store (2 ^ 20 + n % 16 * 2 ^ 14) (min len (2 ^ 14)) = true := by
    rw [Cap.allows, hp, h2]
    simp only [frameCap, Bool.not_false, Bool.and_self, Bool.true_and, Bool.and_eq_true]
    exact ⟨decide_eq_true (by omega), decide_eq_true (by omega)⟩
  rw [keepFrame, firmwareOp, ha, if_pos rfl]
  exact rfl

/-- What changes neither memory nor the log goes before a logged input. -/
theorem loggedIn_from {s s0 s1 s' : State} {x : Logged} (h : LoggedIn s1 s1 s' x) (hm : s1.mem = s0.mem)
    (hr : s1.cc.replay = s.cc.replay) (hp : logPlace s1 = logPlace s) : LoggedIn s s0 s' x := by
  obtain ⟨e, he, hl, hs⟩ := h
  exact ⟨e, he, hl.trans (by rw [hr]), hs.trans ((storeNat_mem_congr hm ..).trans (by rw [hp]))⟩

/-- The payload in its buffer, and the template read. -/
def payloadIn (s : State) (v : Service) (ps : List Place) (bs : List Byte) : State :=
  frontTouch (writePayload s ps bs) 0 v.descva.toNat 128

theorem stored_writePayload (s : State) (ps : List Place) (bs : List Byte) : Stored s (writePayload s ps bs) :=
  .foldl (fun s _ => stored_overLine s _ _ _ _) _ s

theorem payloadIn_mem (s : State) (v : Service) (ps : List Place) (bs : List Byte) :
    (payloadIn s v ps bs).mem = (writePayload s ps bs).mem := by
  rw [payloadIn, takesLines_frontTouch]

theorem stored_payloadIn (s : State) (v : Service) (ps : List Place) (bs : List Byte) : Stored s (payloadIn s v ps bs) := by
  refine (stored_writePayload s ps bs).trans ?_
  unfold Stored payloadIn
  rw [takesLines_frontTouch (writePayload s ps bs) 0 v.descva.toNat 128]

section
variable {s : State} {f : Frame} (hw : Works s) (hl : s.cc.toReplay = [])
include hw hl

theorem exec_networkFrame : exec (.networkFrame f) s = .next (match s.cc.services.find? fun e => serviceMatches e.2 f with
    | some (e, v) => serveFrame s e v f
    | none => logInput (inboundFrame f s) (.frame f)) := by
  show execNetworkFrame f s = _
  rw [execNetworkFrame, whileWorking_works hw]
  simp only [takeFrame, inReplay, hl, List.isEmpty_nil, Bool.not_true, Bool.false_eq_true, if_false] <;> rfl

theorem frameToControl (h : ∀ e ∈ s.cc.services, serviceMatches e.2 f = false) :
    Leaves (.networkFrame f) s fun s' => s'.cc.inbound = s.cc.inbound ++ [f] ∧ LoggedIn s s s' (.frame f) := by
  have hx := exec_networkFrame (f := f) hw hl
  rw [List.find?_eq_none.mpr fun e he => by rw [h e he]; decide] at hx
  have hk := keepsCaps_keepFrame s s.cc.inbound.length f.payload.length (bytesVal f.payload)
  have hi : inboundFrame f s = { keepFrame s s.cc.inbound.length f.payload.length (bytesVal f.payload) with
      cc := { (keepFrame s s.cc.inbound.length f.payload.length (bytesVal f.payload)).cc with
        inbound := s.cc.inbound ++ [f] } } := rfl
  rw [hk] at hi
  refine ⟨_, hx, (takesNotes_logInput (inboundFrame f s) (.frame f)).keeps (·.cc.inbound) fun _ _ => rfl, ?_⟩
  refine loggedIn_from (loggedIn_logInput (s := inboundFrame f s) ?_ (.frame f)) ?_ ?_ ?_
  · rw [hi]
    exact hl
  · rw [hi]
  · rw [hi]
  · rw [hi]
    rfl

theorem frameDropped {e : Nat} {v : Service} (h : s.cc.services.find? (fun e => serviceMatches e.2 f) = some (e, v))
    (hn : freeBufferNo v = none) :
    Leaves (.networkFrame f) s fun s' =>
      smGet s'.cc.services e = some { v with drops := satAdd v.drops 1 } ∧ s'.mem = s.mem := by
  have hx := exec_networkFrame (f := f) hw hl
  rw [h] at hx
  simp only [serveFrame, hn] at hx
  exact ⟨_, hx, smGet_smSet_same .., rfl⟩

theorem frameServed {e : Nat} {v : Service} (h : s.cc.services.find? (fun e => serviceMatches e.2 f) = some (e, v))
    {k : Nat} {ps : List Place} {ws : List Word} (hk : freeBufferNo v = some k) (hlen : f.payload.length ≤ v.bufsz.toNat)
    (hps : bufferPlaces s (v.pool.toNat + k * v.bufsz.toNat) f.payload.length = some ps)
    (hws : frontWords s 0 v.descva.toNat 128 = some ws) (hn : v.queue.toNat < 64)
    (hh : (getQueue s v.queue.toNat).halt = false) (hr : (getQueue s v.queue.toNat).recs.length < 32)
    (ho : (getQueue s v.queue.toNat).ovCount = 0) :
    Leaves (.networkFrame f) s fun s' =>
      (getQueue s' v.queue.toNat).recs =
        (getQueue s v.queue.toNat).recs ++ [⟨serviceDesc v e k f (wordsNat ws), some (e, k)⟩] ∧
      smGet s'.cc.services e = some { v with used := v.used ++ [k] } ∧
      LoggedIn s (writePayload s ps f.payload) s' (.service v.queue.toNat e k (serviceDesc v e k f (wordsNat ws))) := by
  set d := serviceDesc v e k f (wordsNat ws) with hd
  set s1 := payloadIn s v ps f.payload with hs1
  have hs := stored_payloadIn s v ps f.payload
  have hq : getQueue s1 v.queue.toNat = getQueue s v.queue.toNat := hs.keeps (getQueue · v.queue.toNat) fun _ _ _ _ _ _ => rfl
  obtain ⟨u, x, w, he, hu, hqu⟩ := enqueue_taken (s := s1) ⟨d, some (e, k)⟩ hn (hq ▸ hh) (hq ▸ hr) (hq ▸ ho)
  set u' := setService u e { v with used := v.used ++ [k] } with hu'
  have hx : exec (.networkFrame f) s = .next (logInput u' (.service v.queue.toNat e k d)) := by
    rw [exec_networkFrame hw hl, h]
    simp only [serveFrame, hk, Nat.not_lt.mpr hlen, if_false, hps, hws]
    rw [← payloadIn, ← hs1, ← hd, he]
  have hnote := takesNotes_logInput u' (.service v.queue.toNat e k d)
  have hcc {α : Type} (g : Control → α) (hg : ∀ c y z l, g { c with snoop := y, sent := z, services := l } = g c) :
      g u'.cc = g s.cc := by
    have hg2 (c : Control) (y : List Nat) (z : List Sent) : g { c with snoop := y, sent := z } = g c := hg c y z c.services
    calc g u'.cc = g u.cc := hg u.cc u.cc.snoop u.cc.sent _
      _ = g s1.cc := hu.control hg2
      _ = g s.cc := hs.keeps (fun s => g s.cc) fun s _ _ _ _ _ => hg2 s.cc _ _
  refine ⟨_, hx, ?_, ?_, loggedIn_from (loggedIn_logInput (s := u') ?_ _) ?_ ?_ ?_⟩
  · rw [hnote.getQueue]
    exact (congrArg Queue.recs hqu).trans (by rw [hq])
  · exact (hnote.keeps (smGet ·.cc.services e) fun _ _ => rfl).trans (smGet_smSet_same ..)
  · exact (hcc (·.toReplay) fun _ _ _ _ => rfl).trans hl
  · exact (congrArg State.mem hu :).trans (payloadIn_mem ..)
  · exact hcc (·.replay) fun _ _ _ _ => rfl
  · exact congrArg₂ (fun d l => Place.hbm d (Config.replayArea % 2 ^ 24 * 4096 + l % 2 ^ 30))
      (hcc (fun c => ((List.range 4).find? c.dies.getLsbD).getD 0) fun _ _ _ _ => rfl) (hcc (·.logged) fun _ _ _ _ => rfl)

end

theorem recordsComeIn : Claim.RecordsComeIn :=
  ⟨fun _ _ hn hr hh => ⟨fun h96 h64 hw hu hl ho => recordTaken hn hr hh (recordDesc_good h96 h64 hw hu) hl ho,
      fun hw => recordHalts hn hr hh (recordDesc_outside hw)⟩,
    fun _ _ hw hl => ⟨frameToControl hw hl, fun _ _ h => ⟨frameDropped hw hl h,
      fun _ _ _ hk hlen hps hws hn hh hr ho => frameServed hw hl h hk hlen hps hws hn hh hr ho⟩⟩⟩

/-- Settles O59: a request from outside by its pieces at a bank where nothing else is under way, a register by the equation of
its write, and a record or a frame by what its queue takes; beside these only lines are taken back and notes written. -/
theorem hostEvents : Obligations.HostEvents := ⟨outsideAccesses, hostRegisters, recordsComeIn⟩

end Sys2Proof.Machine
